-- ==== Sys2Proof/Word.lean ====
section
/-! DEFINITION. The word types: bits numbered from the least significant (R13). -/

namespace Sys2Proof

/-- A register of the SVT-24 is 64 bits wide (R13, R444). -/
abbrev Word := BitVec 64

/-- One byte of module memory (R13). -/
abbrev Byte := BitVec 8

/-- A 512-byte Ilpel command read as one little-endian value (R334). -/
abbrev CmdBits := BitVec 4096

end Sys2Proof
end

