-- ==== Sys2Proof/Syntax.lean ====
section
/-! DEFINITION. The commands the module takes from outside and from its own timers: one constructor of
Instr per row of spec/opcode_table.json. The table gives no operands, so each constructor carries the
operands that the row's rule needs. Numbering of the operands:
cluster 0–47 (12n + k for local cluster k of CDn, R451), core = 8 × cluster + core (0–383),
engine = 4 × core + engine (0–1535), chan = 32 × stack + channel (0–255), port 0–15, course 0–7,
ring 0–63, page 0–611 (Table REG-7), reg = register offset ÷ 8, cmd = the number that dispatch gave an
unfinished command. The eccs of a read or a read-modify-write are what the checks of its 64-byte accesses find,
lowest access first; an access past their end is clean. Those of nmuSwitchInEnd are the errors that the unit's
reads meet in that slot, by module address ÷ 64. A t operand is the timebase reading, in ns, at which a timed row comes about. -/

namespace Sys2Proof

/-- Who makes a register or memory access (R327, R445): the host through BAR0 or BAR2, or a hub core. -/
inductive Requester where
  | host
  | hub (core : Nat)
deriving DecidableEq, Repr

/-- What the code check of one 64-byte HBM access finds (R173). -/
inductive Ecc where
  | clean
  | corrected (symbol : Nat)
  | uncorrectable
deriving DecidableEq, Repr

/-- What the SEC-DED check of an on-die SRAM word finds, with the domain that holds it (R403). -/
inductive SramErr where
  | clean
  | single
  | doubleCore (core : Nat)
  | doubleCluster
deriving DecidableEq, Repr

/-- A host access to the MSI-X table or pending bit array, by BAR0 offset and size in bytes (R450). -/
inductive MsixAccess where
  | read (off size : Nat)
  | write (off size : Nat) (val : Word)
deriving DecidableEq, Repr

/-- The walk token of R282: the count and what each member must agree on, with the IDs it has met.
`back` marks a token on its way back with the head's verdict (UP when `ok`). -/
structure WalkTok where
  count : Nat
  tag : Nat
  kind : Nat
  size : Nat
  ids : List Nat
  back : Bool
  ok : Bool
  fallback : Bool
  /-- The states of shard entries that the members before this one reported: shard, module ID, state
  (0 STABLE, 1 OUT, 2 IN), and the owner or peer the entry names (R302). -/
  shards : List (Nat × Nat × Nat × Nat)
deriving DecidableEq, Repr

/-- One DVSEC and training report of the die at the open site (R315–R317, Table PKG-5). -/
structure OpenDie where
  present : Bool
  /-- GT/s trained by module 0–3, 0 when the module did not train at full width. -/
  rates : List Nat
  abi : Nat
  maxPower : Nat
  capacity : Nat
  dvsecVid : Nat
  dieVid : Nat
  dieDid : Nat
  /-- The SHA-384 measurement over SPDM, and whether the range test of step 4 passed. -/
  measurement : BitVec 384
  rangeOk : Bool
deriving DecidableEq, Repr

/-- A message from the die at the open site (R320). -/
inductive OpenMsg where
  | response (module req : Nat) (data : List Byte) (poisoned : Bool)
  | other (module : Nat)
deriving DecidableEq, Repr

/-- A firmware image as the flash holds it (R426): header fields, whether its signature verifies under
the fused key, and the SHA-384 digest of the image. -/
structure FwImage where
  svn : Nat
  commit : Bool
  signed : Bool
  digest : BitVec 384
deriving DecidableEq, Repr

/-- What self-test or training found failing (R181, R430). -/
inductive TestFail where
  | core (core : Nat)
  | cluster (cluster : Nat)
  | chanLanes (chan lanes : Nat)
  | chanTest (chan : Nat)
  | link (link : Nat)
  | package (pkg : Nat)
  | die (die : Nat)
  | stack (stack : Nat)
  | hub
deriving DecidableEq, Repr

/-- What Xanna 0x0040 returns to service (Table SEC-11, R404). -/
inductive Unit40 where
  | channel (chan : Nat)
  | lane (chan : Nat)
  | wavelength (port wl : Nat)
  | port (port : Nat)
  | link (link : Nat)
  | package (pkg : Nat)
  | core (core : Nat)
  | cluster (cluster : Nat)
deriving DecidableEq, Repr

/-- A setting of Xanna 0x0030 (Table SEC-11): host page access (0 read and write, 1 read only, 2 neither;
R329), the partition of a window (R330), the hold-off in ms (R350). -/
inductive HostSetting where
  | access (part mode : Nat)
  | window (w part : Nat)
  | holdoff (ms : Nat)
deriving DecidableEq, Repr

/-- A setting of Xanna 0x0031 (Table SEC-11): module ID (R280), time source (R304), open-site owner
(R318). -/
inductive ModuleSetting where
  | moduleId (id : Nat)
  | timeSource (src : Nat)
  | openOwner (part : Nat)
deriving DecidableEq, Repr

/-- The commands: one constructor per row of spec/opcode_table.json, in the table's order. -/
inductive Instr where
  -- Registers and the guard tables (R58, R67, R327, R444–R450)
  | registerWrite (who : Requester) (page reg : Nat) (val : Word) (hw : Option Word)
  | blkIrqEnWrite (who : Requester) (page : Nat) (val evt : Word)
  | blkIrqStatClear (who : Requester) (page : Nat) (val evt : Word)
  | msixTableAccess (acc : MsixAccess)
  | bar0MissizedAccess (write : Bool) (off size : Nat)
  | qgSeedWrite (who : Requester) (page : Nat) (val : Word)
  | qgKeyClear (who : Requester) (page : Nat) (val : Word)
  | guardConfigWrite (core off : Nat) (data : List Byte)
  | stepBegin (ring : Nat) (clash : Option Word)
  | guardHistoryPush (part : Nat)
  | tileAudit (core : Nat)
  -- Matrix work (R69–R132, R338)
  | matmul (ring : Nat)
  | fusedCommand (ring : Nat)
  | commandAdmission (cmd : Nat)
  | tileEmit (cmd : Nat)
  | tileSteal (src dst : Nat)
  | rampUpEnd (eng : Nat)
  | sweepEnd (eng quad : Nat)
  | rampDownEnd (eng : Nat)
  | blockDrainEnd (eng quad : Nat)
  | blockConversionEnd (eng quad : Nat)
  | epilogueBlock (cmd eng : Nat)
  | quantBlock (cmd eng : Nat)
  | storeBlock (cmd : Nat)
  | bndMcastWrite (who : Requester) (page reg : Nat) (val : Word)
  -- Hods (R114–R143, R341)
  | run (ring : Nat)
  | runPersist (ring : Nat)
  | rearm (ring : Nat)
  | rearmApply (handle : Nat)
  | release (ring : Nat)
  | persistentStreamRelease (handle : Nat)
  | hodRequestIssue (cmd stream : Nat)
  | hodReadLanding (req : Nat) (sram : SramErr)
  | hodWriteAck (req : Nat)
  | hodCompatWrite (who : Requester) (page : Nat) (val : Word)
  | sentinelExpiry (cluster t : Nat) (progress : Bool)
  -- Contexts and synchronisation (R144–R165)
  | contextSwitch (core : Nat)
  | contextSwitchEnd (core : Nat)
  | semInit (ring : Nat)
  | semAcquire (ring : Nat)
  | semTry (ring : Nat)
  | semRelease (ring : Nat)
  | semClearPoison (ring : Nat)
  | ctrInit (ring : Nat)
  | ctrClaim (ring : Nat)
  | ctrUnclaim (ring : Nat)
  | ctrPost (ring : Nat)
  | ctrTake (ring : Nat)
  | lintel (ring : Nat)
  | retire (ring : Nat)
  | lintelComplete (part t : Nat)
  | lintelTimeout (part t : Nat)
  | pointingPeriodExpiry (cluster t : Nat)
  | pointingBarrier (cluster t : Nat)
  -- The HBM system (R166–R192)
  | hbmWideRead (req : Nat) (eccs : List Ecc)
  | hbmWideWrite (req : Nat)
  | hbmNarrowRead (req : Nat) (eccs : List Ecc)
  | hbmNarrowWrite (req : Nat) (eccs : List Ecc)
  | addWrite (req : Nat) (eccs : List Ecc)
  | rowRemapEnd (chan bank row : Nat) (bad : List Nat)
  | scrubRead (chan off : Nat) (ecc : Ecc)
  | remapFlashCopy (chan : Nat)
  | channelMoveEnd (chan : Nat)
  | hbmThermalSample (stack : Nat) (readings : List Nat) (t : Nat)
  | pacingWindow (chan t : Nat)
  -- Near-memory units (R193–R235)
  | add (ring : Nat)
  | mul (ring : Nat)
  | fma (ring : Nat)
  | affine (ring : Nat)
  | div (ring : Nat)
  | max (ring : Nat)
  | min (ring : Nat)
  | rsqrt (ring : Nat)
  | exp (ring : Nat)
  | gelu (ring : Nat)
  | silu (ring : Nat)
  | rmsnorm (ring : Nat)
  | layernorm (ring : Nat)
  | softmax (ring : Nat)
  | quant (ring : Nat)
  | dequant (ring : Nat)
  | adamw (ring : Nat)
  | lion (ring : Nat)
  | sgdm (ring : Nat)
  | plumb (ring : Nat)
  | fence (ring : Nat)
  | nmuSlotGrant (chan t : Nat)
  | nmuSwitchInEnd (chan t budget : Nat) (eccs : List (Nat × Ecc))
  | nmuSlotEnd (chan t : Nat)
  | nmuSwitchOutEnd (chan t : Nat)
  | nmuGrantTimeout (cmd t : Nat)
  | nmuFenceComplete (cmd : Nat)
  | granuleCommit (chan : Nat)
  -- The step ledger (R237–R242)
  | mode (ring : Nat)
  | input (ring : Nat)
  | trnLedgerCtlWrite (who : Requester) (page : Nat) (val : Word)
  -- The capacity tier (R248–R274)
  | fetch (ring : Nat)
  | flush (ring : Nat)
  | evict (ring : Nat)
  | drop (ring : Nat)
  | alloc (ring : Nat)
  | bind (ring : Nat)
  | slabFetch (part : Nat)
  | slabReady (part slab : Nat) (rejects : List (Nat × Bool × Nat))
  | readyTimeout (cmd t : Nat)
  | writebackDone (part slab : Nat)
  -- The Narar fabric (R275–R307)
  | flitReceive (port wl : Nat) (flit : BitVec 2048)
  | wavelengthLockLoss (port wl : Nat)
  | departedNotice (port : Nat)
  | peerLockLoss (port t : Nat)
  | courseEnable (who : Requester) (course : Nat) (val : Word)
  | courseDisable (who : Requester) (course : Nat) (val : Word) (fallbackSize : Option Nat)
  | walkToken (course : Nat) (tok : WalkTok)
  | walkTimeout (course t : Nat)
  | reduceScatter (ring : Nat)
  | allGather (ring : Nat)
  | allReduce (ring : Nat)
  | broadcast (ring : Nat)
  | permute (ring : Nat)
  | reshard (ring : Nat)
  | collTimeout (cmd t : Nat)
  | abandon (course cseq : Nat)
  | copied (course shard : Nat)
  | flip (course shard owner epoch : Nat)
  | narShardWrite (who : Requester) (page : Nat) (val : Word) (commit : Option (Nat × Nat))
  | timingFlit (course time delay : Nat)
  | timeLost (t : Nat)
  -- Links and the open site (R308–R322)
  | linkFrameReceive (link : Nat) (good : Bool) (t : Nat)
  | linkLockLoss (link : Nat)
  | openDieMessage (msg : OpenMsg)
  | openResponseTimeout (req t : Nat)
  | openPowerWindow (milliwatts : Nat)
  -- The host interface (R323–R353)
  | windowRead (win off len : Nat) (eccs : List Ecc)
  | windowWrite (win off : Nat) (data : List Byte)
  | windowAccessTimeout (acc t : Nat)
  | flr
  | pmStateChange (d3hot : Bool)
  | busMasterEnableChange (on : Bool)
  | pcieLinkDown (perst : Bool) (t : Nat)
  | pcieLinkUp (t speed widthLog2 : Nat)
  | holdoffExpiry (t : Nat)
  | ringEnable (who : Requester) (ring : Nat) (val : Word)
  | ringClearEnd (ring : Nat)
  | ringDisable (who : Requester) (ring : Nat) (val : Word)
  | ringDrainEnd (ring : Nat)
  | ctxReset (who : Requester) (ring : Nat)
  | doorbell (who : Requester) (ring : Nat) (val : Word)
  | commandCompletion (cmd : Nat)
  -- Attestation and keys (R360–R371)
  | getVersion (resp : Nat)
  | getCapabilities (resp : Nat)
  | negotiateAlgorithms (resp : Nat) (supported : Bool)
  | getDigests (resp : Nat)
  | getCertificate (resp slot : Nat)
  | challenge (resp slot : Nat) (nonce : BitVec 256)
  | getMeasurements (resp index : Nat) (nonce : BitVec 256)
  | keyExchange (resp : Nat) (reqSession : BitVec 16)
  | finish (resp : Nat) (session : BitVec 32) (rootDigest : Option (BitVec 384))
  | endSession (resp : Nat) (session : BitVec 32)
  | doeDiscovery (inst index : Nat)
  | keyPut (resp : Nat) (session : Option (BitVec 32)) (payload : BitVec 320)
  | keyClear (resp : Nat) (session : Option (BitVec 32)) (payload : BitVec 320)
  | keyOpen (ring : Nat)
  | keyStatus (ring : Nat)
  | keyCmdClear (ring : Nat)
  -- Steering programs and the tenant switch (R354–R383)
  | steerStart (who : Requester) (part : Nat) (val : Word)
  | steerStop (who : Requester) (part : Nat) (val : Word)
  | steerTrap (core addr : Nat)
  | steerEcall (core : Nat)
  | secSealWrite (who : Requester) (part : Nat) (val : Word)
  | skimEnd (part durationUs : Nat) (dirty : Bool)
  | overwriteEnd (part ms : Nat)
  -- Xanna (R377–R380)
  | xannaConnect (selfSigned : Bool) (root : BitVec 384) (tls13 : Bool)
  | xannaDisconnect (conn : Nat)
  | xannaRead (conn page reg : Nat)
  | subscribe (conn seq : Nat)
  | partitionCount (conn seq count : Nat)
  | tierCacheShare (conn seq gib : Nat)
  | fencedPower (conn seq : Nat) (on : Bool) (t : Nat)
  | powerCaps (conn seq watts : Nat) (t : Nat)
  | firmwareImage (conn seq : Nat) (img : FwImage)
  | moduleResetRequest (conn seq : Nat)
  | tenantBind (conn seq part : Nat) (tenant : BitVec 32) (root : BitVec 384) (overwrite : Bool)
  | tenantRelease (conn seq part : Nat) (overwrite : Bool)
  | hostAccessSettings (conn seq : Nat) (set : HostSetting)
  | moduleIdSettings (conn seq : Nat) (set : ModuleSetting)
  | channelRetireRequest (conn seq chan : Nat)
  | returnToService (conn seq : Nat) (unit : Unit40) (faultSameTick : Bool)
  | spdmRelay (conn seq part len : Nat)
  | installRoot (conn seq : Nat) (root : BitVec 384)
  -- Power and heat (R384–R409)
  | powerLoopPeriod (t : Nat) (dieDraw engPart stackDraw narDraw : List Nat) (hubDraw openDraw : Nat)
  | fastLimitWindow (die milliwatts : Nat)
  | dieThermalSample (die : Nat) (readings : List Nat) (t : Nat)
  | coreSleep (core t : Nat) (wakeSameTick : Bool)
  | clusterSleep (cluster t : Nat) (wakeSameTick : Bool)
  | nmuGroupSleep (group t : Nat) (wakeSameTick : Bool)
  | coreWakeStart (die t : Nat)
  | domainWakeEnd (domain : Nat)
  | diePllLockLoss (die : Nat)
  | powerStageFault (die : Nat)
  | heartbeat (t : Nat)
  | heartbeatTimeout (t : Nat)
  | watchdogExpiry (t : Nat)
  -- Counter snapshots and the snag log (R410–R422)
  | snap (ring : Nat)
  | snapCopy (part t : Nat)
  | rasLogCursorWrite (who : Requester) (part : Nat) (val : Word)
  -- Supply, start-up and resets (R423–R438, R456–R462)
  | powerInputInRange
  | powerInputOutOfRange (over60V : Bool)
  | bootRomPhase
  | bringUpPhase (t : Nat) (failedDies : List TestFail)
  | scaffoldLinksPhase (t : Nat) (fails : List TestFail) (die : OpenDie)
  | selfTestPhase (t : Nat) (fails : List TestFail)
  | entryToOperational (t : Nat)
  | partitionReset (who : Requester) (part : Nat) (val : Word)
  | partitionResetEnd (part t : Nat) (fails : List TestFail)
  | coolantSample (tenthsC tenthsLpm : Int) (t : Nat)
  | coolantTrip (t : Nat)
  | portLinkTraining (port : Nat) (locked : BitVec 16) (peerId peerPort : Nat)
  | granuleMoved (chan : Nat)
  | timingFlitSend (t : Nat)
  | registerRead (who : Requester) (page reg : Nat)
deriving DecidableEq, Repr

end Sys2Proof
end

