-- ==== Sys2Proof/Machine/Bits.lean ====
section
/-! DEFINITION. Bit fields, byte order and saturating counts (R13). -/

namespace Sys2Proof.Machine

/-- Field w[hi:lo] as a number (R13: both bounds included, bit 0 least significant). -/
def fld (w hi lo : Nat) : Nat := (w >>> lo) % 2 ^ (hi + 1 - lo)

/-- A field of bits lo to hi put back into a value. -/
def setFld (w hi lo v : Nat) : Nat :=
  w - (fld w hi lo <<< lo) + ((v % 2 ^ (hi + 1 - lo)) <<< lo)

/-- The signed reading of a field of n bits. -/
def signedOf (n v : Nat) : Int := if v < 2 ^ (n - 1) then (v : Int) else (v : Int) - 2 ^ n

/-- A little-endian byte string as a number (R13). -/
def leNat : List Byte → Nat
  | [] => 0
  | b :: bs => b.toNat + 256 * leNat bs

/-- The n low bytes of a number, little-endian (R13). -/
def leBytes : Nat → Nat → List Byte
  | 0, _ => []
  | n + 1, v => BitVec.ofNat 8 v :: leBytes n (v / 256)

/-- Numbers in ascending order. -/
def insertUp (x : Nat) : List Nat → List Nat
  | [] => [x]
  | y :: ys => if x ≤ y then x :: y :: ys else y :: insertUp x ys
def sortUp (l : List Nat) : List Nat := l.foldr insertUp []

/-- A count that stops at its maximum of n bits. -/
def satAdd (n a b : Nat) : Nat := Nat.min (2 ^ n - 1) (a + b)

/-- Upward rounded quotient. -/
def ceilDiv (a b : Nat) : Nat := (a + b - 1) / b

/-- The indices of the set bits of w below n. -/
def bitsOf (n w : Nat) : List Nat := (List.range n).filter (fun i => w.testBit i)

/-- The bit n as a number. -/
def bitIf (b : Bool) (n : Nat) : Nat := if b then 2 ^ n else 0

/-- Membership as a Bool. -/
def memB (a : Nat) (l : List Nat) : Bool := l.contains a

end Sys2Proof.Machine
end

