-- ==== Sys2Proof/Machine/Crc.lean ====
section
/-! DEFINITION. The three cyclic checks: CRC-64/ECMA-182 (R234), CRC-32 of IEEE 802.3 (R276) and
CRC-16/IBM-3740 (Table TIR-5). -/

namespace Sys2Proof.Machine

/-- One step of an unreflected check of n bits: shift left, reduce by the polynomial. -/
def crcStep {n : Nat} (poly : BitVec n) (c : BitVec n) : BitVec n := if c.msb then (c <<< 1) ^^^ poly else c <<< 1

/-- n steps. -/
def crcSteps {n : Nat} (poly : BitVec n) : Nat → BitVec n → BitVec n
  | 0, c => c
  | k + 1, c => crcSteps poly k (crcStep poly c)

/-- One byte, most significant bit first, into an unreflected check of at least 8 bits. -/
def crcByte {n : Nat} (poly : BitVec n) (c : BitVec n) (b : Byte) : BitVec n :=
  crcSteps poly 8 (c ^^^ ((b.setWidth n) <<< (n - 8)))

/-- CRC-64/ECMA-182: polynomial 0x42F0E1EBA9EA3693, initial value 0, no final XOR (R234). -/
def crc64 (bs : List Byte) : Word := bs.foldl (crcByte 0x42F0E1EBA9EA3693) 0

/-- CRC-16/IBM-3740: polynomial 0x1021, initial value 0xFFFF (Table TIR-5). -/
def crc16 (bs : List Byte) : BitVec 16 := bs.foldl (crcByte 0x1021) 0xFFFF

/-- One step of the reflected CRC-32, with the polynomial's bits reversed. -/
def crc32Steps : Nat → BitVec 32 → BitVec 32
  | 0, c => c
  | k + 1, c => crc32Steps k (if c.getLsbD 0 then (c >>> 1) ^^^ 0xEDB88320 else c >>> 1)

/-- CRC-32 of IEEE 802.3: reflected, initial value and final XOR all ones (R276). -/
def crc32 (bs : List Byte) : BitVec 32 :=
  (bs.foldl (fun c b => crc32Steps 8 (c ^^^ b.setWidth 32)) 0xFFFFFFFF) ^^^ 0xFFFFFFFF

end Sys2Proof.Machine
end

