-- ==== Sys2Proof/Config.lean ====
section
/-! DEFINITION. What the manual leaves to an implementation or to a published standard: constants without
a body. Nothing can be proved of their values. -/

namespace Sys2Proof.Config

/-- Which of the two binary32 neighbours of e^x the unit gives (Table NMU-5: within 1 ulp); true is the
upper one. Log 5. -/
opaque expUp : BitVec 32 → Bool

/-- As expUp, for 1 ÷ √x (Table NMU-5). Log 5. -/
opaque rsqrtUp : BitVec 32 → Bool

/-- Which of the four binary32 values within 2 ulp of the exact function GELU gives (R56). Log 5. -/
opaque geluPick : BitVec 32 → BitVec 2

/-- As geluPick, for SiLU (R56). Log 5. -/
opaque siluPick : BitVec 32 → BitVec 2

/-- GELU and SiLU of an operand that is not subnormal and whose result is: the manual bounds only normal
results (R56). Log 5. -/
opaque geluTiny : BitVec 32 → BitVec 23
opaque siluTiny : BitVec 32 → BitVec 23

/-- The vault's random source (R370): the n-th value drawn. Log 6. -/
opaque random : Nat → BitVec 512

/-- SHA-384 of a byte string (R359, Table SEC-4), by reference to its standard. Log 7. -/
opaque sha384 : List Byte → BitVec 384

/-- The CDI of a firmware digest: HMAC-SHA-384 under the unique device secret (Table SEC-2). Log 7. -/
opaque cdi : BitVec 384 → BitVec 384

/-- AES-256-GCM decryption (R365): key, 96-bit IV, additional data, ciphertext, tag. Log 7. -/
opaque gcmOpen : BitVec 256 → BitVec 96 → List Byte → List Byte → List Byte → Option (List Byte)

/-- The bytes of a signed SPDM answer: responder, kind, and what it signs (R361). Log 7. -/
opaque spdmBody : Nat → Nat → List Nat → List Nat

/-- Which chunks of a collective find credit first along NEXT (R291): course, CSEQ, shard, chunk. Log 8. -/
opaque creditNext : Nat → Nat → Nat → Nat → Bool

/-- A value the manual states no result for, by the count of free values taken. Log 8. -/
opaque free : Nat → Word

end Sys2Proof.Config
end

