-- ==== Sys2Proof/Machine/Flags.lean ====
section
/-! DEFINITION. The five exception flags (R48, Table FMT-6). They are sticky and combine by OR (R49). -/

namespace Sys2Proof.Machine

/-- Exception flags by the bit positions of Table FMT-6. -/
abbrev Flags := BitVec 5

def Flags.none : Flags := 0
/-- Bit 0: a NaN made from operands that are not NaN, or information lost (R36, R48). -/
def Flags.nv : Flags := 0x01
/-- Bit 1: overflow. -/
def Flags.of : Flags := 0x02
/-- Bit 2: underflow. -/
def Flags.uf : Flags := 0x04
/-- Bit 3: saturation. -/
def Flags.sat : Flags := 0x08
/-- Bit 4: division by zero. -/
def Flags.dz : Flags := 0x10

/-- A result with the flags it raises. -/
structure Res (α : Type) where
  val : α
  fl : Flags
deriving DecidableEq, Repr

/-- R49: DONE_WITH_FLAGS when a flag that is not masked is set, DONE otherwise (codes of Table HST-8). -/
def doneStatus (fl mask : Flags) : Nat := if fl &&& ~~~mask = 0 then 0 else 1

end Sys2Proof.Machine
end

