-- ==== Sys2Proof/Machine/State.lean ====
section
/-! DEFINITION. The state of the SVT-24 module: every register, memory, queue, counter, mode and pin
the manual gives it, as plain data. Each field's bracket gives its width, the spec file and rule that name it,
and its reset value. A map is a list of (key, value) pairs with rising keys; a key that is not listed
holds the map's default value, which is the reset value of the thing. -/

namespace Sys2Proof.Machine

/-- A sparse map from Nat keys, kept in one canonical form (see Map.lean). -/
abbrev SMap (α : Type) := List (Nat × α)

/-- Module memory: bytes by physical key (see Memory.lean); a byte not listed reads as zero (R185, R187). -/
abbrev Memory := List Host.Cell

/-! ### Outputs -/

/-- What the module sends to the outside. -/
inductive Out where
  /-- A register read's answer, through BAR0 or the hub's page window (R328). -/
  | regData (who : Requester) (val : Word)
  /-- A BAR0 access of another size: all-ones bytes (R327). -/
  | allOnes (size : Nat)
  /-- The answer to an access of the MSI-X table or pending bit array (R450). -/
  | msixData (val : Word)
  /-- A window read's data (R332). -/
  | winData (win : Nat) (data : List Byte)
  /-- An MSI-X message write to the host (R348). -/
  | msix (vector : Nat)
  /-- An access answered with Unsupported Request (R325). -/
  | unsupported
  /-- A departed notice on a Narar port (R279). -/
  | departed (port : Nat)
  /-- A flit handed to a Narar port (R276). -/
  | flit (port : Nat) (flit : BitVec 2048)
  /-- A NAK flit with the last good SEQ (R277). -/
  | nak (port ack : Nat)
  /-- The replay of every flit after a SEQ (R277). -/
  | replay (port ack : Nat)
  /-- A walk token sent along NEXT (R282). -/
  | walk (course : Nat) (tok : WalkTok)
  /-- An ABANDON for a collective (R289, R296). -/
  | abandon (course cseq : Nat)
  /-- COPIED to the old owner, FLIP around the course (R301). -/
  | copied (course shard : Nat)
  | flip (course shard owner epoch : Nat)
  /-- A timing flit with its time, and a two-way delay exchange on a port (R304). -/
  | timing (port time : Nat)
  | delayExchange (port : Nat)
  /-- A replay request on a die-to-die link (R313). -/
  | linkReplay (link : Nat)
  /-- A request to the die at the open site (R316). -/
  | openReq (req : Nat)
  /-- An SPDM response or error (R361–R363): responder, code, data. -/
  | spdm (resp code : Nat) (data : List Nat)
  /-- A Xanna response: connection, type, status, value (R379). -/
  | xanna (conn type seq status : Nat) (val : Word)
  /-- One body of the snag log mirror (R416): connection and the entry's eight words. -/
  | snag (conn : Nat) (words : List Word)
  /-- The hub's heartbeat (R409). -/
  | heartbeat
  /-- The answer to an ecall: the value put in a0 (R358). -/
  | ecall (core : Nat) (a0 : Word)
deriving DecidableEq, Repr

/-! ### Rings and commands -/

/-- State of one command ring beyond its registers (R342–R347). -/
structure Ring where
  /-- [2 | 13_host R347, Table HST-17 | 0] 0 disabled, 1 enabled, 2 draining. -/
  st : Nat := 0
  /-- [1 | 13_host R343 | false] the completion area is being cleared. -/
  clearing : Bool := false
  /-- [16 | 13_host Table HST-19 | 0] next slot to dispatch. -/
  head : Nat := 0
  /-- [16 | 13_host Table HST-19 | 0] slot after the last command made available. -/
  tail : Nat := 0
  /-- [32 | 13_host Table HST-7 | 0] commands dispatched since enable. -/
  seq : Nat := 0
  /-- [count | 13_host R346 | 0] window accesses that arrived before the host's last doorbell. -/
  seen : Nat := 0
  /-- [list | 13_host R344 | empty] slots whose occupant has no completion record yet. -/
  busy : List Nat := []
  /-- [list | 06_contexts R151 | empty] cores on which the ring has retired its context. -/
  retired : List Nat := []
deriving DecidableEq, Repr

/-- Why an unfinished command waits (R126, R140, R146, R255). -/
inductive Wait where
  | none
  | admission
  | sem
  | ctr
  | lintel
  | slabReady (since : Nat)
  | slotGrant (since : Nat)
  | coll
  | fence
  | guard
  | snap
  | tier
  | pass
deriving DecidableEq, Repr

/-- A hod list's header, as copied at dispatch (Table HOD-1). -/
structure HodHeader where
  srcFmt : Nat := 0
  poolMax : Nat := 0
  floor : Nat := 0
  tensorId : Nat := 0
  guardEn : Bool := false
  guard : Nat := 0
  mcastTag : Nat := 0
  haloAxis : Nat := 0
  haloDepth : Nat := 0
  dir : Nat := 0
  entries : Nat := 0
deriving DecidableEq, Repr

/-- A hod list's block entry, as copied at dispatch (Table HOD-2). -/
structure HodEntry where
  pull : Nat := 0
  mcEn : Bool := false
  mcGrp : Nat := 0
  haloUp : Bool := false
  haloDn : Bool := false
  codec : Nat := 0
  qovf : Nat := 0
  qrnd : Nat := 0
  qfmt : Nat := 0
  stride2 : Int := 0
  stride1 : Int := 0
  count2 : Nat := 0
  count1 : Nat := 0
  len : Nat := 0
  base : Nat := 0
deriving DecidableEq, Repr

/-- A hod list's copy in the hod's own storage (R115). -/
structure HodList where
  hdr : HodHeader := {}
  ents : List HodEntry := []
deriving DecidableEq, Repr

/-- A level entry of a bond table (Table BND-2). -/
structure Level where
  cStride : Int := 0
  bStride : Int := 0
  aStride : Int := 0
  bound : Nat := 0
  lenReg : Nat := 0
  lenMode : Nat := 0
  pos : Nat := 0
  var : Nat := 0
deriving DecidableEq, Repr

/-- A bond table's copy in the core (Table BND-1, R99). `levels` stands in ascending POS. -/
structure Bond where
  groutB : Nat := 0
  groutA : Nat := 0
  chain : Nat := 0
  kSeg : Nat := 0
  nT : Nat := 0
  mT : Nat := 0
  outOvf : Nat := 0
  outRnd : Nat := 0
  levels : List Level := []
deriving DecidableEq, Repr

/-- A run of bytes a stream has yet to request (R116, R122): module address, bytes left, and the byte
position of the run in the stream. For write runs `data` holds the bytes once they are formed. -/
structure Run where
  addr : Nat := 0
  len : Nat := 0
  pos : Nat := 0
  ent : Nat := 0
  data : List Byte := []
deriving DecidableEq, Repr

/-- One stream of a command in one cluster (R114, R125, R126): its list, the hod that admitted it, what it
has still to request, and the bytes landed and not yet consumed. -/
structure Stream where
  /-- 0 A, 1 B, 2 C, 3 source, 4 destination, 5 residual, 6 LOAD, 7 STORE (R340, R341, R128, R131). -/
  role : Nat := 0
  list : HodList := {}
  /-- [2 | 05_hods R126 | none] cluster and hod. -/
  cluster : Nat := 0
  hod : Nat := 0
  /-- Runs to request, oldest first, for a stream whose addresses come from elsewhere than its list. -/
  todo : List Run := []
  /-- Bytes of the list requested so far. -/
  issued : Nat := 0
  /-- Landed bytes: by stream position, or by fill and address for an operand: 1 + the byte, 257 where a direct
  read of a coded block delivers fewer bytes than its raw place (R261), 0 not landed. -/
  landed : SMap Nat := []
  /-- Bytes consumed of the list, in order; for a LOAD, elements passed into its slice. -/
  used : Nat := 0
  taken : Nat := 0
  /-- Bytes that reached a destination and are not yet formed into requests, and bytes so formed. -/
  inbox : List Byte := []
  outQ : List Byte := []
  /-- The persistent stream that this one consumes (R135). -/
  handle : Option Nat := none
  /-- Multicast deliveries: address of a tile and its fill (R112). -/
  mcast : List (Nat × Nat) := []
deriving DecidableEq, Repr

/-- What a memory request asks (R122, R170, R210). -/
inductive ReqKind where
  | read
  | write
  | addWrite
deriving DecidableEq, Repr

/-- A memory request under a hod tag (R122), or of a scalar control unit. -/
structure Req where
  id : Nat := 0
  cmd : Nat := 0
  stream : Nat := 0
  cluster : Nat := 0
  hod : Nat := 0
  kind : ReqKind := .read
  addr : Nat := 0
  len : Nat := 0
  pos : Nat := 0
  ent : Nat := 0
  pool : Bool := false
  narrow : Bool := false
  /-- The channel has served it; a read's data is in `data`. -/
  served : Bool := false
  data : List Byte := []
  /-- The access met poison or an uncorrectable error (R175, R176), or a damaged block (R267). -/
  bad : Bool := false
  badStatus : Nat := 0x0032
  /-- Bytes that the request delivers where fewer than `len` (CODEC 2, R261). -/
  short : Bool := false
  /-- When it was made. -/
  born : Nat := 0
deriving DecidableEq, Repr

/-- A bond walk's position (R101): the next step of the walk, the next ordinal, the engine position given
to each tile, by tile number, and the next fill number. -/
structure Walk where
  pos : Nat := 0
  ordinal : Nat := 0
  engines : SMap (Option Nat) := []
  done : Bool := false
  fills : Nat := 0
  /-- Tiles whose blocks have all been converted or passed on, and tiles emitted. -/
  tiles : Nat := 0
deriving DecidableEq, Repr

/-- A block held in a ring slice, with its side record (R130). `words` holds binary32 outputs by row and
column; after QUANT `bytes` and `scales` hold the narrower block, row by row. -/
structure SliceBlock where
  addr : Nat := 0
  rows : Nat := 0
  cols : Nat := 0
  /-- Index of each row's first element (R45), and the column of the block's first output (R131). -/
  index : List Nat := []
  col0 : Nat := 0
  words : List (BitVec 32) := []
  bytes : List (List Byte) := []
  scales : List (List Byte) := []
deriving DecidableEq, Repr

/-- A ring slice a fused command holds in one cluster, after stage `stage` (R128, R130). -/
structure Slice where
  cluster : Nat := 0
  index : Nat := 0
  stage : Nat := 0
  blocks : List SliceBlock := []
deriving DecidableEq, Repr

/-- A command's own counts through one guard slot (R63). -/
structure GuardCnt where
  sat : Nat := 0
  ufz : Nat := 0
  conv : Nat := 0
deriving DecidableEq, Repr

/-- What a chunk or a control message of a collective is (log 26): kind 0 partial sums of shard a, 1 gathered or broadcast
bytes of origin a, 2 a segment from a to b, 3 shard entry a to b, 4 a block sent again from a to b; 16 the descriptor's
CRC64, 17 a length announced by a to b, 18 a codec table of a for b, 19 an acknowledgement, 20 a request to send a
block again. `i` is the chunk, or the table. -/
structure ChunkTag where
  kind : Nat := 0
  a : Nat := 0
  b : Nat := 0
  i : Nat := 0
deriving DecidableEq, Repr

/-- Work of a collective that waits for memory: a chunk to start, or one that has arrived with its bytes. `next` is its
way round. -/
structure CollWork where
  course : Nat := 0
  next : Bool := true
  tag : ChunkTag := {}
  data : Option (List Byte) := none
deriving DecidableEq, Repr

/-- Progress of a collective at this member (R286–R297). -/
structure Coll where
  /-- (course, CSEQ) for each course that has numbered it. -/
  seqs : List (Nat × Nat) := []
  accepted : Bool := false
  started : Bool := false
  /-- Dispatch time, for LIMIT_MS (R285). -/
  t0 : Nat := 0
  /-- The list a PERMUTE or RESHARD read at dispatch (R287, R301), as four words an entry. -/
  list : List (List Nat) := []
  work : List CollWork := []
  /-- The chunk in arrival on a port, and its bytes so far. -/
  cur : SMap (Option ChunkTag) := []
  part : SMap (List Byte) := []
  /-- Left and right partials of a chunk on a chain (R292). -/
  held : SMap (List Byte) := []
  /-- Parts of the collective finished here. -/
  count : Nat := 0
  /-- Half granules of SRC that have been read, for CLEAR (R294). -/
  readGr : List Nat := []
  /-- Chunks of a segment or shard that have arrived. -/
  segs : SMap Nat := []
  /-- Peers that acknowledged a segment; shards whose FLIP has been seen. -/
  acks : List Nat := []
  flips : List Nat := []
  /-- Codec table lengths a sender has sent, by 64 × sender + table (R295); tables sent, and blocks asked for again. -/
  tables : SMap (List Nat) := []
  sentTables : List Nat := []
  retried : List ChunkTag := []
  /-- Flits sent on a port (UNIT). -/
  units : SMap Nat := []
deriving DecidableEq, Repr

/-- A dispatched command without a completion record (R99, R144, R334–R345). -/
structure Cmd where
  id : Nat := 0
  ring : Nat := 0
  part : Nat := 0
  slot : Nat := 0
  seq : Nat := 0
  phase : Bool := true
  bits : CmdBits := 0
  /-- Settings sampled at dispatch (R23, R47). -/
  det : Bool := false
  compat : Bool := false
  trace : Bool := false
  step : Word := 0
  seed : Option Word := none
  /-- The status once the command has ended (Table HST-8). -/
  status : Option Nat := none
  /-- Post and record rest on this: a command already ended by a reset makes no record (R351). -/
  result : Word := 0
  flags : BitVec 5 := 0
  wait : Wait := .none
  admitted : Bool := false
  streams : List Stream := []
  slices : List Slice := []
  bond : Option Bond := none
  /-- Length registers sampled at dispatch, as (register, value) (R100). -/
  lens : List (Nat × Nat) := []
  walk : Walk := {}
  /-- FP32 factors of per-tensor operands read at dispatch (R339): A, B, C. -/
  factors : List (BitVec 32) := []
  /-- Scales in force, sampled at dispatch, by guard slot (R61, R62). -/
  scales : SMap (BitVec 32) := []
  guards : SMap GuardCnt := []
  /-- Passes still to run (R62): 2 the operands' amax, 1 the output's amax, 0 the command itself; and the amax
  that the pass has found, by slot. -/
  pass : Nat := 0
  amax : SMap (BitVec 32) := []
  nonfinite : Nat := 0
  outDigest : Word := 0
  lenDigest : Word := 0
  /-- Statistics of the rows a norm or softmax has begun, by row: three binary32 words (R206). -/
  rows : SMap (List (BitVec 32)) := []
  /-- Home units that still hold work of the command (R199). -/
  units : List Nat := []
  /-- Hyperparameters sampled at dispatch (R220): B1 OMB1 B2 OMB2 EPS DECAY, then CTL. -/
  hp : List (BitVec 32) := []
  stamps : Bool := false
  mismatch : Bool := false
  /-- The checks of R95 and R117 have run; a command whose tables lie in a slab that is not ready has not yet
  been checked (R99). -/
  checked : Bool := true
  /-- A status met on the way that the command ends with once its work is done (R176, R320). -/
  late : Option Nat := none
  /-- Slabs counted once in TRN_STAMP_CNT.SKIPPED for the command (Table TRN-6). -/
  skipped : List Nat := []
  /-- Tier-1 slabs the command has pinned, or waits for (R253, R255). -/
  slabs : List Nat := []
  /-- Accesses a FENCE waits for (R212), or fetches a TIER command queued (R259). -/
  covers : List Nat := []
  coll : Coll := {}
  /-- T_SNAP of an armed SNAP, and that it had passed at dispatch (R417, R418). -/
  tsnap : Nat := 0
  lateSnap : Bool := false
  /-- RETIRE and LINTEL: cores on which the command has arrived. -/
  cores : List Nat := []
  /-- KEY OPEN: the key sampled and the bundle header read at dispatch (R364, R367), and the next chunk. -/
  key : BitVec 256 := 0
  header : List Byte := []
  chunk : Nat := 0
  /-- A persistent stream's handle, for PERSIST 1 and REARM. -/
  handle : Option Nat := none
deriving DecidableEq, Repr

/-! ### Contexts, semaphores, counters -/

/-- One hardware context (R144–R147). -/
structure Ctx where
  /-- [6 | 06_contexts R144 | none] the ring bound to the context. -/
  ring : Option Nat := none
  /-- [2 | 06_contexts Table SYN-16 | 0] 0 unbound, 1 running, 2 runnable, 3 waiting. -/
  st : Nat := 0
  /-- [64 | 06_contexts R147 | 0] when it became runnable. -/
  since : Nat := 0
  /-- Envelope priority of its current command (R147). -/
  prio : Nat := 0
  /-- [64 | 06_contexts Table SYN-5 | 0] the context's saved scalar registers, as one word (R148). -/
  scalars : Word := 0
deriving DecidableEq, Repr

/-- One core's context choice (R147, R148). -/
structure Core where
  /-- The context that holds the core. -/
  running : Option Nat := none
  /-- The context a switch in progress brings in. -/
  switchTo : Option Nat := none
  /-- The running context has completed a command and not yet served its next one (R147). -/
  boundary : Bool := false
deriving DecidableEq, Repr

/-- One semaphore (R150). -/
structure Sem where
  cap : Nat := 0
  rank : Nat := 0
  holders : BitVec 32 := 0
  poison : Bool := false
  /-- Waiters in arrival order: context and command (R153). -/
  waiters : List (Nat × Nat) := []
deriving DecidableEq, Repr

/-- One counter pair (R150). -/
structure Ctr where
  issued : BitVec 32 := 0
  retired : BitVec 32 := 0
  rank : Nat := 0
  /-- Claimant: cluster within the partition, context. -/
  claim : Option (Nat × Nat) := none
  poison : Bool := false
  /-- Waiters in arrival order: context, command, VALUE (R153). -/
  waiters : List (Nat × Nat × Nat) := []
deriving DecidableEq, Repr

/-- A partition's lintel barrier generation (R158–R160). -/
structure Lintel where
  /-- The member mask of the generation in progress, fixed at its first arrival (R159). -/
  mask : Option Word := none
  arrived : List (Nat × Nat) := []
  first : Option Nat := none
deriving DecidableEq, Repr

/-- A cluster's own timers (R139, R161). -/
structure Cluster where
  /-- [64 | 05_hods R139 | 0] timebase of the last progress. -/
  progress : Nat := 0
  /-- [64 | 06_contexts R161 | 0] start of the pointing period. -/
  pointStart : Nat := 0
  /-- Periods passed since the barrier became due without a quiescent point (R162). -/
  pointPassed : Nat := 0
  pointDue : Bool := false
  /-- Aborts made by the sentinel's measure restart here (R141). -/
  sentinel : Nat := 0
  /-- [1 | 15_power R386 | false] cluster domain asleep; waking. -/
  asleep : Bool := true
  waking : Bool := false
  idleSince : Nat := 0
  /-- [1 | 16_faults R404 | false, from flash] retired. -/
  retired : Bool := false
  /-- [list | 16_faults R403 | empty] times of double-bit errors in the cluster's own memories. -/
  dbe : List Nat := []
deriving DecidableEq, Repr

/-- A core domain (R386, R403). -/
structure CoreDom where
  asleep : Bool := true
  waking : Bool := false
  waitWake : Bool := false
  idleSince : Nat := 0
  retired : Bool := false
  dbe : List Nat := []
deriving DecidableEq, Repr

/-- A persistent stream (R135–R138); its handle is the number of the command that created it. -/
structure Persist where
  handle : Nat := 0
  part : Nat := 0
  stream : Stream := {}
  /-- The command's settings for its conversions. -/
  seed : Option Word := none
  step : Word := 0
  scales : SMap (BitVec 32) := []
  pass : Nat := 0
  amax : SMap (BitVec 32) := []
  /-- The pass is running, and REARM commands wait in issue order (R136). -/
  inPass : Bool := false
  rearms : List Nat := []
  /-- The REARM whose pass is running. -/
  current : Option Nat := none
  /-- Compatibility has turned off or a RELEASE has been issued: the stream ends after these REARM commands
  (R138, R341). -/
  ending : Bool := false
  releaseCmd : Option Nat := none
deriving DecidableEq, Repr

/-! ### Engines -/

/-- A tile segment in an engine's tile queue (R69, R101). -/
structure TileSeg where
  cmd : Nat := 0
  /-- Tile number (its index vector over every level but K, as one number) and K segment. -/
  tile : Nat := 0
  kseg : Nat := 0
  zero : Bool := false
  /-- First live segment of its chain; last live segment of its chain; last segment of the tile. -/
  first : Bool := false
  last : Bool := false
  final : Bool := false
  /-- The chain is not chain 0, so it drains with ADD (R105). -/
  addChain : Bool := false
  started : Bool := false
  /-- The fills that hold its A and B operands. -/
  fillA : Nat := 0
  fillB : Nat := 0
deriving DecidableEq, Repr

/-- A block leaving the drain registers (R72, R77): the word sets it goes to (0 output or REAL, 1 IMAG, 2 and 3
the chain's partials), its values set by set, and whether it adds. -/
structure Drain where
  cmd : Nat := 0
  tile : Nat := 0
  /-- Block row and column within the tile. -/
  bi : Nat := 0
  bj : Nat := 0
  sel : List Nat := []
  add : Bool := false
  vals : List Word := []
  /-- The block converts once this drain ends (R76). -/
  last : Bool := false
deriving DecidableEq, Repr

/-- A block the converter is to read (R76). -/
structure Conv where
  cmd : Nat := 0
  tile : Nat := 0
  bi : Nat := 0
  bj : Nat := 0
deriving DecidableEq, Repr

/-- One quadrant of an engine; quadrant 0 stands for the whole array outside fracture mode (R79). -/
structure Quad where
  queue : List TileSeg := []
  /-- Sweeps of the segment at the head of the queue that have ended. -/
  sweep : Nat := 0
  drains : List Drain := []
  convs : List Conv := []
  /-- Accumulator memory (R75), by command, tile, output and word (Engines.lean gives the key). -/
  acc : SMap Word := []
deriving DecidableEq, Repr

/-- The ramp state of an engine (R85–R89). -/
inductive Ramp where
  | idle
  /-- Ramping up with steps of four columns still to take. -/
  | up (steps : Nat)
  | active
  /-- Ramping down. -/
  | down
deriving DecidableEq, Repr

/-- One engine (R69, R91). The counters are those that ARR_SEL selects. -/
structure Engine where
  ramp : Ramp := .idle
  fractured : Bool := false
  busy : Nat := 0
  ups : Nat := 0
  downs : Nat := 0
  starve : Nat := 0
  convWait : Nat := 0
  minSweep : Nat := 0
deriving DecidableEq, Repr

/-- The counters of one hod (R143, Tables HOD-7 to HOD-11). -/
structure Hod where
  bytes : Nat := 0
  peak : Nat := 0
  tagWait : Nat := 0
  bp : Nat := 0
  xp : Nat := 0
deriving DecidableEq, Repr

/-- A tile waiting for its audit (R64, R65): the command as it ran, the core, and the tile's accumulators. -/
structure Audit where
  core : Nat := 0
  cmd : Cmd := {}
  tile : Nat := 0
  vals : List (BitVec 32) := []
deriving DecidableEq, Repr

/-! ### HBM and near-memory units -/

/-- A row in a channel's count table (R178). -/
structure RowCnt where
  bank : Nat := 0
  row : Nat := 0
  count : Nat := 0
deriving DecidableEq, Repr

/-- A row waiting for a spare (R178, R179). -/
structure PendRow where
  bank : Nat := 0
  row : Nat := 0
  /-- Marked by an uncorrectable error (R175); copied to flash (R179). -/
  ue : Bool := false
  flashed : Bool := false
deriving DecidableEq, Repr

/-- A segment of an NMU command in a unit's work queue (R193, R209): the next element to look at. -/
structure Seg where
  cmd : Nat := 0
  next : Nat := 0
  /-- 1 the pass for the amax (R62), 3 that pass done here, 2 the work itself. -/
  pass : Nat := 2
  /-- Rows whose statistics this unit has added its part to (R206). -/
  rows : Nat := 0
deriving DecidableEq, Repr

/-- A granule computed in the unit buffer and not yet committed (R229): the bytes of w, m and v, as runs by partition
offset. -/
structure Commit where
  cmd : Nat := 0
  slab : Nat := 0
  gran : Nat := 0
  writes : List (Nat × List Byte) := []
  /-- Elements skipped under R224 and flags raised, credited when the commit takes effect. -/
  nonfinite : Nat := 0
  flags : BitVec 5 := 0
deriving DecidableEq, Repr

/-- One HBM channel with its controller and its near-memory unit (R166, R178–R184, R193–R200). -/
structure Chan where
  /-- [2 | 07_hbm Table HBM-6 | 0 from flash] 0 active, 1 DEGRADED, 2 RETIRING, 3 retired. -/
  st : Nat := 0
  lanesUsed : Nat := 0
  ce : Nat := 0
  ue : Nat := 0
  /-- Count table, most recently updated first, at most 64 rows (R178). -/
  rows : List RowCnt := []
  pend : List PendRow := []
  /-- Spare rows in use, by bank (R178, R180), and rows redirected to a spare. -/
  spares : SMap Nat := []
  remapped : List (Nat × Nat) := []
  /-- A remap copy in progress (R178). -/
  copying : Option (Nat × Nat) := none
  /-- Correctable errors of the last 1 ms: time, symbol, bank (R182), and the symbol of a lane fault. -/
  symErr : List (Nat × Nat × Nat) := []
  badSymbol : Option Nat := none
  /-- Granules moved while RETIRING, in ascending channel offset (R184). -/
  moved : Nat := 0
  /-- The first granule that the spare pool could not take: it and those after it read as poisoned (R184). -/
  lost : Option Nat := none
  /-- [16 | 07_hbm R189] bytes admitted in the pacing window, its start and its share. -/
  window : Nat := 0
  windowStart : Nat := 0
  share : Option Nat := none
  /-- [2 | 08_near Table NMU-10 | 0] 0 memory, 1 switching in, 2 processor, 3 switching out. -/
  mode : Nat := 0
  queue : List Seg := []
  slots : Nat := 0
  slotStart : Nat := 0
  /-- When the switch-out in progress began. -/
  outStart : Nat := 0
  lastOut : Nat := 0
  workSince : Nat := 0
  /-- Requests that reached the controller before the last switch-out and are not served (R197), and
  requests held behind the slot (R198). -/
  backlog : List Nat := []
  held : List Nat := []
  procNs : Nat := 0
  heldNs : Nat := 0
  chain : Nat := 0
  denied : Nat := 0
  nfaw : Nat := 0
  commits : List Commit := []
  /-- Errors that the unit's reads are to meet in its present slot, by module address ÷ 64 (R175, R216). -/
  errs : List (Nat × Ecc) := []
  /-- [16 | 07_hbm R177 | 0] next channel offset that patrol scrub reads, in accesses. -/
  scrub : Nat := 0
deriving DecidableEq, Repr

/-- One stack (R166, R188–R190). -/
structure Stack where
  level : Nat := 1
  sampled : Bool := false
  temp : Nat := 0
  peak : Nat := 0
  belowSince : Option Nat := none
  offline : Bool := false
  redUs : Nat := 0
  amberUs : Nat := 0
  lastSample : Nat := 0
  freshRd : Nat := 0
  narrow : Nat := 0
  lastGrant : Option Nat := none
  excluded : Nat := 0
  /-- Near-memory groups 0–3: asleep, waking, idle since (R386). -/
  groupAsleep : List Bool := [true, true, true, true]
  groupWaking : List Bool := [false, false, false, false]
  groupIdle : List Nat := [0, 0, 0, 0]
deriving DecidableEq, Repr

/-! ### The capacity tier -/

/-- A frame of the tier cache that holds or fetches a slab (R252, R253, R257). -/
structure Frame where
  slab : Nat := 0
  ready : Bool := false
  dirty : Bool := false
  pins : List Nat := []
  /-- Last use, for least recently used (R256). -/
  used : Nat := 0
  /-- A write-back is reading the copy; free the frame when it ends. -/
  wb : Bool := false
  freeAfter : Bool := false
  /-- Free the frame once unpinned, whatever it holds (DROP). -/
  dropAfter : Bool := false
  /-- A write has landed since the write-back began (R257). -/
  redirty : Bool := false
deriving DecidableEq, Repr

/-- A fetch, write-back or hint waiting at the tier manager (R256). -/
structure TierJob where
  slab : Nat := 0
  /-- 1 waited fetch, 2 write-back a fetch needs, 3 TIER work, 4 hint. -/
  cls : Nat := 0
  wb : Bool := false
  /-- Make the slab resident and fresh without a read (ALLOC). -/
  alloc : Bool := false
  cmd : Option Nat := none
deriving DecidableEq, Repr

/-- One codec table (R265, R266). -/
structure Codec where
  hist : SMap Nat := []
  seen : Nat := 0
  lens : List Nat := []
  refs : Nat := 0
deriving DecidableEq, Repr

/-- Units of 512 bytes lent to a moved granule (R268). -/
structure Lent where
  chan : Nat := 0
  gran : Nat := 0
  slab : Nat := 0
  unit : Nat := 0
  count : Nat := 0
deriving DecidableEq, Repr

/-- A partition's tier manager (R248–R274). -/
structure Tier where
  /-- [2 per slab | 10_capacity R262 | 0] 0 FRESH, 1 RAW, 2 MAPPED. -/
  slabs : SMap Nat := []
  /-- Codec table a slab is bound to (R259 BIND). -/
  bound : SMap (Option Nat) := []
  /-- Frames in use, by frame number within the tier cache. -/
  frames : SMap (Option Frame) := []
  jobs : List TierJob := []
  codecs : SMap Codec := []
  lent : List Lent := []
  /-- Code lengths of the table built for a channel's move, by channel (R268). -/
  moveTabs : SMap (List Nat) := []
  useClock : Nat := 0
  /-- Since when some command has waited on slab-ready (Table TIR-13). -/
  waitFrom : Option Nat := none
deriving DecidableEq, Repr

/-! ### Narar -/

/-- A flit that waits to be sent, or that is held for a collective not yet started (R276, R289). -/
structure FlitOut where
  typ : Nat := 0
  cseq : Nat := 0
  unit : Nat := 0
  flags : Nat := 0
  payload : List Byte := []
deriving DecidableEq, Repr

/-- One fibre port (R275–R280). -/
structure Port where
  /-- [2 | 11_narar Table NAR-7 | 0] 0 down, 1 up, 2 retired, 3 peer departed. -/
  st : Nat := 0
  wl : BitVec 16 := 0
  /-- Wavelengths retired, in flash (R278). -/
  retiredWl : BitVec 16 := 0
  peerId : Nat := 0
  peerPort : Nat := 0
  txSeq : Nat := 0
  rxSeq : Nat := 0
  /-- The retry buffer: flits sent and not covered by ACK (R277). -/
  retry : List (Nat × BitVec 2048) := []
  /-- Flits that wait for room in the retry buffer. -/
  waiting : List FlitOut := []
  /-- The latest header had SLOW set (R297). -/
  slow : Bool := false
  replays : Nat := 0
  crcErr : Nat := 0
  /-- CRC errors of the last 1 ms, as (time, wavelength) (R278). -/
  errs : List (Nat × Nat) := []
  /-- One more than the microsecond in which SLOW was last counted. -/
  slowUs : Nat := 0
deriving DecidableEq, Repr

/-- One course slot beyond its register (R281–R283, R289, R298). -/
structure Course where
  /-- [3 | 11_narar Table NAR-9 | 0] 0 DOWN, 1 WALKING, 2 UP, 3 FALLBACK, 4 BROKEN. -/
  st : Nat := 0
  pos : Nat := 0
  walkStart : Nat := 0
  /-- The walk is a fallback walk (R299); this member sent the walk's token. -/
  fallback : Bool := false
  lead : Bool := false
  cseq : Nat := 0
  /-- One more than the time of the last SLOW_PEER; 0 before the first (R297). -/
  lastSlow : Nat := 0
  /-- Members' IDs by position, from the walk (R280, R282). -/
  ids : List Nat := []
  /-- Flits of collectives not yet started here, with their ports (R289), and CSEQ values that ABANDON named before their
  dispatch (R296). -/
  held : List (Nat × FlitOut) := []
  abandoned : List Nat := []
deriving DecidableEq, Repr

/-- One entry of the shard directory (R300). -/
structure Shard where
  st : Nat := 0
  epoch : Nat := 0
  peer : Nat := 0
  owner : Nat := 0
deriving DecidableEq, Repr

/-! ### Links, open site, host -/

/-- One die-to-die link (R312, R313). -/
structure Link where
  /-- [2 | 12_package Table PKG-8 | 0] 0 training, 1 up, 2 faulted, 3 unused. -/
  st : Nat := 0
  rate : Nat := 0
  /-- Consecutive failed replays of one frame; replay times of the last 1 ms. -/
  fails : Nat := 0
  times : List Nat := []
  checkErr : Nat := 0
  replays : Nat := 0
  rxSeq : Nat := 0
deriving DecidableEq, Repr

/-- An access outstanding at the open site (R319, R320). -/
structure OpenReq where
  id : Nat := 0
  module : Nat := 0
  sent : Nat := 0
  /-- The memory request it serves. -/
  req : Nat := 0
deriving DecidableEq, Repr

/-- The open site (R314–R321). -/
structure OpenSite where
  admitted : Bool := false
  /-- Per module: fenced; rate trained. -/
  fenced : List Bool := [false, false, false, false]
  siteFenced : Bool := false
  powerFence : Bool := false
  capacity : Nat := 0
  dieVid : Nat := 0
  dieDid : Nat := 0
  measurement : BitVec 384 := 0
  reqs : List OpenReq := []
  /-- BLK_IRQ_STAT and BLK_IRQ_EN per partition view (R322). -/
  irqStat : List Bool := [false, false, false, false]
  irqEn : List Bool := [false, false, false, false]
deriving DecidableEq, Repr

/-- A window access waiting on slab-ready or a moving granule (R332). -/
structure WinAcc where
  id : Nat := 0
  win : Nat := 0
  addr : Nat := 0
  len : Nat := 0
  data : Option (List Byte) := none
  since : Nat := 0
deriving DecidableEq, Repr

/-- The PCIe function (R323–R326, R348–R350, R450). -/
structure Pcie where
  up : Bool := false
  everUp : Bool := false
  perst : Bool := false
  d3hot : Bool := false
  bme : Bool := false
  speed : Nat := 0
  widthLog2 : Nat := 0
  /-- Hold-off timer running since (R350). -/
  holdoff : Option Nat := none
  /-- MSI-X table words of 4 bytes, by word index (R450), and pending bits. -/
  msix : SMap (BitVec 32) := []
  pba : List Nat := []
  accs : List WinAcc := []
  nextAcc : Nat := 0
deriving DecidableEq, Repr

/-! ### Security -/

/-- One key slot (R363). -/
structure KeySlot where
  valid : Bool := false
  keyId : BitVec 32 := 0
  key : BitVec 256 := 0
deriving DecidableEq, Repr

/-- A secured SPDM session (R361–R363). -/
structure Session where
  id : BitVec 32 := 0
  /-- FINISH done; root digest of the requester's chain when mutual. -/
  open_ : Bool := false
  root : Option (BitVec 384) := none
deriving DecidableEq, Repr

/-- One SPDM responder (R361): 0 the module's, 1 + p partition p's. -/
structure Spdm where
  /-- 0 nothing, 1 version, 2 capabilities, 3 algorithms negotiated. -/
  conn : Nat := 0
  sessions : List Session := []
deriving DecidableEq, Repr

/-- A TENANT_BIND or TENANT_RELEASE that has not yet applied (R372, R373, R381). -/
structure Binding where
  tenant : BitVec 32 := 0
  root : BitVec 384 := 0
  overwrite : Bool := false
  release : Bool := false
  /-- When the skim started. -/
  since : Nat := 0
deriving DecidableEq, Repr

/-- A partition's tenancy and steering state (R354–R383). -/
structure Sec where
  tenant : BitVec 32 := 0
  root : BitVec 384 := 0
  gen : BitVec 16 := 0
  bound : Bool := false
  /-- A skim runs, an overwrite runs; what applies at its end, and what waits behind it. -/
  skim : Option Binding := none
  overwriting : Option Binding := none
  queued : Option Binding := none
  keys : SMap KeySlot := []
  memGen : BitVec 32 := 0
  memKey : BitVec 512 := 0
  attKey : BitVec 384 := 0
  /-- [2 | 14_tenancy Table SEC-18 | 0] 0 stopped, 1 running, 2 faulted. -/
  steer : Nat := 0
  /-- Measurement index 4 (Table SEC-4); zero bytes when no program has been started. -/
  meas4 : BitVec 384 := 0
  spdm : Spdm := {}
  skims : Nat := 0
  ovrMs : Nat := 0
  lastUs : Nat := 0
  /-- Bytes of the hub SRAM share that hold a steering image, in KiB. -/
  imageKib : Nat := 0
deriving DecidableEq, Repr

/-- A Xanna connection (R377, R416). -/
structure Conn where
  num : Nat := 0
  /-- Digest of the certificate that the client's chain ends in (R377, R378). -/
  cert : BitVec 384 := 0
  sub : Option Nat := none
  queue : List (List Word) := []
  dropped : Nat := 0
deriving DecidableEq, Repr

/-! ### Power and heat -/

/-- One compute die or the hub die: heat and throttle (R391–R398). -/
structure Die where
  level : Nat := 1
  sampled : Bool := false
  temp : Nat := 0
  peak : Nat := 0
  belowSince : Option Nat := none
  offline : Bool := false
  excluded : Nat := 0
  hotHold : Bool := false
  thr : Nat := 4
  /-- Minimum the next period takes from the fast limit (R394). -/
  fastHold : Bool := false
  reason : Nat := 0
  draw : Nat := 0
  fast : Nat := 0
  throttledMs : Nat := 0
  paced : Nat := 0
  coreWakes : Nat := 0
  clusterWakes : Nat := 0
  /-- Core wakes begun in the current 200 ns, and its start (R389). -/
  wakeWin : List Nat := []
  wakeQ : List Nat := []
  /-- A die fault has been recorded (R406). -/
  faulted : Bool := false
deriving DecidableEq, Repr

/-! ### Snag log, snapshots, ledger -/

/-- A snag log entry (Table RAS-3), or a view entry when `seq` is a VSEQ. -/
structure Snag where
  seq : Nat := 0
  tFirst : Nat := 0
  tLast : Nat := 0
  count : Nat := 1
  part : Nat := 0xFF
  cls : Nat := 0
  code : Nat := 0
  source : Nat := 0x3FF
  d0 : Word := 0
  d1 : Word := 0
  d2 : Word := 0
  d3 : Word := 0
deriving DecidableEq, Repr

/-- A partition's view ring (R415) and its latch (R422). -/
structure View where
  /-- Newest first, at most 1,024. -/
  ents : List Snag := []
  next : Nat := 0
  latch : Option Snag := none
  lost : Bool := false
  empty : Bool := true
deriving DecidableEq, Repr

/-- One guard slot (Table FMT-10, R58). -/
structure Guard where
  hist : List (BitVec 32) := List.replicate 16 0
  amax : BitVec 32 := 0
  /-- Amax was written in the ending step (R60). -/
  touched : Bool := false
  scale : BitVec 32 := 0x3F800000
  config : BitVec 32 := 0
  /-- In force (HIST_STATE). -/
  margin : Nat := 0
  format : Nat := 0
  count : Nat := 0
  head : Nat := 0
  sat : Nat := 0
  ufz : Nat := 0
  conv : Nat := 0
  samples : Nat := 0
  fails : Nat := 0
  worst : BitVec 32 := 0
deriving DecidableEq, Repr

/-- A partition's open ledger record and modes (R237–R242). -/
structure Ledger where
  /-- The open record's start in the ring, its length in 32-byte units, and header fields. -/
  openAt : Option Nat := none
  units : Nat := 2
  step : Word := 0
  seed : Option Word := none
  tBegin : Nat := 0
  det : Bool := false
  trace : Bool := false
  cmds : Nat := 0
  inputs : Nat := 0
  colls : Nat := 0
  /-- Commands dispatched in the step, as (ring, command), oldest first, for CMD_HASH; COLL starts. -/
  hashes : List (Nat × CmdBits) := []
  collCmds : List CmdBits := []
  collOrder : Nat := 0
  records : Nat := 0
  head : Nat := 0
  wrapped : Bool := false
  /-- Mode in force and pending (Table TRN-17). -/
  detOn : Bool := false
  traceOn : Bool := false
  detPend : Bool := false
  tracePend : Bool := false
  /-- Ledger writes that wait on slab-ready, as (ring offset, bytes), and since when (R239). -/
  late : List (Nat × List Byte) := []
  lateSince : Nat := 0
  /-- A STEP_BEGIN waits for these commands before the history push (R60). -/
  pushWait : Option (Nat × List Nat) := none
deriving DecidableEq, Repr

/-! ### Settings, flash, start-up -/

/-- Settings that Xanna makes, in force and pending (R22, R24, R329, R330, R350, R390). -/
structure Settings where
  partitions : Nat := 1
  partPend : Option Nat := none
  shareGib : Nat := 128
  /-- Share in force per partition (Table STP-6: at its next partition or module reset). -/
  shareNow : List Nat := [128, 128, 128, 128]
  fenced : Bool := false
  fencedPend : Option Bool := none
  capW : Nat := 3000
  capPend : Option (Nat × Nat) := none
  fencedAt : Nat := 0
  hostAccess : List Nat := [0, 0, 0, 0]
  /-- Partition of each window when Xanna has set it; w mod P otherwise. -/
  winPart : List (Option Nat) := [none, none, none, none, none, none, none, none]
  holdoffMs : Nat := 200
  moduleId : Nat := 0
  timeSource : Nat := 15
  openOwner : Nat := 0
  ownerPend : Option Nat := none
  /-- Host access and window settings of a partition in scaffold mode, oldest first (R429). -/
  hostPend : List HostSetting := []
deriving DecidableEq, Repr

/-- What the configuration flash and the fuses hold (R179, R183, R278, R313, R404, R405, R426, R436). -/
structure Flash where
  slotA : FwImage := { svn := 0, commit := false, signed := true, digest := 0 }
  slotB : FwImage := { svn := 0, commit := false, signed := true, digest := 0 }
  minSvn : Nat := 0
  variantC : Bool := false
  worrunVid : Nat := 0
  remaps : List (Nat × Nat × Nat) := []
  retiredChans : List Nat := []
  retiredCores : List Nat := []
  retiredClusters : List Nat := []
  retiredPorts : List Nat := []
  retiredWls : List (Nat × Nat) := []
  faultedLinks : List Nat := []
  retiredPkgs : List Nat := []
  root : Option (BitVec 384) := none
  /-- Overwrite requests in progress, by partition (R436). -/
  overwrites : List Nat := []
  lanesUsed : SMap Nat := []
deriving DecidableEq, Repr

/-- Start-up and reset state (R423–R438). -/
structure Startup where
  /-- [4 | 17_startup Table SUP-7 | 1] 0 without power, 1–6 phases, 7 operational. -/
  phase : Nat := 1
  powered : Bool := true
  /-- [2 per partition | 17_startup Table SUP-7 | 1] operational, scaffold, faulted, stopping. -/
  part : List Nat := [1, 1, 1, 1]
  moduleCause : Nat := 0
  partCause : List Nat := [0, 0, 0, 0]
  /-- [64 | 17_startup R423] start of the start-up in progress. -/
  t0 : Nat := 0
  bootMs : Nat := 0
  slotB : Bool := false
  svn : Nat := 0
  /-- The boot ROM accepted neither slot (R428); the hub has failed for good (R409). -/
  held : Bool := false
  dead : Bool := false
  moduleResets : Nat := 0
  partResets : List Nat := [0, 0, 0, 0]
  /-- A partition reset waits for heat (R190, R395, R431). -/
  thermalWait : List Bool := [false, false, false, false]
  /-- Phase of a partition reset: 0 none, 1 recovery scaffold. -/
  recovering : List Bool := [false, false, false, false]
  /-- A trip waits for its module reset; the cause it will log (R396, R461). -/
  tripped : Bool := false
  coolantTrip : Bool := false
  /-- The last heartbeat, and the time at which its loss was acted on (R409). -/
  beat : Nat := 0
  beatLost : Option Nat := none
  /-- Periods of the power loop since start-up (R433). -/
  periods : Nat := 0
  lastPeriod : Nat := 0
  /-- [384 | 14_tenancy Table SEC-2 | 0] the CDI of the running firmware. -/
  cdi : BitVec 384 := 0
  /-- Commands that the reset in progress aborted (Table RAS-4), and the cause that the watchdog latched: 1 a fault of the
  hub die, 0 another loss of the heartbeat (R409, log 2). -/
  aborted : Nat := 0
  /-- [watts | 15_power R398 | 0] the package's draw over the last period. -/
  pkgDraw : Nat := 0
  latched : Option Nat := none
deriving DecidableEq, Repr

/-- The coolant (R459–R461). -/
structure Coolant where
  temp : Int := 0
  flow : Int := 0
  /-- 0 normal, 1 derate, 2 trip condition, 3 sensor fault. -/
  cond : Nat := 0
  tripSince : Option Nat := none
  normalSince : Option Nat := none
  limit : Option Nat := none
  /-- The limit that applies from the next period boundary (R461, R462). -/
  limitPend : Option (Option Nat × Nat) := none
deriving DecidableEq, Repr

/-- This module's time on the fabric (R304). -/
structure Time where
  locked : Bool := false
  everLocked : Bool := false
  offset : Int := 0
  lastFlit : Nat := 0
  lastSend : Nat := 0
deriving DecidableEq, Repr

/-! ### The whole module -/

structure State where
  /-- The model's own queue of waiting commands, first in, first out. -/
  pending : List Instr
  /-- [64 | 15_power R384, 17_startup R423 | 0] the timebase in ns. -/
  now : Nat
  settings : Settings
  flash : Flash
  startup : Startup
  /-- [64 each | 18_register R439–R446 and each chapter | Reset column] register fields that software
  writes and counters that no other field holds, by page × 512 + offset ÷ 8. -/
  regs : SMap Word
  mem : Memory
  /-- [1 per granule | 07_hbm R185 | all set] granules whose fresh bit is clear, by key ÷ 4,096. -/
  written : SMap Bool
  /-- [1 per access | 07_hbm R175, R176 | clear] poisoned 64-byte accesses, by key ÷ 64. -/
  poison : SMap Bool
  rings : SMap Ring
  /-- Dispatched commands without a record, oldest first. -/
  cmds : List Cmd
  nextCmd : Nat
  reqs : List Req
  nextReq : Nat
  ctxs : SMap Ctx
  cores : SMap Core
  sems : SMap Sem
  ctrs : SMap Ctr
  lintels : SMap Lintel
  clusters : SMap Cluster
  coreDoms : SMap CoreDom
  persists : List Persist
  engines : SMap Engine
  quads : SMap Quad
  hods : SMap Hod
  audits : List Audit
  guards : SMap Guard
  chans : SMap Chan
  stks : SMap Stack
  fences : SMap Word
  tiers : SMap Tier
  /-- [list per package | 16_faults R405 | empty] times of the last second's rejected blocks, by package. -/
  pkgRej : SMap (List Nat)
  ports : SMap Port
  courses : SMap Course
  shards : SMap Shard
  time : Time
  links : SMap Link
  site : OpenSite
  pcie : Pcie
  secs : SMap Sec
  /-- The module responder (R361). -/
  spdm : Spdm
  conns : List Conn
  dies : SMap Die
  coolant : Coolant
  ledgers : SMap Ledger
  /-- [4,096 entries | 16_faults R410 | empty] newest first. -/
  log : List Snag
  logNext : Nat
  views : SMap View
  /-- Copies of RO fields made by a SNAP, by page, register and selector (R418), and VIEW bits by page and
  requester (R419). -/
  snaps : SMap (Option Word)
  snapView : SMap Bool
  /-- [2 per group | 15_power R386, Table PWR-2 | 0] hub core groups: 0 asleep, 1 waking, 2 awake. -/
  hubGrps : SMap Nat
  /-- How many values the vault's random source has given (R370; the model's own field). -/
  draws : Nat
  /-- What the module has sent, oldest first (the model's own field). -/
  out : List Out
  /-- How many free values have been taken (the model's own field). -/
  freeIdx : Nat
deriving DecidableEq, Repr

/-- Why the module stops. The manual leaves no command without an effect (R10), so no meaning raises it;
it is kept so that the type is inhabited. Safe: a stop hides behaviour and proves nothing. -/
inductive Fault where
  | unreached
deriving DecidableEq, Repr

/-- Why a command has no meaning. -/
inductive Refusal where
  /-- Raised by Dispatch.lean for a row that has no meaning yet. Safe. -/
  | notModelled (mnemonic : String)
deriving DecidableEq, Repr

/-- Right after reset: the start of phase 1 of a cold reset (R423), with every register at its Reset
value (R14). -/
def State.reset : State where
  pending := []
  now := 0
  settings := {}
  flash := {}
  startup := {}
  regs := []
  mem := []
  written := []
  poison := []
  rings := []
  cmds := []
  nextCmd := 0
  reqs := []
  nextReq := 0
  ctxs := []
  cores := []
  sems := []
  ctrs := []
  lintels := []
  clusters := []
  coreDoms := []
  persists := []
  engines := []
  quads := []
  hods := []
  audits := []
  guards := []
  chans := []
  stks := []
  fences := []
  tiers := []
  pkgRej := []
  ports := []
  courses := []
  shards := []
  time := {}
  links := []
  site := {}
  pcie := {}
  secs := []
  spdm := {}
  conns := []
  dies := []
  coolant := {}
  ledgers := []
  log := []
  logNext := 0
  views := []
  snaps := []
  snapView := []
  hubGrps := []
  draws := 0
  out := []
  freeIdx := 0

end Sys2Proof.Machine
end

