-- ==== Sys2Proof/Machine/Map.lean ====
section
/-! DEFINITION. Sparse maps: a list of (key, value) with strictly rising keys and no entry equal to the
default, so that equal maps are equal data. -/

namespace Sys2Proof.Machine

variable {α : Type}

/-- The value at a key, `d` where it is not listed. -/
def SMap.get (d : α) : SMap α → Nat → α
  | [], _ => d
  | (k, v) :: m, a => if a = k then v else SMap.get d m a

/-- Put an entry before the first greater key. -/
def SMap.insert (k : Nat) (v : α) : SMap α → SMap α
  | [] => [(k, v)]
  | (k', v') :: m => if k < k' then (k, v) :: (k', v') :: m else (k', v') :: SMap.insert k v m

/-- Drop every entry of a key. -/
def SMap.erase (k : Nat) : SMap α → SMap α
  | [] => []
  | (k', v') :: m => if k = k' then SMap.erase k m else (k', v') :: SMap.erase k m

/-- Set a key; a value equal to the default is not listed. -/
def SMap.set [DecidableEq α] (d : α) (m : SMap α) (k : Nat) (v : α) : SMap α :=
  if v = d then SMap.erase k m else SMap.insert k v (SMap.erase k m)

/-- Change the value at a key. -/
def SMap.modify [DecidableEq α] (d : α) (m : SMap α) (k : Nat) (f : α → α) : SMap α :=
  SMap.set d m k (f (SMap.get d m k))

/-- Drop every key that `p` holds of: those members return to the default. -/
def SMap.dropKeys (p : Nat → Bool) (m : SMap α) : SMap α := m.filter (fun e => !p e.1)

/-- Change every value; values that become the default are not listed. -/
def SMap.mapVals [DecidableEq α] (d : α) (f : α → α) : SMap α → SMap α
  | [] => []
  | (k, v) :: m => SMap.set d (SMap.mapVals d f m) k (f v)

/-- The keys rise strictly and no entry holds the default. -/
def SMap.wf [DecidableEq α] (d : α) : SMap α → Bool
  | [] => true
  | [(_, v)] => decide (v ≠ d)
  | (k, v) :: (k', v') :: m => decide (k < k') && decide (v ≠ d) && SMap.wf d ((k', v') :: m)

end Sys2Proof.Machine
end

