-- ==== Sys2Proof/Machine/Geometry.lean ====
section
/-! DEFINITION. Which unit belongs to which partition (Table SEC-1, R342, R451), and the page index
(Table REG-7). -/

namespace Sys2Proof.Machine

/-! ### Partitions -/

/-- Compute dies of one partition. -/
def diesPer (s : State) : Nat := 4 / s.settings.partitions

/-- Lowest compute die of a partition. -/
def firstDie (s : State) (p : Nat) : Nat := p * diesPer s

def partOfDie (s : State) (n : Nat) : Nat := n / diesPer s

def partOfCluster (s : State) (c : Nat) : Nat := partOfDie s (c / 12)
def partOfCore (s : State) (c : Nat) : Nat := partOfCluster s (c / 8)
def partOfEngine (s : State) (e : Nat) : Nat := partOfCore s (e / 4)
def partOfStack (s : State) (st : Nat) : Nat := partOfDie s (st / 2)
def partOfChan (s : State) (c : Nat) : Nat := partOfStack s (c / 32)
/-- Port q hangs on NE(q ÷ 4), course slot 2n + j on NEn; NEn goes with CDn. -/
def partOfPort (s : State) (q : Nat) : Nat := partOfDie s (q / 4)
def partOfCourse (s : State) (j : Nat) : Nat := partOfDie s (j / 2)
/-- R342. -/
def partOfRing (s : State) (k : Nat) : Nat := k * s.settings.partitions / 64

/-- Tenant hub cores 4–15 in equal runs; cores 0–3 belong to Worrun firmware. -/
def partOfHubCore (s : State) (c : Nat) : Option Nat :=
  if c < 4 then none else some ((c - 4) / (12 / s.settings.partitions))

/-- First cluster of a partition, and a partition's cluster number as a module cluster number. -/
def firstCluster (s : State) (p : Nat) : Nat := 12 * firstDie s p
def clusterAt (s : State) (p loc : Nat) : Nat := firstCluster s p + loc
def localCluster (s : State) (c : Nat) : Nat := c - firstCluster s (partOfCluster s c)
def clustersPer (s : State) : Nat := 12 * diesPer s
def clustersOf (s : State) (p : Nat) : List Nat := (List.range (clustersPer s)).map (firstCluster s p + ·)
def diesOf (s : State) (p : Nat) : List Nat := (List.range (diesPer s)).map (firstDie s p + ·)
def stacksOf (s : State) (p : Nat) : List Nat := (List.range (2 * diesPer s)).map (2 * firstDie s p + ·)
def chansOf (s : State) (p : Nat) : List Nat := (List.range (64 * diesPer s)).map (64 * firstDie s p + ·)
def portsOf (s : State) (p : Nat) : List Nat := (List.range (4 * diesPer s)).map (4 * firstDie s p + ·)
def coursesOf (s : State) (p : Nat) : List Nat := (List.range (2 * diesPer s)).map (2 * firstDie s p + ·)
def ringsOf (s : State) (p : Nat) : List Nat :=
  (List.range (64 / s.settings.partitions)).map (p * (64 / s.settings.partitions) + ·)
def partsAll (s : State) : List Nat := List.range s.settings.partitions

/-- Hub SRAM share of a partition in KiB (Table SEC-1). -/
def shareKib (s : State) : Nat := 48 * 1024 / s.settings.partitions
/-- Fixed share in W (Table SEC-1, Table STP-7). -/
def fencedShareW (s : State) : Nat := 2820 / s.settings.partitions

/-! ### Pages -/

/-- The 25 kinds of register page, in the order of Table REG-7. -/
inductive Blk where
  | hst | pkg | site | tb | hubc | sec | ras | sup | ring | die | link | lpd | qg | bnd | trn | tir | pwr
  | arr | hod | syn | hbm | nmu | chan | nar | port
deriving DecidableEq, Repr

/-- First page index, count, TYPE and BAR0 base in 4 KiB units (Table REG-7). -/
def Blk.info : Blk → Nat × Nat × Nat × Nat
  | .hst => (0, 1, 0x01, 0x000)
  | .pkg => (1, 1, 0x02, 0x001)
  | .site => (2, 1, 0x03, 0x002)
  | .tb => (3, 2, 0x04, 0x004)
  | .hubc => (5, 16, 0x05, 0x010)
  | .sec => (21, 4, 0x06, 0x030)
  | .ras => (25, 4, 0x07, 0x034)
  | .sup => (29, 4, 0x08, 0x038)
  | .ring => (33, 64, 0x09, 0x040)
  | .die => (97, 13, 0x0A, 0x080)
  | .link => (110, 30, 0x0B, 0x090)
  | .lpd => (140, 16, 0x0C, 0x0B0)
  | .qg => (156, 4, 0x0D, 0x100)
  | .bnd => (160, 4, 0x0E, 0x104)
  | .trn => (164, 4, 0x0F, 0x108)
  | .tir => (168, 4, 0x10, 0x10C)
  | .pwr => (172, 4, 0x11, 0x110)
  | .arr => (176, 48, 0x12, 0x200)
  | .hod => (224, 48, 0x13, 0x300)
  | .syn => (272, 48, 0x14, 0x400)
  | .hbm => (320, 8, 0x15, 0x500)
  | .nmu => (328, 8, 0x16, 0x508)
  | .chan => (336, 256, 0x17, 0x600)
  | .nar => (592, 4, 0x18, 0x700)
  | .port => (596, 16, 0x19, 0x704)

def Blk.all : List Blk :=
  [.hst, .pkg, .site, .tb, .hubc, .sec, .ras, .sup, .ring, .die, .link, .lpd, .qg, .bnd, .trn, .tir, .pwr,
   .arr, .hod, .syn, .hbm, .nmu, .chan, .nar, .port]

/-- Page index of an instance of a block. -/
def Blk.page (b : Blk) (i : Nat) : Nat := b.info.1 + i

/-- The block that holds a page index below 612. -/
def blkOf (page : Nat) : Blk :=
  (Blk.all.find? (fun b => decide (b.info.1 ≤ page) && decide (page < b.info.1 + b.info.2.1))).getD .hst

/-- The page's instance number within its block. -/
def instOf (page : Nat) : Nat := page - (blkOf page).info.1

def pageCount : Nat := 612

/-- Pages with no register beyond the header (R447). -/
def Blk.hdrOnly : Blk → Bool
  | .tb | .hubc | .die | .link | .lpd | .chan | .port => true
  | _ => false

/-- Who owns a page. -/
inductive Owner where
  | part (p : Nat)
  | module
deriving DecidableEq, Repr

/-- Owner column of Table REG-7. A SEC, RAS or SUP page of a partition number not in use still belongs to
that number (R448). -/
def ownerOf (s : State) (page : Nat) : Owner :=
  let i := instOf page
  match blkOf page with
  | .hst | .pkg | .tb | .link | .lpd => .module
  | .site => if s.flash.variantC then .part s.settings.openOwner else .module
  | .hubc =>
    match partOfHubCore s i with
    | some p => .part p
    | none => .module
  | .sec | .ras | .sup => .part i
  | .ring => .part (partOfRing s i)
  | .die =>
    if i < 4 then .part (partOfDie s i) else if i < 12 then .part (partOfStack s (i - 4)) else .module
  | .qg | .bnd | .trn | .tir | .pwr | .nar => .part (partOfDie s i)
  | .arr | .hod | .syn => .part (partOfCluster s i)
  | .hbm | .nmu => .part (partOfStack s i)
  | .chan => .part (partOfChan s i)
  | .port => .part (partOfPort s i)

/-- BLK_STAT.PART as far as the owner goes. -/
def Owner.num : Owner → Nat
  | .part p => p
  | .module => 0xFF

/-- Pages that a steering program may read though they are module-wide (R445). -/
def shownToParts (page : Nat) : Bool :=
  match blkOf page with
  | .pkg | .link | .site => true
  | _ => false

/-- SEC, RAS and SUP pages of a partition number not in use (R448). -/
def pageUnused (s : State) (page : Nat) : Bool :=
  match blkOf page with
  | .sec | .ras | .sup => decide (s.settings.partitions ≤ instOf page)
  | _ => false

/-- Pages of which a partition owns the registers. -/
def pagesOf (s : State) (p : Nat) : List Nat :=
  (List.range pageCount).filter (fun g => ownerOf s g == .part p)

/-- Registers at +0x100 and above that are aliases across a partition, by offset ÷ 8
(R66, R113, R134, R165, R218, R247, R273, R306). -/
def isAlias (b : Blk) (reg : Nat) : Bool :=
  match b with
  | .qg | .trn | .tir => decide (32 ≤ reg) || reg == 4 || reg == 5
  | .bnd => decide (256 ≤ reg)
  | .hod => reg == 40
  | .syn => reg == 39 || reg == 40
  | .nmu => reg == 32 || reg == 33 || reg == 38
  | .nar => reg == 38 || reg == 43
  | _ => false

/-- Instance of the page that holds a partition's copy of an alias. -/
def aliasInst (s : State) (b : Blk) (i : Nat) : Nat :=
  let p := (ownerOf s (b.page i)).num
  match b with
  | .qg | .bnd | .trn | .tir | .nar => firstDie s p
  | .hod | .syn => firstCluster s p
  | .nmu => 2 * firstDie s p
  | _ => i

/-- The page that stores a register: the set's page on the lowest die, cluster or stack for an alias. -/
def homePage (s : State) (page reg : Nat) : Nat :=
  if isAlias (blkOf page) reg then (blkOf page).page (aliasInst s (blkOf page) (instOf page)) else page

end Sys2Proof.Machine
end

