-- ==== Sys2Proof/Machine/RegMap.lean ====
section
/-! DEFINITION. The field maps of the register tables: bounds, access code (R15), reset value and clamp of
every field that is not reserved, and the registers' places in their pages (offset ÷ 8). -/

namespace Sys2Proof.Machine

/-- Access codes of Table SCP-3. -/
inductive Acc where
  | ro | rw | w1c | w1s | wo
deriving DecidableEq, Repr

/-- One field of a field map: a write below `min` stores `min`, one above `max` stores `max`. -/
structure Field where
  hi : Nat
  lo : Nat
  acc : Acc
  reset : Nat
  min : Nat
  max : Nat
deriving DecidableEq, Repr

/-- A register, or a run of `count` registers `stride` places apart. -/
structure RegDef where
  first : Nat
  count : Nat
  stride : Nat
  fields : List Field
deriving DecidableEq, Repr

/-! ### Places of the registers, as offset ÷ 8 -/

def Reg.irqStat : Nat := 4
def Reg.irqEn : Nat := 5
def Reg.fault : Nat := 6
def Reg.snapTag : Nat := 7
def Reg.hstLink : Nat := 32
def Reg.hstHoldoff : Nat := 33
def Reg.hstWin : Nat := 40
def Reg.hstErr : Nat := 48
def Reg.pkgLinkSel : Nat := 32
def Reg.pkgLinkView : Nat := 33
def Reg.pkgLinkCnt : Nat := 34
def Reg.openId : Nat := 32
def Reg.openCfg : Nat := 33
def Reg.secTenant : Nat := 32
def Reg.secKeys : Nat := 33
def Reg.secSlotSel : Nat := 34
def Reg.secSlotView : Nat := 35
def Reg.secSteerAddr : Nat := 36
def Reg.secSteerCtl : Nat := 37
def Reg.secSeal : Nat := 38
def Reg.secSkim : Nat := 39
def Reg.secPower : Nat := 40
def Reg.secObs : Nat := 41
def Reg.secDenied : Nat := 42
def Reg.rasLogPtr : Nat := 32
def Reg.rasLogCursor : Nat := 33
def Reg.rasLogStat : Nat := 34
def Reg.rasEntry : Nat := 40
def Reg.rasRetSel : Nat := 48
def Reg.rasRetView : Nat := 49
def Reg.rasSram : Nat := 50
def Reg.rasSnap : Nat := 51
def Reg.supState : Nat := 32
def Reg.supCause : Nat := 33
def Reg.supBoot : Nat := 34
def Reg.supPartCtl : Nat := 35
def Reg.supCnt : Nat := 36
def Reg.ringBase : Nat := 32
def Reg.ringCpl : Nat := 33
def Reg.ringCtl : Nat := 34
def Reg.ringDb : Nat := 35
def Reg.ringPtr : Nat := 36
def Reg.ringCnt : Nat := 37
def Reg.qgSeed : Nat := 32
def Reg.qgStep : Nat := 33
def Reg.qgKeyStat : Nat := 34
def Reg.qgAuditCtl : Nat := 35
def Reg.qgAuditLim : Nat := 36
def Reg.qgLimits : Nat := 37
def Reg.qgFlagMask : Nat := 38
def Reg.qgEvt : Nat := 39
def Reg.bndTiles : Nat := 32
def Reg.bndPad : Nat := 33
def Reg.bndHalo : Nat := 34
def Reg.bndMcastCnt : Nat := 35
def Reg.bndSteal : Nat := 36
def Reg.bndMcast : Nat := 64
def Reg.bndLen : Nat := 256
def Reg.trnStampBase : Nat := 32
def Reg.trnLedgerCtl : Nat := 33
def Reg.trnLedgerHead : Nat := 34
def Reg.trnStampCnt : Nat := 35
def Reg.trnMismatch : Nat := 36
def Reg.trnNonfinite : Nat := 37
def Reg.trnMode : Nat := 38
def Reg.trnHpB1 : Nat := 64
def Reg.trnHpB2 : Nat := 65
def Reg.trnHpEps : Nat := 66
def Reg.trnHpCtl : Nat := 67
def Reg.tirRange : Nat := 32
def Reg.tirReadyLim : Nat := 33
def Reg.tirPoolFree : Nat := 34
def Reg.tirPoolLow : Nat := 35
def Reg.tirFetch : Nat := 36
def Reg.tirHint : Nat := 37
def Reg.tirReadyWait : Nat := 38
def Reg.tirWb : Nat := 39
def Reg.tirCodec : Nat := 40
def Reg.tirRatio : Nat := 41
def Reg.tirDamage : Nat := 42
def Reg.tirXp : Nat := 43
def Reg.tirTable : Nat := 44
def Reg.tirFresh : Nat := 108
def Reg.pwrDie : Nat := 32
def Reg.pwrThrCnt : Nat := 33
def Reg.pwrPaced : Nat := 34
def Reg.pwrAwake : Nat := 35
def Reg.pwrWakes : Nat := 36
def Reg.pwrIdle : Nat := 37
def Reg.arrSel : Nat := 32
def Reg.arrBusy : Nat := 33
def Reg.arrRamp : Nat := 34
def Reg.arrStarve : Nat := 35
def Reg.arrConvWait : Nat := 36
def Reg.arrMinsweep : Nat := 37
def Reg.arrState : Nat := 38
def Reg.hodSel : Nat := 32
def Reg.hodBytes : Nat := 33
def Reg.hodTags : Nat := 34
def Reg.hodTagWait : Nat := 35
def Reg.hodBp : Nat := 36
def Reg.hodXp : Nat := 37
def Reg.hodSentinel : Nat := 38
def Reg.hodCluster : Nat := 39
def Reg.hodCompat : Nat := 40
def Reg.synSemSel : Nat := 32
def Reg.synSemView : Nat := 33
def Reg.synCtrSel : Nat := 34
def Reg.synCtrCounts : Nat := 35
def Reg.synCtrState : Nat := 36
def Reg.synPointCtl : Nat := 37
def Reg.synPointCnt : Nat := 38
def Reg.synLintelRings : Nat := 39
def Reg.synLintelCtl : Nat := 40
def Reg.synCtx : Nat := 41
def Reg.synSwitches : Nat := 42
def Reg.hbmChanSel : Nat := 32
def Reg.hbmChanView : Nat := 33
def Reg.hbmChanErr : Nat := 34
def Reg.hbmTherm : Nat := 35
def Reg.hbmPace : Nat := 36
def Reg.hbmFreshRd : Nat := 37
def Reg.hbmNarrow : Nat := 38
def Reg.nmuSlotCtl : Nat := 32
def Reg.nmuGrantLim : Nat := 33
def Reg.nmuSel : Nat := 34
def Reg.nmuChanView : Nat := 35
def Reg.nmuChanTime : Nat := 36
def Reg.nmuChanCnt : Nat := 37
def Reg.nmuFenceSel : Nat := 38
def Reg.nmuFenceDone : Nat := 39
def Reg.narId : Nat := 32
def Reg.narPortSel : Nat := 33
def Reg.narPortView : Nat := 34
def Reg.narPortCnt : Nat := 35
def Reg.narCourse : Nat := 36
def Reg.narCollLim : Nat := 38
def Reg.narCollCnt : Nat := 39
def Reg.narSlow : Nat := 40
def Reg.narTime : Nat := 41
def Reg.narShardSel : Nat := 42
def Reg.narShard : Nat := 43
def Reg.narCollOrder : Nat := 44

/-! ### Field maps -/

/-- Field maps of the HST page. -/
def regsHst : List RegDef := [
  ⟨Reg.irqStat, 1, 1, [⟨2, 2, .w1c, 0x0, 0, 0x1⟩, ⟨1, 1, .w1c, 0x0, 0, 0x1⟩, ⟨0, 0, .w1c, 0x0, 0, 0x1⟩]⟩,
  ⟨Reg.hstLink, 1, 1, [⟨47, 32, .ro, 0x0, 0, 0xFFFF⟩, ⟨9, 9, .ro, 0x0, 0, 0x1⟩, ⟨8, 8, .ro, 0x0, 0, 0x1⟩, ⟨7, 5, .ro, 0x0, 0, 0x7⟩, ⟨2, 0, .ro, 0x0, 0, 0x7⟩]⟩,
  ⟨Reg.hstHoldoff, 1, 1, [⟨13, 0, .ro, 0xC8, 0, 0x3FFF⟩]⟩,
  ⟨Reg.hstWin, 8, 1, [⟨63, 63, .rw, 0x0, 0, 0x1⟩, ⟨47, 16, .rw, 0x0, 0, 0xFFFFFFFF⟩, ⟨9, 8, .ro, 0x0, 0, 0x3⟩]⟩,
  ⟨Reg.hstErr, 1, 1, [⟨63, 40, .ro, 0x0, 0, 0xFFFFFF⟩, ⟨39, 37, .ro, 0x0, 0, 0x7⟩, ⟨31, 16, .ro, 0x0, 0, 0xFFFF⟩, ⟨15, 0, .ro, 0x0, 0, 0xFFFF⟩]⟩]

/-- Field maps of the PKG page. -/
def regsPkg : List RegDef := [
  ⟨Reg.irqStat, 1, 1, [⟨0, 0, .w1c, 0x0, 0, 0x1⟩]⟩,
  ⟨Reg.pkgLinkSel, 1, 1, [⟨4, 0, .rw, 0x0, 0, 0x1F⟩]⟩,
  ⟨Reg.pkgLinkView, 1, 1, [⟨9, 8, .ro, 0x0, 0, 0x3⟩, ⟨5, 0, .ro, 0x0, 0, 0x3F⟩]⟩,
  ⟨Reg.pkgLinkCnt, 1, 1, [⟨63, 32, .ro, 0x0, 0, 0xFFFFFFFF⟩, ⟨31, 0, .ro, 0x0, 0, 0xFFFFFFFF⟩]⟩]

/-- Field maps of the OPEN page. -/
def regsSite : List RegDef := [
  ⟨Reg.irqStat, 1, 1, [⟨0, 0, .w1c, 0x0, 0, 0x1⟩]⟩,
  ⟨Reg.openId, 1, 1, [⟨63, 48, .ro, 0x0, 0, 0xFFFF⟩, ⟨47, 32, .ro, 0x0, 0, 0xFFFF⟩, ⟨31, 16, .ro, 0x0, 0, 0xFFFF⟩, ⟨0, 0, .ro, 0x0, 0, 0x1⟩]⟩,
  ⟨Reg.openCfg, 1, 1, [⟨47, 32, .ro, 0x0, 0, 0xFFFF⟩, ⟨31, 30, .ro, 0x0, 0, 0x3⟩, ⟨29, 28, .ro, 0x0, 0, 0x3⟩, ⟨15, 0, .rw, 0x32, 10, 0x2710⟩]⟩]

/-- Field maps of the SEC page. -/
def regsSec : List RegDef := [
  ⟨Reg.irqStat, 1, 1, [⟨4, 4, .w1c, 0x0, 0, 0x1⟩, ⟨3, 3, .w1c, 0x0, 0, 0x1⟩, ⟨2, 2, .w1c, 0x0, 0, 0x1⟩, ⟨1, 1, .w1c, 0x0, 0, 0x1⟩, ⟨0, 0, .w1c, 0x0, 0, 0x1⟩]⟩,
  ⟨Reg.secTenant, 1, 1, [⟨63, 32, .ro, 0x0, 0, 0xFFFFFFFF⟩, ⟨31, 16, .ro, 0x0, 0, 0xFFFF⟩, ⟨1, 0, .ro, 0x0, 0, 0x3⟩]⟩,
  ⟨Reg.secKeys, 1, 1, [⟨63, 32, .ro, 0x0, 0, 0xFFFFFFFF⟩, ⟨15, 0, .ro, 0x0, 0, 0xFFFF⟩]⟩,
  ⟨Reg.secSlotSel, 1, 1, [⟨3, 0, .rw, 0x0, 0, 0xF⟩]⟩,
  ⟨Reg.secSlotView, 1, 1, [⟨63, 32, .ro, 0x0, 0, 0xFFFFFFFF⟩, ⟨0, 0, .ro, 0x0, 0, 0x1⟩]⟩,
  ⟨Reg.secSteerAddr, 1, 1, [⟨47, 12, .rw, 0x0, 0, 0xFFFFFFFFF⟩]⟩,
  ⟨Reg.secSteerCtl, 1, 1, [⟨47, 32, .rw, 0x0, 0, 0xFFFF⟩, ⟨3, 2, .ro, 0x0, 0, 0x3⟩, ⟨1, 1, .wo, 0x0, 0, 0x1⟩, ⟨0, 0, .wo, 0x0, 0, 0x1⟩]⟩,
  ⟨Reg.secSeal, 1, 1, [⟨0, 0, .rw, 0x0, 0, 0x1⟩]⟩,
  ⟨Reg.secSkim, 1, 1, [⟨63, 48, .ro, 0x0, 0, 0xFFFF⟩, ⟨47, 32, .ro, 0x0, 0, 0xFFFF⟩, ⟨7, 0, .ro, 0x0, 0, 0xFF⟩]⟩,
  ⟨Reg.secPower, 1, 1, [⟨16, 16, .ro, 0x0, 0, 0x1⟩, ⟨15, 0, .ro, 0x0, 0, 0xFFFF⟩]⟩,
  ⟨Reg.secObs, 1, 1, [⟨63, 32, .ro, 0x0, 0, 0xFFFFFFFF⟩, ⟨31, 0, .ro, 0x0, 0, 0xFFFFFFFF⟩]⟩,
  ⟨Reg.secDenied, 1, 1, [⟨63, 32, .ro, 0x0, 0, 0xFFFFFFFF⟩, ⟨31, 0, .ro, 0x0, 0, 0xFFFFFFFF⟩]⟩]

/-- Field maps of the RAS page. -/
def regsRas : List RegDef := [
  ⟨Reg.irqStat, 1, 1, [⟨2, 2, .w1c, 0x0, 0, 0x1⟩, ⟨1, 1, .w1c, 0x0, 0, 0x1⟩, ⟨0, 0, .w1c, 0x0, 0, 0x1⟩]⟩,
  ⟨Reg.rasLogPtr, 1, 1, [⟨63, 32, .ro, 0x0, 0, 0xFFFFFFFF⟩, ⟨31, 0, .ro, 0x0, 0, 0xFFFFFFFF⟩]⟩,
  ⟨Reg.rasLogCursor, 1, 1, [⟨31, 0, .rw, 0x0, 0, 0xFFFFFFFF⟩]⟩,
  ⟨Reg.rasLogStat, 1, 1, [⟨1, 1, .ro, 0x0, 0, 0x1⟩, ⟨0, 0, .ro, 0x1, 0, 0x1⟩]⟩,
  ⟨Reg.rasEntry, 8, 1, [⟨63, 0, .ro, 0x0, 0, 0xFFFFFFFFFFFFFFFF⟩]⟩,
  ⟨Reg.rasRetSel, 1, 1, [⟨5, 0, .rw, 0x0, 0, 0x3F⟩]⟩,
  ⟨Reg.rasRetView, 1, 1, [⟨8, 8, .ro, 0x0, 0, 0x1⟩, ⟨7, 0, .ro, 0x0, 0, 0xFF⟩]⟩,
  ⟨Reg.rasSram, 1, 1, [⟨63, 32, .ro, 0x0, 0, 0xFFFFFFFF⟩, ⟨31, 0, .ro, 0x0, 0, 0xFFFFFFFF⟩]⟩,
  ⟨Reg.rasSnap, 1, 1, [⟨63, 32, .ro, 0x0, 0, 0xFFFFFFFF⟩, ⟨2, 0, .ro, 0x0, 0, 0x7⟩]⟩]

/-- Field maps of the SUP page. -/
def regsSup : List RegDef := [
  ⟨Reg.irqStat, 1, 1, [⟨1, 1, .w1c, 0x0, 0, 0x1⟩, ⟨0, 0, .w1c, 0x0, 0, 0x1⟩]⟩,
  ⟨Reg.supState, 1, 1, [⟨15, 12, .ro, 0x1, 0, 0xF⟩, ⟨1, 0, .ro, 0x1, 0, 0x3⟩]⟩,
  ⟨Reg.supCause, 1, 1, [⟨15, 8, .ro, 0x0, 0, 0xFF⟩, ⟨7, 0, .ro, 0x0, 0, 0xFF⟩]⟩,
  ⟨Reg.supBoot, 1, 1, [⟨47, 32, .ro, 0x0, 0, 0xFFFF⟩, ⟨13, 8, .ro, 0x0, 0, 0x3F⟩, ⟨0, 0, .ro, 0x0, 0, 0x1⟩]⟩,
  ⟨Reg.supPartCtl, 1, 1, [⟨0, 0, .wo, 0x0, 0, 0x1⟩]⟩,
  ⟨Reg.supCnt, 1, 1, [⟨63, 32, .ro, 0x0, 0, 0xFFFFFFFF⟩, ⟨31, 0, .ro, 0x0, 0, 0xFFFFFFFF⟩]⟩]

/-- Field maps of the RING page. -/
def regsRing : List RegDef := [
  ⟨Reg.irqStat, 1, 1, [⟨0, 0, .w1c, 0x0, 0, 0x1⟩]⟩,
  ⟨Reg.ringBase, 1, 1, [⟨47, 9, .rw, 0x0, 0, 0x7FFFFFFFFF⟩]⟩,
  ⟨Reg.ringCpl, 1, 1, [⟨47, 5, .rw, 0x0, 0, 0x7FFFFFFFFFF⟩]⟩,
  ⟨Reg.ringCtl, 1, 1, [⟨63, 63, .rw, 0x0, 0, 0x1⟩, ⟨62, 62, .wo, 0x0, 0, 0x1⟩, ⟨61, 60, .ro, 0x0, 0, 0x3⟩, ⟨59, 58, .ro, 0x0, 0, 0x3⟩, ⟨4, 0, .rw, 0x8, 4, 0x10⟩]⟩,
  ⟨Reg.ringDb, 1, 1, [⟨15, 0, .wo, 0x0, 0, 0xFFFF⟩]⟩,
  ⟨Reg.ringPtr, 1, 1, [⟨47, 32, .ro, 0x0, 0, 0xFFFF⟩, ⟨15, 0, .ro, 0x0, 0, 0xFFFF⟩]⟩,
  ⟨Reg.ringCnt, 1, 1, [⟨63, 32, .ro, 0x0, 0, 0xFFFFFFFF⟩, ⟨31, 0, .ro, 0x0, 0, 0xFFFFFFFF⟩]⟩]

/-- Field maps of the QG page. -/
def regsQg : List RegDef := [
  ⟨Reg.irqStat, 1, 1, [⟨3, 3, .w1c, 0x0, 0, 0x1⟩, ⟨2, 2, .w1c, 0x0, 0, 0x1⟩, ⟨1, 1, .w1c, 0x0, 0, 0x1⟩, ⟨0, 0, .w1c, 0x0, 0, 0x1⟩]⟩,
  ⟨Reg.qgSeed, 1, 1, [⟨63, 0, .wo, 0x0, 0, 0xFFFFFFFFFFFFFFFF⟩]⟩,
  ⟨Reg.qgStep, 1, 1, [⟨63, 0, .rw, 0x0, 0, 0xFFFFFFFFFFFFFFFF⟩]⟩,
  ⟨Reg.qgKeyStat, 1, 1, [⟨63, 32, .ro, 0x0, 0, 0xFFFFFFFF⟩, ⟨1, 1, .wo, 0x0, 0, 0x1⟩, ⟨0, 0, .ro, 0x0, 0, 0x1⟩]⟩,
  ⟨Reg.qgAuditCtl, 1, 1, [⟨8, 8, .rw, 0x0, 0, 0x1⟩, ⟨3, 0, .rw, 0x8, 4, 0xC⟩]⟩,
  ⟨Reg.qgAuditLim, 1, 1, [⟨31, 0, .rw, 0x3C23D70A, 0, 0xFFFFFFFF⟩]⟩,
  ⟨Reg.qgLimits, 1, 1, [⟨31, 16, .rw, 0x400, 0, 0xFFFF⟩, ⟨15, 0, .rw, 0x40, 0, 0xFFFF⟩]⟩,
  ⟨Reg.qgFlagMask, 1, 1, [⟨4, 4, .rw, 0x0, 0, 0x1⟩, ⟨3, 3, .rw, 0x0, 0, 0x1⟩, ⟨2, 2, .rw, 0x1, 0, 0x1⟩, ⟨1, 1, .rw, 0x0, 0, 0x1⟩, ⟨0, 0, .rw, 0x0, 0, 0x1⟩]⟩,
  ⟨Reg.qgEvt, 1, 1, [⟨41, 32, .ro, 0x0, 0, 0x3FF⟩, ⟨31, 0, .ro, 0x0, 0, 0xFFFFFFFF⟩]⟩]

/-- Field maps of the BND page. -/
def regsBnd : List RegDef := [
  ⟨Reg.irqStat, 1, 1, [⟨0, 0, .w1c, 0x0, 0, 0x1⟩]⟩,
  ⟨Reg.bndTiles, 1, 1, [⟨63, 32, .ro, 0x0, 0, 0xFFFFFFFF⟩, ⟨31, 0, .ro, 0x0, 0, 0xFFFFFFFF⟩]⟩,
  ⟨Reg.bndPad, 1, 1, [⟨63, 32, .ro, 0x0, 0, 0xFFFFFFFF⟩, ⟨31, 0, .ro, 0x0, 0, 0xFFFFFFFF⟩]⟩,
  ⟨Reg.bndHalo, 1, 1, [⟨63, 32, .ro, 0x0, 0, 0xFFFFFFFF⟩, ⟨31, 0, .ro, 0x0, 0, 0xFFFFFFFF⟩]⟩,
  ⟨Reg.bndMcastCnt, 1, 1, [⟨63, 32, .ro, 0x0, 0, 0xFFFFFFFF⟩, ⟨31, 0, .ro, 0x0, 0, 0xFFFFFFFF⟩]⟩,
  ⟨Reg.bndSteal, 1, 1, [⟨63, 0, .ro, 0x0, 0, 0xFFFFFFFFFFFFFFFF⟩]⟩,
  ⟨Reg.bndMcast, 96, 1, [⟨32, 32, .rw, 0x0, 0, 0x1⟩, ⟨31, 16, .rw, 0x0, 0, 0xFFFF⟩, ⟨7, 0, .rw, 0x0, 0, 0xFF⟩]⟩,
  ⟨Reg.bndLen, 256, 1, [⟨31, 0, .rw, 0x0, 0, 0xFFFFFFFF⟩]⟩]

/-- Field maps of the TRN page. -/
def regsTrn : List RegDef := [
  ⟨Reg.irqStat, 1, 1, [⟨3, 3, .w1c, 0x0, 0, 0x1⟩, ⟨2, 2, .w1c, 0x0, 0, 0x1⟩, ⟨1, 1, .w1c, 0x0, 0, 0x1⟩, ⟨0, 0, .w1c, 0x0, 0, 0x1⟩]⟩,
  ⟨Reg.trnStampBase, 1, 1, [⟨47, 6, .rw, 0x0, 0, 0x3FFFFFFFFFF⟩, ⟨0, 0, .rw, 0x0, 0, 0x1⟩]⟩,
  ⟨Reg.trnLedgerCtl, 1, 1, [⟨47, 16, .rw, 0x0, 0, 0xFFFFFFFF⟩, ⟨0, 0, .rw, 0x0, 0, 0x1⟩]⟩,
  ⟨Reg.trnLedgerHead, 1, 1, [⟨63, 32, .ro, 0x0, 0, 0xFFFFFFFF⟩, ⟨31, 0, .ro, 0x0, 0, 0xFFFFFFFF⟩]⟩,
  ⟨Reg.trnStampCnt, 1, 1, [⟨63, 32, .ro, 0x0, 0, 0xFFFFFFFF⟩, ⟨31, 0, .ro, 0x0, 0, 0xFFFFFFFF⟩]⟩,
  ⟨Reg.trnMismatch, 1, 1, [⟨63, 63, .w1c, 0x0, 0, 0x1⟩, ⟨47, 0, .ro, 0x0, 0, 0xFFFFFFFFFFFF⟩]⟩,
  ⟨Reg.trnNonfinite, 1, 1, [⟨63, 0, .ro, 0x0, 0, 0xFFFFFFFFFFFFFFFF⟩]⟩,
  ⟨Reg.trnMode, 1, 1, [⟨3, 3, .ro, 0x0, 0, 0x1⟩, ⟨2, 2, .ro, 0x0, 0, 0x1⟩, ⟨1, 1, .ro, 0x0, 0, 0x1⟩, ⟨0, 0, .ro, 0x0, 0, 0x1⟩]⟩,
  ⟨Reg.trnHpB1, 16, 4, [⟨63, 32, .rw, 0x3F666666, 0, 0xFFFFFFFF⟩, ⟨31, 0, .rw, 0x3DCCCCCD, 0, 0xFFFFFFFF⟩]⟩,
  ⟨Reg.trnHpB2, 16, 4, [⟨63, 32, .rw, 0x3F7FBE77, 0, 0xFFFFFFFF⟩, ⟨31, 0, .rw, 0x3A83126F, 0, 0xFFFFFFFF⟩]⟩,
  ⟨Reg.trnHpEps, 16, 4, [⟨63, 32, .rw, 0x322BCC77, 0, 0xFFFFFFFF⟩, ⟨31, 0, .rw, 0x0, 0, 0xFFFFFFFF⟩]⟩,
  ⟨Reg.trnHpCtl, 16, 4, [⟨1, 1, .rw, 0x0, 0, 0x1⟩, ⟨0, 0, .rw, 0x0, 0, 0x1⟩]⟩]

/-- Field maps of the TIR page. -/
def regsTir : List RegDef := [
  ⟨Reg.irqStat, 1, 1, [⟨3, 3, .w1c, 0x0, 0, 0x1⟩, ⟨2, 2, .w1c, 0x0, 0, 0x1⟩, ⟨1, 1, .w1c, 0x0, 0, 0x1⟩, ⟨0, 0, .w1c, 0x0, 0, 0x1⟩]⟩,
  ⟨Reg.tirRange, 1, 1, [⟨47, 32, .ro, 0x80, 0, 0xFFFF⟩, ⟨31, 16, .ro, 0x400, 0, 0xFFFF⟩, ⟨15, 0, .ro, 0x180, 0, 0xFFFF⟩]⟩,
  ⟨Reg.tirReadyLim, 1, 1, [⟨13, 0, .rw, 0x64, 1, 0x2710⟩]⟩,
  ⟨Reg.tirPoolFree, 1, 1, [⟨63, 0, .ro, 0x0, 0, 0xFFFFFFFFFFFFFFFF⟩]⟩,
  ⟨Reg.tirPoolLow, 1, 1, [⟨31, 0, .rw, 0x200000, 0, 0xFFFFFFFF⟩]⟩,
  ⟨Reg.tirFetch, 1, 1, [⟨63, 32, .ro, 0x0, 0, 0xFFFFFFFF⟩, ⟨31, 0, .ro, 0x0, 0, 0xFFFFFFFF⟩]⟩,
  ⟨Reg.tirHint, 1, 1, [⟨63, 32, .ro, 0x0, 0, 0xFFFFFFFF⟩, ⟨31, 0, .ro, 0x0, 0, 0xFFFFFFFF⟩]⟩,
  ⟨Reg.tirReadyWait, 1, 1, [⟨63, 0, .ro, 0x0, 0, 0xFFFFFFFFFFFFFFFF⟩]⟩,
  ⟨Reg.tirWb, 1, 1, [⟨63, 0, .ro, 0x0, 0, 0xFFFFFFFFFFFFFFFF⟩]⟩,
  ⟨Reg.tirCodec, 1, 1, [⟨63, 32, .ro, 0x0, 0, 0xFFFFFFFF⟩, ⟨31, 0, .ro, 0x0, 0, 0xFFFFFFFF⟩]⟩,
  ⟨Reg.tirRatio, 1, 1, [⟨63, 32, .ro, 0x0, 0, 0xFFFFFFFF⟩, ⟨31, 0, .ro, 0x0, 0, 0xFFFFFFFF⟩]⟩,
  ⟨Reg.tirDamage, 1, 1, [⟨63, 32, .ro, 0x0, 0, 0xFFFFFFFF⟩, ⟨31, 0, .ro, 0x0, 0, 0xFFFFFFFF⟩]⟩,
  ⟨Reg.tirXp, 1, 1, [⟨63, 0, .ro, 0x0, 0, 0xFFFFFFFFFFFFFFFF⟩]⟩,
  ⟨Reg.tirTable, 64, 1, [⟨63, 32, .ro, 0x0, 0, 0xFFFFFFFF⟩, ⟨9, 9, .ro, 0x0, 0, 0x1⟩, ⟨8, 0, .ro, 0x0, 0, 0x1FF⟩]⟩,
  ⟨Reg.tirFresh, 1, 1, [⟨63, 0, .ro, 0x0, 0, 0xFFFFFFFFFFFFFFFF⟩]⟩]

/-- Field maps of the PWR page. -/
def regsPwr : List RegDef := [
  ⟨Reg.irqStat, 1, 1, [⟨2, 2, .w1c, 0x0, 0, 0x1⟩, ⟨1, 1, .w1c, 0x0, 0, 0x1⟩, ⟨0, 0, .w1c, 0x0, 0, 0x1⟩]⟩,
  ⟨Reg.pwrDie, 1, 1, [⟨63, 48, .ro, 0x0, 0, 0xFFFF⟩, ⟨47, 40, .ro, 0x0, 0, 0xFF⟩, ⟨39, 32, .ro, 0x0, 0, 0xFF⟩, ⟨10, 8, .ro, 0x0, 0, 0x7⟩, ⟨6, 4, .ro, 0x0, 0, 0x7⟩, ⟨3, 0, .ro, 0x0, 0, 0xF⟩]⟩,
  ⟨Reg.pwrThrCnt, 1, 1, [⟨63, 32, .ro, 0x0, 0, 0xFFFFFFFF⟩, ⟨31, 0, .ro, 0x0, 0, 0xFFFFFFFF⟩]⟩,
  ⟨Reg.pwrPaced, 1, 1, [⟨63, 0, .ro, 0x0, 0, 0xFFFFFFFFFFFFFFFF⟩]⟩,
  ⟨Reg.pwrAwake, 1, 1, [⟨19, 16, .ro, 0x0, 0, 0xF⟩, ⟨6, 0, .ro, 0x0, 0, 0x7F⟩]⟩,
  ⟨Reg.pwrWakes, 1, 1, [⟨63, 32, .ro, 0x0, 0, 0xFFFFFFFF⟩, ⟨31, 0, .ro, 0x0, 0, 0xFFFFFFFF⟩]⟩,
  ⟨Reg.pwrIdle, 1, 1, [⟨16, 0, .rw, 0x3E8, 200, 0x186A0⟩]⟩]

/-- Field maps of the ARR page. -/
def regsArr : List RegDef := [
  ⟨Reg.arrSel, 1, 1, [⟨4, 0, .rw, 0x0, 0, 0x1F⟩]⟩,
  ⟨Reg.arrBusy, 1, 1, [⟨63, 0, .ro, 0x0, 0, 0xFFFFFFFFFFFFFFFF⟩]⟩,
  ⟨Reg.arrRamp, 1, 1, [⟨63, 32, .ro, 0x0, 0, 0xFFFFFFFF⟩, ⟨31, 0, .ro, 0x0, 0, 0xFFFFFFFF⟩]⟩,
  ⟨Reg.arrStarve, 1, 1, [⟨63, 0, .ro, 0x0, 0, 0xFFFFFFFFFFFFFFFF⟩]⟩,
  ⟨Reg.arrConvWait, 1, 1, [⟨63, 0, .ro, 0x0, 0, 0xFFFFFFFFFFFFFFFF⟩]⟩,
  ⟨Reg.arrMinsweep, 1, 1, [⟨63, 0, .ro, 0x0, 0, 0xFFFFFFFFFFFFFFFF⟩]⟩,
  ⟨Reg.arrState, 1, 1, [⟨63, 32, .ro, 0x0, 0, 0xFFFFFFFF⟩, ⟨31, 0, .ro, 0x0, 0, 0xFFFFFFFF⟩]⟩]

/-- Field maps of the HOD page. -/
def regsHod : List RegDef := [
  ⟨Reg.irqStat, 1, 1, [⟨0, 0, .w1c, 0x0, 0, 0x1⟩]⟩,
  ⟨Reg.hodSel, 1, 1, [⟨1, 0, .rw, 0x0, 0, 0x3⟩]⟩,
  ⟨Reg.hodBytes, 1, 1, [⟨63, 0, .ro, 0x0, 0, 0xFFFFFFFFFFFFFFFF⟩]⟩,
  ⟨Reg.hodTags, 1, 1, [⟨42, 32, .ro, 0x0, 0, 0x7FF⟩, ⟨26, 16, .ro, 0x0, 0, 0x7FF⟩, ⟨10, 0, .ro, 0x0, 0, 0x7FF⟩]⟩,
  ⟨Reg.hodTagWait, 1, 1, [⟨63, 0, .ro, 0x0, 0, 0xFFFFFFFFFFFFFFFF⟩]⟩,
  ⟨Reg.hodBp, 1, 1, [⟨63, 0, .ro, 0x0, 0, 0xFFFFFFFFFFFFFFFF⟩]⟩,
  ⟨Reg.hodXp, 1, 1, [⟨63, 0, .ro, 0x0, 0, 0xFFFFFFFFFFFFFFFF⟩]⟩,
  ⟨Reg.hodSentinel, 1, 1, [⟨63, 32, .ro, 0x0, 0, 0xFFFFFFFF⟩, ⟨9, 0, .ro, 0x0, 0, 0x3FF⟩]⟩,
  ⟨Reg.hodCluster, 1, 1, [⟨63, 48, .ro, 0x0, 0, 0xFFFF⟩, ⟨39, 32, .ro, 0x0, 0, 0xFF⟩, ⟨4, 0, .ro, 0x0, 0, 0x1F⟩]⟩,
  ⟨Reg.hodCompat, 1, 1, [⟨1, 1, .ro, 0x0, 0, 0x1⟩, ⟨0, 0, .rw, 0x0, 0, 0x1⟩]⟩]

/-- Field maps of the SYN page. -/
def regsSyn : List RegDef := [
  ⟨Reg.irqStat, 1, 1, [⟨3, 3, .w1c, 0x0, 0, 0x1⟩, ⟨2, 2, .w1c, 0x0, 0, 0x1⟩, ⟨1, 1, .w1c, 0x0, 0, 0x1⟩, ⟨0, 0, .w1c, 0x0, 0, 0x1⟩]⟩,
  ⟨Reg.synSemSel, 1, 1, [⟨10, 0, .rw, 0x0, 0, 0x7FF⟩]⟩,
  ⟨Reg.synSemView, 1, 1, [⟨63, 32, .ro, 0x0, 0, 0xFFFFFFFF⟩, ⟨31, 31, .ro, 0x0, 0, 0x1⟩, ⟨27, 24, .ro, 0x0, 0, 0xF⟩, ⟨23, 18, .ro, 0x0, 0, 0x3F⟩, ⟨17, 12, .ro, 0x0, 0, 0x3F⟩, ⟨5, 0, .ro, 0x0, 0, 0x3F⟩]⟩,
  ⟨Reg.synCtrSel, 1, 1, [⟨8, 0, .rw, 0x0, 0, 0x1FF⟩]⟩,
  ⟨Reg.synCtrCounts, 1, 1, [⟨63, 32, .ro, 0x0, 0, 0xFFFFFFFF⟩, ⟨31, 0, .ro, 0x0, 0, 0xFFFFFFFF⟩]⟩,
  ⟨Reg.synCtrState, 1, 1, [⟨31, 31, .ro, 0x0, 0, 0x1⟩, ⟨30, 30, .ro, 0x0, 0, 0x1⟩, ⟨27, 24, .ro, 0x0, 0, 0xF⟩, ⟨21, 16, .ro, 0x0, 0, 0x3F⟩, ⟨10, 5, .ro, 0x0, 0, 0x3F⟩, ⟨4, 0, .ro, 0x0, 0, 0x1F⟩]⟩,
  ⟨Reg.synPointCtl, 1, 1, [⟨19, 0, .rw, 0x3E8, 10, 0xF4240⟩]⟩,
  ⟨Reg.synPointCnt, 1, 1, [⟨63, 48, .ro, 0x0, 0, 0xFFFF⟩, ⟨47, 24, .ro, 0x0, 0, 0xFFFFFF⟩, ⟨23, 0, .ro, 0x0, 0, 0xFFFFFF⟩]⟩,
  ⟨Reg.synLintelRings, 1, 1, [⟨63, 0, .rw, 0x0, 0, 0xFFFFFFFFFFFFFFFF⟩]⟩,
  ⟨Reg.synLintelCtl, 1, 1, [⟨63, 32, .ro, 0x0, 0, 0xFFFFFFFF⟩, ⟨13, 0, .rw, 0x64, 1, 0x2710⟩]⟩,
  ⟨Reg.synCtx, 1, 1, [⟨63, 0, .ro, 0x0, 0, 0xFFFFFFFFFFFFFFFF⟩]⟩,
  ⟨Reg.synSwitches, 1, 1, [⟨63, 32, .ro, 0x0, 0, 0xFFFFFFFF⟩, ⟨31, 0, .ro, 0x0, 0, 0xFFFFFFFF⟩]⟩]

/-- Field maps of the HBM page. -/
def regsHbm : List RegDef := [
  ⟨Reg.irqStat, 1, 1, [⟨5, 5, .w1c, 0x0, 0, 0x1⟩, ⟨4, 4, .w1c, 0x0, 0, 0x1⟩, ⟨3, 3, .w1c, 0x0, 0, 0x1⟩, ⟨2, 2, .w1c, 0x0, 0, 0x1⟩, ⟨1, 1, .w1c, 0x0, 0, 0x1⟩, ⟨0, 0, .w1c, 0x0, 0, 0x1⟩]⟩,
  ⟨Reg.hbmChanSel, 1, 1, [⟨4, 0, .rw, 0x0, 0, 0x1F⟩]⟩,
  ⟨Reg.hbmChanView, 1, 1, [⟨39, 38, .ro, 0x0, 0, 0x3⟩, ⟨37, 36, .ro, 0x0, 0, 0x3⟩, ⟨31, 21, .ro, 0x0, 0, 0x7FF⟩, ⟨9, 0, .ro, 0x0, 0, 0x3FF⟩]⟩,
  ⟨Reg.hbmChanErr, 1, 1, [⟨63, 32, .ro, 0x0, 0, 0xFFFFFFFF⟩, ⟨31, 0, .ro, 0x0, 0, 0xFFFFFFFF⟩]⟩,
  ⟨Reg.hbmTherm, 1, 1, [⟨23, 16, .ro, 0x0, 0, 0xFF⟩, ⟨15, 8, .ro, 0x0, 0, 0xFF⟩, ⟨2, 0, .ro, 0x0, 0, 0x7⟩]⟩,
  ⟨Reg.hbmPace, 1, 1, [⟨63, 32, .ro, 0x0, 0, 0xFFFFFFFF⟩, ⟨31, 0, .ro, 0x0, 0, 0xFFFFFFFF⟩]⟩,
  ⟨Reg.hbmFreshRd, 1, 1, [⟨63, 0, .ro, 0x0, 0, 0xFFFFFFFFFFFFFFFF⟩]⟩,
  ⟨Reg.hbmNarrow, 1, 1, [⟨63, 0, .ro, 0x0, 0, 0xFFFFFFFFFFFFFFFF⟩]⟩]

/-- Field maps of the NMU page. -/
def regsNmu : List RegDef := [
  ⟨Reg.irqStat, 1, 1, [⟨1, 1, .w1c, 0x0, 0, 0x1⟩, ⟨0, 0, .w1c, 0x0, 0, 0x1⟩]⟩,
  ⟨Reg.nmuSlotCtl, 1, 1, [⟨45, 32, .rw, 0x3E8, 1000, 0x3E80⟩, ⟨11, 0, .rw, 0xFA0, 500, 0xFA0⟩]⟩,
  ⟨Reg.nmuGrantLim, 1, 1, [⟨13, 0, .rw, 0x64, 1, 0x2710⟩]⟩,
  ⟨Reg.nmuSel, 1, 1, [⟨4, 0, .rw, 0x0, 0, 0x1F⟩]⟩,
  ⟨Reg.nmuChanView, 1, 1, [⟨41, 40, .ro, 0x0, 0, 0x3⟩, ⟨38, 32, .ro, 0x0, 0, 0x7F⟩, ⟨31, 0, .ro, 0x0, 0, 0xFFFFFFFF⟩]⟩,
  ⟨Reg.nmuChanTime, 1, 1, [⟨63, 32, .ro, 0x0, 0, 0xFFFFFFFF⟩, ⟨31, 0, .ro, 0x0, 0, 0xFFFFFFFF⟩]⟩,
  ⟨Reg.nmuChanCnt, 1, 1, [⟨63, 32, .ro, 0x0, 0, 0xFFFFFFFF⟩, ⟨31, 16, .ro, 0x0, 0, 0xFFFF⟩, ⟨15, 0, .ro, 0x0, 0, 0xFFFF⟩]⟩,
  ⟨Reg.nmuFenceSel, 1, 1, [⟨5, 0, .rw, 0x0, 0, 0x3F⟩]⟩,
  ⟨Reg.nmuFenceDone, 1, 1, [⟨63, 0, .ro, 0x0, 0, 0xFFFFFFFFFFFFFFFF⟩]⟩]

/-- Field maps of the NAR page. -/
def regsNar : List RegDef := [
  ⟨Reg.irqStat, 1, 1, [⟨5, 5, .w1c, 0x0, 0, 0x1⟩, ⟨4, 4, .w1c, 0x0, 0, 0x1⟩, ⟨3, 3, .w1c, 0x0, 0, 0x1⟩, ⟨2, 2, .w1c, 0x0, 0, 0x1⟩, ⟨1, 1, .w1c, 0x0, 0, 0x1⟩, ⟨0, 0, .w1c, 0x0, 0, 0x1⟩]⟩,
  ⟨Reg.narId, 1, 1, [⟨16, 0, .ro, 0x0, 0, 0x1FFFF⟩]⟩,
  ⟨Reg.narPortSel, 1, 1, [⟨1, 0, .rw, 0x0, 0, 0x3⟩]⟩,
  ⟨Reg.narPortView, 1, 1, [⟨56, 40, .ro, 0x0, 0, 0x1FFFF⟩, ⟨35, 32, .ro, 0x0, 0, 0xF⟩, ⟨29, 28, .ro, 0x0, 0, 0x3⟩, ⟨15, 0, .ro, 0x0, 0, 0xFFFF⟩]⟩,
  ⟨Reg.narPortCnt, 1, 1, [⟨63, 32, .ro, 0x0, 0, 0xFFFFFFFF⟩, ⟨31, 0, .ro, 0x0, 0, 0xFFFFFFFF⟩]⟩,
  ⟨Reg.narCourse, 2, 1, [⟨63, 63, .rw, 0x0, 0, 0x1⟩, ⟨62, 62, .rw, 0x0, 0, 0x1⟩, ⟨61, 61, .rw, 0x0, 0, 0x1⟩, ⟨60, 58, .ro, 0x0, 0, 0x7⟩, ⟨57, 40, .rw, 0x1, 1, 0x20000⟩, ⟨38, 22, .ro, 0x0, 0, 0x1FFFF⟩, ⟨21, 21, .rw, 0x0, 0, 0x1⟩, ⟨15, 0, .rw, 0x0, 0, 0xFFFF⟩]⟩,
  ⟨Reg.narCollLim, 1, 1, [⟨19, 0, .rw, 0x1388, 1, 0x927C0⟩]⟩,
  ⟨Reg.narCollCnt, 1, 1, [⟨63, 32, .ro, 0x0, 0, 0xFFFFFFFF⟩, ⟨31, 0, .ro, 0x0, 0, 0xFFFFFFFF⟩]⟩,
  ⟨Reg.narSlow, 1, 1, [⟨63, 32, .ro, 0x0, 0, 0xFFFFFFFF⟩, ⟨19, 17, .ro, 0x0, 0, 0x7⟩, ⟨16, 0, .ro, 0x0, 0, 0x1FFFF⟩]⟩,
  ⟨Reg.narTime, 1, 1, [⟨63, 32, .ro, 0x0, 0, 0xFFFFFFFF⟩, ⟨4, 4, .ro, 0x0, 0, 0x1⟩, ⟨3, 0, .ro, 0xF, 0, 0xF⟩]⟩,
  ⟨Reg.narShardSel, 1, 1, [⟨13, 0, .rw, 0x0, 0, 0x3FFF⟩]⟩,
  ⟨Reg.narShard, 1, 1, [⟨51, 50, .ro, 0x0, 0, 0x3⟩, ⟨49, 34, .ro, 0x0, 0, 0xFFFF⟩, ⟨33, 17, .ro, 0x0, 0, 0x1FFFF⟩, ⟨16, 0, .rw, 0x0, 0, 0x1FFFF⟩]⟩,
  ⟨Reg.narCollOrder, 1, 1, [⟨63, 32, .ro, 0x0, 0, 0xFFFFFFFF⟩, ⟨15, 0, .ro, 0x0, 0, 0xFFFF⟩]⟩]

/-- Header-only pages: HEALTH_CHANGE (R447). -/
def regsHdr : List RegDef := [⟨Reg.irqStat, 1, 1, [⟨0, 0, .w1c, 0x0, 0, 0x1⟩]⟩]

/-- The field maps of a block. -/
def Blk.regs : Blk → List RegDef
  | .hst => regsHst
  | .pkg => regsPkg
  | .site => regsSite
  | .sec => regsSec
  | .ras => regsRas
  | .sup => regsSup
  | .ring => regsRing
  | .qg => regsQg
  | .bnd => regsBnd
  | .trn => regsTrn
  | .tir => regsTir
  | .pwr => regsPwr
  | .arr => regsArr
  | .hod => regsHod
  | .syn => regsSyn
  | .hbm => regsHbm
  | .nmu => regsNmu
  | .nar => regsNar
  | .tb | .hubc | .die | .link | .lpd | .chan | .port => regsHdr

/-- The register at a place of a block's page, when one is there. -/
def Blk.reg (b : Blk) (r : Nat) : Option RegDef :=
  b.regs.find? (fun d => decide (d.first ≤ r) && (r - d.first) % d.stride == 0 &&
    decide ((r - d.first) / d.stride < d.count))

/-- Fields of a register; BLK_IRQ_EN has an RW bit for each bit of BLK_IRQ_STAT (R441). -/
def fieldsOf (b : Blk) (r : Nat) : List Field :=
  if r = Reg.irqEn then
    match b.reg Reg.irqStat with
    | some d => d.fields.map (fun f => { f with acc := .rw, reset := 0 })
    | none => []
  else
    match b.reg r with
    | some d => d.fields
    | none => []

/-- The Reset column as one word (R14). -/
def resetReg (b : Blk) (r : Nat) : Nat := (fieldsOf b r).foldl (fun a f => a + f.reset <<< f.lo) 0

/-- Keep a written value within a field's clamp. -/
def Field.clamp (f : Field) (v : Nat) : Nat := if v < f.min then f.min else if v > f.max then f.max else v

/-- One field of a written register under its access code (R15, R444). WO fields store nothing here. -/
def Field.write (f : Field) (old val : Nat) : Nat :=
  match f.acc with
  | .ro | .wo => old
  | .rw => setFld old f.hi f.lo (f.clamp (fld val f.hi f.lo))
  | .w1c => setFld old f.hi f.lo (fld old f.hi f.lo - (fld old f.hi f.lo &&& fld val f.hi f.lo))
  | .w1s => setFld old f.hi f.lo (fld old f.hi f.lo ||| fld val f.hi f.lo)

/-- A write of a whole register. -/
def writeFields (fs : List Field) (old val : Nat) : Nat := fs.foldl (fun a f => f.write a val) old

/-- The bits of a register with an access code. -/
def accMask (a : Acc) (fs : List Field) : Nat :=
  fs.foldl (fun m f => if f.acc = a then m ||| ((2 ^ (f.hi + 1 - f.lo) - 1) <<< f.lo) else m) 0

/-- Registers with RO fields at +0x100 and above, each with the number of values of its selector (R418). -/
def Blk.lastReg (b : Blk) : Nat := b.regs.foldl (fun m d => Nat.max m (d.first + d.stride * (d.count - 1))) 7

end Sys2Proof.Machine
end

