-- ==== Sys2Proof/Machine/Ops.lean ====
section
/-! DEFINITION. The shared operations over registers, interrupts and the snag log. -/

namespace Sys2Proof.Machine

abbrev Answer := Host.Outcome State Fault Refusal

/-! ### Registers -/

/-- Key of a register in the register file. -/
def regKey (page reg : Nat) : Nat := page * 512 + reg

/-- The stored value of a register, read through its alias set (R66). -/
def State.reg (s : State) (page reg : Nat) : Nat :=
  (SMap.get (BitVec.ofNat 64 (resetReg (blkOf page) reg)) s.regs (regKey (homePage s page reg) reg)).toNat

/-- Store a register's bits. -/
def State.setReg (s : State) (page reg val : Nat) : State :=
  { s with
    regs := SMap.set (BitVec.ofNat 64 (resetReg (blkOf page) reg)) s.regs
      (regKey (homePage s page reg) reg) (BitVec.ofNat 64 val) }

/-- A field of a stored register. -/
def State.regFld (s : State) (page reg hi lo : Nat) : Nat := fld (s.reg page reg) hi lo

/-- Set a field of a stored register. -/
def State.setRegFld (s : State) (page reg hi lo v : Nat) : State :=
  s.setReg page reg (setFld (s.reg page reg) hi lo v)

/-- Add to a counter field, saturating. -/
def State.bump (s : State) (page reg hi lo n : Nat) : State :=
  s.setRegFld page reg hi lo (satAdd (hi + 1 - lo) (s.regFld page reg hi lo) n)

/-- Add to a counter field, wrapping. -/
def State.bumpWrap (s : State) (page reg hi lo n : Nat) : State :=
  s.setRegFld page reg hi lo (s.regFld page reg hi lo + n)

/-- Restore the stored registers of every page that `p` holds of. -/
def State.clearPages (s : State) (p : Nat → Bool) : State :=
  { s with regs := SMap.dropKeys (fun k => p (k / 512)) s.regs }

/-! ### Outputs and free values -/

def State.emit (s : State) (o : Out) : State := { s with out := s.out ++ [o] }

/-- A value the manual states no result for (log 8). -/
def freeVal (s : State) : Word := Config.free s.freeIdx
def State.tookFree (s : State) : State := { s with freeIdx := s.freeIdx + 1 }

/-! ### MSI-X (R324, R348, R446, R450) -/

/-- A 4-byte word of the MSI-X table; the vector control word has its mask bit set until software clears it. -/
def msixWord (s : State) (i : Nat) : BitVec 32 := SMap.get (if i % 4 = 3 then 1 else 0) s.pcie.msix i

/-- A vector's message can leave now. -/
def canSend (s : State) (v : Nat) : Bool :=
  s.pcie.up && s.pcie.bme && !s.pcie.d3hot && !(msixWord s (4 * v + 3)).getLsbD 0

/-- A message becomes due on a vector; while one is pending, further causes merge into it (R348). -/
def State.sendMsix (s : State) (v : Nat) : State :=
  if s.pcie.pba.contains v then s
  else if canSend s v then s.emit (.msix v)
  else { s with pcie := { s.pcie with pba := s.pcie.pba ++ [v] } }

/-- Send every pending message that can leave, in vector order. -/
def State.flushMsix (s : State) : State :=
  let go := (List.range 69).filter (fun v => s.pcie.pba.contains v && canSend s v)
  { s with
    pcie := { s.pcie with pba := s.pcie.pba.filter (fun v => !go.contains v) }
    out := s.out ++ go.map Out.msix }

/-- R348: the vector of a page owner's events. -/
def Owner.vector : Owner → Nat
  | .part p => 64 + p
  | .module => 68

/-- Set event bits of a page; a bit that becomes 1 while enabled makes a message due (R446). -/
def State.setIrq (s : State) (page bit : Nat) : State :=
  let st := s.reg page Reg.irqStat
  let s1 := s.setReg page Reg.irqStat (st ||| 2 ^ bit)
  if !st.testBit bit && (s.reg page Reg.irqEn).testBit bit then s1.sendMsix (ownerOf s page).vector else s1

/-- OPEN_FENCE in a partition's view of the OPEN page (R322). -/
def State.setIrqOpen (s : State) (p : Nat) : State :=
  let was := s.site.irqStat.getD p false
  let s1 := { s with site := { s.site with irqStat := s.site.irqStat.set p true } }
  if !was && s.site.irqEn.getD p false then s1.sendMsix (64 + p) else s1

/-! ### The snag log (R410–R416) -/

/-- The eight words of an entry (Table RAS-3). -/
def snagWords (e : Snag) : List Word :=
  [BitVec.ofNat 64 e.seq, BitVec.ofNat 64 e.tFirst, BitVec.ofNat 64 e.tLast,
    BitVec.ofNat 64 ((e.count <<< 48) ||| (e.part <<< 40) ||| (e.cls <<< 32) ||| (e.code <<< 16) ||| e.source),
    e.d0, e.d1, e.d2, e.d3]

/-- Up to four 16-bit identifiers from bit 0 up (R413). -/
def ids16 (l : List Nat) : Word :=
  BitVec.ofNat 64 (l.foldr (fun x a => x % 65536 + 65536 * a) 0)

/-- Up to two 32-bit values from bit 0 up (R413). -/
def vals32 (l : List Nat) : Word :=
  BitVec.ofNat 64 (l.foldr (fun x a => x % 2 ^ 32 + 2 ^ 32 * a) 0)

/-- R414: the fields that must agree. -/
def sameSnag (a b : Snag) : Bool :=
  a.part == b.part && a.cls == b.cls && a.code == b.code && a.source == b.source && a.d0 == b.d0 &&
    a.d1 == b.d1 && a.d3 == b.d3 && decide (a.count < 65535)

/-- Coalesce an occurrence into one of the n newest entries. -/
def mergeSnag : Nat → List Snag → Snag → Option (List Snag × Snag)
  | 0, _, _ => none
  | _ + 1, [], _ => none
  | n + 1, x :: xs, e =>
    if sameSnag x e && decide (e.cls < 2) then
      let y := { x with count := x.count + 1, tLast := e.tLast, d2 := e.d2 }
      some (y :: xs, y)
    else (mergeSnag n xs e).map (fun r => (x :: r.1, r.2))

/-- R416: queue a body for a subscribed connection, dropping the oldest on overflow. -/
def Conn.push (c : Conn) (e : Snag) : Conn :=
  match c.sub with
  | none => c
  | some q =>
    if e.seq < q then c
    else if c.queue.length < 4096 then { c with queue := c.queue ++ [snagWords e] }
    else { c with queue := c.queue.drop 1 ++ [snagWords e], dropped := c.dropped + 1 }

/-- An entry into the full log, new or coalesced, and to the mirrors. -/
def State.logFull (s : State) (e : Snag) : State :=
  match mergeSnag 16 s.log e with
  | some (l, x) => { s with log := l, conns := s.conns.map (fun c => c.push x) }
  | none =>
    let x := { e with seq := s.logNext }
    { s with log := (x :: s.log).take 4096, logNext := s.logNext + 1, conns := s.conns.map (fun c => c.push x) }

/-- An entry into a partition's view (R415), with NEW_ENTRY and VIEW_WRAP (Table RAS-6). -/
def State.logView (s : State) (p : Nat) (e : Snag) : State :=
  let v := SMap.get {} s.views p
  match mergeSnag 16 v.ents e with
  | some (l, _) => { s with views := SMap.set {} s.views p { v with ents := l } }
  | none =>
    let x := { e with seq := v.next }
    let v1 := { v with ents := (x :: v.ents).take 1024, next := (v.next + 1) % 2 ^ 32 }
    let s1 := { s with views := SMap.set {} s.views p v1 }
    let s2 := s1.setIrq (Blk.ras.page p) 0
    if v.ents.length < 1024 then s2 else s2.setIrq (Blk.ras.page p) 1

/-- What partition p sees of a module-wide entry (R375, R415). -/
def State.moduleSeen (s : State) (p : Nat) : State :=
  let ms := 1000000 * (s.now / 1000000)
  let s1 := s.logView p { tFirst := ms, tLast := ms, part := 0xFF, cls := 1, code := 0x0400 }
  let s2 := (s1.bump (Blk.sec.page p) Reg.secObs 31 0 1).setIrq (Blk.sec.page p) 3
  let e : Snag := { tFirst := s.now, tLast := s.now, part := p, cls := 1, code := 3, source := Blk.sec.page p }
  (s2.logFull e).logView p e

/-- Write an entry: the full log and mirrors, then the views it belongs to. -/
def State.logOne (s : State) (e : Snag) : State :=
  let s1 := s.logFull e
  if e.part < 4 then s1.logView e.part e else (partsAll s).foldl State.moduleSeen s1

/-- Write an entry, and notice 0x0303 for each connection whose queue overflowed (R416). -/
def State.log_ (s : State) (e : Snag) : State :=
  let s1 := s.logOne e
  let over_ := s1.conns.filter (fun c => s.conns.any (fun b => b.num == c.num && decide (b.dropped < c.dropped)))
  over_.foldl (fun t c => t.logOne
    { tFirst := s.now, tLast := s.now, part := 0xFF, cls := 0, code := 0x0303, d1 := ids16 [c.num],
      d2 := vals32 [c.dropped + 1] }) s1

/-- CLASS of a group 0x00 entry (R412). -/
def evtClass (b : Blk) (bit : Nat) : Nat :=
  match b with
  | .hbm => if bit < 4 then 2 else 1
  | .pkg => 2
  | .site => 2
  | .tir => if bit = 1 then 2 else 1
  | .nar => if bit = 0 ∨ bit = 1 then 2 else 1
  | _ => 1

/-- The page that an event's entry names: the set's lowest page when all block registers are aliases (R66). -/
def sourceOf (s : State) (page : Nat) : Nat := homePage s page Reg.irqStat

/-- Detail words of an event. -/
structure Det where
  d0 : Word := 0
  d1 : Word := 0
  d2 : Word := 0
  d3 : Word := 0
deriving DecidableEq, Repr

/-- A snag log entry of the present tick. -/
def mkSnag (s : State) (part cls code source : Nat) (d : Det) : Snag :=
  { tFirst := s.now, tLast := s.now, part := part, cls := cls, code := code, source := source,
    d0 := d.d0, d1 := d.d1, d2 := d.d2, d3 := d.d3 }

/-- An event of a page: its bit, its interrupt and its log entry. The RAS page's events are not logged
(R410). -/
def State.raise_ (s : State) (page bit : Nat) (d : Det := {}) : State :=
  let s1 := s.setIrq page bit
  if blkOf page = .ras then s1
  else s1.log_ (mkSnag s (ownerOf s page).num (evtClass (blkOf page) bit) bit (sourceOf s page) d)

/-- OPEN_FENCE for one partition's view (R322). -/
def State.raiseOpen (s : State) (p : Nat) (d : Det := {}) : State :=
  (s.setIrqOpen p).log_ (mkSnag s p 2 0 (Blk.site.page 0) d)

/-- A write by the host or by a hub core of no partition is denied for a register that only the steering program may
write. -/
def steeringOnly (s : State) (who : Requester) (page : Nat) : Bool :=
  match who with
  | .host => false
  | .hub core => partOfHubCore s core == some (ownerOf s page).num

/-- A host write that is ignored and counted (R329, R111, R134). -/
def State.denied (s : State) : State := (s.bump 0 Reg.hstErr 31 16 1)

/-- A notice of group 0x03 (R412). -/
def State.notice (s : State) (part item source : Nat) (d : Det := {}) : State :=
  s.log_ (mkSnag s part 0 (0x0300 + item) source d)

/-- A fault entry of group 0x01. -/
def State.faultEntry (s : State) (part item source : Nat) (d : Det := {}) : State :=
  s.log_ (mkSnag s part 2 (0x0100 + item) source d)

/-- A reset or abort entry of group 0x02, with the number of commands aborted (Table RAS-4). -/
def State.resetEntry (s : State) (part item source n : Nat) : State :=
  s.log_ (mkSnag s part 3 (0x0200 + item) source { d2 := vals32 [n] })

/-- R17: a lost update of an RW field, as notice 0x0305 with page, register and value. -/
def State.lostUpdate (s : State) (page reg : Nat) (lost : Word) : State :=
  s.notice (ownerOf s page).num 5 page { d1 := ids16 [page, reg], d2 := lost }

/-! ### Upsets, faults and HEALTH (R401, R442, R443, R447) -/

def State.countUpset (s : State) (page : Nat) : State := s.bump page Reg.fault 63 32 1
def State.countFault (s : State) (page : Nat) : State := s.bump page Reg.fault 31 16 1

/-- The pages that show one cluster. -/
def clusterPages (c : Nat) : List Nat := [Blk.arr.page c, Blk.hod.page c, Blk.syn.page c]

/-- Retired clusters and cores; a die's fault or trip. -/
def clusterRetired (s : State) (c : Nat) : Bool := (SMap.get {} s.clusters c : Cluster).retired
def coreRetired (s : State) (k : Nat) : Bool := (SMap.get {} s.coreDoms k : CoreDom).retired
def die (s : State) (n : Nat) : Die := SMap.get {} s.dies n
def stack (s : State) (n : Nat) : Stack := SMap.get {} s.stks n
def chan (s : State) (n : Nat) : Chan := SMap.get {} s.chans n
def port (s : State) (n : Nat) : Port := SMap.get {} s.ports n
def course (s : State) (n : Nat) : Course := SMap.get {} s.courses n
def link (s : State) (n : Nat) : Link := SMap.get {} s.links n
def ring (s : State) (n : Nat) : Ring := SMap.get {} s.rings n
def sec (s : State) (n : Nat) : Sec := SMap.get {} s.secs n
def tier (s : State) (p : Nat) : Tier := SMap.get {} s.tiers p
def ledger (s : State) (p : Nat) : Ledger := SMap.get {} s.ledgers p
def cluster (s : State) (c : Nat) : Cluster := SMap.get {} s.clusters c
def dieDown (s : State) (n : Nat) : Bool := (die s n).faulted || (die s n).offline

def State.modDie (s : State) (n : Nat) (f : Die → Die) : State := { s with dies := SMap.modify {} s.dies n f }
def State.modStack (s : State) (n : Nat) (f : Stack → Stack) : State := { s with stks := SMap.modify {} s.stks n f }
def State.modChan (s : State) (n : Nat) (f : Chan → Chan) : State := { s with chans := SMap.modify {} s.chans n f }
def State.modPort (s : State) (n : Nat) (f : Port → Port) : State := { s with ports := SMap.modify {} s.ports n f }
def State.modCourse (s : State) (n : Nat) (f : Course → Course) : State :=
  { s with courses := SMap.modify {} s.courses n f }
def State.modLink (s : State) (n : Nat) (f : Link → Link) : State := { s with links := SMap.modify {} s.links n f }
def State.modRing (s : State) (n : Nat) (f : Ring → Ring) : State := { s with rings := SMap.modify {} s.rings n f }
def State.modSec (s : State) (p : Nat) (f : Sec → Sec) : State := { s with secs := SMap.modify {} s.secs p f }
def State.modTier (s : State) (p : Nat) (f : Tier → Tier) : State := { s with tiers := SMap.modify {} s.tiers p f }
def State.modLedger (s : State) (p : Nat) (f : Ledger → Ledger) : State :=
  { s with ledgers := SMap.modify {} s.ledgers p f }
def State.modCluster (s : State) (c : Nat) (f : Cluster → Cluster) : State :=
  { s with clusters := SMap.modify {} s.clusters c f }
def State.modCoreDom (s : State) (k : Nat) (f : CoreDom → CoreDom) : State :=
  { s with coreDoms := SMap.modify {} s.coreDoms k f }

/-- R254, R405, Table PKG-4: a bridge counts as faulted when a package of it is retired or one of its links
to a compute die is faulted. -/
def bridgeFaulted (s : State) (b : Nat) : Bool :=
  (List.range 8).any (fun k => s.flash.retiredPkgs.contains (8 * b + k)) ||
    (List.range 2).any (fun k => (link s (22 + 2 * b + k)).st == 2)

/-- HEALTH by page (Table REG-6). -/
def health (s : State) (page : Nat) : Nat :=
  let i := instOf page
  let stackHealth (st : Nat) : Nat :=
    if (stack s st).offline || (die s (4 + st)).faulted then 2
    else if (List.range 32).any (fun c => decide (0 < (chan s (32 * st + c)).st)) then 1 else 0
  let dieHealth (n : Nat) : Nat :=
    if dieDown s n then 2
    else if (List.range 12).any (fun k => clusterRetired s (12 * n + k)) || decide (0 < (die s n).excluded) then 1
    else 0
  match blkOf page with
  | .arr | .hod | .syn =>
    if clusterRetired s i || (die s (i / 12)).faulted then 2
    else if (List.range 8).any (fun k => coreRetired s (8 * i + k)) then 1 else 0
  | .qg | .bnd | .trn | .tir | .pwr => dieHealth i
  | .die => if i < 4 then dieHealth i else if i < 12 then stackHealth (i - 4) else 0
  | .hbm | .nmu => stackHealth i
  | .chan => if (chan s i).st = 0 then 0 else if (chan s i).st = 1 then 1 else 2
  | .nar =>
    if (link s (14 + i)).st == 2 then 2
    else if (List.range 4).any (fun q => (port s (4 * i + q)).st == 2 || (port s (4 * i + q)).wl != BitVec.allOnes 16) then 1
    else 0
  | .port =>
    if (port s i).st == 2 || s.flash.retiredPorts.contains i then 2
    else if (port s i).wl != BitVec.allOnes 16 then 1 else 0
  | .link => if (link s i).st = 3 then 3 else if (link s i).st = 2 then 2 else 0
  | .tb => if bridgeFaulted s i then 2 else 0
  | .lpd => if s.flash.retiredPkgs.contains i then 2 else 0
  | .site =>
    if !s.site.admitted then 3 else if s.site.siteFenced then 2
    else if s.site.fenced.any id && !s.flash.variantC then 1 else 0
  | .sec | .ras | .sup => if pageUnused s page then 3 else 0
  | .hubc | .hst | .pkg | .ring => 0

/-- HEALTH_CHANGE on every page of a list whose HEALTH differs between two states (R447, R452). -/
def State.noteHealth (s t : State) (pages : List Nat) : State :=
  pages.foldl (fun u g => if health s g = health t g then u else u.raise_ g 0) t

/-- Every header-only page (R447). -/
def hdrPages : List Nat :=
  ([Blk.tb, .hubc, .die, .link, .lpd, .chan, .port]).flatMap (fun b => (List.range b.info.2.1).map b.page)

/-! ### Commands in flight -/

def State.cmd? (s : State) (id : Nat) : Option Cmd := s.cmds.find? (fun c => c.id == id)

/-- Change a command in flight; its number stays. -/
def State.modCmd (s : State) (id : Nat) (f : Cmd → Cmd) : State :=
  { s with cmds := s.cmds.map (fun c => if c.id = id then { f c with id := c.id } else c) }

/-- Envelope and payload fields (Table HST-2). Bit n of the command is bit n of the 4,096-bit value. -/
def Cmd.fld (c : Cmd) (hi lo : Nat) : Nat := Machine.fld c.bits.toNat hi lo
def envTag (b : CmdBits) : Nat := fld b.toNat 511 448
def envClusters (b : CmdBits) : Nat := fld b.toNat 335 288
def envCores (b : CmdBits) : Nat := fld b.toNat 287 280
def envPrio (b : CmdBits) : Nat := fld b.toNat 11 8
def envClass (b : CmdBits) : Nat := fld b.toNat 7 0
/-- A field of the 64-bit payload word at a payload offset. -/
def payFld (b : CmdBits) (off hi lo : Nat) : Nat := fld b.toNat (512 + 8 * off + hi) (512 + 8 * off + lo)

/-- An entry's DETAIL3: the TAG of the command it affects (R413). -/
def tagDet (c : Cmd) : Det := { d3 := BitVec.ofNat 64 (envTag c.bits) }

/-- Module cores a command runs on, in cluster and core order (R335). -/
def cmdCores (s : State) (part : Nat) (b : CmdBits) : List Nat :=
  (bitsOf 48 (envClusters b)).flatMap (fun c => (bitsOf 8 (envCores b)).map (fun k => 8 * clusterAt s part c + k))

/-- Module clusters a command names. -/
def cmdClusters (s : State) (part : Nat) (b : CmdBits) : List Nat :=
  (bitsOf 48 (envClusters b)).map (clusterAt s part)

/-- The issuing cluster: the lowest one named. -/
def cmdHome (s : State) (c : Cmd) : Nat := ((cmdClusters s c.part c.bits).head?).getD 0

/-- Work reaches a sleeping core domain, which waits for its wake (R388, R389). -/
def State.wantCore (s : State) (k : Nat) : State :=
  let d : CoreDom := SMap.get {} s.coreDoms k
  if d.asleep && !d.waking && !d.waitWake then
    (s.modCoreDom k (fun d => { d with waitWake := true })).modDie (k / 96) (fun x => { x with wakeQ := x.wakeQ ++ [k] })
  else s

/-- Work reaches some clusters: the sleeping ones among them start to wake (R388); the Bool says that there are
some. -/
def State.wantClusters (s : State) (cls : List Nat) : State × Bool :=
  let down := cls.filter (fun c => (cluster s c).asleep)
  (down.foldl (fun t c =>
    if (cluster t c).waking then t
    else (t.modCluster c (fun x => { x with waking := true })).modDie (c / 12) (fun x =>
      { x with clusterWakes := satAdd 32 x.clusterWakes 1 })) s, !down.isEmpty)

/-- Progress in a cluster (R139). -/
def State.progress (s : State) (cl : Nat) : State :=
  s.modCluster cl (fun c => { c with progress := s.now, sentinel := s.now })

/-- Time moves to a reading that is not before the present one. -/
def State.at_ (s : State) (t : Nat) : State := { s with now := Nat.max s.now t }

end Sys2Proof.Machine
end

