-- ==== Sys2Proof/Machine/Memory.lean ====
section
/-! DEFINITION. Module memory: where an address lies (R168, R248–R252, R318, R319), fresh bits (R185–R187),
poison (R175, R176), and reads and writes of bytes.

A physical key is domain × 2^48 + partition × 2^41 + offset, with domain 0 HBM (offset = HBM offset), 1 tier 1
(tier-1 byte offset), 2 the open window, 3 the partition's hub SRAM share. Memory holds plaintext; the XTS keys
of R370 are generations, and drawing a new key erases what the old one protected (R371). A granule moved out of a
retired channel keeps its HBM key (R184: its module address does not change). -/

namespace Sys2Proof.Machine

def gib : Nat := 2 ^ 30

/-- Bytes per domain and partition in the key space. -/
def key (dom p off : Nat) : Nat := 2 ^ 48 * dom + 2 ^ 41 * p + off
def keyDom (k : Nat) : Nat := k / 2 ^ 48
def keyPart (k : Nat) : Nat := k / 2 ^ 41 % 128
def keyOff (k : Nat) : Nat := k % 2 ^ 41

/-! ### Ranges (R248, R319) -/

/-- Tier cache share in force for a partition, in GiB of the module. -/
def shareOf (s : State) (p : Nat) : Nat := s.settings.shareNow.getD p 128

/-- H of R248 in bytes. -/
def hbmHomed (s : State) (p : Nat) : Nat := diesPer s * (128 * gib - gib * shareOf s p / 4)

/-- End of the tier-1-homed part. -/
def rangeEnd (s : State) (p : Nat) : Nat := hbmHomed s p + 256 * gib * diesPer s

/-- HBM bytes of a partition (R167). -/
def hbmBytes (s : State) : Nat := 128 * gib * diesPer s

/-- First offset of the open window (R319). -/
def openBase : Nat := 0x1F000000000

/-- Length of a partition's open window in MiB (R318, R319). -/
def openShareMib (s : State) (p : Nat) : Nat :=
  if !s.site.admitted then 0
  else if s.flash.variantC then (if s.settings.openOwner = p then s.site.capacity else 0)
  else diesPer s * 96

/-- Partition number and offset of a module address, when bits [47:43] are zero (R248). -/
def addrPart (a : Nat) : Nat := fld a 42 41
def addrOff (a : Nat) : Nat := fld a 40 0
def modAddr (p x : Nat) : Nat := 2 ^ 41 * p + x

/-- Every byte of an extent is in partition p's range (R249, R319). -/
def inRange (s : State) (p a len : Nat) : Bool :=
  let x := addrOff a
  decide (a < 2 ^ 43) && addrPart a == p &&
    (decide (x + len ≤ rangeEnd s p) ||
      (decide (openBase ≤ x) && decide (x + len ≤ openBase + 2 ^ 20 * openShareMib s p)))

def isOpen (x : Nat) : Bool := decide (openBase ≤ x)

/-- The offset is in the tier-1-homed part. -/
def isTier1 (s : State) (p x : Nat) : Bool := decide (hbmHomed s p ≤ x) && decide (x < rangeEnd s p)

/-! ### Placement on channels (R168, R251) -/

/-- The XOR fold of the upper bits. -/
def foldXor : Nat → Nat → Nat → Nat
  | 0, _, _ => 0
  | n + 1, c, x => if x = 0 then 0 else (x % 2 ^ c) ^^^ foldXor n c (x >>> c)

/-- log2 of the partition's channel count 64 d. -/
def chanBits (s : State) : Nat := Nat.log2 (64 * diesPer s)

/-- Partition channel and channel offset of an HBM offset (R168); also the colour rule of R251. -/
def place (s : State) (off : Nat) : Nat × Nat :=
  let g := off >>> 12
  let c := chanBits s
  let l := g >>> c
  ((g % 2 ^ c) ^^^ foldXor 64 c l, (l <<< 12) + off % 4096)

/-- Module channel of partition p's channel number. -/
def moduleChan (s : State) (p pc : Nat) : Nat := 64 * firstDie s p + pc

/-- HBM offset of a channel offset on a partition channel: the inverse of R168. -/
def unplace (s : State) (pc co : Nat) : Nat :=
  let c := chanBits s
  let l := co >>> 12
  (((l <<< c) + (pc ^^^ foldXor 64 c l)) <<< 12) + co % 4096

/-- Colour of the slab at a partition offset: the partition channel of its granule 0 (R251). -/
def colourOf (s : State) (x : Nat) : Nat := (place s (65536 * (x / 65536))).1

/-- The module channel that serves a key of the HBM domain, and its channel offset. -/
def chanOfKey (s : State) (k : Nat) : Nat := moduleChan s (keyPart k) (place s (keyOff k)).1
def chanOff (s : State) (k : Nat) : Nat := (place s (keyOff k)).2

/-- Bank and row of a channel offset (R168). -/
def bankOf (co : Nat) : Nat := (co >>> 11) % 64
def rowOf (co : Nat) : Nat := co >>> 17

/-- Module HBM key of a channel's channel offset. -/
def keyOfChan (s : State) (ch co : Nat) : Nat :=
  key 0 (partOfChan s ch) (unplace s (ch - 64 * firstDie s (partOfChan s ch)) co)

/-! ### Resident copies (R252, R253) -/

/-- The frame that holds a slab, ready or not. Slabs are numbered x >> 16 (R248). -/
def frameOf (s : State) (p slab : Nat) : Option (Nat × Frame) :=
  ((tier s p).frames.findSome? fun e =>
    match e.2 with
    | some f => if f.slab = slab then some (e.1, f) else none
    | none => none)

/-- HBM key of frame f of the tier cache (R252). -/
def frameKey (s : State) (p f : Nat) : Nat := key 0 p (hbmHomed s p + 65536 * f)

/-- Tier-1 key of a slab's home frame (R262). -/
def homeKey (s : State) (p slab : Nat) : Nat := key 1 p (65536 * slab - hbmHomed s p)

/-- Where an offset of a partition's range lies: memory under a key, or a slab without a ready copy. -/
inductive Place where
  | mem (key : Nat)
  | slab (n : Nat)
deriving DecidableEq, Repr

def locate (s : State) (p x : Nat) : Place :=
  if isOpen x then .mem (key 2 p (x - openBase))
  else if isTier1 s p x then
    match frameOf s p (x / 65536) with
    | some (f, fr) => if fr.ready then .mem (frameKey s p f + x % 65536) else .slab (x / 65536)
    | none => .slab (x / 65536)
  else .mem (key 0 p x)

/-- Slabs of an extent that have no ready copy (R253). -/
def missing (s : State) (p x len : Nat) : List Nat :=
  if len = 0 then []
  else ((List.range (((x + len - 1) / 65536) + 1 - x / 65536)).map (· + x / 65536)).filter
    (fun n => match locate s p (65536 * n) with | .slab _ => true | .mem _ => false)

/-! ### Bytes -/

/-- The byte under a key; a byte not listed reads as zero (R185). -/
def Memory.byte (m : Memory) (k : Nat) : Byte := SMap.get 0 m k

/-- Canonical form: keys rise strictly and no zero byte is listed. -/
def Memory.wf (m : Memory) : Bool := SMap.wf 0 m

def Memory.put (m : Memory) (k : Nat) (b : Byte) : Memory := SMap.set 0 m k b

/-- Put bytes from a key upward. -/
def Memory.puts : Memory → Nat → List Byte → Memory
  | m, _, [] => m
  | m, k, b :: bs => Memory.puts (Memory.put m k b) (k + 1) bs

/-- Forget every byte whose key `p` holds of: it reads as zero. -/
def Memory.drop (m : Memory) (p : Nat → Bool) : Memory := SMap.dropKeys p m

def State.byte (s : State) (k : Nat) : Byte := s.mem.byte k

/-- Bytes from a key upward. -/
def State.bytes (s : State) (k len : Nat) : List Byte := (List.range len).map (fun i => s.byte (k + i))

/-- The key of an offset whose slab is ready; a slab that is not reads at its home frame's place. -/
def keyAt (s : State) (p x : Nat) : Nat :=
  match locate s p x with
  | .mem k => k
  | .slab _ => key 1 p (x - hbmHomed s p)

/-- Bytes of a partition's range, by offset. -/
def State.range (s : State) (p x len : Nat) : List Byte :=
  (List.range len).map (fun i => s.byte (keyAt s p (x + i)))

/-- A little-endian number from a partition's range. -/
def State.num (s : State) (p x len : Nat) : Nat := leNat (s.range p x len)

/-- The key lies in a granule that the spare pool could not take: its accesses are the ones that read as poisoned
when the poison map does not list them (R184). -/
def isLost (s : State) (k : Nat) : Bool :=
  keyDom k == 0 &&
    (match (chan s (chanOfKey s k)).lost with
     | some g => decide (g ≤ chanOff s k / 4096)
     | none => false)

/-- The 64-byte access of a key is poisoned (R175, R184). -/
def isPoisoned (s : State) (k : Nat) : Bool := SMap.get false s.poison (k / 64) != isLost s k

/-- Some access of the extent is poisoned (R176). -/
def poisoned (s : State) (k len : Nat) : Bool :=
  (List.range ((k % 64 + len + 63) / 64)).any (fun i => isPoisoned s (k / 64 * 64 + 64 * i))

/-- Some access of a range by offset is poisoned. -/
def poisonedRange (s : State) (p x len : Nat) : Bool :=
  (List.range ((x % 64 + len + 63) / 64)).any
    (fun i => isPoisoned s (keyAt s p (x / 64 * 64 + 64 * i)))

/-- The granule's fresh bit (R185). -/
def isFresh (s : State) (k : Nat) : Bool := !SMap.get false s.written (k / 4096)

def State.clearFresh (s : State) (k : Nat) : State := { s with written := SMap.set false s.written (k / 4096) true }
def State.setPoison (s : State) (k : Nat) (b : Bool) : State :=
  { s with poison := SMap.set false s.poison (k / 64) (b != isLost s k) }

/-- Set the fresh bits of the keys that `p` holds of, which erases their bytes and poison (R187, R371);
`p` is constant over a granule. -/
def State.freshen (s : State) (p : Nat → Bool) : State :=
  { s with
    mem := s.mem.drop p
    written := SMap.dropKeys (fun g => p (4096 * g)) s.written
    poison := SMap.dropKeys (fun a => p (a * 64)) s.poison }

/-- Write bytes under a key within one granule: the fresh bit clears (R186). -/
def State.poke (s : State) (k : Nat) (bs : List Byte) : State :=
  ({ s with mem := s.mem.puts k bs }).clearFresh k

/-- Cut an extent at multiples of n: (offset, length) pieces. -/
def cuts : Nat → Nat → Nat → Nat → List (Nat × Nat)
  | 0, _, _, _ => []
  | fuel + 1, n, x, len =>
    if len = 0 then []
    else
      let m := Nat.min len (n - x % n)
      (x, m) :: cuts fuel n (x + m) (len - m)

def cutsOf (n x len : Nat) : List (Nat × Nat) := cuts (len / n + 2) n x len

/-- A wide write of one 64-byte access or part of it (R176): a partial write of a poisoned access is dropped.
The Bool says that it was. -/
def State.wide64 (s : State) (k : Nat) (bs : List Byte) : State × Bool :=
  if isPoisoned s k then
    if bs.length = 64 then ((s.poke k bs).setPoison k false, false) else (s, true)
  else (s.poke k bs, false)

/-- Mark the frame that holds an offset dirty (R257) and used (R256). -/
def State.dirtyAt (s : State) (p x : Nat) : State :=
  if isTier1 s p x then
    match frameOf s p (x / 65536) with
    | some (f, fr) =>
      s.modTier p (fun t =>
        { t with
          frames := SMap.set none t.frames f
            (some { fr with dirty := true, used := t.useClock + 1, redirty := fr.redirty || fr.wb })
          useClock := t.useClock + 1 })
    | none => s
  else s

/-- Note a use of the frame that holds an offset (R256). -/
def State.useAt (s : State) (p x : Nat) : State :=
  if isTier1 s p x then
    match frameOf s p (x / 65536) with
    | some (f, fr) =>
      s.modTier p (fun t =>
        { t with
          frames := SMap.set none t.frames f (some { fr with used := t.useClock + 1 })
          useClock := t.useClock + 1 })
    | none => s
  else s

/-- A wide write into a partition's range by offset; the Bool says that a poisoned access dropped part of it. -/
def State.wideAt (s : State) (p x : Nat) (bs : List Byte) : State × Bool :=
  (cutsOf 64 x bs.length).foldl
    (fun (st : State × Bool) c =>
      let r := st.1.wide64 (keyAt st.1 p c.1) ((bs.drop (c.1 - x)).take c.2)
      (if r.2 then r.1 else r.1.dirtyAt p c.1, st.2 || r.2)) (s, false)

/-- A narrow write (R171, R176): dropped whole when its access is poisoned. -/
def State.narrowAt (s : State) (p x : Nat) (bs : List Byte) : State × Bool :=
  let k := keyAt s p x
  if isPoisoned s k then (s, true) else ((s.poke k bs).dirtyAt p x, false)

/-- The module dies and stacks behind an offset count a fresh read (R185); a window or tier-1 key counts
none here. -/
def State.countFresh (s : State) (k : Nat) : State :=
  if keyDom k = 0 && isFresh s k then
    s.modStack (chanOfKey s k / 32) (fun st => { st with freshRd := satAdd 64 st.freshRd 1 })
  else s

/-- Count a read over the granules of an extent. -/
def State.countRead (s : State) (p x len : Nat) : State :=
  (cutsOf 4096 x len).foldl (fun t c => t.countFresh (keyAt t p c.1)) s

/-! ### The tier manager's queue (R256) -/

/-- Queue a fetch; one already queued or under way keeps the higher class. -/
def State.queueFetch (s : State) (p slab cls : Nat) (cmd : Option Nat) : State :=
  if (frameOf s p slab).isSome then s
  else
    s.modTier p (fun t =>
      if t.jobs.any (fun j => j.slab == slab && !j.wb) then
        { t with
          jobs := t.jobs.map (fun j =>
            if j.slab = slab && !j.wb then { j with cls := Nat.min j.cls cls, cmd := j.cmd.orElse (fun _ => cmd) }
            else j) }
      else { t with jobs := t.jobs ++ [{ slab := slab, cls := cls, wb := false, cmd := cmd }] })

end Sys2Proof.Machine
end

