-- ==== Sys2Proof/Machine/Envelope.lean ====
section
/-! DEFINITION. Dispatch of ring commands (R334–R337, R344), contexts (R144–R147) and the end of a command. -/

namespace Sys2Proof.Machine

/-! ### Status codes (Table HST-8) -/

def St.done : Nat := 0x0000
def St.tileIllegal : Nat := 0x0010
def St.malformed : Nat := 0x0011
def St.ladder : Nat := 0x0020
def St.lockPoisoned : Nat := 0x0021
def St.stallAborted : Nat := 0x0022
def St.codecDamaged : Nat := 0x0030
def St.tierUnreachable : Nat := 0x0031
def St.dataPoisoned : Nat := 0x0032
def St.slotDenied : Nat := 0x0040
def St.stampMismatch : Nat := 0x0041
def St.misplaced : Nat := 0x0042
def St.keyAbsent : Nat := 0x0050
def St.fence : Nat := 0x0051
def St.openFenced : Nat := 0x0052
def St.fabricTimeout : Nat := 0x0060
def St.peerDeparted : Nat := 0x0061
def St.collMismatch : Nat := 0x0062
def St.seedUnset : Nat := 0x0070
def St.aborted : Nat := 0x00F0

/-! ### Rows of ring commands -/

/-- The operation within a class: FUSED for MATMUL (Table HST-4), OP with PERSIST for HOD (Table HST-6), OP
elsewhere. -/
def cmdSub (b : CmdBits) : Nat :=
  let op := payFld b 0 7 0
  match envClass b with
  | 1 => payFld b 0 57 57
  | 2 => if op = 1 then op + 256 * payFld b 0 8 8 else op
  | _ => op

/-- Classes and operations that the manual defines (Tables HST-3, HST-6, NMU-5, SYN-3, NAR-3, TIR-3, SEC-8,
TRN-7, R417). -/
def subsOf (cls : Nat) : List Nat :=
  match cls with
  | 1 => [0, 1]
  | 2 => [0x01, 0x101, 0x02, 0x03]
  | 3 => [0x01, 0x02, 0x03, 0x04, 0x05, 0x06, 0x07, 0x08, 0x09, 0x0A, 0x0B, 0x10, 0x11, 0x12, 0x18, 0x19,
      0x20, 0x21, 0x22, 0x28, 0x30]
  | 4 => [0x01, 0x02, 0x03, 0x04, 0x05, 0x10, 0x11, 0x12, 0x13, 0x14, 0x20, 0x30]
  | 5 => [1, 2, 3, 4, 5, 6]
  | 6 => [1, 2, 3, 4, 5, 6]
  | 7 => [1, 2, 3]
  | 8 => [1, 2, 3]
  | 9 => [1]
  | _ => []

/-- The row of a class and operation takes the command at a slot: it is that operation, or a command that no row
names and that any row of its class, or any row for an unknown class, refuses (log 10). -/
def rowTakes (cls sub : Nat) (b : CmdBits) : Bool :=
  if (subsOf (envClass b)).isEmpty then true
  else envClass b == cls && (cmdSub b == sub || !(subsOf cls).contains (cmdSub b))

/-! ### Rings -/

def ringPage (k : Nat) : Nat := Blk.ring.page k
def ringSize (s : State) (k : Nat) : Nat := 2 ^ s.regFld (ringPage k) Reg.ringCtl 4 0
def ringBase (s : State) (k : Nat) : Nat := s.regFld (ringPage k) Reg.ringBase 47 9 * 512
def ringCpl (s : State) (k : Nat) : Nat := s.regFld (ringPage k) Reg.ringCpl 47 5 * 32

/-- A partition runs commands: the module is operational and so is the partition (R424, R429, R408), no skim or
overwrite runs (R372), and dispatch has not stopped for a lost heartbeat (R409). -/
def partRuns (s : State) (p : Nat) : Bool :=
  s.startup.phase == 7 && s.startup.part.getD p 1 == 0 && (sec s p).skim.isNone && (sec s p).overwriting.isNone &&
    s.startup.beatLost.isNone && !s.startup.dead

/-- The 512 bytes of a slot as one little-endian value (R334). -/
def slotBits (s : State) (k i : Nat) : CmdBits :=
  BitVec.ofNat 4096 (s.num (addrPart (ringBase s k)) (addrOff (ringBase s k) + 512 * i) 512)

/-- The slot's bytes can be read now (R253); a tier-1-homed slot waits on slab-ready. -/
def slotReady (s : State) (k i : Nat) : Bool :=
  (missing s (addrPart (ringBase s k)) (addrOff (ringBase s k) + 512 * i) 512).isEmpty

/-- A slot that lies in a poisoned access: its read ends the command with DATA_POISONED (R176, R344). -/
def slotPoisoned (s : State) (k i : Nat) : Bool :=
  poisonedRange s (addrPart (ringBase s k)) (addrOff (ringBase s k) + 512 * i) 512

/-- A command of the ring that holds back the ring's next one: it waits for admission (R344), or for the guard table
(R60). -/
def holdsBack (k : Nat) (c : Cmd) : Bool :=
  c.ring == k && c.status.isNone && (c.wait == .admission || c.wait == .guard)

/-- Every host window write that arrived before the host's last doorbell has been done (R346). -/
def seesWrites (s : State) (r : Ring) : Bool := !s.pcie.accs.any (fun a => a.data.isSome && decide (a.id < r.seen))

/-- The command that the dispatcher may take from one of the 64 rings now (R342, R344). While a STEP_BEGIN of the partition waits, no
command is dispatched that would not yet use the values it copies (R60, log 21). -/
def nextOf (s : State) (k : Nat) : Option CmdBits :=
  let r := ring s k
  let b := slotBits s k r.head
  if decide (k < 64) && r.st == 1 && !r.clearing && r.head != r.tail && !r.busy.contains r.head && partRuns s (partOfRing s k) &&
      slotReady s k r.head && seesWrites s r && !(s.cmds.any (holdsBack k)) && (ledger s (partOfRing s k)).pushWait.isNone &&
      !(b.getLsbD 14 && s.cmds.any (fun c => c.ring == k)) then some b else none

/-! ### Envelope checks (R335, R336, R404) -/

def popCount (n v : Nat) : Nat := (bitsOf n v).length

/-- Number of cores an envelope names. -/
def envWidth (b : CmdBits) : Nat := popCount 48 (envClusters b) * popCount 8 (envCores b)

/-- Commands that may name more than one core (R335). -/
def manyCores (b : CmdBits) : Bool :=
  envClass b == 1 || (envClass b == 4 && (cmdSub b == 0x20 || cmdSub b == 0x30))

def envMalformed (b : CmdBits) : Bool :=
  let v := b.toNat
  fld v 31 24 != 1 || (subsOf (envClass b)).isEmpty || fld v 447 336 != 0 || fld v 279 256 != 0 ||
    fld v 223 32 != 0 || fld v 23 16 != 0 || fld v 13 12 != 0 || envClusters b == 0 || envCores b == 0 ||
    (!manyCores b && envWidth b != 1) || (fld v 224 224 == 0 && fld v 255 225 != 0)

def envFenced (s : State) (p : Nat) (b : CmdBits) : Bool :=
  let v := b.toNat
  decide (2 ^ clustersPer s ≤ envClusters b) ||
    (fld v 224 224 == 1 && decide (clustersPer s ≤ fld v 239 234)) ||
    (cmdCores s p b).any (fun x => coreRetired s x || clusterRetired s (x / 8))

/-- A core on which the ring has already retired its context (R151). -/
def afterRetire (s : State) (k p : Nat) (b : CmdBits) : Bool :=
  (cmdCores s p b).any (fun x => (ring s k).retired.contains x)

/-- Status of a command refused at the envelope; none when it passes. -/
def envStatus (s : State) (k : Nat) (b : CmdBits) : Option Nat :=
  let p := partOfRing s k
  if envMalformed b || !(subsOf (envClass b)).contains (cmdSub b) then some St.malformed
  else if envFenced s p b then some St.fence
  else if afterRetire s k p b then some St.malformed
  else none

/-! ### Contexts (R144–R147) -/

def ctx (s : State) (n : Nat) : Ctx := SMap.get {} s.ctxs n

/-- Something about a core changes: it has been at work up to now, so its idle time starts again (Table PWR-2). -/
def State.stirCore (s : State) (k : Nat) : State := s.modCoreDom k (fun d => { d with idleSince := s.now })

/-- The same for a cluster and for a near-memory group. -/
def State.stirCluster (s : State) (c : Nat) : State := s.modCluster c (fun x => { x with idleSince := s.now })
def State.stirGroup (s : State) (ch : Nat) : State :=
  s.modStack (ch / 32) (fun x => { x with groupIdle := x.groupIdle.set (ch % 32 / 8) s.now })

def State.modCtx (s : State) (n : Nat) (f : Ctx → Ctx) : State :=
  ({ s with ctxs := SMap.modify {} s.ctxs n f }).stirCore (n / 4)
def coreCtx (s : State) (n : Nat) : Core := SMap.get {} s.cores n
def State.modCore (s : State) (n : Nat) (f : Core → Core) : State := { s with cores := SMap.modify {} s.cores n f }

/-- Context number n of a core as a module number: 4 × core + n. -/
def ctxNums (core : Nat) : List Nat := (List.range 4).map (4 * core + ·)

/-- The context bound to a ring on a core. -/
def boundCtx (s : State) (k core : Nat) : Option Nat :=
  (ctxNums core).find? (fun n => (ctx s n).ring == some k)

/-- The context of a ring on a core, or the lowest free one. -/
def ctxFor (s : State) (k core : Nat) : Option Nat :=
  match boundCtx s k core with
  | some n => some n
  | none => (ctxNums core).find? (fun n => (ctx s n).ring.isNone)

/-- Every core that a command needs has a context for its ring (R144). -/
def canBind (s : State) (k : Nat) (cores : List Nat) : Bool := cores.all (fun c => (ctxFor s k c).isSome)

/-- Bind the ring on each core; a context that had no work becomes runnable with the command's priority. -/
def State.bind_ (s : State) (k prio : Nat) (cores : List Nat) : State :=
  cores.foldl (fun t c =>
    match ctxFor t k c with
    | some n =>
      (t.modCtx n (fun x =>
        if x.st = 1 then { x with ring := some k, prio := prio }
        else { x with ring := some k, st := 2, since := t.now, prio := prio })).wantCore c
    | none => t) s

/-- A context's number within its cluster (R144). -/
def ctxInCluster (n : Nat) : Nat := n % 32
/-- The cluster of a context. -/
def ctxCluster (n : Nat) : Nat := n / 32

/-- The module contexts that run a command. -/
def cmdCtxs (s : State) (c : Cmd) : List Nat := (cmdCores s c.part c.bits).filterMap (boundCtx s c.ring)

/-- The issuing context of a command on one core (R335). -/
def cmdCtx (s : State) (c : Cmd) : Nat := ((cmdCtxs s c).head?).getD 0

/-- A context leaves its core to wait (R146). -/
def State.ctxWaits (s : State) (n : Nat) : State :=
  let t := s.modCtx n (fun x => { x with st := 3 })
  if (coreCtx t (n / 4)).running = some n then t.modCore (n / 4) (fun c => { c with running := none }) else t

/-- A context returns to the runnable state (R146). -/
def State.ctxWakes (s : State) (n : Nat) : State :=
  if (ctx s n).st = 3 then (s.modCtx n (fun x => { x with st := 2, since := s.now })).wantCore (n / 4) else s

/-- A context has an unfinished command that does not wait. -/
def ctxBusy (s : State) (n : Nat) : Bool :=
  s.cmds.any (fun c => c.status.isNone && c.wait == .none && (ctx s n).ring == some c.ring &&
    (cmdCores s c.part c.bits).contains (n / 4))

/-- A command begins to wait, and its contexts that have no other work leave their cores (R146). -/
def State.cmdWaits (s : State) (id : Nat) (w : Wait) : State :=
  match s.cmd? id with
  | some c =>
    let t := s.modCmd id (fun c => { c with wait := w })
    ((cmdCtxs s c).filter (fun n => !ctxBusy t n)).foldl State.ctxWaits t
  | none => s

/-- Microseconds in which some command of the partition waited on slab-ready, once none does (Table TIR-13). -/
def State.settleWait (s : State) (p : Nat) : State :=
  match (tier s p).waitFrom with
  | some u =>
    if s.cmds.any (fun c => c.part == p && (match c.wait with | .slabReady _ => true | _ => false)) then s
    else
      (s.bump (Blk.tir.page (firstDie s p)) Reg.tirReadyWait 63 0 ((s.now - u) / 1000)).modTier p
        (fun t => { t with waitFrom := none })
  | none => s

/-- A wait during which the sentinel does not run (R140, R417). -/
def Wait.exempt : Wait → Bool
  | .lintel | .coll | .slabReady _ | .slotGrant _ | .snap => true
  | _ => false

/-- A command's wait ends; the sentinel's measure starts again after a wait that stops it (R140, log 20). -/
def State.cmdWakes (s : State) (id : Nat) : State :=
  match s.cmd? id with
  | some c =>
    let t := ((cmdCtxs s c).foldl State.ctxWakes (s.modCmd id (fun c => { c with wait := .none }))).settleWait c.part
    if c.wait.exempt then
      (cmdClusters s c.part c.bits).foldl (fun u cl => u.modCluster cl (fun x => { x with sentinel := u.now })) t
    else t
  | none => s

/-! ### The end of a command -/

/-- Take a command's work out of engines, hods, units, queues and the tier manager. -/
def State.dropWork (s : State) (id : Nat) : State :=
  let quad (q : Quad) : Quad :=
    { q with
      queue := q.queue.filter (fun t => t.cmd != id)
      sweep := if (q.queue.head?.map (·.cmd)) = some id then 0 else q.sweep
      drains := q.drains.filter (fun d => d.cmd != id)
      convs := q.convs.filter (fun v => v.cmd != id)
      acc := SMap.dropKeys (fun k => k / 2 ^ 98 == id) q.acc }
  let unit (c : Chan) : Chan :=
    { c with queue := c.queue.filter (fun g => g.cmd != id), commits := c.commits.filter (fun g => g.cmd != id) }
  let frame (f : Option Frame) : Option Frame := f.map (fun r => { r with pins := r.pins.filter (· != id) })
  let tier (t : Tier) : Tier :=
    { t with frames := SMap.mapVals none frame t.frames, jobs := t.jobs.filter (fun j => j.cmd != some id) }
  let rearm (x : Persist) : Persist :=
    { x with rearms := x.rearms.filter (· != id), current := if x.current = some id then none else x.current }
  { s with
    quads := SMap.mapVals {} quad s.quads
    persists := s.persists.map rearm
    reqs := s.reqs.filter (fun r => r.cmd != id)
    chans := SMap.mapVals {} unit s.chans
    sems := SMap.mapVals {} (fun m => { m with waiters := m.waiters.filter (fun w => w.2 != id) }) s.sems
    ctrs := SMap.mapVals {} (fun m => { m with waiters := m.waiters.filter (fun w => w.2.1 != id) }) s.ctrs
    lintels := SMap.mapVals {} (fun m => { m with arrived := m.arrived.filter (fun a => a.2 != id) }) s.lintels
    tiers := SMap.mapVals {} tier s.tiers }

/-- A command's hold on tier-cache frames ends (R255). -/
def State.unpin (s : State) (id : Nat) : State :=
  let frame (f : Option Frame) : Option Frame := f.map (fun r => { r with pins := r.pins.filter (· != id) })
  { s with tiers := SMap.mapVals {} (fun t => { t with frames := SMap.mapVals none frame t.frames }) s.tiers }

/-- End a command with a status; one that has ended keeps its own (R352). Its contexts wake. A digest that is not complete is
no result (Table HST-7). -/
def State.endCmd (s : State) (id st : Nat) : State :=
  match s.cmd? id with
  | some c =>
    if c.status.isSome then s
    else
      let t := (cmdClusters s c.part c.bits).foldl State.stirCluster (c.units.foldl State.stirGroup (s.cmdWakes id))
      let u := if st = St.done then t.unpin id else t.dropWork id
      u.modCmd id (fun c =>
        { c with status := some st, wait := .none, result := if envClass c.bits = 3 && st != St.done then 0 else c.result })
  | none => s

/-- A command ends with DONE, its flags deciding the rest at completion (R49). -/
def State.finishCmd (s : State) (id : Nat) : State :=
  match s.cmd? id with
  | some c => s.endCmd id (c.late.getD St.done)
  | none => s

/-- Note a status that the command ends with once its work is done; the first one stays (R352). -/
def State.noteLate (s : State) (id st : Nat) : State :=
  s.modCmd id (fun c => { c with late := some (c.late.getD st) })

/-- Flags of a command are sticky (R49). -/
def State.addFlags (s : State) (id : Nat) (f : Flags) : State :=
  s.modCmd id (fun c => { c with flags := c.flags ||| f })

def State.setResult (s : State) (id : Nat) (r : Word) : State := s.modCmd id (fun c => { c with result := r })

/-! ### Dispatch -/

/-- The seed in force for a partition (R47, R67). -/
def seedOf (s : State) (p : Nat) : Option Word :=
  let g := Blk.qg.page (firstDie s p)
  if (s.reg g Reg.qgKeyStat).testBit 0 then some (BitVec.ofNat 64 (s.reg g Reg.qgSeed)) else none

def stepOf (s : State) (p : Nat) : Word := BitVec.ofNat 64 (s.reg (Blk.qg.page (firstDie s p)) Reg.qgStep)

/-- SVT-16 compatibility in force (Table HOD-14). -/
def compatOn (s : State) (p : Nat) : Bool := (s.reg (Blk.hod.page (firstCluster s p)) Reg.hodCompat).testBit 1

/-- The command as dispatch takes it from its slot, with what it samples (R23, R47, R345). -/
def newCmd (s : State) (k : Nat) (b : CmdBits) : Cmd :=
  let p := partOfRing s k
  let r := ring s k
  { id := s.nextCmd, ring := k, part := p, slot := r.head, seq := r.seq,
    phase := r.seq / ringSize s k % 2 == 0, bits := b, det := (ledger s p).detOn, compat := compatOn s p,
    trace := (ledger s p).traceOn, step := stepOf s p, seed := seedOf s p }

/-- Copy slot HEAD and advance HEAD; the open ledger record notes the command (R240, R241, R344). -/
def State.take_ (s : State) (k : Nat) (b : CmdBits) : State :=
  let c := newCmd s k b
  let s1 := s.modRing k (fun r =>
    { r with head := (r.head + 1) % ringSize s k, seq := (r.seq + 1) % 2 ^ 32, busy := r.busy ++ [r.head] })
  let s2 := (((bitsOf 48 (envClusters b)).filter (· < clustersPer s)).map (clusterAt s c.part)).foldl State.progress
    { s1 with cmds := s1.cmds ++ [c], nextCmd := s1.nextCmd + 1 }
  s2.modLedger c.part (fun l =>
    if l.openAt.isSome then { l with cmds := l.cmds + 1, hashes := l.hashes ++ [(k, b)] } else l)

/-- The next slot of a ring lies in a slab without a copy: the slab is fetched (R253). -/
def State.wantSlot (s : State) (k : Nat) : State :=
  let r := ring s k
  let p := addrPart (ringBase s k)
  if r.st == 1 && !r.clearing && r.head != r.tail then
    (missing s p (addrOff (ringBase s k) + 512 * r.head) 512).foldl (fun t n => t.queueFetch p n 1 none) s
  else s

/-- A command's context still has to serve an earlier command of its ring on a core: one that waits in a SYNC operation or
has not been started (R144, R146); RETIRE comes after every earlier command there (R151). -/
def waitsBehind (s : State) (c : Cmd) : Bool :=
  let last := envClass c.bits == 4 && cmdSub c.bits == 0x30
  s.cmds.any (fun d => d.ring == c.ring && decide (d.id < c.id) && d.status.isNone &&
    (last || !d.checked || d.wait == .sem || d.wait == .ctr || d.wait == .lintel) &&
    (cmdCores s d.part d.bits).any (fun x => (cmdCores s c.part c.bits).contains x))

/-- The command of a ring that a row starts now: one that has been dispatched and not started, because its tables were being
fetched (R99), a cluster that it needs was waking (R388), a core had no free context (R144), or its context had earlier
work. -/
def unstartedOf (cls sub : Nat) (s : State) (k : Nat) : Option Cmd :=
  s.cmds.find? (fun c => c.ring == k && !c.checked && c.status.isNone && rowTakes cls sub c.bits && !waitsBehind s c)

/-- The number of the command that a dispatch row serves now. -/
def servedId (cls sub : Nat) (s : State) (k : Nat) : Nat := (unstartedOf cls sub s k).elim s.nextCmd (·.id)

/-- Order of waiting commands (R126). -/
def before (a b : Cmd) : Bool :=
  decide (envPrio b.bits < envPrio a.bits) || (envPrio a.bits == envPrio b.bits && decide (a.id < b.id))

/-- An earlier waiting command of the partition needs one of the clusters. -/
def heldBack (s : State) (c : Cmd) : Bool :=
  s.cmds.any (fun d => d.part == c.part && d.id != c.id && d.wait == .admission && d.status.isNone && before d c &&
    (cmdClusters s d.part d.bits).any (fun x => (cmdClusters s c.part c.bits).contains x))

/-- Clusters that an operation reaches at its start: those that the command names, and the cluster of a CTR_POST's pair
(R388). -/
def reaches (s : State) (c : Cmd) : List Nat :=
  let far := payFld c.bits 0 47 42
  cmdClusters s c.part c.bits ++
    (if envClass c.bits == 4 && cmdSub c.bits == 0x13 && decide (far < clustersPer s) &&
      !clusterRetired s (clusterAt s c.part far) then [clusterAt s c.part far] else [])

/-- Bind the ring on the command's cores, when the operation binds at dispatch and not at its admission (R126,
R144). -/
def bindNow (atOnce : Bool) (s : State) (c : Cmd) : State :=
  if atOnce then s.bind_ c.ring (envPrio c.bits) (cmdCores s c.part c.bits) else s

/-- Check a dispatched command and start it. One that takes its streams at its admission waits there for its clusters,
contexts and earlier work; any other waits here for the work before it, for sleeping clusters (R388), and for a context as
for admission (R144). -/
def checkAndStart (atOnce : Bool) (check : State → Cmd → Option Nat) (start : State → Cmd → State) (s : State)
    (c : Cmd) : State :=
  if atOnce && waitsBehind s c then s.modCmd c.id (fun c => { c with checked := false })
  else
    match check s c with
    | some st => (s.modCmd c.id (fun c => { c with checked := true })).endCmd c.id st
    | none =>
      let w := s.wantClusters (reaches s c)
      let free := canBind s c.ring (cmdCores s c.part c.bits) && !heldBack s c
      if atOnce && !free then w.1.modCmd c.id (fun c => { c with checked := false, wait := .admission })
      else if atOnce && w.2 then w.1.modCmd c.id (fun c => { c with checked := false, wait := .none })
      else
        start (bindNow atOnce (w.1.modCmd c.id (fun c => { c with checked := true, wait := .none })) c)
          { c with checked := true, wait := .none }

/-- The dispatch row of one operation: a command of it that has not been started, or the ring's next one, with its envelope
checks, its class checks (`check` answers a refusal's status) and its `start`. -/
def dispatchRow (cls sub k : Nat) (check : State → Cmd → Option Nat) (start : State → Cmd → State)
    (s : State) : State :=
  match unstartedOf cls sub s k with
  | some c => checkAndStart true check start s c
  | none =>
    match nextOf s k with
    | none => s.wantSlot k
    | some b =>
      if slotPoisoned s k (ring s k).head then (s.take_ k b).endCmd s.nextCmd St.dataPoisoned
      else if !rowTakes cls sub b then s
      else
        let c := newCmd s k b
        match envStatus s k b with
        | some st => (s.take_ k b).endCmd c.id st
        | none => checkAndStart true check start (s.take_ k b) c

/-- Payload bits from a byte offset on are zero (R334). -/
def payZeroFrom (b : CmdBits) (off : Nat) : Bool := b.toNat >>> (512 + 8 * off) == 0

/-- First failing check of a list. -/
def firstOf (l : List (Bool × Nat)) : Option Nat := (l.find? (fun e => e.1)).map Prod.snd

/-- Post of counts to a cluster's progress at a command's clusters. -/
def State.cmdProgress (s : State) (c : Cmd) : State := (cmdClusters s c.part c.bits).foldl State.progress s

end Sys2Proof.Machine
end

