-- ==== Sys2Proof/Machine/Sync.lean ====
section
/-! DEFINITION. SYNC commands, the ladder rule, poisoned release, the lintel and pointing barriers and context
switches (R144–R165). -/

namespace Sys2Proof.Machine

/-! ### The operation (Table SYN-2) -/

def syncOp (b : CmdBits) : Nat := payFld b 0 7 0
def syncIndex (b : CmdBits) : Nat := payFld b 0 26 16
def syncRank (b : CmdBits) : Nat := payFld b 0 35 32
def syncCluster (b : CmdBits) : Nat := payFld b 0 47 42
def syncValue (b : CmdBits) : Nat := payFld b 8 63 0

/-- The least and greatest VALUE of an operation (Table SYN-3); others take 0. -/
def syncRange (op : Nat) : Nat × Nat :=
  if op = 0x01 then (1, 32) else if op = 0x13 ∨ op = 0x14 then (1, 65535) else (0, 0)

/-- A reserved field or code, or a value outside its range (R151). -/
def syncMalformed (b : CmdBits) : Bool :=
  let op := syncOp b
  !payZeroFrom b 16 || payFld b 0 15 8 != 0 || payFld b 0 31 27 != 0 || payFld b 0 41 36 != 0 ||
    payFld b 0 63 48 != 0 || (!(op == 0x01 || op == 0x10) && syncRank b != 0) ||
    (!(op == 0x11 || op == 0x12 || op == 0x13) && syncCluster b != 0) ||
    (decide (0x10 ≤ op) && decide (op ≤ 0x14) && decide (512 ≤ syncIndex b)) ||
    decide (syncValue b < (syncRange op).1) || decide ((syncRange op).2 < syncValue b)

/-! ### Semaphores and pairs -/

def semKey (cl i : Nat) : Nat := cl * 2048 + i
def ctrKey (cl i : Nat) : Nat := cl * 512 + i
def sem (s : State) (k : Nat) : Sem := SMap.get {} s.sems k
def ctr (s : State) (k : Nat) : Ctr := SMap.get {} s.ctrs k

/-- Change a semaphore or a pair: progress in its cluster (R139). -/
def State.modSem (s : State) (k : Nat) (f : Sem → Sem) : State :=
  ({ s with sems := SMap.modify {} s.sems k f }).progress (k / 2048)
def State.modCtr (s : State) (k : Nat) (f : Ctr → Ctr) : State :=
  ({ s with ctrs := SMap.modify {} s.ctrs k f }).progress (k / 512)

def Sem.held (m : Sem) : Nat := popCount 32 m.holders.toNat
def Sem.holds (m : Sem) (c : Nat) : Bool := m.holders.getLsbD c
def Sem.free (m : Sem) : Bool := decide (m.held < m.cap)
def Ctr.avail (m : Ctr) : Nat := (m.issued - m.retired).toNat

/-- The semaphore or pair an operation names, in the issuing context's own cluster or in CLUSTER (R150). -/
def semOf (s : State) (c : Cmd) : Nat := semKey (cmdHome s c) (syncIndex c.bits)
def ownCtrOf (s : State) (c : Cmd) : Nat := ctrKey (cmdHome s c) (syncIndex c.bits)
def farCtrOf (s : State) (c : Cmd) : Nat := ctrKey (clusterAt s c.part (syncCluster c.bits)) (syncIndex c.bits)

/-- The context that issues a command on one core: the ring's, or the one it will be bound to. -/
def issuer (s : State) (c : Cmd) : Nat :=
  match (cmdCores s c.part c.bits).head? with
  | some x => (ctxFor s c.ring x).getD (4 * x)
  | none => 0

/-- (cluster within the partition, context number): the form of a claim (Table SYN-11). -/
def claimOf (s : State) (n : Nat) : Nat × Nat := (localCluster s (ctxCluster n), ctxInCluster n)

/-- A context holds this pair's claim. -/
def claims (s : State) (k n : Nat) : Bool :=
  (ctr s k).claim == some (claimOf s n) && partOfCluster s (k / 512) == partOfCluster s (ctxCluster n)

/-- Ranks that a context holds (R154). -/
def heldRanks (s : State) (n : Nat) : List Nat :=
  (s.sems.filter (fun e => e.1 / 2048 == ctxCluster n && e.2.holds (ctxInCluster n))).map (fun e => e.2.rank) ++
    (s.ctrs.filter (fun e => claims s e.1 n)).map (fun e => e.2.rank)

/-- A rank is above every rank the context holds (R154). -/
def climbs (s : State) (n r : Nat) : Bool := (heldRanks s n).all (fun h => decide (h < r))

/-- A CTR_POST that may be made (R150–R152); the Nat is the refusal's status. -/
def postCheck (s : State) (part cl k v : Nat) (ns : List Nat) : Option Nat :=
  if clustersPer s ≤ cl || clusterRetired s (clusterAt s part cl) then some St.fence
  else if !ns.any (claims s k) || v = 0 then some St.malformed
  else if (ctr s k).avail + v > 2 ^ 31 - 1 then some St.malformed
  else none

/-- The post would pass but for the available count (R151: CTR_OVERRUN). -/
def overruns (s : State) (k v : Nat) (ns : List Nat) : Bool :=
  ns.any (claims s k) && decide ((ctr s k).avail + v > 2 ^ 31 - 1)

/-- The refusals of R151, R152 and R154 for one operation. -/
def syncCheck (s : State) (c : Cmd) : Option Nat :=
  let b := c.bits
  let op := syncOp b
  let n := issuer s c
  let m := sem s (semOf s c)
  let me := ctxInCluster n
  let own := ctr s (ownCtrOf s c)
  let far := farCtrOf s c
  if syncMalformed b then some St.malformed
  else
    match op with
    | 0x01 => firstOf [(m.holders != 0 || !m.waiters.isEmpty, St.malformed)]
    | 0x02 => firstOf [(m.cap == 0, St.malformed), (!climbs s n m.rank, St.ladder)]
    | 0x03 => firstOf [(m.cap == 0, St.malformed)]
    | 0x04 | 0x05 => firstOf [(!m.holds me, St.malformed)]
    | 0x10 =>
      firstOf [(!own.waiters.isEmpty || (own.claim.isSome && !claims s (ownCtrOf s c) n), St.malformed)]
    | 0x11 =>
      firstOf [(decide (clustersPer s ≤ syncCluster b) || clusterRetired s (far / 512), St.fence),
        ((ctr s far).claim.isSome, St.malformed)]
    | 0x12 =>
      firstOf [(decide (clustersPer s ≤ syncCluster b) || clusterRetired s (far / 512), St.fence),
        (!claims s far n, St.malformed)]
    | 0x13 => postCheck s c.part (syncCluster b) far (syncValue b) [n]
    | 0x14 => firstOf [(!climbs s n own.rank, St.ladder)]
    | 0x20 =>
      let mask := ((SMap.get {} s.lintels c.part : Lintel).mask.getD
        (BitVec.ofNat 64 (s.reg (Blk.syn.page (firstCluster s c.part)) Reg.synLintelRings)))
      firstOf [(!mask.getLsbD c.ring, St.malformed),
        ((cmdCores s c.part b).any (fun x =>
          match boundCtx s c.ring x with
          | some y => !(heldRanks s y).isEmpty
          | none => false), St.ladder)]
    | _ => none

/-! ### Effects -/

/-- Give a unit to a context: the command ends, with LOCK_POISONED on a poisoned semaphore (R156). -/
def State.takeUnit (s : State) (k ctxNo id : Nat) : State :=
  let m := sem s k
  (s.modSem k (fun m => { m with holders := m.holders ||| ((1 : BitVec 32) <<< ctxNo) })).endCmd id
    (if m.poison then St.lockPoisoned else St.done)

/-- Serve waiters of a semaphore in arrival order while a unit is free (R153). -/
def State.serveSem (s : State) (k : Nat) : Nat → State
  | 0 => s
  | n + 1 =>
    let m := sem s k
    match m.waiters with
    | [] => s
    | w :: ws => if m.free then ((s.modSem k (fun m => { m with waiters := ws })).takeUnit k w.1 w.2).serveSem k n else s

/-- Serve waiting takes in arrival order; on a poisoned pair every one ends with LOCK_POISONED (R153, R157). -/
def State.serveCtr (s : State) (k : Nat) : Nat → State
  | 0 => s
  | n + 1 =>
    let m := ctr s k
    match m.waiters with
    | [] => s
    | w :: ws =>
      if m.poison then ((s.modCtr k (fun m => { m with waiters := ws })).endCmd w.2.1 St.lockPoisoned).serveCtr k n
      else if w.2.2 ≤ m.avail then
        ((s.modCtr k (fun m => { m with waiters := ws, retired := m.retired + BitVec.ofNat 32 w.2.2 })).finishCmd
          w.2.1).serveCtr k n
      else s

/-- Post units to a pair and serve the takes that this satisfies. -/
def State.post (s : State) (k v : Nat) : State :=
  (s.modCtr k (fun m => { m with issued := m.issued + BitVec.ofNat 32 v })).serveCtr k (ctr s k).waiters.length

def semInitStart (s : State) (c : Cmd) : State :=
  (s.modSem (semOf s c) (fun m =>
    { m with cap := syncValue c.bits, rank := syncRank c.bits, poison := false })).finishCmd c.id

def semAcquireStart (s : State) (c : Cmd) : State :=
  let k := semOf s c
  let n := cmdCtx s c
  if (sem s k).free && (sem s k).waiters.isEmpty then s.takeUnit k (ctxInCluster n) c.id
  else (s.modSem k (fun m => { m with waiters := m.waiters ++ [(ctxInCluster n, c.id)] })).cmdWaits c.id .sem

def semTryStart (s : State) (c : Cmd) : State :=
  let k := semOf s c
  let n := ctxInCluster (cmdCtx s c)
  if (sem s k).free && (sem s k).waiters.isEmpty && !(sem s k).holds n then (s.setResult c.id 1).takeUnit k n c.id
  else s.finishCmd c.id

def semReleaseStart (s : State) (c : Cmd) : State :=
  let k := semOf s c
  let n := ctxInCluster (cmdCtx s c)
  let t := s.modSem k (fun m => { m with holders := m.holders &&& ~~~((1 : BitVec 32) <<< n) })
  (t.finishCmd c.id).serveSem k (sem s k).waiters.length

def semClearPoisonStart (s : State) (c : Cmd) : State :=
  (s.modSem (semOf s c) (fun m => { m with poison := false })).finishCmd c.id

def ctrInitStart (s : State) (c : Cmd) : State :=
  (s.modCtr (ownCtrOf s c) (fun m =>
    { m with issued := 0, retired := 0, rank := syncRank c.bits, poison := false })).finishCmd c.id

def ctrClaimStart (s : State) (c : Cmd) : State :=
  let k := farCtrOf s c
  (s.modCtr k (fun m => { m with claim := some (claimOf s (cmdCtx s c)) })).endCmd c.id
    (if (ctr s k).poison then St.lockPoisoned else St.done)

def ctrUnclaimStart (s : State) (c : Cmd) : State :=
  (s.modCtr (farCtrOf s c) (fun m => { m with claim := none })).finishCmd c.id

def ctrPostStart (s : State) (c : Cmd) : State := (s.post (farCtrOf s c) (syncValue c.bits)).finishCmd c.id

def ctrTakeStart (s : State) (c : Cmd) : State :=
  let k := ownCtrOf s c
  let m := ctr s k
  let v := syncValue c.bits
  if m.poison then s.endCmd c.id St.lockPoisoned
  else if m.waiters.isEmpty && decide (v ≤ m.avail) then
    (s.modCtr k (fun m => { m with retired := m.retired + BitVec.ofNat 32 v })).finishCmd c.id
  else
    (s.modCtr k (fun m => { m with waiters := m.waiters ++ [(ctxInCluster (cmdCtx s c), c.id, v)] })).cmdWaits c.id
      .ctr

/-! ### Poisoned release (R155) -/

/-- Release what a context holds, poisoned, with an event for each unit and claim. -/
def State.releasePoisoned (s : State) (n : Nat) : State :=
  let units := (s.sems.filter (fun e => e.1 / 2048 == ctxCluster n && e.2.holds (ctxInCluster n))).map Prod.fst
  let pairs := (s.ctrs.filter (fun e => claims s e.1 n)).map Prod.fst
  let t := units.foldl (fun t k =>
    let u := t.modSem k (fun m => { m with holders := m.holders &&& ~~~((1 : BitVec 32) <<< ctxInCluster n), poison := true })
    (u.serveSem k (sem s k).waiters.length).raise_ (Blk.syn.page (k / 2048)) 2) s
  pairs.foldl (fun t k =>
    let u := t.modCtr k (fun m => { m with claim := none, poison := true })
    (u.serveCtr k (ctr s k).waiters.length).raise_ (Blk.syn.page (k / 512)) 2) t

/-- Free a context (R145, Table SYN-5). -/
def State.freeCtx (s : State) (n : Nat) : State :=
  let t := s.modCtx n (fun _ => {})
  t.modCore (n / 4) (fun c =>
    { c with
      running := if c.running = some n then none else c.running
      switchTo := if c.switchTo = some n then none else c.switchTo })

/-- RETIRE: the ring's contexts on the command's cores (R145, R155). -/
def retireStart (s : State) (c : Cmd) : State :=
  let t := (cmdCtxs s c).foldl (fun t n => (t.releasePoisoned n).freeCtx n) s
  (t.modRing c.ring (fun r => { r with retired := r.retired ++ cmdCores s c.part c.bits })).finishCmd c.id

/-! ### The lintel barrier (R158–R160) -/

def synHome (s : State) (p : Nat) : Nat := Blk.syn.page (firstCluster s p)
def lintelOf (s : State) (p : Nat) : Lintel := SMap.get {} s.lintels p
def State.modLintel (s : State) (p : Nat) (f : Lintel → Lintel) : State :=
  { s with lintels := SMap.modify {} s.lintels p f }

/-- The member mask of the generation in progress, or the one that the next will take (R159). -/
def lintelMask (s : State) (p : Nat) : Word :=
  (lintelOf s p).mask.getD (BitVec.ofNat 64 (s.reg (synHome s p) Reg.synLintelRings))

/-- The oldest LINTEL command of a ring that waits. -/
def lintelOfRing (s : State) (k : Nat) : Option Cmd :=
  s.cmds.find? (fun c => c.ring == k && c.status.isNone && c.wait == .lintel)

/-- The LINTEL with which a member ring has arrived: every earlier command of the ring has completed, so that the LINTEL
stands at the ring's head on every core that the ring uses (R158; DEDUCED, log 12). -/
def arrivedLintel (s : State) (k : Nat) : Option Cmd :=
  (lintelOfRing s k).filter (fun l => s.cmds.all (fun c => c.ring != k || decide (l.id ≤ c.id)))

/-- Note arrivals; the first one fixes the mask and starts the clock. -/
def State.lintelArrivals (s : State) (p : Nat) : State :=
  let l := lintelOf s p
  let new := (bitsOf 64 (lintelMask s p).toNat).filter (fun k =>
    partOfRing s k == p && (arrivedLintel s k).isSome && !l.arrived.any (fun a => a.1 == k))
  if new.isEmpty then s
  else
    s.modLintel p (fun l =>
      { mask := some (lintelMask s p)
        arrived := l.arrived ++ new.filterMap (fun k => (arrivedLintel s k).map (fun c => (k, c.id)))
        first := some (l.first.getD s.now) })

def lintelStart (s : State) (c : Cmd) : State := (s.cmdWaits c.id .lintel).lintelArrivals c.part

/-- Every member of the generation has arrived. -/
def lintelFull (s : State) (p : Nat) : Bool :=
  let l := lintelOf s p
  l.first.isSome && (bitsOf 64 (lintelMask s p).toNat).all (fun k => l.arrived.any (fun a => a.1 == k))

/-- The generation ends: GEN counts it, and the next one has no mask yet. -/
def State.lintelEnd (s : State) (p st : Nat) : State :=
  let l := lintelOf s p
  let t := s.modLintel p (fun _ => {})
  let u := t.bumpWrap (synHome s p) Reg.synLintelCtl 63 32 1
  l.arrived.foldl (fun v a => v.endCmd a.2 st) u

/-! ### The pointing barrier (R161, R162) -/

/-- Examine the pairs of a cluster. -/
def State.pointPairs (s : State) (cl : Nat) : State :=
  (List.range 512).foldl (fun t i =>
    let m := ctr s (ctrKey cl i)
    if !m.waiters.isEmpty then t
    else if m.issued = m.retired then
      { t with ctrs := SMap.modify {} t.ctrs (ctrKey cl i) (fun m => { m with issued := 0, retired := 0 }) }
    else
      (t.bump (Blk.syn.page cl) Reg.synPointCnt 47 24 1).raise_ (Blk.syn.page cl) 0
        { d1 := ids16 [i], d2 := vals32 [m.issued.toNat, m.retired.toNat] }) s

/-- Run the barrier of one cluster; its period restarts. -/
def State.pointRun (s : State) (cl : Nat) : State :=
  ((s.pointPairs cl).bump (Blk.syn.page cl) Reg.synPointCnt 23 0 1).modCluster cl
    (fun c => { c with pointStart := s.now, pointPassed := 0, pointDue := false })

/-- A period of the cluster has elapsed. -/
def pointElapsed (s : State) (cl : Nat) : Bool :=
  (cluster s cl).pointDue ||
    decide ((cluster s cl).pointStart + s.regFld (Blk.syn.page cl) Reg.synPointCtl 19 0 * 1000 ≤ s.now)

/-- No context of the cluster is bound and no command waits there for admission (R161). -/
def clusterQuiet (s : State) (cl : Nat) : Bool :=
  (List.range 32).all (fun x => (ctx s (32 * cl + x)).ring.isNone) &&
    s.cmds.all (fun c => c.wait != .admission || !(cmdClusters s c.part c.bits).contains cl)

/-- Modes whose point of effect is the lintel barrier: deterministic mode, trace and SVT-16 compatibility
(R134, R138, R159, Table STP-6). -/
def State.applyModes (s : State) (p : Nat) : State :=
  let t := s.modLedger p (fun l => { l with detOn := l.detPend, traceOn := l.tracePend })
  let g := Blk.hod.page (firstCluster s p)
  let on := (t.reg g Reg.hodCompat).testBit 0
  let u := t.setRegFld g Reg.hodCompat 1 1 (if on then 1 else 0)
  if on then u
  else { u with persists := u.persists.map (fun x => if x.part = p then { x with ending := true } else x) }

/-! ### Meanings -/

/-- SEM_INIT (R150, R151). -/
def execSemInit (ring : Nat) (s : State) : Answer := .next (dispatchRow 4 0x01 ring syncCheck semInitStart s)

/-- A refusal with LADDER_VIOLATION is counted against the cluster (Table SYN-17). -/
def State.countLadder (s t : State) (op k : Nat) : State :=
  match t.cmd? (servedId 4 op s k) with
  | some c =>
    if c.status == some St.ladder then t.bump (Blk.syn.page (cmdHome t c)) Reg.synSwitches 63 32 1 else t
  | none => t

/-- SEM_ACQUIRE (R150, R153, R154, R156). -/
def execSemAcquire (ring : Nat) (s : State) : Answer :=
  .next (s.countLadder (dispatchRow 4 0x02 ring syncCheck semAcquireStart s) 0x02 ring)

/-- SEM_TRY (R150, R156). A context that already holds a unit takes none (DEDUCED, log 11). -/
def execSemTry (ring : Nat) (s : State) : Answer := .next (dispatchRow 4 0x03 ring syncCheck semTryStart s)

/-- SEM_RELEASE (R150, R153). -/
def execSemRelease (ring : Nat) (s : State) : Answer := .next (dispatchRow 4 0x04 ring syncCheck semReleaseStart s)

/-- SEM_CLEAR_POISON (R150, R156). -/
def execSemClearPoison (ring : Nat) (s : State) : Answer :=
  .next (dispatchRow 4 0x05 ring syncCheck semClearPoisonStart s)

/-- CTR_INIT (R150, R157). -/
def execCtrInit (ring : Nat) (s : State) : Answer := .next (dispatchRow 4 0x10 ring syncCheck ctrInitStart s)

/-- CTR_CLAIM (R150, R152, R157). -/
def execCtrClaim (ring : Nat) (s : State) : Answer := .next (dispatchRow 4 0x11 ring syncCheck ctrClaimStart s)

/-- CTR_UNCLAIM (R150, R152). -/
def execCtrUnclaim (ring : Nat) (s : State) : Answer := .next (dispatchRow 4 0x12 ring syncCheck ctrUnclaimStart s)

/-- CTR_POST (R150–R152); a refusal for the available count raises CTR_OVERRUN on the pair's cluster. -/
def execCtrPost (ring : Nat) (s : State) : Answer :=
  let t := dispatchRow 4 0x13 ring syncCheck ctrPostStart s
  match t.cmd? (servedId 4 0x13 s ring) with
  | some c =>
    if c.status == some St.malformed && envClass c.bits == 4 && syncOp c.bits == 0x13 &&
        (envStatus s ring c.bits).isNone && !syncMalformed c.bits &&
        overruns s (farCtrOf s c) (syncValue c.bits) [issuer s c] then
      .next (t.raise_ (Blk.syn.page (farCtrOf s c / 512)) 3 { d3 := BitVec.ofNat 64 (envTag c.bits) })
    else .next t
  | none => .next t

/-- CTR_TAKE (R150, R153, R154, R157). -/
def execCtrTake (ring : Nat) (s : State) : Answer :=
  .next (s.countLadder (dispatchRow 4 0x14 ring syncCheck ctrTakeStart s) 0x14 ring)

/-- LINTEL (R158). -/
def execLintel (ring : Nat) (s : State) : Answer :=
  .next (s.countLadder (dispatchRow 4 0x20 ring syncCheck lintelStart s) 0x20 ring)

/-- RETIRE (R145, R155): it waits for the ring's earlier commands on its cores (DEDUCED, log 11). -/
def execRetire (ring : Nat) (s : State) : Answer := .next (dispatchRow 4 0x30 ring syncCheck retireStart s)

/-- LINTEL_COMPLETE (R158, R159, R161): once every member has arrived, the LINTEL commands complete, pending modes
take effect, and clusters whose period has elapsed run the pointing barrier. -/
def execLintelComplete (part t : Nat) (s : State) : Answer :=
  let s := (s.at_ t).lintelArrivals part
  if lintelFull s part then
    let u := (s.lintelEnd part St.done).applyModes part
    .next ((clustersOf u part).foldl (fun v c => if pointElapsed v c then v.pointRun c else v) u)
  else .next s

/-- LINTEL_TIMEOUT (R160): the event stands on the SYN page of the partition's lowest cluster (DEDUCED, log 12). -/
def execLintelTimeout (part t : Nat) (s : State) : Answer :=
  let s := (s.at_ t).lintelArrivals part
  match (lintelOf s part).first with
  | some f =>
    if f + 1000000 * s.regFld (synHome s part) Reg.synLintelCtl 13 0 ≤ s.now && !lintelFull s part then
      .next ((s.lintelEnd part St.stallAborted).raise_ (synHome s part) 1)
    else .next s
  | none => .next s

/-- POINTING_PERIOD_EXPIRY (R161, R162): a period has passed; past 16 without a quiescent point each further one
counts as missed. -/
def execPointingPeriodExpiry (cluster t : Nat) (s : State) : Answer :=
  let s := s.at_ t
  let c := Machine.cluster s cluster
  let period := s.regFld (Blk.syn.page cluster) Reg.synPointCtl 19 0 * 1000
  if c.pointStart + (c.pointPassed + 1) * period ≤ s.now then
    let u := s.modCluster cluster (fun c => { c with pointPassed := c.pointPassed + 1, pointDue := true })
    .next (if 16 ≤ c.pointPassed then u.bump (Blk.syn.page cluster) Reg.synPointCnt 63 48 1 else u)
  else .next s

/-- POINTING_BARRIER (R161): at a pilot tick in which the cluster is quiet and its period has elapsed. -/
def execPointingBarrier (cluster t : Nat) (s : State) : Answer :=
  let s := s.at_ t
  if pointElapsed s cluster && clusterQuiet s cluster then .next (s.pointRun cluster) else .next s

/-! ### Context switches (R147, R148) -/

/-- Runnable contexts of a core. -/
def runnable (s : State) (core : Nat) : List Nat := (ctxNums core).filter (fun n => (ctx s n).st == 2)

/-- R147: highest priority, then longest runnable, then lowest number. -/
def better (s : State) (a b : Nat) : Bool :=
  let x := ctx s a
  let y := ctx s b
  decide (y.prio < x.prio) ||
    (x.prio == y.prio && (decide (x.since < y.since) || (x.since == y.since && decide (a ≤ b))))

def bestCtx (s : State) : List Nat → Option Nat
  | [] => none
  | n :: ns =>
    match bestCtx s ns with
    | none => some n
    | some m => if better s n m then some n else some m

/-- A core is powered and in service. -/
def coreUsable (s : State) (core : Nat) : Bool :=
  !coreRetired s core && !clusterRetired s (core / 8) && !(SMap.get {} s.coreDoms core : CoreDom).asleep

/-- CONTEXT_SWITCH: a core without a running context takes the best runnable one; at a command boundary a running
one gives way to a strictly higher priority (R147). A sleeping core wakes first (R388). -/
def execContextSwitch (core : Nat) (s : State) : Answer :=
  let c := coreCtx s core
  if c.switchTo.isSome || !coreUsable s core then .next s
  else
    match bestCtx s (runnable s core) with
    | none => .next s
    | some n =>
      match c.running with
      | none => .next (s.modCore core (fun c => { c with switchTo := some n }))
      | some r =>
        if !ctxBusy s r || (c.boundary && decide ((ctx s r).prio < (ctx s n).prio)) then
          let u := s.modCtx r (fun x => { x with st := if ctxBusy s r then 2 else 3, since := s.now })
          .next (u.modCore core (fun _ => { switchTo := some n }))
        else .next s

/-- CONTEXT_SWITCH_END: after 32 engine cycles the incoming context holds the core (R148). -/
def execContextSwitchEnd (core : Nat) (s : State) : Answer :=
  match (coreCtx s core).switchTo with
  | some n =>
    let u := s.modCore core (fun _ => { running := some n })
    .next ((u.modCtx n (fun x => { x with st := 1 })).bump (Blk.syn.page (core / 8)) Reg.synSwitches 31 0 1)
  | none => .next s

end Sys2Proof.Machine
end

