-- ==== Sys2Proof/Machine/Faults.lean ====
section
/-! DEFINITION. On-die SRAM errors, retirement of core and cluster domains, and faults of a partition
(R190, R403, R404, R406, R408). -/

namespace Sys2Proof.Machine

def rasPage (p : Nat) : Nat := Blk.ras.page p

/-- Reset the contexts of some cores: units and claims go poisoned (R155). -/
def State.resetCtxs (s : State) (cores : List Nat) : State :=
  (cores.flatMap ctxNums).foldl (fun t n => if (ctx t n).ring.isSome then (t.releasePoisoned n).freeCtx n else t) s

/-- Commands that run on a core. -/
def cmdsOn (s : State) (core : Nat) : List Cmd := s.cmds.filter (fun c => (cmdCores s c.part c.bits).contains core)

/-- R404: take cores out of service: commands there end, their contexts are reset. -/
def State.leaveService (s : State) (cores : List Nat) : State :=
  let ids := (cores.flatMap (cmdsOn s)).map (·.id)
  (ids.foldl (fun t i => t.endCmd i St.aborted) s).resetCtxs cores

/-- Retire a core, recorded in flash. -/
def State.retireCore (s : State) (core : Nat) : State :=
  if coreRetired s core then s
  else
    let pages := clusterPages (core / 8)
    let t := (s.leaveService [core]).modCoreDom core (fun d => { d with retired := true, asleep := true })
    let u := { t with flash := { t.flash with retiredCores := t.flash.retiredCores ++ [core] } }
    let v := u.faultEntry (partOfCore s core) 2 (Blk.arr.page (core / 8)) { d1 := ids16 [core / 8, core % 8] }
    s.noteHealth (v.setIrq (rasPage (partOfCore s core)) 2) pages

/-- The unfinished commands of a cluster's persistent streams end with them (R138). -/
def State.dropPersists (s : State) (p : Persist → Bool) : State :=
  let gone := s.persists.filter p
  let ids := gone.flatMap (fun x => x.rearms ++ x.current.toList)
  let t := ids.foldl (fun t i => t.endCmd i St.aborted) ((gone.map (·.stream.cluster)).foldl State.stirCluster s)
  { t with
    persists := t.persists.filter (fun x => !p x)
    reqs := t.reqs.filter (fun r => !gone.any (fun x => x.handle == r.cmd)) }

/-- Retire a cluster with its cores, hods, semaphores and pairs. -/
def State.retireCluster (s : State) (cl : Nat) : State :=
  if clusterRetired s cl then s
  else
    let cores := (List.range 8).map (8 * cl + ·)
    let t := (s.leaveService cores).modCluster cl (fun c => { c with retired := true, asleep := true })
    let u := t.dropPersists (fun x => x.stream.cluster == cl)
    let v := { u with flash := { u.flash with retiredClusters := u.flash.retiredClusters ++ [cl] } }
    let w := v.faultEntry (partOfCluster s cl) 3 (Blk.arr.page cl) { d1 := ids16 [cl] }
    s.noteHealth (w.setIrq (rasPage (partOfCluster s cl)) 2) (clusterPages cl ++ [Blk.die.page (cl / 12)])

def dayNs : Nat := 86400 * 1000000000

/-- R403: an SRAM error in a domain of a cluster. The Bool says that the word read is poisoned. -/
def State.sramError (s : State) (cl : Nat) (e : SramErr) : State × Bool :=
  let p := partOfCluster s cl
  let pg := Blk.hod.page cl
  match e with
  | .clean => (s, false)
  | .single => ((s.bump (rasPage p) Reg.rasSram 31 0 1).countUpset pg, false)
  | .doubleCore core =>
    let t := ((s.bump (rasPage p) Reg.rasSram 63 32 1).countFault pg).faultEntry p 1 pg
    let recent := ((SMap.get {} t.coreDoms core : CoreDom).dbe.filter (fun x => decide (s.now < x + dayNs))) ++ [s.now]
    let u := t.modCoreDom core (fun d => { d with dbe := recent })
    (if 3 ≤ recent.length then u.retireCore core else u, true)
  | .doubleCluster =>
    let t := ((s.bump (rasPage p) Reg.rasSram 63 32 1).countFault pg).faultEntry p 1 pg
    let recent := ((cluster t cl).dbe.filter (fun x => decide (s.now < x + dayNs))) ++ [s.now]
    let u := t.modCluster cl (fun d => { d with dbe := recent })
    (if 3 ≤ recent.length then u.retireCluster cl else u, true)

/-- End every unfinished command of a partition (R190, R408). -/
def State.abortPart (s : State) (p : Nat) : State :=
  ((s.cmds.filter (fun c => c.part == p)).map (·.id)).foldl (fun t i => t.endCmd i St.aborted) s

/-- Departed notices on a partition's ports that are up (R279). -/
def State.departPorts (s : State) (ports : List Nat) : State :=
  (ports.filter (fun q => (port s q).st == 1)).foldl (fun t q => t.emit (.departed q)) s

/-- R190, R408: a partition fault. Its commands end, its ports say so, and only a partition reset recovers it. -/
def State.faultPart (s : State) (p : Nat) : State :=
  if s.startup.part.getD p 1 = 2 then s
  else
    let n := (s.cmds.filter (fun c => c.part == p && c.status.isNone)).length
    let t := (s.abortPart p).departPorts (portsOf s p)
    let u := { t with startup := { t.startup with part := t.startup.part.set p 2 } }
    (u.raise_ (Blk.sup.page p) 1).resetEntry p 6 (Blk.sup.page p) n

/-- R406, R408: a fault of a die; the hub die's takes the module. `die` is 0–3 compute, 4–11 stacks' base dies, 12 the
hub. -/
def State.faultDie (s : State) (n : Nat) : State :=
  if (Machine.die s n).faulted then s
  else
    let t := s.modDie n (fun d => { d with faulted := true })
    let page := Blk.die.page n
    let u := t.faultEntry (ownerOf s page).num 4 page { d1 := ids16 [n] }
    let v := s.noteHealth u ([page] ++
      (if n < 4 then [Blk.qg.page n, Blk.bnd.page n, Blk.trn.page n, Blk.tir.page n, Blk.pwr.page n] ++
          (List.range 12).flatMap (fun k => clusterPages (12 * n + k))
        else if n < 12 then [Blk.hbm.page (n - 4), Blk.nmu.page (n - 4)] else []))
    if n < 4 then v.faultPart (partOfDie s n)
    else if n < 12 then v.faultPart (partOfStack s (n - 4))
    else { v with startup := { v.startup with dead := true } }

end Sys2Proof.Machine
end

