-- ==== Sys2Proof/Machine/Access.lean ====
section
/-! DEFINITION. Who may read and write which register page (R325, R329, R357, R445, R448). -/

namespace Sys2Proof.Machine

/-- What becomes of an access to a register page. -/
inductive Access where
  /-- It reaches the register. -/
  | ok
  /-- A host access answered with Unsupported Request, in D3hot (R325). -/
  | unsupported
  /-- Denied by the host access setting: zero or dropped, and counted (R329). -/
  | denied
  /-- A write that is ignored, or a page that reads as zero (R445, R448). -/
  | void
  /-- Outside the steering program's bounds (R357). -/
  | trap (part : Nat)
deriving DecidableEq, Repr

/-- A partition's host access setting: 0 read and write, 1 read only, 2 neither (R329). -/
def hostMode (s : State) (p : Nat) : Nat := s.settings.hostAccess.getD p 0

def accessOf (s : State) (who : Requester) (page : Nat) (write : Bool) : Access :=
  match who with
  | .host =>
    if s.pcie.d3hot then .unsupported
    else
      match ownerOf s page with
      | .part p =>
        if hostMode s p = 2 || (write && hostMode s p = 1) then .denied
        else if write && pageUnused s page then .void else .ok
      | .module => .ok
  | .hub c =>
    match partOfHubCore s c with
    | none => .ok
    | some p =>
      if ownerOf s page == .part p then .ok
      else if shownToParts page then (if write && blkOf page != .site then .void else .ok)
      else .trap p

/-- The group of a partition's lowest tenant hub core, on which its steering program starts (R359, Table PWR-2). -/
def steerCore (s : State) (p : Nat) : Nat := 4 + 12 / s.settings.partitions * p
def steerGroup (s : State) (p : Nat) : Nat := (steerCore s p - 4) / 3

/-- The hub cores of a partition stop, and their group sleeps at once (R386, R387). A program that is stopped, other than
by the monitor, measures as none (Table SEC-4, R434). -/
def State.stopSteer (s : State) (p st : Nat) : State :=
  let t := s.modSec p (fun x => { x with steer := st, imageKib := 0, meas4 := if st = 2 then x.meas4 else 0 })
  { t with hubGrps := SMap.set 0 t.hubGrps (steerGroup s p) 0 }

/-- An access of a steering program outside its bounds: the monitor stops the partition's hub cores, and the fault is
raised and logged (R357). -/
def State.steerTrap (s : State) (p : Nat) : State :=
  (s.stopSteer p 2).raise_ (Blk.sec.page p) 2

/-- A register write that its requester may make has its effect; any other ends as its access does. -/
def State.onWrite (s : State) (who : Requester) (page : Nat) (f : State → State) : State :=
  match accessOf s who page true with
  | .ok => f s
  | .unsupported => s.emit .unsupported
  | .denied => s.denied
  | .void => s
  | .trap p => s.steerTrap p

/-- A write to a register that only the partition's steering program writes; one by the host is ignored and counted, whatever
the host access setting (R111, R134). -/
def State.steeringWrite (s : State) (who : Requester) (page : Nat) (f : State → State) : State :=
  match accessOf s who page true with
  | .unsupported => s.emit .unsupported
  | .trap p => s.steerTrap p
  | .ok | .denied | .void =>
    if who = .host then s.denied else if steeringOnly s who page then f s else s

end Sys2Proof.Machine
end

