-- ==== Sys2Proof/Machine/Operands.lean ====
section
/-! DEFINITION. The ten number formats, rounding, conversion and binary32 arithmetic (R27–R57). A value is
held exactly, as a signed power-of-two multiple, an infinity or a NaN; each operation is formed exactly and
rounded once. -/

namespace Sys2Proof.Machine

/-- An exact value: NaN, a signed infinity, or (−1)^neg × m × 2^e with a signed zero at m = 0. -/
inductive Num where
  | nan
  | inf (neg : Bool)
  | fin (neg : Bool) (m : Nat) (e : Int)
deriving DecidableEq, Repr

/-- What the top exponent code means (Table FMT-1). -/
inductive Top where
  /-- Infinity at fraction 0 and NaN at any other. -/
  | ieee
  /-- NaN at the all-ones fraction only, no infinity (FP8 E4M3). -/
  | oneNan
  /-- Ordinary values (FP6, FP4). -/
  | plain
deriving DecidableEq, Repr

/-- A floating-point format (R27, Table FMT-1). -/
structure Fmt where
  eb : Nat
  mb : Nat
  bias : Int
  top : Top
  /-- Largest finite magnitude, largest finite code, default NaN code. -/
  maxCode : Nat
  nanCode : Nat
deriving DecidableEq, Repr

def fp32 : Fmt := { eb := 8, mb := 23, bias := 127, top := .ieee, maxCode := 0x7F7FFFFF, nanCode := 0x7FC00000 }
def bf16 : Fmt := { eb := 8, mb := 7, bias := 127, top := .ieee, maxCode := 0x7F7F, nanCode := 0x7FC0 }
def fp16 : Fmt := { eb := 5, mb := 10, bias := 15, top := .ieee, maxCode := 0x7BFF, nanCode := 0x7E00 }
def e4m3 : Fmt := { eb := 4, mb := 3, bias := 7, top := .oneNan, maxCode := 0x7E, nanCode := 0x7F }
def e5m2 : Fmt := { eb := 5, mb := 2, bias := 15, top := .ieee, maxCode := 0x7B, nanCode := 0x7E }
def fp6 : Fmt := { eb := 3, mb := 2, bias := 3, top := .plain, maxCode := 0x1F, nanCode := 0 }
def fp4 : Fmt := { eb := 2, mb := 1, bias := 1, top := .plain, maxCode := 0x7, nanCode := 0 }

/-- Exponent of one unit in the last place of the subnormal range. -/
def Fmt.uMin (f : Fmt) : Int := 1 - f.bias - f.mb

/-- Magnitude of a finite code without its sign: significand and exponent (R27). -/
def Fmt.mag (f : Fmt) (c : Nat) : Nat × Int :=
  let e := c / 2 ^ f.mb
  let m := c % 2 ^ f.mb
  if e = 0 then (m, f.uMin) else (2 ^ f.mb + m, (e : Int) - 1 + f.uMin)

/-- Read a code (R27, R28: subnormals are honoured; R36: every NaN is one NaN). -/
def Fmt.decode (f : Fmt) (c : Nat) : Num :=
  let neg := c.testBit (f.eb + f.mb)
  let a := c % 2 ^ (f.eb + f.mb)
  let special :=
    match f.top with
    | .ieee => a / 2 ^ f.mb == 2 ^ f.eb - 1
    | .oneNan => a == 2 ^ (f.eb + f.mb) - 1
    | .plain => false
  if special then
    if f.top == .ieee && a % 2 ^ f.mb == 0 then .inf neg else .nan
  else .fin neg (f.mag a).1 (f.mag a).2

/-- m × 2^e compared with m' × 2^e'. -/
def magLe (m : Nat) (e : Int) (m' : Nat) (e' : Int) : Bool :=
  if e ≤ e' then m ≤ m' * 2 ^ (e' - e).toNat else m * 2 ^ (e - e').toNat ≤ m'

def magLt (m : Nat) (e : Int) (m' : Nat) (e' : Int) : Bool := !magLe m' e' m e

/-- floor(log2 (m × 2^e)) for m > 0. -/
def magLog (m : Nat) (e : Int) : Int := (Nat.log2 m : Int) + e

/-! ### Exact operations -/

def Num.isNan : Num → Bool
  | .nan => true
  | _ => false

def Num.isFinite : Num → Bool
  | .fin _ _ _ => true
  | _ => false

def Num.isZero : Num → Bool
  | .fin _ m _ => m == 0
  | _ => false

def Num.isNeg : Num → Bool
  | .nan => false
  | .inf n => n
  | .fin n _ _ => n

def Num.neg : Num → Num
  | .nan => .nan
  | .inf n => .inf (!n)
  | .fin n m e => .fin (!n) m e

def Num.abs : Num → Num
  | .nan => .nan
  | .inf _ => .inf false
  | .fin _ m e => .fin false m e

def Num.one : Num := .fin false 1 0
def Num.zero : Num := .fin false 0 0
/-- 2^k exactly. -/
def Num.pow2 (k : Int) : Num := .fin false 1 k
def Num.ofInt (i : Int) : Num := .fin (decide (i < 0)) i.natAbs 0

/-- Exact product; 0 × ∞ makes a NaN with NV (Tables FMT-8, FMT-9). -/
def Num.mul : Num → Num → Res Num
  | .nan, _ => ⟨.nan, .none⟩
  | _, .nan => ⟨.nan, .none⟩
  | .inf a, .inf b => ⟨.inf (a != b), .none⟩
  | .inf a, .fin b m _ => if m = 0 then ⟨.nan, .nv⟩ else ⟨.inf (a != b), .none⟩
  | .fin a m _, .inf b => if m = 0 then ⟨.nan, .nv⟩ else ⟨.inf (a != b), .none⟩
  | .fin a m e, .fin b m' e' => ⟨.fin (a != b) (m * m') (e + e'), .none⟩

/-- A signed sum as a value; an exact cancellation is +0. -/
def Num.ofSum (i : Int) (e : Int) : Num :=
  if i = 0 then .fin false 0 e else .fin (decide (i < 0)) i.natAbs e

def Num.toInt (neg : Bool) (m : Nat) : Int := if neg then -(m : Int) else m

/-- Exact sum; ∞ − ∞ makes a NaN with NV; −0 only for −0 + −0 (Table FMT-8). -/
def Num.add : Num → Num → Res Num
  | .nan, _ => ⟨.nan, .none⟩
  | _, .nan => ⟨.nan, .none⟩
  | .inf a, .inf b => if a = b then ⟨.inf a, .none⟩ else ⟨.nan, .nv⟩
  | .inf a, .fin _ _ _ => ⟨.inf a, .none⟩
  | .fin _ _ _, .inf b => ⟨.inf b, .none⟩
  | .fin a m e, .fin b m' e' =>
    if m = 0 ∧ m' = 0 then ⟨.fin (a && b) 0 0, .none⟩
    else
      let k := if e ≤ e' then e else e'
      ⟨Num.ofSum (Num.toInt a (m * 2 ^ (e - k).toNat) + Num.toInt b (m' * 2 ^ (e' - k).toNat)) k, .none⟩

/-- a < b for values that are not NaN. -/
def Num.lt (a b : Num) : Bool :=
  match a, b with
  | .nan, _ => false
  | _, .nan => false
  | .inf x, .inf y => x && !y
  | .inf x, .fin _ _ _ => x
  | .fin _ _ _, .inf y => !y
  | .fin n m e, .fin n' m' e' =>
    if m = 0 ∧ m' = 0 then false
    else if n && !n' then true
    else if !n && n' then false
    else if n then magLt m' e' m e else magLt m e m' e'

/-- A quotient with at least 96 significant bits and a sticky bit below them, so that any rounding of it
into a format of this manual equals the rounding of the exact quotient (R204: DIV correctly rounded). -/
def stickyQuot (m : Nat) (e : Int) (m' : Nat) (e' : Int) : Nat × Int :=
  let k := 96 + Nat.log2 m' + 1
  let n := m <<< k
  (2 * (n / m') + (if n % m' = 0 then 0 else 1), e - e' - k - 1)

/-- Division with the results and flags of Table FMT-9. -/
def Num.div : Num → Num → Res Num
  | .nan, _ => ⟨.nan, .none⟩
  | _, .nan => ⟨.nan, .none⟩
  | .inf _, .inf _ => ⟨.nan, .nv⟩
  | .inf a, .fin b _ _ => ⟨.inf (a != b), .none⟩
  | .fin a _ _, .inf b => ⟨.fin (a != b) 0 0, .none⟩
  | .fin a m e, .fin b m' e' =>
    if m' = 0 then
      if m = 0 then ⟨.nan, .nv⟩ else ⟨.inf (a != b), .dz⟩
    else if m = 0 then ⟨.fin (a != b) 0 0, .none⟩
    else ⟨.fin (a != b) (stickyQuot m e m' e').1 (stickyQuot m e m' e').2, .none⟩

/-- Square root with a sticky bit, for the SQRT of R223. -/
def stickySqrt (m : Nat) (e : Int) : Nat × Int :=
  let k : Nat := 2 * 64 + (if (e - 2 * 64) % 2 = 0 then 0 else 1)
  let n := m <<< k
  let r := Nat.sqrt n
  (2 * r + (if r * r = n then 0 else 1), (e - k) / 2 - 1)

/-- SQRT of R223: −0 for −0, NaN with NV for a negative operand. -/
def Num.sqrt : Num → Res Num
  | .nan => ⟨.nan, .none⟩
  | .inf n => if n then ⟨.nan, .nv⟩ else ⟨.inf false, .none⟩
  | .fin n m e =>
    if m = 0 then ⟨.fin n 0 0, .none⟩
    else if n then ⟨.nan, .nv⟩
    else ⟨.fin false (stickySqrt m e).1 (stickySqrt m e).2, .none⟩

/-! ### Rounding (R38, R39, R42, R43) -/

/-- How a conversion rounds: to nearest even, or stochastically with 16 random bits (R38, R42). -/
inductive Rnd where
  | rne
  | sr (r : Nat)
deriving DecidableEq, Repr

/-- Significand in units of 2^u of a magnitude, rounded (R42 gives t, a and D). -/
def roundUnits (rnd : Rnd) (m : Nat) (e u : Int) : Nat :=
  if u ≤ e then m * 2 ^ (e - u).toNat
  else
    let s := (u - e).toNat
    let t := m >>> s
    let r := m % 2 ^ s
    match rnd with
    | .rne => if 2 * r > 2 ^ s ∨ (2 * r = 2 ^ s ∧ t % 2 = 1) then t + 1 else t
    | .sr x => if x < (r <<< 16) >>> s then t + 1 else t

/-- The magnitude is exactly a whole number of units. -/
def unitsExact (m : Nat) (e u : Int) : Bool :=
  if u ≤ e then true else m % 2 ^ (u - e).toNat == 0

/-- Exponent of the last place at a magnitude in a format, subnormal range included. -/
def Fmt.ulp (f : Fmt) (m : Nat) (e : Int) : Int :=
  let u := magLog m e - f.mb
  if u < f.uMin then f.uMin else u

/-- R39: nearest even overflows from the largest finite value plus half its last place; R43: stochastic
rounding overflows only beyond the largest finite value. -/
def Fmt.overflows (f : Fmt) (rnd : Rnd) (m : Nat) (e : Int) : Bool :=
  let c := f.mag f.maxCode
  match rnd with
  | .rne => magLe (2 * c.1 + 1) (c.2 - 1) m e
  | .sr _ => magLt c.1 c.2 m e

/-- The code of a rounded magnitude. -/
def Fmt.encodeMag (f : Fmt) (rnd : Rnd) (m : Nat) (e : Int) : Nat :=
  let u := f.ulp m e
  ((u - f.uMin).toNat <<< f.mb) + roundUnits rnd m e u

/-- R48, UF: the exact result is nonzero and below the smallest normal, and the delivered one differs. -/
def Fmt.underflows (f : Fmt) (m : Nat) (e : Int) : Bool :=
  magLt m e (2 ^ f.mb) f.uMin && !unitsExact m e (f.ulp m e)

def Fmt.signBit (f : Fmt) (neg : Bool) : Nat := bitIf neg (f.eb + f.mb)
def Fmt.infCode (f : Fmt) : Nat := (2 ^ f.eb - 1) <<< f.mb

/-- Overflow of a finite value under a command's overflow field (Table FMT-5). -/
def Fmt.overflow (f : Fmt) (ovf : Nat) (neg : Bool) : Res Nat :=
  match f.top with
  | .ieee =>
    if ovf = 1 then ⟨f.signBit neg + f.maxCode, .sat⟩ else ⟨f.signBit neg + f.infCode, .of⟩
  | .oneNan => if ovf = 2 then ⟨f.nanCode, .of⟩ else ⟨f.signBit neg + f.maxCode, .sat⟩
  | .plain => ⟨f.signBit neg + f.maxCode, .sat⟩

/-- Convert an exact value into a floating-point format (R37–R39, R42, R43, Table FMT-7). -/
def Fmt.convert (f : Fmt) (ovf : Nat) (rnd : Rnd) : Num → Res Nat
  | .nan => if f.top = .plain then ⟨0, .nv⟩ else ⟨f.nanCode, .none⟩
  | .inf neg =>
    match f.top with
    | .ieee => ⟨f.signBit neg + f.infCode, .none⟩
    | .oneNan => if ovf = 2 then ⟨f.nanCode, .nv⟩ else ⟨f.signBit neg + f.maxCode, .sat⟩
    | .plain => ⟨f.signBit neg + f.maxCode, .sat⟩
  | .fin neg m e =>
    if m = 0 then ⟨f.signBit neg, .none⟩
    else if f.overflows rnd m e then f.overflow ovf neg
    else ⟨f.signBit neg + f.encodeMag rnd m e, if f.underflows m e then .uf else .none⟩

/-- Convert into an n-bit two's-complement integer (Table FMT-5: INT8, INT4 clamp; Table FMT-7). -/
def convertInt (n : Nat) (rnd : Rnd) : Num → Res Int
  | .nan => ⟨0, .nv⟩
  | .inf neg => ⟨if neg then -(2 ^ (n - 1)) else 2 ^ (n - 1) - 1, .sat⟩
  | .fin neg m e =>
    let top : Nat := if neg then 2 ^ (n - 1) else 2 ^ (n - 1) - 1
    let tooBig :=
      match rnd with
      | .rne => magLe (2 * top + 1) (-1) m e
      | .sr _ => magLt top 0 m e
    if tooBig && m != 0 then ⟨Num.toInt neg top, .sat⟩ else ⟨Num.toInt neg (roundUnits rnd m e 0), .none⟩

/-! ### binary32 arithmetic (R56, R222, Table FMT-9) -/

abbrev F32 := BitVec 32

def F32.num (x : F32) : Num := fp32.decode x.toNat
def nan32 : F32 := 0x7FC00000
def one32 : F32 := 0x3F800000

/-- One rounding to nearest even into binary32 with overflow field 0. -/
def round32 (n : Num) : Res F32 :=
  let r := fp32.convert 0 .rne n
  ⟨BitVec.ofNat 32 r.val, r.fl⟩

/-- An exact result rounded once, with the flags of both parts. -/
def round32Res (n : Res Num) : Res F32 := ⟨(round32 n.val).val, n.fl ||| (round32 n.val).fl⟩

def add32 (a b : F32) : Res F32 := round32Res (Num.add a.num b.num)
def sub32 (a b : F32) : Res F32 := round32Res (Num.add a.num b.num.neg)
def mul32 (a b : F32) : Res F32 := round32Res (Num.mul a.num b.num)

/-- x × y + z with one rounding. A NaN operand gives the default NaN and no flag (Table FMT-9). -/
def fma32 (a b c : F32) : Res F32 :=
  if a.num.isNan || b.num.isNan || c.num.isNan then ⟨nan32, .none⟩
  else
    let p := Num.mul a.num b.num
    let q := Num.add p.val c.num
    round32Res ⟨q.val, p.fl ||| q.fl⟩

def div32 (a b : F32) : Res F32 := round32Res (Num.div a.num b.num)
def sqrt32 (a : F32) : Res F32 := round32Res (Num.sqrt a.num)

def max32 (a b : F32) : Res F32 :=
  if a.num.isNan || b.num.isNan then ⟨nan32, .none⟩
  else if a.num.isZero && b.num.isZero then ⟨if a.num.isNeg && b.num.isNeg then a else 0, .none⟩
  else if a.num.lt b.num then ⟨b, .none⟩ else ⟨a, .none⟩

def min32 (a b : F32) : Res F32 :=
  if a.num.isNan || b.num.isNan then ⟨nan32, .none⟩
  else if a.num.isZero && b.num.isZero then ⟨if a.num.isNeg then a else b, .none⟩
  else if a.num.lt b.num then ⟨a, .none⟩ else ⟨b, .none⟩

/-- sign of R223. -/
def sign32 (a : F32) : F32 :=
  match a.num with
  | .nan => nan32
  | n => if n.isZero then 0 else if n.isNeg then 0xBF800000 else one32

def neg32 (a : F32) : F32 := a ^^^ 0x80000000

/-- An integer below 2^24 as binary32. -/
def natF32 (n : Nat) : F32 := (round32 (.fin false n 0)).val

/-! ### Bounded functions (R56, Table NMU-5)

Fixed-point evaluation with `fracBits` fraction bits, far below half a last place of every result; the
unit's choice within the bound is a free value of Config. -/

def fracBits : Nat := 512

/-- ln 2 × 2^512 and √2 are formed by integer series, so that no long constant stands here. -/
def ln2Fix : Nat :=
  -- ln 2 = Σ 1 / (k 2^k)
  (List.range 530).foldl (fun acc k => acc + (1 <<< (fracBits + 16)) / ((k + 1) * 2 ^ (k + 1))) 0 >>> 16

/-- e^r × 2^512 for r = x / 2^512 in [0, 1), by its series. -/
def expFix (x : Nat) : Nat :=
  ((List.range 100).foldl
    (fun (st : Nat × Nat) k => (st.1 + st.2, ((st.2 * x) >>> fracBits) / (k + 1)))
    (0, 1 <<< fracBits)).1

/-- A finite value × 2^512, rounded toward minus infinity. -/
def fixOf (neg : Bool) (m : Nat) (e : Int) : Int :=
  let k := e + fracBits
  let v : Int := if k ≥ 0 then (m : Int) * 2 ^ k.toNat else (m : Int) / 2 ^ (-k).toNat
  if neg then -v else v

/-- e^x as (significand × 2^−512, power of two), for |x| < 2^10. -/
def expParts (x : Int) : Nat × Int :=
  let n := x / (ln2Fix : Int)
  (expFix (x - n * ln2Fix).toNat, n)

/-- The binary32 value just below or at a positive magnitude; the free choice picks one above it. -/
def floorCode (m : Nat) (e : Int) : Nat :=
  let u := fp32.ulp m e
  ((u - fp32.uMin).toNat <<< 23) + (if u ≤ e then m * 2 ^ (e - u).toNat else m >>> (u - e).toNat)

/-- R204, Table NMU-5: e^x within 1 ulp; Table FMT-9 gives the edges. -/
def exp32 (x : F32) : Res F32 :=
  match x.num with
  | .nan => ⟨nan32, .none⟩
  | .inf n => if n then ⟨0, .none⟩ else ⟨0x7F800000, .none⟩
  | .fin n m e =>
    if m = 0 then ⟨one32, .none⟩
    else if !n && magLe 887228 0 (m * 10000) e then ⟨0x7F800000, .of⟩
    else if n && magLe 110 0 m e then ⟨BitVec.ofNat 32 (bitIf (Config.expUp x) 0), .uf⟩
    else
      let p := expParts (fixOf n m e)
      let me := p.2 - fracBits
      let c := floorCode p.1 me + bitIf (Config.expUp x) 0
      ⟨BitVec.ofNat 32 c, if magLt p.1 me 1 (-126) then .uf else .none⟩

/-- 1 ÷ √x within 1 ulp (Table NMU-5), with the edges of Table FMT-9. -/
def rsqrt32 (x : F32) : Res F32 :=
  match x.num with
  | .nan => ⟨nan32, .none⟩
  | .inf n => if n then ⟨nan32, .nv⟩ else ⟨0, .none⟩
  | .fin n m e =>
    if m = 0 then ⟨if n then 0xFF800000 else 0x7F800000, .dz⟩
    else if n then ⟨nan32, .nv⟩
    else if x = 1 then round32Res (Num.sqrt (.pow2 149))
    else
      -- 1/√(m 2^e) = √(2^k / m) 2^{-(e+k)/2} with e + k even
      let k : Nat := 300 + (if (e + 300) % 2 = 0 then 0 else 1)
      let r := Nat.sqrt (2 ^ k / m)
      let me := -(e + k) / 2
      let exact := r * r * m == 2 ^ k && unitsExact r me (fp32.ulp r me)
      let c := floorCode r me + (if exact then 0 else bitIf (Config.rsqrtUp x) 0)
      ⟨BitVec.ofNat 32 c, .none⟩

/-- π × 2^512 by Machin's formula. -/
def piFix : Nat :=
  let at_ (q : Nat) : Int :=
    (List.range 240).foldl
      (fun (acc : Int) k =>
        let t : Int := ((1 <<< (fracBits + 16)) / ((2 * k + 1) * q ^ (2 * k + 1)) : Nat)
        if k % 2 = 0 then acc + t else acc - t) 0
  ((4 * (4 * at_ 5 - at_ 239)).toNat) >>> 16

/-- Φ(x) × 2^512 = ½ + (1/√2π) Σ (−1)^k x^{2k+1} / (2^k k! (2k+1)), for |x| < 16. -/
def phiFix (x : Int) : Int :=
  let g := 256
  let x2 : Int := x * x / 2 ^ fracBits
  let s := ((List.range 700).foldl
    (fun (st : Int × Int) (k : Nat) =>
      -- st.2 = x^{2k+1} (−1)^k / (2^k k!)
      (st.1 + st.2 / (2 * (k : Int) + 1), -(st.2 * x2 / 2 ^ fracBits) / (2 * ((k : Int) + 1))))
    (0, x * 2 ^ g)).1
  let root : Int := Nat.sqrt (2 * piFix * 2 ^ fracBits)
  2 ^ (fracBits - 1) + (s * 2 ^ fracBits / root) / 2 ^ g

/-- One of the four values within 2 ulp of a positive magnitude that no binary32 value equals. -/
def within2 (m : Nat) (e : Int) (pick : BitVec 2) : Nat := floorCode m e + pick.toNat - 1

/-- x ÷ 2 rounded to nearest even, for a subnormal operand (R56); UF when it is not exact. -/
def halfSub (x : F32) : Res F32 :=
  match x.num with
  | .fin n m e => round32 (.fin n m (e - 1))
  | _ => ⟨x, .none⟩

/-- A bounded function of a normal operand: `y` × 2^−512 is its value. -/
def bounded (x : F32) (y : Int) (pick : BitVec 2) (tiny : BitVec 23) : Res F32 :=
  let s : Nat := bitIf (decide (y < 0) || (y == 0 && x.num.isNeg)) 31
  if magLt y.natAbs (-(fracBits : Int)) 1 (-126) then ⟨BitVec.ofNat 32 (s + tiny.toNat), .uf⟩
  else ⟨BitVec.ofNat 32 (s + within2 y.natAbs (-(fracBits : Int)) pick), .none⟩

/-- GELU: x Φ(x) (R56, Table FMT-9). -/
def gelu32 (x : F32) : Res F32 :=
  match x.num with
  | .nan => ⟨nan32, .none⟩
  | .inf n => if n then ⟨0x80000000, .none⟩ else ⟨0x7F800000, .none⟩
  | .fin n m e =>
    if m = 0 then ⟨x, .none⟩
    else if m < 2 ^ 23 then halfSub x
    else if magLe 16 0 m e then
      if n then ⟨BitVec.ofNat 32 (2 ^ 31 + (Config.geluTiny x).toNat), .uf⟩
      else ⟨BitVec.ofNat 32 (x.toNat + (Config.geluPick x).toNat % 2) - 1, .none⟩
    else
      let f := fixOf n m e
      bounded x (f * phiFix f / 2 ^ fracBits) (Config.geluPick x) (Config.geluTiny x)

/-- SiLU: x ÷ (1 + e^−x) (R56, Table FMT-9). -/
def silu32 (x : F32) : Res F32 :=
  match x.num with
  | .nan => ⟨nan32, .none⟩
  | .inf n => if n then ⟨0x80000000, .none⟩ else ⟨0x7F800000, .none⟩
  | .fin n m e =>
    if m = 0 then ⟨x, .none⟩
    else if m < 2 ^ 23 then halfSub x
    else if magLe 128 0 m e then
      if n then ⟨BitVec.ofNat 32 (2 ^ 31 + (Config.siluTiny x).toNat), .uf⟩
      else ⟨BitVec.ofNat 32 (x.toNat + (Config.siluPick x).toNat % 2) - 1, .none⟩
    else
      let f := fixOf n m e
      let p := expParts (-f)
      let ex : Int := if p.2 ≥ 0 then (p.1 : Int) * 2 ^ p.2.toNat else (p.1 : Int) / 2 ^ (-p.2).toNat
      bounded x (f * 2 ^ fracBits / (2 ^ fracBits + ex)) (Config.siluPick x) (Config.siluTiny x)

/-! ### Stochastic bits (R44, R45) -/

def rotl64 (x : Word) (n : Nat) : Word := x.rotateLeft n

def srRound (key x : Word) (i : Nat) : Word :=
  let x := x * 0x8F3A6C1DE5B27049
  let x := x ^^^ (x >>> 31)
  x ^^^ rotl64 key (8 * i + 5)

/-- The generator's final x (R44). -/
def srFinal (seed step : Word) (tensor index : Nat) : Word :=
  let key := seed ^^^ (step * 0x3C719E2BA845D06F)
  let ctr : Word := BitVec.ofNat 64 (((tensor % 2 ^ 24) <<< 40) ||| (index % 2 ^ 40))
  (List.range 4).foldl (srRound key) (ctr ^^^ key)

/-- The 16 random bits of an element (R44); the IMAG part of a complex output takes bits [47:32] (R45). -/
def srBits (seed step : Word) (tensor index : Nat) (imag : Bool) : Nat :=
  let x := (srFinal seed step tensor index).toNat
  if imag then (x >>> 32) % 65536 else x >>> 48

/-! ### Element formats by code (Tables HOD-3, HST-5) -/

/-- The floating-point format of a stream format code. -/
def fmtOf (code : Nat) : Fmt :=
  match code with
  | 1 => fp32
  | 2 | 13 => bf16
  | 3 | 14 => fp16
  | 4 | 6 => e4m3
  | 5 | 7 => e5m2
  | 8 => fp6
  | _ => fp4

/-- Bits per element: FP32 32 … T2 2; a complex element is the pair, a double-word one a plane (R95). -/
def bitsPer (code : Nat) : Nat :=
  match code with
  | 0 => 8
  | 1 => 32
  | 2 | 3 => 16
  | 4 | 5 | 6 | 7 | 10 => 8
  | 8 => 6
  | 9 | 11 => 4
  | 12 => 2
  | 13 | 14 => 32
  | _ => 8

/-- Bytes of an element group (Table FMT-3, R95 rule 9). -/
def groupBytes (code : Nat) : Nat :=
  match code with
  | 0 => 1
  | 1 => 4
  | 2 | 3 => 2
  | 8 => 3
  | 13 | 14 => 4
  | _ => 1

/-- Elements in an element group. -/
def groupElems (code : Nat) : Nat :=
  match code with
  | 8 => 4
  | 9 | 11 => 2
  | 12 => 4
  | _ => 1

/-- Block-scaled (E8M0) formats. -/
def isBlock (code : Nat) : Bool := code == 6 || code == 7 || code == 8 || code == 9

/-- Formats with one scale per block of 32: block-scaled or T2. -/
def hasScales (code : Nat) : Bool := isBlock code || code == 12

/-- Per-tensor scaled formats. -/
def isTensor (code : Nat) : Bool := code == 4 || code == 5 || code == 10 || code == 11

def isIntFmt (code : Nat) : Bool := code == 10 || code == 11

/-- The block-scale ratio R of R95: element bytes of a block per byte of its scale. -/
def scaleRatio (code : Nat) : Nat :=
  match code with
  | 6 | 7 => 32
  | 8 => 24
  | 9 => 16
  | 12 => 4
  | _ => 1

/-- Bytes of one block's scale. -/
def scaleBytes (code : Nat) : Nat := if code = 12 then 2 else if isBlock code then 1 else 0

/-- R32, R33: the value of an E8M0 byte. -/
def e8m0 (b : Nat) : Num := if b = 255 then .nan else .pow2 ((b : Int) - 127)

/-- The value of an element code; T2 code 10 reads as 0 with NV (R30). -/
def elemNum (code c : Nat) : Res Num :=
  if code = 10 then ⟨.ofInt (signedOf 8 c), .none⟩
  else if code = 11 then ⟨.ofInt (signedOf 4 c), .none⟩
  else if code = 12 then
    match c with
    | 0 => ⟨.zero, .none⟩
    | 1 => ⟨.one, .none⟩
    | 3 => ⟨.fin true 1 0, .none⟩
    | _ => ⟨.zero, .nv⟩
  else ⟨(fmtOf code).decode c, .none⟩

/-- The value of a stored block scale. -/
def scaleNum (code b : Nat) : Num := if code = 12 then bf16.decode b else e8m0 b

/-- Convert one value into an element code of a format without block scale (R38–R43). -/
def elemConv (code ovf : Nat) (rnd : Rnd) (n : Num) : Res Nat :=
  if code = 10 then ⟨((convertInt 8 rnd n).val % 256).toNat, (convertInt 8 rnd n).fl⟩
  else if code = 11 then ⟨((convertInt 4 rnd n).val % 16).toNat, (convertInt 4 rnd n).fl⟩
  else (fmtOf code).convert ovf rnd n

/-- e_max of R40. -/
def eMax (code : Nat) : Int :=
  match code with
  | 6 => 8
  | 7 => 15
  | 8 => 4
  | _ => 2

/-- The larger of two magnitudes. -/
def Num.maxMag (a b : Num) : Num := if a.abs.lt b.abs then b.abs else a.abs

/-- A quantised block: its scale's code, its element codes, its flags. -/
structure QBlock where
  scale : Nat
  elems : List Nat
  fl : Flags
deriving DecidableEq, Repr

/-- OR of the flags of results. -/
def orFlags (l : List Flags) : Flags := l.foldl (· ||| ·) 0

/-- Clamp to [−127, 127] (R40, R61). -/
def clamp127 (k : Int) : Int := if k < -127 then -127 else if k > 127 then 127 else k

/-- R40: a block-scaled block, from its written values; absent places count as magnitude 0. `rnds` gives
each element's rounding. -/
def quantBlockScaled (code ovf : Nat) (vals : List (Num × Rnd)) : QBlock :=
  if vals.any (fun v => !v.1.isFinite) then ⟨0xFF, vals.map (fun _ => 0), .nv⟩
  else
    match (vals.map Prod.fst).foldl Num.maxMag .zero with
    | .fin _ m e =>
      if m = 0 then ⟨0, vals.map (fun v => (fmtOf code).signBit v.1.isNeg), .none⟩
      else
        let k := clamp127 (magLog m e - eMax code)
        let rs := vals.map (fun v => elemConv code ovf v.2 (Num.mul v.1 (.pow2 (-k))).val)
        ⟨(k + 127).toNat, rs.map Res.val, orFlags (rs.map Res.fl)⟩
    | _ => ⟨0xFF, vals.map (fun _ => 0), .nv⟩

/-- R41: the T2 scale, the mean of 32 magnitudes, rounded into FP32 and then into BF16. -/
def t2Scale (vals : List Num) : Nat :=
  let sum := vals.foldl (fun a v => (Num.add a v.abs).val) .zero
  let q := (round32 (Num.mul sum (.pow2 (-5))).val).val
  (bf16.convert 0 .rne q.num).val

/-- R41: one T2 element of w ÷ s, clamped to −1 … +1 without a flag. -/
def t2Elem (s : Num) (w : Num) (rnd : Rnd) : Nat :=
  let i := (convertInt 8 rnd (Num.div w s).val).val
  if i > 0 then 1 else if i < 0 then 3 else 0

/-- R41: a T2 block. -/
def quantT2 (vals : List (Num × Rnd)) : QBlock :=
  if vals.any (fun v => !v.1.isFinite) then ⟨0x7FC0, vals.map (fun _ => 0), .nv⟩
  else
    let s := t2Scale (vals.map Prod.fst)
    if (bf16.decode s).isZero then ⟨s, vals.map (fun _ => 0), .none⟩
    else ⟨s, vals.map (fun v => t2Elem (bf16.decode s) v.1 v.2), .none⟩

/-- A block of a block-scaled or T2 format. -/
def quantBlockOf (code ovf : Nat) (vals : List (Num × Rnd)) : QBlock :=
  if code = 12 then quantT2 vals else quantBlockScaled code ovf vals

/-! ### The accumulator (R35, R55) -/

/-- The exact sum of a group's products, with the flags of Table FMT-8. -/
def sumProducts (ps : List (Res Num)) : Res Num :=
  ps.foldl (fun a p => ⟨(Num.add a.val p.val).val, a.fl ||| p.fl ||| (Num.add a.val p.val).fl⟩) ⟨.fin true 0 0, .none⟩

/-- Table FMT-8: add a group's exact sum to the binary32 accumulator with one rounding. A NaN operand, scale
or accumulator gives the default NaN and no flag. -/
def macStep (acc : F32) (nanIn : Bool) (ps : List (Res Num)) : Res F32 :=
  if nanIn || acc.num.isNan then ⟨nan32, .none⟩
  else if ps.isEmpty then ⟨acc, .none⟩
  else
    let s := sumProducts ps
    round32Res ⟨(Num.add acc.num s.val).val, s.fl ||| (Num.add acc.num s.val).fl⟩

/-- R35: a 32-bit integer accumulator holds its limit and sets SAT. -/
def satInt32 (i : Int) : Res Int :=
  if i > 2 ^ 31 - 1 then ⟨2 ^ 31 - 1, .sat⟩ else if i < -(2 ^ 31) then ⟨-(2 ^ 31), .sat⟩ else ⟨i, .none⟩

/-! ### Guard scaling (R61) -/

/-- F of R61 for a guard slot's FORMAT. -/
def guardF (format : Nat) : Nat :=
  match format with
  | 0 => 448
  | 1 => 57344
  | _ => 127

/-- floor(log2 (F ÷ H)). -/
def floorLogQuot (f : Nat) (m : Nat) (e : Int) : Int :=
  let k := (Nat.log2 f : Int) - magLog m e
  if magLe m (e + k) f 0 then k else k - 1

/-- R61: SCALE from H, MARGIN and FORMAT; the Bool is SCALE_EVT. -/
def guardScale (h : F32) (margin format : Nat) (old : F32) : F32 × Bool :=
  if format > 2 then (one32, true)
  else
    match h.num with
    | .fin _ m e =>
      if m = 0 then (one32, false)
      else ((round32 (.pow2 (clamp127 (floorLogQuot (guardF format) m e - margin)))).val, false)
    | _ => (old, true)

/-- Magnitude bits of a binary32 value; a NaN counts as none (R59). -/
def amaxOf (a : F32) (n : F32) : F32 :=
  if n.num.isNan then a else
    let m := n &&& 0x7FFFFFFF
    if a.toNat < m.toNat then m else a

end Sys2Proof.Machine
end

