-- ==== Sys2Proof/Machine/Convert.lean ====
section
/-! DEFINITION. Conversion of runs of values into stored elements and back, and the guard slots that count them
(R31, R38–R45, R58–R63, R118). -/

namespace Sys2Proof.Machine

/-! ### Packing (R31) -/

/-- Pack element codes of n bits each, element 0 at the lowest bit. -/
def packElems (n : Nat) (codes : List Nat) : List Byte :=
  leBytes (ceilDiv (n * codes.length) 8) (codes.foldr (fun c a => c % 2 ^ n + 2 ^ n * a) 0)

/-- Read `count` element codes of n bits each. -/
def unpackElems (n count : Nat) (bs : List Byte) : List Nat :=
  let v := leNat bs
  (List.range count).map (fun i => fld v (n * i + n - 1) (n * i))

/-- Cut a list into pieces of n. -/
def chunksOf {α : Type} (n : Nat) (l : List α) : List (List α) :=
  (List.range (ceilDiv l.length n)).map (fun i => (l.drop (n * i)).take n)

/-! ### Conversion of a list of values -/

/-- A conversion: target format code, overflow field, rounding and its generator's key, and the scale that
multiplies each value exactly before the one rounding (R38, R44, R61). -/
structure Quant where
  fmt : Nat := 0
  ovf : Nat := 0
  stoch : Bool := false
  seed : Option Word := none
  step : Word := 0
  tensor : Nat := 0
  scale : Num := .one
deriving DecidableEq, Repr

/-- The rounding of the element at an index. -/
def Quant.rnd (q : Quant) (i : Nat) (imag : Bool) : Rnd :=
  if q.stoch then .sr (srBits (q.seed.getD 0) q.step q.tensor i imag) else .rne

/-- A value to convert: itself, its index, whether it is an IMAG part, and whether it is written. -/
structure Elem where
  val : Num
  idx : Nat
  imag : Bool := false
  written : Bool := true
deriving DecidableEq, Repr

/-- Converted elements: a code and, where the target has them, one scale per block of 32. -/
structure QOut where
  codes : List Nat := []
  scales : List Nat := []
  fl : Flags := 0
  cnt : GuardCnt := {}
deriving DecidableEq, Repr

def GuardCnt.add (a b : GuardCnt) : GuardCnt := { sat := a.sat + b.sat, ufz := a.ufz + b.ufz, conv := a.conv + b.conv }

/-- A code of the format stands for zero. -/
def codeZero (fmt c : Nat) : Bool :=
  if isIntFmt fmt then c == 0 else c % 2 ^ ((fmtOf fmt).eb + (fmtOf fmt).mb) == 0

/-- Convert one value to a format without block scales; a value that is not written raises nothing (R108). -/
def Quant.one (q : Quant) (e : Elem) : QOut :=
  let x := Num.mul e.val q.scale
  let r := elemConv q.fmt q.ovf (q.rnd e.idx e.imag) x.val
  if e.written then
    { codes := [r.val], fl := x.fl ||| r.fl,
      cnt := { sat := if r.fl.getLsbD 3 then 1 else 0,
               ufz := if e.val.isFinite && !e.val.isZero && codeZero q.fmt r.val then 1 else 0, conv := 1 } }
  else { codes := [r.val] }

/-- One block of 32 places: places not written count as magnitude 0 and are not checked (R40, R41). -/
def Quant.block (q : Quant) (es : List Elem) : QOut :=
  let kept := es.map (fun e => (if e.written then (Num.mul e.val q.scale).val else .zero, q.rnd e.idx e.imag))
  let b := quantBlockOf q.fmt q.ovf (kept ++ List.replicate (32 - kept.length) (.zero, .rne))
  { codes := b.elems.take es.length, scales := [b.scale], fl := b.fl }

def QOut.append (a b : QOut) : QOut :=
  { codes := a.codes ++ b.codes, scales := a.scales ++ b.scales, fl := a.fl ||| b.fl, cnt := a.cnt.add b.cnt }

/-- Convert values in order; a block-scaled or T2 target takes them 32 at a time. -/
def Quant.list (q : Quant) (es : List Elem) : QOut :=
  if hasScales q.fmt then (chunksOf 32 es).foldl (fun a b => a.append (q.block b)) {}
  else es.foldl (fun a e => a.append (q.one e)) {}

/-- The converted elements as bytes, and the scales as bytes. -/
def QOut.bytes (o : QOut) (fmt : Nat) : List Byte := packElems (bitsPer fmt) o.codes
def QOut.scaleBytes (o : QOut) (fmt : Nat) : List Byte :=
  o.scales.flatMap (fun v => leBytes (Machine.scaleBytes fmt) v)

/-- Values of stored elements of a format without block scales. -/
def readElems (fmt count : Nat) (bs : List Byte) : List (Res Num) :=
  (unpackElems (bitsPer fmt) count bs).map (elemNum fmt)

/-- Source elements in `len` bytes of a stream format (1 FP32, 2 BF16, 3 FP16). -/
def srcSize (fmt : Nat) : Nat := if fmt = 1 then 4 else if fmt = 2 ∨ fmt = 3 then 2 else 1

/-! ### Guard slots (R58–R63) -/

def guardKey (p slot : Nat) : Nat := p * 1024 + slot
def guard (s : State) (p slot : Nat) : Guard := SMap.get {} s.guards (guardKey p slot)
def State.modGuard (s : State) (p slot : Nat) (f : Guard → Guard) : State :=
  { s with guards := SMap.modify {} s.guards (guardKey p slot) f }

/-- QFMT that a slot's format in force names (R117 rule 7). -/
def guardFmt (g : Guard) : Nat := if g.format = 0 then 4 else if g.format = 1 then 5 else if g.format = 2 then 10 else 0

def guardHist (g : Guard) : List F32 :=
  (List.range g.count).map (fun i => g.hist.getD ((g.head + 16 - 1 - i) % 16) 0)

/-- H of R61. -/
def guardH (g : Guard) : F32 := (guardHist g).foldl amaxOf 0

def qgPage (s : State) (p : Nat) : Nat := Blk.qg.page (firstDie s p)

/-- A quantisation event: its bit, the counter and the slot last named (Table FMT-18). -/
def State.guardEvent (s : State) (p slot bit : Nat) : State :=
  let pg := qgPage s p
  ((s.bump pg Reg.qgEvt 31 0 1).setRegFld pg Reg.qgEvt 41 32 slot).raise_ pg bit { d1 := ids16 [slot] }

/-- SCALE recomputed from an amax (R61); an infinite H or a reserved format raises SCALE_EVT. -/
def State.rescale (s : State) (p slot : Nat) (h : F32) : State :=
  let g := guard s p slot
  let r := guardScale h g.margin g.format g.scale
  let t := s.modGuard p slot (fun g => { g with scale := r.1 })
  if r.2 then t.guardEvent p slot 3 else t

/-- Raise AMAX_CUR and count conversions in a slot (R59, Table FMT-10). -/
def State.guardFeed (s : State) (p slot : Nat) (vals : List Num) (cnt : GuardCnt) : State :=
  s.modGuard p slot (fun g =>
    { g with
      amax := vals.foldl (fun a v => amaxOf a (round32 v).val) g.amax
      touched := g.touched || !vals.isEmpty
      sat := satAdd 32 g.sat cnt.sat
      ufz := satAdd 32 g.ufz cnt.ufz
      conv := (g.conv + cnt.conv) % 2 ^ 64 })

/-- The scale a slot gives a command: the one sampled at dispatch or found by its first pass, in force now when
neither is noted. -/
def slotScale (s : State) (p : Nat) (scales : SMap (BitVec 32)) (slot : Nat) : F32 :=
  let v : F32 := SMap.get 0 scales slot
  if v = 0 then (guard s p slot).scale else v

end Sys2Proof.Machine
end

