-- ==== Sys2Proof/Machine/Codec.lean ====
section
/-! DEFINITION. The block codec: code lengths by package-merge, the canonical code, and coded blocks
(R263–R267). -/

namespace Sys2Proof.Machine

/-! ### Code lengths (R265 step 3) -/

/-- An item of package-merge: its weight and the byte values it holds, its lowest first. -/
structure Coin where
  w : Nat
  syms : List Nat
deriving DecidableEq, Repr

/-- Cheaper first; a tie goes to the item with the lower lowest byte value, a single value before a package
(DEDUCED, log 9). -/
def Coin.le (a b : Coin) : Bool :=
  decide (a.w < b.w) ||
    (a.w == b.w && (decide (a.syms.headD 0 < b.syms.headD 0) ||
      (a.syms.headD 0 == b.syms.headD 0 && decide (a.syms.length ≤ b.syms.length))))

def mergeCoins : Nat → List Coin → List Coin → List Coin
  | 0, _, _ => []
  | _ + 1, [], bs => bs
  | _ + 1, as, [] => as
  | n + 1, a :: as, b :: bs => if a.le b then a :: mergeCoins n as (b :: bs) else b :: mergeCoins n (a :: as) bs

def insertCoin (c : Coin) : List Coin → List Coin
  | [] => [c]
  | d :: ds => if c.le d then c :: d :: ds else d :: insertCoin c ds

/-- The 256 single values in order. -/
def coinsOf (counts : List Nat) : List Coin :=
  (counts.zipIdx.map (fun e => ({ w := e.1, syms := [e.2] } : Coin))).foldr insertCoin []

/-- Pair up neighbours. -/
def packages : List Coin → List Coin
  | a :: b :: r =>
    (if a.syms.headD 0 ≤ b.syms.headD 0 then { w := a.w + b.w, syms := a.syms ++ b.syms }
      else { w := a.w + b.w, syms := b.syms ++ a.syms }) :: packages r
  | _ => []

def mergeLevels (coins : List Coin) : Nat → List Coin
  | 0 => coins
  | n + 1 => mergeCoins 1024 coins (packages (mergeLevels coins n))

/-- Lengths of at most 15 bits for 256 counts, each at least 1. -/
def codeLengths (counts : List Nat) : List Nat :=
  let picked := ((mergeLevels (coinsOf counts) 14).take (2 * counts.length - 2)).flatMap (·.syms)
  (List.range counts.length).map (fun b => picked.count b)

/-! ### The canonical code -/

/-- (byte, length, code) in ascending order of length, then byte. -/
def canonical (lens : List Nat) : List (Nat × Nat × Nat) :=
  let ordered := (List.range 16).flatMap (fun l => (lens.zipIdx.filter (fun e => e.1 == l && l != 0)).map
    (fun e => (e.2, l)))
  (ordered.foldl (fun (st : List (Nat × Nat × Nat) × Nat × Nat) e =>
    -- st.2 = (next code at the previous length, previous length)
    let code := st.2.1 <<< (e.2 - st.2.2)
    (st.1 ++ [(e.1, e.2, code)], code + 1, e.2)) ([], 0, 0)).1

/-- Bits of a number, most significant first. -/
def msbBits (n v : Nat) : List Bool := (List.range n).map (fun i => v.testBit (n - 1 - i))

/-- A byte from eight bits, most significant first. -/
def byteOfBits (bs : List Bool) : Byte := BitVec.ofNat 8 (bs.foldl (fun a b => 2 * a + if b then 1 else 0) 0)

/-- Pack bits into bytes; unused low bits of the last byte are zero. -/
def packBits : Nat → List Bool → List Byte
  | 0, _ => []
  | n + 1, bs =>
    if bs.isEmpty then [] else byteOfBits ((bs.take 8 ++ List.replicate 8 false).take 8) :: packBits n (bs.drop 8)

def unpackBits (bs : List Byte) : List Bool := bs.flatMap (fun b => msbBits 8 b.toNat)

/-! ### Coded blocks (R263, R264, R267) -/

/-- The coded form of raw bytes under table t: 8-byte header and payload (Table TIR-5). -/
def codeBlock (t : Nat) (lens : List Nat) (raw : List Byte) : List Byte :=
  let codes := canonical lens
  let bits := raw.flatMap (fun b =>
    match codes.find? (fun e => e.1 == b.toNat) with
    | some e => msbBits e.2.1 e.2.2
    | none => [])
  let pay := packBits (bits.length + 1) bits
  let pad := (8 - bits.length % 8) % 8
  let hdr := ((crc16 raw).toNat <<< 48) ||| (t <<< 42) ||| (pad <<< 36) ||| (pay.length <<< 24) |||
    (raw.length <<< 11) ||| 0xC5
  leBytes 8 hdr ++ pay

/-- R264: a 4,096-byte block is stored coded when its payload is at most 3,968 bytes. -/
def codes? (coded : List Byte) : Bool := decide (9 ≤ coded.length) && decide (coded.length ≤ 8 + 3968)

/-- Decode bits until none remain, one code at a time; none when the payload ends inside a code. -/
def decodeBits (codes : List (Nat × Nat × Nat)) : Nat → List Bool → Nat → Nat → Option (List Byte)
  | 0, _, _, len => if len = 0 then some [] else none
  | _ + 1, [], _, len => if len = 0 then some [] else none
  | n + 1, b :: bs, acc, len =>
    let acc' := 2 * acc + (if b then 1 else 0)
    let len' := len + 1
    match codes.find? (fun e => e.2.1 == len' && e.2.2 == acc') with
    | some e => (decodeBits codes n bs 0 0).map (BitVec.ofNat 8 e.1 :: ·)
    | none => if len' ≥ 15 then none else decodeBits codes n bs acc' len'

/-- Fields of a coded block's header. -/
structure CodedHdr where
  check : Nat
  table : Nat
  pad : Nat
  codedLen : Nat
  rawLen : Nat
  ok : Bool
deriving DecidableEq, Repr

def codedHdr (bs : List Byte) : CodedHdr :=
  let h := leNat (bs.take 8)
  { check := fld h 63 48, table := fld h 47 42, pad := fld h 38 36, codedLen := fld h 35 24,
    rawLen := fld h 23 11,
    ok := decide (8 ≤ bs.length) && fld h 7 0 == 0xC5 && fld h 10 8 == 0 && fld h 41 39 == 0 &&
      decide (1 ≤ fld h 35 24) && decide (fld h 35 24 ≤ 3968) && decide (1 ≤ fld h 23 11) &&
      decide (fld h 23 11 ≤ 4096) }

/-- R267: expand a coded block; none when any check rejects it. `tab` gives a table's lengths, empty while
the table is. -/
def expandBlock (tab : Nat → List Nat) (bs : List Byte) : Option (List Byte) :=
  let h := codedHdr bs
  let pay := (bs.drop 8).take h.codedLen
  let bits := unpackBits pay
  if !h.ok || (tab h.table).isEmpty || pay.length != h.codedLen then none
  else if (bits.drop (bits.length - h.pad)).any id then none
  else
    let use := bits.take (bits.length - h.pad)
    match decodeBits (canonical (tab h.table)) (use.length + 1) use 0 0 with
    | some raw => if raw.length == h.rawLen && (crc16 raw).toNat == h.check then some raw else none
    | none => none

end Sys2Proof.Machine
end

