-- ==== Sys2Proof/Machine/TierOps.lean ====
section
/-! DEFINITION. Tier 1 as the other chapters use it: stored slabs, codec tables, the tier cache's frames, the spare
pool and the queue of the tier manager (R250–R269). -/

namespace Sys2Proof.Machine

def tirPage (s : State) (p : Nat) : Nat := Blk.tir.page (firstDie s p)

/-- The bridge that holds a slab (Table TIR-1). -/
def bridgeOf (s : State) (p n : Nat) : Nat :=
  if s.settings.partitions = 1 then n % 2 else if s.settings.partitions = 2 then p else p / 2

/-- R254: the slab cannot be fetched. -/
def unreachable (s : State) (p n : Nat) : Bool := shareOf s p == 0 || bridgeFaulted s (bridgeOf s p n)

/-! ### Stored slabs (R262, Table TIR-4) -/

/-- What storage holds of one block. -/
inductive Stored where
  | fresh
  | raw (bytes : List Byte)
  | coded (bytes : List Byte)
  | damaged
deriving DecidableEq, Repr

def slabState (s : State) (p n : Nat) : Nat := SMap.get 0 (tier s p).slabs n

/-- Map entry k of a MAPPED slab: kind and offset in 64-byte units. -/
def mapEntry (s : State) (p n k : Nat) : Nat × Nat :=
  let w := leNat (s.bytes (homeKey s p n + 4 * k) 4)
  (fld w 31 30, fld w 9 0)

def storedBlock (s : State) (p n k : Nat) : Stored :=
  let b := homeKey s p n
  match slabState s p n with
  | 0 => .fresh
  | 1 => .raw (s.bytes (b + 4096 * k) 4096)
  | _ =>
    let e := mapEntry s p n k
    match e.1 with
    | 0 => .fresh
    | 1 => .raw (s.bytes (b + 64 * e.2) 4096)
    | 2 => .coded (s.bytes (b + 64 * e.2) (8 + (codedHdr (s.bytes (b + 64 * e.2) 8)).codedLen))
    | _ => .damaged

/-- Lengths of a codec table, empty while the table is (R265). -/
def tableLens (s : State) (p t : Nat) : List Nat := (SMap.get {} (tier s p).codecs t : Codec).lens

/-- A block as the expanders deliver it; none when it is damaged or rejected (R267). -/
def blockRaw (s : State) (p n k : Nat) : Option (List Byte) :=
  match storedBlock s p n k with
  | .fresh => some (List.replicate 4096 0)
  | .raw b => some b
  | .coded b => expandBlock (tableLens s p) b
  | .damaged => none

/-- 512-byte units of a slab's frame that its storage needs (R268). -/
def slabUnits (s : State) (p n : Nat) : Nat :=
  match slabState s p n with
  | 0 => 0
  | 1 => 128
  | _ =>
    (List.range 16).foldl (fun m k =>
      let sz :=
        match storedBlock s p n k with
        | .raw _ => 64 * (mapEntry s p n k).2 + 4096
        | .coded b => 64 * (mapEntry s p n k).2 + b.length
        | _ => 64
      Nat.max m (ceilDiv sz 512)) 1

/-! ### The spare pool (R268, R269) -/

/-- Units of a frame taken by storage and by lent runs. -/
def unitsUsed (s : State) (p n : Nat) : Nat :=
  (tier s p).lent.foldl (fun m l => if l.slab = n then Nat.max m (l.unit + l.count) else m) (slabUnits s p n)

/-- Free pool units of a partition; the map of moved granules takes 4 MiB of the pool for each retired channel. -/
def poolFree (s : State) (p : Nat) : Nat :=
  let maps := 8192 * (s.chans.filter (fun e => partOfChan s e.1 == p && decide (2 ≤ e.2.st))).length
  256 * 2 ^ 21 * diesPer s - ((tier s p).slabs.foldl (fun a e => a + slabUnits s p e.1) 0) -
    (tier s p).lent.foldl (fun a l => a + l.count) 0 - maps

/-- First slab number of the tier-1-homed part. -/
def firstSlab (s : State) (p : Nat) : Nat := hbmHomed s p / 65536

/-- A run of `count` free units: in MAPPED tails first, then in FRESH frames, on one bridge. -/
def findUnits (s : State) (p bridge count avoid : Nat) : Option (Nat × Nat) :=
  let ok (n : Nat) : Bool := bridgeOf s p n == bridge && n != avoid
  let tails := ((tier s p).slabs.filter (fun e => e.2 == 2 && ok e.1)).map Prod.fst
  let fresh := ((List.range (2 * ((tier s p).slabs.length + (tier s p).lent.length + 2))).map
    (firstSlab s p + ·)).filter (fun n => ok n && slabState s p n == 0)
  ((tails ++ fresh).find? (fun n => decide (unitsUsed s p n + count ≤ 128))).map (fun n => (n, unitsUsed s p n))

/-- POOL_LOW when the free units fall below LOW. -/
def State.poolLow (was : State) (p : Nat) (s : State) : State :=
  let low := s.regFld (tirPage s p) Reg.tirPoolLow 31 0
  if low ≤ poolFree was p && poolFree s p < low then s.raise_ (tirPage s p) 2 else s

/-- Poison every access of a granule (R175, R176). -/
def State.poisonGranule (s : State) (k : Nat) : State :=
  (List.range 64).foldl (fun t i => (t.setPoison (4096 * (k / 4096) + 64 * i) true)) (s.clearFresh k)

/-- R269: lent runs that a slab's storage now needs move to other free units, or are lost. -/
def State.moveLent (s : State) (p n need : Nat) : State :=
  let hit := (tier s p).lent.filter (fun l => l.slab == n && decide (l.unit < need))
  hit.foldl (fun t l =>
    let t1 := t.modTier p (fun x => { x with lent := x.lent.filter (fun y => y != l) })
    match findUnits t1 p (bridgeOf t1 p n) l.count n with
    | some (a, u) => t1.modTier p (fun x => { x with lent := x.lent ++ [{ l with slab := a, unit := u }] })
    | none =>
      let g := keyOfChan t1 l.chan (4096 * l.gran)
      (t1.poisonGranule g).raise_ (tirPage t1 p) 3 { d1 := ids16 [l.chan], d2 := BitVec.ofNat 64 l.gran }) s

/-! ### Codec tables (R265, R266) -/

/-- Count a stored raw block into an empty table's histogram; at 256 KiB the table is built. -/
def Codec.see (c : Codec) (raw : List Byte) : Codec :=
  if !c.lens.isEmpty then c
  else
    let h := raw.foldl (fun m b => SMap.modify 0 m b.toNat (· + 1)) c.hist
    let c1 := { c with hist := h, seen := c.seen + raw.length }
    if c1.seen < 262144 then c1
    else { c1 with lens := codeLengths ((List.range 256).map (fun b => SMap.get 0 h b + 1)) }

/-- References to a table; at zero the table empties. -/
def Codec.refer (c : Codec) (gain loss : Nat) : Codec :=
  let r := c.refs + gain - loss
  if r = 0 && 0 < c.refs + gain then {} else { c with refs := r }

/-- Tables that a slab's coded blocks name. -/
def slabRefs (s : State) (p n : Nat) : List Nat :=
  if slabState s p n = 2 then
    (List.range 16).filterMap (fun k =>
      match storedBlock s p n k with
      | .coded b => some (codedHdr b).table
      | _ => none)
  else []

/-- A block to be stored: never written, damaged, or its raw bytes. -/
inductive ToStore where
  | fresh
  | damaged
  | data (raw : List Byte)
deriving DecidableEq, Repr

/-- Form one block for storage through a table: the stored form and the table after it. -/
def formBlock (t : Nat) (tab : Option Codec) (b : ToStore) : Stored × Option Codec :=
  match b with
  | .fresh => (.fresh, tab)
  | .damaged => (.damaged, tab)
  | .data raw =>
    match tab with
    | none => (.raw raw, none)
    | some c =>
      if c.lens.isEmpty then (.raw raw, some (c.see raw))
      else
        let e := codeBlock t c.lens raw
        if codes? e then (.coded e, some c) else (.raw raw, some c)

def Stored.bytes : Stored → List Byte
  | .raw b => b
  | .coded b => b
  | _ => []

def Stored.isCoded : Stored → Bool
  | .coded _ => true
  | _ => false

/-- Store a slab (R262, R264): MAPPED when a block codes, or when one is damaged and so must stay marked
(DEDUCED, log 13); RAW otherwise; FRESH when nothing was ever written. -/
def State.storeSlab (s : State) (p n : Nat) (table : Option Nat) (blocks : List ToStore) : State :=
  let t := table.getD 0
  let tab0 := table.map (fun t => (SMap.get {} (tier s p).codecs t : Codec))
  let formed := blocks.foldl (fun (a : List Stored × Option Codec) b =>
    let r := formBlock t a.2 b
    (a.1 ++ [r.1], r.2)) ([], tab0)
  let bs := formed.1
  let mapped := bs.any (fun b => b.isCoded || b == .damaged)
  let fresh := bs.all (· == .fresh)
  let was := slabRefs s p n
  let base := homeKey s p n
  -- the frame's bytes
  let lay := bs.foldl (fun (a : List Nat × Nat) b =>
    match b with
    | .fresh => (a.1 ++ [0], a.2)
    | .damaged => (a.1 ++ [3 * 2 ^ 30], a.2)
    | .raw x => (a.1 ++ [2 ^ 30 + a.2], a.2 + ceilDiv x.length 64)
    | .coded x => (a.1 ++ [2 * 2 ^ 30 + a.2], a.2 + ceilDiv x.length 64)) ([], 1)
  let frame : List Byte :=
    if fresh then []
    else if mapped then
      lay.1.flatMap (leBytes 4) ++
        bs.flatMap (fun b => b.bytes ++ List.replicate ((64 - b.bytes.length % 64) % 64) 0)
    else bs.flatMap (fun b => if b.bytes.isEmpty then List.replicate 4096 0 else b.bytes)
  let need := if fresh then 0 else if mapped then ceilDiv frame.length 512 else 128
  let s1 := s.moveLent p n need
  let s2 := { s1 with mem := (s1.mem.drop (fun k => k / 65536 == base / 65536)).puts base frame }
  let s3 := s2.modTier p (fun x =>
    { x with
      slabs := SMap.set 0 x.slabs n (if fresh then 0 else if mapped then 2 else 1)
      codecs := match table, formed.2 with
        | some t, some c => SMap.set {} x.codecs t c
        | _, _ => x.codecs })
  let now := slabRefs s3 p n
  let s4 := s3.modTier p (fun x =>
    { x with
      codecs := (was ++ now).dedup.foldl (fun m t =>
        SMap.modify {} m t (fun c => c.refer (now.count t) (was.count t))) x.codecs })
  let nRaw := (bs.filter (fun b => match b with | .raw _ => true | _ => false)).length
  let nCod := (bs.filter Stored.isCoded).length
  let pg := tirPage s p
  let s5 := ((s4.bump pg Reg.tirCodec 31 0 nCod).bump pg Reg.tirCodec 63 32 nRaw).bump pg Reg.tirRatio 63 32
    (4 * (nRaw + nCod))
  s.poolLow p (s5.bump pg Reg.tirRatio 31 0 (ceilDiv frame.length 1024))

/-- Mark a stored block damaged (R267): its map entry becomes KIND 3, with CODEC_EVT and a log entry. -/
def State.markDamaged (s : State) (p n k : Nat) : State :=
  let s1 :=
    match slabState s p n with
    | 2 =>
      let was := slabRefs s p n
      let t := { s with mem := s.mem.puts (homeKey s p n + 4 * k) (leBytes 4 (3 * 2 ^ 30)) }
      let now := slabRefs t p n
      t.modTier p (fun x =>
        { x with
          codecs := was.dedup.foldl (fun m t =>
            SMap.modify {} m t (fun c => c.refer (now.count t) (was.count t))) x.codecs })
    | _ => s
  (s1.bump (tirPage s p) Reg.tirDamage 31 0 1).raise_ (tirPage s p) 1
    { d1 := BitVec.ofNat 64 n, d2 := BitVec.ofNat 64 k }

/-! ### Frames (R252, R256) -/

/-- Frames of the tier cache. -/
def frameCount (s : State) (p : Nat) : Nat := (hbmBytes s - hbmHomed s p) / 65536

/-- The first frame of a colour that holds nothing, from cache row L on. -/
def freeFrame (s : State) (p colour : Nat) : Nat → Nat → Option Nat
  | 0, _ => none
  | n + 1, l =>
    let c := chanBits s
    let g := colour ^^^ foldXor 64 c l
    let off := 4096 * ((l <<< c) + g)
    let f := (off - hbmHomed s p) / 65536
    if hbmBytes s ≤ off then none
    else if g % 16 = 0 && (SMap.get none (tier s p).frames f).isNone then some f
    else freeFrame s p colour n (l + 1)

def firstRow (s : State) (p : Nat) : Nat := (hbmHomed s p / 4096) >>> chanBits s

/-- A request or a command holds the slab's frame (R253, R255). -/
def framePinned (s : State) (p : Nat) (f : Frame) : Bool :=
  !f.pins.isEmpty || s.reqs.any (fun r => addrPart r.addr == p && addrOff r.addr / 65536 == f.slab)

/-- Frames of a colour, with their contents. -/
def framesOfColour (s : State) (p colour : Nat) : List (Nat × Frame) :=
  ((tier s p).frames.filterMap (fun e => e.2.map (fun f => (e.1, f)))).filter
    (fun e => (place s (hbmHomed s p + 65536 * e.1)).1 == colour)

/-- Least recently used frame of a list. -/
def lruOf : List (Nat × Frame) → Option (Nat × Frame)
  | [] => none
  | e :: es =>
    match lruOf es with
    | none => some e
    | some m => if e.2.used ≤ m.2.used then some e else some m

def State.setFrame (s : State) (p f : Nat) (fr : Option Frame) : State :=
  s.modTier p (fun t => { t with frames := SMap.set none t.frames f fr })

def State.modFrame (s : State) (p slab : Nat) (g : Frame → Frame) : State :=
  match frameOf s p slab with
  | some (f, fr) => s.setFrame p f (some (g fr))
  | none => s

/-- Forget a frame: its granules hold nothing from then on. -/
def State.freeFrameOf (s : State) (p slab : Nat) : State :=
  match frameOf s p slab with
  | some (f, _) => (s.freshen (fun k => k / 65536 == frameKey s p f / 65536)).setFrame p f none
  | none => s

/-! ### Waiting for slabs (R253, R254) -/

/-- A command waits on slab-ready for some slabs, which are fetched (R253, R254). -/
def State.waitSlabs (s : State) (id p : Nat) (slabs : List Nat) : State :=
  if slabs.any (unreachable s p) then s.endCmd id St.tierUnreachable
  else
    let t := slabs.foldl (fun t n => t.queueFetch p n 1 (some id)) s
    let since := match (s.cmd? id).map (·.wait) with
      | some (.slabReady u) => u
      | _ => s.now
    let u := t.modTier p (fun x => { x with waitFrom := some (x.waitFrom.getD s.now) })
    (u.modCmd id (fun c => { c with slabs := (c.slabs ++ slabs).dedup })).cmdWaits id (.slabReady since)

/-- Queue pull-ahead hints for slabs after an offset (R258). -/
def State.pullAhead (s : State) (p x pull : Nat) : State :=
  (List.range pull).foldl (fun t i =>
    let n := x / 65536 + 1 + i
    if !isTier1 t p (65536 * n) || (frameOf t p n).isSome then t
    else if 256 ≤ ((tier t p).jobs.filter (fun j => j.cls == 4)).length then t.bump (tirPage t p) Reg.tirHint 63 32 1
    else (t.queueFetch p n 4 none).bump (tirPage t p) Reg.tirHint 31 0 1) s

/-! ### Direct access (R261) -/

/-- Bytes that a direct read of part of one block delivers: expanded under CODEC 1, as stored under CODEC 2;
none when the block is damaged. -/
def directRead (s : State) (p x len codec : Nat) : Option (List Byte) :=
  let n := x / 65536
  let k := x % 65536 / 4096
  let cut (b : List Byte) : List Byte := (b.drop (x % 4096)).take len
  if codec = 1 then (blockRaw s p n k).map cut
  else
    match storedBlock s p n k with
    | .fresh => some (List.replicate len 0)
    | .raw b => some (cut b)
    | .coded b => some (cut b)
    | .damaged => none

/-- The block lies never written in storage. -/
def blockFresh (s : State) (p x : Nat) : Bool := storedBlock s p (x / 65536) (x % 65536 / 4096) == .fresh

/-- Staging of a block under a CODEC 1 write (the model's own keys, domain 4). -/
def stageKey (s : State) (p x : Nat) : Nat := key 4 p (4096 * (x / 4096) - hbmHomed s p)

/-- A CODEC 1 write of part of one block; `start` and `stop` mark the first and last part of the block in its run. -/
def State.codecWrite (s : State) (p x : Nat) (data : List Byte) (table : Nat) (start stop : Bool) : State :=
  let n := x / 65536
  let sk := stageKey s p x
  let s0 :=
    if start then { s with mem := s.mem.puts sk ((blockRaw s p n (x % 65536 / 4096)).getD (List.replicate 4096 0)) }
    else s
  let s1 := { s0 with mem := s0.mem.puts (sk + x % 4096) data }
  let s2 :=
    match locate s1 p x with
    | .mem k => s1.poke k data
    | .slab _ => s1
  if stop then
    let blk := s2.bytes sk 4096
    let blocks := (List.range 16).map (fun k =>
      if k = x % 65536 / 4096 then ToStore.data blk
      else
        match storedBlock s2 p n k with
        | .fresh => .fresh
        | .damaged => .damaged
        | .raw b => .data b
        | .coded b => match expandBlock (tableLens s2 p) b with | some r => .data r | none => .damaged)
    let s3 := s2.storeSlab p n (some table) blocks
    { s3 with mem := s3.mem.drop (fun k => k / 4096 == sk / 4096) }
  else s2

end Sys2Proof.Machine
end

