-- ==== Sys2Proof/Machine/HodList.lean ====
section
/-! DEFINITION. Hod lists: their layout, checks and addresses (R115–R118), and dispatch of commands whose tables lie
in memory (R99). -/

namespace Sys2Proof.Machine

/-! ### Layout (Tables HOD-1, HOD-2) -/

def parseHeader (w : Nat) : HodHeader :=
  { srcFmt := fld w 147 144, poolMax := fld w 137 128, floor := fld w 121 112, tensorId := fld w 103 80,
    guardEn := w.testBit 74, guard := fld w 73 64, mcastTag := fld w 63 48, haloAxis := fld w 42 42,
    haloDepth := fld w 41 36, dir := fld w 33 32, entries := fld w 31 16 }

def parseEntry (w : Nat) : HodEntry :=
  { pull := fld w 231 224, mcEn := w.testBit 223, mcGrp := fld w 222 220, haloUp := w.testBit 219,
    haloDn := w.testBit 218, codec := fld w 217 216, qovf := fld w 215 214, qrnd := fld w 213 212,
    qfmt := fld w 211 208, stride2 := signedOf 40 (fld w 207 168), stride1 := signedOf 40 (fld w 167 128),
    count2 := fld w 119 104, count1 := fld w 103 88, len := fld w 87 64, base := fld w 47 0 }

/-- A list read from memory: its raw header word, its raw entry words and their fields. -/
structure RawList where
  addr : Nat
  hdrW : Nat
  entW : List Nat
  list : HodList
deriving DecidableEq, Repr

def readList (s : State) (p addr : Nat) : RawList :=
  let x := addrOff addr
  let h := s.num p x 32
  let n := Nat.min (fld h 31 16) 256
  let es := (List.range n).map (fun i => s.num p (x + 32 + 32 * i) 32)
  { addr := addr, hdrW := h, entW := es, list := { hdr := parseHeader h, ents := es.map parseEntry } }

/-- Bytes that a list takes, from its header. -/
def listBytes (s : State) (p addr : Nat) : Nat := 32 + 32 * Nat.min (fld (s.num p (addrOff addr) 32) 31 16) 256

/-- Slabs that a table's bytes still need (R99, R253): the header's first, then the rest. -/
def tableMissing (s : State) (p addr : Nat) (size : State → Nat) : List Nat :=
  let h := missing s p (addrOff addr) 32
  if h.isEmpty then missing s p (addrOff addr) (size s) else h

/-- Reserved bits of a header and of an entry are zero. -/
def hdrReserved (w : Nat) : Bool :=
  fld w 255 148 != 0 || fld w 143 138 != 0 || fld w 127 122 != 0 || fld w 111 104 != 0 || fld w 79 75 != 0 ||
    fld w 47 43 != 0 || fld w 35 34 != 0
def entReserved (w : Nat) : Bool := fld w 255 232 != 0 || fld w 127 120 != 0 || fld w 63 48 != 0

/-! ### Lengths -/

def HodEntry.runs (e : HodEntry) : Nat := e.count1 * e.count2
def HodEntry.total (e : HodEntry) : Nat := e.len * e.runs
def HodList.total (l : HodList) : Nat := l.ents.foldl (fun a e => a + e.total) 0

/-- Bytes that a run of a list delivers after quantisation (R118). -/
def HodEntry.qlen (e : HodEntry) (src : Nat) : Nat :=
  if e.qfmt = 0 then e.len
  else
    let n := e.len / srcSize src
    ceilDiv (bitsPer e.qfmt * n) 8 + (if hasScales e.qfmt then scaleBytes e.qfmt * ceilDiv n 32 else 0)

/-- Bytes that a source list delivers, and bytes that a destination list moves (R341, R210). -/
def HodList.delivers (l : HodList) : Nat := l.ents.foldl (fun a e => a + e.qlen l.hdr.srcFmt * e.runs) 0
def HodList.moves (l : HodList) : Nat := if l.hdr.dir = 2 then l.total / 4 * srcSize l.hdr.srcFmt else l.total

def HodList.quantises (l : HodList) : Bool := l.ents.any (fun e => e.qfmt != 0)
def HodList.stochastic (l : HodList) : Bool := l.ents.any (fun e => e.qfmt != 0 && e.qrnd == 1)

/-! ### Checks (R117, R261) -/

/-- Element group of a list's own addresses (rule 4). -/
def HodHeader.group (h : HodHeader) : Nat := if h.dir = 2 then 4 else srcSize h.srcFmt

/-- Rule 4 for one base. -/
def baseAligned (h : HodHeader) (base : Nat) : Bool := base % h.group == 0

/-- R117: the list has a fault; `copy` marks a list of a HOD RUN with PERSIST 0 (rule 9). -/
def listFault (s : State) (p : Nat) (copy : Bool) (r : RawList) : Bool :=
  let h := r.list.hdr
  let g := h.group
  let es := r.list.ents
  r.addr % 32 != 0 || fld r.hdrW 15 0 != 0x40D1 || h.entries == 0 || decide (256 < h.entries) ||
  hdrReserved r.hdrW || r.entW.any entReserved || h.dir == 3 || decide (3 < h.srcFmt) ||
  es.any (fun e => e.codec == 3 || decide (1 < e.qrnd) || e.qfmt == 1 || decide (12 < e.qfmt) || e.qovf == 3) ||
  decide (h.floor < 8) || decide (512 < h.floor) || decide (1016 < h.poolMax) ||
  es.any (fun e => e.len == 0 || e.count1 == 0 || e.count2 == 0) ||
  es.any (fun e => e.base % g != 0 || e.len % g != 0 || e.stride1 % g != 0 || e.stride2 % g != 0) ||
  es.any (fun e => e.qfmt != 0 && (!(h.srcFmt == 1 || h.srcFmt == 2) || ((e.qfmt == 2 || e.qfmt == 3) && h.srcFmt != 1))) ||
  es.any (fun e => hasScales e.qfmt && e.qfmt != 0 && (h.dir != 0 || e.len % (32 * srcSize h.srcFmt) != 0)) ||
  (h.guardEn && es.any (fun e =>
    !(e.qfmt == 4 || e.qfmt == 5 || e.qfmt == 10) || guardFmt (guard s p h.guard) != e.qfmt)) ||
  es.any (fun e => e.codec != 0 && (e.qfmt != 0 || h.dir == 2)) ||
  (copy && (h.haloDepth != 0 || h.mcastTag != 0 || es.any (fun e => e.haloUp || e.haloDn || e.mcEn))) ||
  (es.any (fun e => e.codec != 0) && decide (64 ≤ h.tensorId)) ||
  (h.dir == 2 && (!(h.srcFmt == 1 || h.srcFmt == 2) || es.any (fun e => e.qfmt != 0 || isOpen (addrOff e.base))))

/-- An address interval, as signed ends, lies in the partition's range (R249). -/
def spanInRange (s : State) (p : Nat) (lo hi : Int) : Bool :=
  decide (0 ≤ lo) && inRange s p lo.toNat (hi - lo).toNat

/-- Least and greatest of 0 and v. -/
def loOf (v : Int) : Int := if v < 0 then v else 0
def hiOf (v : Int) : Int := if v < 0 then 0 else v

/-- Extent of an entry. -/
def HodEntry.span (e : HodEntry) : Int × Int :=
  let a := ((e.count2 : Int) - 1) * e.stride2
  let b := ((e.count1 : Int) - 1) * e.stride1
  ((e.base : Int) + loOf a + loOf b, (e.base : Int) + hiOf a + hiOf b + e.len)

def listFenced (s : State) (p : Nat) (l : HodList) : Bool :=
  l.ents.any (fun e => !spanInRange s p e.span.1 e.span.2)

/-! ### Addresses (R116) -/

/-- Where byte `pos` of a list lies, when a run of entry e takes `lenOf e` bytes: entry number, the entry, the run's
address, its number, and the offset within it. -/
def locateRun (lenOf : HodEntry → Nat) : List HodEntry → Nat → Nat → Option (Nat × HodEntry × Int × Nat)
  | [], _, _ => none
  | e :: es, n, pos =>
    if pos < lenOf e * e.runs then
      let r := pos / lenOf e
      some (n, e, (e.base : Int) + (r / e.count1 : Nat) * e.stride2 + (r % e.count1 : Nat) * e.stride1, pos % lenOf e)
    else locateRun lenOf es (n + 1) (pos - lenOf e * e.runs)

/-! ### Dispatch of commands with tables in memory (R99) -/

/-- As dispatchRow, for operations that read tables: `need` gives the slabs without a ready copy that they lie in,
and the command waits for those on slab-ready before its checks. -/
def dispatchRowT (atOnce : Bool) (cls sub k : Nat) (need : State → Cmd → List Nat) (check : State → Cmd → Option Nat)
    (start : State → Cmd → State) (s : State) : State :=
  let go (t : State) (c : Cmd) : State :=
    if (need t c).isEmpty then checkAndStart atOnce check start t c
    else (t.modCmd c.id (fun c => { c with checked := false })).waitSlabs c.id c.part (need t c)
  match unstartedOf cls sub s k with
  | some c => go s c
  | none =>
    match nextOf s k with
    | none => s.wantSlot k
    | some b =>
      if slotPoisoned s k (ring s k).head then (s.take_ k b).endCmd s.nextCmd St.dataPoisoned
      else if !rowTakes cls sub b then s
      else
        let c := newCmd s k b
        match envStatus s k b with
        | some st => (s.take_ k b).endCmd c.id st
        | none => go (s.take_ k b) c

end Sys2Proof.Machine
end

