-- ==== Sys2Proof/Machine/HodOps.lean ====
section
/-! DEFINITION. Streams, tags, requests and their data, shared by the hods' commands (R114–R130). -/

namespace Sys2Proof.Machine

/-! ### Streams -/

/-- A stream of an unfinished command, or a persistent stream by its handle. -/
def persist? (s : State) (h : Nat) : Option Persist := s.persists.find? (fun x => x.handle == h)
def State.modPersist (s : State) (h : Nat) (f : Persist → Persist) : State :=
  { s with persists := s.persists.map (fun x => if x.handle = h then f x else x) }

/-- What a stream converts with. -/
structure Settings_ where
  part : Nat := 0
  seed : Option Word := none
  step : Word := 0
  scales : SMap (BitVec 32) := []
  pass : Nat := 0
  trace : Bool := false
deriving DecidableEq, Repr

def Cmd.settings (c : Cmd) : Settings_ :=
  { part := c.part, seed := c.seed, step := c.step, scales := c.scales, pass := c.pass, trace := c.trace }
def Persist.settings (x : Persist) : Settings_ :=
  { part := x.part, seed := x.seed, step := x.step, scales := x.scales, pass := x.pass }

/-- The stream that a request of (id, k) belongs to, with its settings. -/
def streamOf (s : State) (id k : Nat) : Option (Settings_ × Stream) :=
  match persist? s id with
  | some x => if k = 0 then some (x.settings, x.stream) else none
  | none =>
    match s.cmd? id with
    | some c => if c.admitted && c.status.isNone then (c.streams[k]?).map (fun st => (c.settings, st)) else none
    | none => none

def setNth {α : Type} (f : α → α) : List α → Nat → List α
  | [], _ => []
  | x :: xs, 0 => f x :: xs
  | x :: xs, n + 1 => x :: setNth f xs n

def State.modStream (s : State) (id k : Nat) (f : Stream → Stream) : State :=
  match persist? s id with
  | some _ => s.modPersist id (fun x => { x with stream := f x.stream })
  | none => s.modCmd id (fun c => { c with streams := setNth f c.streams k })

/-! ### Hods (R114, R125–R127) -/

def hodKey (cl h : Nat) : Nat := 4 * cl + h
def hod (s : State) (cl h : Nat) : Hod := SMap.get {} s.hods (hodKey cl h)
def State.modHod (s : State) (cl h : Nat) (f : Hod → Hod) : State :=
  { s with hods := SMap.modify {} s.hods (hodKey cl h) f }

/-- Streams that a hod serves. -/
def hodStreams (s : State) (cl h : Nat) : List Stream :=
  (s.cmds.filter (fun c => c.admitted && c.status.isNone)).flatMap
      (fun c => c.streams.filter (fun st => st.cluster == cl && st.hod == h)) ++
    (s.persists.map (·.stream)).filter (fun st => st.cluster == cl && st.hod == h)

def floorSum (s : State) (cl h : Nat) : Nat := (hodStreams s cl h).foldl (fun a st => a + st.list.hdr.floor) 0
def persistFloor (s : State) (cl h : Nat) : Nat :=
  ((s.persists.map (·.stream)).filter (fun st => st.cluster == cl && st.hod == h)).foldl
    (fun a st => a + st.list.hdr.floor) 0

/-- Tags in use, and pool tags left. -/
def hodReqs (s : State) (cl h : Nat) : List Req := s.reqs.filter (fun r => r.cluster == cl && r.hod == h)
def poolLeft (s : State) (cl h : Nat) : Nat :=
  1024 - floorSum s cl h - ((hodReqs s cl h).filter (·.pool)).length
def streamReqs (s : State) (id k : Nat) : List Req := s.reqs.filter (fun r => r.cmd == id && r.stream == k)

/-- The tag that the next request of a stream may take: false from its floor, true from the pool (R125). -/
def tagFor (s : State) (id k : Nat) (st : Stream) : Option Bool :=
  let rs := streamReqs s id k
  if (rs.filter (fun r => !r.pool)).length < st.list.hdr.floor then some false
  else if (rs.filter (·.pool)).length < st.list.hdr.poolMax && 0 < poolLeft s st.cluster st.hod then some true
  else none

/-! ### The next request (R122) -/

/-- What a stream asks for next. -/
structure Want where
  addr : Nat := 0
  len : Nat := 0
  pos : Nat := 0
  ent : Nat := 0
  codec : Nat := 0
  /-- First request of its entry, with the entry's hint and end (R258). -/
  hint : Option (Nat × Nat) := none
  /-- The request starts its run, and ends it. -/
  runStart : Bool := false
  runEnd : Bool := false
deriving DecidableEq, Repr

/-- Bytes that an entry's run moves in memory: after quantisation for a write stream (log 14). -/
def memLen (l : HodList) (e : HodEntry) : Nat := if l.hdr.dir = 0 then e.len else e.qlen l.hdr.srcFmt

def wantOf (st : Stream) : Option Want :=
  match st.todo with
  | r :: _ =>
    let len := Nat.min r.len (512 - r.addr % 512)
    some { addr := r.addr, len := len, pos := r.pos, ent := r.ent,
           codec := (st.list.ents.head?).elim 0 (·.codec), runStart := r.pos == 0, runEnd := len == r.len,
           hint := (st.list.ents.head?).bind (fun e =>
             if e.pull != 0 && len == r.len then some (r.addr + r.len - 1, e.pull) else none) }
  | [] =>
    if st.role = 0 || st.role = 1 || st.role = 2 || st.role = 5 then none
    else
      match locateRun (memLen st.list) st.list.ents 0 st.issued with
      | some (n, e, a, off) =>
        let addr := (a + off).toNat
        let left := memLen st.list e - off
        let len := Nat.min left (512 - addr % 512)
        some { addr := addr, len := len, pos := st.issued, ent := n, codec := e.codec,
               hint := if e.pull != 0 && off == 0 && addr == e.base then
                   some (e.span.2.toNat - 1, e.pull) else none,
               runStart := off == 0, runEnd := len == left }
      | none => none

/-- The stream after a request is made. -/
def Stream.asked (st : Stream) (w : Want) (took : Nat) : Stream :=
  match st.todo with
  | r :: rs =>
    let r' := { r with addr := r.addr + w.len, len := r.len - w.len, pos := r.pos + w.len, data := r.data.drop took }
    { st with todo := if r'.len = 0 then rs else r' :: rs }
  | [] => { st with issued := st.issued + w.len, outQ := st.outQ.drop took }

/-- Bytes of data that a write request carries: its own bytes, or one source element per word (R210). -/
def wantData (st : Stream) (w : Want) : Nat :=
  if st.list.hdr.dir = 2 then w.len / 4 * srcSize st.list.hdr.srcFmt else w.len

/-- R211: in deterministic mode an add-write waits for every earlier command with a DIR 2 stream. -/
def addWriteHeld (s : State) (id : Nat) : Bool :=
  match s.cmd? id with
  | some c =>
    c.det && s.cmds.any (fun b => b.part == c.part && decide (b.id < id) && b.status.isNone &&
      b.streams.any (fun st => st.list.hdr.dir == 2))
  | none => false

/-- The open-site module that serves a window offset (R318). -/
def openModule (s : State) (p x : Nat) : Nat := firstDie s p + ((x - openBase) / 4096) % diesPer s

/-- The part of the open site behind an offset is fenced (R320). -/
def openFenced (s : State) (p x : Nat) : Bool := s.site.siteFenced || s.site.fenced.getD (openModule s p x) false

/-- Send an access to the open site (R319, R320). -/
def State.sendOpen (s : State) (p x req : Nat) : State :=
  let r : OpenReq := { id := req, module := openModule s p x, sent := s.now, req := req }
  ({ s with site := { s.site with reqs := s.site.reqs ++ [r] } }).emit (.openReq req)

/-- OUT_DIGEST of the 64-byte accesses that a write of `len` bytes left in memory (R242). -/
def digestOf (s : State) (p x len : Nat) : Word :=
  (List.range ((x % 64 + len + 63) / 64)).foldl (fun d i =>
    let a := x / 64 * 64 + 64 * i
    d ^^^ crc64 (s.range p a 64 ++ leBytes 8 (modAddr p a))) 0

def State.noteWrite (s : State) (id p x len : Nat) : State :=
  match s.cmd? id with
  | some c => if c.trace then s.modCmd id (fun c => { c with outDigest := c.outDigest ^^^ digestOf s p x len }) else s
  | none => s

/-- R251, R257: a write of a command's bytes into its range; a partly covered poisoned access drops its part and the
command ends with DATA_POISONED once it is done (R176). -/
def State.cmdWrite (s : State) (id p x : Nat) (bs : List Byte) : State :=
  let r := s.wideAt p x bs
  let t := r.1.noteWrite id p x bs.length
  if r.2 then t.noteLate id St.dataPoisoned else t

/-- Create a request under a tag. -/
def State.addReq (s : State) (r : Req) : State :=
  let t := { s with reqs := s.reqs ++ [{ r with id := s.nextReq, born := s.now }], nextReq := s.nextReq + 1 }
  t.modHod r.cluster r.hod (fun h => { h with peak := Nat.max h.peak (hodReqs t r.cluster r.hod).length })

/-- Serve a request to a slab without a copy directly at its bridge (R261). -/
def State.serveDirect (s : State) (p : Nat) (w : Want) (r : Req) (table : Nat) (data : List Byte) : State :=
  let x := addrOff w.addr
  let n := x / 65536
  if r.kind = .read then
    match directRead s p x w.len w.codec with
    | some d =>
      let t := if blockFresh s p x then s.bump (tirPage s p) Reg.tirFresh 63 0 1 else s
      t.addReq { r with served := true, data := d, short := decide (d.length < w.len) }
    | none =>
      let t := if storedBlock s p n (x % 65536 / 4096) = .damaged then s else s.markDamaged p n (x % 65536 / 4096)
      t.addReq { r with served := true, bad := true, badStatus := St.codecDamaged }
  else
    let stop := w.runEnd || (x + w.len) % 4096 == 0
    let start := w.runStart || x % 4096 == 0
    let t := (s.codecWrite p x data table start stop)
    (t.noteWrite r.cmd p x w.len).addReq { r with served := true }

/-- A narrow request: 1 to 32 bytes within one 32-byte block (R170). -/
def isNarrow (addr len : Nat) : Bool := decide (addr % 32 + len ≤ 32)

/-- Issue a stream's next request (R122, R124, R125). -/
def State.issueReq (s : State) (id k : Nat) (cfg : Settings_) (st : Stream) (w : Want) : State :=
  let p := cfg.part
  let x := addrOff w.addr
  let dir := st.list.hdr.dir
  let kind : ReqKind := if dir = 0 then .read else if dir = 1 then .write else .addWrite
  let n := if dir = 0 then 0 else wantData st w
  let data := if dir = 0 then [] else match st.todo with
    | r :: _ => r.data.take n
    | [] => st.outQ.take n
  if data.length < n || (dir == 2 && addWriteHeld s id) then s
  else
    match tagFor s id k st with
    | none => s.modHod st.cluster st.hod (fun h => { h with tagWait := satAdd 64 h.tagWait 1 })
    | some pool =>
      let r : Req := { cmd := id, stream := k, cluster := st.cluster, hod := st.hod, kind := kind, addr := w.addr,
                       len := w.len, pos := w.pos, ent := w.ent, pool := pool, narrow := isNarrow w.addr w.len,
                       data := data }
      let s1 := match w.hint with
        | some (last, pull) => s.pullAhead p (addrOff last) pull
        | none => s
      let asked (t : State) : State := t.modStream id k (fun u => u.asked w n)
      if isOpen x then
        if openFenced s p x then s1.endCmd id St.openFenced
        else if kind = .read && isFresh s (keyAt s p x) then
          asked (s1.addReq { r with served := true, data := List.replicate w.len 0 })
        else (asked (s1.addReq r)).sendOpen p x s.nextReq
      else
        let direct := isTier1 s p x && (w.codec == 1 || (w.codec == 2 && dir == 0))
        match missing s p x w.len with
        | [] =>
          if direct && dir == 1 then asked (s1.serveDirect p w r (st.list.hdr.tensorId % 64) data)
          else asked ((s1.useAt p x).addReq r)
        | slabs =>
          if direct then
            if bridgeFaulted s (bridgeOf s p (x / 65536)) then s1.endCmd id St.tierUnreachable
            else asked (s1.serveDirect p w r (st.list.hdr.tensorId % 64) data)
          else s1.waitSlabs id p slabs

/-! ### Landed data (R118) -/

/-- The conversion of an entry under a stream's settings. -/
def entQuant (s : State) (cfg : Settings_) (h : HodHeader) (e : HodEntry) : Quant :=
  { fmt := e.qfmt, ovf := e.qovf, stoch := e.qrnd == 1, seed := cfg.seed, step := cfg.step, tensor := h.tensorId,
    scale := if h.guardEn then (slotScale s cfg.part cfg.scales h.guard).num else .one }

/-- Source elements of some bytes, with their stream indices. -/
def srcElems (fmt : Nat) (bs : List Byte) (idx : Nat) : List Elem :=
  ((readElems fmt (bs.length / srcSize fmt) bs).map Res.val).zipIdx.map (fun e => { val := e.1, idx := idx + e.2 })

/-- Landed bytes from a position on, without a gap: codes as Stream.landed holds them. -/
def prefixFrom : SMap Nat → Nat → List Nat
  | [], _ => []
  | (k, v) :: m, p => if k < p then prefixFrom m p else if k = p then v :: prefixFrom m (p + 1) else []

def landedBytes (l : List Nat) : List Byte := (l.filter (· != 257)).map (fun v => BitVec.ofNat 8 (v - 1))

/-- Put landed bytes at a position; places that a short delivery leaves are marked. -/
def Stream.land (st : Stream) (pos len : Nat) (bs : List Byte) : Stream :=
  { st with
    landed := (List.range len).foldl (fun m i =>
      SMap.set 0 m (pos + i) (match bs[i]? with | some b => b.toNat + 1 | none => 257)) st.landed }

/-- What a list-driven stream hands on: its bytes, and the values, counts and flags of its conversions. -/
structure Handed where
  bytes : List Byte := []
  vals : List Num := []
  cnt : GuardCnt := {}
  fl : Flags := 0
deriving DecidableEq, Repr

def Handed.append (a b : Handed) : Handed :=
  { bytes := a.bytes ++ b.bytes, vals := a.vals ++ b.vals, cnt := a.cnt.add b.cnt, fl := a.fl ||| b.fl }

/-- Elements as binary32 words, the form in which a ring slice holds them (R130); raw bytes pass as they are
(log 18). -/
def wideBytes (fmt : Nat) (bs : List Byte) : List Byte :=
  if fmt = 2 ∨ fmt = 3 then
    (readElems fmt (bs.length / 2) bs).flatMap (fun r => leBytes 4 (round32 r.val).val.toNat)
  else bs

/-- Quantised elements with their scales as binary32 words. -/
def QOut.wide (o : QOut) (fmt : Nat) : List Byte :=
  (o.codes.zipIdx).flatMap (fun e =>
    let v := (elemNum fmt e.1).val
    let v := if hasScales fmt then (Num.mul v (scaleNum fmt (o.scales.getD (e.2 / 32) 0))).val else v
    leBytes 4 (round32 v).val.toNat)

/-- Convert one whole run: its elements, then its scales (R118). -/
def convertRun (s : State) (cfg : Settings_) (h : HodHeader) (e : HodEntry) (wide : Bool) (bs : List Byte) (pos : Nat) :
    Handed :=
  let q := entQuant s cfg h e
  let es := srcElems h.srcFmt bs (pos / srcSize h.srcFmt)
  let o := q.list es
  { bytes := if wide then o.wide e.qfmt else o.bytes e.qfmt ++ o.scaleBytes e.qfmt,
    vals := es.map (·.val), cnt := o.cnt, fl := o.fl }

/-- Take what can be handed on from bytes that lie at list position `used`: raw bytes at once, a quantised run once
it is whole. -/
def takeRuns (s : State) (cfg : Settings_) (l : HodList) (wide : Bool) : Nat → Nat → List Nat → Nat × Handed
  | 0, used, _ => (used, {})
  | n + 1, used, have_ =>
    if have_.isEmpty then (used, {})
    else
      match locateRun (fun e => e.len) l.ents 0 used with
      | none => (used, {})
      | some (_, e, _, off) =>
        let m := Nat.min have_.length (e.len - off)
        if e.qfmt = 0 then
          let r := takeRuns s cfg l wide n (used + m) (have_.drop m)
          (r.1, Handed.append { bytes := (if wide then wideBytes l.hdr.srcFmt else id) (landedBytes (have_.take m)) } r.2)
        else if m < e.len then (used, {})
        else
          let r := takeRuns s cfg l wide n (used + m) (have_.drop m)
          (r.1, (convertRun s cfg l.hdr e wide (landedBytes (have_.take m)) used).append r.2)

/-- Feed a command's and a slot's counts with what was converted (R59, R63); in a pass for the amax only the amax is
kept (R62). -/
def State.feed (s : State) (id : Nat) (cfg : Settings_) (h : HodHeader) (d : Handed) : State :=
  let amax (m : SMap (BitVec 32)) : SMap (BitVec 32) :=
    SMap.modify 0 m h.guard (fun a => d.vals.foldl (fun a v => amaxOf a (round32 v).val) a)
  if cfg.pass != 0 then
    if h.guardEn then
      (s.modCmd id (fun c => { c with amax := amax c.amax })).modPersist id (fun x => { x with amax := amax x.amax })
    else s
  else
    let t := s.addFlags id d.fl
    if h.guardEn && d.cnt.conv != 0 then
      (t.modCmd id (fun c =>
        { c with guards := SMap.modify {} c.guards h.guard (fun g => g.add d.cnt) })).guardFeed cfg.part h.guard
          d.vals d.cnt
    else t

/-- Hand on what a list-driven read stream holds; the state with the stream advanced, and the bytes. -/
def State.handOn (s : State) (id k : Nat) (wide : Bool := false) : State × List Byte :=
  match streamOf s id k with
  | none => (s, [])
  | some (cfg, st) =>
    let r := takeRuns s cfg st.list wide (st.landed.length + 1) st.used (prefixFrom st.landed st.used)
    let t := s.modStream id k (fun u => { u with used := r.1, landed := u.landed.filter (fun e => decide (r.1 ≤ e.1)) })
    (t.feed id cfg st.list.hdr r.2, if cfg.pass = 2 then [] else r.2.bytes)

/-- Form a write stream's inbox into bytes for its requests, quantising run by run. -/
def State.form (s : State) (id k : Nat) : State :=
  match streamOf s id k with
  | none => s
  | some (cfg, st) =>
    let codes := st.inbox.map (fun b => b.toNat + 1)
    let r := if st.list.quantises then takeRuns s cfg st.list false (codes.length + 1) st.used codes
      else (st.used + codes.length, { bytes := st.inbox })
    let t := s.modStream id k (fun u =>
      { u with
        used := r.1
        inbox := u.inbox.drop (r.1 - st.used)
        outQ := if cfg.pass = 0 then u.outQ ++ r.2.bytes else u.outQ })
    t.feed id cfg st.list.hdr r.2

/-! ### The two passes (R62) -/

/-- Slots that a list quantises through and that have no history. -/
def newSlots (s : State) (p : Nat) (l : HodList) : List Nat :=
  if l.hdr.guardEn && l.quantises && (guard s p l.hdr.guard).count == 0 then [l.hdr.guard] else []

/-- End an amax pass: SCALE of each slot from its amax alone. -/
def State.settleScales (s : State) (p : Nat) (amax : SMap (BitVec 32)) (slots : List Nat) : State :=
  slots.foldl (fun t g => t.rescale p g (SMap.get 0 amax g)) s

/-- Scales of slots as a command samples them. -/
def sampleScales (s : State) (p : Nat) (slots : List Nat) : SMap (BitVec 32) :=
  slots.foldl (fun m g => SMap.set 0 m g (guard s p g).scale) []

end Sys2Proof.Machine
end

