-- ==== Sys2Proof/Machine/Bond.lean ====
section
/-! DEFINITION. MATMUL payloads and bond tables: layout, checks, addresses and the walk (R93–R112, R338–R340). -/

namespace Sys2Proof.Machine

/-! ### Stream records (Tables HST-4, HST-5) -/

structure Rec where
  base : Nat := 0
  scale : Nat := 0
  pitch : Nat := 0
  layout : Nat := 0
  fmt : Nat := 0
  tensor : Nat := 0
  optKind : Nat := 0
  opt : Nat := 0
deriving DecidableEq, Repr

/-- Record of role 0 A, 1 B, 2 C. -/
def recOf (b : CmdBits) (role : Nat) : Rec :=
  let o := 0x10 + 0x20 * role
  { base := payFld b o 47 0, scale := payFld b (o + 8) 47 0, pitch := payFld b (o + 16) 63 32,
    layout := payFld b (o + 16) 28 28, fmt := payFld b (o + 16) 27 24, tensor := payFld b (o + 16) 23 0,
    optKind := payFld b (o + 24) 49 48, opt := payFld b (o + 24) 47 0 }

def recReserved (b : CmdBits) (role : Nat) : Bool :=
  let o := 0x10 + 0x20 * role
  payFld b o 63 48 != 0 || payFld b (o + 8) 63 48 != 0 || payFld b (o + 16) 31 29 != 0 || payFld b (o + 24) 63 50 != 0

/-- All 32 bytes of a record are zero but for its format. -/
def recEmpty (r : Rec) (withFmt : Bool) : Bool :=
  r.base == 0 && r.scale == 0 && r.pitch == 0 && r.layout == 0 && r.tensor == 0 && r.optKind == 0 && r.opt == 0 &&
    (withFmt || r.fmt == 0)

def isComplex (fmt : Nat) : Bool := fmt == 13 || fmt == 14

/-! ### Layout (Tables BND-1, BND-2) -/

def parseLevel (w : Nat) : Level :=
  { cStride := signedOf 48 (fld w 255 208), bStride := signedOf 48 (fld w 207 160),
    aStride := signedOf 48 (fld w 159 112), bound := fld w 87 64, lenReg := fld w 23 16, lenMode := fld w 15 14,
    pos := fld w 10 8, var := fld w 2 0 }

def insertLevel (l : Level) : List Level → List Level
  | [] => [l]
  | m :: ms => if l.pos ≤ m.pos then l :: m :: ms else m :: insertLevel l ms

structure RawBond where
  addr : Nat
  hdrW : Nat
  levW : List Nat
  bond : Bond
deriving DecidableEq, Repr

def readBond (s : State) (p addr : Nat) : RawBond :=
  let x := addrOff addr
  let h := s.num p x 32
  let n := Nat.min (fld h 19 16) 6
  let ls := (List.range n).map (fun i => s.num p (x + 32 + 32 * i) 32)
  { addr := addr, hdrW := h, levW := ls,
    bond :=
      { groutB := fld h 191 160, groutA := fld h 159 128, chain := fld h 111 96, kSeg := fld h 95 80,
        nT := fld h 79 64, mT := fld h 63 48, outOvf := fld h 39 38, outRnd := fld h 37 36,
        levels := (ls.map parseLevel).foldr insertLevel [] } }

def bondBytes (s : State) (p addr : Nat) : Nat := 32 + 32 * Nat.min (fld (s.num p (addrOff addr) 32) 19 16) 6

def bondReserved (w : Nat) : Bool := fld w 255 192 != 0 || fld w 127 112 != 0 || fld w 47 40 != 0 || fld w 35 20 != 0
def levelReserved (w : Nat) : Bool :=
  fld w 111 88 != 0 || fld w 63 24 != 0 || fld w 13 11 != 0 || fld w 7 3 != 0

def Bond.level (b : Bond) (v : Nat) : Level := (b.levels.find? (fun l => l.var == v)).getD {}
def Bond.m (b : Bond) : Level := b.level 0
def Bond.n (b : Bond) : Level := b.level 1
def Bond.k (b : Bond) : Level := b.level 2

/-- Iterations of a level (R94). -/
def Bond.count (b : Bond) (l : Level) : Nat :=
  if l.var = 0 then ceilDiv l.bound b.mT else if l.var = 1 then ceilDiv l.bound b.nT
  else if l.var = 2 then ceilDiv l.bound b.kSeg else l.bound

/-! ### A MATMUL as dispatch reads it -/

structure Mat where
  a : Rec
  b : Rec
  c : Rec
  bond : RawBond
  la : Option RawList
  lb : Option RawList
  lc : Option RawList
  engines : Nat
  fracture : Bool
deriving DecidableEq, Repr

def optList (s : State) (p : Nat) (r : Rec) : Option RawList :=
  if r.optKind = 1 then some (readList s p r.opt) else none

/-- The MATMUL of a command, with the bond table at `addr` and the engines of `engines`. -/
def matOf (s : State) (c : Cmd) (addr engines : Nat) : Mat :=
  let a := recOf c.bits 0
  let b := recOf c.bits 1
  let cc := recOf c.bits 2
  { a := a, b := b, c := cc, bond := readBond s c.part addr, la := optList s c.part a, lb := optList s c.part b,
    lc := optList s c.part cc, engines := engines, fracture := payFld c.bits 0 56 56 == 1 }

/-- First entry's fields act for the whole stream (R340). -/
def firstEnt (l : Option HodList) : HodEntry := (l.bind (fun x => x.ents.head?)).getD {}
def Mat.listA (m : Mat) : Option HodList := m.la.map (·.list)
def Mat.listB (m : Mat) : Option HodList := m.lb.map (·.list)
def Mat.listC (m : Mat) : Option HodList := m.lc.map (·.list)

/-- An operand is quantised on the fly, and the format it has in memory (DEDUCED, log 15). -/
def onFly (l : Option HodList) : Bool := (firstEnt l).qfmt != 0
def memFmt (r : Rec) (l : Option HodList) : Nat := if onFly l then (l.map (·.hdr.srcFmt)).getD 0 else r.fmt

/-- Bits of one element of a stream in memory; C's destination words under DIR 2 are binary32 (log 15). -/
def opBits (r : Rec) (l : Option HodList) : Nat := if onFly l then 8 * srcSize (memFmt r l) else bitsPer r.fmt
def cBits (m : Mat) : Nat :=
  if (m.listC.map (·.hdr.dir)) = some 2 then 32 else bitsPer m.c.fmt * (if isComplex m.a.fmt then 2 else 1)

/-! ### Format pairs (R34, Table FMT-4) -/

def isFp8 (f : Nat) : Bool := f == 4 || f == 5 || f == 6 || f == 7

/-- Products per cell per engine cycle of an ordered pair; 0 when the pair is not in the table. -/
def pairG (x y : Nat) : Nat :=
  if isFp8 x && isFp8 y then 2
  else if x = 12 && isFp8 y then 4
  else if x = 8 && (y = 8 || y = 9) then 2
  else if x = 9 && y = 9 then 4
  else if x = 10 && (y = 10 || y = 11) then 2
  else if x = 11 && y = 11 then 4
  else if x = y && (x = 1 || x = 2 || x = 3 || x = 13 || x = 14) then 1
  else if x = 15 && y = 15 then 2
  else 0

/-- Table FMT-4 is unordered. -/
def productsPer (a b : Nat) : Nat := if pairG a b = 0 then pairG b a else pairG a b

/-- Words per output (R75). -/
def wordsPer (m : Mat) : Nat := if isComplex m.a.fmt || m.a.fmt = 15 then 2 else 1

/-! ### Structural checks (R95) -/

/-- Bits of a grout word that a format uses (Table BND-4). -/
def groutMask (fmt : Nat) : Nat :=
  match fmt with
  | 1 => 0xFFFFFFFF
  | 2 | 3 | 13 | 14 | 15 => 0xFFFF
  | 4 | 5 | 10 => 0xFF
  | 6 | 7 => 0xFF00FF
  | 8 => 0xFF003F
  | 9 => 0xFF000F
  | 11 => 0xF
  | 12 => 0xFFFF0003
  | _ => 0

def groutFault (fmt g : Nat) : Bool := g != g &&& groutMask fmt || (fmt == 12 && g % 4 == 2)

/-- Rule 9 for one stride. -/
def strideFault (r : Rec) (l : Option HodList) (v : Int) : Bool :=
  if onFly l then v % srcSize (memFmt r l) != 0
  else v % groupBytes r.fmt != 0 || (hasScales r.fmt && v % scaleRatio r.fmt != 0)

/-- R111: the group of an operand's list admits it in every cluster of the command. -/
def mcastFault (s : State) (c : Cmd) (l : Option HodList) : Bool :=
  let e := firstEnt l
  e.mcEn && (cmdClusters s c.part c.bits).any (fun cl =>
    let w := s.reg (Blk.bnd.page (cl / 12)) (Reg.bndMcast + 8 * (cl % 12) + e.mcGrp)
    !w.testBit 32 || fld w 31 16 != (l.map (·.hdr.mcastTag)).getD 0 ||
      envCores c.bits &&& fld w 7 0 != envCores c.bits)

/-- Rule 8: the levels that repeat C, by |C_STRIDE|. -/
def insertOuter (l : Level) : List Level → List Level
  | [] => [l]
  | m :: ms =>
    if l.cStride.natAbs < m.cStride.natAbs ∨ (l.cStride.natAbs = m.cStride.natAbs ∧ l.pos ≤ m.pos) then l :: m :: ms
    else m :: insertOuter l ms

def outerFault (f0 : Nat) (ls : List Level) : Bool :=
  (ls.foldl (fun (a : Nat × Bool) l =>
    (a.1 + l.cStride.natAbs * (l.bound - 1), a.2 || decide (l.cStride.natAbs < a.1))) (f0, false)).2

def bondFault (s : State) (c : Cmd) (m : Mat) : Bool :=
  let r := m.bond
  let b := r.bond
  let ls := b.levels
  let n := fld r.hdrW 19 16
  let ex := ls.filter (fun l => l.var == 4)
  let cb := cBits m
  r.addr % 32 != 0 || fld r.hdrW 15 0 != 0xB07D || decide (n < 3) || decide (6 < n) ||
  bondReserved r.hdrW || r.levW.any levelReserved || ls.any (fun l => decide (5 < l.var) || l.lenMode == 3) ||
  decide (1 < b.outRnd) || b.outOvf == 3 ||
  (List.range 3).any (fun v => (ls.filter (fun l => l.var == v)).length != 1) || decide (1 < ex.length) ||
  ls.map (·.pos) != List.range n ||
  ls.any (fun l => l.bound == 0) || b.kSeg % 32 != 0 || decide (b.kSeg < 32) || decide (32768 < b.kSeg) ||
  ls.any (fun l => (l.lenMode != 0 && decide (2 < l.var)) ||
    (l.lenMode == 2 && (!ex.any (fun e => decide (l.pos < e.pos)) ||
      ex.any (fun e => decide (255 < l.lenReg + e.bound - 1))))) ||
  (b.mT != 0 && b.nT != 0 &&
    (b.k.cStride != 0 || b.m.cStride != (b.mT * m.c.pitch : Nat) || 8 * b.n.cStride != (b.nT * cb : Nat) ||
      decide (8 * m.c.pitch < ceilDiv b.n.bound b.nT * b.nT * cb) ||
      outerFault (ceilDiv b.m.bound b.mT * b.mT * m.c.pitch)
        ((ls.filter (fun l => decide (2 < l.var))).foldr insertOuter []))) ||
  ls.any (fun l => strideFault m.a m.listA l.aStride || strideFault m.b m.listB l.bStride) ||
  groutFault m.a.fmt b.groutA || groutFault m.b.fmt b.groutB ||
  mcastFault s c m.listA || mcastFault s c m.listB

/-! ### Records and their lists (R338–R340) -/

/-- The stream uses its SCALE field (R339). -/
def usesScale (r : Rec) (isC : Bool) (l : Option HodList) : Bool :=
  (hasScales r.fmt && !onFly l) || isTensor r.fmt || (!isC && r.fmt == 15)

def recFault (m : Mat) (r : Rec) (isC : Bool) (l : Option HodList) : Bool :=
  r.fmt == 0 || (isC && (decide (12 < r.fmt) || r.layout == 1)) || (!isC && r.tensor != 0) || r.optKind == 3 ||
    (r.optKind == 0 && r.opt != 0) || (!usesScale r isC l && r.scale != 0) ||
    (r.optKind == 2 && (isC || r.base != 0 || decide (2 ^ 32 ≤ r.opt))) ||
    (isC && isComplex m.a.fmt && !(r.fmt == 1 || r.fmt == 2 || r.fmt == 3))

/-- R340's bounds on an operand's list. -/
def operandListFault (r : Rec) (l : RawList) : Bool :=
  let h := l.list.hdr
  let q := (firstEnt (some l.list)).qfmt
  h.dir != 0 || (q != 0 && q != r.fmt) ||
    (q == 0 && !(h.srcFmt == 0 || (h.srcFmt == r.fmt && (r.fmt == 1 || r.fmt == 2 || r.fmt == 3))))

/-- R340's bounds on C's list. -/
def resultListFault (m : Mat) (l : RawList) : Bool :=
  let h := l.list.hdr
  let e := firstEnt (some l.list)
  !(h.dir == 1 || h.dir == 2) || (e.qfmt != 0 && e.qfmt != m.c.fmt) ||
    (e.qfmt != 0 && (h.srcFmt != 1 || e.qrnd != m.bond.bond.outRnd || e.qovf != m.bond.bond.outOvf)) ||
    (e.qfmt == 0 && !(h.srcFmt == 0 || h.srcFmt == m.c.fmt)) ||
    (h.dir == 2 && (!(m.c.fmt == 1 || m.c.fmt == 2) || e.qfmt != 0 || h.srcFmt != m.c.fmt))

/-- A handle names a persistent read stream of the partition (R135, R340). -/
def handleFault (s : State) (c : Cmd) (r : Rec) : Bool :=
  r.optKind == 2 && !s.persists.any (fun x => x.handle == r.opt % 2 ^ 32 && x.part == c.part &&
    (cmdClusters s c.part c.bits).contains x.stream.cluster)

/-- Engine bits outside the command's cores. -/
def enginesOutside (c : Cmd) (mask : Nat) : Bool :=
  (bitsOf 32 mask).any (fun e => !(envCores c.bits).testBit (e / 4))

def matMalformed (s : State) (c : Cmd) (m : Mat) : Bool :=
  recFault m m.a false m.listA || recFault m m.b false m.listB || recFault m m.c true m.listC ||
    (m.la.toList ++ m.lb.toList ++ m.lc.toList).any (listFault s c.part false) ||
    m.la.any (operandListFault m.a) || m.lb.any (operandListFault m.b) || m.lc.any (resultListFault m) ||
    handleFault s c m.a || handleFault s c m.b || bondFault s c m ||
    ((m.listC.map (·.hdr.dir)) == some 2 && isOpen (addrOff m.c.base))

/-! ### Tile legality (R97) -/

/-- Quarter bits of an element with its share of the block scales. -/
def quarterBits (fmt : Nat) : Nat :=
  if fmt = 15 then 64 else 4 * bitsPer fmt + (if fmt = 12 then 2 else if isBlock fmt then 1 else 0)

/-- Engine positions of the command: E of R97 and R101. -/
def enginesE (s : State) (c : Cmd) (m : Mat) : Nat :=
  (cmdClusters s c.part c.bits).length * popCount 32 m.engines * (if m.fracture then 4 else 1)

def Bond.belowK (b : Bond) : List Level := b.levels.filter (fun l => decide (l.pos < b.k.pos))
def Bond.aboveK (b : Bond) : List Level := b.levels.filter (fun l => decide (b.k.pos < l.pos))
def Bond.chained (b : Bond) : Bool := b.chain != 0 && decide (b.chain * b.kSeg < b.k.bound)
def Bond.product (b : Bond) (ls : List Level) : Nat := ls.foldl (fun a l => a * b.count l) 1

def tileIllegal (s : State) (c : Cmd) (m : Mat) : Bool :=
  let b := m.bond.bond
  let e := enginesE s c m
  let side := if m.fracture then 16 else 32
  let w := if m.fracture then 16384 else 65536
  let q := if m.fracture then 16 else 4
  let j := b.product b.belowK
  let inputs := b.mT * b.kSeg * quarterBits m.a.fmt + b.kSeg * b.nT * quarterBits m.b.fmt
  let cq := quarterBits m.c.fmt * (if isComplex m.a.fmt then 2 else 1)
  b.mT == 0 || b.nT == 0 || b.mT % side != 0 || b.nT % side != 0 || productsPer m.a.fmt m.b.fmt == 0 ||
    (hasScales m.a.fmt && m.a.layout == 1) || (hasScales m.b.fmt && m.b.layout == 0) ||
    decide (w < ceilDiv j e * b.mT * b.nT * wordsPer m * (if b.chained then 2 else 1)) ||
    decide (2097152 * 32 < 2 * q * inputs) || decide (inputs < b.mT * b.nT * cq) ||
    (m.la.toList ++ m.lb.toList).any (fun l => decide (32 < l.list.hdr.haloDepth))

/-! ### Extents (R249) -/

/-- Lowest and highest byte offset of a level whose last of `n` iterations covers `last` units and others `full`,
each unit taking `step` bytes after the first, which takes `size`. -/
def levelSpan (stride : Int) (n full last step size : Nat) : Int × Int :=
  let ext (u : Nat) : Int := ((u - 1) * step + size : Nat)
  let e0 := ext (if n ≤ 1 then last else full)
  let a := ((n : Int) - 1) * stride + ext last
  let b := ((n : Int) - 2) * stride + ext full
  (loOf (((n : Int) - 1) * stride), max e0 (max a (if 2 ≤ n then b else a)))

/-- Lowest and highest byte offset along a level whose iterations move `full` contiguous bytes, the last one
`last`. -/
def colSpan (stride : Int) (n full last : Nat) : Int × Int :=
  let z : Int := ((n : Int) - 1) * stride
  let w0 : Int := if n ≤ 1 then last else full
  (loOf z, max w0 (max (z + last) (if 2 ≤ n then z - stride + full else z + last)))

/-- Bytes from a stream's base that its accesses span, with the rows along the level `rowVar`. -/
def streamSpan (b : Bond) (strideOf : Level → Int) (rowVar colVar pitch bits : Nat) : Int × Int :=
  let unit (v : Nat) : Nat := if v = 0 then b.mT else if v = 1 then b.nT else b.kSeg
  let part (l : Level) : Int × Int :=
    let n := b.count l
    if l.var = rowVar then levelSpan (strideOf l) n (unit rowVar) (l.bound - (n - 1) * unit rowVar) pitch 0
    else if l.var = colVar then
      colSpan (strideOf l) n (ceilDiv (bits * unit colVar) 8)
        (ceilDiv (bits * (l.bound - (n - 1) * unit colVar)) 8)
    else (loOf (((n : Int) - 1) * strideOf l), hiOf (((n : Int) - 1) * strideOf l))
  b.levels.foldl (fun a l => (a.1 + (part l).1, a.2 + (part l).2)) (0, 0)

def aSpan (m : Mat) : Int × Int :=
  if m.a.layout = 0 then streamSpan m.bond.bond (·.aStride) 0 2 m.a.pitch (opBits m.a m.listA)
  else streamSpan m.bond.bond (·.aStride) 2 0 m.a.pitch (opBits m.a m.listA)
def bSpan (m : Mat) : Int × Int :=
  if m.b.layout = 0 then streamSpan m.bond.bond (·.bStride) 2 1 m.b.pitch (opBits m.b m.listB)
  else streamSpan m.bond.bond (·.bStride) 1 2 m.b.pitch (opBits m.b m.listB)
def cSpan (m : Mat) : Int × Int := streamSpan m.bond.bond (·.cStride) 0 1 m.c.pitch (cBits m)

/-- One stream's accesses stay in the range: its elements, its scales, its hi plane, its factor. -/
def recFenced (s : State) (p : Nat) (r : Rec) (isC : Bool) (l : Option HodList) (sp : Int × Int) : Bool :=
  let spanOut (base : Nat) (q : Int × Int) : Bool := !spanInRange s p ((base : Int) + q.1) ((base : Int) + q.2)
  if r.optKind = 2 then false
  else
    spanOut r.base sp ||
      (hasScales r.fmt && !onFly l && spanOut r.scale (sp.1 / scaleRatio r.fmt, (sp.2 + scaleRatio r.fmt - 1) / scaleRatio r.fmt)) ||
      (!isC && r.fmt == 15 && spanOut r.scale sp) ||
      (isTensor r.fmt && !(l.any (·.hdr.guardEn)) && !inRange s p r.scale 4)

def matFenced (s : State) (p : Nat) (m : Mat) : Bool :=
  recFenced s p m.a false m.listA (aSpan m) || recFenced s p m.b false m.listB (bSpan m) ||
    recFenced s p m.c true m.listC (cSpan m)

/-- Stochastic rounding is selected in some stage (R47). -/
def matStochastic (m : Mat) : Bool :=
  m.bond.bond.outRnd == 1 || (m.la.toList ++ m.lb.toList).any (fun l => onFly (some l.list) && (firstEnt (some l.list)).qrnd == 1)

end Sys2Proof.Machine
end

