-- ==== Sys2Proof/Machine/MatOps.lean ====
section
/-! DEFINITION. The walk of a bond table, the operands' fills, and the arithmetic of a sweep (R35, R55, R70–R83,
R99–R112, R463). -/

namespace Sys2Proof.Machine

/-! ### The MATMUL of a running command -/

def rawOf (l : HodList) : RawList := { addr := 0, hdrW := 0, entW := [], list := l }

/-- List of a role when its record names one. -/
def runList (c : Cmd) (role : Nat) : Option RawList :=
  if (recOf c.bits role).optKind = 1 then ((c.streams.find? (fun st => st.role == role)).map (fun st => rawOf st.list))
  else none

/-- A stage descriptor of a fused command as one 256-bit value (Table HOD-4). -/
def stageW (b : CmdBits) (i : Nat) : Nat := fld b.toNat (512 + 8 * (0x80 + 32 * i) + 255) (512 + 8 * (0x80 + 32 * i))
def isFused (b : CmdBits) : Bool := payFld b 0 57 57 == 1

/-- Engines of the MATMUL work: the command's or the MATMUL stage's (R101). -/
def matEngines (b : CmdBits) : Nat := if isFused b then fld (stageW b 0) 47 16 else payFld b 8 31 0

def matRun (c : Cmd) : Mat :=
  { a := recOf c.bits 0, b := recOf c.bits 1, c := recOf c.bits 2,
    bond := { addr := 0, hdrW := 0, levW := [], bond := c.bond.getD {} },
    la := runList c 0, lb := runList c 1, lc := runList c 2,
    engines := matEngines c.bits, fracture := payFld c.bits 0 56 56 == 1 }

/-- Engine positions in order: (module engine, quadrant) (R101). -/
def enginePos (s : State) (c : Cmd) (m : Mat) : List (Nat × Nat) :=
  (cmdClusters s c.part c.bits).flatMap (fun cl => (bitsOf 32 m.engines).flatMap (fun e =>
    (List.range (if m.fracture then 4 else 1)).map (fun q => (32 * cl + e, q))))

/-! ### Lengths (R100) -/

/-- Length registers that a table can name. -/
def lenRegs (b : Bond) : List Nat :=
  ((b.levels.filter (fun l => l.lenMode != 0)).flatMap (fun l =>
    if l.lenMode = 1 then [l.lenReg] else (List.range (b.level 4).bound).map (l.lenReg + ·))).dedup

def sampleLens (s : State) (p : Nat) (b : Bond) : List (Nat × Nat) :=
  (lenRegs b).map (fun r => (r, s.regFld (Blk.bnd.page (firstDie s p)) (Reg.bndLen + r) 31 0))

/-- Clamps that R100 makes: one for each level and register (R113). -/
def clampCount (b : Bond) (lens : List (Nat × Nat)) : Nat :=
  b.levels.foldl (fun a l =>
    if l.lenMode = 0 then a
    else
      let rs := if l.lenMode = 1 then [l.lenReg] else (List.range (b.level 4).bound).map (l.lenReg + ·)
      a + (rs.filter (fun r => (lens.find? (fun e => e.1 == r)).any (fun e => decide (l.bound < e.2)))).length) 0

/-! ### Tiles (R101) -/

/-- Indices of some levels from one number, POS 0 fastest. -/
def digits (b : Bond) : List Level → Nat → List (Nat × Nat)
  | [], _ => []
  | l :: ls, v => (l.pos, v % b.count l) :: digits b ls (v / b.count l)

def stepsOf (b : Bond) : Nat := b.product b.aboveK * b.count b.k * b.product b.belowK

/-- Tile number and K segment of a walk step. -/
def stepAt (b : Bond) (pos : Nat) : Nat × Nat :=
  let nb := b.product b.belowK
  let nk := b.count b.k
  ((pos / (nb * nk)) * nb + pos % nb, pos / nb % nk)

/-- (POS, index) of every level but K. -/
def tileIdx (b : Bond) (t : Nat) : List (Nat × Nat) :=
  let nb := b.product b.belowK
  digits b b.belowK (t % nb) ++ digits b b.aboveK (t / nb)

def idxOf (ix : List (Nat × Nat)) (l : Level) : Nat := ((ix.find? (fun e => e.1 == l.pos)).map Prod.snd).getD 0

/-- Length of an M, N or K level for a tile: its register clamped to BOUND, or BOUND. -/
def lenFor (b : Bond) (lens : List (Nat × Nat)) (t : Nat) (l : Level) : Nat :=
  if l.lenMode = 0 then l.bound
  else
    let r := if l.lenMode = 1 then l.lenReg else l.lenReg + idxOf (tileIdx b t) (b.level 4)
    Nat.min l.bound (((lens.find? (fun e => e.1 == r)).map Prod.snd).getD 0)

/-- Real rows and columns of a tile; 0 when it lies wholly beyond a length. -/
def rowsOf (b : Bond) (lens : List (Nat × Nat)) (t : Nat) : Nat :=
  Nat.min b.mT (lenFor b lens t b.m - idxOf (tileIdx b t) b.m * b.mT)
def colsOf (b : Bond) (lens : List (Nat × Nat)) (t : Nat) : Nat :=
  Nat.min b.nT (lenFor b lens t b.n - idxOf (tileIdx b t) b.n * b.nT)
/-- Real K indices of a segment, and the number of live segments of a tile. -/
def realK (b : Bond) (lens : List (Nat × Nat)) (t k : Nat) : Nat := Nat.min b.kSeg (lenFor b lens t b.k - k * b.kSeg)
def liveSegs (b : Bond) (lens : List (Nat × Nat)) (t : Nat) : Nat := ceilDiv (lenFor b lens t b.k) b.kSeg
def skipped (b : Bond) (lens : List (Nat × Nat)) (t : Nat) : Bool := rowsOf b lens t == 0 || colsOf b lens t == 0

/-- Padded in some dimension (R113). -/
def padded (b : Bond) (lens : List (Nat × Nat)) (t : Nat) : Bool :=
  decide (rowsOf b lens t < b.mT) || decide (colsOf b lens t < b.nT) ||
    lenFor b lens t b.k != b.count b.k * b.kSeg

/-- Offset of a stream for a tile and segment (R101). -/
def offsetOf (b : Bond) (strideOf : Level → Int) (t k : Nat) : Int :=
  b.levels.foldl (fun a l => a + (if l.var = 2 then (k : Int) else idxOf (tileIdx b t) l) * strideOf l) 0

/-- The segment of a walk step. -/
def segOf (b : Bond) (lens : List (Nat × Nat)) (cmd t k : Nat) : TileSeg :=
  let live := liveSegs b lens t
  let chained := b.chained
  { cmd := cmd, tile := t, kseg := k, zero := live == 0,
    first := if chained then k % b.chain == 0 else k == 0,
    last := k + 1 == live || (chained && (k + 1) % b.chain == 0),
    final := live == 0 || k + 1 == live,
    addChain := chained && decide (b.chain ≤ k) }

/-! ### Operand geometry -/

/-- One operand of a tile segment in memory: address of its row 0, rows, elements per row, bits per element, pitch. -/
structure Face where
  addr : Nat
  rows : Nat
  cols : Nat
  bits : Nat
  pitch : Nat
  r : Rec
  list : Option HodList
deriving DecidableEq, Repr

/-- The A (false) or B (true) operand of a segment. Rows run along the dimension that LAYOUT names. -/
def faceOf (m : Mat) (lens : List (Nat × Nat)) (isB : Bool) (t k : Nat) : Face :=
  let b := m.bond.bond
  let r := if isB then m.b else m.a
  let l := if isB then m.listB else m.listA
  let off := offsetOf b (if isB then (·.bStride) else (·.aStride)) t k
  let mn := if isB then colsOf b lens t else rowsOf b lens t
  let kk := realK b lens t k
  -- K runs within a row for A with LAYOUT 0 and B with LAYOUT 1
  let kInner := if isB then r.layout == 1 else r.layout == 0
  { addr := ((r.base : Int) + off).toNat, rows := if kInner then mn else kk, cols := if kInner then kk else mn,
    bits := opBits r l, pitch := r.pitch, r := r, list := l }

def Face.rowBytes (f : Face) : Nat := ceilDiv (f.bits * f.cols) 8

/-- Byte runs of a fill: rows, then rows of the hi plane or of block scales. -/
def Face.runs (f : Face) : List (Nat × Nat) :=
  let rows := (List.range f.rows).map (fun i => (f.addr + i * f.pitch, f.rowBytes))
  let extra :=
    if f.r.fmt = 15 then rows.map (fun e => (f.r.scale + (e.1 - f.r.base), e.2))
    else if hasScales f.r.fmt && !onFly f.list then
      (List.range f.rows).map (fun i =>
        (f.r.scale + (f.addr + i * f.pitch - f.r.base) / scaleRatio f.r.fmt, scaleBytes f.r.fmt * ceilDiv f.cols 32))
    else []
  (rows ++ extra).filter (fun e => decide (0 < e.2))

/-! ### Reading a landed operand -/

/-- Key of a landed operand byte. -/
def fillKey (fill addr : Nat) : Nat := 2 ^ 48 * fill + addr

/-- Byte of a fill; 0 when it has not landed. -/
def landedByte (st : Stream) (fill addr : Nat) : Nat := SMap.get 0 st.landed (fillKey fill addr) - 1

/-- `n` bits from bit `bit` of the bytes at an address. -/
def landedBits (st : Stream) (fill addr bit n : Nat) : Nat :=
  let a := addr + bit / 8
  let w := (List.range ((bit % 8 + n + 7) / 8)).foldr (fun i acc => landedByte st fill (a + i) + 256 * acc) 0
  fld w (bit % 8 + n - 1) (bit % 8)

/-- A factor that multiplies each product exactly, or an integer sum at the converter (R35, R339). -/
def Cmd.factor (c : Cmd) (i : Nat) : Num := F32.num (c.factors.getD i one32)

/-- Conversion of an on-the-fly operand. -/
def flyQuant (s : State) (c : Cmd) (l : Option HodList) : Quant :=
  match l with
  | some x => entQuant s c.settings x.hdr (firstEnt l)
  | none => {}

/-- Element index of an on-the-fly operand: its place from the stream's base, in source elements (log 15). -/
def flyIndex (f : Face) (row col : Nat) : Nat := (f.addr + row * f.pitch - f.r.base) / (f.bits / 8) + col

/-- Source value of an on-the-fly operand. -/
def flySource (st : Stream) (fill : Nat) (f : Face) (row col : Nat) : Num :=
  (fmtOf (memFmt f.r f.list)).decode (landedBits st fill (f.addr + row * f.pitch) (f.bits * col) f.bits)

/-- The block of an on-the-fly operand that holds a column, quantised. -/
def flyBlock (s : State) (c : Cmd) (st : Stream) (fill : Nat) (f : Face) (row blk : Nat) : QOut :=
  let n := Nat.min 32 (f.cols - 32 * blk)
  (flyQuant s c f.list).list ((List.range n).map (fun i =>
    { val := flySource st fill f row (32 * blk + i), idx := flyIndex f row (32 * blk + i) }))

/-- An element of a segment operand: its value without block scale, and the scale (R32, R107). Index `i` counts rows of
A or columns of B, `k` counts K. `scaffold` pads with zeros whatever the grout (R109). -/
structure OpElem where
  val : Num := .zero
  fl : Flags := 0
  scale : Num := .one
deriving DecidableEq, Repr

/-- An element code and scale from a grout word (Table BND-4). -/
def groutElem (fmt g : Nat) (scaffold : Bool) (part : Nat) : OpElem :=
  let g := if scaffold then (if fmt = 12 then 0x3F800000 else 0x7F0000) else g
  match fmt with
  | 1 => { val := fp32.decode (if scaffold then 0 else g % 2 ^ 32) }
  | 2 | 13 => { val := bf16.decode (g % 2 ^ 16) }
  | 3 | 14 => { val := fp16.decode (g % 2 ^ 16) }
  | 6 | 7 => { val := (fmtOf fmt).decode (g % 256), scale := e8m0 (fld g 23 16) }
  | 8 => { val := fp6.decode (g % 64), scale := e8m0 (fld g 23 16) }
  | 9 => { val := fp4.decode (g % 16), scale := e8m0 (fld g 23 16) }
  | 12 => { val := (elemNum 12 (g % 4)).val, scale := bf16.decode (fld g 31 16) }
  | 15 => { val := if scaffold then .zero else if part = 1 then .ofInt (signedOf 8 (fld g 15 8)) else .ofInt (fld g 7 0) }
  | _ => { val := (elemNum fmt (g % 2 ^ bitsPer fmt)).val }

/-- Element (i, k) of a landed operand. `part` picks REAL or IMAG of a complex element, lo or hi of a double-word
one. -/
def opElem (s : State) (c : Cmd) (st : Stream) (fill : Nat) (f : Face) (kInner scaffold : Bool) (grout part i k : Nat) :
    OpElem :=
  let row := if kInner then i else k
  let col := if kInner then k else i
  let fmt := f.r.fmt
  if row < f.rows && col < f.cols then
    let base := f.addr + row * f.pitch
    if onFly f.list then
      let o := flyBlock s c st fill f row (col / 32)
      let e := elemNum fmt (o.codes.getD (col % 32) 0)
      { val := e.val, fl := e.fl ||| o.fl, scale := if hasScales fmt then scaleNum fmt (o.scales.getD 0 0) else .one }
    else if fmt = 15 then
      if part = 1 then { val := .ofInt (signedOf 8 (landedByte st fill (f.r.scale + (base - f.r.base) + col))) }
      else { val := .ofInt (landedByte st fill (base + col)) }
    else if isComplex fmt then { val := (fmtOf fmt).decode (landedBits st fill base (32 * col + 16 * part) 16) }
    else
      let e := elemNum fmt (landedBits st fill base (f.bits * col) f.bits)
      let sb := scaleBytes fmt
      let sa := f.r.scale + (base - f.r.base) / scaleRatio fmt + sb * (col / 32)
      { val := e.val, fl := e.fl,
        scale := if hasScales fmt then scaleNum fmt (landedBits st fill sa 0 (8 * sb)) else .one }
  else
    -- a padded element in a block that also holds real ones uses the block's real scale
    let g := groutElem fmt grout scaffold part
    if hasScales fmt && !onFly f.list && kInner && row < f.rows && col / 32 * 32 < f.cols then
      let sb := scaleBytes fmt
      let sa := f.r.scale + (f.addr + row * f.pitch - f.r.base) / scaleRatio fmt + sb * (col / 32)
      { g with scale := scaleNum fmt (landedBits st fill sa 0 (8 * sb)) }
    else if onFly f.list && hasScales fmt && row < f.rows && col / 32 * 32 < f.cols then
      { g with scale := scaleNum fmt ((flyBlock s c st fill f row (col / 32)).scales.getD 0 0) }
    else g

/-! ### Products and sweeps (R35, R55, R70–R74, R81–R83, R463) -/

/-- Exact product of two elements with their scales and the factors of FP8 operands. -/
def opProduct (x y : OpElem) (f : Num) : Res Num :=
  let p := Num.mul x.val y.val
  let q := Num.mul p.val x.scale
  let r := Num.mul q.val y.scale
  let t := Num.mul r.val f
  ⟨t.val, p.fl ||| q.fl ||| r.fl ||| t.fl ||| x.fl ||| y.fl⟩

def opNan (x : OpElem) : Bool := x.val.isNan || x.scale.isNan

/-- One floating-point group added to the accumulator. -/
def groupStep (f : Num) (acc : Res F32) (g : List (OpElem × OpElem)) : Res F32 :=
  let r := macStep acc.val (f.isNan || g.any (fun e => opNan e.1 || opNan e.2)) (g.map (fun e => opProduct e.1 e.2 f))
  let extra := orFlags (g.map (fun e => e.1.fl ||| e.2.fl))
  ⟨r.val, acc.fl ||| r.fl ||| extra⟩

/-- Sum over the K indices of a segment, g at a time, in ascending order (R74). -/
def sweepFp (g : Nat) (f : Num) (start : F32) (xs : List (OpElem × OpElem)) : Res F32 :=
  (chunksOf g xs).foldl (groupStep f) ⟨start, .none⟩

def numInt : Num → Int
  | .fin neg m e => Num.toInt neg (m * 2 ^ e.toNat)
  | _ => 0

/-- Integer pairs: exact sums into a 32-bit accumulator that holds its limits (R35). -/
def sweepInt (g : Nat) (start : Int) (xs : List (OpElem × OpElem)) : Res Int :=
  (chunksOf g xs).foldl (fun a c =>
    let r := satInt32 (c.foldl (fun t e => t + numInt e.1.val * numInt e.2.val) a.val)
    ⟨r.val, a.fl ||| r.fl⟩) ⟨start, .none⟩

/-- High and low parts of an FP32 operand: hi truncated to BF16, lo the rest rounded to BF16 (text after R36). -/
def hiPart (n : Num) : Num :=
  match n with
  | .fin neg m e => if m = 0 then n else
      let c := fp32.encodeMag .rne m e / 65536
      .fin neg (bf16.mag c).1 (bf16.mag c).2
  | _ => n
def loPart (n : Num) : Num :=
  match n with
  | .fin _ _ _ => bf16.decode (bf16.convert 0 .rne (Num.add n (hiPart n).neg).val).val
  | _ => .zero

/-- The three passes of an FP32 product: lo × hi, hi × lo, hi × hi, with R463 for infinities and NaNs. -/
def sweepFp32 (start : F32) (xs : List (OpElem × OpElem)) : Res F32 :=
  let special (e : OpElem × OpElem) : Bool := !e.1.val.isFinite || !e.2.val.isFinite
  let pass (pick : OpElem × OpElem → Option (Num × Num)) (a : Res F32) : Res F32 :=
    xs.foldl (fun a e =>
      match pick e with
      | some (x, y) =>
        let r := macStep a.val (x.isNan || y.isNan) [Num.mul x y]
        ⟨r.val, a.fl ||| r.fl⟩
      | none => a) a
  let p1 := pass (fun e => if special e then none else some (loPart e.1.val, hiPart e.2.val)) ⟨start, .none⟩
  let p2 := pass (fun e => if special e then none else some (hiPart e.1.val, loPart e.2.val)) p1
  pass (fun e => if special e then some (e.1.val, e.2.val) else some (hiPart e.1.val, hiPart e.2.val)) p2

/-- A pre-sum of complex parts in the operand format (R82). -/
def preSum (fmt : Nat) (x y : Num) : OpElem :=
  let a := Num.add x y
  let r := (fmtOf fmt).convert 0 .rne a.val
  { val := (fmtOf fmt).decode r.val, fl := a.fl ||| r.fl }

/-- The three complex passes of one output over one segment (Table ARR-6): REAL and IMAG afterwards. -/
def sweepComplex (fmt : Nat) (re im : F32) (xs : List (OpElem × OpElem × OpElem × OpElem)) : Res F32 × Res F32 :=
  -- each entry is Ar, Ai, Br, Bi
  let p1 := sweepFp 1 .one 0 (xs.map (fun e => (preSum fmt e.1.val e.2.1.val, e.2.2.1)))
  let re1 := add32 re p1.val
  let im1 := add32 im p1.val
  let p2 := sweepFp 1 .one im1.val (xs.map (fun e => (e.1, preSum fmt e.2.2.2.val e.2.2.1.val.neg)))
  let p3 := sweepFp 1 .one re1.val
    (xs.map (fun e => ({ e.2.1 with val := e.2.1.val.neg }, preSum fmt e.2.2.1.val e.2.2.2.val)))
  (⟨p3.val, p1.fl ||| re1.fl ||| p3.fl⟩, ⟨p2.val, p1.fl ||| im1.fl ||| p2.fl⟩)

/-- The four double-word passes: lo·lo, hi·lo, lo·hi, hi·hi, shifted and added exactly (R83). -/
def sweepDword (start : Int) (xs : List (OpElem × OpElem × OpElem × OpElem)) : Int :=
  -- each entry is A lo, A hi, B lo, B hi
  xs.foldl (fun t e =>
    let al := numInt e.1.val
    let ah := numInt e.2.1.val
    let bl := numInt e.2.2.1.val
    let bh := numInt e.2.2.2.val
    t + al * bl + 256 * (ah * bl) + 256 * (al * bh) + 65536 * (ah * bh)) start

/-! ### Accumulator memory (R75) -/

/-- Key of a word: command, tile, word set, row and column of the tile. -/
def accKey (cmd tile sel i j : Nat) : Nat := 2 ^ 32 * (4 * (2 ^ 64 * cmd + tile) + sel) + 65536 * i + j

def quadKey (eng q : Nat) : Nat := 4 * eng + q
def quad (s : State) (eng q : Nat) : Quad := SMap.get {} s.quads (quadKey eng q)
def engine (s : State) (eng : Nat) : Engine := SMap.get {} s.engines eng
def State.modQuad (s : State) (eng q : Nat) (f : Quad → Quad) : State :=
  ({ s with quads := SMap.modify {} s.quads (quadKey eng q) f }).stirCore (eng / 4)
def State.modEngine (s : State) (eng : Nat) (f : Engine → Engine) : State :=
  ({ s with engines := SMap.modify {} s.engines eng f }).stirCore (eng / 4)

def word32 (w : Word) : F32 := w.setWidth 32
def intOf32 (w : Word) : Int := (w.setWidth 32 : BitVec 32).toInt

/-- The command's accumulator is an integer. -/
def isIntPair (m : Mat) : Bool := isIntFmt m.a.fmt && isIntFmt m.b.fmt

end Sys2Proof.Machine
end

