-- ==== Sys2Proof/Machine/FusedOps.lean ====
section
/-! DEFINITION. Fused commands: stage descriptors, their checks, ring slices and the blocks that pass through them
(R128–R132, R137, R340), and the end of a command's work. -/

namespace Sys2Proof.Machine

/-! ### Stage descriptors (Table HOD-4) -/

structure Stage where
  kind : Nat := 0
  engines : Nat := 0
  arg0 : Nat := 0
  arg1 : Nat := 0
  act : Nat := 0
  bias : Bool := false
  resid : Bool := false
  qfmt : Nat := 0
  qrnd : Nat := 0
  qovf : Nat := 0
  guard : Nat := 0
  guardEn : Bool := false
  tensor : Nat := 0
deriving DecidableEq, Repr

def parseStage (w : Nat) : Stage :=
  { kind := fld w 3 0, engines := fld w 47 16, arg0 := fld w 127 64, arg1 := fld w 191 128, act := fld w 195 192,
    bias := w.testBit 196, resid := w.testBit 197, qfmt := fld w 201 198, qrnd := fld w 203 202,
    qovf := fld w 205 204, guard := fld w 215 206, guardEn := w.testBit 216, tensor := fld w 240 217 }

def stageReserved (w : Nat) : Bool := fld w 255 241 != 0 || fld w 63 48 != 0 || fld w 15 4 != 0

/-- Stages up to the first of kind 0. -/
def stagesOf (b : CmdBits) : List Stage :=
  ((List.range 4).map (fun i => parseStage (stageW b i))).takeWhile (fun s => s.kind != 0)

def stageKind (b : CmdBits) (k : Nat) : Option Stage := (stagesOf b).find? (fun s => s.kind == k)
def isLoad (b : CmdBits) : Bool := isFused b && ((stagesOf b).head?.map (·.kind)) == some 2
/-- A bond table drives the command: it is not fused, or its stage 0 is MATMUL. -/
def hasWalk (b : CmdBits) : Bool := envClass b == 1 && !isLoad b

/-- Bond table address of a MATMUL or of a MATMUL stage. -/
def bondAddr (b : CmdBits) : Nat := if isFused b then ((stagesOf b).head?.map (·.arg0)).getD 0 else payFld b 0 47 0

/-- Format of the data that the LOAD stage delivers. -/
def loadFmt (l : HodList) : Nat :=
  let e := firstEnt (some l)
  if e.qfmt != 0 then e.qfmt else l.hdr.srcFmt

/-- Pairwise disjoint masks. -/
def disjoint : List Nat → Bool
  | [] => true
  | m :: ms => ms.all (fun n => m &&& n == 0) && disjoint ms

/-- The lists of a fused command: LOAD, residual, STORE. -/
def fusedLists (s : State) (p : Nat) (b : CmdBits) : List (Nat × RawList) :=
  (if isLoad b then [(6, readList s p (((stageKind b 2).map (·.arg0)).getD 0))] else []) ++
    (match stageKind b 3 with
     | some e => if e.resid then [(5, readList s p e.arg1)] else []
     | none => []) ++
    (match stageKind b 5 with
     | some e => if e.arg0 != 0 then [(7, readList s p e.arg0)] else []
     | none => [])

/-- R129, R137, R340 for the stages themselves. -/
def stageFault (s : State) (c : Cmd) : Bool :=
  let b := c.bits
  let st := stagesOf b
  let n := st.length
  let ls := fusedLists s c.part b
  let kinds := st.map (·.kind)
  let reach : Nat :=
    match stageKind b 4 with
    | some q => q.qfmt
    | none =>
      if isLoad b && !kinds.contains 3 then
        ((ls.find? (fun e => e.1 == 6)).map (fun e => loadFmt e.2.list)).getD 0
      else 1
  payFld b 0 47 0 != 0 || payFld b 8 31 0 != 0 || decide (n < 2) ||
  (List.range 4).any (fun i => decide (n ≤ i) && stageW b i != 0) ||
  (List.range n).any (fun i => stageReserved (stageW b i)) ||
  kinds.any (fun k => decide (5 < k)) || !(kinds.head? == some 1 || kinds.head? == some 2) ||
  kinds.getLast? != some 5 || kinds.count 5 != 1 || decide (1 < kinds.count 3) || decide (1 < kinds.count 4) ||
  decide (1 < kinds.count 1 + kinds.count 2) || (kinds.idxOf 4 < kinds.idxOf 3 && kinds.contains 3 && kinds.contains 4) ||
  !disjoint (st.map (·.engines)) ||
  st.any (fun e => if e.kind == 2 || e.kind == 5 then e.engines != 0 else e.engines == 0) ||
  st.any (fun e => enginesOutside c e.engines) ||
  st.any (fun e => e.kind == 5 && e.arg0 == 0 && isLoad b) ||
  (reach != (recOf b 2).fmt && !(reach == 0 && isLoad b)) ||
  st.any (fun e => e.kind == 3 && (decide (3 < e.act) || (e.resid != (e.arg1 != 0)))) ||
  st.any (fun e => e.kind == 4 && (decide (e.qfmt < 2) || decide (12 < e.qfmt) || decide (1 < e.qrnd) || e.qovf == 3 ||
    (e.guardEn && (!(e.qfmt == 4 || e.qfmt == 5 || e.qfmt == 10) || guardFmt (guard s c.part e.guard) != e.qfmt)))) ||
  ls.any (fun e => listFault s c.part false e.2) ||
  ls.any (fun e =>
    if e.1 = 7 then e.2.list.hdr.dir == 0
    else e.2.list.hdr.dir != 0 ||
      (e.1 == 5 && (!(e.2.list.hdr.srcFmt == 1 || e.2.list.hdr.srcFmt == 2) || e.2.list.quantises))) ||
  (isLoad b && (!recEmpty (recOf b 0) false || !recEmpty (recOf b 1) false || !recEmpty (recOf b 2) true)) ||
  (recOf b 0).optKind == 2 || (recOf b 1).optKind == 2

/-! ### Slices (R128, R130) -/

/-- Free slices of a cluster, lowest first. -/
def freeSlices (s : State) (cl : Nat) : List Nat :=
  (List.range 8).filter (fun i =>
    !(s.cmds.any (fun c => c.status.isNone && c.slices.any (fun x => x.cluster == cl && x.index == i))))

def sliceAt (c : Cmd) (cl stage : Nat) : Slice :=
  (c.slices.find? (fun x => x.cluster == cl && x.stage == stage)).getD {}

def State.modSlice (s : State) (id cl stage : Nat) (f : Slice → Slice) : State :=
  s.modCmd id (fun c =>
    { c with slices := c.slices.map (fun x => if x.cluster = cl && x.stage = stage then f x else x) })

/-- A block passes into a slice: progress in its cluster (R139). -/
def State.pushBlock (s : State) (id cl stage : Nat) (b : SliceBlock) : State :=
  (s.modSlice id cl stage (fun x => { x with blocks := x.blocks ++ [b] })).progress cl

def sliceFree (c : Cmd) (cl stage : Nat) : Bool := decide ((sliceAt c cl stage).blocks.length < 64)

/-- Index of a stream by role and cluster. -/
def streamIdx (c : Cmd) (role cl : Nat) : Nat :=
  c.streams.findIdx (fun st => st.role == role && (st.cluster == cl))

/-- Element runs of a residual that a block needs: (element index, count) per written row (R131, log 16). -/
def residRuns (l : HodList) (b : SliceBlock) : List (Nat × Nat) :=
  (b.index.take b.rows).map (fun i => (i * srcSize l.hdr.srcFmt, b.cols * srcSize l.hdr.srcFmt))

/-- Ask for the residual of a block that has reached the EPILOGUE's slice. -/
def State.askResid (s : State) (id cl : Nat) (b : SliceBlock) : State :=
  match s.cmd? id with
  | some c =>
    let k := streamIdx c 5 cl
    match c.streams[k]? with
    | some st =>
      let runs : List Run := (residRuns st.list b).flatMap (fun e =>
        -- the bytes of a row may span several runs of the list
        (cutsOf 4 e.1 e.2).filterMap (fun w =>
          (locateRun (fun e => e.len) st.list.ents 0 w.1).map (fun r =>
            ({ addr := (r.2.2.1 + r.2.2.2).toNat, len := w.2, pos := w.1 } : Run))))
      s.modStream id k (fun u => { u with todo := u.todo ++ runs })
    | none => s
  | none => s

/-- A block enters the slice after stage `stage`; an EPILOGUE there asks for its residual. -/
def State.enterSlice (s : State) (id cl stage : Nat) (b : SliceBlock) : State :=
  let t := s.pushBlock id cl stage b
  match s.cmd? id with
  | some c =>
    match (stagesOf c.bits)[stage + 1]? with
    | some e => if e.kind = 3 && e.resid then t.askResid id cl b else t
    | none => t
  | none => t

/-! ### The LOAD stage (R128, R130) -/

/-- LOAD's data pass on as binary32 when an EPILOGUE or QUANT takes them, and as they are when STORE does. -/
def loadWide (b : CmdBits) : Bool := ((stagesOf b)[1]?).any (fun e => e.kind != 5)

/-- Blocks of the next words of a LOAD: 32 rows of 32 elements, or what is left at its end. -/
def loadBlock (bits : CmdBits) (bs : List Byte) (idx : Nat) : SliceBlock × Nat :=
  if loadWide bits then
    let n := bs.length / 4
    let rows := if n < 32 then 1 else Nat.min 32 (n / 32)
    let cols := Nat.min 32 n
    ({ rows := rows, cols := cols, index := (List.range rows).map (fun i => idx + 32 * i),
       words := (List.range 1024).map (fun k =>
         if k < rows * cols then BitVec.ofNat 32 (leNat ((bs.drop (4 * k)).take 4)) else 0) }, 4 * rows * cols)
  else ({ rows := 1, cols := 0, bytes := [bs.take 4096] }, Nat.min 4096 bs.length)

/-- Form blocks from the landed data of a LOAD while its slice has room. -/
def State.loadBlocks (s : State) (id cl : Nat) : Nat → State
  | 0 => s
  | n + 1 =>
    match s.cmd? id with
    | none => s
    | some c =>
      let k := streamIdx c 6 cl
      match c.streams[k]? with
      | none => s
      | some st =>
        let ended := st.used == st.list.total
        if st.inbox.isEmpty || !sliceFree c cl 0 || (st.inbox.length < 4096 && !ended) then s
        else
          let b := loadBlock c.bits st.inbox st.taken
          let t := s.modStream id k (fun u =>
            { u with inbox := u.inbox.drop (Nat.max 1 b.2), taken := u.taken + b.2 / 4 })
          (t.enterSlice id cl 0 b.1).loadBlocks id cl n

/-! ### Passes and the end of a command's streams (R62) -/

/-- Guard slots without history that the operands, and the output, of a MATMUL quantise through. -/
def operandSlots (s : State) (c : Cmd) : List Nat :=
  ((c.streams.filter (fun st => st.role == 0 || st.role == 1 || st.role == 3 || st.role == 6)).flatMap
    (fun st => newSlots s c.part st.list)).dedup

def outputSlots (s : State) (c : Cmd) : List Nat :=
  let viaList := (c.streams.filter (fun st => st.role == 2 || st.role == 4)).flatMap (fun st => newSlots s c.part st.list)
  let viaQuant :=
    match if envClass c.bits = 1 && isFused c.bits then stageKind c.bits 4 else none with
    | some q => if q.guardEn && (guard s c.part q.guard).count == 0 then [q.guard] else []
    | none => []
  (viaList ++ viaQuant).dedup

/-- First pass that a command needs. -/
def firstPass (s : State) (c : Cmd) : Nat :=
  if !(operandSlots s c).isEmpty then 2 else if !(outputSlots s c).isEmpty then 1 else 0

/-- Guard slots that a command names. -/
def namedSlots (c : Cmd) : List Nat :=
  ((c.streams.filter (fun st => st.list.hdr.guardEn && st.list.quantises)).map (fun st => st.list.hdr.guard) ++
    (match if envClass c.bits = 1 && isFused c.bits then stageKind c.bits 4 else none with
     | some q => if q.guardEn then [q.guard] else []
     | none => [])).dedup

/-- Streams and walk at their start, for the next pass. -/
def Cmd.rewind (c : Cmd) (pass : Nat) : Cmd :=
  { c with
    pass := pass
    amax := []
    walk := {}
    streams := c.streams.map (fun st => { st with todo := [], issued := 0, landed := [], used := 0, taken := 0, inbox := [],
                                                  outQ := [], mcast := [] }) }

/-- Nothing of the command is left in engines, slices, streams or requests. -/
def workDone (s : State) (c : Cmd) : Bool :=
  (!hasWalk c.bits || c.walk.done) && !(s.reqs.any (fun r => r.cmd == c.id)) &&
    s.quads.all (fun e => !(e.2.queue.any (fun t => t.cmd == c.id)) && !(e.2.drains.any (fun t => t.cmd == c.id)) &&
      !(e.2.convs.any (fun t => t.cmd == c.id))) &&
    c.slices.all (fun x => x.blocks.isEmpty) &&
    c.streams.all (fun st => st.todo.isEmpty && st.outQ.isEmpty &&
      (st.handle.isSome || !(st.role == 3 || st.role == 6) ||
        (st.issued == st.list.total && st.used == st.list.total && st.inbox.isEmpty)))

/-- Settle the pass that has ended, or finish the command. -/
def State.checkEnd (s : State) (id : Nat) : State :=
  match s.cmd? id with
  | some c =>
    if !c.admitted || c.status.isSome || !(envClass c.bits == 1 || envClass c.bits == 2) || !workDone s c then s
    else if c.pass = 0 then s.finishCmd id
    else
      let slots := if c.pass = 2 then operandSlots s c else outputSlots s c
      let t := s.settleScales c.part c.amax slots
      let pass := if c.pass = 2 && !(outputSlots s c).isEmpty then 1 else 0
      let u := t.modCmd id (fun c => { c.rewind pass with
        scales := slots.foldl (fun m g => SMap.set 0 m g (guard t c.part g).scale) c.scales })
      { u with quads := SMap.mapVals {} (fun q => { q with acc := SMap.dropKeys (fun k => k / 2 ^ 98 == id) q.acc }) u.quads }
  | none => s

end Sys2Proof.Machine
end

