-- ==== Sys2Proof/Machine/Engines.lean ====
section
/-! DEFINITION. MATMUL and fused commands at dispatch, the tile walk, engines, drains, conversion, and the stages of
fused commands (R69–R92, R99–R112, R128–R132). -/

namespace Sys2Proof.Machine

/-! ### Dispatch (R95–R100, R126) -/

/-- Payload words that must be zero (Table HST-4). -/
def matPayloadFault (b : CmdBits) : Bool :=
  payFld b 0 63 58 != 0 || payFld b 0 55 48 != 0 || payFld b 8 63 32 != 0 || recReserved b 0 || recReserved b 1 ||
    recReserved b 2 || payFld b 0x70 63 0 != 0 || payFld b 0x78 63 0 != 0 || !payZeroFrom b 0x100 ||
    (!isFused b && (b.toNat >>> (512 + 8 * 0x80) != 0))

/-- Addresses of the tables that a MATMUL reads at dispatch, with the bytes they take. -/
def matTables (s : State) (c : Cmd) : List (Nat × (State → Nat)) :=
  let p := c.part
  let b := c.bits
  (if hasWalk b then [(bondAddr b, fun s => bondBytes s p (bondAddr b))] else []) ++
    ([0, 1, 2].filter (fun r => (recOf b r).optKind == 1)).map
      (fun r => ((recOf b r).opt, fun s => listBytes s p (recOf b r).opt)) ++
    (if isFused b then (fusedLists s p b).map (fun e => (e.2.addr, fun s => listBytes s p e.2.addr)) else []) ++
    ([0, 1, 2].filter (fun r => isTensor (recOf b r).fmt)).map (fun r => ((recOf b r).scale, fun _ => 4))

def matNeed (s : State) (c : Cmd) : List Nat :=
  if matPayloadFault c.bits then []
  else
    (((matTables s c).filter (fun e => inRange s c.part e.1 32 || inRange s c.part e.1 4)).flatMap
      (fun e => tableMissing s c.part e.1 e.2)).dedup

def matCheck (s : State) (c : Cmd) : Option Nat :=
  let b := c.bits
  let p := c.part
  let engines := matEngines b
  let m := matOf s c (bondAddr b) engines
  let walks := hasWalk b
  let fl := if isFused b then fusedLists s p b else []
  if matPayloadFault b then some St.malformed
  else if (matTables s c).any (fun e => !inRange s p e.1 (e.2 s)) then some St.fence
  else
    firstOf [
      ((matTables s c).any (fun e => poisonedRange s p (addrOff e.1) (e.2 s)), St.dataPoisoned),
      (isFused b && stageFault s c, St.malformed),
      (!isFused b && (engines == 0 || enginesOutside c engines), St.malformed),
      (walks && matMalformed s c m, St.malformed),
      (c.det && decide (1 < (m.lc.toList ++ fl.map (·.2)).countP (fun l => l.list.hdr.dir == 2)), St.malformed),
      (walks && tileIllegal s c m, St.tileIllegal),
      (walks && matFenced s p m, St.fence),
      (fl.any (fun e => listFenced s p e.2.list), St.fence),
      ((stagesOf b).any (fun e => isFused b && e.kind == 3 && e.bias &&
        !inRange s p e.arg0 (4 * (if walks then m.bond.bond.n.bound else 32))), St.fence),
      (c.seed.isNone && ((walks && matStochastic m) ||
        (isFused b && (stagesOf b).any (fun e => e.kind == 4 && e.qrnd == 1)) ||
        fl.any (fun e => e.2.list.stochastic)), St.seedUnset)]

/-- The stream of a record, or the default one of R340. -/
def recStream (role : Nat) (r : Rec) (l : Option RawList) : Stream :=
  match l with
  | some x => { role := role, list := x.list }
  | none =>
    { role := role,
      list := { hdr := { floor := if r.optKind = 2 then 0 else 64, poolMax := if r.optKind = 2 then 0 else 1016,
                         dir := if role = 2 then 1 else 0 } },
      handle := if r.optKind = 2 then some (r.opt % 2 ^ 32) else none }

/-- FP32 factors of per-tensor operands and result (R339); a slot's SCALE stands instead for a guarded one, and its
inverse for a guarded operand (R61, log 15). -/
def matFactors (s : State) (p : Nat) (m : Mat) : List (BitVec 32) :=
  [(m.a, m.listA), (m.b, m.listB), (m.c, m.listC)].map (fun e =>
    if isTensor e.1.fmt && !(e.2.any (·.hdr.guardEn)) then BitVec.ofNat 32 (s.num p (addrOff e.1.scale) 4) else one32)

def lowDie (s : State) (c : Cmd) : Nat := cmdHome s c / 12

def matStart (s : State) (c : Cmd) : State :=
  let b := c.bits
  let p := c.part
  let m := matOf s c (bondAddr b) (matEngines b)
  let walks := hasWalk b
  let fl := if isFused b then fusedLists s p b else []
  let storeByList := fl.any (fun e => e.1 == 7)
  let streams :=
    (if walks then [recStream 0 m.a m.la, recStream 1 m.b m.lb] ++
        (if storeByList then [] else [recStream 2 m.c m.lc]) else []) ++
      fl.map (fun e => ({ role := e.1, list := e.2.list } : Stream))
  let lens := if walks then sampleLens s p m.bond.bond else []
  let c1 : Cmd := { c with
    streams := streams
    bond := if walks then some m.bond.bond else none
    lens := lens
    lenDigest := crc64 (lens.flatMap (fun e => leBytes 4 e.2))
    factors := if walks then matFactors s p m else []
    wait := .admission }
  let c2 := { c1 with scales := sampleScales s p (namedSlots c1), pass := firstPass s c1 }
  let t := s.modCmd c.id (fun _ => c2)
  let n := if walks then clampCount m.bond.bond lens else 0
  if n = 0 then t
  else
    let pg := Blk.bnd.page (lowDie s c)
    (t.bump pg Reg.bndPad 63 32 n).raise_ pg 0 (tagDet c)

/-- MATMUL (R93–R100, R338–R340): checked, sampled, and waiting for admission. -/
def execMatmul (ring : Nat) (s : State) : Answer := .next (dispatchRowT false 1 0 ring matNeed matCheck matStart s)

/-- A fused MATMUL (R128–R137). -/
def execFusedCommand (ring : Nat) (s : State) : Answer := .next (dispatchRowT false 1 1 ring matNeed matCheck matStart s)

/-! ### The ramp (R85–R89) -/

/-- A tile enters an engine's queue: an idle engine ramps up, one that is ramping down turns. -/
def State.wakeEngine (s : State) (eng : Nat) (fractured : Bool) : State :=
  s.modEngine eng (fun e =>
    let e := { e with fractured := fractured }
    match e.ramp with
    | .idle => { e with ramp := .up 8, ups := satAdd 32 e.ups 1 }
    | .down => { e with ramp := .up 8, ups := satAdd 32 e.ups 1 }
    | _ => e)

/-- The head segment of each queue of an active engine is in progress. -/
def State.startHeads (s : State) (eng : Nat) : State :=
  if (engine s eng).ramp = .active then
    (List.range 4).foldl (fun t q => t.modQuad eng q (fun u =>
      { u with queue := match u.queue with
        | x :: xs => { x with started := true } :: xs
        | [] => [] })) s
  else s

/-! ### TILE_EMIT (R101, R102, R110, R112) -/

/-- From a walk position on: tiles newly found to lie beyond a length, and the next step that emits. -/
def nextStep (b : Bond) (lens : List (Nat × Nat)) : Nat → Nat → Nat → Nat × Nat × Option (Nat × Nat)
  | 0, pos, sk => (pos, sk, none)
  | n + 1, pos, sk =>
    let (t, k) := stepAt b pos
    if skipped b lens t then nextStep b lens n (pos + 1) (if k = 0 then sk + 1 else sk)
    else if k * b.kSeg < lenFor b lens t b.k || k = 0 then (pos, sk, some (t, k))
    else nextStep b lens n (pos + 1) sk

/-- The core's running context is the ring's (R147). -/
def coreRuns (s : State) (ring core : Nat) : Bool :=
  match (coreCtx s core).running with
  | some n => (ctx s n).ring == some ring
  | none => false

/-- Fills of a stream whose segments are still queued, on the engines of one core. -/
def liveFills (s : State) (cmd : Nat) (isB : Bool) (core : Nat) : List Nat :=
  ((List.range 16).flatMap (fun i => (quad s (4 * core + i / 4) (i % 4)).queue)).filterMap (fun g =>
    if g.cmd = cmd && !g.zero then some (if isB then g.fillB else g.fillA) else none)

/-- Edge pieces of a fill, as byte runs: its first and last `depth` rows or columns (R97, R110). -/
def haloEdges (f : Face) (axis depth : Nat) (rowsAreRows : Bool) : List (List (Nat × Nat)) :=
  let idx (n : Nat) : List Nat := ((List.range (Nat.min depth n)) ++ (List.range (Nat.min depth n)).map (n - 1 - ·)).dedup
  if (axis = 0) = rowsAreRows then (idx f.rows).map (fun i => [(f.addr + i * f.pitch, f.rowBytes)])
  else
    (idx f.cols).map (fun j => (List.range f.rows).map (fun i =>
      (f.addr + i * f.pitch + f.bits * j / 8, ceilDiv f.bits 8)))

def holdsBytes (st : Stream) (fill : Nat) (bs : List (Nat × Nat)) : Bool :=
  bs.all (fun r => (List.range r.2).all (fun i => SMap.get 0 st.landed (fillKey fill (r.1 + i)) != 0))

/-- Ask for one operand of a segment: the state, and the fill that will hold it. -/
def State.fillOperand (s : State) (id cl core : Nat) (isB : Bool) (t k : Nat) : State × Nat :=
  match s.cmd? id with
  | none => (s, 0)
  | some c =>
    let m := matRun c
    let f := faceOf m c.lens isB t k
    let i := streamIdx c (if isB then 1 else 0) cl
    match c.streams[i]? with
    | none => (s, 0)
    | some st =>
      let e := firstEnt (some st.list)
      let bnd := Blk.bnd.page (cl / 12)
      let fill := c.walk.fills
      let bump (u : State) : State := u.modCmd id (fun c => { c with walk := { c.walk with fills := fill + 1 } })
      let live := ((List.range 8).flatMap (fun kk => liveFills s id isB (8 * cl + kk)))
      -- an undelivered multicast of the same tile serves this core too (R112)
      match if e.mcEn then st.mcast.find? (fun x => x.1 == f.addr && live.contains x.2) else none with
      | some x => (s.bump bnd Reg.bndMcastCnt 31 0 1, x.2)
      | none =>
        let s1 :=
          if e.mcEn then
            let again := st.mcast.any (fun x => x.1 == f.addr)
            (s.bump bnd Reg.bndMcastCnt 31 0 1).bump bnd Reg.bndMcastCnt 63 32 (if again then 1 else 0)
          else s
        -- halo edges that a neighbour core holds now (R110)
        let edges := if e.haloUp || e.haloDn then haloEdges f st.list.hdr.haloAxis st.list.hdr.haloDepth
          (if isB then f.r.layout == 1 else f.r.layout == 0) else []
        let near := (if e.haloUp then liveFills s id isB (8 * cl + (core + 1) % 8) else []) ++
          (if e.haloDn then liveFills s id isB (8 * cl + (core + 7) % 8) else [])
        let source (bs : List (Nat × Nat)) : Option Nat := near.find? (fun g => holdsBytes st g bs)
        let taken := edges.filterMap (fun bs => (source bs).map (fun g => (bs, g)))
        let s2 := (s1.bump bnd Reg.bndHalo 31 0 taken.length).bump bnd Reg.bndHalo 63 32 (edges.length - taken.length)
        let copied : SMap Nat := taken.foldl (fun mp x => x.1.foldl (fun mp r =>
          (List.range r.2).foldl (fun mp j =>
            SMap.set 0 mp (fillKey fill (r.1 + j)) (SMap.get 0 st.landed (fillKey x.2 (r.1 + j)))) mp) mp) st.landed
        let unit := Nat.max 1 (f.bits / 8)
        let runs : List Run :=
          if taken.isEmpty then f.runs.map (fun r => { addr := r.1, len := r.2, ent := fill })
          else
            f.runs.flatMap (fun r => ((cutsOf unit r.1 r.2).filter (fun w =>
              SMap.get 0 copied (fillKey fill w.1) == 0)).map (fun w => ({ addr := w.1, len := w.2, ent := fill } : Run)))
        (bump (s2.modStream id i (fun u =>
          { u with
            todo := u.todo ++ runs
            landed := copied
            mcast := if e.mcEn then u.mcast ++ [(f.addr, fill)] else u.mcast })), fill)

/-- Move the walk past a step; at its end the walk is done. -/
def State.walkTo (s : State) (id pos : Nat) : State :=
  s.modCmd id (fun c =>
    { c with walk := { c.walk with pos := pos, done := decide (stepsOf (c.bond.getD {}) ≤ pos) } })

/-- TILE_EMIT (R101): the next segment or zero tile of a command's walk enters its engine's queue. -/
def execTileEmit (cmd : Nat) (s : State) : Answer :=
  match s.cmd? cmd with
  | none => .next s
  | some c =>
    if !(hasWalk c.bits && c.admitted && c.status.isNone && !c.walk.done) then .next s
    else
      let m := matRun c
      let b := m.bond.bond
      let die := lowDie s c
      let counted (u : State) (n : Nat) : State :=
        if c.pass = 0 then u.bump (Blk.bnd.page die) Reg.bndTiles 63 32 n else u
      match nextStep b c.lens (stepsOf b - c.walk.pos) c.walk.pos 0 with
      | (pos, sk, none) => .next (((counted s sk).walkTo cmd pos).checkEnd cmd)
      | (pos, sk, some (t, k)) =>
        let places := enginePos s c m
        let known : Option Nat := SMap.get none c.walk.engines t
        let place := known.getD (c.walk.ordinal % places.length)
        match places[place]? with
        | none => .next s
        | some (eng, q) =>
          let cl := eng / 32
          let core := eng / 4 % 8
          if c.pass = 2 then
            -- only the operands whose amax is to be found are read (R62)
            if c.streams.any (fun st => !st.todo.isEmpty) then .next s
            else
              let want := operandSlots s c
              let u := [false, true].foldl (fun u isB =>
                let l := if isB then m.listB else m.listA
                if l.any (fun x => want.contains x.hdr.guard && x.hdr.guardEn) && liveSegs b c.lens t != 0 then
                  (u.fillOperand cmd cl core isB t k).1 else u) s
              .next ((u.walkTo cmd (pos + 1)).checkEnd cmd)
          else if 2 ≤ (quad s eng q).queue.length || !coreRuns s c.ring (eng / 4) then .next s
          else
            let seg0 := segOf b c.lens cmd t k
            let s0 := counted s sk
            let s1 := s0.walkTo cmd (pos + 1)
            let s2 :=
              if known.isSome then s1
              else
                let pg := Blk.bnd.page (eng / 32 / 12)
                let v := s1.modCmd cmd (fun c =>
                  { c with walk := { c.walk with
                    ordinal := c.walk.ordinal + 1, engines := SMap.set none c.walk.engines t (some place) } })
                if c.pass = 0 then
                  (v.bump pg Reg.bndTiles 31 0 1).bump pg Reg.bndPad 31 0 (if padded b c.lens t then 1 else 0)
                else v
            let fa := if seg0.zero then (s2, 0) else s2.fillOperand cmd cl core false t k
            let fb := if seg0.zero then (fa.1, 0) else fa.1.fillOperand cmd cl core true t k
            let seg := { seg0 with fillA := fa.2, fillB := fb.2 }
            let s3 := fb.1.modQuad eng q (fun u => { u with queue := u.queue ++ [seg] })
            .next ((s3.wakeEngine eng m.fracture).startHeads eng)

/-! ### TILE_STEAL (R103) -/

/-- Tiles of a command that an engine position holds. -/
def tilesAt (c : Cmd) (place : Nat) : Nat := (c.walk.engines.filter (fun e => e.2 == some place)).length

/-- TILE_STEAL (R103): an idle engine takes a tile that another engine of its core has not started. -/
def execTileSteal (src dst : Nat) (s : State) : Answer :=
  let idle := (List.range 4).all (fun q => (quad s dst q).queue.isEmpty)
  let found := (List.range 4).findSome? (fun q =>
    ((quad s src q).queue.find? (fun g => !g.started && g.kseg == 0)).map (fun g => (q, g)))
  match found with
  | none => .next s
  | some (q, g) =>
    match s.cmd? g.cmd with
    | none => .next s
    | some c =>
      let m := matRun c
      let b := m.bond.bond
      match (enginePos s c m).findIdx? (fun e => e == (dst, q)) with
      | none => .next s
      | some place =>
        let fits := decide ((tilesAt c place + 1) * b.mT * b.nT * wordsPer m * (if b.chained then 2 else 1) ≤
          (if m.fracture then 16384 else 65536))
        if c.det || src / 4 != dst / 4 || src == dst || !idle || !fits then .next s
        else
          let mine (x : TileSeg) : Bool := x.cmd == g.cmd && x.tile == g.tile
          let segs := (quad s src q).queue.filter mine
          let s1 := s.modQuad src q (fun u => { u with queue := u.queue.filter (fun x => !mine x) })
          let s2 := s1.modQuad dst q (fun u => { u with queue := u.queue ++ segs })
          let s3 := s2.modCmd g.cmd (fun c =>
            { c with walk := { c.walk with engines := SMap.set none c.walk.engines g.tile (some place) } })
          let pg := Blk.bnd.page (dst / 32 / 12)
          .next (((s3.bump pg Reg.bndSteal 63 0 1).wakeEngine dst m.fracture).startHeads dst)

/-- RAMP_UP_END (R85): the 64-cycle ramp ends and the first group is injected. -/
def execRampUpEnd (eng : Nat) (s : State) : Answer :=
  match (engine s eng).ramp with
  | .up _ => .next ((s.modEngine eng (fun e => { e with ramp := .active })).startHeads eng)
  | _ => .next s

/-- RAMP_DOWN_END (R86): the engine is idle. -/
def execRampDownEnd (eng : Nat) (s : State) : Answer :=
  if (engine s eng).ramp = .down then
    .next (s.modEngine eng (fun e => { e with ramp := .idle, downs := satAdd 32 e.downs 1, fractured := false }))
  else .next s

/-! ### SWEEP_END (R70–R74, R81–R84) -/

def side (m : Mat) : Nat := if m.fracture then 16 else 32

/-- Scaffold mode of a partition (R109). -/
def inScaffold (s : State) (p : Nat) : Bool := s.startup.part.getD p 1 == 1

/-- The operands of output (i, j) of a tile over one segment, by K index. -/
def operandPairs (s : State) (c : Cmd) (m : Mat) (g : TileSeg) (cl part partB i j : Nat) : List (OpElem × OpElem) :=
  let b := m.bond.bond
  let fa := faceOf m c.lens false g.tile g.kseg
  let fb := faceOf m c.lens true g.tile g.kseg
  let sa := (c.streams[streamIdx c 0 cl]?).getD {}
  let sb := (c.streams[streamIdx c 1 cl]?).getD {}
  let sc := inScaffold s c.part
  (List.range b.kSeg).map (fun k =>
    (opElem s c sa g.fillA fa (m.a.layout == 0) sc b.groutA part i k,
     opElem s c sb g.fillB fb (m.b.layout == 1) sc b.groutB partB j k))

/-- The factor of floating-point products: FP8 per-tensor factors, and the inverse scale of a guarded operand. -/
def opFactor (s : State) (c : Cmd) (i : Nat) (r : Rec) (l : Option HodList) : Num :=
  match l with
  | some x =>
    if onFly l && x.hdr.guardEn then (Num.div .one (slotScale s c.part c.scales x.hdr.guard).num).val
    else if isTensor r.fmt then c.factor i else .one
  | none => if isTensor r.fmt then c.factor i else .one

def matFactor (s : State) (c : Cmd) (m : Mat) : Num :=
  (Num.mul (opFactor s c 0 m.a m.listA) (opFactor s c 1 m.b m.listB)).val

/-- Values of output (i, j) at the end of a sweep, by word set, from the words in `acc`. -/
def sweepCell (s : State) (c : Cmd) (m : Mat) (g : TileSeg) (cl : Nat) (acc : SMap Word) (i j : Nat) : List (Res Word) :=
  let base := if m.bond.bond.chained then 2 else 0
  let old (sel : Nat) : Word := if g.first then 0 else SMap.get 0 acc (accKey g.cmd g.tile (base + sel) i j)
  let n := productsPer m.a.fmt m.b.fmt
  let w32 (r : Res F32) : Res Word := ⟨r.val.setWidth 64, r.fl⟩
  let four := (operandPairs s c m g cl 0 0 i j).zip (operandPairs s c m g cl 1 1 i j)
  if isComplex m.a.fmt then
    let r := sweepComplex m.a.fmt (word32 (old 0)) (word32 (old 1))
      (four.map (fun e => (e.1.1, e.2.1, e.1.2, e.2.2)))
    [w32 r.1, w32 r.2]
  else if m.a.fmt = 15 then
    [⟨BitVec.ofInt 64 (sweepDword (old 0).toInt (four.map (fun e => (e.1.1, e.2.1, e.1.2, e.2.2)))), .none⟩]
  else if isIntPair m then
    let r := sweepInt n (intOf32 (old 0)) (operandPairs s c m g cl 0 0 i j)
    [⟨(BitVec.ofInt 32 r.val).setWidth 64, r.fl⟩]
  else if m.a.fmt = 1 then [w32 (sweepFp32 (word32 (old 0)) (operandPairs s c m g cl 0 0 i j))]
  else [w32 (sweepFp n (matFactor s c m) (word32 (old 0)) (operandPairs s c m g cl 0 0 i j))]

/-- Everything a fill needs has landed. -/
def fillReady (st : Stream) (fill : Nat) (f : Face) : Bool := holdsBytes st fill f.runs

/-- Forget fills that no queued segment uses. -/
def State.dropFills (s : State) (id : Nat) (fills : List Nat) : State :=
  let used := s.quads.flatMap (fun e => (e.2.queue.filter (fun g => g.cmd == id)).flatMap (fun g => [g.fillA, g.fillB]))
  let gone := fills.filter (fun f => !used.contains f)
  s.modCmd id (fun c =>
    { c with streams := c.streams.map (fun st =>
      if st.role = 0 || st.role = 1 then { st with landed := st.landed.filter (fun e => !gone.contains (e.1 / 2 ^ 48)) }
      else st) })

/-- The head segment of a queue is finished: the next begins, or the engine stops (R86). -/
def State.popSeg (s : State) (eng q : Nat) (g : TileSeg) : State :=
  let t := s.modQuad eng q (fun u => { u with queue := u.queue.drop 1, sweep := 0 })
  let u := if g.zero then t else t.dropFills g.cmd [g.fillA, g.fillB]
  if (List.range 4).all (fun i => (quad u eng i).queue.isEmpty) then u.modEngine eng (fun e => { e with ramp := .down })
  else u.startHeads eng

/-- Engine cycles of one block's sweeps, and the least they take (R73, R79, R81, R84). -/
def sweepCycles (m : Mat) (b : Bond) (addDrain : Bool) : Nat × Nat :=
  let n := ceilDiv b.kSeg (productsPer m.a.fmt m.b.fmt)
  let passes := if m.a.fmt = 1 && m.b.fmt = 1 then 3 else if isComplex m.a.fmt then 3 else if m.a.fmt = 15 then 4 else 1
  let least := (if m.fracture then 16 else 32) * (if addDrain || wordsPer m = 2 then 2 else 1)
  (n * passes, least * (if wordsPer m = 2 then passes else 1))

/-- SWEEP_END (R71): a block's sweep over its segment ends, and its results leave by the drain registers. -/
def execSweepEnd (eng quad : Nat) (s : State) : Answer :=
  let qd := Machine.quad s eng quad
  match qd.queue with
  | [] => .next s
  | g :: _ =>
    match s.cmd? g.cmd with
    | none => .next s
    | some c =>
      let m := matRun c
      let b := m.bond.bond
      let sd := side m
      let nc := b.nT / sd
      let total := b.mT / sd * nc
      let cl := eng / 32
      if (engine s eng).ramp != .active || !g.started then .next s
      else if g.zero then
        -- every output of the tile converts from +0 or integer 0 (R102)
        let cs : List Conv := (List.range total).map (fun n => { cmd := g.cmd, tile := g.tile, bi := n / nc, bj := n % nc })
        .next ((s.modQuad eng quad (fun u => { u with convs := u.convs ++ cs })).popSeg eng quad g)
      else
        let n := qd.sweep
        let bi := n / nc
        let bj := n % nc
        let sa := (c.streams[streamIdx c 0 cl]?).getD {}
        let sb := (c.streams[streamIdx c 1 cl]?).getD {}
        let ready := fillReady sa g.fillA (faceOf m c.lens false g.tile g.kseg) &&
          fillReady sb g.fillB (faceOf m c.lens true g.tile g.kseg)
        let busy := qd.drains.any (fun d => d.cmd == g.cmd && d.tile == g.tile && d.bi == bi && d.bj == bj)
        if !ready || busy then .next s
        else
          let cells := (List.range (sd * sd)).map (fun x => (bi * sd + x / sd, bj * sd + x % sd))
          let res := cells.map (fun e => sweepCell s c m g cl qd.acc e.1 e.2)
          let rows := rowsOf b c.lens g.tile
          let cols := colsOf b c.lens g.tile
          let fl := orFlags ((cells.zip res).map (fun e =>
            if e.1.1 < rows && e.1.2 < cols then orFlags (e.2.map (·.fl)) else .none))
          let sets := if isComplex m.a.fmt then 2 else 1
          let toOut := g.last || !b.chained
          let d : Drain :=
            { cmd := g.cmd, tile := g.tile, bi := bi, bj := bj,
              sel := (List.range sets).map (fun i => if toOut then i else i + 2),
              add := g.last && g.addChain,
              vals := (List.range sets).flatMap (fun i => res.map (fun r => ((r[i]?).map (·.val)).getD 0)),
              last := g.final }
          let cyc := sweepCycles m b (g.last && g.addChain)
          let s1 := (s.addFlags g.cmd fl).modQuad eng quad (fun u => { u with drains := u.drains ++ [d], sweep := n + 1 })
          let s2 := (s1.modEngine eng (fun e =>
            { e with
              busy := satAdd 64 e.busy cyc.1
              minSweep := satAdd 64 e.minSweep (cyc.2 - cyc.1) })).progress cl
          .next (if n + 1 = total then s2.popSeg eng quad g else s2)

/-! ### BLOCK_DRAIN_END (R72, R77, R105) -/

/-- One word of an ADD drain. -/
def addWord (m : Mat) (old v : Word) : Res Word :=
  if m.a.fmt = 15 then ⟨old + v, .none⟩
  else if isIntPair m then
    let r := satInt32 (intOf32 old + intOf32 v)
    ⟨(BitVec.ofInt 32 r.val).setWidth 64, r.fl⟩
  else
    let r := add32 (word32 old) (word32 v)
    ⟨r.val.setWidth 64, r.fl⟩

/-- BLOCK_DRAIN_END (R77): the oldest draining block of a quadrant reaches the accumulator memory. -/
def execBlockDrainEnd (eng quad : Nat) (s : State) : Answer :=
  let qd := Machine.quad s eng quad
  match qd.drains with
  | [] => .next s
  | d :: ds =>
    match s.cmd? d.cmd with
    | none => .next (s.modQuad eng quad (fun u => { u with drains := ds }))
    | some c =>
      let m := matRun c
      let sd := side m
      let b := m.bond.bond
      let rows := rowsOf b c.lens d.tile
      let cols := colsOf b c.lens d.tile
      let words := (d.sel.zipIdx).flatMap (fun se => (List.range (sd * sd)).map (fun x =>
        (se.1, d.bi * sd + x / sd, d.bj * sd + x % sd, d.vals.getD (se.2 * (sd * sd) + x) 0)))
      let r := words.foldl (fun (a : SMap Word × Flags) w =>
        let k := accKey d.cmd d.tile w.1 w.2.1 w.2.2.1
        if d.add then
          let v := addWord m (SMap.get 0 a.1 k) w.2.2.2
          (SMap.set 0 a.1 k v.val, if w.2.1 < rows && w.2.2.1 < cols then a.2 ||| v.fl else a.2)
        else (SMap.set 0 a.1 k w.2.2.2, a.2)) (qd.acc, .none)
      let cv : List Conv := if d.last then [{ cmd := d.cmd, tile := d.tile, bi := d.bi, bj := d.bj }] else []
      .next ((s.addFlags d.cmd r.2).modQuad eng quad (fun u =>
        { u with drains := ds, acc := r.1, convs := u.convs ++ cv }))

/-! ### BLOCK_CONVERSION_END (R45, R76, R104, R108) -/

/-- Exact value of an output's word before scaling, with the integer factors (R35). -/
def outNum (s : State) (c : Cmd) (m : Mat) (w : Word) : Num :=
  if m.a.fmt = 15 then .ofInt w.toInt
  else if isIntPair m then (Num.mul (.ofInt (intOf32 w)) (matFactor s c m)).val
  else (word32 w).num

/-- Byte offset of an output from the C base, and its index (R45, R104). -/
def outOffset (m : Mat) (t i j : Nat) : Nat :=
  (offsetOf m.bond.bond (·.cStride) t 0).toNat + i * m.c.pitch + cBits m * j / 8
def outIndex (m : Mat) (off : Nat) : Nat :=
  (off / m.c.pitch) * (8 * m.c.pitch / cBits m) + 8 * (off % m.c.pitch) / cBits m

/-- Conversion of C (R38, R61, R339, Table BND-1). -/
def outQuant (s : State) (c : Cmd) (m : Mat) : Quant :=
  let sc : Num :=
    match m.listC with
    | some l => if l.hdr.guardEn then (slotScale s c.part c.scales l.hdr.guard).num
        else if isTensor m.c.fmt then c.factor 2 else .one
    | none => if isTensor m.c.fmt then c.factor 2 else .one
  { fmt := m.c.fmt, ovf := m.bond.bond.outOvf, stoch := m.bond.bond.outRnd == 1, seed := c.seed, step := c.step,
    tensor := m.c.tensor, scale := sc }

/-- Output parts of (i, j) as elements to convert. -/
def outElems (s : State) (c : Cmd) (m : Mat) (acc : SMap Word) (t i j : Nat) (written : Bool) : List Elem :=
  let idx := outIndex m (outOffset m t i j)
  (List.range (if isComplex m.a.fmt then 2 else 1)).map (fun p =>
    { val := outNum s c m (SMap.get 0 acc (accKey c.id t p i j)), idx := idx, imag := p == 1, written := written })

/-- Columns that one conversion covers: a block, or two 16-column blocks where C's blocks of 32 span both (log 17). -/
def convSpan (m : Mat) (bj : Nat) : Option (Nat × Nat) :=
  if m.fracture && hasScales m.c.fmt then
    if bj % 2 = 1 then some (16 * (bj - 1), 32) else if 16 * (bj + 1) = m.bond.bond.nT then some (16 * bj, 16) else none
  else some (side m * bj, side m)

/-- A row of converted output as write runs: elements, then the row's scale (R40, R96). A partly written byte keeps the
bits of its other elements. -/
def outRuns (s : State) (c : Cmd) (m : Mat) (t i j0 n : Nat) (o : QOut) : List Run :=
  let off := outOffset m t i j0
  let dir2 := (m.listC.map (·.hdr.dir)) == some 2
  let bits := bitsPer m.c.fmt
  let parts := if isComplex m.a.fmt then 2 else 1
  let bytes := packElems bits (o.codes.take (n * parts))
  let tail := (bits * n * parts) % 8
  let bytes := if tail = 0 then bytes else
    match bytes.getLast? with
    | some last => bytes.dropLast ++
        [BitVec.ofNat 8 (last.toNat + (s.byte (keyAt s c.part (addrOff (m.c.base + off) + bytes.length - 1))).toNat / 2 ^ tail * 2 ^ tail)]
    | none => bytes
  let e : Run := { addr := m.c.base + off, len := if dir2 then 4 * n else bytes.length, data := bytes }
  let sc := o.scaleBytes m.c.fmt
  if sc.isEmpty then [e] else [e, { addr := m.c.scale + off / scaleRatio m.c.fmt, len := sc.length, data := sc }]

/-- Number of elements that a tile leaves to an audit (R64): selected by the generator at the tile's place. -/
def audited (s : State) (c : Cmd) (m : Mat) (t : Nat) : Bool :=
  let b := m.bond.bond
  let pg := qgPage s c.part
  let ix := tileIdx b t
  let ord := idxOf ix b.m * b.count b.n + idxOf ix b.n
  let rate := s.regFld pg Reg.qgAuditCtl 3 0
  (s.reg pg Reg.qgAuditCtl).testBit 8 && (onFly m.listA || onFly m.listB) &&
    srBits (c.seed.getD 0) c.step m.c.tensor (2 ^ 40 - 1 - ord) false % 2 ^ rate == 0

/-- Accumulators of a tile's real outputs, row by row, as binary32 with the factors applied (R65). -/
def tileVals (s : State) (c : Cmd) (m : Mat) (acc : SMap Word) (t : Nat) : List (BitVec 32) :=
  (List.range (rowsOf m.bond.bond c.lens t)).flatMap (fun i => (List.range (colsOf m.bond.bond c.lens t)).map (fun j =>
    (round32 (outNum s c m (SMap.get 0 acc (accKey c.id t 0 i j)))).val))

/-- BLOCK_CONVERSION_END (R76): the oldest block that the converter reads becomes visible. -/
def execBlockConversionEnd (eng quad : Nat) (s : State) : Answer :=
  let qd := Machine.quad s eng quad
  match qd.convs with
  | [] => .next s
  | v :: vs =>
    match s.cmd? v.cmd with
    | none => .next (s.modQuad eng quad (fun u => { u with convs := vs }))
    | some c =>
      let m := matRun c
      let b := m.bond.bond
      let sd := side m
      let cl := eng / 32
      let fused := isFused c.bits
      let t := v.tile
      let rows := rowsOf b c.lens t
      let cols := colsOf b c.lens t
      let lastBlock := v.bi + 1 == b.mT / sd && v.bj + 1 == b.nT / sd
      if fused && !sliceFree c cl 0 then .next s
      else
        let s1 :=
          if fused then
            let wr := Nat.min sd (rows - v.bi * sd)
            let wc := Nat.min sd (cols - v.bj * sd)
            let q : Quant := { fmt := 1, ovf := b.outOvf, stoch := b.outRnd == 1, seed := c.seed, step := c.step,
                               tensor := m.c.tensor }
            let o := (List.range sd).map (fun i => (List.range sd).map (fun j =>
              (outElems s c m qd.acc t (v.bi * sd + i) (v.bj * sd + j) (decide (i < wr) && decide (j < wc))).map q.one))
            let off := outOffset m t (v.bi * sd) (v.bj * sd)
            let blk : SliceBlock :=
              { addr := m.c.base + off, rows := wr, cols := wc,
                index := (List.range wr).map (fun i => outIndex m (outOffset m t (v.bi * sd + i) (v.bj * sd))),
                col0 := 8 * (off % m.c.pitch) / cBits m,
                words := (o.flatMap (fun r => r.flatMap (fun e => e.flatMap (·.codes)))).map (BitVec.ofNat 32) }
            (s.addFlags c.id (orFlags (o.flatMap (fun r => r.flatMap (fun e => e.map (·.fl)))))).enterSlice c.id cl 0 blk
          else
            match convSpan m v.bj with
            | none => s
            | some (j0, w) =>
              let n := Nat.min w (cols - j0)
              let wr := Nat.min sd (rows - v.bi * sd)
              let q := outQuant s c m
              let line (i : Nat) : List Elem := (List.range w).flatMap (fun j =>
                outElems s c m qd.acc t (v.bi * sd + i) (j0 + j) (decide (j < n)))
              let lines := if n = 0 then [] else (List.range wr).map (fun i => (i, q.list (line i), line i))
              let vals := lines.flatMap (fun e => (e.2.2.filter (·.written)).map (·.val))
              let cnt := lines.foldl (fun a e => a.add e.2.1.cnt) {}
              let fl := orFlags (lines.map (fun e => e.2.1.fl))
              let hdr := (m.listC.map (·.hdr)).getD {}
              let s2 := s.feed c.id c.settings hdr { vals := vals, cnt := cnt, fl := fl }
              if c.pass = 0 then
                s2.modStream c.id (streamIdx c 2 cl) (fun u =>
                  { u with todo := u.todo ++ lines.flatMap (fun e => outRuns s c m t (v.bi * sd + e.1) j0 n e.2.1) })
              else s2
        let audit := lastBlock && c.pass == 0 && audited s c m t
        let s3 := if audit then
            { s1 with audits := s1.audits ++ [{ core := eng / 4, cmd := c, tile := t, vals := tileVals s c m qd.acc t }] }
          else s1
        -- the words of the whole tile are free once its last block has been converted
        let s4 := s3.modQuad eng quad (fun u =>
          { u with
            convs := vs
            acc := if lastBlock then SMap.dropKeys (fun k => k / 2 ^ 34 == 2 ^ 64 * c.id + t) u.acc else u.acc })
        let s5 := if lastBlock then s4.modCmd c.id (fun c =>
            { c with walk := { c.walk with engines := SMap.set none c.walk.engines t none, tiles := c.walk.tiles + 1 } })
          else s4
        .next (s5.checkEnd c.id)

/-! ### Fused stages (R131, R132) -/

/-- act of R131. -/
def activate (act : Nat) (x : F32) : Res F32 :=
  match act with
  | 1 => max32 x 0
  | 2 => gelu32 x
  | 3 => silu32 x
  | _ => ⟨x, .none⟩

/-- Stage number of a kind. -/
def stageNo (b : CmdBits) (kind : Nat) : Nat := (stagesOf b).findIdx (fun e => e.kind == kind)

/-- Residual element (i, j) of a block, when its stream has landed it. -/
def residAt (st : Stream) (b : SliceBlock) (i j : Nat) : Option F32 :=
  let z := srcSize st.list.hdr.srcFmt
  let p := (b.index.getD i 0 + j) * z
  let bs := (List.range z).map (fun k => SMap.get 0 st.landed (p + k))
  if bs.any (· == 0) then none
  else
    let c := leNat (landedBytes bs)
    some (if st.list.hdr.srcFmt = 1 then BitVec.ofNat 32 c else BitVec.ofNat 32 (65536 * c))

/-- EPILOGUE_BLOCK (R131): y = act(x + bias[n]) + resid[m, n], rounding once after each operation. -/
def execEpilogueBlock (cmd eng : Nat) (s : State) : Answer :=
  match s.cmd? cmd with
  | none => .next s
  | some c =>
    let cl := eng / 32
    match if c.admitted && isFused c.bits then stageKind c.bits 3 else none with
    | none => .next s
    | some st =>
      let k := stageNo c.bits 3
      match (sliceAt c cl (k - 1)).blocks with
      | [] => .next s
      | b :: _ =>
        let rs := (c.streams[streamIdx c 5 cl]?).getD {}
        let w := if b.words.length ≤ 256 then 16 else 32
        let cell (i j : Nat) : Option (Res F32) :=
          let x := b.words.getD (w * i + j) 0
          if i < b.rows && j < b.cols then
            let bias : F32 := BitVec.ofNat 32 (s.num c.part (addrOff st.arg0 + 4 * (b.col0 + j)) 4)
            let y1 : Res F32 := if st.bias then add32 x bias else ⟨x, .none⟩
            let y2 := activate st.act y1.val
            if st.resid then
              (residAt rs b i j).map (fun r =>
                let y3 := add32 y2.val r
                ⟨y3.val, y1.fl ||| y2.fl ||| y3.fl⟩)
            else some ⟨y2.val, y1.fl ||| y2.fl⟩
          else some ⟨x, .none⟩
        let cells := (List.range (w * w)).map (fun x => cell (x / w) (x % w))
        if !st.engines.testBit (eng % 32) || cells.any (·.isNone) || !sliceFree c cl k then .next s
        else
          let rsl := cells.map (fun e => e.getD ⟨0, .none⟩)
          let used := (residRuns rs.list b).flatMap (fun e => (List.range e.2).map (e.1 + ·))
          let s1 := (s.addFlags cmd (orFlags (rsl.map (·.fl)))).modSlice cmd cl (k - 1)
            (fun x => { x with blocks := x.blocks.drop 1 })
          let s2 := if st.resid then s1.modStream cmd (streamIdx c 5 cl) (fun u =>
            { u with landed := u.landed.filter (fun e => !used.contains e.1) }) else s1
          .next ((s2.enterSlice cmd cl k { b with words := rsl.map (·.val) }).loadBlocks cmd cl 64)

/-- QUANT_BLOCK (R118, R131): a QUANT engine converts one slice block. -/
def execQuantBlock (cmd eng : Nat) (s : State) : Answer :=
  match s.cmd? cmd with
  | none => .next s
  | some c =>
    let cl := eng / 32
    match if c.admitted && isFused c.bits then stageKind c.bits 4 else none with
    | none => .next s
    | some st =>
      let k := stageNo c.bits 4
      match (sliceAt c cl (k - 1)).blocks with
      | [] => .next s
      | b :: _ =>
        if !st.engines.testBit (eng % 32) || !sliceFree c cl k then .next s
        else
          let w := if b.words.length ≤ 256 then 16 else 32
          let q : Quant := { fmt := st.qfmt, ovf := st.qovf, stoch := st.qrnd == 1, seed := c.seed, step := c.step,
                             tensor := st.tensor,
                             scale := if st.guardEn then (slotScale s c.part c.scales st.guard).num else .one }
          let line (i : Nat) : List Elem := (List.range w).map (fun j =>
            { val := F32.num (b.words.getD (w * i + j) 0), idx := b.index.getD i 0 + j, written := decide (j < b.cols) })
          let os := (List.range b.rows).map (fun i => (q.list (line i), line i))
          let s1 := s.feed cmd c.settings { guardEn := st.guardEn, guard := st.guard }
            { vals := os.flatMap (fun e => (e.2.filter (·.written)).map (·.val)),
              cnt := os.foldl (fun a e => a.add e.1.cnt) {}, fl := orFlags (os.map (fun e => e.1.fl)) }
          let s2 := (s1.modSlice cmd cl (k - 1) (fun x => { x with blocks := x.blocks.drop 1 })).loadBlocks cmd cl 64
          if c.pass = 0 then
            .next (s2.enterSlice cmd cl k
              { b with
                words := []
                bytes := os.map (fun e => packElems (bitsPer st.qfmt) (e.1.codes.take b.cols))
                scales := os.map (fun e => e.1.scaleBytes st.qfmt) })
          else .next (s2.checkEnd cmd)

/-- Rows of a slice block as bytes: converted ones, or binary32 words. -/
def blockRows (b : SliceBlock) : List (List Byte) :=
  if b.words.isEmpty then b.bytes
  else
    let w := if b.words.length ≤ 256 then 16 else 32
    (List.range b.rows).map (fun i => (List.range b.cols).flatMap (fun j => leBytes 4 (b.words.getD (w * i + j) 0).toNat))

/-- STORE_BLOCK (R130, R132): the STORE stage passes the oldest block of its slice to its hod. -/
def execStoreBlock (cmd : Nat) (s : State) : Answer :=
  match s.cmd? cmd with
  | none => .next s
  | some c =>
    match if c.admitted && isFused c.bits then stageKind c.bits 5 else none with
    | none => .next s
    | some st =>
      let k := stageNo c.bits 5
      match c.slices.find? (fun x => x.stage == k - 1 && !x.blocks.isEmpty) with
      | none => .next s
      | some sl =>
        match sl.blocks with
        | [] => .next s
        | b :: _ =>
          let m := matRun c
          let cl := sl.cluster
          let rows := blockRows b
          let s1 := ((s.modSlice cmd cl (k - 1) (fun x => { x with blocks := x.blocks.drop 1 })).progress cl).loadBlocks
            cmd cl 64
          if c.pass != 0 then .next (s1.checkEnd cmd)
          else if st.arg0 = 0 then
            let runs : List Run := (rows.zipIdx.filter (fun e => !e.1.isEmpty)).flatMap (fun e =>
              let a := b.addr + e.2 * m.c.pitch
              let sc := b.scales.getD e.2 []
              let r : Run := { addr := a, len := e.1.length, data := e.1 }
              if sc.isEmpty then [r] else
                [r, { addr := m.c.scale + (a - m.c.base) / scaleRatio m.c.fmt, len := sc.length, data := sc }])
            .next ((s1.modStream cmd (streamIdx c 2 cl) (fun u => { u with todo := u.todo ++ runs })).checkEnd cmd)
          else
            let bytes := rows.flatMap id ++ b.scales.flatMap id
            .next (((s1.modStream cmd (streamIdx c 7 cl) (fun u => { u with inbox := u.inbox ++ bytes })).form cmd
              (streamIdx c 7 cl)).checkEnd cmd)


/-! ### BND_MCAST (R111) -/

/-- BND_MCAST_WRITE (R111): `reg` is the register's place on its page. -/
def execBndMcastWrite (who : Requester) (page reg : Nat) (val : Word) (s : State) : Answer :=
  if blkOf page = .bnd && Reg.bndMcast ≤ reg && reg < Reg.bndMcast + 96 then
    .next (s.steeringWrite who page (fun t =>
      t.setReg page reg (writeFields (fieldsOf .bnd reg) (t.reg page reg) val.toNat)))
  else .next s

end Sys2Proof.Machine
end

