-- ==== Sys2Proof/Machine/Hods.lean ====
section
/-! DEFINITION. HOD commands, admission, requests and their data, persistent streams, HOD_COMPAT and the stall
sentinel (R114–R143, R341). -/

namespace Sys2Proof.Machine

/-! ### RUN (R341) -/

def srcAddr (b : CmdBits) : Nat := payFld b 8 47 0
def dstAddr (b : CmdBits) : Nat := payFld b 16 47 0

/-- Reserved fields of a HOD payload, with COUNT (Table HST-6). -/
def hodPayloadFault (b : CmdBits) : Bool :=
  payFld b 0 63 22 != 0 || payFld b 0 15 9 != 0 || payFld b 8 63 48 != 0 || payFld b 16 63 48 != 0 ||
    (payFld b 0 7 0 != 2 && (payFld b 0 21 16 != 0 || !payZeroFrom b 24)) ||
    (payFld b 0 7 0 != 1 && (payFld b 0 8 8 != 0 || payFld b 8 47 32 != 0 || payFld b 16 47 0 != 0))

/-- Hod lists that a RUN names. -/
def runLists (b : CmdBits) : List Nat := if payFld b 0 8 8 = 1 then [srcAddr b] else [srcAddr b, dstAddr b]

def runNeed (s : State) (c : Cmd) : List Nat :=
  if hodPayloadFault c.bits then []
  else
    (((runLists c.bits).filter (fun a => inRange s c.part a 32)).flatMap
      (fun a => tableMissing s c.part a (fun s => listBytes s c.part a))).dedup

/-- R341 for the pair of lists of a copy. -/
def copyFault (s : State) (c : Cmd) : Bool :=
  let a := readList s c.part (srcAddr c.bits)
  let d := readList s c.part (dstAddr c.bits)
  listFault s c.part true a || listFault s c.part true d || a.list.hdr.dir != 0 || d.list.hdr.dir == 0 ||
    (a.list.quantises && d.list.quantises) || a.list.delivers != d.list.moves

def persistFault (s : State) (c : Cmd) : Bool :=
  let a := readList s c.part (srcAddr c.bits)
  dstAddr c.bits != 0 || !c.compat ||
    decide (16 ≤ (s.persists.filter (fun x => x.stream.cluster == cmdHome s c)).length) ||
    listFault s c.part false a || a.list.hdr.dir != 0

def runCheck (s : State) (c : Cmd) : Option Nat :=
  let b := c.bits
  let p := c.part
  let ls := (runLists b).map (readList s p)
  if hodPayloadFault b then some St.malformed
  else if (runLists b).any (fun a => !inRange s p a (listBytes s p a)) then some St.fence
  else
    firstOf [
      ((runLists b).any (fun a => poisonedRange s p (addrOff a) (listBytes s p a)), St.dataPoisoned),
      (if payFld b 0 8 8 = 1 then persistFault s c else copyFault s c, St.malformed),
      (ls.any (fun l => listFenced s p l.list), St.fence),
      (c.seed.isNone && ls.any (·.list.stochastic), St.seedUnset)]

/-- A RUN waits for admission with its streams (R126). -/
def runStart (s : State) (c : Cmd) : State :=
  let lists := (runLists c.bits).map (fun a => (readList s c.part a).list)
  let c1 : Cmd := { c with
    streams := lists.zipIdx.map (fun e => ({ role := 3 + e.2, list := e.1 } : Stream))
    wait := .admission }
  s.modCmd c.id (fun _ => { c1 with scales := sampleScales s c.part (namedSlots c1), pass := firstPass s c1 })

/-- RUN (R341): a copy from one list into another. -/
def execRun (ring : Nat) (s : State) : Answer := .next (dispatchRowT false 2 0x01 ring runNeed runCheck runStart s)

/-- RUN_PERSIST (R135, R341): a persistent stream, created at its admission. -/
def execRunPersist (ring : Nat) (s : State) : Answer :=
  .next (dispatchRowT false 2 0x101 ring runNeed runCheck runStart s)

/-! ### REARM and RELEASE (R136–R138) -/

def cmdHandle (b : CmdBits) : Nat := payFld b 8 31 0

/-- The pairs of a REARM: entry index and new BASE. -/
def rearmPairs (b : CmdBits) : List (Nat × Nat) :=
  (List.range (payFld b 0 21 16)).map (fun i => (payFld b (0x40 + 8 * i) 55 48, payFld b (0x40 + 8 * i) 47 0))

/-- The stream that a handle names for a command; one that is to end takes no further REARM. -/
def handleOf (s : State) (c : Cmd) : Option Persist :=
  (persist? s (cmdHandle c.bits)).bind (fun x => if x.part = c.part && !x.ending && !x.releaseCmd.isSome then some x else none)

/-- A list with some bases replaced. -/
def rebase (l : HodList) (ps : List (Nat × Nat)) : HodList :=
  { l with ents := ps.foldl (fun es p => setNth (fun e => { e with base := p.2 }) es p.1) l.ents }

def rearmCheck (s : State) (c : Cmd) : Option Nat :=
  let b := c.bits
  let n := payFld b 0 21 16
  let ps := rearmPairs b
  match handleOf s c with
  | none => some St.malformed
  | some x =>
    firstOf [
      (hodPayloadFault b || n == 0 || decide (48 < n) ||
        (List.range 5).any (fun i => payFld b (0x18 + 8 * i) 63 0 != 0) || !payZeroFrom b (0x40 + 8 * n) ||
        (List.range n).any (fun i => payFld b (0x40 + 8 * i) 63 56 != 0) ||
        ps.any (fun p => decide (x.stream.list.ents.length ≤ p.1) || !baseAligned x.stream.list.hdr p.2), St.malformed),
      (listFenced s c.part (rebase x.stream.list ps), St.fence)]

def rearmStart (s : State) (c : Cmd) : State :=
  (s.modPersist (cmdHandle c.bits) (fun x => { x with rearms := x.rearms ++ [c.id] })).modCmd c.id
    (fun c => { c with handle := some (cmdHandle c.bits) })

/-- The next command of a ring is a REARM of a stream that already holds four (R136). -/
def rearmFull (s : State) (k : Nat) : Bool :=
  match nextOf s k with
  | some b => envClass b == 2 && cmdSub b == 2 &&
      (persist? s (cmdHandle b)).any (fun x => decide (4 ≤ x.rearms.length + (if x.current.isSome then 1 else 0)))
  | none => false

/-- REARM (R136): new bases for a persistent stream's next pass. A fifth one waits in its ring. -/
def execRearm (ring : Nat) (s : State) : Answer :=
  if rearmFull s ring then .next s else .next (dispatchRow 2 0x02 ring rearmCheck rearmStart s)

/-- Start a pass over a persistent stream's list. -/
def Stream.restart (st : Stream) (l : HodList) : Stream :=
  { st with list := l, todo := [], issued := 0, landed := [], used := 0, outQ := [] }

def persistPass (s : State) (x : Persist) : Nat := if (newSlots s x.part x.stream.list).isEmpty then 0 else 2

/-- REARM_APPLY (R136): at the end of a pass the oldest waiting REARM applies, and its own pass begins. -/
def execRearmApply (handle : Nat) (s : State) : Answer :=
  match persist? s handle with
  | some x =>
    match x.inPass, x.rearms with
    | false, r :: rs =>
      match s.cmd? r with
      | some c =>
        let t := s.modPersist handle (fun x =>
          { x with rearms := rs, current := some r, inPass := true, pass := persistPass s x, amax := [],
                   seed := c.seed, step := c.step, scales := sampleScales s x.part [x.stream.list.hdr.guard],
                   stream := x.stream.restart (rebase x.stream.list (rearmPairs c.bits)) })
        .next (t.bump (Blk.hod.page x.stream.cluster) Reg.hodCluster 63 48 1)
      | none => .next (s.modPersist handle (fun x => { x with rearms := rs }))
    | _, _ => .next s
  | none => .next s

def releaseCheck (s : State) (c : Cmd) : Option Nat :=
  firstOf [(hodPayloadFault c.bits || (handleOf s c).isNone, St.malformed)]

def releaseStart (s : State) (c : Cmd) : State :=
  s.modPersist (cmdHandle c.bits) (fun x => { x with ending := true, releaseCmd := some c.id })

/-- RELEASE (R341): the stream ends after its pending REARM commands. -/
def execRelease (ring : Nat) (s : State) : Answer := .next (dispatchRow 2 0x03 ring releaseCheck releaseStart s)

/-- PERSISTENT_STREAM_RELEASE (R138): an ending stream with no pass left returns its floor. -/
def execPersistentStreamRelease (handle : Nat) (s : State) : Answer :=
  match persist? s handle with
  | some x =>
    if x.ending && !x.inPass && x.rearms.isEmpty then
      let t := ({ s with persists := s.persists.filter (fun y => y.handle != handle) } : State).stirCluster x.stream.cluster
      match x.releaseCmd with
      | some i => .next (t.finishCmd i)
      | none => .next t
    else .next s
  | none => .next s

/-! ### COMMAND_ADMISSION (R126, R127, R128) -/

/-- A stream fits on a hod that already takes `more` streams of the command, as (hod, floor). -/
def fits (s : State) (persist : Bool) (cl h floor : Nat) (more : List (Nat × Nat)) : Bool :=
  let mine := more.filter (fun e => e.1 == h)
  let f := mine.foldl (fun a e => a + e.2) 0
  decide ((hodStreams s cl h).length + mine.length < 16) && decide (floorSum s cl h + f + floor ≤ 896) &&
    (!persist || decide (persistFloor s cl h + floor ≤ 512))

/-- Unreserved tags of a hod with `more` streams taken. -/
def unreserved (s : State) (cl h : Nat) (more : List (Nat × Nat)) : Nat :=
  1024 - floorSum s cl h - (more.filter (fun e => e.1 == h)).foldl (fun a e => a + e.2) 0

/-- The hod for one stream: the one with the most unreserved tags among those that it fits on, or hod s mod 4 in
deterministic mode. -/
def pickHod (s : State) (det persist : Bool) (cl i floor : Nat) (more : List (Nat × Nat)) : Option Nat :=
  if det then (if fits s persist cl (i % 4) floor more then some (i % 4) else none)
  else
    ((List.range 4).filter (fun h => fits s persist cl h floor more)).foldl (fun (a : Option Nat) h =>
      match a with
      | none => some h
      | some g => if unreserved s cl g more < unreserved s cl h more then some h else some g) none

/-- Place the streams of a command in one cluster; a stream fed by a persistent one takes no hod of its own. -/
def placeIn (s : State) (det persist : Bool) (cl : Nat) :
    List Stream → Nat → List (Nat × Nat) → Option (List Stream)
  | [], _, _ => some []
  | st :: sts, i, more =>
    if st.handle.isSome then
      (placeIn s det persist cl sts (i + 1) more).map ({ st with cluster := cl, hod := 4 } :: ·)
    else
      match pickHod s det persist cl i st.list.hdr.floor more with
      | none => none
      | some h =>
        (placeIn s det persist cl sts (i + 1) (more ++ [(h, st.list.hdr.floor)])).map
          ({ st with cluster := cl, hod := h } :: ·)

/-- Place them in every cluster of the command. -/
def placeAll (s : State) (c : Cmd) (persist : Bool) : List Nat → Option (List Stream)
  | [] => some []
  | cl :: cls =>
    match placeIn s c.det persist cl c.streams 0 [] with
    | none => none
    | some l => (placeAll s c persist cls).map (l ++ ·)

def slicesNeeded (b : CmdBits) : Nat := if envClass b = 1 && isFused b then (stagesOf b).length - 1 else 0

def isPersistRun (b : CmdBits) : Bool := envClass b == 2 && cmdSub b == 0x101

/-- The slices that a command takes in a cluster. -/
def slicesIn (s : State) (b : CmdBits) (cl : Nat) : List Slice :=
  ((freeSlices s cl).take (slicesNeeded b)).zipIdx.map (fun e => { cluster := cl, index := e.1, stage := e.2 })

/-- COMMAND_ADMISSION (R126): a waiting command takes its streams, floors, slices and contexts, all or none. -/
def execCommandAdmission (cmd : Nat) (s : State) : Answer :=
  match s.cmd? cmd with
  | none => .next s
  | some c =>
    let cls := cmdClusters s c.part c.bits
    let cores := cmdCores s c.part c.bits
    let persist := isPersistRun c.bits
    if c.wait != .admission || !c.checked || c.status.isSome || heldBack s c || waitsBehind s c || !canBind s c.ring cores ||
        cls.any (fun cl => decide ((freeSlices s cl).length < slicesNeeded c.bits)) then .next s
    else
      match placeAll s c persist cls with
      | none => .next s
      | some streams =>
        let w := s.wantClusters cls
        if w.2 then .next w.1
        else
          let t := (s.modCmd cmd (fun c =>
            { c with admitted := true, wait := .none, streams := streams, slices := cls.flatMap (slicesIn s c.bits) })).bind_
              c.ring (envPrio c.bits) cores
          if persist then
            match streams with
            | st :: _ =>
              let x : Persist := { handle := cmd, part := c.part, stream := st, seed := c.seed, step := c.step,
                                   scales := c.scales, inPass := true, pass := c.pass }
              .next (({ t with persists := t.persists ++ [x] }.setResult cmd (BitVec.ofNat 64 cmd)).finishCmd cmd)
            | [] => .next t
          else .next (t.checkEnd cmd)

/-! ### HOD_REQUEST_ISSUE (R122–R125, R253, R258, R261) -/

/-- Nothing more reaches a destination stream from its source. -/
def sourceEnded (c : Cmd) (st : Stream) : Bool :=
  let done (role : Nat) : Bool := (c.streams.filter (fun u => u.role == role && u.cluster == st.cluster)).all
    (fun u => u.used == u.list.total && u.inbox.isEmpty)
  if st.role = 4 then done 3
  else if st.role = 7 then done 6 && (!hasWalk c.bits || c.walk.done) && c.slices.all (fun x => x.blocks.isEmpty)
  else false

/-- A persistent stream's landing buffer has room for one more request (R125). -/
def persistRoom (s : State) (x : Persist) : Bool :=
  decide (x.stream.inbox.length + 512 * (streamReqs s x.handle 0).length + 512 ≤
    512 * (x.stream.list.hdr.floor + x.stream.list.hdr.poolMax))

/-- Bytes of a persistent stream land as an operand, in the order in which the walk asks for them (R340). -/
def State.consume (s : State) (cmd k h : Nat) (st : Stream) : State :=
  match st.todo, persist? s h with
  | r :: rs, some x =>
    if x.stream.inbox.length < r.len then s
    else
      let t := s.modStream cmd k (fun u =>
        { u.land (fillKey r.ent r.addr) r.len (x.stream.inbox.take r.len) with todo := rs })
      t.modPersist h (fun x => { x with stream := { x.stream with inbox := x.stream.inbox.drop r.len } })
  | _, _ => s

/-- End what a persistent stream's lost data would have fed: its REARM and the commands that name it. -/
def State.failPersist (s : State) (h st : Nat) : State :=
  let users := (s.cmds.filter (fun c => c.streams.any (fun u => u.handle == some h))).map (·.id)
  (users ++ ((persist? s h).bind (·.current)).toList).foldl (fun t i => t.endCmd i st) s

/-- HOD_REQUEST_ISSUE: stream `stream` of a command, or stream 0 of a persistent stream's handle, issues its next
request. -/
def execHodRequestIssue (cmd stream : Nat) (s : State) : Answer :=
  match streamOf s cmd stream with
  | none => .next s
  | some (cfg, st) =>
    match st.handle with
    | some h => .next (s.consume cmd stream h st)
    | none =>
      if (persist? s cmd).any (fun x => !x.inPass || !persistRoom s x) then .next s
      else
        match wantOf st with
        | none => .next s
        | some w =>
          if (persist? s cmd).isSome && (missing s cfg.part (addrOff w.addr) w.len).any (unreachable s cfg.part) then
            .next (s.failPersist cmd St.tierUnreachable)
          else
          -- a source of coded blocks delivers fewer bytes than its raw length; the last request is then shorter
          let short := st.todo.isEmpty && st.list.hdr.dir == 1 && !st.outQ.isEmpty && decide (st.outQ.length < w.len) &&
            (s.cmd? cmd).any (fun c => sourceEnded c st)
          .next (s.issueReq cmd stream cfg st (if short then { w with len := st.outQ.length } else w))

/-! ### HOD_READ_LANDING (R118, R122, R403) -/

/-- The end of a persistent stream's pass (R62, R135, R136). -/
def State.persistEnd (s : State) (h : Nat) : State :=
  match persist? s h with
  | some x =>
    if !x.inPass || x.stream.used != x.stream.list.total || !(streamReqs s h 0).isEmpty then s
    else if x.pass != 0 then
      let slots := newSlots s x.part x.stream.list
      let t := s.settleScales x.part x.amax slots
      t.modPersist h (fun x =>
        { x with pass := 0, amax := [], scales := sampleScales t x.part [x.stream.list.hdr.guard],
                 stream := x.stream.restart x.stream.list })
    else
      let t := s.modPersist h (fun x => { x with inPass := false, current := none })
      match x.current with
      | some i => t.finishCmd i
      | none => t
  | none => s

/-- Count the conversions of an operand's landed elements (R59, R63), which the engines read converted. -/
def State.feedOperand (s : State) (id : Nat) (cfg : Settings_) (st : Stream) (base : Nat) (r : Req) : State :=
  let e := firstEnt (some st.list)
  if e.qfmt = 0 || hasScales e.qfmt || !st.list.hdr.guardEn then s
  else
    let es := srcElems st.list.hdr.srcFmt r.data ((r.addr - base) / srcSize st.list.hdr.srcFmt)
    s.feed id cfg st.list.hdr { vals := es.map (·.val), cnt := ((entQuant s cfg st.list.hdr e).list es).cnt }

/-- What landed data set in motion. -/
def State.afterLanding (s : State) (id k cl : Nat) (cfg : Settings_) (st : Stream) (r : Req) : State :=
  match persist? s id with
  | some _ =>
    let h := s.handOn id k
    (h.1.modStream id k (fun u => { u with inbox := u.inbox ++ h.2 })).persistEnd id
  | none =>
    match s.cmd? id with
    | none => s
    | some c =>
      if st.role = 0 || st.role = 1 then s.feedOperand id cfg st (recOf c.bits st.role).base r
      else if st.role = 3 then
        let h := s.handOn id k
        let d := streamIdx c 4 cl
        (h.1.modStream id d (fun u => { u with inbox := u.inbox ++ h.2 })).form id d
      else if st.role = 6 then
        let h := s.handOn id k (loadWide c.bits)
        (h.1.modStream id k (fun u => { u with inbox := u.inbox ++ h.2 })).loadBlocks id cl 64
      else s

/-- HOD_READ_LANDING (R122): a served read's data enters the landing buffer and its tag returns. `sram` is what the
check of the landing buffer's words finds. -/
def execHodReadLanding (req : Nat) (sram : SramErr) (s : State) : Answer :=
  match s.reqs.find? (fun r => r.id == req) with
  | none => .next s
  | some r =>
    match streamOf s r.cmd r.stream with
    | none => .next s
    | some (cfg, st) =>
      if r.kind != .read || !r.served then .next s
      else
        let t := { s with reqs := s.reqs.filter (fun x => x.id != req) }
        let u := (t.modHod r.cluster r.hod (fun h => { h with bytes := satAdd 64 h.bytes r.len })).progress r.cluster
        let v := u.sramError r.cluster sram
        let bad := if r.bad then some r.badStatus else if v.2 then some St.dataPoisoned else none
        match bad with
        | some e => if (persist? s r.cmd).isSome then .next (v.1.failPersist r.cmd e) else .next (v.1.endCmd r.cmd e)
        | none =>
          let pos := if st.role = 0 || st.role = 1 then fillKey r.ent r.addr else r.pos
          let w := v.1.modStream r.cmd r.stream (fun x => x.land pos r.len r.data)
          .next ((w.afterLanding r.cmd r.stream r.cluster cfg st r).checkEnd r.cmd)

/-- HOD_WRITE_ACK (R122): a served write's tag returns; a dropped part ends the command with DATA_POISONED once it is
done (R176). -/
def execHodWriteAck (req : Nat) (s : State) : Answer :=
  match s.reqs.find? (fun r => r.id == req) with
  | none => .next s
  | some r =>
    if r.kind = .read || !r.served then .next s
    else
      let t := { s with reqs := s.reqs.filter (fun x => x.id != req) }
      let u := (t.modHod r.cluster r.hod (fun h => { h with bytes := satAdd 64 h.bytes r.data.length })).progress r.cluster
      .next ((if r.bad then u.noteLate r.cmd r.badStatus else u).checkEnd r.cmd)

/-! ### HOD_COMPAT and the sentinel -/

/-- HOD_COMPAT_WRITE (R134): the steering program stores the pending setting; a host write is counted. -/
def execHodCompatWrite (who : Requester) (page : Nat) (val : Word) (s : State) : Answer :=
  if blkOf page = .hod then
    .next (s.steeringWrite who page (fun t => t.setRegFld page Reg.hodCompat 0 0 (fld val.toNat 0 0)))
  else .next s

/-- Unfinished commands of a cluster. -/
def unfinishedIn (s : State) (cl : Nat) : List Cmd :=
  s.cmds.filter (fun c => c.status.isNone && (cmdClusters s c.part c.bits).contains cl)

/-- The command that the sentinel aborts: lowest priority, then dispatched last. -/
def victim : List Cmd → Option Cmd
  | [] => none
  | c :: cs =>
    match victim cs with
    | none => some c
    | some d => if before c d then some d else some c

/-- SENTINEL_EXPIRY (R139–R142): 1 ms without progress in a cluster that has unfinished commands, not all of them in
waits with limits of their own. `progress` marks progress in the same pilot tick, which counts. -/
def execSentinelExpiry (cluster t : Nat) (progress : Bool) (s : State) : Answer :=
  let s := s.at_ t
  let cs := unfinishedIn s cluster
  if progress then .next (s.progress cluster)
  else if cs.all (fun c => c.wait.exempt) || decide (s.now < (Machine.cluster s cluster).sentinel + 1000000) then .next s
  else
    match victim cs with
    | none => .next s
    | some c =>
      let pg := Blk.hod.page cluster
      let u := (s.endCmd c.id St.stallAborted).modCluster cluster (fun x => { x with sentinel := s.now })
      .next ((u.bump pg Reg.hodSentinel 63 32 1).raise_ pg 0 (tagDet c))

end Sys2Proof.Machine
end

