-- ==== Sys2Proof/Machine/LedgerOps.lean ====
section
/-! DEFINITION. The step ledger's ring and records (R238–R242). -/

namespace Sys2Proof.Machine

def trnPage (s : State) (p : Nat) : Nat := Blk.trn.page (firstDie s p)
def ledgerOn (s : State) (p : Nat) : Bool := s.regFld (trnPage s p) Reg.trnLedgerCtl 0 0 == 1
def ledgerBase (s : State) (p : Nat) : Nat := 65536 * s.regFld (trnPage s p) Reg.trnLedgerCtl 47 16

/-- Bytes of a 512-byte command. -/
def cmdBytes (b : CmdBits) : List Byte := leBytes 512 b.toNat

/-- R239: the open record is abandoned, and its start takes the next one. -/
def State.ledgerAbandon (s : State) (p addr : Nat) : State :=
  (s.modLedger p (fun l => { l with openAt := none, late := [] })).raise_ (trnPage s p) 3
    { d0 := BitVec.ofNat 64 addr }

/-- A ledger write whose bytes are reachable now. -/
def State.ledgerPut (s : State) (p off : Nat) (bs : List Byte) : State :=
  let a := ledgerBase s p + off % 2 ^ 32
  let x := addrOff a
  if poisonedRange s p x bs.length then s.ledgerAbandon p a else (s.wideAt p x bs).1

/-- A ledger write; it may wait on slab-ready (R239). -/
def State.ledgerWrite (s : State) (p off : Nat) (bs : List Byte) : State :=
  let a := ledgerBase s p + off % 2 ^ 32
  let gone := missing s p (addrOff a) bs.length
  if gone.any (unreachable s p) then s.ledgerAbandon p a
  else if gone.isEmpty && (ledger s p).late.isEmpty then s.ledgerPut p off bs
  else
    (gone.foldl (fun t n => t.queueFetch p n 1 none) s).modLedger p (fun l =>
      { l with late := l.late ++ [(off, bs)], lateSince := if l.late.isEmpty then s.now else l.lateSince })

/-- Make the waiting writes that can now be made, in order. -/
def State.ledgerDrain (s : State) (p : Nat) : Nat → State
  | 0 => s
  | n + 1 =>
    match (ledger s p).late with
    | [] => s
    | w :: ws =>
      let a := ledgerBase s p + w.1 % 2 ^ 32
      if (missing s p (addrOff a) w.2.length).isEmpty then
        ((s.modLedger p (fun l => { l with late := ws, lateSince := s.now })).ledgerPut p w.1 w.2).ledgerDrain p n
      else s

/-- Waiting writes that have waited past TIR_READY_LIM. -/
def State.ledgerExpire (s : State) (p : Nat) : State :=
  match (ledger s p).late with
  | [] => s
  | w :: _ =>
    if (ledger s p).lateSince + 1000000 * s.regFld (tirPage s p) Reg.tirReadyLim 13 0 ≤ s.now then
      s.ledgerAbandon p (ledgerBase s p + w.1 % 2 ^ 32)
    else s

/-- The ring wraps within some bytes from an offset (R238). -/
def State.ledgerWrap (s : State) (p off len : Nat) : State :=
  if off < 2 ^ 32 && 2 ^ 32 ≤ off + len then s.raise_ (trnPage s p) 2 else s

/-- Append one entry of four words to the open record (Table TRN-9). -/
def State.ledgerAppend (s : State) (p : Nat) (ws : List Nat) : State :=
  let l := ledger s p
  match l.openAt with
  | none => s
  | some a =>
    let off := a + 32 * l.units
    let t := (s.modLedger p (fun l => { l with units := l.units + 1 })).ledgerWrap p off 32
    t.ledgerWrite p off (ws.flatMap (leBytes 8))

/-- Open a record for the step that begins. -/
def State.ledgerOpen (s : State) (p : Nat) : State :=
  if ledgerOn s p then
    (s.modLedger p (fun l =>
      { l with
        openAt := some l.head, units := 2, step := stepOf s p, seed := seedOf s p, tBegin := s.now, det := l.detOn
        trace := l.traceOn, cmds := 0, inputs := 0, colls := 0, hashes := [], collCmds := [] })).ledgerWrap p
      (ledger s p).head 64
  else s

/-- CMD_HASH: over the partition's rings, their number and the commands dispatched on them (R241). -/
def cmdHash (s : State) (p : Nat) : Word :=
  (ringsOf s p).foldl (fun h k =>
    h ^^^ crc64 (BitVec.ofNat 8 k ::
      ((ledger s p).hashes.filter (fun e => e.1 == k)).flatMap (fun e => cmdBytes e.2))) 0

def collHash (s : State) (p : Nat) : Word := crc64 ((ledger s p).collCmds.flatMap cmdBytes)

/-- Close the open record: its header is written last (Table TRN-8). -/
def State.ledgerClose (s : State) (p : Nat) : State :=
  let l := ledger s p
  match l.openAt with
  | none => s
  | some a =>
    let flags := bitIf l.det 0 + bitIf l.trace 1 + bitIf l.seed.isSome 2
    let ws : List Nat :=
      [(l.units <<< 32) ||| (flags <<< 24) ||| (1 <<< 16) ||| 0x1ED9, l.step.toNat, (l.seed.getD 0).toNat,
        (cmdHash s p).toNat, (collHash s p).toNat, l.tBegin, s.now,
        (Nat.min 65535 l.colls <<< 48) ||| (Nat.min 65535 l.inputs <<< 32) ||| Nat.min (2 ^ 32 - 1) l.cmds]
    let t := s.ledgerWrite p a (ws.flatMap (leBytes 8))
    if (ledger t p).openAt.isNone then t
    else
      t.modLedger p (fun l =>
        { l with openAt := none, head := (a + 32 * l.units) % 2 ^ 32, records := (l.records + 1) % 2 ^ 32 })

/-- The TRACE entry of a completed command (R242). -/
def State.ledgerTrace (s : State) (c : Cmd) (status : Nat) : State :=
  if c.trace then
    s.ledgerAppend c.part
      [3 ||| (c.ring <<< 8) ||| (status <<< 16) ||| (c.seq <<< 32), (crc64 (cmdBytes c.bits)).toNat, c.lenDigest.toNat,
        c.outDigest.toNat]
  else s

/-- The COLL entry of a collective that starts here, for one course (Table TRN-9). -/
def State.ledgerColl (s : State) (c : Cmd) (course : Nat) : State :=
  let pos := (ledger s c.part).collOrder
  let t := s.ledgerAppend c.part [2 ||| (pos % 2 ^ 32 <<< 32), (crc64 (cmdBytes c.bits)).toNat, course, s.now]
  t.modLedger c.part (fun l =>
    { l with collOrder := l.collOrder + 1
             colls := if l.openAt.isSome then l.colls + 1 else l.colls
             collCmds := if l.openAt.isSome then l.collCmds ++ [c.bits] else l.collCmds })

end Sys2Proof.Machine
end

