-- ==== Sys2Proof/Machine/Guards.lean ====
section
/-! DEFINITION. The seed, the guard tables, STEP_BEGIN and its history push, and the precision audit
(R58–R67). -/

namespace Sys2Proof.Machine

/-! ### The seed (R67) -/

/-- QG_SEED_WRITE: the seed is stored, VALID is set and SEED_TAG names it (Tables FMT-11, FMT-13). -/
def execQgSeedWrite (who : Requester) (page : Nat) (val : Word) (s : State) : Answer :=
  if blkOf page = .qg then
    .next (s.onWrite who page (fun t =>
      let tag := (srFinal val 0 0 0).toNat % 2 ^ 32
      (t.setReg page Reg.qgSeed val.toNat).setReg page Reg.qgKeyStat (tag <<< 32 ||| 1)))
  else .next s

/-- QG_KEY_CLEAR: writing 1 to CLEAR discards the seed (Table FMT-13). -/
def execQgKeyClear (who : Requester) (page : Nat) (val : Word) (s : State) : Answer :=
  if blkOf page = .qg then
    .next (s.onWrite who page (fun t =>
      if val.getLsbD 1 then (t.setReg page Reg.qgSeed 0).setReg page Reg.qgKeyStat 0 else t))
  else .next s

/-! ### The guard table (R58) -/

/-- A byte of the guard table that belongs to a CONFIG word. -/
def isConfigByte (off : Nat) : Bool := decide (0x48 ≤ off % 128) && decide (off % 128 < 0x4C)

/-- CONFIG with a byte replaced; its reserved bits stay zero. -/
def setConfigByte (w : BitVec 32) (i : Nat) (b : Byte) : BitVec 32 :=
  BitVec.ofNat 32 (setFld w.toNat (8 * i + 7) (8 * i) b.toNat) &&& 0x800000EF

/-- GUARD_CONFIG_WRITE (R58): bytes of CONFIG words alone pass; any other write to the table traps whole. -/
def execGuardConfigWrite (core off : Nat) (data : List Byte) (s : State) : Answer :=
  match partOfHubCore s core with
  | none => .next s
  | some p =>
    if off + data.length ≤ 131072 && (List.range data.length).all (fun i => isConfigByte (off + i)) then
      .next ((data.zipIdx).foldl (fun t e =>
        t.modGuard p ((off + e.2) / 128) (fun g => { g with config := setConfigByte g.config ((off + e.2) % 4) e.1 })) s)
    else .next (s.steerTrap p)

/-! ### STEP_BEGIN and the history push (R60, R61) -/

def ledgerOp (b : CmdBits) : Nat := payFld b 0 255 0

/-- Reserved and unused fields of a LEDGER payload (R237). -/
def ledgerFault (b : CmdBits) : Bool :=
  let w := ledgerOp b
  let op := fld w 7 0
  !payZeroFrom b 32 || fld w 127 80 != 0 || fld w 31 10 != 0 || (op != 2 && fld w 9 8 != 0) ||
    (op != 3 && (fld w 255 128 != 0 || fld w 79 32 != 0))

def ledgerCheck (_s : State) (c : Cmd) : Option Nat := firstOf [(ledgerFault c.bits, St.malformed)]

/-- The command names a guard slot. -/
def namesGuard (c : Cmd) : Bool := !(namedSlots c).isEmpty || !c.scales.isEmpty

/-- The step changes: the record closes, QG_STEP counts, a record opens, and the push waits for the earlier commands
that name a guard slot. `clash` is a software write to QG_STEP in the same pilot tick, which takes effect
(Table FMT-12). -/
def stepStart (clash : Option Word) (s : State) (c : Cmd) : State :=
  let p := c.part
  let pg := qgPage s p
  let t := s.ledgerClose p
  let u :=
    match clash with
    | some v => (t.setReg pg Reg.qgStep v.toNat).notice p 1 pg (tagDet c)
    | none => t.setReg pg Reg.qgStep (t.reg pg Reg.qgStep + 1)
  let ids := (u.cmds.filter (fun d => d.part == p && d.id != c.id && d.status.isNone && namesGuard d)).map (·.id)
  ((u.ledgerOpen p).modLedger p (fun l => { l with pushWait := some (c.id, ids) })).modCmd c.id
    (fun c => { c with wait := .guard })

/-- STEP_BEGIN (R60, R237, R238). -/
def execStepBegin (ring : Nat) (clash : Option Word) (s : State) : Answer :=
  .next (dispatchRow 8 1 ring ledgerCheck (stepStart clash) s)

/-- One slot at the push: CONFIG's values come into force, RESET clears, a written slot pushes and rescales; the Bool
says that SCALE could not be formed. -/
def Guard.push (g : Guard) : Guard × Bool :=
  let c := g.config.toNat
  let g1 := { g with margin := fld c 7 5, format := fld c 3 0, config := g.config &&& 0x7FFFFFFF }
  let g2 := if g.config.getLsbD 31 then
      { g1 with count := 0, head := 0, hist := List.replicate 16 0, sat := 0, ufz := 0, conv := 0, samples := 0,
                fails := 0, worst := 0, scale := one32 }
    else g1
  if g.touched then
    let g3 := { g2 with hist := g2.hist.set g2.head g2.amax, head := (g2.head + 1) % 16,
                        count := Nat.min 16 (g2.count + 1), amax := 0, touched := false }
    let r := guardScale (guardH g3) g3.margin g3.format g3.scale
    ({ g3 with scale := r.1 }, r.2)
  else (g2, false)

/-- GUARD_HISTORY_PUSH (R60): once the commands that STEP_BEGIN waits for have ended, every slot of the partition takes
its push. Among the events of the tick, the lowest slot is the one recorded last (Table FMT-18). -/
def execGuardHistoryPush (part : Nat) (s : State) : Answer :=
  match (ledger s part).pushWait with
  | none => .next s
  | some (id, ids) =>
    if s.cmds.any (fun c => ids.contains c.id && c.status.isNone) then .next s
    else
      let slots := ((s.guards.filter (fun e => e.1 / 1024 == part)).map (fun e => e.1 % 1024)).dedup
      let t := slots.foldr (fun i t =>
        let r := (guard t part i).push
        let u := t.modGuard part i (fun _ => r.1)
        if r.2 then u.guardEvent part i 3 else u) s
      .next ((t.modLedger part (fun l => { l with pushWait := none })).finishCmd id)

/-! ### The precision audit (R64, R65) -/

/-- One operand of a segment with its bytes read from memory. -/
def auditStream (s : State) (c : Cmd) (f : Face) (l : Option HodList) : Stream :=
  { list := l.getD {},
    landed := f.runs.foldl (fun m r => (List.range r.2).foldl (fun m i =>
      SMap.set 0 m (fillKey 0 (r.1 + i)) ((s.byte (keyAt s c.part (addrOff (r.1 + i)))).toNat + 1)) m) [] }

/-- An element of the reference: its unquantised source as BF16, or the element itself. -/
def refElem (s : State) (c : Cmd) (st : Stream) (f : Face) (kInner : Bool) (grout i k : Nat) : OpElem :=
  let row := if kInner then i else k
  let col := if kInner then k else i
  if onFly f.list && row < f.rows && col < f.cols then
    { val := bf16.decode (bf16.convert 0 .rne (flySource st 0 f row col)).val }
  else opElem s c st 0 f kInner false grout 0 i k

/-- A recorded factor, except where a guard slot's scale stands for it. -/
def refFactor (c : Cmd) (i : Nat) (r : Rec) (l : Option HodList) : Num :=
  if isTensor r.fmt && !onFly l then c.factor i else .one

/-- The reference tile, accumulated in binary32 from +0 over all of K (log 17). -/
def refVals (s : State) (c : Cmd) (m : Mat) (t : Nat) : List (BitVec 32) :=
  let b := m.bond.bond
  let f := (Num.mul (refFactor c 0 m.a m.listA) (refFactor c 1 m.b m.listB)).val
  let segs := (List.range (liveSegs b c.lens t)).map (fun k =>
    let fa := faceOf m c.lens false t k
    let fb := faceOf m c.lens true t k
    (fa, auditStream s c fa m.listA, fb, auditStream s c fb m.listB))
  (List.range (rowsOf b c.lens t)).flatMap (fun i => (List.range (colsOf b c.lens t)).map (fun j =>
    (segs.foldl (fun (acc : Res F32) g =>
      sweepFp 1 f acc.val ((List.range b.kSeg).map (fun k =>
        (refElem s c g.2.1 g.1 (m.a.layout == 0) b.groutA i k,
         refElem s c g.2.2.2 g.2.2.1 (m.b.layout == 1) b.groutB j k)))) ⟨0, .none⟩).val))

/-- Largest magnitude of a list; a NaN makes the result one. -/
def maxMags (l : List Num) : Num :=
  l.foldl (fun a v => if a.isNan || v.isNan then .nan else Num.maxMag a v) .zero

/-- d of R65. -/
def auditDiff (y r : List (BitVec 32)) : F32 :=
  let diff := maxMags ((y.zip r).map (fun e => (Num.add (F32.num e.1) (F32.num e.2).neg).val))
  let ref := maxMags (r.map F32.num)
  let low : Num := .pow2 (-126)
  let den := if ref.isNan then ref else if ref.lt low then low else ref
  (round32 (Num.div diff den).val).val

/-- d exceeds LIMIT, which acts as 0 when it is negative or a NaN. -/
def auditFails (lim d : F32) : Bool :=
  let l := if lim.num.isNan || lim.num.isNeg then Num.zero else lim.num
  d.num.isNan || l.lt d.num

/-- TILE_AUDIT (R65): a core recomputes the oldest tile that waits for its audit there. -/
def execTileAudit (core : Nat) (s : State) : Answer :=
  match s.audits.find? (fun a => a.core == core) with
  | none => .next s
  | some a =>
    let p := a.cmd.part
    let m := matRun a.cmd
    let d := auditDiff a.vals (refVals s a.cmd m a.tile)
    let bad := auditFails (BitVec.ofNat 32 (s.regFld (qgPage s p) Reg.qgAuditLim 31 0)) d
    let slots := (([m.listA, m.listB].filter onFly).filterMap (fun l => l.map (·.hdr.guard))).dedup
    let t := { s with audits := s.audits.erase a }
    let u := slots.foldl (fun t g => t.modGuard p g (fun x =>
      { x with samples := satAdd 32 x.samples 1, fails := if bad then satAdd 32 x.fails 1 else x.fails
               worst := amaxOf x.worst d })) t
    if bad then .next (slots.reverse.foldl (fun t g => t.guardEvent p g 2) u) else .next u

end Sys2Proof.Machine
end

