-- ==== Sys2Proof/Machine/HbmOps.lean ====
section
/-! DEFINITION. The HBM controllers' checks, spare rows and lanes, channel retirement, heat sensors, and what a channel
can serve now (R168–R191). -/

namespace Sys2Proof.Machine

def hbmPage (st : Nat) : Nat := Blk.hbm.page st
def nmuPage (st : Nat) : Nat := Blk.nmu.page st
def chanPage (ch : Nat) : Nat := Blk.chan.page ch

/-- Granules of a channel (Table HBM-1). -/
def chanGrans : Nat := 524288

/-- Pages whose HEALTH a channel's state shows in. -/
def chanHealthPages (ch : Nat) : List Nat :=
  [hbmPage (ch / 32), nmuPage (ch / 32), Blk.die.page (4 + ch / 32), chanPage ch]

/-- DETAIL1 of an entry that names a channel. -/
def chanDet (ch : Nat) (more : List Nat) : Det := { d1 := ids16 ([ch / 32, ch % 32] ++ more) }

/-! ### Leaving work of a unit that gets no slot (R200) -/

/-- A command loses its part on a home unit: the elements not yet written there stay unwritten, and the command ends
with NMU_SLOT_DENIED once its other units have finished. -/
def State.denyUnit (s : State) (ch id : Nat) : State :=
  let t := s.modChan ch (fun c =>
    { c with
      queue := c.queue.filter (fun g => g.cmd != id)
      commits := c.commits.filter (fun g => g.cmd != id)
      denied := satAdd 16 c.denied 1 })
  let u := ((t.stirGroup ch).noteLate id St.slotDenied).modCmd id (fun c => { c with units := c.units.filter (· != ch) })
  let d3 := match s.cmd? id with
    | some c => (tagDet c).d3
    | none => 0
  let v := u.raise_ (nmuPage (ch / 32)) 0 { (chanDet ch []) with d3 := d3 }
  match v.cmd? id with
  | some c => if c.units.isEmpty then v.finishCmd id else v
  | none => v

/-! ### Channel retirement (R183, R184) -/

/-- A channel that waits for its move or is in it. -/
def retiring (s : State) (p : Nat) : Bool := (chansOf s p).any (fun c => (chan s c).st == 2)

/-- The table for a channel's move, from its first 256 KiB (R268). -/
def moveTable (s : State) (ch : Nat) : List Nat :=
  let bs := (List.range 64).flatMap (fun g => s.bytes (keyOfChan s ch (4096 * g)) 4096)
  (Codec.see {} bs).lens

/-- The move of a channel starts; its near-memory unit retires with it. -/
def State.startMove (s : State) (ch : Nat) : State :=
  let p := partOfChan s ch
  let work := ((chan s ch).queue.map (·.cmd)).dedup
  let t := (s.modChan ch (fun c =>
    { c with st := 2, moved := 0, mode := if c.mode = 0 then 0 else 3, outStart := s.now })).modTier p (fun x =>
      { x with moveTabs := SMap.set [] x.moveTabs ch (moveTable s ch) })
  let u := work.foldl (fun u i => u.denyUnit ch i) t
  s.noteHealth ((u.raise_ (hbmPage (ch / 32)) 3 (chanDet ch [])).countFault (chanPage ch)) (chanHealthPages ch)

/-- A channel is to be retired: recorded in flash, and moved at once unless another channel of the partition is
moving. -/
def State.retireChan (s : State) (ch : Nat) : State :=
  if 2 ≤ (chan s ch).st || s.flash.retiredChans.contains ch then s
  else
    let t := { s with flash := { s.flash with retiredChans := s.flash.retiredChans ++ [ch] } }
    if retiring s (partOfChan s ch) then t else t.startMove ch

/-- The next channel of a partition that waits for its move. -/
def nextRetiree (s : State) (p : Nat) : Option Nat :=
  s.flash.retiredChans.find? (fun c => partOfChan s c == p && decide ((chan s c).st < 2))

/-- The pool has taken what it can: every granule from `g` on reads as poisoned. -/
def State.loseFrom (s : State) (ch g : Nat) : State :=
  let inside (a : Nat) : Bool := keyDom (64 * a) == 0 && chanOfKey s (64 * a) == ch && decide (g ≤ chanOff s (64 * a) / 4096)
  { (s.modChan ch (fun c => { c with lost := some g })) with poison := SMap.dropKeys inside s.poison }

/-- One granule moves (R184, R268): its bytes keep their key, and its run of units is lent in tier 1; a fresh one moves
as its fresh bit only. -/
def State.moveGranule (s : State) (ch : Nat) : State :=
  let c := chan s ch
  let p := partOfChan s ch
  let k := keyOfChan s ch (4096 * c.moved)
  if isFresh s k then s.modChan ch (fun c => { c with moved := c.moved + 1 })
  else
    let e := codeBlock 0 (SMap.get [] (tier s p).moveTabs ch) (s.bytes k 4096)
    let units := ceilDiv (if codes? e then e.length else 4096) 512
    match findUnits s p (if ch < 128 then 0 else 1) units (2 ^ 41) with
    | some (n, u) =>
      let t := s.modTier p (fun x =>
        { x with lent := x.lent ++ [{ chan := ch, gran := c.moved, slab := n, unit := u, count := units }] })
      s.poolLow p (t.modChan ch (fun c => { c with moved := c.moved + 1 }))
    | none => s.loseFrom ch c.moved

/-! ### Corrected errors (R174, R178, R180, R182) -/

def spareFree (c : Chan) (bank : Nat) : Nat := 16 - SMap.get 0 c.spares bank

/-- A row needs a spare: the copy starts, or the channel retires when its bank has none left. One copy runs at a time
(DEDUCED, log 24). -/
def State.startCopy (s : State) (ch bank row : Nat) : State :=
  let c := chan s ch
  if c.copying.isSome then s
  else if spareFree c bank = 0 then s.retireChan ch
  else
    let t := s.modChan ch (fun c => { c with copying := some (bank, row), spares := SMap.modify 0 c.spares bank (· + 1) })
    if spareFree c bank ≤ 3 then t.raise_ (hbmPage (ch / 32)) 5 (chanDet ch [bank]) else t

/-- A row enters the pending list, once. -/
def addPend (l : List PendRow) (bank row : Nat) (ue : Bool) : List PendRow :=
  if l.any (fun x => x.bank == bank && x.row == row) then
    l.map (fun x => if x.bank = bank && x.row = row then { x with ue := x.ue || ue } else x)
  else l ++ [{ bank := bank, row := row, ue := ue }]

/-- Count a corrected error against its row: the table keeps the 64 rows updated last. -/
def State.countRow (s : State) (ch bank row : Nat) : State :=
  let c := chan s ch
  let n := ((c.rows.find? (fun r => r.bank == bank && r.row == row)).elim 0 (·.count)) + 1
  let rows := ({ bank := bank, row := row, count := n } : RowCnt) ::
    c.rows.filter (fun r => !(r.bank == bank && r.row == row))
  let t := s.modChan ch (fun c =>
    { c with rows := rows.take 64, pend := if 2 ≤ n then addPend c.pend bank row false else c.pend })
  if 3 ≤ n then (t.startCopy ch bank row).countFault (chanPage ch) else t

/-- Errors of the last 1 ms in one symbol position, and the banks they lie in. -/
def laneFaulty (errs : List (Nat × Nat × Nat)) (sym : Nat) : Bool :=
  let mine := errs.filter (fun e => e.2.1 == sym)
  decide (64 ≤ mine.length) && decide (4 ≤ (mine.map (fun e => e.2.2)).dedup.length)

/-- R182: a lane fault is declared. -/
def State.laneFault (s : State) (ch sym : Nat) : State :=
  let c := chan s ch
  if 2 ≤ c.lanesUsed then s.retireChan ch
  else
    let t := s.modChan ch (fun c => { c with st := if c.st = 0 then 1 else c.st, badSymbol := some sym, symErr := [] })
    s.noteHealth ((t.countFault (chanPage ch)).raise_ (hbmPage (ch / 32)) 2 (chanDet ch [sym])) (chanHealthPages ch)

/-- A corrected error at a channel offset, in one symbol. Upsets are counted on the channel's page (DEDUCED, log 24). -/
def State.corrected (s : State) (ch co sym : Nat) : State :=
  let t := (s.modChan ch (fun c => { c with ce := satAdd 32 c.ce 1 })).countUpset (chanPage ch)
  if (chan s ch).badSymbol = some sym then t
  else
    let errs := ((chan s ch).symErr.filter (fun e => decide (s.now < e.1 + 1000000))) ++ [(s.now, sym, bankOf co)]
    let u := t.modChan ch (fun c => { c with symErr := errs })
    let v := if laneFaulty errs sym then u.laneFault ch sym else u
    v.countRow ch (bankOf co) (rowOf co)

/-! ### Uncorrectable errors (R175) -/

/-- Count, poison and report an access whose error cannot be corrected. -/
def State.uncorrected (s : State) (ch co : Nat) : State :=
  let k := keyOfChan s ch (co / 64 * 64)
  let t := (s.modChan ch (fun c => { c with ue := satAdd 32 c.ue 1 })).setPoison k true
  (t.countFault (chanPage ch)).raise_ (hbmPage (ch / 32)) 0
    { (chanDet ch [bankOf co, rowOf co]) with d0 := BitVec.ofNat 64 (co / 64 * 64) }

/-- A read finds such an error: its row is marked for the next reset. -/
def State.uncorrectable (s : State) (ch co : Nat) : State :=
  let t := s.modChan ch (fun c => { c with pend := addPend c.pend (bankOf co) (rowOf co) true })
  t.uncorrected ch co

/-- What the check of one access found; on a DEGRADED channel an error in another symbol than the faulty one cannot be
corrected (R182). -/
def State.checkAccess (s : State) (ch co : Nat) (e : Ecc) : State :=
  match e with
  | .clean => s
  | .corrected sym =>
    if (chan s ch).st = 1 && (chan s ch).badSymbol.isSome && (chan s ch).badSymbol != some sym then s.uncorrectable ch co
    else s.corrected ch co sym
  | .uncorrectable => s.uncorrectable ch co

/-- Check the accesses of a read on a channel, from channel offset `co` on; a poisoned one has no code to check. -/
def State.checkReads (s : State) (ch : Nat) : Nat → Nat → List Ecc → State
  | 0, _, _ => s
  | n + 1, co, eccs =>
    let t := if isPoisoned s (keyOfChan s ch (co / 64 * 64)) then s else s.checkAccess ch co (eccs.headD .clean)
    t.checkReads ch n (co / 64 * 64 + 64) eccs.tail

/-! ### What a channel can serve now -/

/-- 64-byte accesses that an extent touches. -/
def accesses (x len : Nat) : Nat := (x % 64 + len + 63) / 64

/-- The granule of a channel offset has moved out of its channel (R184). -/
def hasMoved (c : Chan) (co : Nat) : Bool :=
  c.st == 3 || (c.st == 2 && (decide (co / 4096 < c.moved) || c.lost.any (fun g => decide (g ≤ co / 4096))))

/-- The channel's paced traffic has room for some bytes in the present window (R189). -/
def paceRoom (c : Chan) (bytes : Nat) : Bool := c.share.all (fun n => decide (c.window + bytes ≤ n))

/-- The channel itself can serve an extent at a channel offset now: memory mode (R198), its stack powered (R190), the
row not being copied (R178), the granule not in motion (R184). -/
def chanServes (s : State) (ch co : Nat) : Bool :=
  let c := chan s ch
  c.mode == 0 && !(stack s (ch / 32)).offline && c.copying != some (bankOf co, rowOf co) &&
    !(c.st == 2 && co / 4096 == c.moved)

/-- An earlier access of the same stream to one of the same 64-byte blocks has still to be served (R172). -/
def behind (s : State) (r : Req) : Bool :=
  s.reqs.any (fun q => q.cmd == r.cmd && q.stream == r.stream && decide (q.id < r.id) && !q.served &&
    decide (q.addr / 64 ≤ (r.addr + r.len - 1) / 64) && decide (r.addr / 64 ≤ (q.addr + q.len - 1) / 64))

/-- The HBM key of a request that a channel or the tier manager serves; none for one of the open window. -/
def reqKey (s : State) (r : Req) : Option Nat :=
  match locate s (addrPart r.addr) (addrOff r.addr) with
  | .mem k => if keyDom k = 0 then some k else none
  | .slab _ => none

/-- The key of a request that can be served now, with the bytes that it counts for pacing; `per` is the pacing count of
one access. -/
def serveKey (s : State) (r : Req) (per : Nat) : Option Nat :=
  match reqKey s r with
  | some k =>
    let ch := chanOfKey s k
    let co := chanOff s k
    if r.served || behind s r then none
    else if hasMoved (chan s ch) co then some k
    else if chanServes s ch co && paceRoom (chan s ch) (per * accesses r.addr r.len) then some k else none
  | none => none

/-- Note an access in its channel's pacing window. -/
def State.pace (s : State) (k bytes : Nat) : State :=
  let ch := chanOfKey s k
  if hasMoved (chan s ch) (chanOff s k) then s else s.modChan ch (fun c => { c with window := c.window + bytes })

def State.modReq (s : State) (id : Nat) (f : Req → Req) : State :=
  { s with reqs := s.reqs.map (fun r => if r.id = id then f r else r) }

/-- Read an extent of HBM under a key (R174–R176, R185): the state after the checks, the data, and whether an access of
it is poisoned. A fresh granule and a granule that has moved are not checked. -/
def State.readKey (s : State) (k len : Nat) (eccs : List Ecc) : State × List Byte × Bool :=
  let ch := chanOfKey s k
  let co := chanOff s k
  if isFresh s k && !isLost s k then (s.countFresh k, List.replicate len 0, false)
  else
    let t := if hasMoved (chan s ch) co then s else s.checkReads ch (accesses co len) co eccs
    (t, t.bytes k len, poisoned t k len)

/-- A read-modify-write reads and checks what stands in its accesses (R171, R174, R175, R210). -/
def State.checkRmw (s : State) (k len : Nat) (eccs : List Ecc) : State :=
  let ch := chanOfKey s k
  if isFresh s k || hasMoved (chan s ch) (chanOff s k) then s
  else s.checkReads ch (accesses (chanOff s k) len) (chanOff s k) eccs

/-! ### Heat (R188, R406) -/

/-- Middle of a list of readings, doubled: the mean of the two middle ones of an even number. -/
def median2 (l : List Nat) : Nat :=
  let o := sortUp l
  if o.length % 2 = 1 then 2 * o.getD (o.length / 2) 0 else o.getD (o.length / 2 - 1) 0 + o.getD (o.length / 2) 0

/-- R406: a sensor outside 0 to 150 °C, or more than 10 °C from the median of its die's other sensors. -/
def implausible (r : Nat) (others : List Nat) : Bool :=
  decide (150 < r) || (!others.isEmpty && (decide (median2 others + 20 < 2 * r) || decide (2 * r + 20 < median2 others)))

/-- Sensors in use, as (number, reading). -/
def sensorsIn (excluded : Nat) (readings : List Nat) : List (Nat × Nat) :=
  (readings.zipIdx.map (fun e => (e.2, e.1))).filter (fun e => !excluded.testBit e.1)

/-- Sensors found implausible at a sample, `per` sensors to a die. -/
def newBad (excluded per : Nat) (readings : List Nat) : List Nat :=
  let used := sensorsIn excluded readings
  (used.filter (fun e => implausible e.2
    ((used.filter (fun f => f.1 / per == e.1 / per && f.1 != e.1)).map Prod.snd))).map Prod.fst

/-- Thresholds of Tables HBM-3 and PWR-3 in °C. -/
def heatThreshold (level : Nat) : Nat := 90 + 5 * level

/-- The level that a reading reaches. -/
def heatReach (r : Nat) : Nat := if r < 95 then 0 else Nat.min 4 ((r - 90) / 5)

/-- The level after a sample, and since when the reading has been low (R188). -/
def heatStep (level : Nat) (since : Option Nat) (r now : Nat) : Nat × Option Nat :=
  if level < heatReach r then (heatReach r, none)
  else if level = 0 || heatThreshold level < r + 3 then (level, none)
  else
    match since with
    | none => (level, some now)
    | some t0 =>
      if t0 + 1000000 ≤ now then
        (level - 1, if 1 < level && r + 3 ≤ heatThreshold (level - 1) then some now else none)
      else (level, since)

end Sys2Proof.Machine
end

