-- ==== Sys2Proof/Machine/WinOps.lean ====
section
/-! DEFINITION. Host window accesses (R176, R214, R330–R333). -/

namespace Sys2Proof.Machine

/-- Partition that Xanna assigned to a window (R330). -/
def winPart (s : State) (w : Nat) : Nat := (s.settings.winPart.getD w none).getD (w % s.settings.partitions)

/-- Module address of an offset within a window. -/
def winAddr (s : State) (w off : Nat) : Nat := 65536 * s.regFld 0 (Reg.hstWin + w) 47 16 + off

/-- R331, R332, R372: what fences an access; a partition that does not run its commands answers no access. -/
def winFenced (s : State) (w addr len : Nat) : Bool :=
  let p := winPart s w
  s.regFld 0 (Reg.hstWin + w) 63 63 == 0 || !inRange s p addr len || s.startup.phase != 7 ||
    s.startup.part.getD p 1 != 0 || (sec s p).skim.isSome || (sec s p).overwriting.isSome || (isOpen (addrOff addr) && openFenced s p (addrOff addr))

/-- A fenced access: all-ones bytes for a read, and the count, LAST_WIN and WIN_FENCE. -/
def State.fenceWin (s : State) (w : Nat) (read : Option Nat) : State :=
  let t := ((s.bump 0 Reg.hstErr 63 40 1).setRegFld 0 Reg.hstErr 39 37 w).raise_ 0 1 { d1 := ids16 [w] }
  match read with
  | some len => t.emit (.winData w (List.replicate len 255))
  | none => t

/-- Name of a window access among the accesses outstanding at the open site. -/
def winReq (id : Nat) : Nat := 2 ^ 40 + id

/-- An earlier waiting access goes first (R333). -/
def winBehind (s : State) (a : WinAcc) : Bool :=
  s.pcie.accs.any (fun b => decide (b.id < a.id) && b.data.isSome &&
    (a.data.isSome || (decide (b.addr < a.addr + a.len) && decide (a.addr < b.addr + b.len))))

/-- A read with the poisoned accesses' bytes as ones, and UE for them (R176). -/
def State.winReadKey (s : State) (a : WinAcc) (k : Nat) (eccs : List Ecc) : State :=
  let r := s.readKey k a.len eccs
  let bytes := r.2.1.zipIdx.map (fun e => if isPoisoned r.1 (k + e.2) then (255 : Byte) else e.1)
  let ch := chanOfKey s k
  let t := if r.2.2 then r.1.raise_ (hbmPage (ch / 32)) 0
      { (chanDet ch [bankOf (chanOff s k), rowOf (chanOff s k)]) with d0 := BitVec.ofNat 64 (chanOff s k) } else r.1
  t.emit (.winData a.win bytes)

/-- A write; a part that poison drops raises UE (R176). -/
def State.winWriteKey (s : State) (a : WinAcc) (k : Nat) (bs : List Byte) : State :=
  let r := s.wideAt (addrPart a.addr) (addrOff a.addr) bs
  let ch := chanOfKey s k
  if r.2 then r.1.raise_ (hbmPage (ch / 32)) 0
      { (chanDet ch [bankOf (chanOff s k), rowOf (chanOff s k)]) with d0 := BitVec.ofNat 64 (chanOff s k) } else r.1

/-- Serve an access; none while it has to wait. An access to the open site is sent there and waits for its response;
one to a slab without a copy has the slab fetched. The Bool says that it is done. -/
def State.serveWin (s : State) (a : WinAcc) (eccs : List Ecc) : State × Bool :=
  let p := addrPart a.addr
  let x := addrOff a.addr
  if winBehind s a then (s, false)
  else if isOpen x then
    let k := keyAt s p x
    if a.data.isNone && isFresh s k then (s.emit (.winData a.win (List.replicate a.len 0)), true)
    else if s.site.reqs.any (fun r => r.id == winReq a.id) then (s, false)
    else (s.sendOpen p x (winReq a.id), false)
  else
    match missing s p x a.len with
    | n :: ns => ((n :: ns).foldl (fun t n => t.queueFetch p n 1 none) s, false)
    | [] =>
      let k := keyAt s p x
      let ch := chanOfKey s k
      let co := chanOff s k
      let bytes := 64 * accesses x a.len
      if hasMoved (chan s ch) co || (chanServes s ch co && paceRoom (chan s ch) bytes) then
        let t := (s.pace k bytes).useAt p x
        match a.data with
        | none => (t.winReadKey a k eccs, true)
        | some bs => (t.winWriteKey a k bs, true)
      else (s, false)

/-- Try the waiting accesses in arrival order. -/
def State.flushWins (s : State) : State :=
  s.pcie.accs.foldl (fun t a =>
    let r := t.serveWin a []
    if r.2 then { r.1 with pcie := { r.1.pcie with accs := r.1.pcie.accs.filter (fun b => b.id != a.id) } } else r.1) s

/-- An access arrives: it is fenced, served, or left to wait. While the partition's windows are sealed, they count as
disabled for reads (R383). -/
def State.windowAccess (s : State) (w off len : Nat) (data : Option (List Byte)) (eccs : List Ecc) : State :=
  let addr := winAddr s w off
  let pg := Blk.sec.page (winPart s w)
  if s.pcie.d3hot then s.emit .unsupported
  else if data.isNone && s.regFld pg Reg.secSeal 0 0 == 1 then (s.bump pg Reg.secDenied 31 0 1).fenceWin w (some len)
  else if winFenced s w addr len then s.fenceWin w (if data.isNone then some len else none)
  else
    let a : WinAcc := { id := s.pcie.nextAcc, win := w, addr := addr, len := len, data := data, since := s.now }
    let t := { s with pcie := { s.pcie with nextAcc := s.pcie.nextAcc + 1 } }
    let r := t.serveWin a eccs
    if r.2 then r.1 else { r.1 with pcie := { r.1.pcie with accs := r.1.pcie.accs ++ [a] } }

end Sys2Proof.Machine
end

