-- ==== Sys2Proof/Machine/Hbm.lean ====
section
/-! DEFINITION. The HBM system's commands (R166–R191, R210). -/

namespace Sys2Proof.Machine

def reqOf (s : State) (id : Nat) (kind : ReqKind) (narrow : Option Bool) : Option Req :=
  s.reqs.find? (fun r => r.id == id && r.kind == kind && narrow.all (· == r.narrow))

/-- Count a narrow access at its stack (Table HBM-11). -/
def State.countNarrow (s : State) (r : Req) (k : Nat) : State :=
  if r.narrow then s.modStack (chanOfKey s k / 32) (fun x => { x with narrow := satAdd 64 x.narrow 1 }) else s

/-- Serve a read. -/
def State.serveRead (s : State) (r : Req) (eccs : List Ecc) : State :=
  match serveKey s r 64 with
  | none => s
  | some k =>
    let t := (s.pace k (64 * accesses r.addr r.len)).countNarrow r k
    let d := t.readKey k r.len eccs
    d.1.modReq r.id (fun q => { q with served := true, data := d.2.1, bad := d.2.2 })

/-- HBM_WIDE_READ (R173–R176, R185). -/
def execHbmWideRead (req : Nat) (eccs : List Ecc) (s : State) : Answer :=
  match reqOf s req .read (some false) with
  | some r => .next (s.serveRead r eccs)
  | none => .next s

/-- HBM_NARROW_READ (R170, R171). -/
def execHbmNarrowRead (req : Nat) (eccs : List Ecc) (s : State) : Answer :=
  match reqOf s req .read (some true) with
  | some r => .next (s.serveRead r eccs)
  | none => .next s

/-- HBM_WIDE_WRITE (R176, R186, R257). -/
def execHbmWideWrite (req : Nat) (s : State) : Answer :=
  match reqOf s req .write (some false) with
  | some r =>
    match serveKey s r 64 with
    | some k =>
      let t := s.pace k (64 * accesses r.addr r.len)
      let d := t.wideAt (addrPart r.addr) (addrOff r.addr) r.data
      let u := d.1.noteWrite r.cmd (addrPart r.addr) (addrOff r.addr) r.data.length
      .next (u.modReq req (fun q => { q with served := true, bad := d.2 }))
    | none => .next s
  | none => .next s

/-- HBM_NARROW_WRITE (R171, R176, R186): a read-modify-write of one 64-byte access. -/
def execHbmNarrowWrite (req : Nat) (eccs : List Ecc) (s : State) : Answer :=
  match reqOf s req .write (some true) with
  | some r =>
    match serveKey s r 64 with
    | some k =>
      let t := ((s.pace k 64).countNarrow r k).checkRmw k r.data.length eccs
      let d := t.narrowAt (addrPart r.addr) (addrOff r.addr) r.data
      let u := d.1.noteWrite r.cmd (addrPart r.addr) (addrOff r.addr) r.data.length
      .next (u.modReq req (fun q => { q with served := true, bad := d.2 }))
    | none => .next s
  | none => .next s

/-- The sums of an add-write over some destination bytes, word by word, with their flags (R210, Table FMT-9). -/
def addWords : List Byte → List (Res Num) → List Byte × Flags
  | _, [] => ([], 0)
  | old, v :: vs =>
    let sum := add32 (BitVec.ofNat 32 (leNat (old.take 4))) (round32 v.val).val
    let r := addWords (old.drop 4) vs
    (leBytes 4 sum.val.toNat ++ r.1, sum.fl ||| r.2)

/-- Add-write one extent within a 64-byte access: the state, the flags, and whether poison dropped it. -/
def State.addPart (s : State) (p x : Nat) (vals : List (Res Num)) : State × Flags × Bool :=
  let k := keyAt s p x
  if isPoisoned s k then (s, 0, true)
  else
    let d := addWords (s.bytes k (4 * vals.length)) vals
    ((s.poke k d.1).dirtyAt p x, d.2, false)

/-- Add-write every access of an extent. -/
def State.addAll (s : State) (p x : Nat) (vals : List (Res Num)) : State × Flags × Bool :=
  (cutsOf 64 x (4 * vals.length)).foldl (fun (a : State × Flags × Bool) c =>
    let r := a.1.addPart p c.1 ((vals.drop ((c.1 - x) / 4)).take (c.2 / 4))
    (r.1, a.2.1 ||| r.2.1, a.2.2 || r.2.2)) (s, 0, false)

/-- ADD_WRITE (R210, R211): the channel adds binary32 data into the accesses of a request. -/
def execAddWrite (req : Nat) (eccs : List Ecc) (s : State) : Answer :=
  match reqOf s req .addWrite none with
  | some r =>
    match serveKey s r 128, streamOf s r.cmd r.stream with
    | some k, some (_, st) =>
      let t := ((s.pace k (128 * accesses r.addr r.len)).countNarrow r k).checkRmw k r.len eccs
      let d := t.addAll (addrPart r.addr) (addrOff r.addr) (readElems st.list.hdr.srcFmt (r.len / 4) r.data)
      let u := (d.1.addFlags r.cmd d.2.1).noteWrite r.cmd (addrPart r.addr) (addrOff r.addr) r.len
      .next (u.modReq req (fun q => { q with served := true, bad := d.2.2 }))
    | _, _ => .next s
  | none => .next s

/-- ROW_REMAP_END (R178, R191): the copy ends; `bad` lists the 64-byte accesses of the row, by number, that it could not
correct. -/
def execRowRemapEnd (chan bank row : Nat) (bad : List Nat) (s : State) : Answer :=
  if (Machine.chan s chan).copying = some (bank, row) then
    let t := s.modChan chan (fun c =>
      { c with
        copying := none
        remapped := (c.remapped.filter (· != (bank, row))) ++ [(bank, row)]
        rows := c.rows.filter (fun r => !(r.bank == bank && r.row == row))
        pend := c.pend.filter (fun r => !(r.bank == bank && r.row == row)) })
    let u := (bad.filter (· < 32)).foldl (fun u i => u.uncorrected chan (2 ^ 17 * row + 2 ^ 11 * bank + 64 * i)) t
    let v := u.raise_ (hbmPage (chan / 32)) 1 (chanDet chan [bank, row])
    match (Machine.chan v chan).rows.find? (fun r => decide (3 ≤ r.count)) with
    | some r => .next (v.startCopy chan r.bank r.row).flushWins
    | none => .next v.flushWins
  else .next s

/-- A command's access to a 64-byte access of a channel waits (R191). -/
def wantedBy (s : State) (k : Nat) : Bool :=
  s.reqs.any (fun r => !r.served && (reqKey s r).any (fun q => decide (q / 64 ≤ k / 64) && decide (k / 64 ≤ (q + r.len - 1) / 64)))

/-- SCRUB_READ (R177): patrol scrub checks one access that lies in no fresh granule. -/
def execScrubRead (chan off : Nat) (ecc : Ecc) (s : State) : Answer :=
  let co := off / 64 * 64
  let k := keyOfChan s chan co
  if !chanServes s chan co || hasMoved (Machine.chan s chan) co || isFresh s k || wantedBy s k then .next s
  else
    let t := s.modChan chan (fun c => { c with scrub := (off / 64 + 1) % 33554432 })
    .next (t.checkReads chan 1 co [ecc])

/-- REMAP_FLASH_COPY (R179): the channel's pending rows and its rows in spares go into the flash record. -/
def execRemapFlashCopy (chan : Nat) (s : State) : Answer :=
  let c := Machine.chan s chan
  let rows := c.remapped ++ c.pend.map (fun r => (r.bank, r.row))
  let new := (rows.map (fun r => (chan, r.1, r.2))).filter (fun r => !s.flash.remaps.contains r)
  let t := s.modChan chan (fun c => { c with pend := c.pend.map (fun r => { r with flashed := true }) })
  .next { t with flash := { t.flash with remaps := t.flash.remaps ++ new } }

/-- GRANULE_MOVED (R184): one granule of a RETIRING channel reaches the spare pool. -/
def execGranuleMoved (chan : Nat) (s : State) : Answer :=
  let c := Machine.chan s chan
  if c.st == 2 && c.lost.isNone && decide (c.moved < chanGrans) && !(stack s (chan / 32)).offline && c.mode == 0 then
    .next (s.moveGranule chan).flushWins
  else .next s

/-- CHANNEL_MOVE_END (R184): every granule has moved, or the pool is full; the next retirement may start. -/
def execChannelMoveEnd (chan : Nat) (s : State) : Answer :=
  let c := Machine.chan s chan
  if c.st == 2 && (c.lost.isSome || chanGrans ≤ c.moved) then
    let t := s.modChan chan (fun c => { c with st := 3 })
    let u := s.noteHealth (t.raise_ (hbmPage (chan / 32)) 3 (chanDet chan [])) (chanHealthPages chan)
    match nextRetiree u (partOfChan s chan) with
    | some n => .next (u.startMove n)
    | none => .next u
  else .next s

/-! ### Heat -/

/-- R190: the stack loses its power and its partition is faulted; slots and copies there end at once. -/
def State.tripStack (s : State) (st : Nat) : State :=
  let t := s.modStack st (fun x => { x with offline := true })
  let u := (List.range 32).foldl (fun u i =>
    u.modChan (32 * st + i) (fun c => { c with mode := 0, copying := none, queue := [], commits := [] })) t
  s.noteHealth (u.faultPart (partOfStack s st)) [hbmPage st, nmuPage st, Blk.die.page (4 + st)]

/-- Sensors found implausible leave the sampling, each a recorded fault of the die it feeds (R406). -/
def State.excludeStack (s : State) (st : Nat) (bad : List Nat) : State :=
  bad.foldl (fun t i =>
    ((t.modStack st (fun x => { x with excluded := x.excluded ||| 2 ^ i })).countFault (Blk.die.page (4 + st))).faultEntry
      (partOfStack s st) 4 (Blk.die.page (4 + st)) { d1 := ids16 [4 + st] }) s

/-- A core die of the stack is left with fewer than half of its four sensors: the stack stays at amber (R406). -/
def stackHeld (excluded : Nat) : Bool :=
  (List.range 16).any (fun d => decide (3 ≤ popCount 4 (excluded >>> (4 * d))))

/-- Time since the last sample counts at the level it was spent at (Table HBM-9). -/
def Stack.spend (x : Stack) (now : Nat) : Stack :=
  let us := (now - x.lastSample) / 1000
  { x with
    amberUs := if x.sampled && x.level = 2 then satAdd 32 x.amberUs us else x.amberUs
    redUs := if x.sampled && x.level = 3 then satAdd 32 x.redUs us else x.redUs
    lastSample := now }

/-- Share of a window for a stack's level (R189). -/
def paceShare (level : Nat) : Option Nat := if level = 2 then some 44800 else if level = 3 then some 25600 else none

/-- PACING_WINDOW (R189): a window starts; the level in force at its start sets its share. -/
def execPacingWindow (chan t : Nat) (s : State) : Answer :=
  let s := s.at_ t
  .next ((s.modChan chan (fun c =>
    { c with window := 0, windowStart := s.now, share := paceShare (stack s (chan / 32)).level }))).flushWins

end Sys2Proof.Machine
end

