-- ==== Sys2Proof/Machine/KeyOps.lean ====
section
/-! DEFINITION. Key slots and the KEY commands' operations (R363–R369). -/

namespace Sys2Proof.Machine

def secPage (p : Nat) : Nat := Blk.sec.page p

def keySlot (s : State) (p n : Nat) : KeySlot := SMap.get {} (sec s p).keys n

/-- Load a slot (R364, R369). -/
def State.loadSlot (s : State) (p n : Nat) (id : BitVec 32) (key : BitVec 256) : State :=
  (s.modSec p (fun x => { x with keys := SMap.set {} x.keys n { valid := true, keyId := id, key := key } })).raise_ (secPage p) 1

/-- Empty a slot; an empty one stays so without an event (R369). -/
def State.emptySlot (s : State) (p n : Nat) : State :=
  if (keySlot s p n).valid then
    (s.modSec p (fun x => { x with keys := SMap.set {} x.keys n {} })).raise_ (secPage p) 1
  else s

/-- A skim, an overwrite or scaffold mode of the partition (R372, R429). -/
def unsettled (s : State) (p : Nat) : Bool :=
  s.startup.phase != 7 || s.startup.part.getD p 1 % 2 == 1 || (sec s p).skim.isSome || (sec s p).overwriting.isSome

/-! ### Weight bundles (R365–R368, Tables SEC-7 and SEC-8) -/

def chunkSize : Nat := 65536

/-- A field of the KEY operation. -/
def keyFld (b : CmdBits) (hi lo : Nat) : Nat := fld b.toNat (512 + hi) (512 + lo)
def keySrc (b : CmdBits) : Nat := keyFld b 111 64
def keyDst (b : CmdBits) : Nat := keyFld b 159 112

/-- A field of a 64-byte header, by byte offset. -/
def hdrFld (h : List Byte) (off hi lo : Nat) : Nat := fld (leNat h) (8 * off + hi) (8 * off + lo)
def hdrChunks (h : List Byte) : Nat := hdrFld h 8 31 0
def hdrLength (h : List Byte) : Nat := hdrFld h 16 63 0

/-- The header breaks Table SEC-7. -/
def hdrBad (h : List Byte) : Bool :=
  hdrFld h 0 15 0 != 0xB11D || hdrFld h 0 23 16 != 1 || hdrFld h 0 31 24 != 0 || hdrFld h 8 63 32 != 0 || hdrChunks h == 0 ||
    decide (hdrLength h ≤ (hdrChunks h - 1) * chunkSize) || decide (hdrChunks h * chunkSize < hdrLength h)

def bundleBytes (h : List Byte) : Nat := 64 + 65552 * hdrChunks h
def dstBytes (h : List Byte) : Nat := ceilDiv (hdrLength h) 64 * 64

/-- Fields that break Table SEC-8 for an operation. -/
def keyReserved (b : CmdBits) (op : Nat) : Bool :=
  keyFld b 255 160 != 0 || keyFld b 63 12 != 0 || !payZeroFrom b 32 || (op != 1 && (keySrc b != 0 || keyDst b != 0)) ||
    (op == 2 && keyFld b 11 8 != 0)

/-- An extent that a KEY command may not use: part of it lies in the open window, which takes no such access (R319). -/
def keyOpenWin (a : Nat) : Bool := isOpen (addrOff a)

/-- The check of OPEN at dispatch (R367). -/
def openCheck (s : State) (c : Cmd) : Option Nat :=
  let b := c.bits
  let src := keySrc b
  let h := s.range c.part (addrOff src) 64
  let k := keySlot s c.part (keyFld b 11 8)
  firstOf [
    (keyReserved b 1 || src % 64 != 0 || keyDst b % chunkSize != 0, St.malformed),
    (!inRange s c.part src 64, St.fence),
    (keyOpenWin src || keyOpenWin (keyDst b), St.malformed),
    (poisonedRange s c.part (addrOff src) 64, St.dataPoisoned),
    (hdrBad h, St.malformed),
    (!inRange s c.part src (bundleBytes h) || !inRange s c.part (keyDst b) (dstBytes h), St.fence),
    (!k.valid || k.keyId.toNat != hdrFld h 0 63 32, St.keyAbsent)]

/-- Slabs that OPEN needs before its checks: the header's. -/
def openNeed (s : State) (c : Cmd) : List Nat :=
  if inRange s c.part (keySrc c.bits) 64 && !keyOpenWin (keySrc c.bits) then missing s c.part (addrOff (keySrc c.bits)) 64 else []

/-- The 96-bit IV of a chunk: the 8 stored bytes of NONCE, then the chunk's number, most significant byte first. The first
byte stands in the most significant place. -/
def chunkIv (h : List Byte) (i : Nat) : BitVec 96 :=
  BitVec.ofNat 96 (2 ^ 32 * leNat ((h.drop 24).take 8).reverse + i % 2 ^ 32)

/-- One chunk (R368): its place, its length, and what the module reads and writes for it. -/
def chunkLen (h : List Byte) (i : Nat) : Nat :=
  if i + 1 = hdrChunks h then hdrLength h - (hdrChunks h - 1) * chunkSize else chunkSize

def chunkAt (c : Cmd) (i : Nat) : Nat := addrOff (keySrc c.bits) + 64 + chunkSize * i
def tagAt (c : Cmd) (i : Nat) : Nat := addrOff (keySrc c.bits) + 64 + chunkSize * hdrChunks c.header + 16 * i
def plainAt (c : Cmd) (i : Nat) : Nat := addrOff (keyDst c.bits) + chunkSize * i

/-- Slabs without a copy that a chunk touches. -/
def chunkNeed (s : State) (c : Cmd) (i : Nat) : List Nat :=
  let n := chunkLen c.header i
  (missing s c.part (chunkAt c i) n ++ missing s c.part (tagAt c i) 16 ++
    missing s c.part (plainAt c i) (ceilDiv n 64 * 64)).dedup

/-- Poison every 64-byte access of an extent by offset. -/
def State.poisonAt (s : State) (p x len : Nat) : State :=
  (List.range (ceilDiv len 64)).foldl (fun t i =>
    ((t.dirtyAt p (x + 64 * i)).setPoison (keyAt t p (x + 64 * i)) true).clearFresh (keyAt t p (x + 64 * i))) s

/-- Decrypt one chunk; a tag that fails, or a chunk or tag that reads as poisoned, poisons what the plaintext would have
covered. -/
def State.openChunk (s : State) (c : Cmd) (i : Nat) : State :=
  let n := chunkLen c.header i
  let bad := poisonedRange s c.part (chunkAt c i) n || poisonedRange s c.part (tagAt c i) 16
  let plain := if bad then none else
    Config.gcmOpen c.key (chunkIv c.header i) c.header (s.range c.part (chunkAt c i) n) (s.range c.part (tagAt c i) 16)
  match plain with
  | some bs =>
    let t := (cutsOf 64 (plainAt c i) n).foldl (fun (t : State) (x : Nat × Nat) =>
      (t.wideAt c.part x.1 ((bs.drop (x.1 - plainAt c i)).take x.2)).1) s
    t.modCmd c.id (fun d => { d with chunk := i + 1 })
  | none =>
    (s.poisonAt c.part (plainAt c i) n).modCmd c.id (fun d =>
      { d with
        chunk := i + 1
        result := BitVec.ofNat 64 (2 ^ 32 * (fld d.result.toNat 63 32 + 1) +
          (if fld d.result.toNat 63 32 = 0 then i else fld d.result.toNat 31 0)) })

/-- Chunks in ascending order, as far as their slabs are resident. -/
def State.pumpOpen (s : State) (id : Nat) : Nat → State
  | 0 => s
  | fuel + 1 =>
    match s.cmd? id with
    | none => s
    | some c =>
      if c.status.isSome || c.wait != Wait.none then s
      else if hdrChunks c.header ≤ c.chunk then
        if fld c.result.toNat 63 32 = 0 then s.finishCmd id else s.endCmd id St.dataPoisoned
      else
        match chunkNeed s c c.chunk with
        | [] => ((s.openChunk c c.chunk).cmdProgress c).pumpOpen id fuel
        | need => s.waitSlabs id c.part need

/-- OPENs of a partition that can go on. -/
def State.pumpOpens (s : State) (p : Nat) : State :=
  (s.cmds.filter (fun c => c.part == p && envClass c.bits == 7 && c.checked && !c.header.isEmpty)).foldl
    (fun t c => t.pumpOpen c.id (hdrChunks c.header + 1)) s

/-- OPEN starts: it samples its key and its header (R364, R367). -/
def State.startOpen (s : State) (c : Cmd) : State :=
  let h := s.range c.part (addrOff (keySrc c.bits)) 64
  let k := keySlot s c.part (keyFld c.bits 11 8)
  (s.modCmd c.id (fun d => { d with key := k.key, header := h, chunk := 0, result := 0xFFFFFFFF })).pumpOpen c.id (hdrChunks h + 1)

end Sys2Proof.Machine
end

