-- ==== Sys2Proof/Machine/NarFlit.lean ====
section
/-! DEFINITION. Narar ports: flits, their retry buffer, replays, SLOW, and the loss of wavelengths and ports
(R275–R279, R297). Port 2c is the PREV port of course c and port 2c + 1 its NEXT port (R281). -/

namespace Sys2Proof.Machine

/-- The NAR page of a port's engine, and of a course's. -/
def narPage (q : Nat) : Nat := Blk.nar.page (q / 4)
def coursePage (c : Nat) : Nat := Blk.nar.page (c / 2)

def prevPort (c : Nat) : Nat := 2 * c
def nextPort (c : Nat) : Nat := 2 * c + 1
def outPort (c : Nat) (next : Bool) : Nat := if next then nextPort c else prevPort c

/-! ### Flits (Table NAR-1) -/

def flitFld (f : BitVec 2048) (hi lo : Nat) : Nat := fld f.toNat hi lo

/-- The CRC of a flit: over header bytes 0 to 11, then payload bytes 16 to 255. -/
def flitCrc (f : BitVec 2048) : Nat :=
  (crc32 (leBytes 12 f.toNat ++ leBytes 240 (f.toNat >>> 128))).toNat

/-- FLAGS bits. -/
def flagNak : Nat := 7
def flagSlow : Nat := 6
def flagLast : Nat := 5
def flagCoded : Nat := 4

/-- A flit with its numbers and its CRC. -/
def mkFlit (o : FlitOut) (seq ack : Nat) (slow : Bool) : BitVec 2048 :=
  let hdr := o.typ % 256 + 2 ^ 8 * (o.payload.length % 256) + 2 ^ 16 * (o.flags % 64 + bitIf slow flagSlow) +
    2 ^ 24 * (o.unit % 2 ^ 24) + (if o.typ = 1 then 2 ^ 48 * (o.cseq % 65536) else 0) + 2 ^ 64 * (ack % 65536) + 2 ^ 80 * (seq % 65536)
  let v := hdr + 2 ^ 128 * leNat o.payload
  BitVec.ofNat 2048 (v + 2 ^ 96 * flitCrc (BitVec.ofNat 2048 v))

/-- Some stack of the port's partition is at red (R297). -/
def narSlow (s : State) (q : Nat) : Bool :=
  (stacksOf s (partOfPort s q)).any (fun st => (stack s st).level == 3)

/-- Flits that the retry buffer holds (R277). -/
def retryMax : Nat := 1680

/-- Send waiting flits while the retry buffer has room. -/
def State.pumpPort (s : State) (q : Nat) : Nat → State
  | 0 => s
  | n + 1 =>
    let p := port s q
    match p.waiting with
    | [] => s
    | o :: os =>
      if p.st != 1 || retryMax ≤ p.retry.length then s
      else
        let seq := (p.txSeq + 1) % 65536
        let f := mkFlit o seq p.rxSeq (narSlow s q)
        ((s.modPort q (fun x => { x with waiting := os, txSeq := seq, retry := x.retry ++ [(seq, f)] })).emit
          (.flit q f)).pumpPort q n

/-- Hand flits to a port. -/
def State.sendFlits (s : State) (q : Nat) (fs : List FlitOut) : State :=
  let t := s.modPort q (fun x => { x with waiting := x.waiting ++ fs })
  t.pumpPort q (port t q).waiting.length

/-! ### Replays (R277) -/

/-- Replay every flit after a SEQ; each is an upset. -/
def State.replayAfter (s : State) (q ack : Nat) : State :=
  let n := (port s q).retry.length
  if n = 0 then s
  else
    let t := (s.modPort q (fun x => { x with replays := satAdd 32 x.replays n })).emit (.replay q ack)
    t.bump (Blk.port.page q) Reg.fault 63 32 n

/-- ACK covers the flits of the retry buffer up to its SEQ. -/
def State.takeAck (s : State) (q ack : Nat) : State :=
  if (port s q).retry.any (fun e => e.1 == ack) then
    s.modPort q (fun x => { x with retry := (x.retry.dropWhile (fun e => e.1 != ack)).drop 1 })
  else s

def State.sendNak (s : State) (q : Nat) : State := s.emit (.nak q (port s q).rxSeq)

/-! ### Wavelengths and ports leaving service (R278) -/

def portHealthPages (q : Nat) : List Nat := [Blk.port.page q, narPage q]

def wlCount (w : BitVec 16) : Nat := popCount 16 w.toNat

/-- The port leaves service, recorded in flash. The caller acts on the loss of its link. -/
def State.retirePort (s : State) (q : Nat) : State :=
  let t := s.modPort q (fun x => { x with st := 2, wl := 0, waiting := [], retry := [] })
  let u := { t with flash := { t.flash with retiredPorts := t.flash.retiredPorts ++ [q] } }
  s.noteHealth (u.raise_ (narPage q) 1 { d1 := ids16 [q] }) (portHealthPages q)

/-- A wavelength leaves service on both ends, recorded in flash, and the flits it held are replayed. The Bool says that
the port left service with it. -/
def State.retireWl (s : State) (q w : Nat) : State × Bool :=
  let p := port s q
  if p.st != 1 || !p.wl.getLsbD w then (s, false)
  else
    let bit := (1 : BitVec 16) <<< w
    let t := s.modPort q (fun x =>
      { x with wl := x.wl &&& ~~~bit, retiredWl := x.retiredWl ||| bit, errs := x.errs.filter (fun e => e.2 != w) })
    let u := { t with flash := { t.flash with retiredWls := t.flash.retiredWls ++ [(q, w)] } }
    let ack := match p.retry with
      | e :: _ => (e.1 + 65535) % 65536
      | [] => p.txSeq
    let v := (u.replayAfter q ack).raise_ (narPage q) 0 { d1 := ids16 [q, w] }
    let x := s.noteHealth v (portHealthPages q)
    if wlCount (port x q).wl < 12 then (x.retirePort q, true) else (x, false)

/-- A CRC error on a wavelength; more than 64 within 1 ms retire it. -/
def State.crcError (s : State) (q w : Nat) : State × Bool :=
  let errs := ((port s q).errs.filter (fun e => decide (s.now < e.1 + 1000000))) ++ [(s.now, w)]
  let t := (s.modPort q (fun x => { x with crcErr := satAdd 32 x.crcErr 1, errs := errs })).sendNak q
  if 64 < (errs.filter (fun e => e.2 == w)).length then t.retireWl q w else (t, false)

/-! ### SLOW (R297) -/

/-- Position of the neighbour on a port's course. -/
def neighbourPos (s : State) (q : Nat) : Nat :=
  let c := q / 2
  let m := Nat.max 1 (s.regFld (coursePage c) (Reg.narCourse + c % 2) 57 40)
  if q % 2 = 0 then ((course s c).pos + m - 1) % m else ((course s c).pos + 1) % m

/-- A header with SLOW: its microsecond counts once for the engine, and SLOW_PEER comes at most once a second. -/
def State.takeSlow (s : State) (q : Nat) (slow : Bool) : State :=
  let t := s.modPort q (fun x => { x with slow := slow })
  if !slow then t
  else
    let c := q / 2
    let us := s.now / 1000 + 1
    let pg := narPage q
    let counted := (List.range 4).any (fun k => (port s (q / 4 * 4 + k)).slowUs == us)
    let t1 := if counted then t else t.bump pg Reg.narSlow 63 32 1
    let t2 := (t1.modPort q (fun x => { x with slowUs := us })).setRegFld pg Reg.narSlow 19 0
      (2 ^ 17 * c + neighbourPos s q)
    if (course s c).lastSlow != 0 && s.now + 1 < (course s c).lastSlow + 1000000000 then t2
    else (t2.modCourse c (fun x => { x with lastSlow := s.now + 1 })).raise_ pg 4 { d1 := ids16 [c, neighbourPos s q] }

end Sys2Proof.Machine
end

