-- ==== Sys2Proof/Machine/NmuDesc.lean ====
section
/-! DEFINITION. The near-memory units' descriptor, where its operands lie, and the refusals of an NMU command
(R194, R201–R203, R206, R207, R221, R227, R234, R249, R255, R319). -/

namespace Sys2Proof.Machine

/-! ### The descriptor (Table NMU-4) -/

structure Nd where
  op : Nat := 0
  qrnd : Nat := 0
  qovf : Nat := 0
  inF : Nat := 0
  outF : Nat := 0
  rowLen : Nat := 0
  rows : Nat := 0
  pitch : Nat := 0
  blk : Nat := 0
  guardEn : Bool := false
  guard : Nat := 0
  tensor : Nat := 0
  dst : Nat := 0
  src0 : Nat := 0
  src1 : Nat := 0
  src2 : Nat := 0
  s0 : F32 := 0
  s1 : F32 := 0
  s2 : F32 := 0
  s3 : F32 := 0
deriving DecidableEq, Repr

/-- A field of the 512-bit descriptor. -/
def nFld (b : CmdBits) (hi lo : Nat) : Nat := fld b.toNat (512 + hi) (512 + lo)

def ndOf (b : CmdBits) : Nd :=
  { op := nFld b 7 0, qrnd := nFld b 69 68, qovf := nFld b 71 70, inF := nFld b 75 72, outF := nFld b 79 76,
    rowLen := nFld b 95 80, rows := nFld b 119 96, pitch := nFld b 143 120, blk := nFld b 151 144,
    guardEn := nFld b 157 157 == 1, guard := nFld b 167 158, tensor := nFld b 191 168, dst := nFld b 239 192,
    src0 := nFld b 287 240, src1 := nFld b 335 288, src2 := nFld b 383 336, s0 := BitVec.ofNat 32 (nFld b 415 384),
    s1 := BitVec.ofNat 32 (nFld b 447 416), s2 := BitVec.ofNat 32 (nFld b 479 448), s3 := BitVec.ofNat 32 (nFld b 511 480) }

def Nd.total (n : Nd) : Nat := n.rows * n.rowLen
def Nd.isEw (n : Nd) : Bool := decide (1 ≤ n.op) && decide (n.op ≤ 0x0B)
def Nd.isNorm (n : Nd) : Bool := n.op == 0x10 || n.op == 0x11
def Nd.isOpt (n : Nd) : Bool := n.op == 0x20 || n.op == 0x21 || n.op == 0x22

/-- Sources that are row operands beside SRC0. -/
def Nd.useRow1 (n : Nd) : Bool := n.op == 1 || n.op == 2 || n.op == 3 || n.op == 5 || n.op == 6 || n.op == 7 || n.isOpt
def Nd.useRow2 (n : Nd) : Bool := n.op == 3 || n.op == 0x20

/-- Vector operands (R206). -/
def Nd.vecs (n : Nd) : List Nat := if n.op = 0x10 then [n.src1] else if n.op = 0x11 then [n.src1, n.src2] else []

/-- The format whose scales stand in the array at SRC1, with the operand they belong to (R208). -/
def Nd.scaled (n : Nd) : Option (Nat × Nat) :=
  if n.op = 0x18 && hasScales n.outF then some (n.outF, n.dst)
  else if n.op = 0x19 && hasScales n.inF then some (n.inF, n.src0)
  else none

/-- Row operands: partition address and format. -/
def Nd.rowOps (n : Nd) : List (Nat × Nat) :=
  if n.op = 0x28 then [(n.src0, n.inF)]
  else
    [(n.dst, n.outF), (n.src0, n.inF)] ++ (if n.useRow1 then [(n.src1, n.inF)] else []) ++
      (if n.useRow2 then [(n.src2, n.inF)] else [])

/-! ### Element places (R202, R96) -/

/-- Bit offset of element (r, i) from its operand's base, for `bits` bits an element. -/
def Nd.bitOff (n : Nd) (bits r i : Nat) : Nat :=
  if n.blk = 0 then (r * n.pitch + i) * bits
  else 1048576 * (r / n.blk) + ((r % n.blk) * n.pitch + i) * bits

/-- Bit offset of the element of an index (R45). -/
def Nd.bitAt (n : Nd) (bits e : Nat) : Nat := n.bitOff bits (e / n.rowLen) (e % n.rowLen)

/-- First byte offset of an element, and its bytes. -/
def Nd.byteAt (n : Nd) (bits e : Nat) : Nat := n.bitAt bits e / 8
def Nd.byteLen (n : Nd) (bits e : Nat) : Nat := (n.bitAt bits e % 8 + bits + 7) / 8

/-- Offset of an element's block scale in its array. -/
def Nd.scaleOff (n : Nd) (fmt e : Nat) : Nat :=
  n.bitOff (bitsPer fmt) (e / n.rowLen) (e % n.rowLen / 32 * 32) / 8 / scaleRatio fmt

/-- Bytes from an operand's base to the end of its last element. -/
def Nd.extent (n : Nd) (fmt : Nat) : Nat :=
  let e := n.total - 1
  n.byteAt (bitsPer fmt) e + n.byteLen (bitsPer fmt) e

/-- Bytes of a vector operand's region (R206). -/
def vecRegion (s : State) : Nat := 4096 * 2 ^ chanBits s

/-- Every extent of the command as (module address, bytes). -/
def Nd.extents (s : State) (n : Nd) : List (Nat × Nat) :=
  if n.op = 0x30 then []
  else
    n.rowOps.map (fun o => (o.1, n.extent o.2)) ++ n.vecs.map (fun v => (v, vecRegion s)) ++
      (match n.scaled with
       | some (f, _) => [(n.src1, n.scaleOff f (n.total - 1) + scaleBytes f)]
       | none => [])

/-! ### Refusals with BOND_MALFORMED (R203, R206, R208, R221, R234) -/

def floatFmt (f : Nat) : Bool := f == 1 || f == 2 || f == 3

/-- Rules that the row operations share. -/
def rowFault (n : Nd) : Bool :=
  n.rows == 0 || n.rowLen == 0 || decide (n.pitch < n.rowLen) ||
    (n.blk != 0 && n.rowOps.any (fun o => decide (1048576 < n.blk * n.pitch * bitsPer o.2)))

/-- A format or guard rule of OP 0x01 to 0x19 is broken. -/
def formatFault (s : State) (p : Nat) (n : Nd) : Bool :=
  let tensorFmt := if n.op = 0x18 then n.outF else if n.op = 0x19 then n.inF else 0
  (if n.op = 0x19 then decide (n.inF < 4) || decide (12 < n.inF) else !floatFmt n.inF) ||
    (if n.op = 0x18 then decide (n.outF < 2) || decide (12 < n.outF) else !floatFmt n.outF) ||
    (n.guardEn && (!(tensorFmt == 4 || tensorFmt == 5 || tensorFmt == 10) ||
      guardFmt (guard s p n.guard) != tensorFmt)) ||
    (n.scaled.isSome && n.pitch % 32 != 0)

/-- A vector operand breaks R206. -/
def vecFault (s : State) (n : Nd) : Bool :=
  n.vecs.any (fun v => v % vecRegion s != 0) ||
    (!n.vecs.isEmpty && decide (1048576 < n.rowLen * bitsPer n.inF))

/-- An address that the operation does not use is nonzero. -/
def unusedFault (n : Nd) : Bool :=
  (n.src1 != 0 && !n.useRow1 && n.vecs.isEmpty && n.scaled.isNone) ||
    (n.src2 != 0 && !n.useRow2 && n.op != 0x11)

def stampsOn (s : State) (p : Nat) : Bool := s.regFld (Blk.trn.page (firstDie s p)) Reg.trnStampBase 0 0 == 1
def stampBase (s : State) (p : Nat) : Nat := s.regFld (Blk.trn.page (firstDie s p)) Reg.trnStampBase 47 6 * 64

/-- R221, beside R203. -/
def optFault (s : State) (p : Nat) (n : Nd) : Bool :=
  n.guardEn || decide (16 ≤ n.guard) || !(n.outF == 1 || n.outF == 2) || n.inF != n.outF ||
    (n.outF == 1 && (n.qrnd != 0 || n.qovf != 0)) ||
    (n.op == 0x20 && n.src2 == 0) || (n.op != 0x20 && (n.src2 != 0 || n.s2 != 0 || n.s3 != 0)) ||
    n.blk != 0 || n.pitch != n.rowLen ||
    (stampsOn s p && (n.dst % 65536 != 0 || n.total * bitsPer n.outF % 524288 != 0))

/-- R234: the fields of a PLUMB. -/
def plumbFault (b : CmdBits) (n : Nd) : Bool :=
  n.inF != 2 || n.rowLen != 32768 || n.pitch != 32768 || n.rows == 0 || n.src0 % 65536 != 0 ||
    nFld b 511 288 != 0 || nFld b 239 144 != 0 || nFld b 79 76 != 0 || nFld b 71 8 != 0

def nmuMalformed (s : State) (p : Nat) (b : CmdBits) : Bool :=
  let n := ndOf b
  !payZeroFrom b 64 ||
    (if n.op = 0x30 then nFld b 511 8 != 0
     else if n.op = 0x28 then plumbFault b n
     else
      n.qrnd == 2 || n.qrnd == 3 || n.qovf == 3 || nFld b 156 152 != 0 || nFld b 67 8 != 0 || rowFault n || unusedFault n ||
        (if n.isOpt then optFault s p n else formatFault s p n || vecFault s n))

/-! ### Stamp records named (R227) -/

/-- Slabs that an optimiser command's DST covers. -/
def Nd.dstSlabs (n : Nd) : List Nat :=
  let x := addrOff n.dst
  (List.range ((x + n.extent n.outF - 1) / 65536 + 1 - x / 65536)).map (· + x / 65536)

/-- Module addresses of their stamp records while stamps are on. -/
def stampAddrs (s : State) (p : Nat) (n : Nd) : List Nat :=
  if n.isOpt && stampsOn s p then n.dstSlabs.map (fun k => stampBase s p + 8 * k) else []

def nmuFenced (s : State) (p : Nat) (n : Nd) : Bool :=
  (n.extents s).any (fun e => !inRange s p e.1 e.2) || (stampAddrs s p n).any (fun a => !inRange s p a 8)

/-! ### Slabs named (R255) -/

/-- Tier-1-homed slabs of the bytes from a partition offset on. -/
def tierSlabs (s : State) (p x len : Nat) : List Nat :=
  if len = 0 then []
  else ((List.range ((x + len - 1) / 65536 + 1 - x / 65536)).map (· + x / 65536)).filter
    (fun k => isTier1 s p (65536 * k))

/-- Tier-1-homed slabs that the command names: those of its rows, vectors, scales and stamp records. -/
def nmuSlabs (s : State) (p : Nat) (n : Nd) : List Nat :=
  if n.op = 0x30 then []
  else
    let row (o : Nat × Nat) (r : Nat) : List Nat :=
      let x := n.bitOff (bitsPer o.2) r 0 / 8
      tierSlabs s p (addrOff o.1 + x) ((n.bitOff (bitsPer o.2) r (n.rowLen - 1) + bitsPer o.2 + 7) / 8 - x)
    ((n.rowOps.flatMap (fun o => (List.range n.rows).flatMap (row o))) ++
      (n.vecs.flatMap (fun v => tierSlabs s p (addrOff v) (vecRegion s))) ++
      (match n.scaled with
       | some (f, _) => tierSlabs s p (addrOff n.src1) (n.scaleOff f (n.total - 1) + scaleBytes f)
       | none => []) ++
      (stampAddrs s p n).flatMap (fun a => tierSlabs s p (addrOff a) 8)).dedup

/-- Frames of each colour of the tier cache (R252). -/
def framesPerColour (s : State) (p : Nat) : Nat := shareOf s p * 64

/-- R255: more slabs of one colour than that colour has frames. -/
def nmuOverfull (s : State) (p : Nat) (slabs : List Nat) : Bool :=
  slabs.any (fun k =>
    let c := colourOf s (65536 * k)
    decide (framesPerColour s p < (slabs.filter (fun j => colourOf s (65536 * j) == c)).length))

/-! ### Placement (R194) -/

/-- Partition stack of a partition offset. -/
def stackAt (s : State) (x : Nat) : Nat := (place s x).1 / 32

/-- The module channel whose unit is home to an offset. -/
def homeAt (s : State) (p x : Nat) : Nat := moduleChan s p (place s x).1

/-- First and last byte offsets of an element in an operand. -/
def Nd.ends (n : Nd) (base fmt e : Nat) : List Nat :=
  let x := addrOff base + n.byteAt (bitsPer fmt) e
  [x, x + n.byteLen (bitsPer fmt) e - 1]

/-- The offsets of an element's bytes that must lie in one stack. -/
def Nd.touches (n : Nd) (e : Nat) : List Nat :=
  n.rowOps.flatMap (fun o => n.ends o.1 o.2 e) ++
    (match n.scaled with
     | some (f, _) =>
       let x := addrOff n.src1 + n.scaleOff f e
       [x, x + scaleBytes f - 1]
     | none => [])

/-- A row of an operand lies within one block of `len` bytes. -/
def Nd.rowWithin (n : Nd) (len r : Nat) (o : Nat × Nat) : Bool :=
  let b := bitsPer o.2
  let x := addrOff o.1 + n.bitOff b r 0 / 8
  let y := addrOff o.1 + (n.bitOff b r (n.rowLen - 1) + b - 1) / 8
  x / len == y / len

def nmuMisplaced (s : State) (p : Nat) (n : Nd) : Bool :=
  if n.op = 0x30 then false
  else
    (n.extents s).any (fun e => isOpen (addrOff e.1)) || (stampAddrs s p n).any (fun a => isOpen (addrOff a)) ||
      (n.op != 0x28 &&
        (!(List.range n.total).all (fun e => (n.touches e).all (fun x =>
            stackAt s x == stackAt s (addrOff n.dst + n.byteAt (bitsPer n.outF) e))) ||
          (n.isNorm && !(List.range n.rows).all (fun r => n.rowOps.all (n.rowWithin 131072 r))) ||
          (n.op == 0x12 && !(List.range n.rows).all (fun r => n.rowOps.all (n.rowWithin 4096 r)))))

/-- The operand whose bytes place the work: DST, or PLUMB's range. -/
def Nd.homeOp (n : Nd) : Nat × Nat := if n.op = 0x28 then (n.src0, n.inF) else (n.dst, n.outF)

/-- Home unit of an element. -/
def nmuHome (s : State) (p : Nat) (n : Nd) (e : Nat) : Nat :=
  homeAt s p (addrOff n.homeOp.1 + n.byteAt (bitsPer n.homeOp.2) e)

/-- Home units of a command, as module channels. -/
def nmuHomes (s : State) (p : Nat) (n : Nd) : List Nat :=
  if n.op = 0x30 then []
  else
    ((List.range n.rows).flatMap (fun r =>
      let b := bitsPer n.homeOp.2
      let x := addrOff n.homeOp.1 + n.bitOff b r 0 / 8
      (cutsOf 4096 x (addrOff n.homeOp.1 + n.bitOff b r (n.rowLen - 1) / 8 + 1 - x)).map (fun c => homeAt s p c.1))).dedup

end Sys2Proof.Machine
end

