-- ==== Sys2Proof/Machine/NmuMath.lean ====
section
/-! DEFINITION. What the near-memory units compute: element-wise operations, norms, softmax, conversions and optimiser
updates (R204–R208, R222–R225, Tables NMU-5, FMT-9, TRN-3). -/

namespace Sys2Proof.Machine

/-! ### Reading -/

/-- The code of an element whose first bit lies at a bit offset from a base offset. -/
def State.codeAt (s : State) (p base bit bits : Nat) : Nat :=
  fld (s.num p (base + bit / 8) ((bit % 8 + bits + 7) / 8)) (bit % 8 + bits - 1) (bit % 8)

/-- An element of a row operand, exactly, with what reading its code raises. -/
def Nd.elem (s : State) (p : Nat) (n : Nd) (base fmt e : Nat) : Res Num :=
  elemNum fmt (s.codeAt p (addrOff base) (n.bitAt (bitsPer fmt) e) (bitsPer fmt))

/-- A source element as binary32 (R204 step 1, R222). -/
def Nd.src (s : State) (p : Nat) (n : Nd) (base e : Nat) : F32 := (round32 (n.elem s p base n.inF e).val).val

/-- Element i of the copy of a vector in the stack of an offset (R206). -/
def Nd.vec (s : State) (p : Nat) (n : Nd) (v dstOff i : Nat) : F32 :=
  let j := ((List.range (2 * diesPer s)).find? (fun j => stackAt s (addrOff v + 131072 * j) == stackAt s dstOff)).getD 0
  let b := bitsPer n.inF
  (round32 (elemNum n.inF (s.codeAt p (addrOff v + 131072 * j) (i * b) b)).val).val

/-! ### Element-wise (R204) -/

def ewOp (n : Nd) (x y z : F32) : Res F32 :=
  match n.op with
  | 0x01 => add32 x y
  | 0x02 => mul32 x y
  | 0x03 => fma32 x y z
  | 0x04 => fma32 n.s0 x n.s1
  | 0x05 => div32 x y
  | 0x06 => max32 x y
  | 0x07 => min32 x y
  | 0x08 => rsqrt32 x
  | 0x09 => exp32 x
  | 0x0A => gelu32 x
  | _ => silu32 x

/-- What a command converts its results with. -/
def Nd.quant (n : Nd) (c : Cmd) (tensor : Nat) (scale : Num) : Quant :=
  { fmt := n.outF, ovf := n.qovf, stoch := n.qrnd == 1, seed := c.seed, step := c.step, tensor := tensor % 2 ^ 24,
    scale := scale }

/-- A binary32 result converted once to OUT_FMT: its code and all flags. -/
def Nd.put (n : Nd) (c : Cmd) (tensor e : Nat) (r : Res F32) : Res Nat :=
  let o := (n.quant c tensor .one).one { val := r.val.num, idx := e }
  ⟨o.codes.headD 0, r.fl ||| o.fl⟩

/-! ### QUANT and DEQUANT (R208) -/

/-- The scale of a per-tensor QUANT or DEQUANT: the slot's, or S0; 1 for a format without one. -/
def Nd.tensorScale (s : State) (n : Nd) (c : Cmd) (fmt : Nat) : Num :=
  if !isTensor fmt then .one else if n.guardEn then (slotScale s c.part c.scales n.guard).num else n.s0.num

/-- QUANT of one block of a row, from element `32 b` of row r on. -/
def Nd.quantBlk (s : State) (n : Nd) (c : Cmd) (r b : Nat) : QOut :=
  (n.quant c n.tensor .one).block (((List.range 32).filter (fun j => decide (32 * b + j < n.rowLen))).map (fun j =>
    let e := r * n.rowLen + 32 * b + j
    { val := (n.elem s c.part n.src0 n.inF e).val, idx := e }))

/-- QUANT of one element: its code, flags and counts. -/
def Nd.quantElem (s : State) (n : Nd) (c : Cmd) (e : Nat) : QOut :=
  if hasScales n.outF then
    let o := n.quantBlk s c (e / n.rowLen) (e % n.rowLen / 32)
    { codes := [o.codes.getD (e % n.rowLen % 32) 0], fl := o.fl }
  else (n.quant c n.tensor (n.tensorScale s c n.outF)).one { val := (n.elem s c.part n.src0 n.inF e).val, idx := e }

/-- DEQUANT of one element: the exact quotient or product, rounded once. -/
def Nd.dequantElem (s : State) (n : Nd) (c : Cmd) (e : Nat) : Res Nat :=
  let v := n.elem s c.part n.src0 n.inF e
  let x : Res Num :=
    if hasScales n.inF then
      Num.mul v.val (scaleNum n.inF (s.num c.part (addrOff n.src1 + n.scaleOff n.inF e) (scaleBytes n.inF)))
    else Num.div v.val (n.tensorScale s c n.inF)
  let o := (n.quant c n.tensor .one).one { val := x.val, idx := e }
  ⟨o.codes.headD 0, v.fl ||| x.fl ||| o.fl⟩

/-! ### Norms (R205, R206) -/

/-- Combine a list in a pairwise tree. -/
def treeSum {α : Type} (f : α → α → α) : Nat → List α → List α
  | 0, l => l
  | n + 1, l =>
    let rec pairs : List α → List α
      | a :: b :: xs => f a b :: pairs xs
      | l => l
    treeSum f n (pairs l)

/-- Elements of a row by home unit, units in channel order: indices i. -/
def Nd.rowUnits (s : State) (p : Nat) (n : Nd) (r : Nat) : List (List Nat) :=
  let is := List.range n.rowLen
  let home (i : Nat) : Nat := nmuHome s p n (r * n.rowLen + i)
  (sortUp ((is.map home).dedup)).map (fun u => is.filter (fun i => home i == u))

/-- Lanes of one unit: lane l takes the elements i with i mod 64 = l, in ascending i. -/
def lanesOf (is : List Nat) : List (List Nat) := (List.range 64).map (fun l => is.filter (fun i => i % 64 == l))

/-- Partials over lanes, then units, in the order of R205. -/
def chainTotal {α : Type} (zero : α) (f : α → α → α) (units : List (List α)) : α :=
  match units.map (fun lanes => (treeSum f 6 lanes).headD zero) with
  | [] => zero
  | u :: us => us.foldl f u

def addRes (a b : Res F32) : Res F32 :=
  let r := add32 a.val b.val
  ⟨r.val, a.fl ||| b.fl ||| r.fl⟩

/-- Row sum of squares of RMSNORM. -/
def rmsSum (s : State) (p : Nat) (n : Nd) (r : Nat) : Res F32 :=
  let lane (is : List Nat) : Res F32 := is.foldl (fun q i =>
    let x := n.src s p n.src0 (r * n.rowLen + i)
    let f := fma32 x x q.val
    ⟨f.val, q.fl ||| f.fl⟩) ⟨0, 0⟩
  chainTotal ⟨0, 0⟩ addRes ((n.rowUnits s p r).map (fun u => (lanesOf u).map lane))

/-- A LAYERNORM partial: count, mean, sum of squared deviations, and the flags so far. -/
structure Welford where
  n : Nat := 0
  mu : F32 := 0
  m : F32 := 0
  fl : Flags := 0
deriving DecidableEq, Repr

/-- One element into a lane. -/
def Welford.step (w : Welford) (x : F32) : Welford :=
  let n := w.n + 1
  let d := sub32 x w.mu
  let q := div32 d.val (natF32 n)
  let mu := add32 w.mu q.val
  let e := sub32 x mu.val
  let pr := mul32 d.val e.val
  let m := add32 w.m pr.val
  { n := n, mu := mu.val, m := m.val, fl := w.fl ||| orFlags [d.fl, q.fl, mu.fl, e.fl, pr.fl, m.fl] }

/-- Partials a and b combined, a named first. -/
def Welford.join (a b : Welford) : Welford :=
  if b.n = 0 then { a with fl := a.fl ||| b.fl }
  else if a.n = 0 then { b with fl := a.fl ||| b.fl }
  else
    let n := a.n + b.n
    let d := sub32 b.mu a.mu
    let w := div32 (natF32 b.n) (natF32 n)
    let dw := mul32 d.val w.val
    let mu := add32 a.mu dw.val
    let p := mul32 (natF32 a.n) (natF32 b.n)
    let dd := mul32 d.val d.val
    let q := mul32 dd.val p.val
    let ms := add32 a.m b.m
    let qn := div32 q.val (natF32 n)
    let m := add32 ms.val qn.val
    { n := n, mu := mu.val, m := m.val,
      fl := a.fl ||| b.fl ||| orFlags [d.fl, w.fl, dw.fl, mu.fl, p.fl, dd.fl, q.fl, ms.fl, qn.fl, m.fl] }

def layerStat (s : State) (p : Nat) (n : Nd) (r : Nat) : Welford :=
  let lane (is : List Nat) : Welford :=
    is.foldl (fun w i => w.step (n.src s p n.src0 (r * n.rowLen + i))) {}
  chainTotal {} Welford.join ((n.rowUnits s p r).map (fun u => (lanesOf u).map lane))

/-- ρ from a sum. -/
def rhoOf (n : Nd) (sum : F32) : Res F32 :=
  let a := div32 sum (natF32 n.rowLen)
  let b := add32 a.val n.s0
  let r := rsqrt32 b.val
  ⟨r.val, orFlags [a.fl, b.fl, r.fl]⟩

/-- Statistics of a row: [ρ] for RMSNORM, [ρ, μ] for LAYERNORM. -/
def rowStat (s : State) (p : Nat) (n : Nd) (r : Nat) : List F32 × Flags :=
  if n.op = 0x10 then
    let q := rmsSum s p n r
    let rho := rhoOf n q.val
    ([rho.val], q.fl ||| rho.fl)
  else
    let w := layerStat s p n r
    let rho := rhoOf n w.m
    ([rho.val, w.mu], w.fl ||| rho.fl)

/-- Pass 2 of one element. -/
def normElem (s : State) (p : Nat) (n : Nd) (stat : List F32) (e : Nat) : Res F32 :=
  let x := n.src s p n.src0 e
  let i := e % n.rowLen
  let dstOff := addrOff n.dst + n.byteAt (bitsPer n.outF) e
  let g := n.vec s p n.src1 dstOff i
  let rho := stat.getD 0 0
  if n.op = 0x10 then
    let a := mul32 x rho
    let y := mul32 a.val g
    ⟨y.val, a.fl ||| y.fl⟩
  else
    let d := sub32 x (stat.getD 1 0)
    let a := mul32 d.val rho
    let b := mul32 a.val g
    let y := add32 b.val (n.vec s p n.src2 dstOff i)
    ⟨y.val, orFlags [d.fl, a.fl, b.fl, y.fl]⟩

/-! ### Softmax (R57, R207) -/

/-- A softmax row: its results in binary32, and the flags. -/
def softmaxRow (n : Nd) (xs : List F32) : List F32 × Flags :=
  let zs := xs.map (mul32 n.s0)
  let zf := orFlags (zs.map Res.fl)
  let vs := zs.map Res.val
  if vs.any (fun z => z.num.isNan) then (vs.map (fun _ => nan32), zf)
  else if vs.any (· == 0x7F800000) then (vs.map (fun _ => nan32), zf ||| .nv)
  else if vs.all (· == 0xFF800000) then (vs.map (fun _ => 0), zf)
  else
    let m := vs.foldl (fun a z => (max32 a z).val) 0xFF800000
    let ds := vs.map (fun z => sub32 z m)
    let es := ds.map (fun d => exp32 d.val)
    let sum := es.foldl (fun (a : Res F32) e =>
      let t := add32 a.val e.val
      ⟨t.val, a.fl ||| t.fl⟩) ⟨0, 0⟩
    let ys := es.map (fun e => div32 e.val sum.val)
    (ys.map Res.val, zf ||| sum.fl ||| orFlags (ds.map Res.fl) ||| orFlags (es.map Res.fl) ||| orFlags (ys.map Res.fl))

/-! ### Optimiser updates (R222–R225, Table TRN-3) -/

/-- The new values of one element; none when R224 leaves it unchanged. -/
structure Update where
  w : Nat := 0
  m : Nat := 0
  v : Nat := 0
  fl : Flags := 0
deriving DecidableEq, Repr

/-- The update of element e of an optimiser command; `c.hp` holds B1 OMB1 B2 OMB2 EPS DECAY CTL (R220). -/
def optElem (s : State) (n : Nd) (c : Cmd) (e : Nat) : Option Update :=
  let rd (base : Nat) : F32 := n.src s c.part base e
  let w := rd n.dst
  let mOld := rd n.src1
  let h (i : Nat) : F32 := c.hp.getD i 0
  let g := mul32 n.s1 (rd n.src0)
  if (h 6).getLsbD 1 && !g.val.num.isFinite then none
  else
    let og := mul32 (h 1) g.val
    let steps : F32 × Option F32 × F32 × Flags :=
      if n.op = 0x20 then
        let m := fma32 (h 0) mOld og.val
        let gg := mul32 g.val g.val
        let ogg := mul32 (h 3) gg.val
        let v := fma32 (h 2) (rd n.src2) ogg.val
        let num := mul32 m.val n.s2
        let vc := mul32 v.val n.s3
        let rt := sqrt32 vc.val
        let den := add32 rt.val (h 4)
        let u := div32 num.val den.val
        (m.val, some v.val, u.val, orFlags [og.fl, m.fl, gg.fl, ogg.fl, v.fl, num.fl, vc.fl, rt.fl, den.fl, u.fl])
      else if n.op = 0x21 then
        let cc := fma32 (h 0) mOld og.val
        let og2 := mul32 (h 3) g.val
        let m := fma32 (h 2) mOld og2.val
        (m.val, none, sign32 cc.val, orFlags [og.fl, cc.fl, og2.fl, m.fl])
      else
        let m := fma32 (h 0) mOld g.val
        let u : Res F32 := if (h 6).getLsbD 0 then fma32 (h 0) m.val g.val else ⟨m.val, 0⟩
        (m.val, none, u.val, m.fl ||| u.fl)
    let dec := fma32 (h 5) w steps.2.2.1
    let w' := fma32 (neg32 n.s0) dec.val w
    let pw := n.put c n.tensor e ⟨w'.val, 0⟩
    let pm := n.put c (n.tensor + 1) e ⟨steps.1, 0⟩
    let pv : Res Nat := match steps.2.1 with
      | some v => n.put c (n.tensor + 2) e ⟨v, 0⟩
      | none => ⟨0, 0⟩
    some { w := pw.val, m := pm.val, v := pv.val,
           fl := orFlags [g.fl, steps.2.2.2, dec.fl, w'.fl, pw.fl, pm.fl, pv.fl] }

end Sys2Proof.Machine
end

