-- ==== Sys2Proof/Machine/NmuRun.lean ====
section
/-! DEFINITION. How a near-memory unit works through its queue in processor mode: 64-byte DST accesses, row statistics,
granules of an optimiser, digests (R195, R199, R205–R209, R216, R224, R228, R229, R234). -/

namespace Sys2Proof.Machine

/-! ### Segments -/

/-- Segments of a command on every unit, by channel. -/
def segsOf (s : State) (id : Nat) : List (Nat × Seg) :=
  s.chans.flatMap (fun e => (e.2.queue.filter (fun g => g.cmd == id)).map (fun g => (e.1, g)))

def State.modSeg (s : State) (ch id : Nat) (f : Seg → Seg) : State :=
  s.modChan ch (fun c => { c with queue := c.queue.map (fun g => if g.cmd = id then f g else g) })

/-- The unit has finished its part; with the last unit the command ends (R199). -/
def State.finishSeg (s : State) (ch id : Nat) : State :=
  let t := s.modChan ch (fun c => { c with queue := c.queue.filter (fun g => g.cmd != id) })
  let u := t.modCmd id (fun c => { c with units := c.units.filter (· != ch) })
  match u.cmd? id with
  | some c => if c.units.isEmpty then u.finishCmd id else u
  | none => u

/-- The next element from e on whose home is the unit. -/
def nextElem (s : State) (p : Nat) (n : Nd) (ch : Nat) : Nat → Nat → Option Nat
  | 0, _ => none
  | k + 1, e =>
    if n.total ≤ e then none
    else if nmuHome s p n e = ch then some e
    else nextElem s p n ch k (e + 1)

/-- Elements of one DST access from e on: all whose first DST byte lies in it. -/
def accessGroup (n : Nd) (e : Nat) : List Nat :=
  let b := bitsPer n.outF
  let at_ (x : Nat) : Nat := (addrOff n.dst + n.byteAt b x) / 64
  (((List.range (512 / b + 1)).map (e + ·)).filter (· < n.total)).takeWhile (fun x => at_ x == at_ e)

/-! ### Sources (R195, R209, R216) -/

/-- Source extents of some elements as (offset, bytes): row sources, the scales that DEQUANT reads, vectors. -/
def Nd.srcBytes (s : State) (n : Nd) (es : List Nat) : List (Nat × Nat) :=
  let rows := if n.isOpt then n.rowOps else n.rowOps.drop 1
  let block (e : Nat) : List Nat :=
    if n.op = 0x18 && hasScales n.outF then
      (List.range (Nat.min 32 (n.rowLen - e % n.rowLen / 32 * 32))).map (e / n.rowLen * n.rowLen + e % n.rowLen / 32 * 32 + ·)
    else [e]
  let all := (es.flatMap block).dedup
  rows.flatMap (fun o => all.map (fun e => (addrOff o.1 + n.byteAt (bitsPer o.2) e, n.byteLen (bitsPer o.2) e))) ++
    (if n.op = 0x19 && hasScales n.inF then es.map (fun e => (addrOff n.src1 + n.scaleOff n.inF e, scaleBytes n.inF)) else []) ++
    n.vecs.flatMap (fun v => es.flatMap (fun e =>
      let d := addrOff n.dst + n.byteAt (bitsPer n.outF) e
      let j := ((List.range (2 * diesPer s)).find? (fun j => stackAt s (addrOff v + 131072 * j) == stackAt s d)).getD 0
      [(addrOff v + 131072 * j + (e % n.rowLen) * bitsPer n.inF / 8, bitsPer n.inF / 8)]))

/-- Granules of some extents. -/
def granulesOf (xs : List (Nat × Nat)) : List Nat :=
  (xs.flatMap (fun x => (cutsOf 4096 x.1 x.2).map (fun c => c.1 / 4096))).dedup

/-- An operand has still to wait for earlier work of the unit that it comes from over the chain (R209). -/
def chainHeld (s : State) (p id ch : Nat) (grs : List Nat) : Bool :=
  grs.any (fun g =>
    let v := homeAt s p (4096 * g)
    v != ch && (chan s v).queue.any (fun q => decide (q.cmd < id)))

/-- Some source is poisoned. -/
def srcPoisoned (s : State) (p : Nat) (xs : List (Nat × Nat)) : Bool := xs.any (fun x => poisonedRange s p x.1 x.2)

/-- A unit reads some extents: the errors that the slot holds for their accesses are met now, each once, before anything
else of the group (R174, R175, R216). -/
def State.meet (s : State) (ch p : Nat) (xs : List (Nat × Nat)) : State :=
  if (chan s ch).errs.isEmpty then s
  else
    let hit (a : Nat) : Bool := xs.any (fun x => decide (0 < x.2) && decide (modAddr p x.1 / 64 ≤ a) && decide (a ≤ modAddr p (x.1 + x.2 - 1) / 64))
    let mine := (chan s ch).errs.filter (fun e => hit e.1)
    mine.foldl (fun t e =>
      let k := keyAt t p (addrOff (64 * e.1))
      if keyDom k != 0 || isFresh t k || isPoisoned t k || hasMoved (chan t (chanOfKey t k)) (chanOff t k) then t
      else t.checkAccess (chanOfKey t k) (chanOff t k) e.2)
      (s.modChan ch (fun c => { c with errs := c.errs.filter (fun e => !hit e.1) }))

/-- Count fresh reads, and the granules that came over the chain and that the element before did not bring
(DEDUCED, log 25). -/
def State.noteSources (s : State) (p ch : Nat) (n : Nd) (es : List Nat) (xs : List (Nat × Nat)) : State :=
  let e0 := es.headD 0
  let before_ := if e0 = 0 || nmuHome s p n (e0 - 1) != ch then [] else granulesOf (n.srcBytes s [e0 - 1])
  let moved := (granulesOf xs).filter (fun g => homeAt s p (4096 * g) != ch && !before_.contains g)
  let t := (granulesOf xs).foldl (fun t g => t.countFresh (keyAt t p (4096 * g))) s
  if moved.isEmpty then t else t.modChan ch (fun c => { c with chain := satAdd 32 c.chain moved.length })

/-! ### Writing -/

/-- A run of codes of one width from a bit offset on. -/
structure CodeRun where
  bit : Nat := 0
  codes : List Nat := []
deriving DecidableEq, Repr

/-- Join codes that stand side by side. -/
def joinRuns (bits : Nat) (l : List (Nat × Nat)) : List CodeRun :=
  l.foldr (fun x acc =>
    match acc with
    | r :: rs => if x.1 + bits = r.bit then { bit := x.1, codes := x.2 :: r.codes } :: rs
                 else { bit := x.1, codes := [x.2] } :: r :: rs
    | [] => [{ bit := x.1, codes := [x.2] }]) []

/-- The bytes of a run over what memory holds in its first and last byte. -/
def runBytes (s : State) (p base bits : Nat) (r : CodeRun) : Nat × List Byte :=
  let x := base + r.bit / 8
  let len := (r.bit % 8 + bits * r.codes.length + 7) / 8
  let v := r.codes.foldr (fun c a => c % 2 ^ bits + 2 ^ bits * a) 0
  (x, leBytes len (setFld (s.num p x len) (r.bit % 8 + bits * r.codes.length - 1) (r.bit % 8) v))

/-- Codes of some elements of an operand as runs of bytes. -/
def Nd.runs (s : State) (p : Nat) (n : Nd) (base fmt : Nat) (l : List (Nat × Nat)) : List (Nat × List Byte) :=
  (joinRuns (bitsPer fmt) (l.map (fun e => (n.bitAt (bitsPer fmt) e.1, e.2)))).map
    (runBytes s p (addrOff base) (bitsPer fmt))

/-- Write the DST elements of a group. -/
def State.writeCodes (s : State) (c : Cmd) (n : Nd) (l : List (Nat × Nat)) : State :=
  (n.runs s c.part n.dst n.outF l).foldl (fun t r => t.cmdWrite c.id c.part r.1 r.2) s

/-! ### One step of work -/

/-- A group of elements read, computed by `f` and written. -/
def State.doGroup (s : State) (ch : Nat) (c : Cmd) (n : Nd) (es : List Nat) (f : Nat → Res Nat) : State :=
  let rs := es.map (fun e => (e, f e))
  let t := s.writeCodes c n (rs.map (fun r => (r.1, r.2.val)))
  (t.addFlags c.id (orFlags (rs.map (fun r => r.2.fl)))).modSeg ch c.id (fun g => { g with next := es.getLastD 0 + 1 })

/-- QUANT of a group: elements, the scales of blocks that begin in it, and the slot's counts. -/
def State.doQuant (s : State) (ch : Nat) (c : Cmd) (n : Nd) (es : List Nat) : State :=
  let rs := es.map (fun e => (e, n.quantElem s c e))
  let t := s.writeCodes c n (rs.map (fun r => (r.1, r.2.codes.headD 0)))
  let firsts := if hasScales n.outF then es.filter (fun e => e % n.rowLen % 32 == 0) else []
  let u := firsts.foldl (fun u e =>
    let o := n.quantBlk s c (e / n.rowLen) (e % n.rowLen / 32)
    u.cmdWrite c.id c.part (addrOff n.src1 + n.scaleOff n.outF e) (leBytes (scaleBytes n.outF) (o.scales.headD 0))) t
  let v := (u.addFlags c.id (orFlags (rs.map (fun r => r.2.fl)))).modSeg ch c.id
    (fun g => { g with next := es.getLastD 0 + 1 })
  if n.guardEn then
    let cnt := rs.foldl (fun a r => a.add r.2.cnt) ({} : GuardCnt)
    let vals := es.map (fun e => (n.elem s c.part n.src0 n.inF e).val)
    (v.guardFeed c.part n.guard vals cnt).modCmd c.id (fun c =>
      { c with guards := SMap.modify {} c.guards n.guard (fun g => g.add cnt) })
  else v

/-- A group of the pass for the amax (R62). -/
def State.doAmax (s : State) (ch : Nat) (c : Cmd) (n : Nd) (es : List Nat) : State :=
  (s.modCmd c.id (fun d =>
    { d with amax := SMap.modify 0 d.amax n.guard (fun a => es.foldl (fun a e => amaxOf a (n.src s c.part n.src0 e)) a) })).modSeg
      ch c.id (fun g => { g with next := es.getLastD 0 + 1 })

/-- The pass for the amax has ended on a unit, and with the last one SCALE is set and the work begins. -/
def State.amaxDone (s : State) (ch : Nat) (c : Cmd) (n : Nd) : State :=
  let t := s.modSeg ch c.id (fun g => { g with pass := 3 })
  if (segsOf t c.id).all (fun e => e.2.pass == 3) then
    let amax := ((t.cmd? c.id).elim [] (·.amax))
    let u := t.settleScales c.part amax [n.guard]
    let v := u.modCmd c.id (fun d => { d with scales := sampleScales u c.part [n.guard], pass := 0 })
    (segsOf v c.id).foldl (fun w e => w.modSeg e.1 c.id (fun g => { g with pass := 2, next := 0 })) v
  else t

/-- Statistics of the rows of a group, each formed once. -/
def State.withStats (s : State) (c : Cmd) (n : Nd) (rows : List Nat) : State :=
  rows.foldl (fun t r =>
    match t.cmd? c.id with
    | some d =>
      if (SMap.get [] d.rows r).isEmpty then
        let q := rowStat s c.part n r
        (t.modCmd c.id (fun d => { d with rows := SMap.set [] d.rows r q.1 })).addFlags c.id q.2
      else t
    | none => t) s

/-- Rows of softmax that share DST accesses with row r on. -/
def softRows (n : Nd) : Nat → Nat → List Nat
  | 0, r => [r]
  | k + 1, r =>
    let b := bitsPer n.outF
    let last := (addrOff n.dst + (n.bitOff b r (n.rowLen - 1) + b - 1) / 8) / 64
    let next := (addrOff n.dst + n.bitOff b (r + 1) 0 / 8) / 64
    if r + 1 < n.rows && last == next then r :: softRows n k (r + 1) else [r]

/-- Softmax rows, from the buffer that holds them. -/
def State.doSoftmax (s : State) (ch : Nat) (c : Cmd) (n : Nd) (rows : List Nat) : State :=
  let outs := rows.map (fun r =>
    let q := softmaxRow n ((List.range n.rowLen).map (fun i => n.src s c.part n.src0 (r * n.rowLen + i)))
    (q.1.zipIdx.map (fun y => (r * n.rowLen + y.2, n.put c n.tensor (r * n.rowLen + y.2) ⟨y.1, 0⟩)), q.2))
  let rs := outs.flatMap Prod.fst
  let t := s.writeCodes c n (rs.map (fun r => (r.1, r.2.val)))
  (t.addFlags c.id (orFlags (outs.map Prod.snd ++ rs.map (fun r => r.2.fl)))).modSeg ch c.id
    (fun g => { g with next := (rows.getLastD 0 + 1) * n.rowLen })

/-! ### PLUMB (R233, R234) -/

/-- The part of a slab's CRC that one granule's bytes give: CRC64 with the rest of the slab zero. The digest is the
XOR of these parts and of each slab's number. -/
def plumbPart (j k : Nat) (bs : List Byte) : Word :=
  crc64 (bs ++ List.replicate ((15 - k) * 4096 + 8) 0) ^^^ (if k = 0 then crc64 (leBytes 8 j) else 0)

/-- The next granule of the range, from g on, on a unit's channel. -/
def nextGran (s : State) (p : Nat) (n : Nd) (ch : Nat) : Nat → Nat → Option Nat
  | 0, _ => none
  | k + 1, g =>
    if 16 * n.rows ≤ g then none
    else if homeAt s p (addrOff n.src0 + 4096 * g) = ch then some g
    else nextGran s p n ch k (g + 1)

def State.stepPlumb (s : State) (ch : Nat) (c : Cmd) (n : Nd) (g : Seg) : State :=
  match nextGran s c.part n ch (16 * n.rows) g.next with
  | none => s.finishSeg ch c.id
  | some k =>
    let x := addrOff n.src0 + 4096 * k
    let s := s.meet ch c.part [(x, 4096)]
    if poisonedRange s c.part x 4096 then s.endCmd c.id St.dataPoisoned
    else
      let t := s.countFresh (keyAt s c.part x)
      let u := t.setResult c.id (c.result ^^^ plumbPart (k / 16) (k % 16) (s.range c.part x 4096))
      let v := u.modSeg ch c.id (fun g => { g with next := k + 1 })
      if (nextGran s c.part n ch (16 * n.rows) (k + 1)).isNone then v.finishSeg ch c.id else v

/-! ### Optimiser granules (R228, R229, Table TRN-6) -/

/-- What a stamp record asks of a granule. -/
inductive Stamp where
  | update
  | skip
  | mismatch
deriving DecidableEq, Repr

def stampOf (rec step k : Nat) : Stamp :=
  let st := fld rec 63 32
  let pend := fld rec 15 0
  if fld rec 31 16 != 0 then .mismatch
  else if st = step % 2 ^ 32 && pend = 0 then .update
  else if st = (step + 1) % 2 ^ 32 then (if pend.testBit k then .update else .skip)
  else .mismatch

/-- The record after granule k commits. -/
def stampNext (rec step k : Nat) : Nat :=
  let pend := fld rec 15 0
  let s1 := (step + 1) % 2 ^ 32
  if fld rec 63 32 = s1 && pend.testBit k then 2 ^ 32 * s1 + (pend - 2 ^ k) else 2 ^ 32 * s1 + (65535 - 2 ^ k)

/-- Elements of one DST granule from e on. -/
def granuleGroup (n : Nd) (e : Nat) : List Nat :=
  let b := bitsPer n.outF
  let at_ (x : Nat) : Nat := (addrOff n.dst + n.byteAt b x) / 4096
  (((List.range (32768 / b + 1)).map (e + ·)).filter (· < n.total)).takeWhile (fun x => at_ x == at_ e)

/-- The stamp record of a slab. -/
def stampAt (s : State) (p slab : Nat) : Nat := addrOff (stampBase s p + 8 * slab)

/-- Note a slab's mismatch: its address is held while none is, and the command will end with STAMP_MISMATCH. -/
def State.noteMismatch (s : State) (c : Cmd) (slab : Nat) : State :=
  let pg := Blk.trn.page (firstDie s c.part)
  let t := if c.mismatch then s else
    let u := s.raise_ pg 0 { d0 := BitVec.ofNat 64 (modAddr c.part (65536 * slab)), d3 := (tagDet c).d3 }
    if u.regFld pg Reg.trnMismatch 63 63 = 1 then u
    else u.setReg pg Reg.trnMismatch (2 ^ 63 + modAddr c.part (65536 * slab))
  (t.modCmd c.id (fun d => { d with mismatch := true })).noteLate c.id St.stampMismatch

/-- A granule is passed over; a slab wholly updated already counts once for the command. -/
def State.noteSkip (s : State) (c : Cmd) (slab rec : Nat) : State :=
  if fld rec 15 0 = 0 && !c.skipped.contains slab then
    (s.modCmd c.id (fun d => { d with skipped := d.skipped ++ [slab] })).bump (Blk.trn.page (firstDie s c.part))
      Reg.trnStampCnt 63 32 1
  else s

/-- New values of a granule in the unit buffer. -/
def optCompute (s : State) (c : Cmd) (n : Nd) (slab gran : Nat) (es : List Nat) : Commit :=
  let us := es.map (fun e => (e, optElem s n c e))
  let kept := us.filterMap (fun u => u.2.map (fun x => (u.1, x)))
  { cmd := c.id, slab := slab, gran := gran,
    writes := n.runs s c.part n.dst n.outF (kept.map (fun k => (k.1, k.2.w))) ++
      n.runs s c.part n.src1 n.outF (kept.map (fun k => (k.1, k.2.m))) ++
      (if n.op = 0x20 then n.runs s c.part n.src2 n.outF (kept.map (fun k => (k.1, k.2.v))) else []),
    nonfinite := es.length - kept.length, flags := orFlags (kept.map (fun k => k.2.fl)) }

/-- One granule of an optimiser command: computed into the buffer, to be committed. -/
def State.stepOpt (s : State) (ch : Nat) (c : Cmd) (n : Nd) (g : Seg) : Option State :=
  if (chan s ch).commits.any (fun k => k.cmd == c.id) then none
  else
    match nextElem s c.part n ch (n.total + 1) g.next with
    | none => some (s.finishSeg ch c.id)
    | some e =>
      let es := granuleGroup n e
      let xs := n.srcBytes s es
      let x := addrOff n.dst + n.byteAt (bitsPer n.outF) e
      let slab := x / 65536
      let past (t : State) : State := t.modSeg ch c.id (fun g => { g with next := es.getLastD 0 + 1 })
      if chainHeld s c.part c.id ch (granulesOf xs) then none
      else
        let rec_ := s.num c.part (stampAt s c.part slab) 8
        let s := if c.stamps then s.meet ch c.part [(stampAt s c.part slab, 8)] else s
        if c.stamps && poisonedRange s c.part (stampAt s c.part slab) 8 then some (s.endCmd c.id St.dataPoisoned)
        else
          match if c.stamps then stampOf rec_ c.step.toNat (x % 65536 / 4096) else .update with
          | .mismatch => some (past (s.noteMismatch c slab))
          | .skip => some (past (s.noteSkip c slab rec_))
          | .update =>
            let s := s.meet ch c.part xs
            if srcPoisoned s c.part xs then some (s.endCmd c.id St.dataPoisoned)
            else
              let t := s.noteSources c.part ch n es xs
              some (past (t.modChan ch (fun k =>
                { k with commits := k.commits ++ [optCompute s c n slab (x % 65536 / 4096) es] })))

/-! ### The queue (R199, R206, R209) -/

/-- Every unit of the stack that works on the command has added its part to row r's statistics. -/
def rowReady (s : State) (ch id r : Nat) : Bool :=
  (segsOf s id).all (fun e => e.1 / 32 != ch / 32 || decide (r < e.2.rows))

/-- One step of pass 1 of a norm: the unit's elements of its next row are read. -/
def State.stepPass1 (s : State) (ch : Nat) (c : Cmd) (n : Nd) (g : Seg) : Option State :=
  let mine := ((List.range n.rowLen).map (g.rows * n.rowLen + ·)).filter (fun e => nmuHome s c.part n e == ch)
  let xs := mine.map (fun e => (addrOff n.src0 + n.byteAt (bitsPer n.inF) e, n.byteLen (bitsPer n.inF) e))
  if chainHeld s c.part c.id ch (granulesOf xs) then none
  else
    let s := s.meet ch c.part xs
    some (if srcPoisoned s c.part xs then s.endCmd c.id St.dataPoisoned
      else s.modSeg ch c.id (fun g => { g with rows := g.rows + 1 }))

/-- A group of elements whose sources have been read: it ends the command when one is poisoned, and else it is worked on. -/
def State.stepGroup (s : State) (ch : Nat) (c : Cmd) (n : Nd) (g : Seg) (es : List Nat) (xs : List (Nat × Nat))
    (rows : List Nat) : State :=
  if srcPoisoned s c.part xs then s.endCmd c.id St.dataPoisoned
  else
    let t := s.noteSources c.part ch n es xs
    let u :=
      if g.pass = 1 then t.doAmax ch c n es
      else if n.isNorm then
        let v := t.withStats c n rows
        let st (r : Nat) : List F32 := (v.cmd? c.id).elim [] (fun d => SMap.get [] d.rows r)
        v.doGroup ch c n es (fun e => n.put c n.tensor e (normElem s c.part n (st (e / n.rowLen)) e))
      else if n.op = 0x12 then t.doSoftmax ch c n rows
      else if n.op = 0x18 then t.doQuant ch c n es
      else if n.op = 0x19 then t.doGroup ch c n es (n.dequantElem s c)
      else t.doGroup ch c n es (fun e =>
        n.put c n.tensor e (ewOp n (n.src s c.part n.src0 e)
          (if n.useRow1 then n.src s c.part n.src1 e else 0) (if n.useRow2 then n.src s c.part n.src2 e else 0)))
    if (nextElem s c.part n ch (n.total + 1) (es.getLastD 0 + 1)).isSome then u
    else if g.pass = 1 then u.amaxDone ch c n
    else u.finishSeg ch c.id

/-- One step of a segment: none when it has to wait. -/
def State.stepSeg (s : State) (ch : Nat) (g : Seg) : Option State :=
  match s.cmd? g.cmd with
  | none => none
  | some c =>
    let n := ndOf c.bits
    if n.op = 0x28 then some (s.stepPlumb ch c n g)
    else if n.isOpt then s.stepOpt ch c n g
    else if g.pass = 3 then
      (if (segsOf s c.id).all (fun e => e.2.pass == 3) then some (s.amaxDone ch c n) else none)
    else
      match nextElem s c.part n ch (n.total + 1) g.next with
      | none => some (if g.pass = 1 then s.amaxDone ch c n else s.finishSeg ch c.id)
      | some e =>
        let es := if n.op = 0x12 then
            (softRows n n.rows (e / n.rowLen)).flatMap (fun r => (List.range n.rowLen).map (r * n.rowLen + ·))
          else accessGroup n e
        let xs := n.srcBytes s es
        let rows := (es.map (· / n.rowLen)).dedup
        if n.isNorm && decide (g.rows < n.rows) && !(rows.all (rowReady s ch c.id)) then s.stepPass1 ch c n g
        else if n.isNorm && !(rows.all (rowReady s ch c.id)) then none
        else if chainHeld s c.part c.id ch (granulesOf xs) then none
        else some ((s.meet ch c.part xs).stepGroup ch c n g es xs rows)

/-- The first segment of a queue that can go on. A segment runs before an earlier one that waits only when the two
come from different rings (R206, R209). -/
def firstStep (s : State) (ch : Nat) (waiting : List Nat) : List Seg → Option State
  | [] => none
  | g :: gs =>
    let ring_ := (s.cmd? g.cmd).elim 64 (·.ring)
    match if waiting.contains ring_ then none else s.stepSeg ch g with
    | some t => some t
    | none => firstStep s ch (ring_ :: waiting) gs

/-- Run a unit for at most some steps. -/
def State.runUnit (s : State) (ch : Nat) : Nat → State
  | 0 => s
  | k + 1 =>
    match firstStep s ch [] (chan s ch).queue with
    | some t => t.runUnit ch k
    | none => s

/-- Nothing in the unit's queue can go on now. -/
def unitStalled (s : State) (ch : Nat) : Bool := (firstStep s ch [] (chan s ch).queue).isNone

end Sys2Proof.Machine
end

