-- ==== Sys2Proof/Machine/Nmu.lean ====
section
/-! DEFINITION. The near-memory units' commands: dispatch of the row operations, fences, and the slots
(R193–R218). -/

namespace Sys2Proof.Machine

/-! ### Dispatch (R194, R200, R201, R203, R227, R249, R255) -/

/-- Refusals that rest on the command alone. -/
def nmuCheck0 (s : State) (c : Cmd) : Option Nat :=
  let n := ndOf c.bits
  firstOf [(nmuMalformed s c.part c.bits, St.malformed), (nmuFenced s c.part n, St.fence),
    (nmuOverfull s c.part (nmuSlabs s c.part n), St.tierUnreachable), (n.qrnd == 1 && c.seed.isNone, St.seedUnset)]

/-- Slabs to be fetched before the placement check. -/
def nmuNeed (s : State) (c : Cmd) : List Nat :=
  if (nmuCheck0 s c).isSome then []
  else (nmuSlabs s c.part (ndOf c.bits)).filter (fun k =>
    match locate s c.part (65536 * k) with
    | .slab _ => true
    | .mem _ => false)

def homesDenied (s : State) (p : Nat) (n : Nd) : List Nat :=
  (nmuHomes s p n).filter (fun ch => decide (2 ≤ (chan s ch).st))

def nmuCheck (s : State) (c : Cmd) : Option Nat :=
  let n := ndOf c.bits
  match nmuCheck0 s c with
  | some e => some e
  | none =>
    firstOf [(nmuMisplaced s c.part n, St.misplaced), (!(homesDenied s c.part n).isEmpty, St.slotDenied)]

/-- Hyperparameters of a set (R220): B1 OMB1 B2 OMB2 EPS DECAY CTL. -/
def hpSet (s : State) (p i : Nat) : List F32 :=
  let g := Blk.trn.page (firstDie s p)
  let pair (r : Nat) : List F32 := [BitVec.ofNat 32 (s.regFld g (r + 4 * i) 63 32), BitVec.ofNat 32 (s.regFld g (r + 4 * i) 31 0)]
  pair Reg.trnHpB1 ++ pair Reg.trnHpB2 ++ pair Reg.trnHpEps ++ [BitVec.ofNat 32 (s.reg g (Reg.trnHpCtl + 4 * i))]

/-- Wake the near-memory group of a channel (R388). -/
def State.wakeGroup (s : State) (ch : Nat) : State :=
  let st := ch / 32
  let g := ch % 32 / 8
  if (stack s st).groupAsleep.getD g true then
    s.modStack st (fun x => { x with groupWaking := x.groupWaking.set g true })
  else s

/-- Put a segment into a unit's queue. -/
def State.addSeg (s : State) (ch : Nat) (g : Seg) : State :=
  (s.modChan ch (fun c =>
    { c with queue := c.queue ++ [g], workSince := if c.queue.isEmpty then s.now else c.workSince })).wakeGroup ch

/-- Pin the slabs that a command names (R255). -/
def State.pin (s : State) (id p : Nat) (slabs : List Nat) : State :=
  slabs.foldl (fun t k => t.modFrame p k (fun f => { f with pins := f.pins ++ [id] })) s

/-- A FENCE covers the unfinished NMU commands of its ring (R212). -/
def fenceStart (s : State) (c : Cmd) : State :=
  let ids := (s.cmds.filter (fun d => d.ring == c.ring && d.id != c.id && d.status.isNone && envClass d.bits == 3)).map (·.id)
  (s.modCmd c.id (fun d => { d with covers := ids })).cmdWaits c.id .fence

/-- Queue the command's segments on its home units; it waits on its slots from now on (R200). -/
def nmuStart (s : State) (c : Cmd) : State :=
  let n := ndOf c.bits
  if n.op = 0x30 then fenceStart s c
  else
    let homes := nmuHomes s c.part n
    let slabs := nmuSlabs s c.part n
    let first := n.op = 0x18 && n.guardEn && (guard s c.part n.guard).count == 0
    let t := (s.pin c.id c.part slabs).modCmd c.id (fun d =>
      { d with
        units := homes, slabs := slabs, stamps := n.isOpt && stampsOn s c.part,
        scales := if n.guardEn then sampleScales s c.part [n.guard] else []
        hp := if n.isOpt then hpSet s c.part n.guard else [] })
    (homes.foldl (fun t ch => t.addSeg ch { cmd := c.id, pass := if first then 1 else 2 }) t).cmdWaits c.id
      (.slotGrant s.now)

/-- A home unit's work queue is full (Table NMU-1): the command is not dispatched yet (DEDUCED, log 25). -/
def unitsFull (op : Nat) (s : State) (k : Nat) : Bool :=
  match (unstartedOf 3 op s k).map (·.bits) |>.orElse (fun _ => nextOf s k) with
  | some b =>
    envClass b == 3 && !nmuMalformed s (partOfRing s k) b &&
      (nmuHomes s (partOfRing s k) (ndOf b)).any (fun ch => decide (64 ≤ (chan s ch).queue.length))
  | none => false

/-- The NMU page that a refusal's event stands on: the stack of the first DST byte. -/
def misplacedPage (s : State) (c : Cmd) : Nat := nmuPage (moduleChan s c.part (32 * stackAt s (addrOff (ndOf c.bits).dst)) / 32)

/-- The dispatch row of an NMU operation, with the events of its refusals (R194, R200). -/
def nmuRow (op k : Nat) (s : State) : State :=
  if unitsFull op s k then s
  else
    let id := servedId 3 op s k
    let t := dispatchRowT true 3 op k nmuNeed nmuCheck nmuStart s
    match t.cmd? id with
    | some c =>
      if c.status = some St.misplaced then t.raise_ (misplacedPage s c) 1 (tagDet c)
      else if c.status = some St.slotDenied then
        (homesDenied s c.part (ndOf c.bits)).foldl (fun u ch =>
          (u.modChan ch (fun x => { x with denied := satAdd 16 x.denied 1 })).raise_ (nmuPage (ch / 32)) 0
            { (chanDet ch []) with d3 := (tagDet c).d3 }) t
      else t
    | none => t

/-- ADD (R204). -/
def execAdd (ring : Nat) (s : State) : Answer := .next (nmuRow 0x01 ring s)
/-- MUL (R204). -/
def execMul (ring : Nat) (s : State) : Answer := .next (nmuRow 0x02 ring s)
/-- FMA (R204). -/
def execFma (ring : Nat) (s : State) : Answer := .next (nmuRow 0x03 ring s)
/-- AFFINE (R204). -/
def execAffine (ring : Nat) (s : State) : Answer := .next (nmuRow 0x04 ring s)
/-- DIV (R204). -/
def execDiv (ring : Nat) (s : State) : Answer := .next (nmuRow 0x05 ring s)
/-- MAX (R204). -/
def execMax (ring : Nat) (s : State) : Answer := .next (nmuRow 0x06 ring s)
/-- MIN (R204). -/
def execMin (ring : Nat) (s : State) : Answer := .next (nmuRow 0x07 ring s)
/-- RSQRT (R204). -/
def execRsqrt (ring : Nat) (s : State) : Answer := .next (nmuRow 0x08 ring s)
/-- EXP (R204). -/
def execExp (ring : Nat) (s : State) : Answer := .next (nmuRow 0x09 ring s)
/-- GELU (R56, R204). -/
def execGelu (ring : Nat) (s : State) : Answer := .next (nmuRow 0x0A ring s)
/-- SILU (R56, R204). -/
def execSilu (ring : Nat) (s : State) : Answer := .next (nmuRow 0x0B ring s)
/-- RMSNORM (R205, R206). -/
def execRmsnorm (ring : Nat) (s : State) : Answer := .next (nmuRow 0x10 ring s)
/-- LAYERNORM (R205, R206). -/
def execLayernorm (ring : Nat) (s : State) : Answer := .next (nmuRow 0x11 ring s)
/-- SOFTMAX (R207). -/
def execSoftmax (ring : Nat) (s : State) : Answer := .next (nmuRow 0x12 ring s)
/-- QUANT (R208). -/
def execQuant (ring : Nat) (s : State) : Answer := .next (nmuRow 0x18 ring s)
/-- DEQUANT (R208). -/
def execDequant (ring : Nat) (s : State) : Answer := .next (nmuRow 0x19 ring s)
/-- ADAMW (R219–R230). -/
def execAdamw (ring : Nat) (s : State) : Answer := .next (nmuRow 0x20 ring s)
/-- LION (R219–R230). -/
def execLion (ring : Nat) (s : State) : Answer := .next (nmuRow 0x21 ring s)
/-- SGDM (R219–R230). -/
def execSgdm (ring : Nat) (s : State) : Answer := .next (nmuRow 0x22 ring s)
/-- PLUMB (R233, R234). -/
def execPlumb (ring : Nat) (s : State) : Answer := .next (nmuRow 0x28 ring s)
/-- FENCE (R212). -/
def execFence (ring : Nat) (s : State) : Answer := .next (nmuRow 0x30 ring s)

/-- NMU_FENCE_COMPLETE (R212): the covered commands have ended; the ring's count rises. -/
def execNmuFenceComplete (cmd : Nat) (s : State) : Answer :=
  match s.cmd? cmd with
  | some c =>
    if c.wait == .fence && !(s.cmds.any (fun d => c.covers.contains d.id && d.status.isNone)) then
      .next ({ s with fences := SMap.modify 0 s.fences c.ring (· + 1) }.finishCmd cmd)
    else .next s
  | none => .next s

/-! ### Slots (R196–R200) -/

def slotNs (s : State) (ch : Nat) : Nat := s.regFld (nmuPage (ch / 32)) Reg.nmuSlotCtl 11 0
def gapNs (s : State) (ch : Nat) : Nat := s.regFld (nmuPage (ch / 32)) Reg.nmuSlotCtl 45 32

/-- The unit's group is powered and awake. -/
def groupAwake (s : State) (ch : Nat) : Bool := !(stack s (ch / 32)).groupAsleep.getD (ch % 32 / 8) true

/-- Requests at a channel that it has not served. -/
def waitingAt (s : State) (ch : Nat) : List Req :=
  s.reqs.filter (fun r => !r.served && (reqKey s r).any (fun k => chanOfKey s k == ch))

/-- R197: every condition of a grant holds. -/
def slotFree (s : State) (ch : Nat) : Bool :=
  let c := chan s ch
  let x := stack s (ch / 32)
  c.mode == 0 && !c.queue.isEmpty && decide (x.level ≤ 1) && !x.offline && decide (c.st ≤ 1) && groupAwake s ch &&
    (c.slots == 0 || decide (c.lastOut + Nat.max 1000 (gapNs s ch) ≤ s.now)) &&
    !((waitingAt s ch).any (fun r => c.backlog.contains r.id)) && x.lastGrant.all (fun g => decide (g + 8 ≤ s.now))

/-- NMU_SLOT_GRANT (R197): the channel starts to switch in. -/
def execNmuSlotGrant (chan t : Nat) (s : State) : Answer :=
  let s := s.at_ t
  if slotFree s chan then
    .next ((s.modChan chan (fun c =>
      { c with mode := 1, slots := satAdd 32 c.slots 1, slotStart := s.now })).modStack (chan / 32)
        (fun x => { x with lastGrant := some s.now }))
  else .next s

/-- NMU_SWITCH_IN_END (R196, Table NMU-2): processor mode begins, and the unit works through its queue, at most `budget`
steps of it in this slot. -/
def execNmuSwitchInEnd (chan t budget : Nat) (eccs : List (Nat × Ecc)) (s : State) : Answer :=
  let s := s.at_ t
  let c := Machine.chan s chan
  if c.mode = 1 && c.slotStart + 180 ≤ s.now then .next ((s.modChan chan (fun c => { c with mode := 2, errs := eccs })).runUnit chan budget)
  else .next s

/-- NMU_SLOT_END (R199): at SLOT_NS, or when nothing in the queue can go on. -/
def execNmuSlotEnd (chan t : Nat) (s : State) : Answer :=
  let s := s.at_ t
  let c := Machine.chan s chan
  if c.mode = 2 && (decide (c.slotStart + 180 + slotNs s chan ≤ s.now) || unitStalled s chan) then
    .next (s.modChan chan (fun c =>
      { c with mode := 3, errs := [], outStart := s.now, backlog := (waitingAt s chan).map (·.id) }))
  else .next s

/-- NMU_SWITCH_OUT_END (R196, R198): memory mode returns; time in the slot, and time that accesses waited behind it, are
counted. -/
def execNmuSwitchOutEnd (chan t : Nat) (s : State) : Answer :=
  let s := s.at_ t
  let c := Machine.chan s chan
  if c.mode = 3 && c.outStart + 180 ≤ s.now then
    let waits := (waitingAt s chan).map (fun r => Nat.max c.slotStart r.born)
    let held := match waits with
      | [] => 0
      | w :: ws => s.now - ws.foldl Nat.min w
    .next ((s.modChan chan (fun c =>
      { c with
        mode := 0, lastOut := s.now, procNs := c.procNs + (s.now - c.slotStart), heldNs := c.heldNs + held,
        workSince := s.now })).flushWins)
  else .next s

/-- A unit of the command has waited for a grant since. -/
def grantWait (s : State) (since ch : Nat) : Option Nat :=
  let c := chan s ch
  if c.mode = 0 then some (Nat.max since (Nat.max c.lastOut c.workSince)) else none

/-- NMU_GRANT_TIMEOUT (R200, R217): a unit of the command has waited longer than LIMIT_MS. -/
def execNmuGrantTimeout (cmd t : Nat) (s : State) : Answer :=
  let s := s.at_ t
  match s.cmd? cmd with
  | some c =>
    match c.wait, c.status with
    | .slotGrant since, none =>
      let lim := 1000000 * s.regFld (nmuPage (2 * firstDie s c.part)) Reg.nmuGrantLim 13 0
      match c.units.find? (fun ch => (grantWait s since ch).any (fun w => decide (w + lim < s.now))) with
      | some ch =>
        let u := (s.endCmd cmd St.slotDenied).modChan ch (fun x => { x with denied := satAdd 16 x.denied 1 })
        .next (u.raise_ (nmuPage (ch / 32)) 0 { (chanDet ch []) with d3 := (tagDet c).d3 })
      | none => .next s
    | _, _ => .next s
  | none => .next s

/-! ### GRANULE_COMMIT (R229) -/

/-- The channel that holds a stamp record can take its read-modify-write: it is in memory mode, or it is the unit's own
(DEDUCED, log 25). -/
def stampReachable (s : State) (ch p slab : Nat) : Bool :=
  let h := homeAt s p (stampAt s p slab)
  h == ch || (chan s h).mode == 0

/-- Write a granule, set its stamp, and credit the elements passed over and the flags raised. -/
def State.commitData (s : State) (c : Cmd) (k : Commit) : State :=
  let t := k.writes.foldl (fun t w => t.cmdWrite c.id c.part w.1 w.2) s
  let u := (t.addFlags c.id k.flags).modCmd c.id (fun d => { d with nonfinite := d.nonfinite + k.nonfinite })
  if k.nonfinite = 0 then u else u.bump (Blk.trn.page (firstDie s c.part)) Reg.trnNonfinite 63 0 k.nonfinite

/-- The commit as the record then stands: it takes effect, or the granule counts as skipped. -/
def State.commitOne (s : State) (c : Cmd) (k : Commit) : State :=
  if !c.stamps then s.commitData c k
  else
    let a := stampAt s c.part k.slab
    let rec_ := s.num c.part a 8
    if poisonedRange s c.part a 8 then s.endCmd c.id St.dataPoisoned
    else
      match stampOf rec_ c.step.toNat k.gran with
      | .update =>
        let new := stampNext rec_ c.step.toNat k.gran
        let t := ((s.commitData c k).narrowAt c.part a (leBytes 8 new)).1
        let u := t.modStack (homeAt t c.part a / 32) (fun x => { x with narrow := satAdd 64 x.narrow 1 })
        if fld new 15 0 = 0 then u.bump (Blk.trn.page (firstDie s c.part)) Reg.trnStampCnt 31 0 1 else u
      | _ => s.noteSkip c k.slab rec_

/-- GRANULE_COMMIT (R229): the unit commits the granule in its buffer within its slot, then takes up the next one. -/
def execGranuleCommit (chan : Nat) (s : State) : Answer :=
  let x := Machine.chan s chan
  match x.commits with
  | [] => .next s
  | k :: ks =>
    match s.cmd? k.cmd with
    | none => .next (s.modChan chan (fun c => { c with commits := ks }))
    | some c =>
      if x.mode != 2 || (c.stamps && !stampReachable s chan c.part k.slab) then .next s
      else .next (((s.modChan chan (fun c => { c with commits := ks })).commitOne c k).runUnit chan 1)

end Sys2Proof.Machine
end

