-- ==== Sys2Proof/Machine/CollDesc.lean ====
section
/-! DEFINITION. COLL descriptors: their layout, refusals, chunks and ways round (R286–R292, R301). -/

namespace Sys2Proof.Machine

/-- A descriptor (Table NAR-2). -/
structure CollD where
  list : Nat := 0
  len : Nat := 0
  dst : Nat := 0
  src : Nat := 0
  count : Nat := 0
  root : Nat := 0
  coded : Bool := false
  clear : Bool := false
  dstF : Nat := 0
  accF : Nat := 0
  srcF : Nat := 0
  courses : List Nat := []
  op : Nat := 0
deriving DecidableEq, Repr

def collD (b : CmdBits) : CollD :=
  { list := payFld b 0 447 400, len := payFld b 0 391 352, dst := payFld b 0 351 304, src := payFld b 0 303 256,
    count := payFld b 0 255 240, root := payFld b 0 63 47, coded := payFld b 0 41 41 == 1,
    clear := payFld b 0 40 40 == 1, dstF := payFld b 0 39 36, accF := payFld b 0 33 32, srcF := payFld b 0 31 28,
    courses := bitsOf 8 (payFld b 0 15 8), op := payFld b 0 7 0 }

/-- CRC64 of the descriptor with SRC, DST and LIST zero (R289). -/
def collCrc (b : CmdBits) : Word :=
  let v := payFld b 0 511 0
  crc64 (leBytes 64 (setFld (setFld v 447 400 0) 351 256 0))

def CollD.isReduce (d : CollD) : Bool := d.op == 1 || d.op == 3
def CollD.isList (d : CollD) : Bool := d.op == 5 || d.op == 6

/-- Bytes of an element: 4 for FP32 and for a raw element, 2 for BF16. -/
def elemSize (f : Nat) : Nat := if f = 2 then 2 else 4

/-- Bytes of a chunk of the result (R290). -/
def CollD.chunk (d : CollD) : Nat := 1024 * elemSize d.dstF

/-! ### Courses -/

def courseReg (s : State) (c hi lo : Nat) : Nat := s.regFld (coursePage c) (Reg.narCourse + c % 2) hi lo
def courseOn (s : State) (c : Nat) : Bool := courseReg s c 63 63 == 1
def courseSize (s : State) (c : Nat) : Nat := courseReg s c 57 40
/-- The course runs as a chain: by its KIND, or by fallback (R299). -/
def isChain (s : State) (c : Nat) : Bool :=
  courseReg s c 62 62 == 1 || (course s c).st == 3 || ((course s c).st == 1 && (course s c).fallback)

/-- This member has a neighbour along a way of the course. -/
def hasNext (s : State) (c : Nat) (next : Bool) : Bool :=
  let m := courseSize s c
  let p := (course s c).pos
  if isChain s c then (if next then decide (p + 1 < m) else decide (0 < p)) else decide (1 < m)

/-- Members, from the first course named. -/
def collM (s : State) (d : CollD) : Nat := Nat.max 1 (courseSize s (d.courses.headD 0))

/-! ### Refusals (R288) -/

/-- Bytes of the full vector in SRC_FMT. -/
def CollD.srcLen (d : CollD) : Nat := d.len / elemSize d.dstF * elemSize d.srcF

/-- What the descriptor alone breaks. -/
def collMalformed (b : CmdBits) : Bool :=
  let d := collD b
  let f (hi lo : Nat) : Bool := payFld b 0 hi lo != 0
  !payZeroFrom b 64 || f 511 448 || f 399 392 || f 239 64 || f 46 42 || f 35 34 || f 27 16 ||
  d.courses.isEmpty || (d.isList && decide (1 < d.courses.length)) ||
  (if d.isList then d.count == 0 || decide (1024 < d.count) || d.len != 0 else d.count != 0 || d.list != 0) ||
  (if d.isReduce then
    !(d.srcF == 1 || d.srcF == 2) || !(d.accF == 1 || (d.accF == 2 && d.srcF == 2)) || !(d.dstF == 1 || d.dstF == 2)
   else d.srcF != 0 || d.accF != 0 || d.dstF != 0) ||
  (d.op == 4 && d.len % 4096 != 0) ||
  (d.clear && (!d.isReduce || d.src % 4096 != 0 || d.srcLen % 4096 != 0)) ||
  (d.coded && d.isReduce)

/-- What the size and the kind of its courses break. -/
def collMisfit (s : State) (b : CmdBits) : Bool :=
  let d := collD b
  let m := collM s d
  d.courses.any (fun c => courseSize s c != courseSize s (d.courses.headD 0) ||
    isChain s c != isChain s (d.courses.headD 0)) ||
  (!d.isList && d.op != 4 && d.len % (m * d.chunk) != 0) || decide (m ≤ d.root)

/-! ### Lists (R287, R301) -/

def readCollList (s : State) (p : Nat) (d : CollD) : List (List Nat) :=
  (List.range d.count).map (fun i => (List.range 4).map (fun w => s.num p (addrOff d.list + 32 * i + 8 * w) 8))

/-- Word w of an entry. -/
def entWord (e : List Nat) (w : Nat) : Nat := e.getD w 0

structure PermEnt where
  peer : Nat := 0
  sendLen : Nat := 0
  sendOff : Nat := 0
  recvOff : Nat := 0
  recvLen : Nat := 0
deriving DecidableEq, Repr

def permEnt (e : List Nat) : PermEnt :=
  { peer := fld (entWord e 0) 16 0, sendLen := fld (entWord e 0) 63 32, sendOff := fld (entWord e 1) 39 0,
    recvOff := fld (entWord e 2) 39 0, recvLen := fld (entWord e 3) 31 0 }

/-- The entry for a peer; a position that the list does not name has both lengths 0. -/
def permOf (l : List (List Nat)) (peer : Nat) : PermEnt :=
  ((l.map permEnt).find? (fun e => e.peer == peer)).getD { peer := peer }

def permFault (l : List (List Nat)) (m pos : Nat) : Bool :=
  let es := l.map permEnt
  l.any (fun e => fld (entWord e 0) 31 17 != 0 || fld (entWord e 1) 63 40 != 0 || fld (entWord e 2) 63 40 != 0 ||
    fld (entWord e 3) 63 32 != 0) ||
  es.any (fun e => decide (m ≤ e.peer) || e.sendLen % 64 != 0 || e.sendOff % 64 != 0 || e.recvOff % 64 != 0 ||
    e.recvLen % 64 != 0 || (e.peer == pos && e.sendLen != e.recvLen)) ||
  !((es.map (·.peer)).dedup.length == es.length)

structure ShardEnt where
  shard : Nat := 0
  pos : Nat := 0
  src : Nat := 0
  dst : Nat := 0
  len : Nat := 0
deriving DecidableEq, Repr

def shardEnt (e : List Nat) : ShardEnt :=
  { shard := fld (entWord e 0) 15 0, pos := fld (entWord e 0) 48 32, src := entWord e 1, dst := entWord e 2,
    len := entWord e 3 }

def shardFault (l : List (List Nat)) (m : Nat) : Bool :=
  l.any (fun e => fld (entWord e 0) 63 49 != 0 || fld (entWord e 0) 31 16 != 0 || decide (16384 ≤ fld (entWord e 0) 15 0) ||
    decide (m ≤ fld (entWord e 0) 48 32) || entWord e 3 % 65536 != 0)

/-- A partition's directory entry. -/
def shardKey (p i : Nat) : Nat := 16384 * p + i
def shard (s : State) (p i : Nat) : Shard := SMap.get {} s.shards (shardKey p i)
def State.setShard (s : State) (p i : Nat) (e : Shard) : State :=
  { s with shards := SMap.set {} s.shards (shardKey p i) e }

/-- This member is an entry's old owner: STABLE, owned by it. -/
def isOldOwner (s : State) (p i : Nat) : Bool := (shard s p i).st == 0 && (shard s p i).owner == s.settings.moduleId

/-! ### Address checks (R249, R288, R319) -/

/-- Extents of data that a command reads and writes here: (address, length). -/
def collExtents (s : State) (p : Nat) (d : CollD) (l : List (List Nat)) : List (Nat × Nat) :=
  let m := collM s d
  let z := d.len / m
  let pos := (course s (d.courses.headD 0)).pos
  match d.op with
  | 1 => [(d.src, d.srcLen), (d.dst, z)]
  | 2 => [(d.src, z), (d.dst, d.len)]
  | 3 => [(d.src, d.srcLen), (d.dst, d.len)]
  | 4 => (if pos = d.root then [(d.src, d.len)] else []) ++ [(d.dst, d.len)]
  | 5 => (l.map permEnt).flatMap (fun e =>
      (if e.sendLen = 0 then [] else [(d.src + e.sendOff, e.sendLen)]) ++
        (if e.recvLen = 0 then [] else [(d.dst + e.recvOff, e.recvLen)]))
  | _ => (l.map shardEnt).flatMap (fun e =>
      (if isOldOwner s p e.shard then [(e.src, e.len)] else []) ++ (if e.pos = pos then [(e.dst, e.len)] else []))

def listInRange (s : State) (p : Nat) (d : CollD) : Bool := !d.isList || inRange s p d.list (32 * d.count)

/-- Checks that need neither the list nor a walk's outcome. -/
def collCheck0 (s : State) (p : Nat) (b : CmdBits) : Option Nat :=
  let d := collD b
  firstOf [(collMalformed b, St.malformed), (d.courses.any (fun c => partOfCourse s c != p), St.fence),
    (!listInRange s p d, St.fence)]

/-- Checks of sizes, of the list and of every extent, once no course named is WALKING. -/
def collCheck1 (s : State) (p : Nat) (b : CmdBits) (l : List (List Nat)) : Option Nat :=
  let d := collD b
  let m := collM s d
  let pos := (course s (d.courses.headD 0)).pos
  let xs := collExtents s p d l
  firstOf [(collMisfit s b, St.malformed), (d.op == 5 && permFault l m pos, St.malformed), (d.op == 6 && shardFault l m, St.malformed),
    (xs.any (fun x => !inRange s p x.1 x.2), St.fence), (xs.any (fun x => isOpen (addrOff x.1)), St.malformed)]

/-- A course named is DOWN or BROKEN, or still WALKING. -/
def collDown (s : State) (d : CollD) : Bool := d.courses.any (fun c => (course s c).st == 0 || (course s c).st == 4)
def collWalking (s : State) (d : CollD) : Bool := d.courses.any (fun c => (course s c).st == 1)

/-! ### Chunks and ways (R290–R292) -/

/-- Chunks of one shard, or of the broadcast. -/
def CollD.chunks (d : CollD) (m : Nat) : Nat := if d.op = 4 then d.len / 4096 else d.len / m / d.chunk

/-- Chunks that a course carries, in order: every k-th. -/
def CollD.chunksOn (d : CollD) (m c : Nat) : List Nat :=
  let k := d.courses.length
  let r := d.courses.idxOf c
  (List.range (d.chunks m)).filter (fun i => i % k == r)

/-- The chunk with rank r of h on its course travels along NEXT in deterministic mode. -/
def detNext (r h : Nat) : Bool := decide (r < ceilDiv h 2)

/-- A link whose neighbour shows SLOW while the other one does not. -/
def slowWay (s : State) (c : Nat) : Option Bool :=
  let a := (port s (nextPort c)).slow
  let b := (port s (prevPort c)).slow
  if a && !b then some false else if b && !a then some true else none

/-- The way of a partial sum on a ring: settled by rank in deterministic mode, by credit otherwise. -/
def reduceNext (s : State) (cm : Cmd) (d : CollD) (c sh i : Nat) : Bool :=
  let ch := d.chunksOn (collM s d) c
  if cm.det then detNext (ch.idxOf i) ch.length
  else Config.creditNext c ((cm.coll.seqs.find? (fun e => e.1 == c)).elim 0 Prod.snd) sh i

/-- The way of a chunk that this member alone sends: away from a slow link where it has the choice (R297). -/
def gatherNext (s : State) (cm : Cmd) (d : CollD) (c sh i : Nat) : Bool :=
  if cm.det then reduceNext s cm d c sh i else (slowWay s c).getD (reduceNext s cm d c sh i)

/-- The way to a position: the shorter one on a ring, NEXT on a tie (R287). -/
def wayTo (s : State) (c dest : Nat) : Bool :=
  let m := Nat.max 1 (courseSize s c)
  let p := (course s c).pos
  if isChain s c then decide (p < dest) else decide ((dest + m - p) % m ≤ (p + m - dest) % m)

/-- Position one step along a way. -/
def stepPos (m p : Nat) (next : Bool) : Nat := if next then (p + 1) % m else (p + m - 1) % m

/-- The member that starts a partial of shard j on a ring. -/
def startPos (m j : Nat) (next : Bool) : Nat := stepPos m j next

end Sys2Proof.Machine
end

