-- ==== Sys2Proof/Machine/CollRun.lean ====
section
/-! DEFINITION. How a member's sequencers run collectives: the messages of a chunk, sums, copies, segments and shards
(R287–R297, R301). Table NAR-1 does not say how a flit names its chunk: a control flit opens each chunk here
(log 26). -/

namespace Sys2Proof.Machine

/-! ### Messages -/

/-- Destination of a message for every member. -/
def toAll : Nat := 0xFFFFFF

/-- Payload of a control flit: a value, what it is, and the CSEQ, which the header gives for data alone. -/
def ctlPayload (t : ChunkTag) (val : List Byte) (cseq : Nat) : List Byte :=
  (val ++ List.replicate 128 0).take 128 ++ leBytes 1 t.kind ++ leBytes 3 t.a ++ leBytes 3 t.b ++ leBytes 5 t.i ++
    leBytes 2 cseq

def ctlTag (bs : List Byte) : ChunkTag :=
  let n (o k : Nat) : Nat := leNat ((bs.drop o).take k)
  { kind := n 128 1, a := n 129 3, b := n 132 3, i := n 135 5 }

def ctlCseq (bs : List Byte) : Nat := leNat ((bs.drop 140).take 2)

/-- The flits of a chunk: 240 bytes each, the last one marked LAST. -/
def dataFlits (cseq unit : Nat) (coded : Bool) (bs : List Byte) : List FlitOut :=
  let n := Nat.max 1 (ceilDiv bs.length 240)
  (List.range n).map (fun i =>
    { typ := 1, cseq := cseq, unit := unit + i, flags := bitIf (i + 1 == n) flagLast + bitIf coded flagCoded,
      payload := (bs.drop (240 * i)).take 240 })

def cseqOn (cm : Cmd) (c : Nat) : Nat := (cm.coll.seqs.find? (fun e => e.1 == c)).elim 0 Prod.snd

def State.modColl (s : State) (id : Nat) (f : Coll → Coll) : State := s.modCmd id (fun c => { c with coll := f c.coll })

/-- Send a message along a way of a course: a control flit, and the data of a chunk. -/
def State.sendMsg (s : State) (id c : Nat) (next : Bool) (t : ChunkTag) (val : List Byte) (data : Option (List Byte)) :
    State :=
  match s.cmd? id with
  | none => s
  | some cm =>
    if !hasNext s c next then s
    else
      let q := outPort c next
      let u := SMap.get 0 cm.coll.units q
      let cs := cseqOn cm c
      let fs := { typ := 2, cseq := cs, unit := u, payload := ctlPayload t val cs } ::
        (match data with
         | some bs => dataFlits cs (u + 1) (collD cm.bits).coded bs
         | none => [])
      (s.modColl id (fun k => { k with units := SMap.set 0 k.units q (u + fs.length) })).sendFlits q fs

/-- Send a message towards a position. -/
def State.sendTo (s : State) (id c dest : Nat) (t : ChunkTag) (val : List Byte) (data : Option (List Byte)) : State :=
  s.sendMsg id c (wayTo s c dest) t val data

/-- Send ABANDON to the other members on every course of a collective (R289, R296). -/
def State.sendAbandon (s : State) (cm : Cmd) : State :=
  cm.coll.seqs.foldl (fun t e => t.emit (.abandon e.1 e.2)) s

/-- End a collective here, and tell the others. -/
def State.failColl (s : State) (id st : Nat) : State :=
  match s.cmd? id with
  | some cm => if cm.status.isSome then s else (s.endCmd id st).sendAbandon cm
  | none => s

/-! ### Where a chunk lies -/

/-- The chunk that a block sent again stands for. -/
def baseTag (d : CollD) (t : ChunkTag) : ChunkTag :=
  if t.kind = 4 then
    if d.op = 5 then { t with kind := 2 }
    else if d.op = 6 then { kind := 3, a := t.i / 2 ^ 28, b := t.b, i := t.i % 2 ^ 28 }
    else { kind := 1, a := t.a, i := t.i }
  else t

/-- Source extent of a chunk at the member that sends it: address and length. -/
def srcOf (d : CollD) (l : List (List Nat)) (m : Nat) (t : ChunkTag) : Nat × Nat :=
  match t.kind with
  | 0 => (d.src + (t.a * (d.len / m / elemSize d.dstF) + t.i * 1024) * elemSize d.srcF, 1024 * elemSize d.srcF)
  | 1 => (d.src + 4096 * t.i, 4096)
  | 2 =>
    let e := permOf l t.b
    (d.src + e.sendOff + 4096 * t.i, Nat.min 4096 (e.sendLen - 4096 * t.i))
  | _ =>
    let e := shardEnt (l.getD t.a [])
    (e.src + 4096 * t.i, Nat.min 4096 (e.len - 4096 * t.i))

/-- Destination extent of a chunk at a member that keeps it. -/
def dstOf (d : CollD) (l : List (List Nat)) (m : Nat) (t : ChunkTag) : Nat × Nat :=
  match t.kind with
  | 0 => (d.dst + (if d.op = 1 then 0 else t.a * (d.len / m)) + t.i * d.chunk, d.chunk)
  | 1 => (d.dst + (if d.op = 4 then 0 else t.a * (d.len / m)) + t.i * d.chunk, d.chunk)
  | 2 =>
    let e := permOf l t.a
    (d.dst + e.recvOff + 4096 * t.i, Nat.min 4096 (e.recvLen - 4096 * t.i))
  | _ =>
    let e := shardEnt (l.getD t.a [])
    (e.dst + 4096 * t.i, Nat.min 4096 (e.len - 4096 * t.i))

/-- Position of the member whose codec tables a chunk names. -/
def senderOf (s : State) (p c : Nat) (l : List (List Nat)) (t : ChunkTag) : Nat :=
  if t.kind = 3 then (course s c).ids.idxOf (shard s p (shardEnt (l.getD t.a [])).shard).owner else t.a

/-! ### Memory -/

/-- Extents that work needs with a ready copy. -/
def workExtents (s : State) (cm : Cmd) (w : CollWork) : List (Nat × Nat) :=
  let d := collD cm.bits
  let m := collM s d
  let pos := (course s w.course).pos
  let t := baseTag d w.tag
  let src := if d.coded then [] else [srcOf d cm.coll.list m t]
  let dst := [dstOf d cm.coll.list m t]
  match t.kind, w.data with
  | 0, _ => [srcOf d cm.coll.list m t] ++ (if t.a = pos then dst else [])
  | 1, none => src ++ dst
  | _, none => src ++ (if t.b = pos then dst else [])
  | _, some _ => dst

/-- Slabs that work still needs (R253). -/
def workSlabs (s : State) (cm : Cmd) (w : CollWork) : List Nat :=
  ((workExtents s cm w).flatMap (fun x => missing s cm.part (addrOff x.1) x.2)).dedup

/-- A block as CODED sends it: an aligned block of tier 1 without a copy as it is stored, anything else raw (R261, R295).
None when it is damaged. -/
def sendBlock (s : State) (p x len : Nat) : Option (List Byte) :=
  if isTier1 s p x && x % 4096 == 0 && len == 4096 && !(missing s p x len).isEmpty then directRead s p x len 2
  else
    (cutsOf 4096 x len).foldr (fun c a =>
      match a, (if (missing s p c.1 c.2).isEmpty then some (s.range p c.1 c.2) else directRead s p c.1 c.2 1) with
      | some bs, some b => some (b ++ bs)
      | _, _ => none) (some [])

/-- A bridge that a CODED read needs is faulted. -/
def sendCut (s : State) (p x len : Nat) : Bool := (missing s p x len).any (unreachable s p)

/-- R294: half granules of SRC have been read; a granule read whole is set fresh. -/
def State.clearRead (s : State) (cm : Cmd) (d : CollD) (addr len : Nat) : State :=
  if d.clear then
    let new := (List.range (len / 2048)).map (fun i => (addr - d.src) / 2048 + i)
    let t := s.modColl cm.id (fun k => { k with readGr := k.readGr ++ new })
    let have_ := (t.cmd? cm.id).elim [] (·.coll.readGr)
    ((new.map (· / 2)).dedup.filter (fun g => have_.contains (2 * g) && have_.contains (2 * g + 1))).foldl (fun u g =>
      let x := addrOff d.src + 4096 * g
      let k := keyAt u cm.part x
      (u.freshen (fun y => y / 4096 == k / 4096)).dirtyAt cm.part x) t
  else s

/-! ### Sums (R291, R292) -/

/-- One addition in ACC_FMT, on element codes. -/
def accAdd (f a b : Nat) : Res Nat :=
  if f = 1 then let r := add32 (BitVec.ofNat 32 a) (BitVec.ofNat 32 b); ⟨r.val.toNat, r.fl⟩
  else
    let r := Num.add (bf16.decode a) (bf16.decode b)
    let q := elemConv 2 0 .rne r.val
    ⟨q.val, r.fl ||| q.fl⟩

def accCodes (f : Nat) (bs : List Byte) : List Nat := unpackElems (8 * elemSize f) (bs.length / elemSize f) bs
def accBytes (f : Nat) (cs : List Nat) : List Byte := packElems (8 * elemSize f) cs

/-- Add two partials element by element. -/
def addPartials (f : Nat) (a b : List Nat) : List Nat × Flags :=
  let rs := List.zipWith (accAdd f) a b
  (rs.map (·.val), orFlags (rs.map (·.fl)))

/-- This member's contribution in ACC_FMT: an exact widening. -/
def ownCodes (s : State) (p : Nat) (d : CollD) (x : Nat × Nat) : List Nat :=
  let bs := s.range p (addrOff x.1) x.2
  if d.accF = 1 then (readElems d.srcF 1024 bs).map (fun r => (round32 r.val).val.toNat)
  else accCodes d.srcF bs

/-- A part of the collective is finished here. -/
def State.collStep (s : State) (id : Nat) : State := s.modColl id (fun k => { k with count := k.count + 1 })

/-- The ways of a chunk that this member gathers out: one way on a ring, both ways on a chain. -/
def gatherWays (s : State) (cm : Cmd) (c : Nat) (t : ChunkTag) : List Bool :=
  if isChain s c then [true, false] else [gatherNext s cm (collD cm.bits) c t.a t.i]

def State.sendGather (s : State) (cm : Cmd) (c : Nat) (t : ChunkTag) (bs : List Byte) : State :=
  (gatherWays s cm c t).foldl (fun u w => u.sendMsg cm.id c w t [] (some bs)) s

/-- The owner of a shard completes a chunk: it converts the sum once and writes it; ALL_REDUCE sends it on. -/
def State.finishSum (s : State) (cm : Cmd) (c : Nat) (t : ChunkTag) (sum : List Nat) : State :=
  let d := collD cm.bits
  let rs := sum.map (fun v => elemConv d.dstF 0 .rne (elemNum d.accF v).val)
  let bs := accBytes d.dstF (rs.map (·.val))
  let u := ((s.addFlags cm.id (orFlags (rs.map (·.fl)))).cmdWrite cm.id cm.part
    (addrOff (dstOf d cm.coll.list (collM s d) t).1) bs).collStep cm.id
  if d.op = 3 then u.sendGather cm c { kind := 1, a := t.a, i := t.i } bs else u

/-- Key of a chunk's partial from one side of a chain. -/
def heldKey (t : ChunkTag) (next : Bool) : Nat := 2 * (2 ^ 40 * t.a + t.i) + (if next then 1 else 0)

/-- A chunk of a reduction at this member. -/
def State.sumWork (s : State) (cm : Cmd) (w : CollWork) : State :=
  let d := collD cm.bits
  let m := collM s d
  let t := w.tag
  let pos := (course s w.course).pos
  let x := srcOf d cm.coll.list m t
  let own := ownCodes s cm.part d x
  let read (u : State) : State := (u.countRead cm.part (addrOff x.1) x.2).clearRead cm d x.1 x.2
  if isChain s w.course && pos = t.a && decide (1 < m) then
    let u := s.modColl cm.id (fun k =>
      { k with held := SMap.set [] k.held (heldKey t w.next) (w.data.getD []) })
    let h := (u.cmd? cm.id).elim [] (·.coll.held)
    let left := SMap.get [] h (heldKey t true)
    let right := SMap.get [] h (heldKey t false)
    if (0 < pos && left.isEmpty) || (pos + 1 < m && right.isEmpty) then u
    else
      let r1 := if 0 < pos then addPartials d.accF (accCodes d.accF left) own else (own, 0)
      let r2 := if pos + 1 < m then addPartials d.accF r1.1 (accCodes d.accF right) else (r1.1, 0)
      (((read u).addFlags cm.id (r1.2 ||| r2.2)).modColl cm.id (fun k =>
        { k with held := SMap.set [] (SMap.set [] k.held (heldKey t true) []) (heldKey t false) [] })).finishSum cm
          w.course t r2.1
  else
    let r := match w.data with
      | none => (own, (0 : Flags))
      | some bs => addPartials d.accF (accCodes d.accF bs) own
    let u := (read s).addFlags cm.id r.2
    if pos = t.a then u.finishSum cm w.course t r.1
    else (u.sendMsg cm.id w.course w.next t [] (some (accBytes d.accF r.1))).collStep cm.id

/-! ### Codec tables and coded blocks (R295) -/

/-- The header of a coded block that CODED sends: stored blocks shorter than 4,096 bytes. -/
def codedTable (d : CollD) (bs : List Byte) : Option Nat :=
  if d.coded && decide (bs.length < 4096) && decide (8 ≤ bs.length) then some (codedHdr bs).table else none

/-- Send the lengths of a table before its first block, the way that the block goes. -/
def State.sendTable (s : State) (cm : Cmd) (c : Nat) (next : Bool) (dest : Nat) (bs : List Byte) : State :=
  match codedTable (collD cm.bits) bs with
  | none => s
  | some tb =>
    let key := (dest * 64 + tb) * 2 + (if next then 1 else 0)
    if ((s.cmd? cm.id).elim [] (·.coll.sentTables)).contains key then s
    else
      let lens := tableLens s cm.part tb
      let val := (List.range 128).map (fun i => BitVec.ofNat 8 (lens.getD (2 * i) 0 + 16 * lens.getD (2 * i + 1) 0))
      (s.modColl cm.id (fun k => { k with sentTables := k.sentTables ++ [key] })).sendMsg cm.id c next
        { kind := 18, a := (course s c).pos, b := dest, i := tb } val none

/-- Bytes of a block at the receiver; none when the expander rejects it. -/
def receiveBlock (s : State) (cm : Cmd) (c : Nat) (t : ChunkTag) (bs : List Byte) : Option (List Byte) :=
  match codedTable (collD cm.bits) bs with
  | none => some bs
  | some _ =>
    let from_ := senderOf s cm.part c cm.coll.list t
    expandBlock (fun tb => SMap.get [] cm.coll.tables (from_ * 64 + tb)) bs

/-! ### Copies: gathers, segments and shards -/

/-- This module's ID at a position of a course. -/
def idAt (s : State) (c pos : Nat) : Nat := (course s c).ids.getD pos 0

/-- A shard has arrived whole at its new owner: IN, and COPIED; a shard whose owner stays is committed at once. -/
def State.shardArrived (s : State) (cm : Cmd) (c : Nat) (e : ShardEnt) : State :=
  let p := cm.part
  let d := shard s p e.shard
  if d.st = 0 && d.owner = s.settings.moduleId then
    ((s.setShard p e.shard { d with epoch := (d.epoch + 1) % 65536 }).modColl cm.id (fun k =>
      { k with flips := k.flips ++ [e.shard] })).emit (.flip c e.shard d.owner ((d.epoch + 1) % 65536))
  else (s.setShard p e.shard { d with st := 2, peer := d.owner }).emit (.copied c e.shard)

/-- A chunk has been written at its destination. -/
def State.chunkLanded (s : State) (cm : Cmd) (c : Nat) (t : ChunkTag) : State :=
  match t.kind with
  | 2 =>
    let e := permOf cm.coll.list t.a
    let u := (s.modColl cm.id (fun k => { k with segs := SMap.modify 0 k.segs t.a (· + 1) })).collStep cm.id
    let n := (u.cmd? cm.id).elim 0 (fun k => SMap.get 0 k.coll.segs t.a)
    let pos := (course s c).pos
    if t.a != pos && n = ceilDiv e.recvLen 4096 then u.sendTo cm.id c t.a { kind := 19, a := pos, b := t.a } [] none else u
  | 3 =>
    let e := shardEnt (cm.coll.list.getD t.a [])
    let u := s.modColl cm.id (fun k => { k with segs := SMap.modify 0 k.segs t.a (· + 1) })
    let n := (u.cmd? cm.id).elim 0 (fun k => SMap.get 0 k.coll.segs t.a)
    if n = Nat.max 1 (e.len / 4096) then u.shardArrived cm c e else u
  | _ => s.collStep cm.id

/-- Mark a chunk's DST poisoned after a second rejection (R175, R267, R295). -/
def State.poisonChunk (s : State) (cm : Cmd) (x : Nat × Nat) : State :=
  let t := (List.range (ceilDiv x.2 64)).foldl (fun t i =>
    let k := keyAt t cm.part (addrOff x.1 + 64 * i)
    (t.clearFresh k).setPoison k true) s
  let u := (t.dirtyAt cm.part (addrOff x.1)).noteLate cm.id St.codecDamaged
  (u.bump (tirPage u cm.part) Reg.tirDamage 31 0 1).raise_ (tirPage u cm.part) 1
    { d0 := BitVec.ofNat 64 x.1, d3 := (tagDet cm).d3 }

/-- A chunk that this member starts to send, or copies locally, with the bytes that were read. -/
def State.startWith (s : State) (cm : Cmd) (w : CollWork) (read : Option (List Byte)) : State :=
  let d := collD cm.bits
  let m := collM s d
  let t := baseTag d w.tag
  let pos := (course s w.course).pos
  let x := srcOf d cm.coll.list m t
  let local_ := t.kind != 1 && t.b = pos
  match read with
  | none => s.endCmd cm.id St.codecDamaged
  | some bs =>
    let u := s.countRead cm.part (addrOff x.1) x.2
    if t.kind = 1 && w.tag.kind = 1 then
      let raw := if (codedTable d bs).isSome then expandBlock (tableLens s cm.part) bs else some bs
      let y := dstOf d cm.coll.list m t
      let v := ((gatherWays s cm w.course t).foldl (fun v n => v.sendTable cm w.course n toAll bs) u).sendGather cm
        w.course t bs
      match raw with
      | some r => (v.cmdWrite cm.id cm.part (addrOff y.1) r).collStep cm.id
      | none => v.endCmd cm.id St.codecDamaged
    else if local_ && w.tag.kind != 4 then
      let raw := if (codedTable d bs).isSome then expandBlock (tableLens s cm.part) bs else some bs
      match raw with
      | some r => (u.cmdWrite cm.id cm.part (addrOff (dstOf d cm.coll.list m t).1) r).chunkLanded cm w.course t
      | none => u.endCmd cm.id St.codecDamaged
    else (u.sendTable cm w.course (wayTo s w.course w.tag.b) w.tag.b bs).sendTo cm.id w.course w.tag.b w.tag [] (some bs)

/-- A chunk's source is read, and the chunk starts. -/
def State.startCopy_ (s : State) (cm : Cmd) (w : CollWork) : State :=
  let d := collD cm.bits
  let x := srcOf d cm.coll.list (collM s d) (baseTag d w.tag)
  s.startWith cm w (sendBlock s cm.part (addrOff x.1) x.2)

/-- A chunk that has arrived for this member. -/
def State.landChunk (s : State) (cm : Cmd) (w : CollWork) (bs : List Byte) : State :=
  let d := collD cm.bits
  let t := baseTag d w.tag
  let pos := (course s w.course).pos
  let x := dstOf d cm.coll.list (collM s d) t
  match receiveBlock s cm w.course t bs with
  | some raw =>
    let u := if cm.coll.retried.contains t then s.bump (tirPage s cm.part) Reg.tirDamage 63 32 1 else s
    (u.cmdWrite cm.id cm.part (addrOff x.1) (raw.take x.2)).chunkLanded cm w.course t
  | none =>
    if cm.coll.retried.contains t then (s.poisonChunk cm x).chunkLanded cm w.course t
    else
      let orig := senderOf s cm.part w.course cm.coll.list t
      let i := if t.kind = 3 then 2 ^ 28 * t.a + t.i else t.i
      (s.modColl cm.id (fun k => { k with retried := k.retried ++ [t] })).sendTo cm.id w.course orig
        { kind := 20, a := pos, b := orig, i := i } [] none

/-! ### The work list -/

/-- Source bytes that work reads are poisoned (R176). -/
def workPoisoned (s : State) (cm : Cmd) (w : CollWork) : Bool :=
  let d := collD cm.bits
  let t := baseTag d w.tag
  let x := srcOf d cm.coll.list (collM s d) t
  (t.kind == 0 || w.data.isNone) && (missing s cm.part (addrOff x.1) x.2).isEmpty &&
    poisonedRange s cm.part (addrOff x.1) x.2

def State.doWork (s : State) (cm : Cmd) (w : CollWork) : State :=
  let d := collD cm.bits
  let x := srcOf d cm.coll.list (collM s d) (baseTag d w.tag)
  if workPoisoned s cm w then s.endCmd cm.id St.dataPoisoned
  else if w.tag.kind = 0 then s.sumWork cm w
  else
    match w.data with
    | none =>
      if sendCut s cm.part (addrOff x.1) x.2 then s.endCmd cm.id St.tierUnreachable else s.startCopy_ cm w
    | some bs => s.landChunk cm w bs

/-- Parts that a collective has to finish here. -/
def collParts (s : State) (cm : Cmd) : Nat :=
  let d := collD cm.bits
  let m := collM s d
  let n := d.chunks m
  match d.op with
  | 1 => m * n
  | 2 => m * n
  | 3 => m * n + (m - 1) * n
  | 4 => n
  | 5 =>
    let pos := (course s (d.courses.headD 0)).pos
    (cm.coll.list.map permEnt).foldl (fun a e =>
      a + ceilDiv e.recvLen 4096 + (if e.peer != pos && e.sendLen != 0 then 1 else 0)) 0
  | _ => 0

def collDone (s : State) (cm : Cmd) : Bool :=
  cm.coll.started && cm.coll.work.isEmpty &&
    (if (collD cm.bits).op = 6 then
      (cm.coll.list.map shardEnt).all (fun e => cm.coll.flips.contains e.shard)
     else cm.coll.count == collParts s cm)

/-- Finish a collective that has nothing left to do. -/
def State.checkColl (s : State) (id : Nat) : State :=
  match s.cmd? id with
  | some cm => if cm.status.isNone && collDone s cm then s.finishCmd id else s
  | none => s

/-- Do the work that memory allows; the rest waits on slab-ready (R253, R254). -/
def State.pumpColl (s : State) (id : Nat) : State :=
  match s.cmd? id with
  | none => s
  | some cm =>
    if cm.status.isSome || !cm.coll.started then s
    else
      let r := cm.coll.work.foldl (fun (a : State × List CollWork × List Nat) w =>
        match a.1.cmd? id with
        | none => a
        | some k =>
          if k.status.isSome then a
          else
            match workSlabs a.1 k w with
            | [] => (a.1.doWork k w, a.2.1, a.2.2)
            | sl => (a.1, a.2.1 ++ [w], (a.2.2 ++ sl).dedup)) (s.modColl id (fun k => { k with work := [] }), [], [])
      let t := r.1.modColl id (fun k => { k with work := k.work ++ r.2.1 })
      match r.2.2 with
      | [] =>
        let u := t.unpin id
        (match u.cmd? id with
         | some k => if k.status.isNone && k.wait != Wait.coll then u.cmdWaits id .coll else u
         | none => u).checkColl id
      | sl => t.waitSlabs id cm.part sl

/-- Give every collective of a partition its turn, after memory has changed (R253). -/
def State.pumpColls (s : State) (p : Nat) : State :=
  ((s.cmds.filter (fun c => c.part == p && c.coll.started && c.status.isNone)).map (·.id)).foldl State.pumpColl s

/-! ### Arriving flits (R276, R287, R289, R295) -/

/-- The unfinished command of a CSEQ on a course. -/
def collOf (s : State) (c cseq : Nat) : Option Cmd :=
  s.cmds.find? (fun k => k.status.isNone && k.coll.seqs.contains (c, cseq))

/-- A CSEQ that this member has not yet dispatched: one of the eight after the latest. -/
def isAhead (s : State) (c cseq : Nat) : Bool :=
  cseq != 0 && decide ((cseq + 65535 - (course s c).cseq) % 65535 ≤ 8) && cseq != (course s c).cseq

/-- The next member along a way takes a gathered chunk or a table: not the one that it comes from. -/
def passOn (s : State) (c a : Nat) (next : Bool) : Bool :=
  hasNext s c next && (isChain s c || stepPos (Nat.max 1 (courseSize s c)) (course s c).pos next != a)

/-- Code lengths of 4 bits, the lower half of a byte first. -/
def nibbles (bs : List Byte) : List Nat := bs.flatMap (fun b => [b.toNat % 16, b.toNat / 16])

/-- A control message of a started collective. -/
def State.ctlArrived (s : State) (cm : Cmd) (q : Nat) (bs : List Byte) : State :=
  let c := q / 2
  let next := q % 2 = 0
  let t := ctlTag bs
  let pos := (course s c).pos
  let val := bs.take 128
  let on : State := s.sendMsg cm.id c next t val none
  if bs.length < 142 then s
  else if t.kind = 16 then
    if leNat (bs.take 8) = (collCrc cm.bits).toNat then s else s.failColl cm.id St.collMismatch
  else if t.kind < 16 then
    s.modColl cm.id (fun k => { k with cur := SMap.set none k.cur q (some t), part := SMap.set [] k.part q [] })
  else if t.kind = 18 then
    let u := if t.b = toAll || t.b = pos then
        s.modColl cm.id (fun k =>
          { k with tables := SMap.set [] k.tables (t.a * 64 + t.i) (nibbles val) })
      else s
    if (t.b = toAll && passOn s c t.a next) || (t.b != toAll && t.b != pos) then u.sendMsg cm.id c next t val none else u
  else if t.b != pos then on
  else if t.kind = 17 then
    if leNat (bs.take 8) = (permOf cm.coll.list t.a).recvLen then s else s.failColl cm.id St.collMismatch
  else if t.kind = 19 then
    ((s.modColl cm.id (fun k => { k with acks := k.acks ++ [t.a] })).collStep cm.id).checkColl cm.id
  else if t.kind = 20 then
    (s.modColl cm.id (fun k =>
      { k with work := k.work ++ [{ course := c, next := wayTo s c t.a, tag := { kind := 4, a := pos, b := t.a, i := t.i } }] })).pumpColl
        cm.id
  else s

/-- A chunk has arrived whole on a port. -/
def State.chunkArrived (s : State) (cm : Cmd) (q : Nat) (t : ChunkTag) (bs : List Byte) : State :=
  let c := q / 2
  let next := q % 2 = 0
  let pos := (course s c).pos
  if t.kind ≥ 2 && t.b != pos then s.sendMsg cm.id c next t [] (some bs)
  else
    let u := if t.kind = 1 && passOn s c t.a next then s.sendMsg cm.id c next t [] (some bs) else s
    (u.modColl cm.id (fun k => { k with work := k.work ++ [{ course := c, next := next, tag := t, data := some bs }] })).pumpColl
      cm.id

/-- A data or control flit reaches the collective that its CSEQ names; it is held for one that has not started here. -/
def State.collFlit (s : State) (q : Nat) (o : FlitOut) : State :=
  let c := q / 2
  let hold : State := s.modCourse c (fun x => { x with held := x.held ++ [(q, o)] })
  match collOf s c o.cseq with
  | none => if isAhead s c o.cseq then hold else s
  | some cm =>
    if !cm.coll.started then
      if o.typ = 2 && (ctlTag o.payload).kind = 16 then s.ctlArrived cm q o.payload else hold
    else if o.typ = 2 then s.ctlArrived cm q o.payload
    else
      match SMap.get none cm.coll.cur q with
      | none => s
      | some t =>
        let bs := SMap.get [] cm.coll.part q ++ o.payload
        if o.flags.testBit flagLast then
          (s.modColl cm.id (fun k =>
            { k with cur := SMap.set none k.cur q none, part := SMap.set [] k.part q [] })).chunkArrived cm q t bs
        else s.modColl cm.id (fun k => { k with part := SMap.set [] k.part q bs })

/-! ### Numbering and starting (R283, R289, R293, R296) -/

/-- The unfinished collectives of a partition, in dispatch order. -/
def collsOf (s : State) (p : Nat) : List Cmd :=
  s.cmds.filter (fun c => c.part == p && c.coll.accepted && c.status.isNone)

/-- One course numbers one command; what the course holds for that number is looked at. -/
def State.numberOn (s : State) (id c : Nat) : State :=
  let n := if (course s c).cseq = 65535 then 1 else (course s c).cseq + 1
  let t := (s.modCourse c (fun x => { x with cseq := n, abandoned := x.abandoned.filter (· != n) })).modColl id
    (fun k => { k with seqs := k.seqs ++ [(c, n)] })
  if (course s c).abandoned.contains n then t.endCmd id St.fabricTimeout
  else
    match t.cmd? id with
    | none => t
    | some cm =>
      let crcs := (course t c).held.filter (fun e => e.2.cseq == n && e.2.typ == 2 && (ctlTag e.2.payload).kind == 16)
      crcs.foldl (fun u e => u.ctlArrived cm e.1 e.2.payload) t

/-- Number a command on the courses that have not, as far as they are up. -/
def State.numberColl (s : State) (cm : Cmd) : State :=
  (collD cm.bits).courses.foldl (fun t c =>
    match t.cmd? cm.id with
    | none => t
    | some k =>
      if k.status.isSome || k.coll.seqs.any (fun e => e.1 == c) || (course t c).st == 1 then t
      else if (course t c).st == 2 || (course t c).st == 3 then t.numberOn cm.id c
      else t.endCmd cm.id St.peerDeparted) s

/-- A numbered command may start now (R293). -/
def mayStart (s : State) (cm : Cmd) : Bool :=
  let d := collD cm.bits
  let share (k : Cmd) : Bool := (collD k.bits).courses.any (fun c => d.courses.contains c)
  let others := (collsOf s cm.part).filter (fun k => k.id != cm.id)
  !cm.coll.started && d.courses.all (fun c => cm.coll.seqs.any (fun e => e.1 == c)) &&
    !(others.any (fun k => decide (k.id < cm.id) && !k.coll.started && (cm.det || share k))) &&
    d.courses.all (fun c =>
      let run := others.filter (fun k => k.coll.started && (collD k.bits).courses.contains c)
      if cm.det || run.any (·.det) then run.isEmpty else decide (run.length < 4))

/-- The chunks that this member starts. -/
def firstWork (s : State) (cm : Cmd) : List CollWork :=
  let d := collD cm.bits
  let m := collM s d
  let own (c sh i : Nat) (next : Bool) : CollWork := { course := c, next := next, tag := { kind := 0, a := sh, i := i } }
  d.courses.flatMap (fun c =>
    let pos := (course s c).pos
    let is := d.chunksOn m c
    match d.op with
    | 4 => if pos = d.root then is.map (fun i => { course := c, tag := { kind := 1, a := pos, i := i } }) else []
    | 2 => is.map (fun i => { course := c, tag := { kind := 1, a := pos, i := i } })
    | 5 =>
      (cm.coll.list.map permEnt).flatMap (fun e =>
        (List.range (ceilDiv e.sendLen 4096)).map (fun i =>
          { course := c, next := wayTo s c e.peer, tag := { kind := 2, a := pos, b := e.peer, i := i } }))
    | 6 =>
      (cm.coll.list.zipIdx).flatMap (fun x =>
        let e := shardEnt x.1
        if isOldOwner s cm.part e.shard then
          (List.range (Nat.max 1 (e.len / 4096))).map (fun i =>
            { course := c, next := wayTo s c e.pos, tag := { kind := 3, a := x.2, b := e.pos, i := i } })
        else [])
    | _ =>
      (List.range m).flatMap (fun sh => is.flatMap (fun i =>
        if m = 1 then [own c sh i true]
        else if isChain s c then
          if pos = 0 && sh != 0 then [own c sh i true]
          else if pos + 1 = m && sh + 1 != m then [own c sh i false] else []
        else
          let next := reduceNext s cm d c sh i
          if startPos m sh next = pos then [own c sh i next] else [])))

/-- Note the start in NAR_COLL_ORDER of the engines that take part (Table NAR-16) and in the ledger (R241). -/
def State.noteStart (s : State) (cm : Cmd) : State :=
  let engines := (cm.coll.seqs.map (fun e => e.1 / 2)).dedup
  let t := engines.foldl (fun t n =>
    let last := ((cm.coll.seqs.filter (fun e => e.1 / 2 == n)).getLastD (0, 0)).2
    (t.bumpWrap (Blk.nar.page n) Reg.narCollOrder 63 32 1).setRegFld (Blk.nar.page n) Reg.narCollOrder 15 0 last) s
  cm.coll.seqs.foldl (fun t e => t.ledgerColl cm e.1) t

/-- The control flits that a member sends first: the descriptor's CRC64, and the lengths that PERMUTE announces. -/
def State.sendGreetings (s : State) (cm : Cmd) : State :=
  let crc := leBytes 8 (collCrc cm.bits).toNat
  let t := cm.coll.seqs.foldl (fun t e =>
    let g : ChunkTag := { kind := 16, a := (course s e.1).pos }
    (t.sendMsg cm.id e.1 true g crc none).sendMsg cm.id e.1 false g crc none) s
  if (collD cm.bits).op = 5 then
    cm.coll.seqs.foldl (fun t e =>
      let pos := (course s e.1).pos
      (cm.coll.list.map permEnt).foldl (fun u x =>
        if x.peer = pos then u
        else u.sendTo cm.id e.1 x.peer { kind := 17, a := pos, b := x.peer } (leBytes 8 x.sendLen) none) t) t
  else t

/-- The old owner writes OUT for the shards that leave it (R301 step 1). -/
def State.markOut (s : State) (cm : Cmd) : State :=
  if (collD cm.bits).op = 6 then
    let c := (collD cm.bits).courses.headD 0
    (cm.coll.list.map shardEnt).foldl (fun t e =>
      if isOldOwner t cm.part e.shard && e.pos != (course t c).pos then
        t.setShard cm.part e.shard { shard t cm.part e.shard with st := 1, peer := idAt t c e.pos }
      else t) s
  else s

/-- Start a collective: checks that had to wait for the walk, the first flits, its own chunks, and what is held. -/
def State.startColl (s : State) (id : Nat) : State :=
  match s.cmd? id with
  | none => s
  | some cm =>
    match collCheck1 s cm.part cm.bits cm.coll.list with
    | some st => s.endCmd id st
    | none =>
      let t := (s.modColl id (fun k => { k with started := true, work := firstWork s cm })).noteStart cm
      let u := ((t.sendGreetings cm).markOut cm).pumpColl id
      cm.coll.seqs.foldl (fun v e =>
        let mine := (course v e.1).held.filter (fun h => h.2.cseq == e.2)
        mine.foldl (fun w h => w.collFlit h.1 h.2)
          (v.modCourse e.1 (fun x => { x with held := x.held.filter (fun h => h.2.cseq != e.2) }))) u

/-- Number and start what can be, in dispatch order. -/
def State.tryColls (s : State) (p : Nat) : State :=
  let t := (collsOf s p).foldl State.numberColl s
  ((collsOf t p).map (·.id)).foldl (fun u id =>
    match u.cmd? id with
    | some cm => if cm.status.isNone && mayStart u cm then u.startColl id else u
    | none => u) t

end Sys2Proof.Machine
end

