-- ==== Sys2Proof/Machine/Courses.lean ====
section
/-! DEFINITION. Courses: walks, losses, fallback, and the settling of shards (R279–R283, R298–R302, R305). -/

namespace Sys2Proof.Machine

/-! ### Changes of state -/

/-- COURSE_CHANGE, with the course and its state. -/
def State.courseEvent (s : State) (c : Nat) : State :=
  s.raise_ (coursePage c) 2 { d1 := ids16 [c, (course s c).st] }

/-- End the collectives of a course; `all` takes those too that it has not numbered yet. -/
def State.endColls (s : State) (c : Nat) (all : Bool) : State :=
  ((collsOf s (partOfCourse s c)).filter (fun k =>
    (collD k.bits).courses.contains c && (all || k.coll.seqs.any (fun e => e.1 == c)))).foldl
      (fun t k => t.endCmd k.id St.peerDeparted) s

/-- The course leaves service in a state: DOWN or BROKEN. -/
def State.dropCourse (s : State) (c st : Nat) : State :=
  let t := s.modCourse c (fun x =>
    { x with st := st, fallback := false, lead := false, held := [], abandoned := [], cseq := 0 })
  ((t.endColls c true).courseEvent c).tryColls (partOfCourse s c)

/-! ### Tokens (R282, R299) -/

/-- Every listed entry of a partition's directory: shard, this module's ID, state, and the owner or peer. -/
def shardReports (s : State) (p : Nat) : List (Nat × Nat × Nat × Nat) :=
  (s.shards.filter (fun e => e.1 / 16384 == p)).map (fun e =>
    (e.1 % 16384, s.settings.moduleId, e.2.st, if e.2.st = 0 then e.2.owner else e.2.peer))

/-- The token that this member starts a walk with. -/
def firstToken (s : State) (c : Nat) (fallback : Bool) : WalkTok :=
  { count := 1, tag := courseReg s c 15 0, kind := if fallback then 1 else courseReg s c 62 62,
    size := if fallback then 0 else courseSize s c, ids := [s.settings.moduleId], back := false, ok := true,
    fallback := fallback, shards := shardReports s (partOfCourse s c) }

/-- The NEXT port has a peer. -/
def hasPeer (s : State) (q : Nat) : Bool := (port s q).st == 1

/-! ### Shards after a walk (R302) -/

/-- One entry that is not STABLE, settled from what the members reported. -/
def settleShard (own : Nat) (tok : WalkTok) (i : Nat) (e : Shard) : Shard × Bool :=
  let said (id : Nat) : Option (Nat × Nat × Nat × Nat) := tok.shards.find? (fun r => r.1 == i && r.2.1 == id)
  if e.st = 1 then
    match said e.peer with
    | some r =>
      if r.2.2.1 = 2 && r.2.2.2 = own then ({ st := 0, owner := e.peer, peer := 0, epoch := (e.epoch + 1) % 65536 }, true)
      else ({ e with st := 0, owner := own, peer := 0 }, false)
    | none => if tok.ids.contains e.peer then ({ e with st := 0, owner := own, peer := 0 }, false) else (e, false)
  else if e.st = 2 then
    match said e.peer with
    | some r =>
      if r.2.2.1 = 0 then
        (if r.2.2.2 = own then { st := 0, owner := own, peer := 0, epoch := (e.epoch + 1) % 65536 }
         else { e with st := 0, owner := r.2.2.2, peer := 0 }, false)
      else (e, false)
    | none => if tok.ids.contains e.peer then ({ e with st := 0, owner := e.peer, peer := 0 }, false) else (e, false)
  else (e, false)

/-- Settle the partition's entries; an old owner that commits sends FLIP. -/
def State.settleShards (s : State) (c : Nat) (tok : WalkTok) : State :=
  let p := partOfCourse s c
  (s.shards.filter (fun e => e.1 / 16384 == p && e.2.st != 0)).foldl (fun t e =>
    let r := settleShard s.settings.moduleId tok (e.1 % 16384) e.2
    let u := t.setShard p (e.1 % 16384) r.1
    if r.2 then u.emit (.flip c (e.1 % 16384) r.1.owner r.1.epoch) else u) s

/-! ### The end of a walk -/

/-- The walk has succeeded: UP, or FALLBACK with the chain's SIZE. -/
def State.courseUp (s : State) (c : Nat) (tok : WalkTok) : State :=
  let fb := (course s c).fallback
  let t := s.modCourse c (fun x =>
    { x with st := if fb then 3 else 2, fallback := false, lead := false, ids := tok.ids, cseq := 0, held := [],
             abandoned := [] })
  let u := if fb then t.setRegFld (coursePage c) (Reg.narCourse + c % 2) 57 40 tok.size else t
  (u.settleShards c tok).tryColls (partOfCourse s c)

/-- A walk that has failed, or timed out: DOWN, or BROKEN for a fallback walk (R283). -/
def State.walkFails (s : State) (c : Nat) : State := s.dropCourse c (if (course s c).fallback then 4 else 0)

/-- The verdict of a walk as it travels back. -/
def verdict (tok : WalkTok) (ok : Bool) : WalkTok := { tok with back := true, ok := ok }

/-- The walk fails here, and the members that its token reached are told. -/
def State.refuseWalk (s : State) (c : Nat) (tok : WalkTok) : State :=
  (s.walkFails c).emit (.walk c (verdict tok false))

/-- The last member of a chain judges the walk. -/
def State.judgeChain (s : State) (c : Nat) (tok : WalkTok) : State :=
  if tok.fallback then
    let t := { tok with size := tok.count }
    let u := s.courseUp c t
    if (course s c).pos = 0 then u else u.emit (.walk c (verdict t true))
  else if tok.count = courseSize s c then
    let u := s.courseUp c tok
    if (course s c).pos = 0 then u else u.emit (.walk c (verdict tok true))
  else s.refuseWalk c tok

/-- Send the token on along NEXT, or judge at the end of a chain. -/
def State.passToken (s : State) (c : Nat) (tok : WalkTok) : State :=
  if tok.kind = 1 && !hasPeer s (nextPort c) then s.judgeChain c tok else s.emit (.walk c tok)

/-- Start the fallback walk as the member after the gap, or wait for its token (R299). -/
def State.startFallback (s : State) (c : Nat) (head : Bool) : State :=
  let t := (s.modCourse c (fun x =>
    { x with st := 1, fallback := true, lead := head, walkStart := s.now, pos := 0, cseq := 0, held := [],
             abandoned := [] })).endColls c false
  let u := t.courseEvent c
  let v := if head then u.passToken c (firstToken u c true) else u
  v.tryColls (partOfCourse s c)

/-- The course has lost a member or a link elsewhere, and cannot fall back. -/
def State.breakCourse (s : State) (c : Nat) : State := s.dropCourse c 4

/-- A ring that may fall back (R299). -/
def mayFallBack (s : State) (c : Nat) : Bool :=
  (course s c).st == 2 && courseReg s c 62 62 == 0 && courseReg s c 61 61 == 1

/-- A port of a course is lost: its peer has departed, or the port is retired (R278, R279, R298, R299, R305). -/
def State.loseLink (s : State) (q : Nat) : State :=
  let c := q / 2
  let v := course s c
  let after := q % 2 = 0
  let lost : WalkTok := { firstToken s c false with count := 0, back := true, ok := false, ids := [], shards := [] }
  if v.st = 1 then
    if v.fallback then
      if (port s q).peerId = (port s (if after then q + 1 else q - 1)).peerId then
        s.judgeChain c (firstToken s c true)
      else s.refuseWalk c lost
    else s.refuseWalk c lost
  else if v.st = 2 || v.st = 3 then
    if !hasNext s c (!after) then s
    else if mayFallBack s c then s.startFallback c after
    else (s.breakCourse c).emit (.walk c lost)
  else s

/-- The peer on a port has departed (R279). -/
def State.peerDeparts (s : State) (q : Nat) : State :=
  if (port s q).st = 1 then
    (s.modPort q (fun x => { x with st := 3, waiting := [], retry := [] })).loseLink q
  else s

/-- A wavelength has gone; when its port went with it, the course has lost a link. -/
def wlGone (r : State × Bool) (q : Nat) : State := if r.2 then r.1.loseLink q else r.1

/-! ### Tokens that arrive -/

/-- A verdict, or the notice that a course has lost a member. -/
def State.verdictArrives (s : State) (c : Nat) (tok : WalkTok) : State :=
  let v := course s c
  let m := if tok.fallback then tok.size else courseSize s c
  let last := if tok.kind = 1 then v.pos == 0 else v.pos + 1 == m
  if v.st = 1 then
    if tok.ok then
      let t := s.courseUp c tok
      if last then t else t.emit (.walk c tok)
    else (s.walkFails c).emit (.walk c tok)
  else if (v.st = 2 || v.st = 3) && !tok.ok then (s.breakCourse c).emit (.walk c tok)
  else s

/-- A token on its way round (R282, R299, R305). -/
def State.tokenArrives (s : State) (c : Nat) (tok : WalkTok) : State :=
  let v := course s c
  let own := s.settings.moduleId
  let sent : WalkTok :=
    { tok with count := tok.count + 1, ids := tok.ids ++ [own],
               shards := tok.shards ++ shardReports s (partOfCourse s c) }
  if tok.fallback then
    let join (t : State) : State := (t.modCourse c (fun x => { x with pos := tok.count })).passToken c sent
    if v.st = 1 && v.fallback && !v.lead && !tok.ids.contains own then join s
    else if mayFallBack s c then join (s.startFallback c false)
    else if v.st = 2 || v.st = 3 then (s.breakCourse c).emit (.walk c (verdict tok false))
    else s
  else if v.st != 1 || v.fallback then s
  else if courseReg s c 21 21 = 1 then
    -- the head: its own token has come round, or another head's has come
    if tok.ids.head? = some own && tok.kind = 0 && tok.kind = courseReg s c 62 62 && tok.count = courseSize s c &&
        tok.tag = courseReg s c 15 0 then
      let t := s.courseUp c tok
      if courseSize s c = 1 then t else t.emit (.walk c (verdict tok true))
    else s.refuseWalk c tok
  else if tok.tag = courseReg s c 15 0 && tok.kind = courseReg s c 62 62 && tok.size = courseSize s c &&
      !tok.ids.contains own then
    (s.modCourse c (fun x => { x with pos := tok.count })).passToken c sent
  else s.refuseWalk c tok

end Sys2Proof.Machine
end

