-- ==== Sys2Proof/Machine/Narar.lean ====
section
/-! DEFINITION. The Narar fabric's commands (R275–R307). -/

namespace Sys2Proof.Machine

/-! ### Flits and ports -/

/-- A flit with a good CRC: its ACK and NAK, its SLOW, its place in SEQ order, and its payload. -/
def State.goodFlit (s : State) (q : Nat) (f : BitVec 2048) : State :=
  let flags := flitFld f 23 16
  let ack := flitFld f 79 64
  let seq := flitFld f 95 80
  let t := s.takeAck q ack
  let u := if flags.testBit flagNak then t.replayAfter q ack else t
  let v := (u.pumpPort q (port u q).waiting.length).takeSlow q (flags.testBit flagSlow)
  let ahead := (seq + 65536 - (port v q).rxSeq) % 65536
  if ahead = 1 then
    let w := v.modPort q (fun x => { x with rxSeq := seq })
    let typ := flitFld f 7 0
    let payload := leBytes (Nat.min 240 (flitFld f 15 8)) (f.toNat >>> 128)
    if typ = 1 then
      w.collFlit q { typ := 1, cseq := flitFld f 63 48, unit := flitFld f 47 24, flags := flags, payload := payload }
    else if typ = 2 then w.collFlit q { typ := 2, cseq := ctlCseq payload, unit := flitFld f 47 24, payload := payload }
    else w
  else if ahead = 0 || 32768 ≤ ahead then v
  else v.sendNak q

/-- FLIT_RECEIVE (R276–R278, R287, R289, R291, R292, R295, R297). -/
def execFlitReceive (port wl : Nat) (flit : BitVec 2048) (s : State) : Answer :=
  let p := Machine.port s port
  if p.st != 1 || !p.wl.getLsbD wl then .next s
  else if flitCrc flit != flitFld flit 127 96 then .next (wlGone (s.crcError port wl) port)
  else
    let t := s.goodFlit port flit
    .next (t.tryColls (partOfPort s port))

/-- WAVELENGTH_LOCK_LOSS (R278, R305). -/
def execWavelengthLockLoss (port wl : Nat) (s : State) : Answer := .next (wlGone (s.retireWl port wl) port)

/-- DEPARTED_NOTICE (R279, R298, R299). -/
def execDepartedNotice (port : Nat) (s : State) : Answer := .next (s.peerDeparts port)

/-- PEER_LOCK_LOSS (R279): every wavelength of the peer has been unlocked for 100 µs. -/
def execPeerLockLoss (port t : Nat) (s : State) : Answer := .next ((s.at_ t).peerDeparts port)

/-- PORT_LINK_TRAINING (R280): the wavelengths in service that lock, and the peer. A port with fewer than 12 stays down
(DESIGN CHOICE, log 26). -/
def execPortLinkTraining (port : Nat) (locked : BitVec 16) (peerId peerPort : Nat) (s : State) : Answer :=
  let p := Machine.port s port
  let wl := locked &&& ~~~p.retiredWl
  if p.st = 2 || wlCount wl < 12 || s.startup.phase < 4 then .next s
  else
    let t := s.modPort port (fun x =>
      { x with st := 1, wl := wl, peerId := peerId, peerPort := peerPort, txSeq := 0, rxSeq := 0, retry := [], waiting := [],
               slow := false })
    .next (s.noteHealth t (portHealthPages port))

/-! ### Courses -/

/-- A write of NAR_COURSE: while ENABLE is 1, SIZE, KIND, HEAD and TAG keep their values (R282). -/
def courseWord (s : State) (c : Nat) (val : Word) : Nat :=
  let old := s.reg (coursePage c) (Reg.narCourse + c % 2)
  let new := writeFields (fieldsOf .nar (Reg.narCourse + c % 2)) old val.toNat
  if old.testBit 63 then setFld (setFld old 63 63 (fld new 63 63)) 61 61 (fld new 61 61) else new

/-- COURSE_ENABLE (R281, R282): the course begins its walk; the head sends the token. -/
def execCourseEnable (who : Requester) (course : Nat) (val : Word) (s : State) : Answer :=
  .next (s.onWrite who (coursePage course) (fun s =>
    let was := courseOn s course
    let t := s.setReg (coursePage course) (Reg.narCourse + course % 2) (courseWord s course val)
    if !was && courseOn t course then
      let u := t.modCourse course (fun _ => { st := 1, walkStart := s.now, lead := courseReg t course 21 21 == 1 })
      if courseReg u course 21 21 = 1 then u.passToken course (firstToken u course false) else u
    else t))

/-- COURSE_DISABLE (R282, R307): the member leaves the course, and its peers see it as departed. `fallbackSize` is the
SIZE that a fallback walk would have written in the same tick. -/
def execCourseDisable (who : Requester) (course : Nat) (val : Word) (fallbackSize : Option Nat) (s : State) : Answer :=
  .next (s.onWrite who (coursePage course) (fun s =>
    let was := courseOn s course
    let t := s.setReg (coursePage course) (Reg.narCourse + course % 2) (courseWord s course val)
    if was && !courseOn t course then
      let u := (t.modCourse course (fun _ => {})).endColls course true
      let v := u.departPorts [prevPort course, nextPort course]
      let w := match fallbackSize with
        | some n => v.lostUpdate (coursePage course) (Reg.narCourse + course % 2) (BitVec.ofNat 64 n)
        | none => v
      w.tryColls (partOfCourse s course)
    else t))

/-- WALK_TOKEN (R282, R299, R302, R305). -/
def execWalkToken (course : Nat) (tok : WalkTok) (s : State) : Answer :=
  .next (if tok.back then s.verdictArrives course tok else s.tokenArrives course tok)

/-- WALK_TIMEOUT (R283): a walk has lasted 1 s. -/
def execWalkTimeout (course t : Nat) (s : State) : Answer :=
  let s := s.at_ t
  let v := Machine.course s course
  if v.st = 1 && decide (v.walkStart + 1000000000 ≤ s.now) then .next (s.walkFails course) else .next s

/-! ### Collectives -/

/-- Slabs of the list, fetched before the checks (R99, R253). -/
def collNeed (s : State) (c : Cmd) : List Nat :=
  let d := collD c.bits
  if (collCheck0 s c.part c.bits).isSome || !d.isList then [] else missing s c.part (addrOff d.list) (32 * d.count)

/-- Refusals at dispatch; those that rest on a course still WALKING wait for the start. -/
def collCheck (s : State) (c : Cmd) : Option Nat :=
  let d := collD c.bits
  match collCheck0 s c.part c.bits with
  | some e => some e
  | none =>
    let l := if d.isList then readCollList s c.part d else []
    if d.isList && poisonedRange s c.part (addrOff d.list) (32 * d.count) then some St.dataPoisoned
    else
      match if collWalking s d then none else collCheck1 s c.part c.bits l with
      | some e => some e
      | none => if collDown s d then some St.peerDeparted else none

def collStart (s : State) (c : Cmd) : State :=
  let d := collD c.bits
  let l := if d.isList then readCollList s c.part d else []
  ((s.modColl c.id (fun k => { k with accepted := true, t0 := s.now, list := l })).cmdWaits c.id .coll).tryColls c.part

def collRow (op k : Nat) (s : State) : State := dispatchRowT true 5 op k collNeed collCheck collStart s

/-- REDUCE_SCATTER (R286–R293). -/
def execReduceScatter (ring : Nat) (s : State) : Answer := .next (collRow 1 ring s)
/-- ALL_GATHER (R286–R290, R293, R295). -/
def execAllGather (ring : Nat) (s : State) : Answer := .next (collRow 2 ring s)
/-- ALL_REDUCE (R286–R294). -/
def execAllReduce (ring : Nat) (s : State) : Answer := .next (collRow 3 ring s)
/-- BROADCAST (R286–R290, R293, R295). -/
def execBroadcast (ring : Nat) (s : State) : Answer := .next (collRow 4 ring s)
/-- PERMUTE (R286–R289, R293, R295). -/
def execPermute (ring : Nat) (s : State) : Answer := .next (collRow 5 ring s)
/-- RESHARD (R286–R289, R293, R301). -/
def execReshard (ring : Nat) (s : State) : Answer := .next (collRow 6 ring s)

/-- LIMIT_MS of a partition, in ns. -/
def collLimit (s : State) (p : Nat) : Nat := 1000000 * s.regFld (Blk.nar.page (firstDie s p)) Reg.narCollLim 19 0

/-- COLL_TIMEOUT (R285, R296, R305). -/
def execCollTimeout (cmd t : Nat) (s : State) : Answer :=
  let s := s.at_ t
  match s.cmd? cmd with
  | some c =>
    if c.status.isNone && c.coll.accepted && decide (c.coll.t0 + collLimit s c.part ≤ s.now) then
      let engines := ((collD c.bits).courses.map (· / 2)).dedup
      let u := engines.foldl (fun u n => u.raise_ (Blk.nar.page n) 3 (tagDet c)) (s.failColl cmd St.fabricTimeout)
      .next (u.tryColls c.part)
    else .next s
  | none => .next s

/-- ABANDON (R296): the collective ends with FABRIC_TIMEOUT, and the next member is told. -/
def execAbandon (course cseq : Nat) (s : State) : Answer :=
  match collOf s course cseq with
  | some c => .next ((s.failColl c.id St.fabricTimeout).tryColls c.part)
  | none =>
    if isAhead s course cseq && !(Machine.course s course).abandoned.contains cseq then
      .next (s.modCourse course (fun x => { x with abandoned := x.abandoned ++ [cseq] }))
    else .next s

/-! ### Shards -/

/-- The RESHARD commands of a course have seen a shard's FLIP. -/
def State.noteFlip (s : State) (c sh : Nat) : State :=
  let ids := ((collsOf s (partOfCourse s c)).filter (fun k =>
    k.coll.started && (collD k.bits).op == 6 && (collD k.bits).courses.contains c)).map (·.id)
  (ids.foldl (fun t i => (t.modColl i (fun k => { k with flips := k.flips ++ [sh] })).checkColl i) s).tryColls
    (partOfCourse s c)

/-- COPIED (R301 steps 3 and 4): the commit, and FLIP. -/
def execCopied (course shard : Nat) (s : State) : Answer :=
  let p := partOfCourse s course
  let e := Machine.shard s p shard
  if e.st = 1 then
    let n := (e.epoch + 1) % 65536
    .next (((s.setShard p shard { st := 0, owner := e.peer, epoch := n, peer := 0 }).emit
      (.flip course shard e.peer n)).noteFlip course shard)
  else .next s

/-- FLIP (R301 step 4): every member writes the same entry and sends it on; the one that committed it has it already. -/
def execFlip (course shard owner epoch : Nat) (s : State) : Answer :=
  let p := partOfCourse s course
  let e : Shard := { st := 0, owner := owner, epoch := epoch, peer := 0 }
  if Machine.shard s p shard = e then .next (s.noteFlip course shard)
  else .next (((s.setShard p shard e).emit (.flip course shard owner epoch)).noteFlip course shard)

/-- A module is no member of any course that is up, or a port shows it departed. -/
def hasDeparted (s : State) (p id : Nat) : Bool :=
  (portsOf s p).any (fun q => (port s q).st == 3 && (port s q).peerId == id) ||
    !((coursesOf s p).any (fun c => ((course s c).st == 2 || (course s c).st == 3) && (course s c).ids.contains id))

/-- NAR_SHARD_WRITE (R300, R307): OWNER of the entry selected on the page. `commit` is the owner and the epoch that a
commit or a FLIP writes in the same tick; it prevails, and notice 0x0305 records the entry and the value written. A
write that settles an IN entry leaves it STABLE (DEDUCED, log 26). -/
def execNarShardWrite (who : Requester) (page : Nat) (val : Word) (commit : Option (Nat × Nat)) (s : State) : Answer :=
  if blkOf page = .nar then
    .next (s.onWrite who page (fun s =>
      let p := (ownerOf s page).num
      let i := s.regFld page Reg.narShardSel 13 0
      let e := shard s p i
      match commit with
      | some (owner, epoch) =>
        (s.setShard p i { st := 0, owner := owner, epoch := epoch, peer := 0 }).notice p 5 page
          { d1 := ids16 [page, Reg.narShard, i], d2 := val }
      | none =>
        if e.st = 0 || (e.st = 2 && hasDeparted s p e.peer) then
          s.setShard p i { e with st := 0, owner := fld val.toNat 16 0, peer := 0 }
        else s))
  else .next s

/-! ### Time (R304) -/

/-- TIMING_FLIT: `time` is the flit's time and `delay` this hop's own measured delay. The first lock steps the
timebase; later flits move it forward by at most 100 ppm of the time since the last one. A time behind the timebase
leaves it as it is, since it never runs backward. The flit goes on along NEXT with the delay added. -/
def execTimingFlit (course time delay : Nat) (s : State) : Answer :=
  let src := time + delay
  let mine := s.settings.timeSource == course
  let off : Int := (src : Int) - (s.now : Int)
  let step := Nat.min (src - s.now) ((s.now - s.time.lastFlit) / 10000)
  let now := if !mine then s.now else if s.time.everLocked then s.now + step else src
  let t := if mine then
      { s with now := now, time := { s.time with locked := true, everLocked := true, offset := off, lastFlit := now } }
    else s
  let v := Machine.course s course
  let goesOn := (v.st == 2 || v.st == 3) && hasPeer s (nextPort course) &&
    decide (v.pos + 1 < courseSize s course)
  .next (if goesOn then t.emit (.timing (nextPort course) src) else t)

/-- TIME_LOST: 10 ms without a timing flit. -/
def execTimeLost (t : Nat) (s : State) : Answer :=
  let s := s.at_ t
  if s.time.locked && decide (s.time.lastFlit + 10000000 ≤ s.now) then
    .next (({ s with time := { s.time with locked := false } }).raise_ (coursePage s.settings.timeSource) 5)
  else .next s

/-- TIMING_FLIT_SEND: every 1 ms the member at position 0 of each course that is up sends the time, and hops measure
their delays. -/
def execTimingFlitSend (t : Nat) (s : State) : Answer :=
  let s := s.at_ t
  if s.now < s.time.lastSend + 1000000 then .next s
  else
    let up := (List.range 8).filter (fun c => (course s c).st == 2 || (course s c).st == 3)
    let s1 := { s with time := { s.time with lastSend := s.now } }
    let s2 := (up.filter (fun c => (course s c).pos == 0 && hasPeer s (nextPort c))).foldl
      (fun u c => u.emit (.timing (nextPort c) s.now)) s1
    .next ((up.flatMap (fun c => [prevPort c, nextPort c])).foldl (fun u q =>
      if hasPeer s q then u.emit (.delayExchange q) else u) s2)

end Sys2Proof.Machine
end

