-- ==== Sys2Proof/Machine/Tier.lean ====
section
/-! DEFINITION. TIER commands and the tier manager: fetches, slab-ready, write-backs (R252–R273). -/

namespace Sys2Proof.Machine

/-! ### TIER commands (R259, R260) -/

def tierOp (b : CmdBits) : Nat := payFld b 0 255 0
def tierAddr (b : CmdBits) : Nat := fld (tierOp b) 63 16
def tierCount (b : CmdBits) : Nat := fld (tierOp b) 95 64
def tierTable (b : CmdBits) : Nat := fld (tierOp b) 103 96

/-- Slab numbers that a command covers. -/
def tierRange (b : CmdBits) : List Nat :=
  (List.range (tierCount b)).map (addrOff (tierAddr b) / 65536 + ·)

/-- Some of the bytes lie in the open window. -/
def meetsOpen (s : State) (p x len : Nat) : Bool :=
  decide (x < openBase + 2 ^ 20 * openShareMib s p) && decide (openBase < x + len)

def tierCheck (s : State) (c : Cmd) : Option Nat :=
  let w := tierOp c.bits
  let op := fld w 7 0
  let a := tierAddr c.bits
  let n := tierCount c.bits
  let mine := addrPart a == c.part && decide (a < 2 ^ 43)
  firstOf [(!payZeroFrom c.bits 32 || fld w 255 104 != 0 || fld w 15 8 != 0 || (op != 6 && tierTable c.bits != 0) ||
      (op == 6 && decide (64 ≤ tierTable c.bits) && tierTable c.bits != 255) || a % 65536 != 0 || n == 0 ||
      decide (16777216 < n) || (mine && decide (addrOff a < hbmHomed s c.part)) ||
      (mine && meetsOpen s c.part (addrOff a) (65536 * n)), St.malformed),
    (!inRange s c.part a (65536 * n), St.fence),
    ((op == 1 || op == 5) && shareOf s c.part == 0, St.tierUnreachable)]

/-- The slab has a complete copy. -/
def resident (s : State) (p n : Nat) : Bool := (frameOf s p n).any (fun e => e.2.ready)

def State.addJob (s : State) (p : Nat) (j : TierJob) : State := s.modTier p (fun t => { t with jobs := t.jobs ++ [j] })

/-- A TIER command whose covered slabs are all done ends. -/
def State.checkTier (s : State) (id : Nat) : State :=
  match s.cmd? id with
  | some c => if envClass c.bits == 6 && c.status.isNone && c.covers.isEmpty then s.finishCmd id else s
  | none => s

/-- A slab is done for some commands. -/
def State.uncover (s : State) (p n : Nat) (ops : List Nat) : State :=
  let hit := (s.cmds.filter (fun c => c.part == p && envClass c.bits == 6 && ops.contains (cmdSub c.bits) && c.covers.contains n)).map (·.id)
  hit.foldl (fun t i => (t.modCmd i (fun c => { c with covers := c.covers.filter (· != n) })).checkTier i) s

/-- Free the frames of EVICT and DROP that nothing pins any more; an evicted copy that was written again goes back
first (R257, R259, R260). -/
def State.sweepFrames (s : State) (p : Nat) : State :=
  (tier s p).frames.foldl (fun t e =>
    match e.2 with
    | none => t
    | some f0 =>
      match frameOf t p f0.slab with
      | none => t
      | some (_, f) =>
        if !f.ready || f.wb || framePinned t p f then t
        else if f.dropAfter || (f.freeAfter && !f.dirty) then (t.freeFrameOf p f.slab).uncover p f.slab [3, 4]
        else if f.freeAfter && !((tier t p).jobs.any (fun j => j.wb && j.slab == f.slab)) then
          t.addJob p { slab := f.slab, cls := 3, wb := true }
        else t) s

def fetchStart (s : State) (c : Cmd) : State :=
  let need := (tierRange c.bits).filter (fun n => !resident s c.part n)
  if need.any (unreachable s c.part) then s.endCmd c.id St.tierUnreachable
  else
    let t := need.foldl (fun t n => t.queueFetch c.part n 3 (some c.id)) s
    if need.isEmpty then t.finishCmd c.id
    else
      let u := t.modTier c.part (fun x => { x with waitFrom := some (x.waitFrom.getD s.now) })
      (u.modCmd c.id (fun d => { d with covers := need })).cmdWaits c.id (.slabReady s.now)

/-- Dirty copies in the range; a write-back that cannot be made for a faulted bridge ends the command (R254). -/
def dirtyIn (s : State) (c : Cmd) : List Nat :=
  (tierRange c.bits).filter (fun n => (frameOf s c.part n).any (fun e => e.2.dirty))

def State.queueWb (s : State) (p n id : Nat) : State :=
  if (tier s p).jobs.any (fun j => j.wb && j.slab == n) then s
  else s.addJob p { slab := n, cls := 3, wb := true, cmd := some id }

def flushStart (s : State) (c : Cmd) : State :=
  let ds := dirtyIn s c
  if ds.any (fun n => bridgeFaulted s (bridgeOf s c.part n)) then s.endCmd c.id St.tierUnreachable
  else
    let t := (ds.foldl (fun t n => t.queueWb c.part n c.id) s).modCmd c.id (fun d => { d with covers := ds })
    (t.cmdWaits c.id .tier).checkTier c.id

def evictStart (s : State) (c : Cmd) : State :=
  let ds := dirtyIn s c
  let held := (tierRange c.bits).filter (fun n => (frameOf s c.part n).isSome)
  if ds.any (fun n => bridgeFaulted s (bridgeOf s c.part n)) then s.endCmd c.id St.tierUnreachable
  else
    let t := ds.foldl (fun t n => t.queueWb c.part n c.id) s
    let u := held.foldl (fun t n => t.modFrame c.part n (fun f => { f with freeAfter := true })) t
    let v := (u.modCmd c.id (fun d => { d with covers := held })).cmdWaits c.id .tier
    (v.sweepFrames c.part).checkTier c.id

def dropStart (s : State) (c : Cmd) : State :=
  let held := (tierRange c.bits).filter (fun n => (frameOf s c.part n).isSome)
  let u := held.foldl (fun t n => t.modFrame c.part n (fun f => { f with dropAfter := true })) s
  let v := (u.modCmd c.id (fun d => { d with covers := held })).cmdWaits c.id .tier
  (v.sweepFrames c.part).checkTier c.id

def allocStart (s : State) (c : Cmd) : State :=
  let t := (tierRange c.bits).foldl (fun t n => t.addJob c.part { slab := n, cls := 3, alloc := true, cmd := some c.id }) s
  (t.modCmd c.id (fun d => { d with covers := tierRange c.bits })).cmdWaits c.id .tier

def tierBindStart (s : State) (c : Cmd) : State :=
  let v := if tierTable c.bits = 255 then none else some (tierTable c.bits)
  (s.modTier c.part (fun t =>
    { t with bound := (tierRange c.bits).foldl (fun m n => SMap.set none m n v) t.bound })).finishCmd c.id

/-- FETCH (R259, R260). -/
def execFetch (ring : Nat) (s : State) : Answer := .next (dispatchRow 6 1 ring tierCheck fetchStart s)
/-- FLUSH (R257, R259). -/
def execFlush (ring : Nat) (s : State) : Answer := .next (dispatchRow 6 2 ring tierCheck flushStart s)
/-- EVICT (R257, R259, R260). -/
def execEvict (ring : Nat) (s : State) : Answer := .next (dispatchRow 6 3 ring tierCheck evictStart s)
/-- DROP (R259, R260). -/
def execDrop (ring : Nat) (s : State) : Answer := .next (dispatchRow 6 4 ring tierCheck dropStart s)
/-- ALLOC (R259). -/
def execAlloc (ring : Nat) (s : State) : Answer := .next (dispatchRow 6 5 ring tierCheck allocStart s)
/-- BIND (R259, R265). -/
def execBind (ring : Nat) (s : State) : Answer := .next (dispatchRow 6 6 ring tierCheck tierBindStart s)

/-! ### Making room (R255, R256, R258) -/

/-- Frames of a colour that may be evicted: complete, unpinned, not being written back; a dirty one only while its
bridge can take it (R254), and never for a hint (R258). -/
def evictable (s : State) (p colour : Nat) (hint : Bool) : List (Nat × Frame) :=
  (framesOfColour s p colour).filter (fun e =>
    e.2.ready && !e.2.wb && !framePinned s p e.2 &&
      (!e.2.dirty || (!hint && !bridgeFaulted s (bridgeOf s p e.2.slab))))

/-- A frame for a slab, from the free ones or by evicting the least recently used clean one; a dirty one is first
written back. The answer says the frame, or that the job has to wait. -/
def State.takeFrame (s : State) (p slab : Nat) (hint : Bool) : State × Option Nat :=
  let colour := colourOf s (65536 * slab)
  match freeFrame s p colour (frameCount s p) (firstRow s p) with
  | some f => (s, some f)
  | none =>
    match lruOf (evictable s p colour hint) with
    | none => (s, none)
    | some (f, fr) =>
      if fr.dirty then
        (if (tier s p).jobs.any (fun j => j.wb && j.slab == fr.slab) then s
         else s.addJob p { slab := fr.slab, cls := 2, wb := true }, none)
      else (s.freeFrameOf p fr.slab, some f)

/-- The frame starts to fill. -/
def State.fillFrame (s : State) (p slab f : Nat) (pins : List Nat) : State :=
  let t := s.modTier p (fun x =>
    { x with jobs := x.jobs.filter (fun j => j.wb || j.alloc || j.slab != slab), useClock := x.useClock + 1 })
  t.setFrame p f (some { slab := slab, pins := pins, used := (tier t p).useClock })

/-- R255: the slabs that an NMU command names without a copy, when every colour has room for its share of them; those
named are neither evicted nor counted as room. -/
def nmuRoom (s : State) (p : Nat) (named need : List Nat) : Bool :=
  need.all (fun n =>
    let c := colourOf s (65536 * n)
    let wanted := (need.filter (fun m => colourOf s (65536 * m) == c)).length
    let held := (framesOfColour s p c).filter (fun e => named.contains e.2.slab || !(e.2.ready && !e.2.wb && !framePinned s p e.2))
    decide (wanted + held.length ≤ framesPerColour s p))

/-- Reserve, fetch and pin the slabs of an NMU command, all together or not at all. -/
def State.fetchNmu (s : State) (p : Nat) (c : Cmd) : Option State :=
  let named := nmuSlabs s p (ndOf c.bits)
  let need := named.filter (fun n => (frameOf s p n).isNone)
  if !nmuRoom s p named need then none
  else
    let mine := named.filter (fun n => (frameOf s p n).isSome)
    let t := mine.foldl (fun t n => t.modFrame p n (fun f => { f with pins := f.pins ++ [c.id] })) s
    let r := need.foldl (fun (a : State × Bool) n =>
      let q := a.1.takeFrame p n false
      match q.2 with
      | some f => ((q.1.fillFrame p n f [c.id]).bump (tirPage s p) Reg.tirFetch 31 0 1, a.2)
      | none => (q.1, false)) (t, true)
    if r.2 then some r.1
    else
      -- some frame must first be written back: the command holds nothing, and its write-backs are queued
      let wbs := (tier r.1 p).jobs.filter (fun j => j.wb && !(tier s p).jobs.contains j)
      if wbs.isEmpty then none else some (s.modTier p (fun x => { x with jobs := x.jobs ++ wbs }))

/-! ### SLAB_FETCH (R253, R256) -/

/-- Start one job; none when it cannot start now. -/
def State.startJob (s : State) (p : Nat) (j : TierJob) : Option State :=
  let gone (t : State) : State := t.modTier p (fun x => { x with jobs := x.jobs.filter (· != j) })
  if j.wb then
    match frameOf s p j.slab with
    | some (_, f) =>
      if !f.dirty then some ((gone s).uncover p j.slab [2])
      else if !f.ready || f.wb || bridgeFaulted s (bridgeOf s p j.slab) then none
      else some ((gone s).modFrame p j.slab (fun f => { f with wb := true, redirty := false }))
    | none => some ((gone s).uncover p j.slab [2])
  else if j.alloc then
    match frameOf s p j.slab with
    | some (f, fr) =>
      if !fr.ready then none
      else
        let t := (gone s).freshen (fun k => k / 65536 == frameKey s p f / 65536)
        some ((t.modFrame p j.slab (fun f => { f with dirty := true, redirty := fr.redirty || fr.wb })).uncover p j.slab [5])
    | none =>
      let r := s.takeFrame p j.slab false
      match r.2 with
      | some f => some ((((gone r.1).fillFrame p j.slab f []).modFrame p j.slab (fun f =>
          { f with ready := true, dirty := true })).uncover p j.slab [5])
      | none => if r.1 = s then none else some r.1
  else if (frameOf s p j.slab).isSome then some (gone s)
  else if unreachable s p j.slab then
    match j.cmd with
    | some i => some ((gone s).endCmd i St.tierUnreachable)
    | none => some (gone s)
  else
    match j.cmd.bind s.cmd? with
    | some c =>
      if envClass c.bits = 3 then s.fetchNmu p c
      else
        let r := s.takeFrame p j.slab false
        match r.2 with
        | some f => some ((r.1.fillFrame p j.slab f []).bump (tirPage s p) Reg.tirFetch 31 0 1)
        | none => if r.1 = s then none else some r.1
    | none =>
      let r := s.takeFrame p j.slab (j.cls == 4)
      match r.2 with
      | some f => some ((r.1.fillFrame p j.slab f []).bump (tirPage s p) Reg.tirFetch (if j.cls = 4 then 63 else 31)
          (if j.cls = 4 then 32 else 0) 1)
      | none =>
        if j.cls = 4 then some ((gone s).bump (tirPage s p) Reg.tirHint 63 32 1)
        else if r.1 = s then none else some r.1

/-- The first job in a list that can start. -/
def State.firstJob (s : State) (p : Nat) : List TierJob → State
  | [] => s
  | j :: js =>
    match s.startJob p j with
    | some t => t
    | none => s.firstJob p js

/-- SLAB_FETCH (R253, R255, R256, R258): the tier manager starts its next piece of work, by class and then in arrival
order. -/
def execSlabFetch (part : Nat) (s : State) : Answer :=
  let t := s.sweepFrames part
  if t.startup.part.getD part 1 != 0 then .next t
  else
    let jobs := (tier t part).jobs
    .next (t.firstJob part ((List.range 5).flatMap (fun k => jobs.filter (fun j => j.cls == k))))

/-! ### SLAB_READY (R253, R267, R272) -/

/-- Put one block of a fetched slab into its frame. `again` is what the second read of a rejected block found: that
it is rejected too. -/
def State.landBlock (s : State) (p slab f k : Nat) (reject : Option Bool) : State :=
  let g := frameKey s p f + 4096 * k
  let lost (t : State) : State := (t.markDamaged p slab k).poisonGranule g
  match reject with
  | some true => if storedBlock s p slab k = .fresh then s else lost s
  | _ =>
    let t := if reject.isSome then s.bump (tirPage s p) Reg.tirDamage 63 32 1 else s
    match storedBlock s p slab k with
    | .fresh => t
    | .damaged => t.poisonGranule g
    | _ =>
      match blockRaw s p slab k with
      | some b => t.poke g b
      | none => lost t

/-- The slab is ready: the commands that wait for nothing else go on. -/
def State.slabDone (s : State) (p slab : Nat) : State :=
  let t := s.uncover p slab [1]
  let ids := (t.cmds.filter (fun c => c.part == p && envClass c.bits != 6 && c.status.isNone &&
    (match c.wait with | .slabReady _ => true | _ => false) && c.slabs.all (fun n => resident t p n))).map (·.id)
  let u := ids.foldl (fun t i => (t.cmdWakes i).modCmd i (fun c => { c with slabs := [] })) t
  ((((u.ledgerDrain p ((ledger u p).late.length + 1)).flushWins).pumpOpens p).pumpColls p).tryColls p

/-! ### Bridges and packages (R254, R405) -/

/-- Partitions that a bridge serves (Table TIR-1). -/
def servedBy (s : State) (b : Nat) : List Nat :=
  (partsAll s).filter (fun p => s.settings.partitions == 1 || bridgeOf s p 0 == b)

/-- A command waits for a slab of a bridge. -/
def waitsOn (s : State) (b : Nat) (c : Cmd) : Bool :=
  let mine (n : Nat) : Bool := bridgeOf s c.part n == b
  c.status.isNone &&
    (match c.wait with
     | .slabReady _ => c.slabs.any (fun n => mine n && !resident s c.part n) || c.covers.any mine
     | .tier => c.covers.any (fun n => mine n && (frameOf s c.part n).any (fun e => e.2.dirty))
     | _ => false)

/-- A bridge has become faulted: waits on its slabs end, and fetches from it stop. -/
def State.bridgeDown (s : State) (b : Nat) : State :=
  (servedBy s b).foldl (fun t p =>
    let ids := (t.cmds.filter (fun c => c.part == p && waitsOn t b c)).map (·.id)
    let u := ids.foldl (fun t i => t.endCmd i St.tierUnreachable) t
    let part_ := (tier u p).frames.filterMap (fun e => e.2.bind (fun f =>
      if !f.ready && bridgeOf u p f.slab == b then some f.slab else none))
    let v := part_.foldl (fun t n => t.freeFrameOf p n) u
    match (ledger v p).late with
    | w :: _ =>
      let a := ledgerBase v p + w.1 % 2 ^ 32
      if (missing v p (addrOff a) w.2.length).any (unreachable v p) then v.ledgerAbandon p a else v
    | [] => v) s

/-- An LPDDR5X package leaves service, recorded in flash, and its bridge is faulted. -/
def State.retirePkg (s : State) (k : Nat) : State :=
  if s.flash.retiredPkgs.contains k then s
  else
    let t := { s with flash := { s.flash with retiredPkgs := s.flash.retiredPkgs ++ [k] } }
    let u := t.faultEntry 0xFF 5 (Blk.lpd.page k) { d1 := ids16 [k] }
    (s.noteHealth u [Blk.lpd.page k, Blk.tb.page (k / 8)]).bridgeDown (k / 8)

/-- A block of a package was rejected; 16 within 1 s retire the package. -/
def State.pkgReject (s : State) (k : Nat) : State :=
  let recent := ((SMap.get [] s.pkgRej k).filter (fun x => decide (s.now < x + 1000000000))) ++ [s.now]
  let t := { s with pkgRej := SMap.set [] s.pkgRej k recent }
  if 16 ≤ recent.length then t.retirePkg k else t

/-- SLAB_READY (R253, R267, R405): a fetch ends. `rejects` names the blocks whose first read was rejected, each with
whether the second read was rejected too, and the package of the bridge at fault. -/
def execSlabReady (part slab : Nat) (rejects : List (Nat × Bool × Nat)) (s : State) : Answer :=
  match frameOf s part slab with
  | some (f, fr) =>
    if fr.ready then .next s
    else
      let t := (List.range 16).foldl (fun t k =>
        t.landBlock part slab f k ((rejects.find? (fun r => r.1 == k)).map (fun r => r.2.1))) s
      let u := (t.modFrame part slab (fun f => { f with ready := true })).slabDone part slab
      .next (rejects.foldl (fun u r => u.pkgReject (8 * bridgeOf u part slab + r.2.2)) u)
  | none => .next s

/-- READY_TIMEOUT (R254, R272): the command has waited on slab-ready longer than LIMIT_MS. Ledger writes that have waited
as long are given up (R239). -/
def execReadyTimeout (cmd t : Nat) (s : State) : Answer :=
  let s := s.at_ t
  let s := (partsAll s).foldl (fun u p => u.ledgerExpire p) s
  match s.cmd? cmd with
  | some c =>
    match c.wait, c.status with
    | .slabReady u, none =>
      let pg := tirPage s c.part
      if u + 1000000 * s.regFld pg Reg.tirReadyLim 13 0 < s.now then
        .next ((s.endCmd cmd St.tierUnreachable).raise_ pg 0 (tagDet c))
      else .next s
    | _, _ => .next s
  | none => .next s

/-! ### WRITEBACK_DONE (R257, R262, R272) -/

/-- A block of a copy as it is stored: a granule with a poisoned access is stored as damaged (log 13). -/
def copyBlock (s : State) (p f k : Nat) : ToStore :=
  let g := frameKey s p f + 4096 * k
  if isFresh s g then .fresh else if poisoned s g 4096 then .damaged else .data (s.bytes g 4096)

/-- WRITEBACK_DONE: the copy is in its slab's storage; a copy that was written meanwhile stays dirty. When the bridge has
faulted, the storage keeps its contents and the copy stays dirty. -/
def execWritebackDone (part slab : Nat) (s : State) : Answer :=
  match frameOf s part slab with
  | some (f, fr) =>
    if !fr.wb then .next s
    else if bridgeFaulted s (bridgeOf s part slab) then
      .next (s.modFrame part slab (fun f => { f with wb := false, redirty := false }))
    else
      let t := s.storeSlab part slab (SMap.get none (tier s part).bound slab) ((List.range 16).map (copyBlock s part f))
      let u := (t.modFrame part slab (fun f => { f with wb := false, dirty := fr.redirty, redirty := false })).bump
        (tirPage s part) Reg.tirWb 63 0 1
      .next ((u.uncover part slab [2]).sweepFrames part)
  | none => .next s

end Sys2Proof.Machine
end

