-- ==== Sys2Proof/Machine/Links.lean ====
section
/-! DEFINITION. Die-to-die links (R312, R313, Table PKG-4) and the open site (R314–R321). -/

namespace Sys2Proof.Machine

/-! ### Fences of the open site (R320) -/

/-- Accesses of the fenced part complete: commands with OPEN_FENCED, window accesses as fenced ones (R331). -/
def State.endOpenReqs (s : State) (hit : OpenReq → Bool) : State :=
  let gone := s.site.reqs.filter hit
  let t := { s with site := { s.site with reqs := s.site.reqs.filter (fun r => !hit r) } }
  gone.foldl (fun u r =>
    match u.reqs.find? (fun q => q.id == r.req) with
    | some q =>
      if (persist? u q.cmd).isSome then u.failPersist q.cmd St.openFenced else u.endCmd q.cmd St.openFenced
    | none =>
      match u.pcie.accs.find? (fun a => winReq a.id == r.req) with
      | some a =>
        let v := u.fenceWin a.win (if a.data.isNone then some a.len else none)
        { v with pcie := { v.pcie with accs := v.pcie.accs.filter (fun x => x.id != a.id) } }
      | none => u) t

/-- Raise OPEN_FENCE: in the view of the share's partition, or in every view (the owner's on the SVT-24C). -/
def State.raiseFence (s : State) (parts : List Nat) (d : Det) : State := parts.foldl (fun t p => t.raiseOpen p d) s

/-- Partitions that a fence of the whole site concerns. -/
def sitePartitions (s : State) : List Nat := if s.flash.variantC then [s.settings.openOwner] else partsAll s

/-- Fence the whole site; `power` marks the cause that lasts until a cold reset. -/
def State.fenceSite (s : State) (power : Bool) : State :=
  if s.site.siteFenced && (s.site.powerFence || !power) then s
  else
    let t := { s with site := { s.site with siteFenced := true, powerFence := s.site.powerFence || power } }
    let u := (t.endOpenReqs (fun _ => true)).raiseFence (sitePartitions s) {}
    u.flushWins

/-- Fence what a module serves: its share on the SVT-24, the site on the SVT-24C. -/
def State.fenceModule (s : State) (m : Nat) : State :=
  if s.flash.variantC then s.fenceSite false
  else if s.site.siteFenced || s.site.fenced.getD m false then s
  else
    let t := { s with site := { s.site with fenced := s.site.fenced.set m true } }
    ((t.endOpenReqs (fun r => r.module == m)).raiseFence [partOfDie s m] { d1 := ids16 [m] }).flushWins

/-! ### Faults of links (Table PKG-4) -/

/-- The compute dies at the ends of links 0 to 5. -/
def cdEnds (l : Nat) : Nat × Nat :=
  match l with
  | 0 => (0, 1) | 1 => (2, 3) | 2 => (0, 2) | 3 => (1, 3) | 4 => (0, 3) | _ => (1, 2)

/-- Header-only pages whose HEALTH a link decides. -/
def linkHealthPages (l : Nat) : List Nat :=
  [Blk.link.page l] ++ (if 22 ≤ l && l < 26 then [Blk.tb.page ((l - 22) / 2)] else [])

/-- The ports of a Narar engine are lost: its courses are BROKEN here, and its peers see it depart. -/
def State.loseEngine (s : State) (n : Nat) : State :=
  let ports := (List.range 4).map (4 * n + ·)
  let t := (s.departPorts ports).noteHealth
    (ports.foldl (fun t q => t.modPort q (fun x => { x with st := if x.st = 2 then 2 else 0, wl := 0, waiting := [], retry := [] }))
      (s.departPorts ports)) (ports.map Blk.port.page)
  [2 * n, 2 * n + 1].foldl (fun u c =>
    if (course u c).st = 1 || (course u c).st = 2 || (course u c).st = 3 then u.breakCourse c else u) t

/-- A link is faulted, recorded in flash. -/
def State.faultLink (s : State) (l : Nat) : State :=
  if (link s l).st = 2 || (link s l).st = 3 then s
  else
    let t := s.modLink l (fun x => { x with st := 2, fails := 0, times := [] })
    let u := { t with flash := { t.flash with faultedLinks := t.flash.faultedLinks ++ [l] } }
    let v := s.noteHealth (u.raise_ 1 0 { d1 := ids16 [l] }) (linkHealthPages l)
    if l < 6 then
      let e := cdEnds l
      if partOfDie s e.1 = partOfDie s e.2 then v.faultPart (partOfDie s e.1) else v
    else if l < 14 then v.tripStack (l - 6)
    else if l < 18 then v.loseEngine (l - 14)
    else if l < 22 then v.faultPart (partOfDie s (l - 18))
    else if l < 26 then v.bridgeDown ((l - 22) / 2)
    else v.fenceModule (l - 26)

/-- LINK_FRAME_RECEIVE (R313): a frame or flit arrives on a link that is up; `good` says that its check passes and that
it is the next in sequence. A bad one has a replay requested, which is an upset; the fourth failed replay of one frame,
or more than 256 replays within 1 ms, fault the link. -/
def execLinkFrameReceive (link : Nat) (good : Bool) (t : Nat) (s : State) : Answer :=
  let s := s.at_ t
  let x := Machine.link s link
  if x.st != 1 then .next s
  else if good then .next (s.modLink link (fun x => { x with fails := 0, rxSeq := (x.rxSeq + 1) % 65536 }))
  else
    let times := (x.times.filter (fun u => decide (s.now < u + 1000000))) ++ [s.now]
    let u := ((s.modLink link (fun x =>
      { x with fails := x.fails + 1, times := times, checkErr := satAdd 32 x.checkErr 1,
               replays := satAdd 32 x.replays 1 })).emit (.linkReplay link)).countUpset (Blk.link.page link)
    if 5 ≤ x.fails + 1 || 256 < times.length then .next (u.faultLink link) else .next u

/-- LINK_LOCK_LOSS (R313). -/
def execLinkLockLoss (link : Nat) (s : State) : Answer := .next (s.faultLink link)

/-! ### Messages of the die at the open site (R320) -/

/-- Write bytes into a partition's range, granule by granule. -/
def State.pokeRange (s : State) (p x : Nat) (bs : List Byte) : State :=
  (cutsOf 4096 x bs.length).foldl (fun (t : State) (c : Nat × Nat) =>
    t.poke (keyAt t p c.1) ((bs.drop (c.1 - x)).take c.2)) s

/-- A response to a command's access. -/
def State.openAnswers (s : State) (q : Req) (data : List Byte) (poisoned : Bool) : State :=
  let p := addrPart q.addr
  let x := addrOff q.addr
  if q.kind = .read then
    s.modReq q.id (fun r => { r with served := true, data := data, bad := poisoned, badStatus := St.dataPoisoned })
  else
    let t := if poisoned then s else (s.pokeRange p x q.data).noteWrite q.cmd p x q.data.length
    t.modReq q.id (fun r => { r with served := true, bad := poisoned, badStatus := St.dataPoisoned })

/-- A response to a window access; poisoned data reach the host as all-ones bytes (R176). -/
def State.openWinAnswers (s : State) (a : WinAcc) (data : List Byte) (poisoned : Bool) : State :=
  let p := addrPart a.addr
  let x := addrOff a.addr
  let t := match a.data with
    | none => s.emit (.winData a.win (if poisoned then List.replicate a.len 255 else data))
    | some bs =>
      if poisoned then s
      else s.pokeRange p x bs
  ({ t with pcie := { t.pcie with accs := t.pcie.accs.filter (fun b => b.id != a.id) } }).flushWins

/-- OPEN_DIE_MESSAGE (R320, R321): a response to an outstanding request completes its access; any other message
fences. Read data must have the request's length. -/
def execOpenDieMessage (msg : OpenMsg) (s : State) : Answer :=
  match msg with
  | .other m => .next (if s.site.admitted then s.fenceModule m else s)
  | .response m req data poisoned =>
    if !s.site.admitted then .next s
    else
      match s.site.reqs.find? (fun r => r.id == req && r.module == m) with
      | none => .next (s.fenceModule m)
      | some r =>
        let t := { s with site := { s.site with reqs := s.site.reqs.filter (fun y => y.id != req) } }
        match t.reqs.find? (fun q => q.id == r.req), t.pcie.accs.find? (fun a => winReq a.id == r.req) with
        | some q, _ =>
          if q.kind = .read && data.length != q.len && !poisoned then .next (s.fenceModule m)
          else .next (t.openAnswers q data poisoned)
        | none, some a =>
          if a.data.isNone && data.length != a.len && !poisoned then .next (s.fenceModule m)
          else .next (t.openWinAnswers a data poisoned)
        | none, none => .next t

/-- OPEN_RESPONSE_TIMEOUT (R320): a response is later than OPEN_CFG.TMO_US. -/
def execOpenResponseTimeout (req t : Nat) (s : State) : Answer :=
  let s := s.at_ t
  match s.site.reqs.find? (fun r => r.id == req) with
  | some r =>
    if r.sent + s.regFld 2 Reg.openCfg 15 0 * 1000 < s.now then .next (s.fenceModule r.module) else .next s
  | none => .next s

/-- OPEN_POWER_WINDOW (R320): the die's draw averaged over 1 ms. -/
def execOpenPowerWindow (milliwatts : Nat) (s : State) : Answer :=
  if s.site.admitted && decide (60000 < milliwatts) then .next (s.fenceSite true) else .next s

end Sys2Proof.Machine
end

