-- ==== Sys2Proof/Machine/RingOps.lean ====
section
/-! DEFINITION. Rings: enabling, context resets, completion records (R342–R348). -/

namespace Sys2Proof.Machine

/-! ### Context reset (R155, R347) -/

/-- Reset every context bound to a ring: its commands end, units and claims go poisoned. -/
def State.resetRing (s : State) (k : Nat) : State :=
  let ids := (s.cmds.filter (fun c => c.ring == k && c.status.isNone)).map (·.id)
  let t := ids.foldl (fun t i => t.endCmd i St.aborted) s
  let ctxs := (t.ctxs.filter (fun e => e.2.ring == some k)).map Prod.fst
  let u := ctxs.foldl (fun u n => (u.releasePoisoned n).freeCtx n) t
  (u.resetEntry (partOfRing s k) 1 (ringPage k) ids.length).tryColls (partOfRing s k)

/-! ### RING_CTL (R343, R347, R444) -/

/-- Both areas lie in the owner's range and do not overlap. -/
def ringFits (s : State) (k n : Nat) : Bool :=
  let p := partOfRing s k
  let b := ringBase s k
  let c := ringCpl s k
  inRange s p b (512 * 2 ^ n) && inRange s p c (32 * 2 ^ n) &&
    (decide (b + 512 * 2 ^ n ≤ c) || decide (c + 32 * 2 ^ n ≤ b))

/-- A ring may be enabled: not before the module is operational (R424), nor in scaffold mode (R429), nor under a skim or
overwrite (R372). -/
def mayEnable (s : State) (p : Nat) : Bool :=
  s.startup.phase == 7 && s.startup.part.getD p 1 % 2 == 0 && (sec s p).skim.isNone && (sec s p).overwriting.isNone

/-- One write of RING_CTL: SIZE_LOG2 while ENABLE is 0, CTX_RESET, then the change of ENABLE. -/
def State.ringCtlWrite (s : State) (k : Nat) (val : Nat) : State :=
  let pg := ringPage k
  let was := s.regFld pg Reg.ringCtl 63 63 == 1
  let s1 := if was then s
    else s.setRegFld pg Reg.ringCtl 4 0 ((writeFields (fieldsOf .ring Reg.ringCtl) (s.reg pg Reg.ringCtl) val) % 32)
  let s2 := if val.testBit 62 then s1.resetRing k else s1
  if val.testBit 63 && !was then
    if !mayEnable s2 (partOfRing s k) || (ring s2 k).st = 2 || !ringFits s2 k (s2.regFld pg Reg.ringCtl 4 0) then s2.raise_ pg 0
    else (s2.setRegFld pg Reg.ringCtl 63 63 1).modRing k (fun _ => { st := 1, clearing := true })
  else if !val.testBit 63 && was then (s2.setRegFld pg Reg.ringCtl 63 63 0).modRing k (fun r => { r with st := 2 })
  else s2

/-- The contexts of a ring retire, and it is disabled. -/
def State.endDrain (s : State) (k : Nat) : State :=
  let ctxs := (s.ctxs.filter (fun e => e.2.ring == some k)).map Prod.fst
  (ctxs.foldl (fun u n => (u.releasePoisoned n).freeCtx n) s).modRing k (fun r => { r with st := 0 })

/-! ### Completion (R337, R345) -/

/-- Table HST-7. -/
def recordBytes (c : Cmd) (st now : Nat) (postFail : Bool) : List Byte :=
  leBytes 32 (2 ^ 192 * envTag c.bits + 2 ^ 128 * c.result.toNat + 2 ^ 64 * (now % 2 ^ 64) + 2 ^ 32 * (c.seq % 2 ^ 32) +
    2 ^ 24 * c.ring + bitIf c.phase 23 + bitIf postFail 22 + 2 ^ 16 * c.flags.toNat + st)

/-- STATUS of a command that has ended (R49). -/
def finalStatus (s : State) (c : Cmd) (st : Nat) : Nat :=
  if st = St.done then
    doneStatus c.flags (BitVec.ofNat 5 (s.reg (qgPage s c.part) Reg.qgFlagMask))
  else st

/-- The counter pair that a command posts to, with its cluster and units (R150). -/
def postOf (s : State) (c : Cmd) : Nat × Nat × Nat :=
  let cl := c.fld 239 234
  (512 * clusterAt s c.part cl + c.fld 233 225, cl, c.fld 255 240)

def posts (c : Cmd) (st : Nat) : Bool := st == St.done && c.fld 224 224 == 1

/-- Make the post; the Bool is POST_FAIL. -/
def State.makePost (s : State) (c : Cmd) : State × Bool :=
  let x := postOf s c
  let ns := cmdCtxs s c
  match postCheck s c.part x.2.1 x.1 x.2.2 ns with
  | none => (s.post x.1 x.2.2, false)
  | some _ =>
    if x.2.2 != 0 && overruns s x.1 x.2.2 ns then (s.raise_ (Blk.syn.page (x.1 / 512)) 3, true) else (s, true)

/-- Events at the end of a command (R63, R224). -/
def State.endEvents (s : State) (c : Cmd) : State :=
  let lim := s.reg (qgPage s c.part) Reg.qgLimits
  let t := c.guards.foldl (fun t e =>
    let u := if fld lim 15 0 * e.2.conv < 2 ^ 20 * e.2.sat then t.guardEvent c.part e.1 0 else t
    if fld lim 31 16 * e.2.conv < 2 ^ 20 * e.2.ufz then u.guardEvent c.part e.1 1 else u) s
  if c.nonfinite = 0 then t else t.raise_ (trnPage t c.part) 1 (tagDet c)

/-- NAR_COLL_CNT of the engines of a collective that was not refused (Table NAR-11). -/
def State.countColl (s : State) (c : Cmd) (st : Nat) : State :=
  if envClass c.bits = 5 && st != St.malformed && st != St.fence then
    (((collD c.bits).courses.map (· / 2)).dedup).foldl (fun t n =>
      if st ≤ 1 then t.bump (Blk.nar.page n) Reg.narCollCnt 31 0 1
      else t.bump (Blk.nar.page n) Reg.narCollCnt 63 32 1) s
  else s

/-- RING_CNT (Table HST-20). -/
def State.countRing (s : State) (k st : Nat) : State :=
  let t := s.bumpWrap (ringPage k) Reg.ringCnt 31 0 1
  if st ≤ 1 then t else t.bump (ringPage k) Reg.ringCnt 63 32 1

/-- Offset of a command's completion record in its partition's range. -/
def recordAt (s : State) (c : Cmd) : Nat := addrOff (ringCpl s c.ring) + 32 * c.slot

/-- The cores of a completed command stand at a command boundary (R147). -/
def State.atBoundary (s : State) (c : Cmd) : State :=
  (cmdCores s c.part c.bits).foldl (fun t x => t.modCore x (fun k => { k with boundary := true })) s

/-- The command leaves: its slot is free, its record stands, and its ring may go on. -/
def State.leave (s : State) (c : Cmd) : State :=
  ({ s with
     cmds := s.cmds.filter (fun d => d.id != c.id)
     reqs := s.reqs.filter (fun r => r.cmd != c.id || (persist? s c.id).isSome) }).modRing c.ring
       (fun r => { r with busy := r.busy.erase c.slot })

/-- COMMAND_COMPLETION: the post, the record, the TRACE entry, the events and the message. A post to a sleeping
cluster waits for its wake (R388), and a record in a slab without a copy for its fetch (R253). -/
def State.complete (s : State) (c : Cmd) (st0 : Nat) : State :=
  let st := finalStatus s c st0
  let x := recordAt s c
  let gone := missing s c.part x 32
  let w := if posts c st0 && decide ((postOf s c).2.1 < clustersPer s) then
      s.wantClusters [clusterAt s c.part (postOf s c).2.1] else (s, false)
  if w.2 then w.1
  else if !gone.isEmpty && !gone.any (unreachable s c.part) then gone.foldl (fun t n => t.queueFetch c.part n 1 none) s
  else
    let r := if posts c st0 then s.makePost c else (s, false)
    let t := if gone.isEmpty then (r.1.narrowAt c.part x (recordBytes c st s.now r.2)).1 else r.1
    let u := (((t.endEvents c).ledgerTrace c st).countRing c.ring st).countColl c st
    let v := ((u.cmdProgress c).atBoundary c).leave c
    let m := if c.fld 15 15 = 1 then v.sendMsix c.ring else v
    (m.lintelArrivals c.part).tryColls c.part

end Sys2Proof.Machine
end

