-- ==== Sys2Proof/Machine/Clear.lean ====
section
/-! DEFINITION. What skims and resets stop, clear and restore (R66, R91, R113, R134, R143, R163, R187, R192, R218, R247,
R272, R273, R306, R353, R362, R370–R372, R382, R400, R415, R419, R422, R431, R435, Table SUP-4). -/

namespace Sys2Proof.Machine

/-- Whose clearing it is: a skim's, a partition reset's, or that of a module, link-loss or cold reset. -/
inductive Clearing where
  | skim | part | module
deriving DecidableEq, Repr

/-! ### Registers -/

/-- Registers that a clearing leaves as they are (log 33). BLK_FAULT is treated apart. -/
def keeps (k : Clearing) (b : Blk) (r : Nat) : Bool :=
  r == Reg.fault ||
  match b with
  | .qg | .trn | .tir | .nmu | .pwr => false
  | .nar => r == Reg.narId
  | .sec => r == Reg.secSkim
  | .ras => k == .part
  | .hst => k != .module || (r == Reg.hstLink)
  | .hod => k == .part && (decide (r < 32) || r == Reg.hodSel || r == Reg.hodCompat)
  | .hbm => k == .part && (decide (r < 32) || r == Reg.hbmChanSel)
  | .arr => k == .part
  | .bnd => k == .part && decide (r < 32)
  | .syn => k == .part && (r == Reg.irqEn || r == Reg.synSemSel || r == Reg.synCtrSel)
  | .ring => k == .part && (decide (r < 32) || r == Reg.ringBase || r == Reg.ringCpl || r == Reg.ringCtl)
  | .sup | .pkg | .site | .tb | .hubc | .die | .link | .lpd | .chan | .port => true

/-- Restore the registers of a partition's pages, with the copies that a SNAP made of them (R419). -/
def State.clearRegs (s : State) (p : Nat) (k : Clearing) : State :=
  let pages := pagesOf s p
  { s with
    regs := SMap.dropKeys (fun x => pages.contains (x / 512) && !keeps k (blkOf (x / 512)) (x % 512)) s.regs
    snaps := SMap.dropKeys (fun x => pages.contains (x / 2 ^ 24)) s.snaps
    snapView := SMap.dropKeys (fun x => pages.contains (x / 32)) s.snapView }

/-! ### State of the blocks -/

/-- Contexts, synchronisation and engines of a partition (R91, R163). -/
def State.clearCores (s : State) (p : Nat) : State :=
  let cl (x : Nat) : Bool := partOfCluster s x == p
  { s with
    ctxs := SMap.dropKeys (fun n => cl (n / 32)) s.ctxs
    cores := SMap.dropKeys (fun n => cl (n / 8)) s.cores
    sems := SMap.dropKeys (fun n => cl (n / 2048)) s.sems
    ctrs := SMap.dropKeys (fun n => cl (n / 512)) s.ctrs
    lintels := SMap.dropKeys (· == p) s.lintels
    engines := SMap.dropKeys (fun n => cl (n / 32)) s.engines
    quads := SMap.dropKeys (fun n => cl (n / 128)) s.quads
    hods := SMap.dropKeys (fun n => cl (n / 4)) s.hods
    audits := s.audits.filter (fun a => !cl (a.core / 8))
    persists := s.persists.filter (fun x => x.part != p)
    guards := SMap.dropKeys (fun n => n / 1024 == p) s.guards
    fences := SMap.dropKeys (fun n => partOfRing s n == p) s.fences
    rings := SMap.dropKeys (fun n => partOfRing s n == p) s.rings
    ledgers := SMap.dropKeys (· == p) s.ledgers
    tiers := SMap.dropKeys (· == p) s.tiers
    clusters := SMap.mapVals {} id (s.clusters.map (fun e =>
      if cl e.1 then (e.1, { e.2 with progress := s.now, sentinel := s.now, pointStart := s.now, pointPassed := 0, pointDue := false })
      else e)) }

/-- A channel with its counters, unit and window cleared; what flash holds stays. -/
def Chan.cleared (c : Chan) : Chan :=
  { st := c.st, lanesUsed := c.lanesUsed, rows := c.rows, pend := c.pend, spares := c.spares, remapped := c.remapped,
    badSymbol := c.badSymbol, symErr := c.symErr, moved := c.moved, share := c.share, scrub := c.scrub }

def Stack.cleared (x : Stack) : Stack :=
  { x with peak := 0, redUs := 0, amberUs := 0, freshRd := 0, narrow := 0, lastGrant := none }

def Die.cleared (x : Die) : Die :=
  { x with
    peak := 0, draw := 0, reason := 0, fast := 0, throttledMs := 0, paced := 0, coreWakes := 0, clusterWakes := 0 }

def Port.cleared (x : Port) : Port := { x with waiting := [], retry := [], replays := 0, crcErr := 0, errs := [], slow := false, slowUs := 0 }

/-- Channels, stacks, dies, ports and courses of a partition. -/
def State.clearUnits (s : State) (p : Nat) : State :=
  { s with
    chans := SMap.mapVals {} id (s.chans.map (fun e => if partOfChan s e.1 = p then (e.1, e.2.cleared) else e))
    stks := SMap.mapVals {} id (s.stks.map (fun e => if partOfStack s e.1 = p then (e.1, e.2.cleared) else e))
    dies := SMap.mapVals {} id (s.dies.map (fun e => if e.1 < 4 && partOfDie s e.1 == p then (e.1, e.2.cleared) else e))
    ports := SMap.mapVals {} id (s.ports.map (fun e => if partOfPort s e.1 = p then (e.1, e.2.cleared) else e))
    courses := SMap.dropKeys (fun c => partOfCourse s c == p) s.courses }

/-- Commands of the partition leave without records, with their requests and window accesses. -/
def State.dropCmds (s : State) (p : Nat) : State :=
  let gone := (s.cmds.filter (fun c => c.part == p)).map (·.id) ++ (s.persists.filter (fun x => x.part == p)).map (·.handle)
  let reqs := s.reqs.filter (fun r => !gone.contains r.cmd)
  { s with
    cmds := s.cmds.filter (fun c => c.part != p)
    reqs := reqs
    site := { s.site with reqs := s.site.reqs.filter (fun r => decide (2 ^ 40 ≤ r.id) || reqs.any (fun q => q.id == r.req)) } }

/-- The partition's view ring (R415). -/
def State.clearView (s : State) (p : Nat) : State := { s with views := SMap.dropKeys (· == p) s.views }

/-- A new memory key erases what the old one protected (R370, R371): HBM, tier 1 and the open window. -/
def State.eraseMem (s : State) (p : Nat) : State :=
  s.freshen (fun k => keyPart k == p)

/-- Draw the partition's memory key and attestation key (R370, Table SEC-2). -/
def State.drawKeys (s : State) (p : Nat) : State :=
  ({ s with draws := s.draws + 2 }).modSec p (fun x =>
    { x with memGen := x.memGen + 1, memKey := Config.random s.draws,
             attKey := (Config.random (s.draws + 1)).setWidth 384 })

/-- Key slots empty and sessions end (R362, R434). -/
def State.dropSecrets (s : State) (p : Nat) : State :=
  s.modSec p (fun x => { x with keys := [], spdm := {} })

/-- A change in a partition's measurement indices 2 to 6 (R362): its sessions end, and its key slots clear, as
KEY_CHANGE tells (Table SEC-12). -/
def State.measured (s : State) (p : Nat) : State :=
  let had := !(sec s p).keys.isEmpty
  let t := s.modSec p (fun x => { x with keys := [], spdm := { x.spdm with sessions := [] } })
  if had then t.raise_ (Blk.sec.page p) 1 else t

/-- The clearing steps of Table SEC-10 and of R431 for one partition. The keys that a module, link-loss or cold reset erases are
drawn anew at the partition's start (R370, R423). -/
def State.clearPart (s : State) (p : Nat) (k : Clearing) : State :=
  let t := ((((s.dropCmds p).clearCores p).clearUnits p).clearRegs p k).eraseMem p
  let v := t.dropSecrets p
  let u := if k == .module then v else v.drawKeys p
  if k == .part then u
  else { u.clearView p with shards := SMap.dropKeys (fun i => i / 16384 == p) u.shards }

/-! ### Stopping a partition -/

/-- Window accesses that wait are fenced (R331). -/
def State.fenceWins (s : State) (p : Nat) : State :=
  let hit := s.pcie.accs.filter (fun a => addrPart a.addr == p)
  let t := { s with
    pcie := { s.pcie with accs := s.pcie.accs.filter (fun a => addrPart a.addr != p) }
    site := { s.site with reqs := s.site.reqs.filter (fun r => !hit.any (fun a => r.id == winReq a.id)) } }
  hit.foldl (fun t a => t.fenceWin a.win (if a.data.isNone then some a.len else none)) t

/-- Commands of a partition that have not ended. -/
def unfinished (s : State) (p : Nat) : Nat := (s.cmds.filter (fun c => c.part == p && c.status.isNone)).length

/-- Dispatch and the tenant hub cores of a partition stop, every command is aborted, and SPDM sessions end. -/
def State.haltPart (s : State) (p : Nat) : State :=
  let t := ((s.abortPart p).dropPersists (fun x => x.part == p)).stopSteer p 0
  (t.modSec p (fun x => { x with spdm := { x.spdm with sessions := [] } })).fenceWins p

/-- Step 1 of Table SEC-10: the partition halts, and departed notices go out on its ports. The number is that of the commands
aborted. -/
def State.stopPart (s : State) (p : Nat) : State × Nat := ((s.departPorts (portsOf s p)).haltPart p, unfinished s p)

/-- Completion records of commands that have ended (R372). -/
def State.completeAll (s : State) (p : Nat) : State :=
  (s.cmds.filter (fun c => c.part == p)).foldl (fun t c =>
    match t.cmd? c.id with
    | some d =>
      match d.status with
      | some st => t.complete d st
      | none => t
    | none => t) s

end Sys2Proof.Machine
end

