-- ==== Sys2Proof/Machine/Resets.lean ====
section
/-! DEFINITION. Partition, module and link-loss resets, module trips, and the hub's heartbeat and watchdog (R179, R181,
R190, R351, R395, R396, R404, R409, R425, R430, R431, R434–R437, R461). -/

namespace Sys2Proof.Machine

def supPage (p : Nat) : Nat := Blk.sup.page p

/-! ### Channels at a reset (R179–R184) -/

/-- A remap copy in progress completes before the reset acts (R191, R436). -/
def State.finishCopies (s : State) (chans : List Nat) : State :=
  chans.foldl (fun t c =>
    match (chan t c).copying with
    | some (bank, row) =>
      (t.modChan c (fun x =>
        { x with
          copying := none
          remapped := (x.remapped.filter (· != (bank, row))) ++ [(bank, row)]
          rows := x.rows.filter (fun r => !(r.bank == bank && r.row == row))
          pend := x.pend.filter (fun r => !(r.bank == bank && r.row == row)) })).raise_ (hbmPage (c / 32)) 1
        (chanDet c [bank, row])
    | none => t) s

/-- A channel that fails at a reset is retired: its granules are fresh, so the move ends at once (R183, R184). -/
def State.retireAtReset (s : State) (ch : Nat) : State :=
  if s.flash.retiredChans.contains ch && (chan s ch).st == 3 then s
  else
    let t := s.modChan ch (fun c => { c with st := 3, moved := chanGrans })
    let f := if t.flash.retiredChans.contains ch then t.flash.retiredChans else t.flash.retiredChans ++ [ch]
    let u := { t with flash := { t.flash with retiredChans := f } }
    let pg := hbmPage (ch / 32)
    s.noteHealth (((u.raise_ pg 3 (chanDet ch [])).raise_ pg 3 (chanDet ch [])).countFault (chanPage ch)) (chanHealthPages ch)

/-- Rows of the pending list take spare rows, as far as their bank has any. -/
def remapRows : List PendRow → Chan → Chan
  | [], c => c
  | r :: rs, c =>
    remapRows rs
      (if spareFree c r.bank = 0 then c
       else
        { c with
          spares := SMap.modify 0 c.spares r.bank (· + 1)
          remapped := (c.remapped.filter (· != (r.bank, r.row))) ++ [(r.bank, r.row)]
          rows := c.rows.filter (fun x => !(x.bank == r.bank && x.row == r.row))
          pend := c.pend.filter (fun x => !(x.bank == r.bank && x.row == r.row)) })

/-- R179: every pending row is copied to flash and remapped; a bank without a spare row retires the channel (R180). -/
def State.remapPending (s : State) (ch : Nat) : State :=
  let c := chan s ch
  let new := (c.pend.map (fun r => (ch, r.bank, r.row))).filter (fun r => !s.flash.remaps.contains r)
  let t := ({ s with flash := { s.flash with remaps := s.flash.remaps ++ new } }).modChan ch (fun c => remapRows c.pend c)
  if (chan t ch).pend.isEmpty then t else t.retireAtReset ch

/-- Training of a channel (R181, R182): a DEGRADED channel's faulty lane is replaced by a spare one; `more` is the number
of lanes that training finds failing besides. -/
def State.trainChan (s : State) (ch more : Nat) : State :=
  let c := chan s ch
  let used := c.lanesUsed + more + (if c.st = 1 then 1 else 0)
  if c.st = 3 then s
  else if 2 < used then s.retireAtReset ch
  else
    let t := s.modChan ch (fun c => { c with st := 0, lanesUsed := used, badSymbol := none, symErr := [] })
    s.noteHealth { t with flash := { t.flash with lanesUsed := SMap.set 0 t.flash.lanesUsed ch used } } (chanHealthPages ch)

/-- What a reset does to a channel before training: a retirement under way ends (R191), and pending rows are remapped. -/
def State.resetChan (s : State) (ch : Nat) : State :=
  if (chan s ch).st = 2 || (s.flash.retiredChans.contains ch && (chan s ch).st != 3) then s.retireAtReset ch
  else s.remapPending ch

/-! ### Self-test (R181, R183, R313, R405, R430) -/

/-- R430: one unit that fails training or self-test. -/
def State.failUnit (s : State) (f : TestFail) : State :=
  match f with
  | .core c => s.retireCore c
  | .cluster c => s.retireCluster c
  | .chanLanes ch n => s.trainChan ch n
  | .chanTest ch => s.retireAtReset ch
  | .link l => s.faultLink l
  | .package k => s.retirePkg k
  | .die n => s.faultDie n
  | .stack n => s.faultDie (4 + n)
  | .hub => { s with startup := { s.startup with dead := true } }

/-! ### Partition reset (R431, R434, R437) -/

/-- A stack or die of the partition still waits, after a trip, for a reading below 95 °C (R190, R395). -/
def tooHot (s : State) (p : Nat) : Bool :=
  (stacksOf s p).any (fun n => (stack s n).offline && decide (95 ≤ (stack s n).temp)) ||
    (diesOf s p).any (fun n => (die s n).offline && decide (95 ≤ (die s n).temp))

/-- Dies and stacks of a partition have their power again, with no telemetry yet (R433). -/
def State.repower (s : State) (p : Nat) : State :=
  let t := (diesOf s p).foldl (fun t n =>
    t.modDie n (fun x =>
      { x with
        faulted := false, offline := false, excluded := 0, hotHold := false, thr := 4, fastHold := false
        level := if x.level = 4 then heatReach x.temp else x.level })) s
  (stacksOf s p).foldl (fun t n =>
    (t.modStack n (fun x => { x with offline := false, excluded := 0, level := if x.level = 4 then heatReach x.temp else x.level })).modDie
      (4 + n) (fun x => { x with faulted := false, offline := false })) t

/-- Pages whose HEALTH a reset of the partition can change. -/
def resetHealthPages (s : State) (p : Nat) : List Nat :=
  (diesOf s p).flatMap (fun n => Blk.die.page n :: (List.range 12).flatMap (fun k => clusterPages (12 * n + k)) ++
    [Blk.qg.page n, Blk.bnd.page n, Blk.trn.page n, Blk.tir.page n, Blk.pwr.page n]) ++
    (stacksOf s p).flatMap (fun n => [hbmPage n, nmuPage n, Blk.die.page (4 + n)])

/-- Links that a partition's reset covers: between its compute dies, and from them to its stacks, Narar engines and the
hub (Table PKG-3). -/
def linksOf (s : State) (p : Nat) : List Nat :=
  (List.range 6).filter (fun l => partOfDie s (cdEnds l).1 == p && partOfDie s (cdEnds l).2 == p) ++
    (stacksOf s p).map (6 + ·) ++ (diesOf s p).map (14 + ·) ++ (diesOf s p).map (18 + ·)

/-- A link that Xanna has returned to service trains at the next reset that covers it (R313). -/
def State.trainReturned (s : State) (links : List Nat) : State :=
  links.foldl (fun t l =>
    if (link t l).st = 2 && !t.flash.faultedLinks.contains l then t.modLink l (fun x => { x with st := 1 }) else t) s

/-- Steps 1 to 3 of R431: the partition stops, is cleared, has new keys, and stands in recovery scaffold. -/
def State.startPartReset (s : State) (p cause : Nat) : State :=
  let a := s.finishCopies (chansOf s p)
  let b := a.stopPart p
  let c := (b.1.resetEntry p 2 (supPage p) b.2).clearPart p .part
  let d := c.repower p
  let e := (chansOf s p).foldl (fun t ch => (t.resetChan ch).trainChan ch 0) (d.trainReturned (linksOf s p))
  let f := s.noteHealth e (resetHealthPages s p ++ (linksOf s p).map Blk.link.page)
  { f with
    startup := { f.startup with
      part := f.startup.part.set p 1
      partCause := f.startup.partCause.set p cause
      partResets := f.startup.partResets.modify p (· + 1)
      thermalWait := f.startup.thermalWait.set p false
      recovering := f.startup.recovering.set p true } }

/-- A request for a partition reset: absorbed by a reset in progress; one that must wait for heat waits (R431, R437). -/
def State.partReset (s : State) (p cause : Nat) : State :=
  let st := s.startup.part.getD p 1
  if s.startup.phase != 7 || st == 1 || st == 3 || s.startup.thermalWait.getD p false || s.startup.tripped then s
  else if tooHot s p then
    { s with
      startup := { s.startup with
        thermalWait := s.startup.thermalWait.set p true, partCause := s.startup.partCause.set p cause } }
  else s.startPartReset p cause

/-- Partition resets whose wait for heat is over. -/
def State.endHeatWaits (s : State) : State :=
  (partsAll s).foldl (fun t p =>
    if t.startup.thermalWait.getD p false && !tooHot t p then t.startPartReset p (t.startup.partCause.getD p 0) else t) s

/-! ### Module and link-loss resets (R351, R423, R425, R434) -/

/-- Counters of module-wide pages and of every BLK_FAULT.UPSETS (R353, R322, Table REG-5). -/
def State.clearModuleRegs (s : State) : State :=
  let t := { s with regs := SMap.dropKeys (fun x => x / 512 == 0 && !keeps .module .hst (x % 512)) s.regs }
  let u := t.setRegFld 0 Reg.hstLink 47 32 0
  let v := (List.range pageCount).foldl (fun v g =>
    if SMap.get 0 v.regs (regKey g Reg.fault) = 0 then v else v.setRegFld g Reg.fault 63 32 0) u
  { v with links := SMap.mapVals {} (fun l => { l with checkErr := 0, replays := 0, fails := 0, times := [] }) v.links }

/-- Ports lose their peers, links train again, and every switched domain sleeps. -/
def State.downFabric (s : State) : State :=
  { s with
    ports := SMap.mapVals {} (fun x =>
      { ({} : Port) with st := if x.st = 2 then 2 else 0, retiredWl := x.retiredWl }) s.ports
    links := SMap.mapVals {} id (s.links.map (fun e =>
      (e.1, ({ st := if s.flash.faultedLinks.contains e.1 then 2 else 0 } : Link))))
    clusters := SMap.mapVals {} (fun x => { ({} : Cluster) with retired := x.retired, dbe := x.dbe }) s.clusters
    coreDoms := SMap.mapVals {} (fun x => { ({} : CoreDom) with retired := x.retired, dbe := x.dbe }) s.coreDoms
    dies := SMap.mapVals {} (fun x => { x with wakeQ := [], wakeWin := [] }) s.dies
    stks := SMap.mapVals {} (fun x =>
      { x with groupAsleep := [true, true, true, true], groupWaking := [false, false, false, false], groupIdle := [0, 0, 0, 0] }) s.stks
    hubGrps := [] }

/-- The PCIe link goes down and the function returns to its defaults; Xanna connections end. -/
def State.downHost (s : State) : State :=
  { s with pcie := { ({} : Pcie) with perst := s.pcie.perst, nextAcc := s.pcie.nextAcc }, conns := [], spdm := {} }

/-- A module (cause 1 to 3) or link-loss (cause 4) reset begins at phase 2. -/
def State.beginReset (s : State) (cause : Nat) : State :=
  let a := (s.finishCopies (List.range 256)).departPorts (List.range 16)
  let total := (a.cmds.filter (fun c => c.status.isNone)).length
  let b := (partsAll a).foldl (fun t p =>
    if cause = 4 then (t.haltPart p).resetEntry p 4 (supPage p) (unfinished t p) else t.haltPart p) a
  let c := (partsAll a).foldl (fun t p =>
    let u := (t.clearPart p .module).repower p
    if cause = 4 then u else u.modSec p (fun x => { x with skims := 0, ovrMs := 0, lastUs := 0 })) b
  let d := (List.range 256).foldl State.resetChan c
  let e := ((d.clearModuleRegs).downFabric).downHost
  let f := e.modDie 12 (fun x => { x with faulted := false, excluded := 0, hotHold := false })
  let g := s.noteHealth f hdrPages
  { g with
    cmds := [], reqs := [], persists := []
    time := { g.time with locked := false }
    site := { g.site with reqs := [] }
    startup := { g.startup with
      phase := 2, part := [1, 1, 1, 1], moduleCause := cause, partCause := [0, 0, 0, 0], t0 := s.now
      moduleResets := satAdd 32 g.startup.moduleResets 1, thermalWait := [false, false, false, false]
      recovering := [false, false, false, false], tripped := false, coolantTrip := false, beat := s.now, beatLost := none
      dead := false, held := false, periods := 0, aborted := total } }

/-- A request for a module reset is absorbed by one in progress (R437). -/
def State.moduleReset (s : State) (cause : Nat) : State :=
  if s.startup.phase = 7 && s.startup.powered then s.beginReset cause else s

/-! ### Trips of the module (R396, R461) -/

/-- The module trips: departed notices, every context aborted, MODULE_EVT in every partition; the reset waits. -/
def State.tripModule (s : State) (coolant : Bool) : State :=
  if s.startup.tripped then { s with startup := { s.startup with coolantTrip := s.startup.coolantTrip || coolant } }
  else
    let a := s.departPorts (List.range 16)
    let b := (partsAll a).foldl State.haltPart a
    let c := (partsAll a).foldl State.moduleSeen b
    { c with
      startup := { c.startup with
        tripped := true, coolantTrip := coolant, part := c.startup.part.map (fun _ => 3)
        recovering := [false, false, false, false] } }

/-- The reset that follows a trip begins once the hub reads below 95 °C and, after a coolant trip, the coolant has been
normal for 10 s. -/
def State.endTrip (s : State) : State :=
  let cool := !s.startup.coolantTrip ||
    (match s.coolant.normalSince with
     | some u => decide (u + 10000000000 ≤ s.now)
     | none => false)
  if s.startup.tripped && decide ((die s 12).temp < 95) && cool then s.beginReset 3 else s

/-! ### Rows -/

/-- PARTITION_RESET (R431, R434, Table SUP-10). -/
def execPartitionReset (who : Requester) (part : Nat) (val : Word) (s : State) : Answer :=
  .next (s.onWrite who (supPage part) (fun t =>
    if val.getLsbD 0 then t.partReset part (if who = .host then 1 else 2) else t))

/-- HOLDOFF_EXPIRY (R350–R352). -/
def execHoldoffExpiry (t : Nat) (s : State) : Answer :=
  let s := s.at_ t
  match s.pcie.holdoff with
  | some u =>
    if decide (u + 1000000 * s.settings.holdoffMs ≤ s.now) && !s.pcie.up then .next (s.moduleReset 4) else .next s
  | none => .next s

/-- HEARTBEAT (R409): from the firmware's start, every 100 µs. -/
def execHeartbeat (t : Nat) (s : State) : Answer :=
  let s := s.at_ t
  if s.startup.dead || s.startup.held || s.startup.phase < 3 || s.startup.beatLost.isSome || s.now < s.startup.beat + 100000 then
    .next s
  else .next (({ s with startup := { s.startup with beat := s.now } }).emit .heartbeat)

/-- HEARTBEAT_TIMEOUT (R409): Narar engines depart and fall silent, dispatch stops, engines stop. The watchdog latches the
cause. -/
def execHeartbeatTimeout (t : Nat) (s : State) : Answer :=
  let s := s.at_ t
  if s.startup.beatLost.isSome || s.startup.phase != 7 || s.now < s.startup.beat + 1000000 then .next s
  else
    let a := s.departPorts (List.range 16)
    .next { a with
      ports := SMap.mapVals {} (fun x => { x with st := if x.st = 1 then 0 else x.st, waiting := [], retry := [] }) a.ports
      engines := SMap.mapVals {} (fun e => { e with ramp := .idle }) a.engines
      quads := []
      startup := { a.startup with
        beatLost := some s.now, latched := some (if (die s 12).faulted then 1 else 0) } }

/-- WATCHDOG_EXPIRY (R409). -/
def execWatchdogExpiry (t : Nat) (s : State) : Answer :=
  let s := s.at_ t
  match s.startup.beatLost with
  | some u => if u + 10000000 ≤ s.now then .next (s.moduleReset 2) else .next s
  | none => .next s

end Sys2Proof.Machine
end

