-- ==== Sys2Proof/Machine/Spdm.lean ====
section
/-! DEFINITION. SPDM attestation and key release, and the KEY commands (R360–R369, Tables SEC-3 to SEC-8). Response codes
are SPDM's own (PRESUMED, log 34). -/

namespace Sys2Proof.Machine

/-! ### Responders (R361) -/

/-- Responder 0 is the module's, 1 + p partition p's. -/
def spdmOf (s : State) (resp : Nat) : Spdm := if resp = 0 then s.spdm else (sec s (resp - 1)).spdm

def State.modSpdm (s : State) (resp : Nat) (f : Spdm → Spdm) : State :=
  if resp = 0 then { s with spdm := f s.spdm } else s.modSec (resp - 1) (fun x => { x with spdm := f x.spdm })

/-- The firmware runs: from the end of phase 3, while the hub has not failed. -/
def firmwareUp (s : State) : Bool :=
  s.startup.powered && decide (4 ≤ s.startup.phase) && !s.startup.held && !s.startup.dead && s.startup.beatLost.isNone

/-- A responder answers: the module's once the firmware runs, a partition's once its attestation key is drawn. -/
def spdmUp (s : State) (resp : Nat) : Bool :=
  firmwareUp s && (resp == 0 || (decide (resp ≤ s.settings.partitions) && s.startup.phase == 7))

/-- Codes of responses and errors (SPDM 1.3). -/
def Spdm.error : Nat := 0x7F
def Spdm.unexpected : Nat := 0x04
def Spdm.invalid : Nat := 0x01
def Spdm.vendorRsp : Nat := 0x7E

def State.spdmSay (s : State) (resp code : Nat) (data : List Nat) : State := s.emit (.spdm resp code data)
def State.spdmErr (s : State) (resp err : Nat) : State := s.spdmSay resp Spdm.error [err]

/-- A request that needs the connection in a state from `least` on. -/
def State.spdmReq (s : State) (resp least : Nat) (f : State → State) : State :=
  if !spdmUp s resp then s
  else if (spdmOf s resp).conn < least then s.spdmErr resp Spdm.unexpected
  else f s

/-- What a measurement index holds, beside constants of the module: 1 and 2 at every responder, 3 to 6 at a partition's
(Table SEC-4). -/
def measIndices (s : State) (resp : Nat) : List Nat :=
  if resp = 0 then [1, 2]
  else
    let p := resp - 1
    let owner := s.site.admitted && (!s.flash.variantC || s.settings.openOwner == p)
    if owner then [1, 2, 3, 4, 5, 6] else [1, 2, 3, 4, 6]

/-- The values an index is the digest of, in the model's own order. -/
def measValue (s : State) (resp i : Nat) : List Nat :=
  let p := resp - 1
  match i with
  | 2 => [(if s.startup.slotB then s.flash.slotB else s.flash.slotA).digest.toNat]
  | 3 => [s.settings.partitions, firstDie s p, diesPer s, s.settings.shareNow.getD p 128, if s.settings.fenced then 1 else 0,
      s.settings.hostAccess.getD p 0] ++ s.settings.winPart.map (fun x => x.elim 4 id)
  | 4 => [(sec s p).meas4.toNat]
  | 5 => [s.site.measurement.toNat]
  | 6 => [(sec s p).tenant.toNat, (sec s p).gen.toNat, (sec s p).root.toNat]
  | _ => []

/-- The partition number, TENANT_ID and BIND_GEN in the leaf of a partition's chain (Table SEC-2). -/
def leafNames (s : State) (resp : Nat) : List Nat :=
  if resp = 0 then [] else [resp - 1, (sec s (resp - 1)).tenant.toNat, (sec s (resp - 1)).gen.toNat, (sec s (resp - 1)).attKey.toNat]

/-! ### Requests -/

/-- GET_VERSION starts the connection over (R361): version 1.3 alone. -/
def execGetVersion (resp : Nat) (s : State) : Answer :=
  .next (s.spdmReq resp 0 (fun t => (t.modSpdm resp (fun _ => { conn := 1 })).spdmSay resp 0x04 [0x13]))

/-- GET_CAPABILITIES: CERT, CHAL, MEAS with signature, ENCRYPT, MAC, MUT_AUTH, KEY_EX, CHUNK (Table SEC-3). -/
def execGetCapabilities (resp : Nat) (s : State) : Answer :=
  .next (s.spdmReq resp 1 (fun t =>
    (t.modSpdm resp (fun x => { x with conn := Nat.max x.conn 2 })).spdmSay resp 0x61
      [2 ^ 1 + 2 ^ 2 + 2 ^ 4 + 2 ^ 6 + 2 ^ 7 + 2 ^ 8 + 2 ^ 9 + 2 ^ 17]))

/-- NEGOTIATE_ALGORITHMS: the one set of Table SEC-3; `supported` says that the requester offers it. -/
def execNegotiateAlgorithms (resp : Nat) (supported : Bool) (s : State) : Answer :=
  .next (s.spdmReq resp 2 (fun t =>
    if supported then (t.modSpdm resp (fun x => { x with conn := 3 })).spdmSay resp 0x63 [384] else t.spdmErr resp Spdm.invalid))

/-- GET_DIGESTS: slot 0 (Table SEC-3). -/
def execGetDigests (resp : Nat) (s : State) : Answer :=
  .next (s.spdmReq resp 3 (fun t => t.spdmSay resp 0x01 (Config.spdmBody resp 0x01 (t.startup.cdi.toNat :: leafNames t resp))))

/-- GET_CERTIFICATE: slot 0 only. -/
def execGetCertificate (resp slot : Nat) (s : State) : Answer :=
  .next (s.spdmReq resp 3 (fun t =>
    if slot = 0 then t.spdmSay resp 0x02 (Config.spdmBody resp 0x02 (t.startup.cdi.toNat :: leafNames t resp))
    else t.spdmErr resp Spdm.invalid))

/-- CHALLENGE over slot 0, with the measurements' values in what is signed. -/
def execChallenge (resp slot : Nat) (nonce : BitVec 256) (s : State) : Answer :=
  .next (s.spdmReq resp 3 (fun t =>
    if slot = 0 then
      t.spdmSay resp 0x03 (Config.spdmBody resp 0x03 (nonce.toNat :: (measIndices t resp).flatMap (measValue t resp)))
    else t.spdmErr resp Spdm.invalid))

/-- GET_MEASUREMENTS (Table SEC-4): index 0 asks for their number, 0xFF for all of them. -/
def execGetMeasurements (resp index : Nat) (nonce : BitVec 256) (s : State) : Answer :=
  .next (s.spdmReq resp 3 (fun t =>
    let have_ := measIndices t resp
    if index = 0 then t.spdmSay resp 0x60 [have_.length]
    else
      let ask := if index = 0xFF then have_ else have_.filter (· == index)
      if ask.isEmpty then t.spdmErr resp Spdm.invalid
      else t.spdmSay resp 0x60 (ask ++ Config.spdmBody resp 0x60 (nonce.toNat :: ask.flatMap (measValue t resp)))))

/-- KEY_EXCHANGE opens a session that FINISH has still to complete; mutual authentication is requested. Half of its number
is the requester's, half the responder's. -/
def execKeyExchange (resp : Nat) (reqSession : BitVec 16) (s : State) : Answer :=
  .next (s.spdmReq resp 3 (fun t =>
    let sid : BitVec 32 := ((Config.random t.draws).setWidth 16) ++ reqSession
    (({ t with draws := t.draws + 1 }).modSpdm resp (fun x =>
      { x with sessions := x.sessions.filter (fun (e : Session) => e.id != sid) ++ [({ id := sid } : Session)] })).spdmSay resp 0x64
        (sid.toNat :: Config.spdmBody resp 0x64 [sid.toNat])))

def sessionOf (s : State) (resp : Nat) (id : BitVec 32) : Option Session := (spdmOf s resp).sessions.find? (fun e => e.id == id)

/-- FINISH: `rootDigest` is that of the requester's chain, when it authenticated itself. -/
def execFinish (resp : Nat) (session : BitVec 32) (rootDigest : Option (BitVec 384)) (s : State) : Answer :=
  .next (s.spdmReq resp 3 (fun t =>
    match sessionOf t resp session with
    | some e =>
      if e.open_ then t.spdmErr resp Spdm.unexpected
      else
        (t.modSpdm resp (fun x =>
          { x with sessions := x.sessions.map (fun (e : Session) => if e.id = session then { e with open_ := true, root := rootDigest } else e) })).spdmSay
            resp 0x65 [session.toNat]
    | none => t.spdmErr resp Spdm.invalid))

/-- END_SESSION. -/
def execEndSession (resp : Nat) (session : BitVec 32) (s : State) : Answer :=
  .next (s.spdmReq resp 3 (fun t =>
    match sessionOf t resp session with
    | some e =>
      if e.open_ then
        (t.modSpdm resp (fun x => { x with sessions := x.sessions.filter (fun e => e.id != session) })).spdmSay resp 0x6C [session.toNat]
      else t.spdmErr resp Spdm.invalid
    | none => t.spdmErr resp Spdm.invalid))

/-- DOE_DISCOVERY: each of the five instances has DOE discovery, SPDM and secured SPDM (types 0 to 2 of the PCI-SIG's vendor
ID); the answer names the index that follows, 0 after the last. -/
def execDoeDiscovery (inst index : Nat) (s : State) : Answer :=
  if firmwareUp s && decide (inst < 5) && decide (index < 3) then
    .next (s.spdmSay inst 0 [1, index, (index + 1) % 3])
  else .next s

/-! ### Key requests (R363, R369, Table SEC-5) -/

def putFld (x : BitVec 320) (hi lo : Nat) : Nat := fld x.toNat hi lo

/-- The payload breaks Table SEC-5 for an operation. -/
def putBad (x : BitVec 320) (op : Nat) : Bool :=
  putFld x 7 0 != op || decide (15 < putFld x 15 8) || putFld x 31 16 != 0 || putFld x 63 32 == 0 ||
    (op == 2 && putFld x 319 64 != 0)

/-- The 8-byte response: OP, RESULT, two zero bytes, KEY_ID. -/
def State.putSay (s : State) (resp : Nat) (x : BitVec 320) (result : Nat) : State :=
  let t := if result = 0 then s else s.bump (secPage (resp - 1)) Reg.secDenied 63 32 1
  t.spdmSay resp Spdm.vendorRsp ([putFld x 7 0, result, 0, 0] ++ (leBytes 4 (putFld x 63 32)).map BitVec.toNat)

/-- A key request: an SPDM ERROR outside a secured session with a partition's responder; RESULT 2 where the session may not
make it; RESULT 1 for a malformed payload (log 34). -/
def State.keyRequest (s : State) (resp : Nat) (session : Option (BitVec 32)) (x : BitVec 320) (op : Nat)
    (f : State → Nat → State) : State :=
  s.spdmReq resp 3 (fun t =>
    match session.bind (sessionOf t resp) with
    | some e =>
      if resp = 0 || !e.open_ then t.spdmErr resp Spdm.unexpected
      else
        let p := resp - 1
        let ok := (sec t p).bound && e.root == some (sec t p).root && !unsettled t p
        if !ok then t.putSay resp x 2
        else if putBad x op then t.putSay resp x 1
        else (f t p).putSay resp x 0
    | none => t.spdmErr resp Spdm.unexpected)

/-- KEY_PUT (R363, R364). -/
def execKeyPut (resp : Nat) (session : Option (BitVec 32)) (payload : BitVec 320) (s : State) : Answer :=
  .next (s.keyRequest resp session payload 1 (fun t p =>
    t.loadSlot p (putFld payload 15 8) (BitVec.ofNat 32 (putFld payload 63 32)) (BitVec.ofNat 256 (putFld payload 319 64))))

/-- KEY_CLEAR over SPDM (R369). -/
def execKeyClear (resp : Nat) (session : Option (BitVec 32)) (payload : BitVec 320) (s : State) : Answer :=
  .next (s.keyRequest resp session payload 2 (fun t p => t.emptySlot p (putFld payload 15 8)))

/-! ### KEY commands (R364–R369) -/

/-- OPEN. -/
def execKeyOpen (ring : Nat) (s : State) : Answer := .next (dispatchRowT true 7 1 ring openNeed openCheck State.startOpen s)

/-- The mask of loaded slots. -/
def slotMask (s : State) (p : Nat) : Nat := ((sec s p).keys.filter (fun e => e.2.valid)).foldl (fun a e => a + 2 ^ e.1) 0

/-- STATUS. -/
def execKeyStatus (ring : Nat) (s : State) : Answer :=
  .next (dispatchRow 7 2 ring (fun _ c => if keyReserved c.bits 2 then some St.malformed else none)
    (fun t c => (t.setResult c.id (BitVec.ofNat 64 (2 ^ 32 * (sec t c.part).memGen.toNat + slotMask t c.part))).finishCmd c.id) s)

/-- CLEAR, which takes effect at its dispatch. -/
def execKeyCmdClear (ring : Nat) (s : State) : Answer :=
  .next (dispatchRow 7 3 ring (fun _ c => if keyReserved c.bits 3 then some St.malformed else none)
    (fun t c => (t.emptySlot c.part (keyFld c.bits 11 8)).finishCmd c.id) s)

end Sys2Proof.Machine
end

