-- ==== Sys2Proof/Machine/Skims.lean ====
section
/-! DEFINITION. Steering programs, skims and overwrites (R354–R359, R371–R373, R381–R383, R386, R399, R436). -/

namespace Sys2Proof.Machine

/-! ### Steering programs (R357–R359) -/

/-- Bytes of a partition's range as a read that waits for its slabs finds them (R253): a slab without a copy reads as its
stored blocks. None where the read meets poison, a damaged block, or a bridge that is gone. -/
def blockBytes (s : State) (p x : Nat) : Option (List Byte) :=
  let n := x / 65536
  if (missing s p x 4096).isEmpty then
    if poisonedRange s p x 4096 then none else some (s.range p x 4096)
  else if unreachable s p n then none
  else blockRaw s p n (x % 65536 / 4096)

/-- The image of a steering program: `kib` KiB from an address in 4 KiB units. -/
def imageBytes (s : State) (p x kib : Nat) : Option (List Byte) :=
  ((List.range (ceilDiv kib 4)).foldl (fun a i =>
    match a, blockBytes s p (x + 4096 * i) with
    | some bs, some b => some (bs ++ b)
    | _, _ => none) (some [])).map (fun bs => bs.take (1024 * kib))

/-- START (R359, R372, R429): ignored in scaffold mode and under a skim or overwrite; a length outside the share is ignored
with a notice; a copy that fails leaves the program faulted. -/
def State.steerLoad (s : State) (p : Nat) : State :=
  let pg := secPage p
  let kib := s.regFld pg Reg.secSteerCtl 47 32
  let a := 4096 * s.regFld pg Reg.secSteerAddr 47 12
  if unsettled s p then s
  else if kib = 0 || shareKib s < kib then s.notice p 2 pg
  else
    let t := s.stopSteer p 0
    let img := if inRange t p a (1024 * kib) && !isOpen (addrOff a) then imageBytes t p (addrOff a) kib else none
    match img with
    | some bs =>
      let u := t.modSec p (fun x => { x with steer := 1, imageKib := kib, meas4 := Config.sha384 bs })
      ({ u with hubGrps := SMap.set 0 u.hubGrps (steerGroup u p) 1 }).measured p
    | none => (t.modSec p (fun x => { x with steer := 2 })).measured p

/-- STOP (R359): index 4 changes when a program was measured (R362). -/
def State.steerHalt (s : State) (p : Nat) : State :=
  let t := s.stopSteer p 0
  if (sec s p).meas4 = 0 then t else t.measured p

/-- One write of SEC_STEER_CTL: LEN_KIB, then STOP, then START. -/
def State.steerCtlWrite (s : State) (p : Nat) (val : Nat) : State :=
  let t := s.setRegFld (secPage p) Reg.secSteerCtl 47 32 (fld val 47 32)
  let u := if val.testBit 1 then t.steerHalt p else t
  if val.testBit 0 then u.steerLoad p else u

/-- A write of SEC_STEER_CTL by its requester; one from the steering program itself is ignored. -/
def State.steerWrite (s : State) (who : Requester) (p : Nat) (val : Nat) : State :=
  s.onWrite who (secPage p) (fun t => if steeringOnly t who (secPage p) then t else t.steerCtlWrite p val)

/-- STEER_START (R359). -/
def execSteerStart (who : Requester) (part : Nat) (val : Word) (s : State) : Answer := .next (s.steerWrite who part val.toNat)

/-- STEER_STOP (R359). -/
def execSteerStop (who : Requester) (part : Nat) (val : Word) (s : State) : Answer := .next (s.steerWrite who part val.toNat)

/-- Where a hub core sees the register pages (R445). -/
def hubPages : Nat := 0x4000000000

/-- The page at a BAR0 offset. -/
def pageAt (off : Nat) : Option Nat :=
  (List.range pageCount).find? (fun g => 4096 * (((blkOf g).info.2.2.2) + instOf g) == 4096 * (off / 4096))

/-- An access that the bounds of R357 let a hub core make: to a register page it may read. The manual gives the addresses
of no other part of its bounds. -/
def inBounds (s : State) (core addr : Nat) : Bool :=
  decide (hubPages ≤ addr) &&
    (match pageAt (addr - hubPages) with
     | some g => accessOf s (.hub core) g false == .ok
     | none => false)

/-- A program runs on a tenant hub core of the partition. -/
def steersOn (s : State) (core : Nat) : Option Nat :=
  match partOfHubCore s core with
  | some p => if (sec s p).steer = 1 && core < 16 then some p else none
  | none => none

/-- STEER_TRAP (R357). -/
def execSteerTrap (core addr : Nat) (s : State) : Answer :=
  match steersOn s core with
  | some p => if inBounds s core addr then .next s else .next (s.steerTrap p)
  | none => .next s

/-- STEER_ECALL (R358): −2 in a0. -/
def execSteerEcall (core : Nat) (s : State) : Answer :=
  match steersOn s core with
  | some _ => .next (s.emit (.ecall core (BitVec.ofInt 64 (-2))))
  | none => .next s

/-- A write of SEC_SEAL: only the steering program's counts (R382, R383). -/
def State.sealWrite (s : State) (who : Requester) (p val : Nat) : State :=
  s.onWrite who (secPage p) (fun t =>
    if steeringOnly t who (secPage p) then t.setRegFld (secPage p) Reg.secSeal 0 0 (val % 2) else t)

/-- SEC_SEAL_WRITE (R383). -/
def execSecSealWrite (who : Requester) (part : Nat) (val : Word) (s : State) : Answer := .next (s.sealWrite who part val.toNat)

/-! ### Skims (R372) and overwrites (R373) -/

/-- A skim wakes every domain of the partition that is not retired (R399). -/
def State.wakeAll (s : State) (p : Nat) : State :=
  let t := (clustersOf s p).foldl (fun t c =>
    if clusterRetired t c then t
    else
      (List.range 8).foldl (fun t k =>
        if coreRetired t (8 * c + k) then t
        else t.modCoreDom (8 * c + k) (fun d => { d with asleep := false, waking := false, waitWake := false, idleSince := t.now }))
        (t.modCluster c (fun x => { x with asleep := false, waking := false, idleSince := t.now }))) s
  let u := (stacksOf s p).foldl (fun t n =>
    t.modStack n (fun x => { x with groupAsleep := [false, false, false, false], groupWaking := [false, false, false, false],
                                    groupIdle := List.replicate 4 t.now })) t
  (diesOf s p).foldl (fun t n => t.modDie n (fun x => { x with wakeQ := [] })) u

/-- A skim starts: step 1 of Table SEC-10. -/
def State.startSkim (s : State) (p : Nat) (b : Binding) : State :=
  let t := (s.stopPart p).1.completeAll p
  (t.wakeAll p).modSec p (fun x => { x with skim := some { b with since := s.now }, queued := none })

/-- A binding or release arrives (R372, R381): it waits behind a skim or overwrite, a reset or a fault of the partition
(R429), and replaces one that waits. -/
def State.bindRequest (s : State) (p : Nat) (b : Binding) : State :=
  let x := sec s p
  if x.skim.isSome || x.overwriting.isSome || s.startup.phase != 7 || s.startup.part.getD p 1 != 0 then
    s.modSec p (fun x => { x with queued := some b })
  else s.startSkim p b

/-- The binding applies (Table SEC-11), and what waited behind it starts its own skim. -/
def State.applyBinding (s : State) (p : Nat) (b : Binding) : State :=
  let t := s.modSec p (fun x =>
    if b.release then { x with tenant := 0, root := 0, bound := false, skim := none, overwriting := none }
    else { x with tenant := b.tenant, root := b.root, bound := true, gen := x.gen + 1, skim := none, overwriting := none })
  let u := (t.measured p).raise_ (secPage p) 0
  match (sec u p).queued with
  | some q => u.startSkim p q
  | none => u

/-- A skim's clearing is done: the binding applies, or its overwrite begins (R373), which flash records (R436). -/
def State.finishSkim (s : State) (p : Nat) (b : Binding) : State :=
  if b.overwrite then
    let t := s.modSec p (fun x => { x with skim := none, overwriting := some b })
    ({ t with flash := { t.flash with overwrites := t.flash.overwrites.filter (· != p) ++ [p] } }).raise_ (secPage p) 0
  else s.applyBinding p b

/-- What a partition's tenant switch does when the partition becomes operational after a reset (Table SUP-5): a skim's
clearing was the reset's, and its binding or overwrite applies now; an overwrite runs again; a waiting binding starts. -/
def State.resumeSwitch (s : State) (p : Nat) : State :=
  match (sec s p).skim with
  | some b =>
    (s.modSec p (fun x =>
      { x with skims := satAdd 16 x.skims 1, lastUs := Nat.min 255 ((s.now - b.since) / 1000) })).finishSkim p b
  | none =>
    match (sec s p).overwriting, (sec s p).queued with
    | none, some q => s.startSkim p q
    | _, _ => s

/-- SKIM_END (R372): clearing, read-back and the binding. A read-back that finds a nonzero word faults the partition, which
undergoes a partition reset. -/
def execSkimEnd (part durationUs : Nat) (dirty : Bool) (s : State) : Answer :=
  match (sec s part).skim with
  | some b =>
    if s.startup.phase != 7 || s.startup.part.getD part 1 != 0 then .next s
    else
      let t := (s.finishCopies (chansOf s part)).clearPart part .skim
      if dirty then
        let u := t.faultPart part
        .next (u.startPartReset part (u.startup.partCause.getD part 0))
      else
        let u := t.modSec part (fun x =>
          { x with skims := satAdd 16 x.skims 1, lastUs := Nat.min 255 durationUs })
        .next (u.finishSkim part b)
  | none => .next s

/-- OVERWRITE_END (R373): OVR_MS records its time, SKIM_DONE is raised again and the binding applies. -/
def execOverwriteEnd (part ms : Nat) (s : State) : Answer :=
  match (sec s part).overwriting with
  | some b =>
    if s.startup.phase != 7 || s.startup.part.getD part 1 != 0 then .next s
    else
      let t := s.modSec part (fun x => { x with ovrMs := Nat.min 65535 ms })
      .next (({ t with flash := { t.flash with overwrites := t.flash.overwrites.filter (· != part) } }).applyBinding part b)
  | none => .next s

end Sys2Proof.Machine
end

