-- ==== Sys2Proof/Machine/Heat.lean ====
section
/-! DEFINITION. Heat: the samples of stacks and dies, and the coolant (R188, R190, R395, R396, R406, R459–R462). -/

namespace Sys2Proof.Machine

/-- A sample may end the wait of a partition reset or of a module trip (R190, R395, R396). -/
def State.cooled (s : State) : State := s.endHeatWaits.endTrip

/-- HBM_THERMAL_SAMPLE (R188, R190, R406): `readings` are the stack's sensors, four to a core die, in °C. The level
before the first sample is taken to be double refresh (R433), and the first sample sets it. -/
def execHbmThermalSample (stack : Nat) (readings : List Nat) (t : Nat) (s : State) : Answer :=
  let s := s.at_ t
  let x0 := Machine.stack s stack
  let u := s.excludeStack stack (newBad x0.excluded 4 readings)
  let x := Machine.stack u stack
  let hot := ((sensorsIn x.excluded readings).map Prod.snd).foldl Nat.max 0
  let r0 := if x.sampled then heatStep x.level x.belowSince hot s.now else (heatReach hot, none)
  let lvl := if x.offline then x.level else if stackHeld x.excluded then Nat.max 2 r0.1 else r0.1
  let was := if x.sampled then x.level else 0
  let v := u.modStack stack (fun y =>
    { y.spend s.now with
      sampled := true, level := lvl, belowSince := r0.2, temp := Nat.min 255 hot, peak := Nat.max y.peak (Nat.min 255 hot) })
  let w := if lvl = was then v else v.raise_ (hbmPage stack) 4 { d2 := vals32 [lvl] }
  if lvl = 4 && !x.offline then .next (w.tripStack stack) else .next w.cooled

/-! ### Dies (R395, R396, R406) -/

/-- Temperature sensors of a die: 16 on a compute die, 8 on the hub. -/
def dieSensors (n : Nat) : Nat := if n = 12 then 8 else 16

/-- Sensors found implausible leave the sampling, each a recorded fault of its die (R406). -/
def State.excludeDie (s : State) (n : Nat) (bad : List Nat) : State :=
  let pg := Blk.die.page n
  bad.foldl (fun t i =>
    ((t.modDie n (fun x => { x with excluded := x.excluded ||| 2 ^ i })).countFault pg).faultEntry (ownerOf s pg).num 4 pg
      { d1 := ids16 [n] }) s

/-- R395: a compute die trips: it loses its power and its partition is faulted. -/
def State.tripDie (s : State) (n : Nat) : State :=
  let t := s.modDie n (fun x => { x with offline := true })
  s.noteHealth (t.faultPart (partOfDie s n)) (resetHealthPages s (partOfDie s n))

/-- The pages whose HEALTH an excluded sensor shows in. -/
def dieHealthPages (n : Nat) : List Nat :=
  if n < 4 then [Blk.die.page n, Blk.qg.page n, Blk.bnd.page n, Blk.trn.page n, Blk.tir.page n, Blk.pwr.page n]
  else [Blk.die.page n]

/-- DIE_THERMAL_SAMPLE (R395, R396, R406): the sensors of compute die 0 to 3, or of the hub die, number 12. The level of a
compute die follows R188 under Table PWR-3; until the first sample the die is taken to be at warm (R433). The hub die's
one level is the trip. -/
def execDieThermalSample (die : Nat) (readings : List Nat) (t : Nat) (s : State) : Answer :=
  let s := s.at_ t
  if die < 4 || die == 12 then
    let rs := readings.take (dieSensors die)
    let x0 := Machine.die s die
    let u0 := s.excludeDie die (newBad x0.excluded (dieSensors die) rs)
    let u := s.noteHealth u0 (dieHealthPages die)
    let x := Machine.die u die
    let held := decide (dieSensors die < 2 * popCount (dieSensors die) x.excluded)
    let hot := ((sensorsIn x.excluded rs).map Prod.snd).foldl Nat.max 0
    let r0 := if x.sampled then heatStep x.level x.belowSince hot s.now else (heatReach hot, none)
    let lvl := if x.offline then x.level else if held then Nat.max 2 r0.1 else r0.1
    let was := if x.sampled then x.level else 0
    let v := u.modDie die (fun y =>
      { y with
        sampled := true, level := lvl, belowSince := r0.2, temp := Nat.min 255 hot, peak := Nat.max y.peak (Nat.min 255 hot)
        hotHold := held })
    if die = 12 then
      if 110 ≤ hot then .next (v.tripModule false) else .next v.cooled
    else
      let w := if lvl = was then v else v.raise_ (Blk.pwr.page die) 2 { d2 := vals32 [lvl] }
      if lvl = 4 && !x.offline then .next (w.tripDie die) else .next w.cooled
  else .next s

/-! ### Coolant (R459–R462) -/

/-- The condition of a sample (Table PHY-5), in tenths of a degree and of a litre per minute: 0 normal, 1 derate, 2 trip
condition, 3 sensor fault. -/
def coolantCond (t f : Int) : Nat :=
  if t < 0 ∨ 900 < t ∨ f < 0 ∨ 300 < f then 3
  else if 480 < t ∨ f < 40 then 2
  else if 400 < t ∨ f < 60 then 1 else 0

/-- The limit of a derate in mW, without PKG_CAP: the lesser of the temperature and the flow term. -/
def coolantLimit (t f : Int) : Nat := (min (3000000 - 12500 * (t - 400)) (50000 * f)).toNat

/-- COOLANT_SAMPLE (R460–R462): a derate, its end and a sensor fault act from the next period boundary; while a trip
condition lasts less than 1 s, the limit stays as it was. -/
def execCoolantSample (tenthsC tenthsLpm : Int) (t : Nat) (s : State) : Answer :=
  let s := s.at_ t
  if s.startup.powered then
    let k := coolantCond tenthsC tenthsLpm
    let c := s.coolant
    let lim : Option (Option Nat × Nat) := match k with
      | 0 => some (none, s.now)
      | 1 => some (some (coolantLimit tenthsC tenthsLpm), s.now)
      | 2 => c.limitPend
      | _ => some (some 1200000, s.now)
    .next ({ s with
      coolant := { c with
        temp := tenthsC, flow := tenthsLpm, cond := k, limitPend := lim
        tripSince := if k = 2 then some (c.tripSince.getD s.now) else none
        normalSince := if k = 0 then some (c.normalSince.getD s.now) else none } } : State).endTrip
  else .next s

/-- COOLANT_TRIP (R461): a trip condition held for 1 s trips the module, in start-up too. -/
def execCoolantTrip (t : Nat) (s : State) : Answer :=
  let s := s.at_ t
  match s.coolant.tripSince with
  | some u => if u + 1000000000 ≤ s.now && s.startup.powered then .next (s.tripModule true) else .next s
  | none => .next s

end Sys2Proof.Machine
end

