-- ==== Sys2Proof/Machine/Host.lean ====
section
/-! DEFINITION. Commands of the host interface: windows, the PCIe function, rings, MSI-X (R323–R353, R450). -/

namespace Sys2Proof.Machine

/-! ### Windows -/

/-- WINDOW_READ (R176, R330–R333). -/
def execWindowRead (win off len : Nat) (eccs : List Ecc) (s : State) : Answer :=
  .next (s.windowAccess win off len none eccs)

/-- WINDOW_WRITE (R176, R330–R333). -/
def execWindowWrite (win off : Nat) (data : List Byte) (s : State) : Answer :=
  .next (s.windowAccess win off data.length (some data) [])

/-- WINDOW_ACCESS_TIMEOUT (R332): an access has waited 40 ms. -/
def execWindowAccessTimeout (acc t : Nat) (s : State) : Answer :=
  let s := s.at_ t
  match s.pcie.accs.find? (fun a => a.id == acc) with
  | some a =>
    if a.since + 40000000 ≤ s.now then
      let u := { s with
        pcie := { s.pcie with accs := s.pcie.accs.filter (fun b => b.id != acc) }
        site := { s.site with reqs := s.site.reqs.filter (fun r => r.id != winReq acc) } }
      .next ((u.fenceWin a.win (if a.data.isNone then some a.len else none)).flushWins)
    else .next s
  | none => .next s

/-! ### The PCIe function -/

/-- FLR (R326, R352): windows and rings go, contexts are reset, the MSI-X table and pending bits clear. A ring whose
aborted commands still have to write their records drains first. -/
def execFlr (s : State) : Answer :=
  let wins := (List.range 8).foldl (fun t w => t.setRegFld 0 (Reg.hstWin + w) 63 63 0) s
  let rings := (List.range 64).foldl (fun t k =>
    if (ring t k).st = 0 then t
    else ((t.resetRing k).setRegFld (ringPage k) Reg.ringCtl 63 63 0).modRing k (fun r => { r with st := 2 })) wins
  let done := (List.range 64).foldl (fun t k =>
    if (ring t k).st = 2 && !t.cmds.any (fun c => c.ring == k) then t.endDrain k else t) rings
  .next { done with pcie := { done.pcie with msix := [], pba := [] } }

/-- PM_STATE_CHANGE (R324, R325). -/
def execPmStateChange (d3hot : Bool) (s : State) : Answer :=
  .next ({ s with pcie := { s.pcie with d3hot := d3hot } }).flushMsix

/-- BUS_MASTER_ENABLE_CHANGE (R324). -/
def execBusMasterEnableChange (on : Bool) (s : State) : Answer :=
  .next ({ s with pcie := { s.pcie with bme := on } }).flushMsix

/-- PCIE_LINK_DOWN (R350): DL_Down, or PERST# asserted. The hold-off runs from the loss of a link that was up
while the module is operational (R424). -/
def execPcieLinkDown (perst : Bool) (t : Nat) (s : State) : Answer :=
  let s := s.at_ t
  .next { s with
    pcie := { s.pcie with up := false, perst := perst, holdoff := if s.pcie.up && s.startup.phase == 7 then some s.now else s.pcie.holdoff } }

/-- PCIE_LINK_UP (R350, R352): DL_Up with PERST# deasserted; a hold-off in progress ends. -/
def execPcieLinkUp (t speed widthLog2 : Nat) (s : State) : Answer :=
  let s := s.at_ t
  let u := { s with
    pcie := { s.pcie with up := true, everUp := true, perst := false, speed := speed, widthLog2 := widthLog2,
                          holdoff := none } }
  let v := match s.pcie.holdoff with
    | some _ => (u.bump 0 Reg.hstLink 47 32 1).raise_ 0 2
    | none => u
  .next v.flushMsix

/-! ### Rings -/

/-- RING_ENABLE (R343, R347, R444). -/
def execRingEnable (who : Requester) (ring : Nat) (val : Word) (s : State) : Answer :=
  .next (s.onWrite who (ringPage ring) (fun t => t.ringCtlWrite ring val.toNat))

/-- RING_CLEAR_END (R343): zeros stand in every record; dispatch begins. The area's slabs are fetched first. -/
def execRingClearEnd (ring : Nat) (s : State) : Answer :=
  let r := Machine.ring s ring
  let p := partOfRing s ring
  let x := addrOff (ringCpl s ring)
  let len := 32 * ringSize s ring
  if r.st = 0 || !r.clearing then .next s
  else
    match missing s p x len with
    | [] => .next ((s.wideAt p x (List.replicate len 0)).1.modRing ring (fun r => { r with clearing := false }))
    | ns => .next (ns.foldl (fun t n => t.queueFetch p n 1 none) s)

/-- RING_DISABLE (R347): clearing ENABLE starts the drain. -/
def execRingDisable (who : Requester) (ring : Nat) (val : Word) (s : State) : Answer :=
  .next (s.onWrite who (ringPage ring) (fun t => t.ringCtlWrite ring val.toNat))

/-- RING_DRAIN_END (R347): the last command has written its record. -/
def execRingDrainEnd (ring : Nat) (s : State) : Answer :=
  if (Machine.ring s ring).st = 2 && !s.cmds.any (fun c => c.ring == ring) then .next (s.endDrain ring) else .next s

/-- CTX_RESET (R155, R347): a write of 1 to RING_CTL.CTX_RESET, the other fields as they are. -/
def execCtxReset (who : Requester) (ring : Nat) (s : State) : Answer :=
  .next (s.onWrite who (ringPage ring) (fun t => t.resetRing ring))

/-- DOORBELL (R344, R352). -/
def execDoorbell (who : Requester) (ring : Nat) (val : Word) (s : State) : Answer :=
  .next (s.onWrite who (ringPage ring) (fun t =>
    let tail := fld val.toNat 15 0
    if (Machine.ring t ring).st = 1 && decide (tail < ringSize t ring) then t.modRing ring (fun r =>
      { r with tail := tail, seen := if who = .host then t.pcie.nextAcc else r.seen })
    else t.raise_ (ringPage ring) 0))

/-- COMMAND_COMPLETION (R49, R63, R224, R242, R293, R337, R344–R348). -/
def execCommandCompletion (cmd : Nat) (s : State) : Answer :=
  match s.cmd? cmd with
  | some c =>
    match c.status with
    | some st => .next (s.complete c st)
    | none => .next s
  | none => .next s

/-! ### MSI-X and odd accesses -/

/-- Place of the table and of the pending bit array in BAR0 (R450). -/
def inMsixTable (off : Nat) : Bool := decide (0x20000 ≤ off) && decide (off < 0x20000 + 69 * 16)
def inMsixPba (off : Nat) : Bool := decide (0x21000 ≤ off) && decide (off < 0x21000 + 16)

/-- A 4-byte word of the two structures. -/
def msixAt (s : State) (off : Nat) : Nat :=
  if inMsixTable off then (msixWord s ((off - 0x20000) / 4)).toNat
  else if inMsixPba off then
    (List.range 32).foldl (fun a i => a + bitIf (s.pcie.pba.contains (8 * (off - 0x21000) + i)) i) 0
  else 0

/-- Store a word of the table; the vector control word keeps its mask bit alone. -/
def State.msixPut (s : State) (off v : Nat) : State :=
  if inMsixTable off then
    let i := (off - 0x20000) / 4
    let w := BitVec.ofNat 32 (if i % 4 = 3 then v % 2 else v)
    { s with pcie := { s.pcie with msix := SMap.set (if i % 4 = 3 then 1 else 0) s.pcie.msix i w } }
  else s

/-- An aligned access of 4 or 8 bytes. -/
def msixAligned (off size : Nat) : Bool := (size == 4 || size == 8) && off % size == 0

/-- MSIX_TABLE_ACCESS (R324, R326, R450). -/
def execMsixTableAccess (acc : MsixAccess) (s : State) : Answer :=
  if s.pcie.d3hot then .next (s.emit .unsupported)
  else
    match acc with
    | .read off size =>
      if msixAligned off size then
        .next (s.emit (.msixData (BitVec.ofNat 64
          (msixAt s off + (if size = 8 then 2 ^ 32 * msixAt s (off + 4) else 0)))))
      else .next (s.emit (.allOnes size))
    | .write off size val =>
      if msixAligned off size then
        let t := s.msixPut off (val.toNat % 2 ^ 32)
        .next (if size = 8 then t.msixPut (off + 4) (val.toNat / 2 ^ 32) else t).flushMsix
      else .next s

/-- BAR0_MISSIZED_ACCESS (R325, R327). -/
def execBar0MissizedAccess (write : Bool) (off size : Nat) (s : State) : Answer :=
  let answer (t : State) : State := if write then t else t.emit (.allOnes size)
  if s.pcie.d3hot then .next (s.emit .unsupported)
  else if inMsixTable off || inMsixPba off then .next (answer s)
  else .next (answer ((s.bump 0 Reg.hstErr 15 0 1).raise_ 0 0))

end Sys2Proof.Machine
end

