-- ==== Sys2Proof/Machine/Ledgers.lean ====
section
/-! DEFINITION. MODE, INPUT and TRN_LEDGER_CTL (R237–R240). -/

namespace Sys2Proof.Machine

/-- MODE: DET and TRACE wait for the next lintel barrier (R237). -/
def modeStart (s : State) (c : Cmd) : State :=
  let w := ledgerOp c.bits
  (s.modLedger c.part (fun l => { l with detPend := w.testBit 8, tracePend := w.testBit 9 })).finishCmd c.id

def execMode (ring : Nat) (s : State) : Answer := .next (dispatchRow 8 2 ring ledgerCheck modeStart s)

/-- INPUT: an entry of the open record (Table TRN-9). -/
def inputStart (s : State) (c : Cmd) : State :=
  let w := ledgerOp c.bits
  let t := s.ledgerAppend c.part [1 ||| (c.ring <<< 8), fld w 79 32, fld w 191 128, fld w 255 192]
  (t.modLedger c.part (fun l => if l.openAt.isSome then { l with inputs := l.inputs + 1 } else l)).finishCmd c.id

def execInput (ring : Nat) (s : State) : Answer := .next (dispatchRow 8 3 ring ledgerCheck inputStart s)

/-- The 4 GiB ring from a base lies in the partition's range and outside the open window (R239). -/
def ledgerFits (s : State) (p base : Nat) : Bool :=
  decide (base < 2 ^ 43) && addrPart base == p && decide (addrOff base + 2 ^ 32 ≤ rangeEnd s p)

/-- TRN_LEDGER_CTL_WRITE (R239): ENABLE is 0 when the ring does not fit; turning it off ends the keeping of the
open record. -/
def execTrnLedgerCtlWrite (who : Requester) (page : Nat) (val : Word) (s : State) : Answer :=
  if blkOf page = .trn then
    .next (s.onWrite who page (fun t =>
      let p := (ownerOf t page).num
      let v := writeFields (fieldsOf .trn Reg.trnLedgerCtl) (t.reg page Reg.trnLedgerCtl) val.toNat
      let base := 65536 * fld v 47 16
      let ended (u : State) : State := u.modLedger p (fun l => { l with openAt := none, late := [] })
      if v.testBit 0 && !ledgerFits t p base then
        (ended (t.setReg page Reg.trnLedgerCtl (setFld v 0 0 0))).raise_ (trnPage t p) 3
      else
        let u := t.setReg page Reg.trnLedgerCtl v
        if v.testBit 0 then u else ended u))
  else .next s

end Sys2Proof.Machine
end

