-- ==== Sys2Proof/Machine/Power.lean ====
section
/-! DEFINITION. The power loop, the fast limit, switched domains and faults of a die's supply (R374, R384–R399, R406,
R433, R461, R462). -/

namespace Sys2Proof.Machine

/-! ### The power loop -/

/-- A compute die as the loop sees it: its number, the level in force, its floor, its draw and its engine part in mW. -/
structure LoopDie where
  num : Nat
  prev : Nat
  bound : Nat
  draw : Nat
  eng : Nat
deriving DecidableEq, Repr

/-- A common multiple of 1 to 16, so that E × (16 − T) ÷ (16 − T_prev) stays exact. -/
def loopScale : Nat := 720720

/-- The projected draw of some dies and of a rest, in mW × loopScale, when each die runs at the level `f` gives it
(R392). -/
def project (ds : List LoopDie) (rest : Nat) (f : LoopDie → Nat) : Int :=
  ds.foldl (fun (a : Int) d =>
    a + ((d.draw : Int) - (d.eng : Int)) * loopScale + (d.eng * (16 - f d) * (loopScale / (16 - d.prev)) : Nat))
    ((rest * loopScale : Nat) : Int)

/-- The smallest level whose projection stays within the limit. -/
def levelNeed (ds : List LoopDie) (rest limit : Nat) : Nat :=
  ((List.range 16).find? (fun t => decide (project ds rest (fun d => Nat.max t d.bound) ≤ (limit * loopScale : Nat)))).getD 15

/-- The level one step down, where the limit and the die's floor let it fall. -/
def stepDown (need : Nat) (d : LoopDie) : Nat := Nat.max d.bound (Nat.max need (d.prev - 1))

/-- The projection one step down is at most 97% of the limit. -/
def mayRelax (ds : List LoopDie) (rest limit need : Nat) : Bool :=
  decide (100 * project ds rest (stepDown need) ≤ (97 * limit * loopScale : Nat))

/-- What the limit asks of a die, before the die's floor. -/
def limitLevel (need : Nat) (relax : Bool) (d : LoopDie) : Nat :=
  if d.prev ≤ need then need else if relax then Nat.max need (d.prev - 1) else d.prev

/-- A floor of Table PWR-3: at warm the level does not fall. -/
def heatBound (d : Die) : Nat := if d.level = 1 then d.thr else if d.level = 2 then 8 else if d.level = 0 then 0 else 15

/-- The lowest level that heat and the fast limit leave a die (R392, R394). -/
def lowBound (d : Die) : Nat := Nat.max (heatBound d) (if d.fastHold then 8 else 0)

/-- REASON (Table PWR-5): `limitR` names the limit in force, and `need` is what it asks for. -/
def reasonOf (d : Die) (level lim need limitR : Nat) : Nat :=
  if level = 0 then 0
  else if lim < level then (if level ≤ heatBound d then 3 else 4)
  else if level ≤ need || d.reason = 0 then limitR else d.reason

/-- The module is fenced: fencing first applies on entry to operational (Table STP-7). -/
def fencedNow (s : State) : Bool := s.settings.fenced && s.startup.phase == 7

/-- L in mW: PKG_CAP, or less while a derate applies (Table PHY-5). -/
def loopLimit (s : State) : Nat :=
  match s.coolant.limit with
  | some l => Nat.min (1000 * s.settings.capW) l
  | none => 1000 * s.settings.capW

/-- Groups of dies that share a limit, with what else the limit covers and the limit (R390, R391). -/
def loopGroups (s : State) (stackDraw narDraw : List Nat) (hubDraw openDraw : Nat) : List (List Nat × Nat × Nat) :=
  if fencedNow s then
    (partsAll s).map (fun p =>
      (diesOf s p, ((stacksOf s p).map (fun n => stackDraw.getD n 0)).sum + ((diesOf s p).map (fun n => narDraw.getD n 0)).sum,
        (loopLimit s - 180000) / s.settings.partitions))
  else [(List.range 4, (stackDraw.take 8).sum + (narDraw.take 4).sum + hubDraw + openDraw, loopLimit s)]

/-- Settings written before the pilot tick of the boundary take effect (R22, R390, R399, R461, R462). A change of fenced
power changes what is measured (Table SEC-4). -/
def State.applyPower (s : State) (b : Nat) : State :=
  let x := s.settings
  let due (w : Nat) : Bool := decide (w / 20 < b / 20)
  let capOn := x.capPend.any (fun c => due c.2)
  let fenceOn := x.fencedPend.isSome && due x.fencedAt
  let limOn := s.coolant.limitPend.any (fun c => due c.2)
  let t := { s with
    settings := { x with
      capW := if capOn then (x.capPend.map Prod.fst).getD x.capW else x.capW
      capPend := if capOn then none else x.capPend
      fenced := if fenceOn then x.fencedPend.getD x.fenced else x.fenced
      fencedPend := if fenceOn then none else x.fencedPend }
    coolant := { s.coolant with
      limit := if limOn then (s.coolant.limitPend.map Prod.fst).getD none else s.coolant.limit
      limitPend := if limOn then none else s.coolant.limitPend } }
  if t.settings.fenced = x.fenced then t else (partsAll t).foldl State.measured t

/-- Core domains of a die that are awake, and cluster domains. -/
def coresAwake (s : State) (n : Nat) : Nat :=
  ((List.range 96).filter (fun k => !(SMap.get {} s.coreDoms (96 * n + k) : CoreDom).asleep)).length
def clustersAwake (s : State) (n : Nat) : Nat :=
  ((List.range 12).filter (fun k => !(cluster s (12 * n + k)).asleep)).length

/-- A die's level for the next period, with its counters (R393, R398): the cycles omitted in the ending period are those
of its awake engines (log 35). -/
def State.setLevel (s : State) (n level reason watts : Nat) : State :=
  let awake := 4 * coresAwake s n
  let t := s.modDie n (fun d =>
    { d with
      draw := Nat.min 65535 watts, paced := satAdd 64 d.paced (87500 * d.thr * awake), thr := level, reason := reason
      fastHold := false, throttledMs := satAdd 32 d.throttledMs (if level = 0 then 0 else 1) })
  if level = 0 || dieDown s n then t else t.raise_ (Blk.pwr.page n) 0

/-- One group's levels. -/
def State.loopGroup (s : State) (dieDraw engPart : List Nat) (g : List Nat × Nat × Nat) : State :=
  let ds := g.1.map (fun n =>
    ({ num := n, prev := (die s n).thr, bound := lowBound (die s n), draw := dieDraw.getD n 0
       eng := if s.startup.periods ≤ 10 then 440000 else engPart.getD n 0 } : LoopDie))
  let need := if s.startup.periods = 0 then 4 else levelNeed ds g.2.1 g.2.2
  let relax := s.startup.periods != 0 && mayRelax ds g.2.1 g.2.2 need
  ds.foldl (fun t d =>
    let lim := if s.startup.periods = 0 then 4 else limitLevel need relax d
    let lv := Nat.max d.bound lim
    let r := reasonOf (die s d.num) lv lim need (if s.startup.periods = 0 then 0 else if fencedNow s then 1 else 2)
    t.setLevel d.num lv r (d.draw / 1000)) s

/-- SHARED_THROTTLE (R374, R398) in every partition. -/
def State.shareThrottle (s : State) : State :=
  if (List.range 4).any (fun n => (die s n).reason == 2 && (die s n).thr != 0) then
    (partsAll s).foldl (fun t p => (t.bump (secPage p) Reg.secObs 63 32 1).raise_ (secPage p) 4) s
  else s

/-- The loop runs: dies have power and the hub's firmware runs. -/
def loopRuns (s : State) : Bool :=
  decide (4 ≤ s.startup.phase) && s.startup.powered && !s.startup.held && !s.startup.dead && !s.startup.tripped &&
    s.startup.beatLost.isNone

/-- POWER_LOOP_PERIOD (R391): the boundary of a 1 ms period, with the average draws of the ending one in mW, by die,
engine part of a die, stack and Narar engine. -/
def execPowerLoopPeriod (t : Nat) (dieDraw engPart stackDraw narDraw : List Nat) (hubDraw openDraw : Nat) (s : State) : Answer :=
  let s := s.at_ t
  let b := 1000000 * (s.now / 1000000)
  if loopRuns s && decide (s.startup.lastPeriod < b) then
    let a := s.applyPower b
    let pkg := ((dieDraw.take 4).sum + (stackDraw.take 8).sum + (narDraw.take 4).sum + hubDraw + openDraw) / 1000
    let c := (loopGroups a stackDraw narDraw hubDraw openDraw).foldl (fun u g => u.loopGroup dieDraw engPart g) a
    .next ({ c with
      startup := { c.startup with lastPeriod := b, periods := c.startup.periods + 1, pkgDraw := pkg } } : State).shareThrottle
  else .next s

/-- FAST_LIMIT_WINDOW (R394, R399): a 10 µs average above 600 W; a die that has tripped takes no such action. -/
def execFastLimitWindow (die milliwatts : Nat) (s : State) : Answer :=
  let d := Machine.die s die
  if die < 4 && loopRuns s && decide (600000 < milliwatts) && !dieDown s die && decide (d.thr < 8) then
    .next ((s.modDie die (fun x =>
      { x with thr := 8, reason := 4, fastHold := true, fast := satAdd 32 x.fast 1 })).raise_ (Blk.pwr.page die) 1)
  else .next s

/-! ### Switched domains (R386–R389) -/

/-- A command waits at a lintel barrier on a core. -/
def lintelWaits (s : State) (core : Nat) : Bool :=
  s.cmds.any (fun c => c.status.isNone && c.wait == .lintel && (cmdCores s c.part c.bits).contains core)

/-- A core domain has a reason to be awake (Table PWR-2). -/
def coreBusy (s : State) (core : Nat) : Bool :=
  (ctxNums core).any (fun n => (ctx s n).st == 1 || (ctx s n).st == 2) || lintelWaits s core ||
    (List.range 4).any (fun e => (engine s (4 * core + e)).ramp != .idle ||
      (List.range 4).any (fun q => !(quad s (4 * core + e) q).queue.isEmpty))

/-- CORE_SLEEP (R386, R399). -/
def execCoreSleep (core t : Nat) (wakeSameTick : Bool) (s : State) : Answer :=
  let s := s.at_ t
  let d : CoreDom := SMap.get {} s.coreDoms core
  let idle := s.regFld (Blk.pwr.page (core / 96)) Reg.pwrIdle 16 0
  if d.asleep || coreBusy s core || wakeSameTick || decide (s.now < d.idleSince + idle) then .next s
  else .next ((s.modCoreDom core (fun d => { d with asleep := true })).stirCluster (core / 8))

/-- A cluster domain has a reason to be awake. -/
def clusterBusy (s : State) (c : Nat) : Bool :=
  (List.range 8).any (fun k =>
    let d : CoreDom := SMap.get {} s.coreDoms (8 * c + k)
    !d.asleep || d.waking || d.waitWake) ||
    s.persists.any (fun x => x.stream.cluster == c) ||
    s.cmds.any (fun x => x.status.isNone && ((x.admitted && x.streams.any (fun r => r.cluster == c)) ||
      x.slices.any (fun l => l.cluster == c) || (envClass x.bits == 4 && (cmdClusters s x.part x.bits).contains c)))

/-- CLUSTER_SLEEP (R386, R399). -/
def execClusterSleep (cluster t : Nat) (wakeSameTick : Bool) (s : State) : Answer :=
  let s := s.at_ t
  let d := Machine.cluster s cluster
  if d.asleep || clusterBusy s cluster || wakeSameTick || decide (s.now < d.idleSince + 10000) then .next s
  else .next (s.modCluster cluster (fun x => { x with asleep := true }))

/-- Channels of a near-memory group: group 4 × stack + g. -/
def groupChans (group : Nat) : List Nat := (List.range 8).map (32 * (group / 4) + 8 * (group % 4) + ·)

/-- Since when the group has held no work and no slot. -/
def groupIdleFrom (s : State) (group : Nat) : Nat :=
  (groupChans group).foldl (fun a c => Nat.max a (chan s c).lastOut) ((stack s (group / 4)).groupIdle.getD (group % 4) 0)

/-- NMU_GROUP_SLEEP (R386, R399). -/
def execNmuGroupSleep (group t : Nat) (wakeSameTick : Bool) (s : State) : Answer :=
  let s := s.at_ t
  let st := stack s (group / 4)
  let busy := (groupChans group).any (fun c => (chan s c).mode != 0 || !(chan s c).queue.isEmpty)
  if st.groupAsleep.getD (group % 4) true || busy || wakeSameTick || decide (s.now < groupIdleFrom s group + 10000) then .next s
  else .next (s.modStack (group / 4) (fun x => { x with groupAsleep := x.groupAsleep.set (group % 4) true }))

/-- CORE_WAKE_START (R389): wakes that wait begin in order of request, at most eight of a die in any 200 ns. -/
def execCoreWakeStart (die t : Nat) (s : State) : Answer :=
  let s := s.at_ t
  let d := Machine.die s die
  let recent := d.wakeWin.filter (fun w => decide (s.now < w + 200))
  let go := d.wakeQ.take (8 - recent.length)
  let u := go.foldl (fun u k => u.modCoreDom k (fun x => { x with waking := true, waitWake := false })) s
  .next (u.modDie die (fun x =>
    { x with
      wakeQ := x.wakeQ.drop go.length, wakeWin := recent ++ go.map (fun _ => s.now)
      coreWakes := satAdd 32 x.coreWakes go.length }))

/-- DOMAIN_WAKE_END (R388): domains 0–383 are the cores, 384–431 the clusters, 432 + 4 × stack + g the near-memory
groups, and 464–467 the hub core groups. -/
def execDomainWakeEnd (domain : Nat) (s : State) : Answer :=
  if domain < 384 then
    if (SMap.get {} s.coreDoms domain : CoreDom).waking then
      .next (s.modCoreDom domain (fun d => { d with asleep := false, waking := false, idleSince := s.now }))
    else .next s
  else if domain < 432 then
    if (cluster s (domain - 384)).waking then
      .next (s.modCluster (domain - 384) (fun d => { d with asleep := false, waking := false, idleSince := s.now }))
    else .next s
  else if domain < 464 then
    let st := (domain - 432) / 4
    let g := (domain - 432) % 4
    if (stack s st).groupWaking.getD g false then
      .next (s.modStack st (fun x =>
        { x with groupAsleep := x.groupAsleep.set g false, groupWaking := x.groupWaking.set g false, groupIdle := x.groupIdle.set g s.now }))
    else .next s
  else if SMap.get 0 s.hubGrps (domain - 464) = 1 then
    .next { s with hubGrps := SMap.set 0 s.hubGrps (domain - 464) 2 }
  else .next s

/-! ### Faults of a die's supply (R406) -/

/-- A fault of a part that feeds a die; a die without power has none. -/
def State.partFault (s : State) (n : Nat) : State :=
  if decide (n < 13) && decide (3 ≤ s.startup.phase) && s.startup.powered then s.faultDie n else s

/-- DIE_PLL_LOCK_LOSS (R385, R406). -/
def execDiePllLockLoss (die : Nat) (s : State) : Answer := .next (s.partFault die)

/-- POWER_STAGE_FAULT (R406). -/
def execPowerStageFault (die : Nat) (s : State) : Answer := .next (s.partFault die)

end Sys2Proof.Machine
end

