-- ==== Sys2Proof/Machine/Startup.lean ====
section
/-! DEFINITION. Supply, the phases of start-up, and the end of a partition reset (R179, R190, R317, R360, R410, R423–R433,
R436, R437, R456–R458). -/

namespace Sys2Proof.Machine

/-! ### Power -/

/-- A channel as flash brings it back (R179, R183). -/
def flashChan (f : Flash) (ch : Nat) : Chan :=
  let rows := (f.remaps.filter (fun r => r.1 == ch)).map Prod.snd
  { st := if f.retiredChans.contains ch then 3 else 0, moved := if f.retiredChans.contains ch then chanGrans else 0,
    lanesUsed := SMap.get 0 f.lanesUsed ch, remapped := rows,
    spares := rows.foldl (fun m r => SMap.modify 0 m r.1 (· + 1)) [] }

/-- A map over the first n numbers. -/
def mapOf [DecidableEq α] (d : α) (n : Nat) (f : Nat → α) : SMap α :=
  (List.range n).foldl (fun m i => SMap.set d m i (f i)) []

/-- Everything as a cold reset finds it: what flash and fuses hold, and nothing else (R14, Table SUP-4). The model's own
queue, outputs and counts go on. -/
def State.cold (s : State) : State :=
  let f := s.flash
  { State.reset with
    pending := s.pending, out := s.out, freeIdx := s.freeIdx, draws := s.draws
    flash := f
    settings := { moduleId := s.settings.moduleId }
    chans := mapOf {} 256 (flashChan f)
    clusters := mapOf {} 48 (fun c => { retired := f.retiredClusters.contains c })
    coreDoms := mapOf {} 384 (fun c => { retired := f.retiredCores.contains c })
    ports := mapOf {} 16 (fun q =>
      { st := if f.retiredPorts.contains q then 2 else 0
        retiredWl := (f.retiredWls.filter (fun w => w.1 == q)).foldl (fun (m : BitVec 16) w => m ||| (1 <<< w.2)) 0 })
    links := mapOf {} 30 (fun l => { st := if f.faultedLinks.contains l then 2 else 0 })
    secs := if f.overwrites.isEmpty then [] else SMap.set {} [] 0 { overwriting := some { release := true } } }

/-- POWER_INPUT_IN_RANGE (R457): a cold reset starts at phase 1 (R423). -/
def execPowerInputInRange (s : State) : Answer :=
  if s.startup.powered then .next s else .next s.cold

/-- POWER_INPUT_OUT_OF_RANGE (R458, R437): an operational module says that it departs, unless the protection acts first;
every die loses its power. -/
def execPowerInputOutOfRange (over60V : Bool) (s : State) : Answer :=
  if s.startup.powered then
    let a := if s.startup.phase = 7 && !over60V then s.departPorts (List.range 16) else s
    let c := a.cold
    .next { c with startup := { c.startup with powered := false, phase := 0 } }
  else .next s

/-! ### Phases (Table SUP-1) -/

/-- A phase can end: the module has power, no trip has ended the start-up (R461), and nothing holds it. -/
def phaseIs (s : State) (n : Nat) : Bool :=
  s.startup.phase == n && s.startup.powered && !s.startup.held && !s.startup.tripped

/-- The module holds every die in reset (R409, R428). -/
def State.hold (s : State) : State := { s with startup := { s.startup with held := true } }

/-- An image that the boot ROM accepts (R426). -/
def imageOk (f : Flash) (i : FwImage) : Bool := i.signed && decide (f.minSvn ≤ i.svn)

/-- The slot that boots: true for B. -/
def bootSlot (f : Flash) : Option Bool :=
  let order := if f.slotA.svn < f.slotB.svn then [true, false] else [false, true]
  order.find? (fun b => imageOk f (if b then f.slotB else f.slotA))

/-- BOOT_ROM_PHASE (R426, R428). -/
def execBootRomPhase (s : State) : Answer :=
  if phaseIs s 1 || phaseIs s 2 then
    match bootSlot s.flash with
    | some b =>
      let img := if b then s.flash.slotB else s.flash.slotA
      .next { s with
        startup := { s.startup with phase := 3, slotB := b, svn := img.svn, cdi := Config.cdi img.digest } }
    | none => .next ({ s with startup := { s.startup with phase := 2 } }).hold
  else .next s

/-- BRING_UP_PHASE (R423, R430): PLLs lock and dies power up; those that fail are faulted. -/
def execBringUpPhase (t : Nat) (failedDies : List TestFail) (s : State) : Answer :=
  let s := s.at_ t
  if phaseIs s 3 then
    let u := failedDies.foldl State.failUnit s
    if u.startup.dead then .next u.hold else .next { u with startup := { u.startup with phase := 4, beat := s.now } }
  else .next s

/-! ### Phase 4 -/

/-- Compute dies whose modules the open site's owner needs, under the owner and count about to apply (R318, R321). -/
def siteModules (s : State) : List Nat :=
  let parts := s.settings.partPend.getD s.settings.partitions
  let owner := s.settings.ownerPend.getD s.settings.openOwner
  if s.flash.variantC then (List.range (4 / parts)).map (4 / parts * owner + ·) else List.range 4

/-- A module trained (R315). -/
def trained (d : OpenDie) (m : Nat) : Bool := [16, 24, 32].contains (d.rates.getD m 0)

/-- R317: the die may be admitted. -/
def siteFits (s : State) (d : OpenDie) : Bool :=
  d.present && d.abi == 1 && decide (1 ≤ d.maxPower) && decide (d.maxPower ≤ 60) && decide (64 ≤ d.capacity) &&
    decide (d.capacity ≤ 65536) && d.dvsecVid == s.flash.worrunVid && d.rangeOk && (siteModules s).all (trained d)

/-- OPEN_SITE_ADMISSION (R317, R320): a fence that power caused outlasts a module reset. -/
def State.admitSite (s : State) (d : OpenDie) : State :=
  let ok := siteFits s d
  let power := s.site.powerFence
  let used := siteModules s
  let t := { s with
    site := { s.site with
      admitted := ok, siteFenced := !ok || power, fenced := [false, false, false, false], capacity := d.capacity
      dieVid := d.dieVid, dieDid := d.dieDid, measurement := d.measurement } }
  let u := (List.range 4).foldl (fun u m =>
    u.modLink (26 + m) (fun x =>
      { x with st := if x.st = 2 then 2 else if !used.contains m then 3 else if trained d m then 1 else 2,
               rate := if used.contains m && trained d m then d.rates.getD m 0 else 0 })) t
  if ok && !power then u else u.raiseFence (sitePartitions s) {}

/-- Links that train come up (R313). -/
def State.trainLinks (s : State) : State :=
  (List.range 26).foldl (fun t l => t.modLink l (fun x => { x with st := if x.st = 2 then 2 else 1 })) s

/-- SCAFFOLD_LINKS_PHASE (R423, R181, R313, R317, R405). -/
def execScaffoldLinksPhase (t : Nat) (fails : List TestFail) (die : OpenDie) (s : State) : Answer :=
  let s := s.at_ t
  if phaseIs s 4 then
    let a := s.trainLinks
    let b := (List.range 256).foldl (fun u ch => if (chan u ch).st = 1 then u.trainChan ch 0 else u) a
    let c := (fails.foldl State.failUnit b).admitSite die
    let d := s.noteHealth c (hdrPages.filter (fun g => blkOf g == .link))
    if d.startup.dead then .next d.hold else .next { d with startup := { d.startup with phase := 5 } }
  else .next s

/-- SELF_TEST_PHASE (R430). -/
def execSelfTestPhase (t : Nat) (fails : List TestFail) (s : State) : Answer :=
  let s := s.at_ t
  if phaseIs s 5 then
    let u := fails.foldl State.failUnit s
    if u.startup.dead then .next u.hold else .next { u with startup := { u.startup with phase := 6 } }
  else .next s

/-! ### Entry to operational -/

/-- A host access or window setting takes effect (R329, R330). -/
def State.applyHost (s : State) (h : HostSetting) : State :=
  match h with
  | .access p m => ({ s with settings := { s.settings with hostAccess := s.settings.hostAccess.set p m } }).measured p
  | .window w p =>
    let was := winPart s w
    let t := { s with settings := { s.settings with winPart := s.settings.winPart.set w (some p) } }
    if was = p then t else (t.measured was).measured p
  | .holdoff ms => { s with settings := { s.settings with holdoffMs := ms } }

/-- The partition that a held setting belongs to. -/
def hostSettingPart : HostSetting → Option Nat
  | .access p _ => some p
  | .window _ p => some p
  | .holdoff _ => none

/-- Held settings of a partition take effect (R24, R429). -/
def State.applyHeld (s : State) (p : Nat) : State :=
  let mine := s.settings.hostPend.filter (fun h => hostSettingPart h == some p)
  let t := { s with settings := { s.settings with hostPend := s.settings.hostPend.filter (fun h => hostSettingPart h != some p) } }
  mine.foldl State.applyHost t

/-- Module-wide pending values take effect (R22, R24, R318, R390). -/
def State.applyPending (s : State) : State :=
  let x := s.settings
  { s with
    settings := { x with
      partitions := x.partPend.getD x.partitions, partPend := none
      openOwner := x.ownerPend.getD x.openOwner, ownerPend := none
      shareNow := List.replicate 4 x.shareGib
      fenced := x.fencedPend.getD x.fenced, fencedPend := none
      capW := (x.capPend.map Prod.fst).getD x.capW, capPend := none } }

/-- A partition has lost a die, a stack, or a link that holds it together (R313, R406, R430). -/
def partBroken (s : State) (p : Nat) : Bool :=
  (diesOf s p).any (fun n => (die s n).faulted || (link s (18 + n)).st == 2) ||
    (stacksOf s p).any (fun n => (die s (4 + n)).faulted || (link s (6 + n)).st == 2 || (stack s n).offline) ||
    (List.range 6).any (fun l =>
      (link s l).st == 2 && partOfDie s (cdEnds l).1 == p && partOfDie s (cdEnds l).2 == p)

/-- A partition becomes operational, unless it is broken. -/
def State.openPart (s : State) (p : Nat) : State :=
  let was := s.startup.part.getD p 1
  if partBroken s p then
    let t := { s with startup := { s.startup with part := s.startup.part.set p 2 } }
    if was = 2 then t else t.raise_ (supPage p) 1
  else
    let t := { s with startup := { s.startup with part := s.startup.part.set p 0 } }
    (t.raise_ (supPage p) 0).resumeSwitch p

/-- The reset's entry, and the fault that the watchdog latched (R409, R423, Table RAS-4). -/
def State.logStart (s : State) : State :=
  let item := match s.startup.moduleCause with
    | 0 => 5
    | 4 => 4
    | _ => 3
  let t := s.resetEntry 0xFF item 0x3FF s.startup.aborted
  match s.startup.latched with
  | some c => ({ t with startup := { t.startup with latched := none } }).faultEntry 0xFF 6 0x3FF { d1 := ids16 [c] }
  | none => t

/-- ENTRY_TO_OPERATIONAL (R423): memory is fresh, keys are drawn, pending values apply, the entry is written, and the
fused minimum follows an image with COMMIT (R426). -/
def execEntryToOperational (t : Nat) (s : State) : Answer :=
  let s := s.at_ t
  if phaseIs s 6 then
    let faulted := (partsAll s).filter (fun p => s.startup.part.getD p 1 == 2)
    let a := (s.applyPending).freshen (fun _ => true)
    let b := (partsAll a).foldl (fun u p => (u.drawKeys p).applyHeld p) { a with tiers := [] }
    let img := if b.startup.slotB then b.flash.slotB else b.flash.slotA
    let keep := b.settings.partitions == s.settings.partitions
    let c := { b with
      flash := { b.flash with minSvn := if img.commit then Nat.max b.flash.minSvn img.svn else b.flash.minSvn }
      startup := { b.startup with
        phase := 7, bootMs := (s.now - s.startup.t0) / 1000000, beat := s.now, lastPeriod := 1000000 * (s.now / 1000000)
        part := (List.range 4).map (fun p => if keep && faulted.contains p then 2 else 1) } }
    .next ((partsAll c).foldl State.openPart c.logStart)
  else .next s

/-- PARTITION_RESET_END (R431, R430): self-test has settled the units that fail, the share takes effect, and the partition
is operational. -/
def execPartitionResetEnd (part t : Nat) (fails : List TestFail) (s : State) : Answer :=
  let s := s.at_ t
  if s.startup.phase = 7 && s.startup.part.getD part 0 = 1 && s.startup.recovering.getD part false then
    let a := fails.foldl State.failUnit s
    let b := { a with
      settings := { a.settings with shareNow := a.settings.shareNow.set part a.settings.shareGib }
      startup := { a.startup with recovering := a.startup.recovering.set part false } }
    .next ((b.applyHeld part).openPart part)
  else .next s

end Sys2Proof.Machine
end

