-- ==== Sys2Proof/Machine/Views.lean ====
section
/-! DEFINITION. What a register read returns: the header, the live value of every RO field, and the copies that a SNAP
made (R66, R328, R418, R419, R439–R445, R448, R322, and the register tables of each chapter). -/

namespace Sys2Proof.Machine

/-! ### Header fields (R441–R443, R448) -/

/-- Every block register of the page is an alias, or some are (BLK_CAPS.ALIAS, Table REG-7). -/
def Blk.aliased : Blk → Bool
  | .qg | .trn | .tir | .bnd | .hod | .syn | .nmu | .nar => true
  | _ => false

/-- The page has a selector register (BLK_CAPS.SEL). -/
def Blk.hasSel : Blk → Bool
  | .arr | .hod | .syn | .hbm | .nmu | .nar | .pkg | .sec | .ras => true
  | _ => false

/-- BLK_ID (Table REG-2). -/
def blkId (page : Nat) : Nat := ((blkOf page).info.2.2.1 <<< 48) + (instOf page <<< 32) + (1 <<< 16) + page

/-- BLK_CAPS (Table REG-3). -/
def blkCaps (page : Nat) : Nat :=
  let b := blkOf page
  (b.lastReg <<< 16) + bitIf b.aliased 3 + bitIf b.hasSel 2 + bitIf b.hdrOnly 1 +
    bitIf (!(fieldsOf b Reg.irqStat).isEmpty) 0

/-- The dies that carry the units of the chapters have their power from phase 4 on (Table SUP-1). -/
def diesUp (s : State) : Bool := decide (4 ≤ s.startup.phase)

/-- BLK_STAT.POWER (R442). -/
def powerOf (s : State) (page : Nat) : Nat :=
  let i := instOf page
  let live (down : Bool) : Nat := if down || !diesUp s then 0 else 4
  match blkOf page with
  | .arr | .hod | .syn =>
    let c := cluster s i
    if c.retired || dieDown s (i / 12) || !diesUp s then 0
    else if c.waking then 2 else if c.asleep then 1 else 3
  | .hubc => if i < 4 then 4 else 1 + SMap.get 0 s.hubGrps ((i - 4) / 3)
  | .qg | .bnd | .trn | .tir | .pwr => live (dieDown s i)
  | .die => if i < 4 then live (dieDown s i) else if i < 12 then live ((stack s (i - 4)).offline || (die s i).faulted) else 4
  | .hbm | .nmu => live ((stack s i).offline || (die s (4 + i)).faulted)
  | .chan => live ((stack s (i / 32)).offline || (die s (4 + i / 32)).faulted)
  | .nar | .port | .tb | .lpd | .link => live false
  | .hst | .pkg | .site | .sec | .ras | .sup | .ring => 4

/-- The view of the OPEN page that a requester reads: its partition's on the SVT-24 (R322), none for the whole site. -/
def openView (s : State) (who : Requester) : Option Nat :=
  match who with
  | .host => none
  | .hub c => if s.flash.variantC then none else partOfHubCore s c

/-- Some module of a partition's open share is fenced (R320). -/
def shareFenced (s : State) (p : Nat) : Bool := (diesOf s p).any (fun m => s.site.fenced.getD m false)

/-- BLK_STAT.PART. -/
def partField (s : State) (v : Option Nat) (page : Nat) : Nat :=
  if pageUnused s page then 0xFE
  else
    match blkOf page, v with
    | .site, some p => p
    | _, _ => (ownerOf s page).num

/-- BLK_FAULT.HEALTH; a partition's view of the OPEN page shows its own share. -/
def healthField (s : State) (v : Option Nat) (page : Nat) : Nat :=
  match blkOf page, v with
  | .site, some p => if !s.site.admitted then 3 else if s.site.siteFenced then 2 else if shareFenced s p then 1 else 0
  | _, _ => health s page

/-- BLK_IRQ_STAT and BLK_IRQ_EN of the OPEN page (R322): a partition's view, or the OR of the views. -/
def openIrq (l : List Bool) (n : Nat) (v : Option Nat) : Nat :=
  match v with
  | some p => bitIf (l.getD p false) 0
  | none => bitIf ((l.take n).any id) 0

/-- Number of the requester in the map of VIEW bits. -/
def requesterNum : Requester → Nat
  | .host => 0
  | .hub c => 1 + c

def viewBit (s : State) (who : Requester) (page : Nat) : Bool := SMap.get false s.snapView (page * 32 + requesterNum who)

/-- Views of the OPEN page's interrupt registers: on the SVT-24C the owner's. -/
def openViewOf (s : State) (who : Requester) : Option Nat :=
  if s.flash.variantC then some s.settings.openOwner else openView s who

/-- A header register (Table REG-1). -/
def headerReg (s : State) (who : Requester) (page reg : Nat) : Nat :=
  let v := openView s who
  let site := blkOf page == .site
  match reg with
  | 0 => blkId page
  | 1 => blkCaps page
  | 3 => (partField s v page <<< 40) + powerOf s page
  | 4 => if site then openIrq s.site.irqStat s.settings.partitions (openViewOf s who) else s.reg page Reg.irqStat
  | 5 => if site then openIrq s.site.irqEn s.settings.partitions (openViewOf s who) else s.reg page Reg.irqEn
  | 6 => setFld (s.reg page Reg.fault) 1 0 (healthField s v page)
  | 7 => setFld (s.reg page Reg.snapTag) 0 0 (if viewBit s who page then 1 else 0)
  | _ => 0

/-- What a page of a partition number not in use reads as (R448). -/
def unusedReg (page reg : Nat) : Nat :=
  match reg with
  | 0 => blkId page
  | 1 => blkCaps page
  | 3 => 0xFE <<< 40
  | 6 => 3
  | _ => 0

/-! ### Selectors -/

/-- The selector register that decides what a register shows. -/
def selectorOf (b : Blk) (reg : Nat) : Option Nat :=
  match b with
  | .pkg => if reg = Reg.pkgLinkView ∨ reg = Reg.pkgLinkCnt then some Reg.pkgLinkSel else none
  | .sec => if reg = Reg.secSlotView then some Reg.secSlotSel else none
  | .ras => if reg = Reg.rasRetView then some Reg.rasRetSel else none
  | .arr => if Reg.arrBusy ≤ reg ∧ reg ≤ Reg.arrMinsweep then some Reg.arrSel else none
  | .hod => if Reg.hodBytes ≤ reg ∧ reg ≤ Reg.hodXp then some Reg.hodSel else none
  | .syn =>
    if reg = Reg.synSemView then some Reg.synSemSel
    else if reg = Reg.synCtrCounts ∨ reg = Reg.synCtrState then some Reg.synCtrSel else none
  | .hbm => if reg = Reg.hbmChanView ∨ reg = Reg.hbmChanErr then some Reg.hbmChanSel else none
  | .nmu =>
    if Reg.nmuChanView ≤ reg ∧ reg ≤ Reg.nmuChanCnt then some Reg.nmuSel
    else if reg = Reg.nmuFenceDone then some Reg.nmuFenceSel else none
  | .nar =>
    if reg = Reg.narPortView ∨ reg = Reg.narPortCnt then some Reg.narPortSel
    else if reg = Reg.narShard then some Reg.narShardSel else none
  | _ => none

/-- Number of values of a selector. -/
def selCount (b : Blk) (sel : Nat) : Nat :=
  match (fieldsOf b sel).head? with
  | some f => 2 ^ (f.hi + 1 - f.lo)
  | none => 1

/-- The value of the selector that governs a register, 0 where none does. -/
def selValue (s : State) (page reg : Nat) : Nat :=
  match selectorOf (blkOf page) reg with
  | some r => s.reg page r % selCount (blkOf page) r
  | none => 0

/-! ### RO fields, block by block -/

/-- A value in a field of bits lo to hi, at most the field's greatest. -/
def capFld (hi lo v : Nat) : Nat := Nat.min v (2 ^ (hi + 1 - lo) - 1) <<< lo

/-- A value in a field, its low bits. -/
def lowFld (hi lo v : Nat) : Nat := (v % 2 ^ (hi + 1 - lo)) <<< lo

def roHst (s : State) (reg : Nat) : Nat :=
  if reg = Reg.hstLink then
    s.reg 0 reg + bitIf (s.pcie.speed == 6) 9 + bitIf s.pcie.up 8 + lowFld 7 5 s.pcie.widthLog2 + lowFld 2 0 s.pcie.speed
  else if reg = Reg.hstHoldoff then lowFld 13 0 s.settings.holdoffMs
  else if reg = Reg.hstErr then s.reg 0 reg
  else lowFld 9 8 (winPart s (reg - Reg.hstWin))

def roPkg (s : State) (reg sel : Nat) : Nat :=
  let l := link s sel
  if 30 ≤ sel then (if reg = Reg.pkgLinkView then 2 <<< 8 else 0)
  else if reg = Reg.pkgLinkView then lowFld 9 8 l.st + lowFld 5 0 l.rate
  else capFld 63 32 l.checkErr + capFld 31 0 l.replays

def roSite (s : State) (v : Option Nat) (reg : Nat) : Nat :=
  if reg = Reg.openId then
    lowFld 63 48 s.flash.worrunVid + lowFld 47 32 s.site.dieVid + lowFld 31 16 s.site.dieDid + bitIf s.flash.variantC 0
  else
    let share := if s.flash.variantC then openShareMib s s.settings.openOwner
      else
        match v with
        | some p => openShareMib s p
        | none => if s.site.admitted then 384 else 0
    let fenced := s.site.siteFenced || (match v with
      | some p => shareFenced s p
      | none => s.site.fenced.any id)
    lowFld 47 32 share + (if s.flash.variantC then lowFld 31 30 s.settings.openOwner else 0) +
      lowFld 29 28 (if !s.site.admitted then 0 else if fenced then 2 else 1)

/-- Fixed share of a partition in W, while fenced (R390, R461, Table SEC-21). -/
def shareNowW (s : State) : Nat := if fencedNow s then (loopLimit s - 180000) / s.settings.partitions / 1000 else 0

def roSec (s : State) (p reg sel : Nat) : Nat :=
  let x := sec s p
  let slot (n : Nat) : KeySlot := SMap.get {} x.keys n
  if reg = Reg.secTenant then
    (x.tenant.toNat <<< 32) + (x.gen.toNat <<< 16) +
      (if x.overwriting.isSome then 3 else if x.skim.isSome then 2 else if x.bound then 1 else 0)
  else if reg = Reg.secKeys then
    (x.memGen.toNat <<< 32) + (List.range 16).foldl (fun a n => a + bitIf (slot n).valid n) 0
  else if reg = Reg.secSlotView then ((slot sel).keyId.toNat <<< 32) + bitIf (slot sel).valid 0
  else if reg = Reg.secSteerCtl then lowFld 3 2 x.steer
  else if reg = Reg.secSkim then lowFld 63 48 x.skims + capFld 47 32 x.ovrMs + capFld 7 0 x.lastUs
  else if reg = Reg.secPower then bitIf (fencedNow s) 16 + capFld 15 0 (shareNowW s)
  else s.reg (secPage p) reg

/-- Armed SNAP commands of a partition. -/
def armed (s : State) (p : Nat) : List Cmd := s.cmds.filter (fun c => c.part == p && c.wait == .snap && c.status.isNone)

def roRas (s : State) (p reg sel : Nat) : Nat :=
  let v : View := SMap.get {} s.views p
  if reg = Reg.rasLogPtr then
    lowFld 63 32 ((v.ents.getLast?.map (·.seq)).getD v.next) + lowFld 31 0 v.next
  else if reg = Reg.rasLogStat then bitIf v.lost 1 + bitIf v.empty 0
  else if Reg.rasEntry ≤ reg ∧ reg < Reg.rasEntry + 8 then
    match v.latch with
    | some e => ((snagWords e).getD (reg - Reg.rasEntry) 0).toNat
    | none => 0
  else if reg = Reg.rasRetView then
    if sel < clustersPer s then
      let c := clusterAt s p sel
      bitIf (clusterRetired s c) 8 + (List.range 8).foldl (fun a k => a + bitIf (coreRetired s (8 * c + k)) k) 0
    else 0
  else if reg = Reg.rasSnap then setFld (s.reg (rasPage p) reg) 2 0 (armed s p).length
  else s.reg (rasPage p) reg

def roSup (s : State) (p reg : Nat) : Nat :=
  let u := s.startup
  if reg = Reg.supState then lowFld 15 12 u.phase + lowFld 1 0 (u.part.getD p 1)
  else if reg = Reg.supCause then lowFld 15 8 u.moduleCause + lowFld 7 0 (u.partCause.getD p 0)
  else if reg = Reg.supBoot then capFld 47 32 u.bootMs + lowFld 13 8 u.svn + bitIf u.slotB 0
  else if reg = Reg.supCnt then capFld 63 32 u.moduleResets + capFld 31 0 (u.partResets.getD p 0)
  else 0

def roRing (s : State) (k reg : Nat) : Nat :=
  let r := ring s k
  if reg = Reg.ringCtl then lowFld 61 60 r.st + lowFld 59 58 (partOfRing s k)
  else if reg = Reg.ringPtr then lowFld 47 32 r.tail + lowFld 15 0 r.head
  else s.reg (ringPage k) reg

def roTrn (s : State) (p reg page : Nat) : Nat :=
  let l := ledger s p
  if reg = Reg.trnLedgerHead then lowFld 63 32 l.records + lowFld 31 0 l.head
  else if reg = Reg.trnMode then bitIf l.tracePend 3 + bitIf l.detPend 2 + bitIf l.traceOn 1 + bitIf l.detOn 0
  else s.reg page reg

def roTir (s : State) (p reg page : Nat) : Nat :=
  let x := tier s p
  if reg = Reg.tirRange then
    lowFld 47 32 (diesPer s * shareOf s p / 4) + lowFld 31 16 (diesPer s * 256) + lowFld 15 0 (hbmHomed s p / gib)
  else if reg = Reg.tirPoolFree then poolFree s p
  else if reg = Reg.tirReadyWait then
    satAdd 64 (s.reg page reg) (match x.waitFrom with
      | some u => (s.now - u) / 1000
      | none => 0)
  else if Reg.tirTable ≤ reg ∧ reg < Reg.tirTable + 64 then
    let c : Codec := SMap.get {} x.codecs (reg - Reg.tirTable)
    capFld 63 32 c.refs + bitIf (!c.lens.isEmpty) 9 + Nat.min 256 (c.seen / 1024)
  else s.reg page reg

def roPwr (s : State) (n reg : Nat) : Nat :=
  let d := die s n
  if reg = Reg.pwrDie then
    capFld 63 48 d.draw + capFld 47 40 d.peak + capFld 39 32 d.temp + lowFld 10 8 (if d.sampled then d.level else 0) +
      lowFld 6 4 d.reason + lowFld 3 0 (if diesUp s && !dieDown s n then d.thr else 0)
  else if reg = Reg.pwrThrCnt then capFld 63 32 d.fast + capFld 31 0 d.throttledMs
  else if reg = Reg.pwrPaced then capFld 63 0 d.paced
  else if reg = Reg.pwrAwake then lowFld 19 16 (clustersAwake s n) + lowFld 6 0 (coresAwake s n)
  else if reg = Reg.pwrWakes then capFld 63 32 d.clusterWakes + capFld 31 0 d.coreWakes
  else 0

def roArr (s : State) (c reg sel : Nat) : Nat :=
  let e := engine s (32 * c + sel)
  let each (f : Engine → Bool) : Nat := (List.range 32).foldl (fun a n => a + bitIf (f (engine s (32 * c + n))) n) 0
  if reg = Reg.arrBusy then capFld 63 0 e.busy
  else if reg = Reg.arrRamp then capFld 63 32 e.downs + capFld 31 0 e.ups
  else if reg = Reg.arrStarve then capFld 63 0 e.starve
  else if reg = Reg.arrConvWait then capFld 63 0 e.convWait
  else if reg = Reg.arrMinsweep then capFld 63 0 e.minSweep
  else if reg = Reg.arrState then (each (·.fractured) <<< 32) + each (fun x => x.ramp != .idle)
  else 0

/-- The hods' registers; IDLE_US counts only while the cluster has an unfinished command (R139). -/
def roHod (s : State) (c reg sel : Nat) : Nat :=
  let h : Hod := SMap.get {} s.hods (4 * c + sel)
  if reg = Reg.hodBytes then capFld 63 0 h.bytes
  else if reg = Reg.hodTags then
    capFld 42 32 h.peak + capFld 26 16 (floorSum s c sel) + capFld 10 0 (hodReqs s c sel).length
  else if reg = Reg.hodTagWait then capFld 63 0 h.tagWait
  else if reg = Reg.hodBp then capFld 63 0 h.bp
  else if reg = Reg.hodXp then capFld 63 0 h.xp
  else if reg = Reg.hodSentinel then
    s.reg (Blk.hod.page c) reg +
      (if (unfinishedIn s c).isEmpty then 0 else Nat.min 1000 ((s.now - (cluster s c).progress) / 1000))
  else if reg = Reg.hodCluster then
    let mine := (s.cmds.filter (fun x => x.status.isNone)).flatMap (fun x => (x.slices.filter (fun l => l.cluster == c)).map (·.index))
    s.reg (Blk.hod.page c) reg + ((List.range 8).foldl (fun a k => a + bitIf (mine.contains k) k) 0 <<< 32) +
      capFld 4 0 (s.persists.filter (fun x => x.stream.cluster == c)).length
  else s.reg (Blk.hod.page c) reg

def roSyn (s : State) (c reg sel : Nat) : Nat :=
  if reg = Reg.synSemView then
    let m : Sem := SMap.get {} s.sems (2048 * c + sel)
    (m.holders.toNat <<< 32) + bitIf m.poison 31 + lowFld 27 24 m.rank + capFld 23 18 m.waiters.length +
      capFld 17 12 m.held + capFld 5 0 m.cap
  else if reg = Reg.synCtrCounts then
    let m : Ctr := SMap.get {} s.ctrs (512 * c + sel)
    (m.issued.toNat <<< 32) + m.retired.toNat
  else if reg = Reg.synCtrState then
    let m : Ctr := SMap.get {} s.ctrs (512 * c + sel)
    bitIf m.poison 31 + bitIf m.claim.isSome 30 + lowFld 27 24 m.rank + capFld 21 16 m.waiters.length +
      (match m.claim with
       | some (cl, x) => lowFld 10 5 cl + lowFld 4 0 x
       | none => 0)
  else if reg = Reg.synCtx then
    (List.range 32).foldl (fun a n => a + lowFld (2 * n + 1) (2 * n) (ctx s (32 * c + n)).st) 0
  else s.reg (Blk.syn.page c) reg

def roHbm (s : State) (n reg sel : Nat) : Nat :=
  let c := chan s (32 * n + sel)
  let x := stack s n
  if reg = Reg.hbmChanView then
    lowFld 39 38 c.st + lowFld 37 36 c.lanesUsed + capFld 31 21 (c.spares.foldl (fun a e => a + e.2) 0) + capFld 9 0 c.pend.length
  else if reg = Reg.hbmChanErr then capFld 63 32 c.ue + capFld 31 0 c.ce
  else if reg = Reg.hbmTherm then capFld 23 16 x.peak + capFld 15 8 x.temp + lowFld 2 0 (if x.sampled then x.level else 0)
  else if reg = Reg.hbmPace then capFld 63 32 x.redUs + capFld 31 0 x.amberUs
  else if reg = Reg.hbmFreshRd then capFld 63 0 x.freshRd
  else if reg = Reg.hbmNarrow then capFld 63 0 x.narrow
  else 0

def roNmu (s : State) (n reg sel : Nat) : Nat :=
  let c := chan s (32 * n + sel)
  if reg = Reg.nmuChanView then lowFld 41 40 c.mode + capFld 38 32 c.queue.length + capFld 31 0 c.slots
  else if reg = Reg.nmuChanTime then capFld 63 32 (c.procNs / 1000) + capFld 31 0 (c.heldNs / 1000)
  else if reg = Reg.nmuChanCnt then capFld 63 32 c.chain + capFld 31 16 c.denied + capFld 15 0 c.nfaw
  else if reg = Reg.nmuFenceDone then
    if partOfRing s sel = partOfStack s n then (SMap.get 0 s.fences sel).toNat else 0
  else 0

def roNar (s : State) (n reg sel page : Nat) : Nat :=
  let q := port s (4 * n + sel)
  if reg = Reg.narId then lowFld 16 0 s.settings.moduleId
  else if reg = Reg.narPortView then
    lowFld 56 40 q.peerId + lowFld 35 32 q.peerPort + lowFld 29 28 q.st + q.wl.toNat
  else if reg = Reg.narPortCnt then capFld 63 32 q.replays + capFld 31 0 q.crcErr
  else if reg = Reg.narCourse ∨ reg = Reg.narCourse + 1 then
    let c := course s (2 * n + (reg - Reg.narCourse))
    lowFld 60 58 c.st + lowFld 38 22 c.pos
  else if reg = Reg.narTime then
    (BitVec.ofInt 32 s.time.offset).toNat <<< 32 ||| (bitIf s.time.locked 4 + lowFld 3 0 s.settings.timeSource)
  else if reg = Reg.narShard then
    let e := shard s (partOfDie s n) sel
    lowFld 51 50 e.st + lowFld 49 34 e.epoch + lowFld 33 17 e.peer
  else s.reg page reg

/-- The RO fields of a block register as they are now. -/
def roLive (s : State) (v : Option Nat) (page reg sel : Nat) : Nat :=
  let i := instOf page
  let p := (ownerOf s page).num
  match blkOf page with
  | .hst => roHst s reg
  | .pkg => roPkg s reg sel
  | .site => roSite s v reg
  | .sec => roSec s i reg sel
  | .ras => roRas s i reg sel
  | .sup => roSup s i reg
  | .ring => roRing s i reg
  | .qg => s.reg page reg
  | .bnd => s.reg page reg
  | .trn => roTrn s p reg page
  | .tir => roTir s p reg page
  | .pwr => roPwr s i reg
  | .arr => roArr s i reg sel
  | .hod => roHod s i reg sel
  | .syn => roSyn s i reg sel
  | .hbm => roHbm s i reg sel
  | .nmu => roNmu s i reg sel
  | .nar => roNar s i reg sel page
  | .tb | .hubc | .die | .link | .lpd | .chan | .port => 0

/-! ### Copies (R418, R419) -/

/-- Key of a copy: page, register, selector value. -/
def snapKey (page reg sel : Nat) : Nat := 2 ^ 24 * page + 2 ^ 15 * reg + sel

/-- The copied RO fields of a register; before any copy, their reset values. -/
def copyOf (s : State) (page reg sel : Nat) : Nat :=
  match SMap.get none s.snaps (snapKey page reg sel) with
  | some w => w.toNat
  | none => resetReg (blkOf page) reg

/-- OWNER of the selected shard entry is the entry's (Table NAR-15), and not a stored field. -/
def rwLive (s : State) (page reg sel : Nat) : Nat :=
  if blkOf page = .nar ∧ reg = Reg.narShard then lowFld 16 0 (shard s (partOfDie s (instOf page)) sel).owner
  else s.reg page reg

/-- A block register as a requester reads it: WO fields read as zero (R15), RO fields live or from the copy. -/
def blockReg (s : State) (who : Requester) (page reg : Nat) : Nat :=
  let fs := fieldsOf (blkOf page) reg
  let ro := accMask .ro fs
  let keep := accMask .rw fs ||| accMask .w1c fs ||| accMask .w1s fs
  let sel := selValue s page reg
  let copied := viewBit s who page && ownerOf s page != .module
  let r := if copied then copyOf s page reg sel else roLive s (openView s who) page reg sel
  (r &&& ro) ||| (rwLive s page reg sel &&& keep)

/-- Any register of a page (R439). -/
def readReg (s : State) (who : Requester) (page reg : Nat) : Word :=
  if pageCount ≤ page ∨ 512 ≤ reg then 0
  else if pageUnused s page then BitVec.ofNat 64 (unusedReg page reg)
  else if reg < 8 then BitVec.ofNat 64 (headerReg s who page reg)
  else BitVec.ofNat 64 (blockReg s who page reg)

end Sys2Proof.Machine
end

