-- ==== Sys2Proof/Machine/Snaps.lean ====
section
/-! DEFINITION. Counter snapshots and the view cursor (R417–R419, R421, R422). -/

namespace Sys2Proof.Machine

/-! ### SNAP (R417) -/

/-- T_SNAP of a SNAP command. -/
def snapAt (b : CmdBits) : Nat := payFld b 8 63 0

/-- Layout of the payload, and a T_SNAP at most 10 s after the dispatch. -/
def snapCheck (s : State) (c : Cmd) : Option Nat :=
  firstOf [(payFld c.bits 0 63 8 != 0 || !payZeroFrom c.bits 16 || decide (s.now + 10000000000 < snapAt c.bits), St.malformed)]

/-- The SNAP is armed. -/
def snapStart (s : State) (c : Cmd) : State :=
  (s.modCmd c.id (fun x => { x with tsnap := snapAt c.bits, lateSnap := decide (snapAt c.bits < s.now) })).cmdWaits c.id .snap

/-- SNAP (R417): at most four of a partition are armed; a fifth stays at the head of its ring. -/
def execSnap (ring : Nat) (s : State) : Answer :=
  if 4 ≤ (armed s (partOfRing s ring)).length then .next (s.wantSlot ring)
  else .next (dispatchRow 9 0x01 ring snapCheck snapStart s)

/-! ### SNAP_COPY (R418, R449) -/

/-- Registers of a block with RO fields, by place. -/
def roRegs (b : Blk) : List Nat :=
  (b.regs.filter (fun d => decide (32 ≤ d.first) && accMask .ro d.fields != 0)).flatMap
    (fun d => (List.range d.count).map (fun i => d.first + d.stride * i))

/-- The selector values under which a register is copied. -/
def selValues (b : Blk) (reg : Nat) : List Nat :=
  match selectorOf b reg with
  | some r => List.range (selCount b r)
  | none => [0]

/-- Every copy of a page that differs from the reset values, as (key, RO bits). -/
def pageCopies (s : State) (p page : Nat) : List (Nat × Word) :=
  let b := blkOf page
  (roRegs b).flatMap (fun r =>
    let ro := accMask .ro (fieldsOf b r)
    (selValues b r).filterMap (fun x =>
      let w := roLive s (some p) page r x &&& ro
      if w = resetReg b r &&& ro then none else some (snapKey page r x, BitVec.ofNat 64 w)))

/-- Copy every RO field of the partition's pages, and name the SNAP on each of them. -/
def State.copyPages (s : State) (p tag : Nat) : State :=
  let pages := pagesOf s p
  let old := SMap.dropKeys (fun x => pages.contains (x / 2 ^ 24)) s.snaps
  let new := pages.flatMap (pageCopies s p)
  let t := { s with snaps := new.foldl (fun m e => SMap.set none m e.1 (some e.2)) old }
  pages.foldl (fun u g => u.setRegFld g Reg.snapTag 63 32 tag) t

/-- The SNAP commands whose moment has come. -/
def dueSnaps (s : State) (p : Nat) : List Cmd := (armed s p).filter (fun c => decide (c.tsnap ≤ s.now))

/-- SNAP_COPY (R418): the first pilot tick at or after T_SNAP; one copy serves every SNAP that falls in it. -/
def execSnapCopy (part t : Nat) (s : State) : Answer :=
  let s := s.at_ t
  match (dueSnaps s part).getLast? with
  | none => .next s
  | some c =>
    let ids := dueSnaps s part
    let u := (s.copyPages part (envTag c.bits % 2 ^ 32)).bump (rasPage part) Reg.rasSnap 63 32 1
    let v := (ids.filter (·.lateSnap)).foldl (fun w x => w.notice part 4 (rasPage part) (tagDet x)) u
    .next (ids.foldl (fun w x => (w.setResult x.id (BitVec.ofNat 64 s.now)).finishCmd x.id) v)

/-! ### The view cursor (R421, R422) -/

/-- Latch the oldest view entry at or after the cursor. A cursor older than the view latches its oldest entry. -/
def View.seek (v : View) (cursor : Nat) : View :=
  match v.ents.reverse.find? (fun e => decide (cursor ≤ e.seq)) with
  | some e =>
    { v with latch := some e, empty := false, lost := v.ents.getLast?.any (fun x => decide (cursor < x.seq)) }
  | none => { v with latch := none, empty := true, lost := false }

/-- A write of RAS_LOG_CURSOR. -/
def State.seekView (s : State) (p cursor : Nat) : State :=
  let t := s.setRegFld (rasPage p) Reg.rasLogCursor 31 0 cursor
  { t with views := SMap.modify {} t.views p (fun v => v.seek (cursor % 2 ^ 32)) }

/-- RAS_LOG_CURSOR_WRITE (R422). -/
def execRasLogCursorWrite (who : Requester) (part : Nat) (val : Word) (s : State) : Answer :=
  .next (s.onWrite who (rasPage part) (fun t => t.seekView part val.toNat))

end Sys2Proof.Machine
end

