-- ==== Sys2Proof/Machine/Registers.lean ====
section
/-! DEFINITION. Register writes and reads that have no row of their own, and the interrupt registers (R15–R17, R66, R322,
R328, R329, R343, R419, R439, R444–R448). -/

namespace Sys2Proof.Machine

/-! ### Interrupt registers (R16, R66, R322, R446) -/

/-- Event bits that a page implements. -/
def irqMask (page : Nat) : Nat := accMask .w1c (fieldsOf (blkOf page) Reg.irqStat)

/-- BLK_IRQ_EN and the events of the same pilot tick: the bits that end set, the enables, and whether a message is due. -/
def enWrite (stat en val evt mask : Nat) : Nat × Nat × Bool :=
  let e := evt &&& mask
  let n := val &&& mask
  (stat ||| e, n, (n &&& (stat ||| e)) != 0 || (e - (e &&& stat)) &&& en != 0)

/-- A W1C write of BLK_IRQ_STAT; a bit that hardware sets in the same tick ends set, and counts as becoming 1. -/
def statWrite (stat en val evt mask : Nat) : Nat × Bool :=
  let e := evt &&& mask
  let c := val &&& mask
  let left := stat - (stat &&& c)
  (left ||| e, (e - (e &&& left)) &&& en != 0)

/-- The views of the OPEN page that a write reaches (R322, R329). -/
def openViews (s : State) (who : Requester) : List Nat :=
  if s.flash.variantC then [s.settings.openOwner]
  else
    match who with
    | .host => (partsAll s).filter (fun p => hostMode s p == 0)
    | .hub c => (match partOfHubCore s c with
      | some p => [p]
      | none => partsAll s)

/-- One view's BLK_IRQ_EN. -/
def State.openEnWrite (s : State) (p val evt : Nat) : State :=
  let r := enWrite (bitIf (s.site.irqStat.getD p false) 0) (bitIf (s.site.irqEn.getD p false) 0) val evt 1
  let t := { s with
    site := { s.site with irqStat := s.site.irqStat.set p (r.1 == 1), irqEn := s.site.irqEn.set p (r.2.1 == 1) } }
  if r.2.2 then t.sendMsix (64 + p) else t

/-- One view's BLK_IRQ_STAT. -/
def State.openStatWrite (s : State) (p val evt : Nat) : State :=
  let r := statWrite (bitIf (s.site.irqStat.getD p false) 0) (bitIf (s.site.irqEn.getD p false) 0) val evt 1
  let t := { s with site := { s.site with irqStat := s.site.irqStat.set p (r.1 == 1) } }
  if r.2 then t.sendMsix (64 + p) else t

/-- A write of BLK_IRQ_EN; `evt` holds the event bits that hardware sets in the same pilot tick. -/
def State.irqEnWrite (s : State) (who : Requester) (page val evt : Nat) : State :=
  s.onWrite who page (fun s =>
    if blkOf page = .site then (openViews s who).foldl (fun t p => t.openEnWrite p val evt) s
    else
      let r := enWrite (s.reg page Reg.irqStat) (s.reg page Reg.irqEn) val evt (irqMask page)
      let t := (s.setReg page Reg.irqStat r.1).setReg page Reg.irqEn r.2.1
      if r.2.2 then t.sendMsix (ownerOf s page).vector else t)

/-- A write of BLK_IRQ_STAT. -/
def State.irqStatWrite (s : State) (who : Requester) (page val evt : Nat) : State :=
  s.onWrite who page (fun s =>
    if blkOf page = .site then (openViews s who).foldl (fun t p => t.openStatWrite p val evt) s
    else
      let r := statWrite (s.reg page Reg.irqStat) (s.reg page Reg.irqEn) val evt (irqMask page)
      let t := s.setReg page Reg.irqStat r.1
      if r.2 then t.sendMsix (ownerOf s page).vector else t)

/-- BLK_IRQ_EN_WRITE (R446). -/
def execBlkIrqEnWrite (who : Requester) (page : Nat) (val evt : Word) (s : State) : Answer :=
  if page < pageCount then .next (s.irqEnWrite who page val.toNat evt.toNat) else .next s

/-- BLK_IRQ_STAT_CLEAR (R446, R16, R66). -/
def execBlkIrqStatClear (who : Requester) (page : Nat) (val evt : Word) (s : State) : Answer :=
  if page < pageCount then .next (s.irqStatWrite who page val.toNat evt.toNat) else .next s

/-! ### Other registers -/

/-- A write that its register ignores: RING_BASE and RING_CPL while ENABLE is 1 (R343); OPEN_CFG of a site that all
partitions share, by a steering program (R445, log 36). -/
def writeIgnored (s : State) (who : Requester) (page reg : Nat) : Bool :=
  match blkOf page with
  | .ring => (reg == Reg.ringBase || reg == Reg.ringCpl) && s.regFld page Reg.ringCtl 63 63 == 1
  | .site => !s.flash.variantC && reg == Reg.openCfg && (openView s who).isSome
  | _ => false

/-- The fields of a register take a write under their access codes; VIEW is the requester's own (R419). -/
def State.writeReg (s : State) (who : Requester) (page reg val : Nat) : State :=
  if reg = Reg.snapTag then
    { s with snapView := SMap.set false s.snapView (page * 32 + requesterNum who) (val.testBit 0) }
  else if writeIgnored s who page reg then s
  else s.setReg page reg (writeFields (fieldsOf (blkOf page) reg) (s.reg page reg) val)

/-- A register has a field that software stores. -/
def isWritten (page reg : Nat) : Bool := reg == Reg.snapTag || accMask .rw (fieldsOf (blkOf page) reg) != 0

/-- A write with no action beyond its fields; `hw` is the value that hardware would have stored in an RW field in the same
pilot tick (R17). -/
def State.plainWrite (s : State) (who : Requester) (page reg : Nat) (val : Word) (hw : Option Word) : State :=
  s.onWrite who page (fun t =>
    let u := t.writeReg who page reg val.toNat
    match hw with
    | some v => if isWritten page reg then u.lostUpdate page reg v else u
    | none => u)

/-- REGISTER_WRITE (R444). A register whose write has a row of its own acts as that row does. -/
def execRegisterWrite (who : Requester) (page reg : Nat) (val : Word) (hw : Option Word) (s : State) : Answer :=
  let i := instOf page
  let plain : Answer := .next (s.plainWrite who page reg val hw)
  if pageCount ≤ page ∨ 512 ≤ reg then .next s
  else if reg = Reg.irqEn then .next (s.irqEnWrite who page val.toNat 0)
  else if reg = Reg.irqStat then .next (s.irqStatWrite who page val.toNat 0)
  else
    match blkOf page with
    | .qg =>
      if reg = Reg.qgSeed then execQgSeedWrite who page val s
      else if reg = Reg.qgKeyStat then execQgKeyClear who page val s else plain
    | .bnd => if Reg.bndMcast ≤ reg ∧ reg < Reg.bndMcast + 96 then execBndMcastWrite who page reg val s else plain
    | .hod => if reg = Reg.hodCompat then execHodCompatWrite who page val s else plain
    | .trn => if reg = Reg.trnLedgerCtl then execTrnLedgerCtlWrite who page val s else plain
    | .nar =>
      if reg = Reg.narShard then execNarShardWrite who page val none s
      else if reg = Reg.narCourse ∨ reg = Reg.narCourse + 1 then
        let c := 2 * i + (reg - Reg.narCourse)
        if courseOn s c && !val.getLsbD 63 then execCourseDisable who c val none s else execCourseEnable who c val s
      else plain
    | .ring =>
      if reg = Reg.ringCtl then .next (s.onWrite who page (fun t => t.ringCtlWrite i val.toNat))
      else if reg = Reg.ringDb then execDoorbell who i val s else plain
    | .sec =>
      if reg = Reg.secSteerCtl then .next (s.steerWrite who i val.toNat)
      else if reg = Reg.secSeal then .next (s.sealWrite who i val.toNat)
      else if reg = Reg.secSteerAddr then
        .next (s.onWrite who page (fun t => if steeringOnly t who page then t else t.writeReg who page reg val.toNat))
      else plain
    | .ras => if reg = Reg.rasLogCursor then .next (s.onWrite who page (fun t => t.seekView i val.toNat)) else plain
    | .sup => if reg = Reg.supPartCtl then execPartitionReset who i val s else plain
    | _ => plain

/-! ### Reads -/

/-- REGISTER_READ (R328, R329, R357, R419, R445): a read that the host access setting denies returns zero and counts. -/
def execRegisterRead (who : Requester) (page reg : Nat) (s : State) : Answer :=
  if !s.startup.powered then .next s
  else
    match accessOf s who page false with
    | .ok => .next (s.emit (.regData who (readReg s who page reg)))
    | .denied => .next (s.denied.emit (.regData who 0))
    | .unsupported => .next (s.emit .unsupported)
    | .void => .next (s.emit (.regData who 0))
    | .trap p => .next (s.steerTrap p)

end Sys2Proof.Machine
end

