-- ==== Sys2Proof/Machine/Xanna.lean ====
section
/-! DEFINITION. The Xanna port (R22, R24, R183, R278, R280, R304, R313, R318, R329, R330, R350, R377–R380, R390, R398, R404,
R405, R416, R421, R426, R427, R461). -/

namespace Sys2Proof.Machine

/-! ### Connections (R377, R378) -/

def conn? (s : State) (n : Nat) : Option Conn := s.conns.find? (fun c => c.num == n)

def State.modConn (s : State) (n : Nat) (f : Conn → Conn) : State :=
  { s with conns := s.conns.map (fun c => if c.num = n then f c else c) }

/-- XANNA_CONNECT (R377, R378): TLS 1.3 from a client whose chain ends in `root`, which must be the installed root, or be
self-signed while none is installed; at most four connections. -/
def execXannaConnect (selfSigned : Bool) (root : BitVec 384) (tls13 : Bool) (s : State) : Answer :=
  let fits := match s.flash.root with
    | none => selfSigned
    | some r => r == root
  match (List.range 4).find? (fun n => (conn? s n).isNone) with
  | some n => .next (if firmwareUp s && tls13 && fits then { s with conns := s.conns ++ [{ num := n, cert := root }] } else s)
  | none => .next s

/-- XANNA_DISCONNECT (R377): nothing but the connection and its mirror goes. -/
def execXannaDisconnect (conn : Nat) (s : State) : Answer := .next { s with conns := s.conns.filter (fun c => c.num != conn) }

/-- Statuses of R379. -/
def xDone : Nat := 0
def xMalformed : Nat := 1
def xDenied : Nat := 2
def xPending : Nat := 3

/-- A message on a connection: until a root is installed only INSTALL_ROOT is accepted (R378). The response echoes SEQ. -/
def State.xanna (s : State) (conn typ seq : Nat) (f : State → State × Nat) : State :=
  if !firmwareUp s || (conn? s conn).isNone then s
  else if s.flash.root.isNone then s.emit (.xanna conn typ seq xDenied 0)
  else
    let r := f s
    r.1.emit (.xanna conn typ seq r.2 0)

/-- A setting that is checked, then made. -/
def asked (ok : Bool) (t : State) (status : Nat) (s : State) : State × Nat := if ok then (t, status) else (s, xMalformed)

/-! ### The mirror (R416) and the pilot tick -/

/-- Each connection sends its oldest queued body. -/
def State.sendBodies (s : State) : State :=
  { s with
    conns := s.conns.map (fun c => { c with queue := c.queue.drop 1 })
    out := s.out ++ s.conns.flatMap (fun c => (c.queue.take 1).map (Out.snag c.num)) }

/-- A pilot tick in which no command arrives (log 1): the timebase moves by 20 ns while the module has power, and the
mirrors send. -/
def State.pilotTick (s : State) : State :=
  if s.startup.powered then ({ s with now := s.now + 20 } : State).sendBodies else s

/-! ### Reading (message 0x0001) -/

/-- Pseudo page 612 holds what only Xanna reads (R398, R461; the numbering is the model's, log 37): PKG_CAP, package draw
and module input draw in W, coolant temperature and flow in tenths, L in mW. The input draw is a value that no rule
states. -/
def xannaOnly (s : State) (reg : Nat) : Word :=
  match reg with
  | 0 => BitVec.ofNat 64 s.settings.capW
  | 1 => BitVec.ofNat 64 s.startup.pkgDraw
  | 2 => freeVal s
  | 3 => BitVec.ofInt 64 s.coolant.temp
  | 4 => BitVec.ofInt 64 s.coolant.flow
  | 5 => BitVec.ofNat 64 (loopLimit s)
  | _ => 0

/-- XANNA_READ (R379, R445): a register of a module-wide page, or one of the values that only Xanna reads; the pages of a
partition are not permitted. -/
def execXannaRead (conn page reg : Nat) (s : State) : Answer :=
  if !firmwareUp s || (conn? s conn).isNone then .next s
  else if s.flash.root.isNone then .next (s.emit (.xanna conn 0x0001 0 xDenied 0))
  else if page = pageCount then
    let t := s.emit (.xanna conn 0x0001 0 xDone (xannaOnly s reg))
    .next (if reg = 2 then t.tookFree else t)
  else if pageCount < page || 512 ≤ reg then .next (s.emit (.xanna conn 0x0001 0 xMalformed 0))
  else if ownerOf s page != .module then .next (s.emit (.xanna conn 0x0001 0 xDenied 0))
  else .next (s.emit (.xanna conn 0x0001 0 xDone (readReg s .host page reg)))

/-- SUBSCRIBE (R416): the connection takes every entry of the full log from SEQ on, in SEQ order. -/
def execSubscribe (conn seq : Nat) (s : State) : Answer :=
  .next (s.xanna conn 0x0001 0 (fun t =>
    let old := t.log.reverse.filter (fun e => decide (seq ≤ e.seq))
    (t.modConn conn (fun c => { c with sub := some seq, queue := old.map snagWords }), xDone)))

/-! ### Modes and power (messages 0x0010 to 0x0013) -/

/-- PARTITION_COUNT (R22, R24): pending until the next module reset. -/
def execPartitionCount (conn seq count : Nat) (s : State) : Answer :=
  .next (s.xanna conn 0x0010 seq (fun t =>
    asked ([1, 2, 4].contains count) { t with settings := { t.settings with partPend := some count } } xPending t))

/-- TIER_CACHE_SHARE (R22): for each partition pending until its next reset. -/
def execTierCacheShare (conn seq gib : Nat) (s : State) : Answer :=
  .next (s.xanna conn 0x0011 seq (fun t =>
    asked (decide (gib ≤ 256) && gib % 8 == 0) { t with settings := { t.settings with shareGib := gib } } xPending t))

/-- FENCED_POWER (R22, R374): pending until the next period boundary. -/
def execFencedPower (conn seq : Nat) (on : Bool) (t : Nat) (s : State) : Answer :=
  let s := s.at_ t
  .next (s.xanna conn 0x0012 seq (fun u =>
    ({ u with settings := { u.settings with fencedPend := some on, fencedAt := u.now } }, xPending)))

/-- POWER_CAPS (R390): 1,200 to 3,000 W in steps of 10 W, from the next period boundary. -/
def execPowerCaps (conn seq watts : Nat) (t : Nat) (s : State) : Answer :=
  let s := s.at_ t
  .next (s.xanna conn 0x0013 seq (fun u =>
    asked (decide (1200 ≤ watts) && decide (watts ≤ 3000) && watts % 10 == 0)
      { u with settings := { u.settings with capPend := some (watts, u.now) } } xPending u))

/-! ### Firmware (message 0x0014) -/

/-- FIRMWARE_IMAGE (R426, R427): a checked image goes into the slot that did not boot. -/
def execFirmwareImage (conn seq : Nat) (img : FwImage) (s : State) : Answer :=
  .next (s.xanna conn 0x0014 seq (fun t =>
    asked (imageOk t.flash img)
      { t with flash := if t.startup.slotB then { t.flash with slotA := img } else { t.flash with slotB := img } } xPending t))

/-- MODULE_RESET_REQUEST (R427, R434): message 0x0014 with LENGTH 0. -/
def execModuleResetRequest (conn seq : Nat) (s : State) : Answer :=
  let ok := firmwareUp s && (conn? s conn).isSome && s.flash.root.isSome
  let t := s.xanna conn 0x0014 seq (fun t => (t, xDone))
  .next (if ok then t.moduleReset 1 else t)

/-! ### Tenants (messages 0x0020 and 0x0021) -/

/-- TENANT_BIND (R372, R373, R381). -/
def execTenantBind (conn seq part : Nat) (tenant : BitVec 32) (root : BitVec 384) (overwrite : Bool) (s : State) : Answer :=
  .next (s.xanna conn 0x0020 seq (fun t =>
    asked (decide (part < t.settings.partitions))
      (t.bindRequest part { tenant := tenant, root := root, overwrite := overwrite, release := false }) xPending t))

/-- TENANT_RELEASE (R372, R373). -/
def execTenantRelease (conn seq part : Nat) (overwrite : Bool) (s : State) : Answer :=
  .next (s.xanna conn 0x0021 seq (fun t =>
    asked (decide (part < t.settings.partitions)) (t.bindRequest part { overwrite := overwrite, release := true }) xPending t))

/-! ### Settings (messages 0x0030 and 0x0031) -/

/-- A setting that the manual allows. -/
def hostSettingOk (s : State) : HostSetting → Bool
  | .access p m => decide (p < s.settings.partitions) && decide (m ≤ 2)
  | .window w p => decide (w < 8) && decide (p < s.settings.partitions)
  | .holdoff ms => decide (10 ≤ ms) && decide (ms ≤ 10000)

/-- The setting is in force already. -/
def hostSettingSame (s : State) : HostSetting → Bool
  | .access p m => hostMode s p == m
  | .window w p => winPart s w == p
  | .holdoff ms => s.settings.holdoffMs == ms

/-- HOST_ACCESS_SETTINGS (R24, R329, R330, R350, R429): at once, but held for a partition in scaffold mode. -/
def execHostAccessSettings (conn seq : Nat) (set : HostSetting) (s : State) : Answer :=
  .next (s.xanna conn 0x0030 seq (fun t =>
    if !hostSettingOk t set then (t, xMalformed)
    else if (hostSettingPart set).any (fun p => t.startup.part.getD p 1 == 1) then
      ({ t with settings := { t.settings with hostPend := t.settings.hostPend ++ [set] } }, xPending)
    else if hostSettingSame t set then (t, xDone)
    else (t.applyHost set, xDone)))

/-- MODULE_ID_SETTINGS (R280, R304, R318): the owner of the open site waits for the next module reset, and exists on the
SVT-24C alone. A change of time source loses the lock (DEDUCED, log 26). -/
def execModuleIdSettings (conn seq : Nat) (set : ModuleSetting) (s : State) : Answer :=
  .next (s.xanna conn 0x0031 seq (fun t =>
    match set with
    | .moduleId n => asked (decide (n < 2 ^ 17)) { t with settings := { t.settings with moduleId := n } } xDone t
    | .timeSource n =>
      asked (decide (n < 8) || n == 15)
        { t with
          settings := { t.settings with timeSource := n }
          time := if n = t.settings.timeSource then t.time else { t.time with locked := false } } xDone t
    | .openOwner p =>
      asked (t.flash.variantC && decide (p < t.settings.partPend.getD t.settings.partitions))
        { t with settings := { t.settings with ownerPend := some p } } xPending t))

/-! ### Units out of and into service (message 0x0040) -/

/-- CHANNEL_RETIRE_REQUEST (R183, R184). -/
def execChannelRetireRequest (conn seq chan : Nat) (s : State) : Answer :=
  .next (s.xanna conn 0x0040 seq (fun t => asked (decide (chan < 256)) (t.retireChan chan) xDone t))

/-- A unit of Table SEC-11 exists. -/
def unitOk : Unit40 → Bool
  | .channel c => decide (c < 256)
  | .lane c => decide (c < 256)
  | .wavelength q w => decide (q < 16) && decide (w < 16)
  | .port q => decide (q < 16)
  | .link l => decide (l < 30)
  | .package k => decide (k < 16)
  | .core c => decide (c < 384)
  | .cluster c => decide (c < 48)

/-- A channel leaves retirement: its granules stand in it again, and what its move borrowed is free. A channel whose move
still runs, or waits, stays as it is. -/
def State.channelBack (s : State) (ch : Nat) : State :=
  if (chan s ch).st != 3 then s
  else
    let t := s.modChan ch (fun c => { c with st := 0, moved := 0 })
    let u := t.modTier (partOfChan s ch) (fun x => { x with lent := x.lent.filter (fun l => l.chan != ch) })
    s.noteHealth { u with flash := { u.flash with retiredChans := u.flash.retiredChans.filter (· != ch) } } (chanHealthPages ch)

/-- A repaired lane (R181, R182): a DEGRADED channel's faulty one, or else one that a spare lane replaces. -/
def State.laneBack (s : State) (ch : Nat) : State :=
  if (chan s ch).st = 1 then
    s.noteHealth (s.modChan ch (fun c => { c with st := 0, badSymbol := none, symErr := [] })) (chanHealthPages ch)
  else
    let n := (chan s ch).lanesUsed - 1
    let t := s.modChan ch (fun c => { c with lanesUsed := n })
    { t with flash := { t.flash with lanesUsed := SMap.set 0 t.flash.lanesUsed ch n } }

/-- A unit's record leaves flash and the unit is in service; a wavelength, a port and a link come up at their next
training (R278, R280, R313). -/
def State.unitBack (s : State) (u : Unit40) : State :=
  match u with
  | .channel c => s.channelBack c
  | .lane c => s.laneBack c
  | .wavelength q w =>
    let t := s.modPort q (fun x => { x with retiredWl := x.retiredWl &&& ~~~((1 : BitVec 16) <<< w) })
    { t with flash := { t.flash with retiredWls := t.flash.retiredWls.filter (· != (q, w)) } }
  | .port q =>
    let t := s.modPort q (fun x => { x with st := if x.st = 2 then 0 else x.st })
    s.noteHealth { t with flash := { t.flash with retiredPorts := t.flash.retiredPorts.filter (· != q) } } (portHealthPages q)
  | .link l => { s with flash := { s.flash with faultedLinks := s.flash.faultedLinks.filter (· != l) } }
  | .package k =>
    s.noteHealth { s with
      flash := { s.flash with retiredPkgs := s.flash.retiredPkgs.filter (· != k) }, pkgRej := SMap.erase k s.pkgRej }
      [Blk.lpd.page k, Blk.tb.page (k / 8)]
  | .core c =>
    if coreRetired s c then
      let t := s.modCoreDom c (fun d => { d with retired := false, asleep := true, dbe := [] })
      s.noteHealth { t with flash := { t.flash with retiredCores := t.flash.retiredCores.filter (· != c) } } (clusterPages (c / 8))
    else s
  | .cluster c =>
    if clusterRetired s c then
      let t := s.modCluster c (fun d => { d with retired := false, asleep := true, dbe := [] })
      s.noteHealth { t with flash := { t.flash with retiredClusters := t.flash.retiredClusters.filter (· != c) } }
        (clusterPages c ++ dieHealthPages (c / 12))
    else s

/-- The fault that takes the unit out of service again. -/
def State.unitFails (s : State) (u : Unit40) : State :=
  match u with
  | .channel c => s.retireChan c
  | .lane c => s.laneFault c 0
  | .wavelength q w =>
    let t := s.modPort q (fun x => { x with retiredWl := x.retiredWl ||| ((1 : BitVec 16) <<< w) })
    ({ t with flash := { t.flash with retiredWls := t.flash.retiredWls ++ [(q, w)] } } : State).raise_ (narPage q) 0
      { d1 := ids16 [q, w] }
  | .port q => wlGone (s.retirePort q, true) q
  | .link l => (s.modLink l (fun x => { x with st := 1 })).faultLink l
  | .package k => s.retirePkg k
  | .core c => s.retireCore c
  | .cluster c => s.retireCluster c

/-- RETURN_TO_SERVICE (R183, R278, R313, R404, R405, R421). -/
def execReturnToService (conn seq : Nat) (unit : Unit40) (faultSameTick : Bool) (s : State) : Answer :=
  .next (s.xanna conn 0x0040 seq (fun t =>
    asked (unitOk unit) (if faultSameTick then (t.unitBack unit).unitFails unit else t.unitBack unit) xDone t))

/-! ### SPDM and the root (messages 0x0050 and 0x0060) -/

/-- SPDM_RELAY (R361, R379): one SPDM message for a responder, 0xFF the module's. What the responder answers is the SPDM
row's effect. -/
def execSpdmRelay (conn seq part len : Nat) (s : State) : Answer :=
  .next (s.xanna conn 0x0050 seq (fun t =>
    (t, if (part < t.settings.partitions || part == 0xFF) && len ≤ 2 ^ 24 then xDone else xMalformed)))

/-- INSTALL_ROOT (R378): the first root is the client's own self-signed certificate. -/
def execInstallRoot (conn seq : Nat) (root : BitVec 384) (s : State) : Answer :=
  match conn? s conn with
  | none => .next s
  | some c =>
    if !firmwareUp s then .next s
    else
      match s.flash.root with
      | none => .next (({ s with flash := { s.flash with root := some c.cert } }).emit (.xanna conn 0x0060 seq xDone 0))
      | some r =>
        if c.cert = r then
          .next (({ s with flash := { s.flash with root := some root } }).emit (.xanna conn 0x0060 seq xDone 0))
        else .next (s.emit (.xanna conn 0x0060 seq xDenied 0))

end Sys2Proof.Machine
end

