-- ==== Sys2Proof/Machine/Dispatch.lean ====
section
/-! DEFINITION. What each command does: one arm per row of the opcode table. -/

namespace Sys2Proof.Machine

def exec (i : Instr) (s : State) : Host.Outcome State Fault Refusal :=
  match i with
  | .registerWrite who page reg val hw => Sys2Proof.Machine.execRegisterWrite who page reg val hw s
  | .blkIrqEnWrite who page val evt => Sys2Proof.Machine.execBlkIrqEnWrite who page val evt s
  | .blkIrqStatClear who page val evt => Sys2Proof.Machine.execBlkIrqStatClear who page val evt s
  | .msixTableAccess acc => Sys2Proof.Machine.execMsixTableAccess acc s
  | .bar0MissizedAccess write off size => Sys2Proof.Machine.execBar0MissizedAccess write off size s
  | .qgSeedWrite who page val => Sys2Proof.Machine.execQgSeedWrite who page val s
  | .qgKeyClear who page val => Sys2Proof.Machine.execQgKeyClear who page val s
  | .guardConfigWrite core off data => Sys2Proof.Machine.execGuardConfigWrite core off data s
  | .stepBegin ring clash => Sys2Proof.Machine.execStepBegin ring clash s
  | .guardHistoryPush part => Sys2Proof.Machine.execGuardHistoryPush part s
  | .tileAudit core => Sys2Proof.Machine.execTileAudit core s
  | .matmul ring => Sys2Proof.Machine.execMatmul ring s
  | .fusedCommand ring => Sys2Proof.Machine.execFusedCommand ring s
  | .commandAdmission cmd => Sys2Proof.Machine.execCommandAdmission cmd s
  | .tileEmit cmd => Sys2Proof.Machine.execTileEmit cmd s
  | .tileSteal src dst => Sys2Proof.Machine.execTileSteal src dst s
  | .rampUpEnd eng => Sys2Proof.Machine.execRampUpEnd eng s
  | .sweepEnd eng quad => Sys2Proof.Machine.execSweepEnd eng quad s
  | .rampDownEnd eng => Sys2Proof.Machine.execRampDownEnd eng s
  | .blockDrainEnd eng quad => Sys2Proof.Machine.execBlockDrainEnd eng quad s
  | .blockConversionEnd eng quad => Sys2Proof.Machine.execBlockConversionEnd eng quad s
  | .epilogueBlock cmd eng => Sys2Proof.Machine.execEpilogueBlock cmd eng s
  | .quantBlock cmd eng => Sys2Proof.Machine.execQuantBlock cmd eng s
  | .storeBlock cmd => Sys2Proof.Machine.execStoreBlock cmd s
  | .bndMcastWrite who page reg val => Sys2Proof.Machine.execBndMcastWrite who page reg val s
  | .run ring => Sys2Proof.Machine.execRun ring s
  | .runPersist ring => Sys2Proof.Machine.execRunPersist ring s
  | .rearm ring => Sys2Proof.Machine.execRearm ring s
  | .rearmApply handle => Sys2Proof.Machine.execRearmApply handle s
  | .release ring => Sys2Proof.Machine.execRelease ring s
  | .persistentStreamRelease handle => Sys2Proof.Machine.execPersistentStreamRelease handle s
  | .hodRequestIssue cmd stream => Sys2Proof.Machine.execHodRequestIssue cmd stream s
  | .hodReadLanding req sram => Sys2Proof.Machine.execHodReadLanding req sram s
  | .hodWriteAck req => Sys2Proof.Machine.execHodWriteAck req s
  | .hodCompatWrite who page val => Sys2Proof.Machine.execHodCompatWrite who page val s
  | .sentinelExpiry cluster t progress => Sys2Proof.Machine.execSentinelExpiry cluster t progress s
  | .contextSwitch core => Sys2Proof.Machine.execContextSwitch core s
  | .contextSwitchEnd core => Sys2Proof.Machine.execContextSwitchEnd core s
  | .semInit ring => Sys2Proof.Machine.execSemInit ring s
  | .semAcquire ring => Sys2Proof.Machine.execSemAcquire ring s
  | .semTry ring => Sys2Proof.Machine.execSemTry ring s
  | .semRelease ring => Sys2Proof.Machine.execSemRelease ring s
  | .semClearPoison ring => Sys2Proof.Machine.execSemClearPoison ring s
  | .ctrInit ring => Sys2Proof.Machine.execCtrInit ring s
  | .ctrClaim ring => Sys2Proof.Machine.execCtrClaim ring s
  | .ctrUnclaim ring => Sys2Proof.Machine.execCtrUnclaim ring s
  | .ctrPost ring => Sys2Proof.Machine.execCtrPost ring s
  | .ctrTake ring => Sys2Proof.Machine.execCtrTake ring s
  | .lintel ring => Sys2Proof.Machine.execLintel ring s
  | .retire ring => Sys2Proof.Machine.execRetire ring s
  | .lintelComplete part t => Sys2Proof.Machine.execLintelComplete part t s
  | .lintelTimeout part t => Sys2Proof.Machine.execLintelTimeout part t s
  | .pointingPeriodExpiry cluster t => Sys2Proof.Machine.execPointingPeriodExpiry cluster t s
  | .pointingBarrier cluster t => Sys2Proof.Machine.execPointingBarrier cluster t s
  | .hbmWideRead req eccs => Sys2Proof.Machine.execHbmWideRead req eccs s
  | .hbmWideWrite req => Sys2Proof.Machine.execHbmWideWrite req s
  | .hbmNarrowRead req eccs => Sys2Proof.Machine.execHbmNarrowRead req eccs s
  | .hbmNarrowWrite req eccs => Sys2Proof.Machine.execHbmNarrowWrite req eccs s
  | .addWrite req eccs => Sys2Proof.Machine.execAddWrite req eccs s
  | .rowRemapEnd chan bank row bad => Sys2Proof.Machine.execRowRemapEnd chan bank row bad s
  | .scrubRead chan off ecc => Sys2Proof.Machine.execScrubRead chan off ecc s
  | .remapFlashCopy chan => Sys2Proof.Machine.execRemapFlashCopy chan s
  | .channelMoveEnd chan => Sys2Proof.Machine.execChannelMoveEnd chan s
  | .hbmThermalSample stack readings t => Sys2Proof.Machine.execHbmThermalSample stack readings t s
  | .pacingWindow chan t => Sys2Proof.Machine.execPacingWindow chan t s
  | .add ring => Sys2Proof.Machine.execAdd ring s
  | .mul ring => Sys2Proof.Machine.execMul ring s
  | .fma ring => Sys2Proof.Machine.execFma ring s
  | .affine ring => Sys2Proof.Machine.execAffine ring s
  | .div ring => Sys2Proof.Machine.execDiv ring s
  | .max ring => Sys2Proof.Machine.execMax ring s
  | .min ring => Sys2Proof.Machine.execMin ring s
  | .rsqrt ring => Sys2Proof.Machine.execRsqrt ring s
  | .exp ring => Sys2Proof.Machine.execExp ring s
  | .gelu ring => Sys2Proof.Machine.execGelu ring s
  | .silu ring => Sys2Proof.Machine.execSilu ring s
  | .rmsnorm ring => Sys2Proof.Machine.execRmsnorm ring s
  | .layernorm ring => Sys2Proof.Machine.execLayernorm ring s
  | .softmax ring => Sys2Proof.Machine.execSoftmax ring s
  | .quant ring => Sys2Proof.Machine.execQuant ring s
  | .dequant ring => Sys2Proof.Machine.execDequant ring s
  | .adamw ring => Sys2Proof.Machine.execAdamw ring s
  | .lion ring => Sys2Proof.Machine.execLion ring s
  | .sgdm ring => Sys2Proof.Machine.execSgdm ring s
  | .plumb ring => Sys2Proof.Machine.execPlumb ring s
  | .fence ring => Sys2Proof.Machine.execFence ring s
  | .nmuSlotGrant chan t => Sys2Proof.Machine.execNmuSlotGrant chan t s
  | .nmuSwitchInEnd chan t budget eccs => Sys2Proof.Machine.execNmuSwitchInEnd chan t budget eccs s
  | .nmuSlotEnd chan t => Sys2Proof.Machine.execNmuSlotEnd chan t s
  | .nmuSwitchOutEnd chan t => Sys2Proof.Machine.execNmuSwitchOutEnd chan t s
  | .nmuGrantTimeout cmd t => Sys2Proof.Machine.execNmuGrantTimeout cmd t s
  | .nmuFenceComplete cmd => Sys2Proof.Machine.execNmuFenceComplete cmd s
  | .granuleCommit chan => Sys2Proof.Machine.execGranuleCommit chan s
  | .mode ring => Sys2Proof.Machine.execMode ring s
  | .input ring => Sys2Proof.Machine.execInput ring s
  | .trnLedgerCtlWrite who page val => Sys2Proof.Machine.execTrnLedgerCtlWrite who page val s
  | .fetch ring => Sys2Proof.Machine.execFetch ring s
  | .flush ring => Sys2Proof.Machine.execFlush ring s
  | .evict ring => Sys2Proof.Machine.execEvict ring s
  | .drop ring => Sys2Proof.Machine.execDrop ring s
  | .alloc ring => Sys2Proof.Machine.execAlloc ring s
  | .bind ring => Sys2Proof.Machine.execBind ring s
  | .slabFetch part => Sys2Proof.Machine.execSlabFetch part s
  | .slabReady part slab rejects => Sys2Proof.Machine.execSlabReady part slab rejects s
  | .readyTimeout cmd t => Sys2Proof.Machine.execReadyTimeout cmd t s
  | .writebackDone part slab => Sys2Proof.Machine.execWritebackDone part slab s
  | .flitReceive port wl flit => Sys2Proof.Machine.execFlitReceive port wl flit s
  | .wavelengthLockLoss port wl => Sys2Proof.Machine.execWavelengthLockLoss port wl s
  | .departedNotice port => Sys2Proof.Machine.execDepartedNotice port s
  | .peerLockLoss port t => Sys2Proof.Machine.execPeerLockLoss port t s
  | .courseEnable who course val => Sys2Proof.Machine.execCourseEnable who course val s
  | .courseDisable who course val fallbackSize => Sys2Proof.Machine.execCourseDisable who course val fallbackSize s
  | .walkToken course tok => Sys2Proof.Machine.execWalkToken course tok s
  | .walkTimeout course t => Sys2Proof.Machine.execWalkTimeout course t s
  | .reduceScatter ring => Sys2Proof.Machine.execReduceScatter ring s
  | .allGather ring => Sys2Proof.Machine.execAllGather ring s
  | .allReduce ring => Sys2Proof.Machine.execAllReduce ring s
  | .broadcast ring => Sys2Proof.Machine.execBroadcast ring s
  | .permute ring => Sys2Proof.Machine.execPermute ring s
  | .reshard ring => Sys2Proof.Machine.execReshard ring s
  | .collTimeout cmd t => Sys2Proof.Machine.execCollTimeout cmd t s
  | .abandon course cseq => Sys2Proof.Machine.execAbandon course cseq s
  | .copied course shard => Sys2Proof.Machine.execCopied course shard s
  | .flip course shard owner epoch => Sys2Proof.Machine.execFlip course shard owner epoch s
  | .narShardWrite who page val commit => Sys2Proof.Machine.execNarShardWrite who page val commit s
  | .timingFlit course time delay => Sys2Proof.Machine.execTimingFlit course time delay s
  | .timeLost t => Sys2Proof.Machine.execTimeLost t s
  | .linkFrameReceive link good t => Sys2Proof.Machine.execLinkFrameReceive link good t s
  | .linkLockLoss link => Sys2Proof.Machine.execLinkLockLoss link s
  | .openDieMessage msg => Sys2Proof.Machine.execOpenDieMessage msg s
  | .openResponseTimeout req t => Sys2Proof.Machine.execOpenResponseTimeout req t s
  | .openPowerWindow milliwatts => Sys2Proof.Machine.execOpenPowerWindow milliwatts s
  | .windowRead win off len eccs => Sys2Proof.Machine.execWindowRead win off len eccs s
  | .windowWrite win off data => Sys2Proof.Machine.execWindowWrite win off data s
  | .windowAccessTimeout acc t => Sys2Proof.Machine.execWindowAccessTimeout acc t s
  | .flr => Sys2Proof.Machine.execFlr s
  | .pmStateChange d3hot => Sys2Proof.Machine.execPmStateChange d3hot s
  | .busMasterEnableChange on => Sys2Proof.Machine.execBusMasterEnableChange on s
  | .pcieLinkDown perst t => Sys2Proof.Machine.execPcieLinkDown perst t s
  | .pcieLinkUp t speed widthLog2 => Sys2Proof.Machine.execPcieLinkUp t speed widthLog2 s
  | .holdoffExpiry t => Sys2Proof.Machine.execHoldoffExpiry t s
  | .ringEnable who ring val => Sys2Proof.Machine.execRingEnable who ring val s
  | .ringClearEnd ring => Sys2Proof.Machine.execRingClearEnd ring s
  | .ringDisable who ring val => Sys2Proof.Machine.execRingDisable who ring val s
  | .ringDrainEnd ring => Sys2Proof.Machine.execRingDrainEnd ring s
  | .ctxReset who ring => Sys2Proof.Machine.execCtxReset who ring s
  | .doorbell who ring val => Sys2Proof.Machine.execDoorbell who ring val s
  | .commandCompletion cmd => Sys2Proof.Machine.execCommandCompletion cmd s
  | .getVersion resp => Sys2Proof.Machine.execGetVersion resp s
  | .getCapabilities resp => Sys2Proof.Machine.execGetCapabilities resp s
  | .negotiateAlgorithms resp supported => Sys2Proof.Machine.execNegotiateAlgorithms resp supported s
  | .getDigests resp => Sys2Proof.Machine.execGetDigests resp s
  | .getCertificate resp slot => Sys2Proof.Machine.execGetCertificate resp slot s
  | .challenge resp slot nonce => Sys2Proof.Machine.execChallenge resp slot nonce s
  | .getMeasurements resp index nonce => Sys2Proof.Machine.execGetMeasurements resp index nonce s
  | .keyExchange resp reqSession => Sys2Proof.Machine.execKeyExchange resp reqSession s
  | .finish resp session rootDigest => Sys2Proof.Machine.execFinish resp session rootDigest s
  | .endSession resp session => Sys2Proof.Machine.execEndSession resp session s
  | .doeDiscovery inst index => Sys2Proof.Machine.execDoeDiscovery inst index s
  | .keyPut resp session payload => Sys2Proof.Machine.execKeyPut resp session payload s
  | .keyClear resp session payload => Sys2Proof.Machine.execKeyClear resp session payload s
  | .keyOpen ring => Sys2Proof.Machine.execKeyOpen ring s
  | .keyStatus ring => Sys2Proof.Machine.execKeyStatus ring s
  | .keyCmdClear ring => Sys2Proof.Machine.execKeyCmdClear ring s
  | .steerStart who part val => Sys2Proof.Machine.execSteerStart who part val s
  | .steerStop who part val => Sys2Proof.Machine.execSteerStop who part val s
  | .steerTrap core addr => Sys2Proof.Machine.execSteerTrap core addr s
  | .steerEcall core => Sys2Proof.Machine.execSteerEcall core s
  | .secSealWrite who part val => Sys2Proof.Machine.execSecSealWrite who part val s
  | .skimEnd part durationUs dirty => Sys2Proof.Machine.execSkimEnd part durationUs dirty s
  | .overwriteEnd part ms => Sys2Proof.Machine.execOverwriteEnd part ms s
  | .xannaConnect selfSigned root tls13 => Sys2Proof.Machine.execXannaConnect selfSigned root tls13 s
  | .xannaDisconnect conn => Sys2Proof.Machine.execXannaDisconnect conn s
  | .xannaRead conn page reg => Sys2Proof.Machine.execXannaRead conn page reg s
  | .subscribe conn seq => Sys2Proof.Machine.execSubscribe conn seq s
  | .partitionCount conn seq count => Sys2Proof.Machine.execPartitionCount conn seq count s
  | .tierCacheShare conn seq gib => Sys2Proof.Machine.execTierCacheShare conn seq gib s
  | .fencedPower conn seq on t => Sys2Proof.Machine.execFencedPower conn seq on t s
  | .powerCaps conn seq watts t => Sys2Proof.Machine.execPowerCaps conn seq watts t s
  | .firmwareImage conn seq img => Sys2Proof.Machine.execFirmwareImage conn seq img s
  | .moduleResetRequest conn seq => Sys2Proof.Machine.execModuleResetRequest conn seq s
  | .tenantBind conn seq part tenant root overwrite => Sys2Proof.Machine.execTenantBind conn seq part tenant root overwrite s
  | .tenantRelease conn seq part overwrite => Sys2Proof.Machine.execTenantRelease conn seq part overwrite s
  | .hostAccessSettings conn seq set => Sys2Proof.Machine.execHostAccessSettings conn seq set s
  | .moduleIdSettings conn seq set => Sys2Proof.Machine.execModuleIdSettings conn seq set s
  | .channelRetireRequest conn seq chan => Sys2Proof.Machine.execChannelRetireRequest conn seq chan s
  | .returnToService conn seq unit faultSameTick => Sys2Proof.Machine.execReturnToService conn seq unit faultSameTick s
  | .spdmRelay conn seq part len => Sys2Proof.Machine.execSpdmRelay conn seq part len s
  | .installRoot conn seq root => Sys2Proof.Machine.execInstallRoot conn seq root s
  | .powerLoopPeriod t dieDraw engPart stackDraw narDraw hubDraw openDraw => Sys2Proof.Machine.execPowerLoopPeriod t dieDraw engPart stackDraw narDraw hubDraw openDraw s
  | .fastLimitWindow die milliwatts => Sys2Proof.Machine.execFastLimitWindow die milliwatts s
  | .dieThermalSample die readings t => Sys2Proof.Machine.execDieThermalSample die readings t s
  | .coreSleep core t wakeSameTick => Sys2Proof.Machine.execCoreSleep core t wakeSameTick s
  | .clusterSleep cluster t wakeSameTick => Sys2Proof.Machine.execClusterSleep cluster t wakeSameTick s
  | .nmuGroupSleep group t wakeSameTick => Sys2Proof.Machine.execNmuGroupSleep group t wakeSameTick s
  | .coreWakeStart die t => Sys2Proof.Machine.execCoreWakeStart die t s
  | .domainWakeEnd domain => Sys2Proof.Machine.execDomainWakeEnd domain s
  | .diePllLockLoss die => Sys2Proof.Machine.execDiePllLockLoss die s
  | .powerStageFault die => Sys2Proof.Machine.execPowerStageFault die s
  | .heartbeat t => Sys2Proof.Machine.execHeartbeat t s
  | .heartbeatTimeout t => Sys2Proof.Machine.execHeartbeatTimeout t s
  | .watchdogExpiry t => Sys2Proof.Machine.execWatchdogExpiry t s
  | .snap ring => Sys2Proof.Machine.execSnap ring s
  | .snapCopy part t => Sys2Proof.Machine.execSnapCopy part t s
  | .rasLogCursorWrite who part val => Sys2Proof.Machine.execRasLogCursorWrite who part val s
  | .powerInputInRange => Sys2Proof.Machine.execPowerInputInRange s
  | .powerInputOutOfRange over60V => Sys2Proof.Machine.execPowerInputOutOfRange over60V s
  | .bootRomPhase => Sys2Proof.Machine.execBootRomPhase s
  | .bringUpPhase t failedDies => Sys2Proof.Machine.execBringUpPhase t failedDies s
  | .scaffoldLinksPhase t fails die => Sys2Proof.Machine.execScaffoldLinksPhase t fails die s
  | .selfTestPhase t fails => Sys2Proof.Machine.execSelfTestPhase t fails s
  | .entryToOperational t => Sys2Proof.Machine.execEntryToOperational t s
  | .partitionReset who part val => Sys2Proof.Machine.execPartitionReset who part val s
  | .partitionResetEnd part t fails => Sys2Proof.Machine.execPartitionResetEnd part t fails s
  | .coolantSample tenthsC tenthsLpm t => Sys2Proof.Machine.execCoolantSample tenthsC tenthsLpm t s
  | .coolantTrip t => Sys2Proof.Machine.execCoolantTrip t s
  | .portLinkTraining port locked peerId peerPort => Sys2Proof.Machine.execPortLinkTraining port locked peerId peerPort s
  | .granuleMoved chan => Sys2Proof.Machine.execGranuleMoved chan s
  | .timingFlitSend t => Sys2Proof.Machine.execTimingFlitSend t s
  | .registerRead who page reg => Sys2Proof.Machine.execRegisterRead who page reg s

end Sys2Proof.Machine
end

