-- ==== Sys2Proof/Safety.lean ====
section
/-! DEFINITION. What counts as a safe state and a safe run, in the terms the statements use. -/

namespace Sys2Proof

open Machine

/-- The module answers a command: a next state, and neither a fault nor a refusal (R10). -/
def Completes (c : Instr) (s : State) : Prop := ∃ t, exec c s = .next t

/-- A finite run of the machine from `s` that meets no fault and no refusal. -/
def SafeRun (n : Nat) (s : State) : Prop := ∃ t, core.run n s = .next t

/-! ### Legal settings -/

/-- A tier cache share that Xanna can set: 0 to 256 GiB in steps of 8 (R22, R252). -/
def shareLegal (gib : Nat) : Prop := gib ≤ 256 ∧ gib % 8 = 0

/-- A module power cap: 1,200 to 3,000 W in steps of 10 W (R390). -/
def capLegal (w : Nat) : Prop := 1200 ≤ w ∧ w ≤ 3000 ∧ w % 10 = 0

/-- A host access or window setting whose value the rules allow (R329, R330, R350). -/
def hostLegal : HostSetting → Prop
  | .access _ m => m ≤ 2
  | .window _ _ => True
  | .holdoff ms => 10 ≤ ms ∧ ms ≤ 10000

/-- Every setting in force or pending is one that its rule allows (R22, R24, R252, R304, R329, R350, R390). -/
structure SettingsLegal (x : Settings) : Prop where
  partitions : x.partitions ∈ [1, 2, 4]
  partPend : ∀ n, x.partPend = some n → n ∈ [1, 2, 4]
  share : shareLegal x.shareGib
  shareNow : x.shareNow.length = 4 ∧ ∀ g ∈ x.shareNow, shareLegal g
  cap : capLegal x.capW
  capPend : ∀ c, x.capPend = some c → capLegal c.1
  moduleId : x.moduleId < 2 ^ 17
  timeSource : x.timeSource < 8 ∨ x.timeSource = 15
  access : x.hostAccess.length = 4 ∧ ∀ m ∈ x.hostAccess, m ≤ 2
  holdoff : 10 ≤ x.holdoffMs ∧ x.holdoffMs ≤ 10000
  windows : x.winPart.length = 8
  held : ∀ h ∈ x.hostPend, hostLegal h

/-! ### Sound states -/

/-- The commands in flight stand in the order of their numbers, and the next number is free. -/
def cmdsLegal (l : List Cmd) (next : Nat) : Prop := l.Pairwise (fun a b => a.id < b.id) ∧ ∀ c ∈ l, c.id < next

/-- What every command keeps: memory, fresh bits and poison in canonical form, the snag log within 4,096 entries (R410),
each view within 1,024 (R415), each mirror queue within 4,096 bodies (R416), legal settings, a phase that Table SUP-7
numbers, and commands in flight in the order of their numbers. -/
structure Sound (s : State) : Prop where
  mem : s.mem.wf = true
  written : SMap.wf false s.written = true
  poison : SMap.wf false s.poison = true
  log : s.log.length ≤ 4096
  views : ∀ e ∈ s.views, e.2.ents.length ≤ 1024
  queues : ∀ c ∈ s.conns, c.queue.length ≤ 4096
  settings : SettingsLegal s.settings
  phase : s.startup.phase ≤ 7
  cmds : cmdsLegal s.cmds s.nextCmd

namespace Machine

/-! ### What raising events and writing the snag log touches -/

/-- `t` is `s` but for what raising events and writing snag log entries touches: BLK_IRQ_STAT bits that become set (R446), SEC_OBS
of the partitions that see a module-wide entry (R415), pending messages (R348), the log, the views and the mirrors
(R410-R416), and what is sent. -/
structure AsideFromEvents (s t : State) : Prop where
  rest : { t with
    regs := s.regs, pcie := { t.pcie with pba := s.pcie.pba }, log := s.log, logNext := s.logNext, views := s.views
    conns := s.conns, out := s.out } = s
  regs : ∀ g r, r < 512 → r ≠ Reg.irqStat → ¬(blkOf g = .sec ∧ r = Reg.secObs) → t.reg g r = s.reg g r
  irq : ∀ g n, (s.reg g Reg.irqStat).testBit n = true → (t.reg g Reg.irqStat).testBit n = true
  sent : s.out <+: t.out

/-- A message on a vector has been sent or is pending (R348). -/
def MessageDue (s t : State) (v : Nat) : Prop := t.out = s.out ++ [.msix v] ∨ v ∈ t.pcie.pba

/-- Every pending message that can leave has left, in vector order, and no other; nothing else differs (R324, R348). -/
structure PendingSent (u t : State) : Prop where
  rest : { t with pcie := { t.pcie with pba := u.pcie.pba }, out := u.out } = u
  sent : t.out = u.out ++ ((List.range 69).filter (fun v => u.pcie.pba.contains v && canSend u v)).map Out.msix
  left : ∀ v, v ∈ t.pcie.pba ↔ v ∈ u.pcie.pba ∧ ¬(v < 69 ∧ canSend u v = true)

/-! ### Which command writes which register -/

/-- A register whose write has no row of its own and no action beyond its fields. -/
def plainReg (page reg : Nat) : Bool :=
  !(reg == Reg.irqEn || reg == Reg.irqStat || reg == Reg.snapTag) &&
    (match blkOf page with
     | .qg => !(reg == Reg.qgSeed || reg == Reg.qgKeyStat)
     | .bnd => !(decide (Reg.bndMcast ≤ reg) && decide (reg < Reg.bndMcast + 96))
     | .hod => !(reg == Reg.hodCompat)
     | .trn => !(reg == Reg.trnLedgerCtl)
     | .nar => !(reg == Reg.narShard || reg == Reg.narCourse || reg == Reg.narCourse + 1)
     | .ring => !(reg == Reg.ringCtl || reg == Reg.ringDb)
     | .sec => !(reg == Reg.secSteerCtl || reg == Reg.secSeal || reg == Reg.secSteerAddr)
     | .ras => !(reg == Reg.rasLogCursor)
     | .sup => !(reg == Reg.supPartCtl)
     | _ => true)

/-- The requester and the page of a command that writes a register. -/
def regRow : Instr → Option (Requester × Nat)
  | .registerWrite who page reg _ _ => if reg < 512 ∧ plainReg page reg = true then some (who, page) else none
  | .blkIrqEnWrite who page _ _ | .blkIrqStatClear who page _ _ => some (who, page)
  | .qgSeedWrite who page _ | .qgKeyClear who page _ => if blkOf page = .qg then some (who, page) else none
  | .trnLedgerCtlWrite who page _ => if blkOf page = .trn then some (who, page) else none
  | .narShardWrite who page _ _ => if blkOf page = .nar then some (who, page) else none
  | .courseEnable who course _ | .courseDisable who course _ _ => some (who, coursePage course)
  | .ringEnable who ring _ | .ringDisable who ring _ | .ctxReset who ring | .doorbell who ring _ =>
    some (who, ringPage ring)
  | .steerStart who part _ | .steerStop who part _ | .secSealWrite who part _ => some (who, secPage part)
  | .rasLogCursorWrite who part _ => some (who, rasPage part)
  | .partitionReset who part _ => some (who, supPage part)
  | _ => none

/-- A host access to BAR0 or BAR2: a register, the MSI-X structures, an odd access or a window. -/
def barAccess : Instr → Bool
  | .registerWrite who page reg _ _ => who == .host && decide (page < pageCount) && decide (reg < 512)
  | .registerRead who _ _ => who == .host
  | .blkIrqEnWrite who page _ _ | .blkIrqStatClear who page _ _ => who == .host && decide (page < pageCount)
  | .qgSeedWrite who page _ | .qgKeyClear who page _ => who == .host && blkOf page == .qg
  | .bndMcastWrite who page reg _ =>
    who == .host && blkOf page == .bnd && decide (Reg.bndMcast ≤ reg) && decide (reg < Reg.bndMcast + 96)
  | .hodCompatWrite who page _ => who == .host && blkOf page == .hod
  | .trnLedgerCtlWrite who page _ => who == .host && blkOf page == .trn
  | .narShardWrite who page _ _ => who == .host && blkOf page == .nar
  | .courseEnable who _ _ | .courseDisable who _ _ _ | .ringEnable who _ _ | .ringDisable who _ _ | .ctxReset who _
  | .doorbell who _ _ | .steerStart who _ _ | .steerStop who _ _ | .secSealWrite who _ _ | .rasLogCursorWrite who _ _
  | .partitionReset who _ _ => who == .host
  | .msixTableAccess _ | .bar0MissizedAccess _ _ _ | .windowRead _ _ _ _ | .windowWrite _ _ _ => true
  | _ => false

/-! ### Ring commands at their start -/

/-- The row of a class and operation takes up command `c` of ring `k` in state `v`: one dispatched before and not yet started, or the
ring's next one, whose slot can be read and whose envelope passes (R335, R336, R344). -/
def Arrives (cls sub k : Nat) (s v : State) (c : Cmd) : Prop :=
  (unstartedOf cls sub s k = some c ∧ c.late = none ∧ envClass c.bits = cls ∧ cmdSub c.bits = sub ∧ v = s) ∨
    (unstartedOf cls sub s k = none ∧ ∃ b, nextOf s k = some b ∧ slotPoisoned s k (ring s k).head = false ∧
      envClass b = cls ∧ cmdSub b = sub ∧ envStatus s k b = none ∧ v = s.take_ k b ∧ c = newCmd s k b)

/-- No table in memory is needed. -/
def noNeed (_ : State) (_ : Cmd) : List Nat := []

/-- Nothing keeps the command waiting: no earlier work of its contexts, no context in use, no command before it, no sleeping cluster
(R126, R144, R388). -/
def NothingAhead (v : State) (c : Cmd) : Prop :=
  waitsBehind v c = false ∧ canBind v c.ring (cmdCores v c.part c.bits) = true ∧ heldBack v c = false ∧
    (v.wantClusters (reaches v c)).2 = false

/-- Command `x` starts in state `u`: it has arrived, the tables it needs can be read, its class checks pass and, when it binds at
once, nothing is ahead of it. -/
def Starts (atOnce : Bool) (cls sub k : Nat) (need : State → Cmd → List Nat) (check : State → Cmd → Option Nat)
    (s u : State) (x : Cmd) : Prop :=
  ∃ v c, Arrives cls sub k s v c ∧ need v c = [] ∧ check v c = none ∧ (atOnce = true → NothingAhead v c) ∧
    x = { c with checked := true, wait := .none } ∧
    u = bindNow atOnce ((v.wantClusters (reaches v c)).1.modCmd c.id (fun c => { c with checked := true, wait := .none })) c

/-- A command has ended with a status; its record is still to be written (R337). -/
def EndedWith (t : State) (id st : Nat) : Prop := ∃ c, t.cmd? id = some c ∧ c.status = some st

/-- A command is in flight and waits. -/
def Waits (t : State) (id : Nat) (w : Wait) : Prop := ∃ c, t.cmd? id = some c ∧ c.status = none ∧ c.wait = w

/-! ### The rows that take a command off its ring -/

/-- Class, operation and ring of such a row. -/
def ringRow : Instr → Option (Nat × Nat × Nat)
  | .matmul k => some (1, 0, k)
  | .fusedCommand k => some (1, 1, k)
  | .run k => some (2, 0x01, k)
  | .runPersist k => some (2, 0x101, k)
  | .rearm k => some (2, 0x02, k)
  | .release k => some (2, 0x03, k)
  | .add k => some (3, 0x01, k)
  | .mul k => some (3, 0x02, k)
  | .fma k => some (3, 0x03, k)
  | .affine k => some (3, 0x04, k)
  | .div k => some (3, 0x05, k)
  | .max k => some (3, 0x06, k)
  | .min k => some (3, 0x07, k)
  | .rsqrt k => some (3, 0x08, k)
  | .exp k => some (3, 0x09, k)
  | .gelu k => some (3, 0x0A, k)
  | .silu k => some (3, 0x0B, k)
  | .rmsnorm k => some (3, 0x10, k)
  | .layernorm k => some (3, 0x11, k)
  | .softmax k => some (3, 0x12, k)
  | .quant k => some (3, 0x18, k)
  | .dequant k => some (3, 0x19, k)
  | .adamw k => some (3, 0x20, k)
  | .lion k => some (3, 0x21, k)
  | .sgdm k => some (3, 0x22, k)
  | .plumb k => some (3, 0x28, k)
  | .fence k => some (3, 0x30, k)
  | .semInit k => some (4, 0x01, k)
  | .semAcquire k => some (4, 0x02, k)
  | .semTry k => some (4, 0x03, k)
  | .semRelease k => some (4, 0x04, k)
  | .semClearPoison k => some (4, 0x05, k)
  | .ctrInit k => some (4, 0x10, k)
  | .ctrClaim k => some (4, 0x11, k)
  | .ctrUnclaim k => some (4, 0x12, k)
  | .ctrPost k => some (4, 0x13, k)
  | .ctrTake k => some (4, 0x14, k)
  | .lintel k => some (4, 0x20, k)
  | .retire k => some (4, 0x30, k)
  | .reduceScatter k => some (5, 1, k)
  | .allGather k => some (5, 2, k)
  | .allReduce k => some (5, 3, k)
  | .broadcast k => some (5, 4, k)
  | .permute k => some (5, 5, k)
  | .reshard k => some (5, 6, k)
  | .fetch k => some (6, 1, k)
  | .flush k => some (6, 2, k)
  | .evict k => some (6, 3, k)
  | .drop k => some (6, 4, k)
  | .alloc k => some (6, 5, k)
  | .bind k => some (6, 6, k)
  | .keyOpen k => some (7, 1, k)
  | .keyStatus k => some (7, 2, k)
  | .keyCmdClear k => some (7, 3, k)
  | .stepBegin k _ => some (8, 1, k)
  | .mode k => some (8, 2, k)
  | .input k => some (8, 3, k)
  | .snap k => some (9, 1, k)
  | _ => none

/-- The ring keeps its command: a fifth pass of a stream (R136), a full unit queue (Table NMU-1), a fifth armed SNAP (R417). -/
def ringHeld (s : State) (i : Instr) : Bool :=
  match ringRow i with
  | some (2, 0x02, k) => rearmFull s k
  | some (3, op, k) => unitsFull op s k
  | some (9, 1, k) => decide (4 ≤ (armed s (partOfRing s k)).length)
  | _ => false

/-- The slabs that hold the tables an operation reads, where they have no ready copy. -/
def rowNeed (cls sub : Nat) : State → Cmd → List Nat :=
  match cls with
  | 1 => matNeed
  | 2 => if sub = 0x01 ∨ sub = 0x101 then runNeed else noNeed
  | 3 => nmuNeed
  | 5 => collNeed
  | 7 => if sub = 1 then openNeed else noNeed
  | _ => noNeed

/-- The class checks of an operation: a refusal's status, if one fails. -/
def rowCheck (cls sub : Nat) : State → Cmd → Option Nat :=
  match cls with
  | 1 => matCheck
  | 2 => if sub = 0x02 then rearmCheck else if sub = 0x03 then releaseCheck else runCheck
  | 3 => nmuCheck
  | 4 => syncCheck
  | 5 => collCheck
  | 6 => tierCheck
  | 7 => if sub = 1 then openCheck else fun _ c => if keyReserved c.bits sub then some St.malformed else none
  | 8 => ledgerCheck
  | _ => snapCheck

/-- The operation takes its contexts at dispatch; MATRIX and RUN take theirs at their admission (R126). -/
def rowAtOnce (cls sub : Nat) : Bool := !(cls == 1 || (cls == 2 && (sub == 0x01 || sub == 0x101)))

/-- What a command's start, wait and end may touch: the commands, contexts, cores and clusters, the work queued for a command that ends,
SYNC state, TIR_READY_WAIT and LADDER. Everything else stays, all of memory among it. -/
structure CmdFrame (u t : State) : Prop where
  rest : { t with
    cmds := u.cmds, ctxs := u.ctxs, cores := u.cores, clusters := u.clusters, coreDoms := u.coreDoms, dies := u.dies
    stks := u.stks, quads := u.quads, persists := u.persists, reqs := u.reqs, chans := u.chans, tiers := u.tiers
    sems := u.sems, ctrs := u.ctrs, lintels := u.lintels, regs := u.regs } = u
  bytes : ∀ k, t.byte k = u.byte k
  reqs : t.reqs.Sublist u.reqs
  regs : ∀ g r, r < 512 → r ≠ Reg.tirReadyWait → r ≠ Reg.synSwitches → t.reg g r = u.reg g r

end Machine

end Sys2Proof
end

