-- ==== Sys2Proof/Certificates/Slice0/Obligations.lean ====
section
/-! DEFINITION. The statements for the provers. Each is one Prop; its docstring names the rules of spec/ that it rests on. A statement
that rests on a choice of the model says so. -/

open Sys2Proof Sys2Proof.Machine

/-- One step takes the command at the front of the queue and is that command's effect on the state with the queue's rest. -/
def Obligations.StepRunsTheFrontCommand : Prop :=
  ∀ (c : Instr) (rest : List Instr) (s : State),
    step { s with pending := c :: rest } = exec c { s with pending := rest }

/-- On an empty queue (the model's choice, log 1): without power nothing happens; with power the timebase moves by one 20 ns pilot
tick (R384), each mirror sends its oldest body (R416), and nothing else changes. -/
def Obligations.EmptyQueueIsOnePilotTick : Prop :=
  ∀ s : State, s.pending = [] →
    (s.startup.powered = false → step s = .next s) ∧
    (s.startup.powered = true → ∃ t, step s = .next t ∧ t.now = s.now + 20 ∧
      { t with now := s.now, conns := s.conns, out := s.out } = s ∧
      t.conns.map (fun c => c.queue) = s.conns.map (fun c => c.queue.drop 1) ∧
      t.out = s.out ++ s.conns.flatMap (fun c => (c.queue.take 1).map (Out.snag c.num)))

/-- Every command of the table, with every operand, in every state, answers a next state: no fault and no refusal (R10: no software
error produces unspecified behaviour). -/
def Obligations.EveryCommandCompletes : Prop := ∀ (c : Instr) (s : State), Completes c s

/-- If the state is sound, so is the state after any step: memory, fresh bits and poison in canonical form, at most 4,096 entries in
the snag log (R410), 1,024 in each view (R415) and 4,096 bodies in each mirror queue (R416), every setting in force
or pending legal, a phase of Table SUP-7, and the commands in flight in the order of their numbers. -/
def Obligations.EveryStepKeepsSound : Prop := ∀ s t : State, Sound s → step s = .next t → Sound t

/-- The state after reset meets the invariant that every step keeps. -/
def Obligations.ResetIsSound : Prop := Sound State.reset

/-- At reset: start-up is in phase 1 (R423); every register holds its Reset column (R14); every granule is fresh, reads as zero and is
not poisoned (R185); the snag log and the views are empty (R410); no command, ring or request exists, the queue is empty and
nothing has been sent. -/
def Obligations.ResetValues : Prop :=
  State.reset.startup.phase = 1 ∧
  (∀ page reg, reg < 512 → State.reset.reg page reg = resetReg (blkOf page) reg % 2 ^ 64) ∧
  (∀ k, State.reset.byte k = 0 ∧ isFresh State.reset k = true ∧ isPoisoned State.reset k = false) ∧
  State.reset.log = [] ∧ (∀ p, (SMap.get {} State.reset.views p : View).ents = []) ∧
  (∀ k, (ring State.reset k).st = 0) ∧
  State.reset.cmds = [] ∧ State.reset.reqs = [] ∧ State.reset.pending = [] ∧ State.reset.out = []

/-- No command changes the queue (the model's own field, log 28), and none takes back anything the module has sent; the counts of free
values (log 8) and of random values (log 6) only grow.
The variant is fixed in fuses (R314), the vendor ID is, and the fused minimum SVN never falls (R426), whatever the command.
No command makes the timebase run back, but for a loss or return of the supply, which ends in a cold reset (R457, R458), and the
first lock to a time source, which steps it (R304). -/
def Obligations.QueueFusesAndTimebase : Prop :=
  (∀ (c : Instr) (s t : State), exec c s = .next t →
    t.pending = s.pending ∧ s.out <+: t.out ∧ s.draws ≤ t.draws ∧ s.freeIdx ≤ t.freeIdx) ∧
  (∀ (c : Instr) (s t : State), exec c s = .next t →
    t.flash.variantC = s.flash.variantC ∧ t.flash.worrunVid = s.flash.worrunVid ∧ s.flash.minSvn ≤ t.flash.minSvn) ∧
  (∀ (c : Instr) (s t : State), exec c s = .next t →
    c ≠ .powerInputInRange → (∀ h, c ≠ .powerInputOutOfRange h) →
    (∀ course time delay, c = .timingFlit course time delay → s.time.everLocked = true) → s.now ≤ t.now)

/-- A write that its requester may make, to a register with no row of its own: each RW field takes the value written, kept within its
clamp, a W1C bit written as 1 clears, and every other field keeps its value (R15, R444); no other register and nothing else changes. Where hardware would
have stored an RW field in the same pilot tick, software's value stands and the lost value is in notice 0x0305 with the
page and the register (R17).
A write of BLK_SNAP_TAG sets the requester's own VIEW bit and nothing else (R419). RING_BASE and RING_CPL ignore a write while the
ring's ENABLE is 1 (R343), and OPEN_CFG of the shared site one by a steering program (R445, log 36). A write to a register that has a
row of its own is that row. -/
def Obligations.RegisterWrites : Prop :=
  (∀ (who : Requester) (page reg : Nat) (val : Word) (hw : Option Word) (s : State), Sound s →
    page < pageCount → reg < 512 → plainReg page reg = true → accessOf s who page true = .ok →
    writeIgnored s who page reg = false →
    ∃ t, exec (.registerWrite who page reg val hw) s = .next t ∧
      (∀ f ∈ fieldsOf (blkOf page) reg, fld (t.reg page reg) f.hi f.lo =
        match f.acc with
        | .rw => f.clamp (fld val.toNat f.hi f.lo)
        | .w1c => fld (s.reg page reg) f.hi f.lo - (fld (s.reg page reg) f.hi f.lo &&& fld val.toNat f.hi f.lo)
        | .w1s => fld (s.reg page reg) f.hi f.lo ||| fld val.toNat f.hi f.lo
        | .ro | .wo => fld (s.reg page reg) f.hi f.lo) ∧
      (∀ g r, r < 512 → (homePage s g r ≠ homePage s page reg ∨ r ≠ reg) → r ≠ Reg.irqStat →
        ¬(blkOf g = .sec ∧ r = Reg.secObs) → t.reg g r = s.reg g r) ∧
      AsideFromEvents (s.setReg page reg (t.reg page reg)) t ∧
      ((hw = none ∨ isWritten page reg = false) → t = s.setReg page reg (t.reg page reg)) ∧
      (∀ v, hw = some v → isWritten page reg = true → (∀ c ∈ s.conns, c.queue.length ≤ 4088) →
        ∃ e ∈ t.log, e.code = 0x0305 ∧ e.part = (ownerOf s page).num ∧ e.d1 = ids16 [page, reg] ∧ e.d2 = v ∧ e.tLast = s.now)) ∧
  (∀ (who : Requester) (page : Nat) (val : Word) (s : State), page < pageCount → accessOf s who page true = .ok →
    (∃ t, exec (.registerWrite who page Reg.snapTag val none) s = .next t ∧ { t with snapView := s.snapView } = s ∧
      viewBit t who page = val.getLsbD 0 ∧
      ∀ n, n ≠ page * 32 + requesterNum who → SMap.get false t.snapView n = SMap.get false s.snapView n) ∧
    (∀ reg < 512, reg ≠ Reg.snapTag → plainReg page reg = true → writeIgnored s who page reg = true →
      exec (.registerWrite who page reg val none) s = .next s) ∧
    exec (.registerWrite who page Reg.irqEn val none) s = exec (.blkIrqEnWrite who page val 0) s ∧
    exec (.registerWrite who page Reg.irqStat val none) s = exec (.blkIrqStatClear who page val 0) s ∧
    (blkOf page = .qg → exec (.registerWrite who page Reg.qgSeed val none) s = exec (.qgSeedWrite who page val) s ∧
      exec (.registerWrite who page Reg.qgKeyStat val none) s = exec (.qgKeyClear who page val) s) ∧
    (blkOf page = .bnd → ∀ r < 96, exec (.registerWrite who page (Reg.bndMcast + r) val none) s =
      exec (.bndMcastWrite who page (Reg.bndMcast + r) val) s) ∧
    (blkOf page = .hod → exec (.registerWrite who page Reg.hodCompat val none) s = exec (.hodCompatWrite who page val) s) ∧
    (blkOf page = .trn →
      exec (.registerWrite who page Reg.trnLedgerCtl val none) s = exec (.trnLedgerCtlWrite who page val) s) ∧
    (blkOf page = .nar → exec (.registerWrite who page Reg.narShard val none) s = exec (.narShardWrite who page val none) s) ∧
    (blkOf page = .ring →
      exec (.registerWrite who page Reg.ringCtl val none) s = exec (.ringEnable who (instOf page) val) s ∧
      exec (.registerWrite who page Reg.ringDb val none) s = exec (.doorbell who (instOf page) val) s) ∧
    (blkOf page = .sec →
      exec (.registerWrite who page Reg.secSteerCtl val none) s = exec (.steerStart who (instOf page) val) s ∧
      exec (.registerWrite who page Reg.secSeal val none) s = exec (.secSealWrite who (instOf page) val) s) ∧
    (blkOf page = .ras → exec (.registerWrite who page Reg.rasLogCursor val none) s =
      exec (.rasLogCursorWrite who (instOf page) val) s) ∧
    (blkOf page = .sup → exec (.registerWrite who page Reg.supPartCtl val none) s =
      exec (.partitionReset who (instOf page) val) s))

/-- For every command that writes a register: in D3hot a host write is answered with Unsupported Request (R325); a write that the host
access setting denies is dropped and counted (R329); one to a page not in use, or by a steering program to a module-wide
page that it may only read, is ignored (R445, R448); one by a steering program outside its bounds stops the partition's hub
cores, ends their image and raises STEER_FAULT (R357). Nothing else changes. -/
def Obligations.WritesOutOfBounds : Prop :=
  ∀ (c : Instr) (who : Requester) (page : Nat) (s : State), s.settings.partitions ∈ [1, 2, 4] →
    regRow c = some (who, page) → page < pageCount →
    (accessOf s who page true = .unsupported → exec c s = .next (s.emit .unsupported)) ∧
    (accessOf s who page true = .denied → ∃ t, exec c s = .next t ∧ { t with regs := s.regs } = s ∧
      t.regFld 0 Reg.hstErr 31 16 = Nat.min 65535 (s.regFld 0 Reg.hstErr 31 16 + 1) ∧
      t.regFld 0 Reg.hstErr 15 0 = s.regFld 0 Reg.hstErr 15 0 ∧
      ∀ g r, r < 512 → (g ≠ 0 ∨ r ≠ Reg.hstErr) → t.reg g r = s.reg g r) ∧
    (accessOf s who page true = .void → exec c s = .next s) ∧
    (∀ p, accessOf s who page true = .trap p → ∃ t, exec c s = .next t ∧ AsideFromEvents (s.stopSteer p 2) t ∧
      (sec t p).steer = 2 ∧ (sec t p).imageKib = 0 ∧ SMap.get 0 t.hubGrps (steerGroup s p) = 0 ∧
      (t.reg (Blk.sec.page p) Reg.irqStat).testBit 2 = true)

/-- A read that the host access setting denies returns zero and counts (R329); in D3hot it is answered with Unsupported Request (R325);
without power nothing answers. A read that is allowed changes nothing and returns: every stored field as it stands (R15), WO
fields and reserved bits as zero (R439), RO fields live or, where the requester's VIEW bit is set, from the SNAP copy (R419);
a page of a partition number not in use reads PART 0xFE, HEALTH 3 and otherwise zero (R448). -/
def Obligations.RegisterReadShows : Prop :=
  ∀ (who : Requester) (page reg : Nat) (s : State), page < pageCount → reg < 512 →
    (s.startup.powered = false → exec (.registerRead who page reg) s = .next s) ∧
    (s.startup.powered = true →
      (accessOf s who page false = .unsupported → exec (.registerRead who page reg) s = .next (s.emit .unsupported)) ∧
      (accessOf s who page false = .denied → ∃ t, exec (.registerRead who page reg) s = .next t ∧
        t.out = s.out ++ [.regData who 0] ∧ { t with regs := s.regs, out := s.out } = s ∧
        t.regFld 0 Reg.hstErr 31 16 = Nat.min 65535 (s.regFld 0 Reg.hstErr 31 16 + 1)) ∧
      (accessOf s who page false = .ok → ∃ v : Word, exec (.registerRead who page reg) s = .next (s.emit (.regData who v)) ∧
        (pageUnused s page = true → 8 ≤ reg → v = 0) ∧
        (pageUnused s page = true → reg = 3 → v = 0xFE0000000000) ∧ (pageUnused s page = true → reg = 6 → v = 3) ∧
        (pageUnused s page = false → 8 ≤ reg → ¬(blkOf page = .nar ∧ reg = Reg.narShard) →
          (∀ f ∈ fieldsOf (blkOf page) reg,
            (f.acc = .rw ∨ f.acc = .w1c → fld v.toNat f.hi f.lo = fld (s.reg page reg) f.hi f.lo) ∧
            (f.acc = .wo → fld v.toNat f.hi f.lo = 0) ∧
            (f.acc = .ro → viewBit s who page = true → ownerOf s page ≠ .module →
              fld v.toNat f.hi f.lo = fld (copyOf s page reg (selValue s page reg)) f.hi f.lo)) ∧
          (∀ n < 64, (∀ f ∈ fieldsOf (blkOf page) reg, n < f.lo ∨ f.hi < n) → v.getLsbD n = false))))

/-- BLK_IRQ_EN takes the bits written and BLK_IRQ_STAT the events of the same tick; a message is due when an enabled bit stands set, or
becomes set while it was enabled (R446). A write of BLK_IRQ_STAT clears the bits written as 1, but one that hardware sets in
the same tick ends set and makes a message due when it is enabled (R16, R446); clearing makes none due. No other register
changes, and nothing else. -/
def Obligations.InterruptRegisters : Prop :=
  ∀ (who : Requester) (page : Nat) (val evt : Word) (s : State), page < pageCount → blkOf page ≠ .site →
    accessOf s who page true = .ok →
    (∃ t, exec (.blkIrqEnWrite who page val evt) s = .next t ∧
      t.reg page Reg.irqEn = val.toNat &&& irqMask page ∧
      t.reg page Reg.irqStat = s.reg page Reg.irqStat ||| (evt.toNat &&& irqMask page) ∧
      (∀ g r, r < 512 → r ≠ Reg.irqEn → r ≠ Reg.irqStat → t.reg g r = s.reg g r) ∧
      { t with regs := s.regs, pcie := { t.pcie with pba := s.pcie.pba }, out := s.out } = s ∧
      ((∃ n < 64, (irqMask page).testBit n = true ∧
          ((val.getLsbD n = true ∧ (t.reg page Reg.irqStat).testBit n = true) ∨
            (evt.getLsbD n = true ∧ (s.reg page Reg.irqStat).testBit n = false ∧ (s.reg page Reg.irqEn).testBit n = true))) →
        MessageDue s t (ownerOf s page).vector)) ∧
    (∃ t, exec (.blkIrqStatClear who page val evt) s = .next t ∧
      (∀ n < 64, (t.reg page Reg.irqStat).testBit n =
        (((s.reg page Reg.irqStat).testBit n && !(val.getLsbD n && (irqMask page).testBit n)) ||
          (evt.getLsbD n && (irqMask page).testBit n))) ∧
      (∀ g r, r < 512 → r ≠ Reg.irqStat → t.reg g r = s.reg g r) ∧
      { t with regs := s.regs, pcie := { t.pcie with pba := s.pcie.pba }, out := s.out } = s ∧
      (evt = 0 → t.out = s.out ∧ t.pcie = s.pcie) ∧
      ((∃ n < 64, (irqMask page).testBit n = true ∧ evt.getLsbD n = true ∧ (s.reg page Reg.irqEn).testBit n = true ∧
          ((s.reg page Reg.irqStat).testBit n = false ∨ val.getLsbD n = true)) →
        MessageDue s t (ownerOf s page).vector))

/-- An aligned write of a word of the MSI-X table stores it (its vector control word keeps the mask bit alone) and leaves every other
word (R450); a read returns the word. A BAR0 access of another size outside the table and the pending bits counts in HST_ERR,
raises REG_ACCESS and reads as ones (R327). A change of Bus Master Enable or of the D state changes that bit alone, and each
pending message that can leave leaves (R324). -/
def Obligations.MsixAndConfiguration : Prop :=
  ∀ (s : State), Sound s →
    (∀ (off : Nat) (val : Word), s.pcie.d3hot = false → off % 4 = 0 → inMsixTable off = true →
      ∃ t u, exec (.msixTableAccess (.write off 4 val)) s = .next t ∧ PendingSent u t ∧
        { u with pcie := { u.pcie with msix := s.pcie.msix } } = s ∧
        (∀ i, msixWord u i = if i = (off - 0x20000) / 4 then
          BitVec.ofNat 32 (if i % 4 = 3 then val.toNat % 2 else val.toNat % 2 ^ 32) else msixWord s i)) ∧
    (∀ off, s.pcie.d3hot = false → off % 4 = 0 → inMsixTable off = true →
      exec (.msixTableAccess (.read off 4)) s =
        .next (s.emit (.msixData (BitVec.ofNat 64 (msixWord s ((off - 0x20000) / 4)).toNat)))) ∧
    (∀ (write : Bool) (off size : Nat), s.pcie.d3hot = false → inMsixTable off = false → inMsixPba off = false →
      ∃ t, exec (.bar0MissizedAccess write off size) s = .next t ∧
        AsideFromEvents (s.setRegFld 0 Reg.hstErr 15 0 (Nat.min 65535 (s.regFld 0 Reg.hstErr 15 0 + 1))) t ∧
        t.regFld 0 Reg.hstErr 15 0 = Nat.min 65535 (s.regFld 0 Reg.hstErr 15 0 + 1) ∧
        (t.reg 0 Reg.irqStat).testBit 0 = true ∧ (write = false → t.out.getLast? = some (.allOnes size))) ∧
    (∀ on, ∃ t u, exec (.busMasterEnableChange on) s = .next t ∧ PendingSent u t ∧
      u = { s with pcie := { s.pcie with bme := on } }) ∧
    (∀ d, ∃ t u, exec (.pmStateChange d) s = .next t ∧ PendingSent u t ∧
      u = { s with pcie := { s.pcie with d3hot := d } })

/-- In D3hot the SVT-24 answers every BAR access with Unsupported Request, and nothing else changes. Entering D3hot or returning to D0
leaves every command in flight, and all else but the D state and messages that were held, as it was. -/
def Obligations.D3hotAnswersUnsupported : Prop :=
  (∀ (c : Instr) (s : State), s.pcie.d3hot = true → s.startup.powered = true → barAccess c = true →
    exec c s = .next (s.emit .unsupported)) ∧
  (∀ (d : Bool) (s : State), ∃ t, exec (.pmStateChange d) s = .next t ∧ t.pcie.d3hot = d ∧ t.cmds = s.cmds ∧
    { t with pcie := { t.pcie with d3hot := s.pcie.d3hot, pba := s.pcie.pba }, out := s.out } = s)

/-- QG_SEED takes the seed and sets VALID through any alias of the partition; a write of 1 to CLEAR sets the seed and VALID to 0, a write
of 0 changes nothing (R67). BND_MCAST and HOD_COMPAT take a write by the partition's steering program and ignore and count
one by the host (R111, R134). Only those registers change.
A hub core's write to the guard table that touches bytes of CONFIG words alone stores them and leaves every other field and slot;
any other write to the table stores nothing and traps (R58, R357). A core of Worrun firmware changes nothing here. -/
def Obligations.SeedSteeringAndGuardRegisters : Prop :=
  (∀ (who : Requester) (page : Nat) (val : Word) (s : State),
    (blkOf page = .qg → accessOf s who page true = .ok →
      (∃ t, exec (.qgSeedWrite who page val) s = .next t ∧ t.reg page Reg.qgSeed = val.toNat ∧
        t.regFld page Reg.qgKeyStat 0 0 = 1 ∧ { t with regs := s.regs } = s ∧
        ∀ g r, r < 512 → r ≠ Reg.qgSeed → r ≠ Reg.qgKeyStat → t.reg g r = s.reg g r) ∧
      (∃ t, exec (.qgKeyClear who page val) s = .next t ∧ { t with regs := s.regs } = s ∧
        (val.getLsbD 1 = true → t.reg page Reg.qgSeed = 0 ∧ t.reg page Reg.qgKeyStat = 0 ∧
          ∀ g r, r < 512 → r ≠ Reg.qgSeed → r ≠ Reg.qgKeyStat → t.reg g r = s.reg g r) ∧
        (val.getLsbD 1 = false → t = s))) ∧
    (∀ core p, who = .hub core → partOfHubCore s core = some p → ownerOf s page = .part p →
      (blkOf page = .bnd → ∀ reg, Reg.bndMcast ≤ reg → reg < Reg.bndMcast + 96 →
        ∃ t, exec (.bndMcastWrite who page reg val) s = .next t ∧ { t with regs := s.regs } = s ∧
          t.reg page reg = writeFields (fieldsOf .bnd reg) (s.reg page reg) val.toNat % 2 ^ 64 ∧
          ∀ g r, r < 512 → (homePage s g r ≠ homePage s page reg ∨ r ≠ reg) → t.reg g r = s.reg g r) ∧
      (blkOf page = .hod → ∃ t, exec (.hodCompatWrite who page val) s = .next t ∧ { t with regs := s.regs } = s ∧
        t.regFld page Reg.hodCompat 0 0 = val.toNat % 2 ∧
        ∀ g r, r < 512 → r ≠ Reg.hodCompat → t.reg g r = s.reg g r)) ∧
    (s.pcie.d3hot = false →
      (blkOf page = .bnd → ∀ reg, Reg.bndMcast ≤ reg → reg < Reg.bndMcast + 96 →
        exec (.bndMcastWrite .host page reg val) s = .next s.denied) ∧
      (blkOf page = .hod → exec (.hodCompatWrite .host page val) s = .next s.denied))) ∧
  (∀ (core off : Nat) (data : List Byte) (s : State), s.settings.partitions ∈ [1, 2, 4] →
    (∀ p, partOfHubCore s core = some p →
      off + data.length ≤ 131072 → (∀ i < data.length, isConfigByte (off + i) = true) →
        ∃ t, exec (.guardConfigWrite core off data) s = .next t ∧ { t with guards := s.guards } = s ∧
          (∀ q i, { guard t q i with config := (guard s q i).config } = guard s q i) ∧
          (data = [] → t.guards = s.guards) ∧
          (∀ b, data = [b] → (guard t p (off / 128)).config = setConfigByte (guard s p (off / 128)).config (off % 4) b)) ∧
    (∀ p, partOfHubCore s core = some p →
      (131072 < off + data.length ∨ ∃ i < data.length, isConfigByte (off + i) = false) →
        ∃ t, exec (.guardConfigWrite core off data) s = .next t ∧ AsideFromEvents (s.stopSteer p 2) t ∧
          (sec t p).steer = 2 ∧ (core < 16 → (t.reg (Blk.sec.page p) Reg.irqStat).testBit 2 = true)) ∧
    (partOfHubCore s core = none → exec (.guardConfigWrite core off data) s = .next s))

/-- For every row that takes a command off its ring, when no command of it is still to start and the ring does not keep its command
back (R136, R417, Table NMU-1): with nothing to take nothing is taken, and only a fetch of the next slot's slab may be queued;
a command of another row stays. A slot that reads poisoned ends with DATA_POISONED, and one that the envelope checks refuse
with their status; HEAD and SEQ advance, the slot is in use, the open ledger record notes the command, and nothing else but
what a command's end touches changes (R335, R336, R344). -/
def Obligations.RingsTakeTheNextSlot : Prop :=
  ∀ (s : State) (i : Instr) (cls sub k : Nat), Sound s → ringRow i = some (cls, sub, k) → ringHeld s i = false →
    unstartedOf cls sub s k = none →
    (nextOf s k = none → ∃ t, exec i s = .next t ∧ { t with tiers := s.tiers } = s ∧
      ((ring s k).st ≠ 1 ∨ (ring s k).head = (ring s k).tail → t = s)) ∧
    (∀ b, nextOf s k = some b → slotPoisoned s k (ring s k).head = false → rowTakes cls sub b = false →
      exec i s = .next s) ∧
    (∀ b st, nextOf s k = some b →
      ((slotPoisoned s k (ring s k).head = true ∧ st = St.dataPoisoned) ∨
        (slotPoisoned s k (ring s k).head = false ∧ rowTakes cls sub b = true ∧ envStatus s k b = some st)) →
      ∃ t, exec i s = .next t ∧ EndedWith t s.nextCmd st ∧ CmdFrame (s.take_ k b) t ∧
        ring t k = { ring s k with
          head := ((ring s k).head + 1) % ringSize s k, seq := ((ring s k).seq + 1) % 2 ^ 32
          busy := (ring s k).busy ++ [(ring s k).head] } ∧
        (∀ j, j ≠ k → ring t j = ring s j) ∧ (∀ a, t.byte a = s.byte a) ∧
        ledger t (partOfRing s k) = (if (ledger s (partOfRing s k)).openAt.isSome then
          { ledger s (partOfRing s k) with
            cmds := (ledger s (partOfRing s k)).cmds + 1, hashes := (ledger s (partOfRing s k)).hashes ++ [(k, b)] }
          else ledger s (partOfRing s k)))

/-- For every row that takes a command off its ring: a command whose turn has come, whose tables can be read and one of whose class
checks fails ends with that check's status and has none of its operation's effect: beside what a command's end touches,
only events and their counts differ (a MISPLACED or SLOT_DENIED event, CTR_OVERRUN, LADDER). -/
def Obligations.ClassChecksRefuse : Prop :=
  ∀ (s v : State) (i : Instr) (cls sub k st : Nat) (c : Cmd), Sound s → ringRow i = some (cls, sub, k) →
    ringHeld s i = false → Arrives cls sub k s v c → rowNeed cls sub v c = [] → rowCheck cls sub v c = some st →
    (rowAtOnce cls sub = true → waitsBehind v c = false) →
    ∃ u t, exec i s = .next t ∧ CmdFrame v u ∧ AsideFromEvents u t ∧ EndedWith t c.id st

/-- For every row that takes a command off its ring: where a table lies in a slab without a ready copy the command waits on slab-ready
with a fetch of each such slab queued or under way, or ends with TIER_UNREACHABLE when one cannot be fetched (R99, R253,
R254). One behind unfinished work of its contexts stays unstarted (R144, R146); one with no free context waits as for
admission (R126, R144); one that needs a sleeping cluster stays until it wakes (R388). Nothing else changes. -/
def Obligations.CommandsWaitForTheirStart : Prop :=
  ∀ (s v : State) (i : Instr) (cls sub k : Nat) (c : Cmd), Sound s → ringRow i = some (cls, sub, k) →
    ringHeld s i = false → Arrives cls sub k s v c →
    let need := rowNeed cls sub v c
    let waking := (v.wantClusters (reaches v c)).2
    (need ≠ [] → ∃ t, exec i s = .next t ∧ CmdFrame v t ∧
      ((∃ n ∈ need, unreachable v c.part n = true) → EndedWith t c.id St.tierUnreachable) ∧
      ((∀ n ∈ need, unreachable v c.part n = false) → (∃ w, Waits t c.id (.slabReady w)) ∧
        ∀ n ∈ need, (frameOf v c.part n).isSome = true ∨ ∃ j ∈ (tier t c.part).jobs, j.slab = n ∧ j.wb = false)) ∧
    (need = [] → rowAtOnce cls sub = true → waitsBehind v c = true → ∃ t d, exec i s = .next t ∧ CmdFrame v t ∧
      t.cmd? c.id = some d ∧ d.status = none ∧ d.checked = false) ∧
    (need = [] → rowAtOnce cls sub = true → waitsBehind v c = false → rowCheck cls sub v c = none →
      (canBind v c.ring (cmdCores v c.part c.bits) = false ∨ heldBack v c = true) → ∃ t, exec i s = .next t ∧
        CmdFrame v t ∧ Waits t c.id .admission) ∧
    (need = [] → rowAtOnce cls sub = true → waitsBehind v c = false → rowCheck cls sub v c = none →
      canBind v c.ring (cmdCores v c.part c.bits) = true → heldBack v c = false → waking = true →
      ∃ t d, exec i s = .next t ∧ CmdFrame v t ∧ t.cmd? c.id = some d ∧ d.status = none ∧ d.checked = false ∧ d.wait = .none)

/-- When each starts: SEM_INIT sets CAP and RANK and clears POISON; SEM_ACQUIRE takes a free unit when nobody waits, with LOCK_POISONED
on a poisoned semaphore, and else waits last in line (R153, R156); SEM_TRY takes a unit with RESULT 1 or ends with its
RESULT unchanged; SEM_RELEASE gives the unit back, to the first waiter if there is one; SEM_CLEAR_POISON clears POISON (R150).
Every other semaphore keeps its count, rank, holders and poison, no pair changes, and memory, the rings and all else stay.
When each starts: CTR_INIT sets both counts to 0, the rank, and clears POISON; CTR_CLAIM gives the pair to the issuing context, with
LOCK_POISONED while POISON is set; CTR_UNCLAIM ends the claim; CTR_POST adds VALUE to the issued count and serves the first
waiting take that this satisfies; CTR_TAKE ends at once with LOCK_POISONED on a poisoned pair, takes VALUE when it is
available and nobody waits, and else waits last in line (R150, R153, R157). Other pairs keep their counts, rank, claim and
poison, semaphores theirs, and memory, the rings and all else stay. -/
def Obligations.SemaphoresAndCounters : Prop :=
  (∀ (s u : State) (k : Nat) (x : Cmd), Sound s →
    let j := semOf s x
    let n := ctxInCluster (cmdCtx u x)
    let bare (m : Sem) : Sem := { m with waiters := [] }
    let others (t : State) : Prop := CmdFrame u t ∧ (∀ i, i ≠ j → bare (sem t i) = bare (sem s i)) ∧
      ∀ i, { ctr t i with waiters := [] } = { ctr s i with waiters := [] }
    (Starts true 4 0x01 k noNeed syncCheck s u x → ∃ t, exec (.semInit k) s = .next t ∧ EndedWith t x.id St.done ∧
      sem t j = { sem s j with cap := syncValue x.bits, rank := syncRank x.bits, poison := false } ∧ others t) ∧
    (Starts true 4 0x02 k noNeed syncCheck s u x → ∃ t, exec (.semAcquire k) s = .next t ∧ others t ∧
      ((sem s j).free = true ∧ (sem s j).waiters = [] →
        EndedWith t x.id (if (sem s j).poison then St.lockPoisoned else St.done) ∧
        bare (sem t j) = bare { sem s j with holders := (sem s j).holders ||| ((1 : BitVec 32) <<< n) }) ∧
      (¬((sem s j).free = true ∧ (sem s j).waiters = []) →
        (∃ c, t.cmd? x.id = some c ∧ c.wait = .sem ∧ c.status = none) ∧
        sem t j = { sem s j with waiters := (sem s j).waiters ++ [(n, x.id)] })) ∧
    (Starts true 4 0x03 k noNeed syncCheck s u x → ∃ t c, exec (.semTry k) s = .next t ∧ t.cmd? x.id = some c ∧ others t ∧
      ((sem s j).free = true ∧ (sem s j).waiters = [] ∧ (sem s j).holds n = false →
        c.result = 1 ∧ c.status = some (if (sem s j).poison then St.lockPoisoned else St.done) ∧
        bare (sem t j) = bare { sem s j with holders := (sem s j).holders ||| ((1 : BitVec 32) <<< n) }) ∧
      (¬((sem s j).free = true ∧ (sem s j).waiters = [] ∧ (sem s j).holds n = false) →
        c.result = x.result ∧ c.status = some St.done ∧ sem t j = sem s j)) ∧
    (Starts true 4 0x04 k noNeed syncCheck s u x → (∀ w ∈ (sem s j).waiters, w.2 ≠ x.id) →
      ∃ t, exec (.semRelease k) s = .next t ∧ EndedWith t x.id St.done ∧ others t ∧
      ((sem s j).waiters = [] → sem t j = { sem s j with holders := (sem s j).holders &&& ~~~((1 : BitVec 32) <<< n) }) ∧
      (∀ w ws, (sem s j).waiters = w :: ws →
        popCount 32 ((sem s j).holders &&& ~~~((1 : BitVec 32) <<< n)).toNat < (sem s j).cap → w.1 < 32 →
        (sem t j).holders.getLsbD w.1 = true ∧ (sem t j).waiters.Sublist ws)) ∧
    (Starts true 4 0x05 k noNeed syncCheck s u x → ∃ t, exec (.semClearPoison k) s = .next t ∧ EndedWith t x.id St.done ∧
      sem t j = { sem s j with poison := false } ∧ others t)) ∧
  (∀ (s u : State) (k : Nat) (x : Cmd), Sound s →
    let own := ownCtrOf s x
    let far := farCtrOf s x
    let v := syncValue x.bits
    let bare (m : Ctr) : Ctr := { m with waiters := [] }
    let others (j : Nat) (t : State) : Prop := CmdFrame u t ∧ (∀ i, i ≠ j → bare (ctr t i) = bare (ctr s i)) ∧
      ∀ i, { sem t i with waiters := [] } = { sem s i with waiters := [] }
    (Starts true 4 0x10 k noNeed syncCheck s u x → ∃ t, exec (.ctrInit k) s = .next t ∧ EndedWith t x.id St.done ∧
      ctr t own = { ctr s own with issued := 0, retired := 0, rank := syncRank x.bits, poison := false } ∧ others own t) ∧
    (Starts true 4 0x11 k noNeed syncCheck s u x → ∃ t, exec (.ctrClaim k) s = .next t ∧
      EndedWith t x.id (if (ctr s far).poison then St.lockPoisoned else St.done) ∧
      bare (ctr t far) = bare { ctr s far with claim := some (claimOf s (cmdCtx u x)) } ∧ others far t) ∧
    (Starts true 4 0x12 k noNeed syncCheck s u x → ∃ t, exec (.ctrUnclaim k) s = .next t ∧ EndedWith t x.id St.done ∧
      ctr t far = { ctr s far with claim := none } ∧ others far t) ∧
    (Starts true 4 0x13 k noNeed syncCheck s u x → (∀ w ∈ (ctr s far).waiters, w.2.1 ≠ x.id) →
      ∃ t, exec (.ctrPost k) s = .next t ∧ EndedWith t x.id St.done ∧ others far t ∧
      (ctr t far).issued = (ctr s far).issued + BitVec.ofNat 32 v ∧ (ctr t far).claim = (ctr s far).claim ∧
      ((ctr s far).waiters = [] → ctr t far = { ctr s far with issued := (ctr s far).issued + BitVec.ofNat 32 v }) ∧
      (∀ w ws, (ctr s far).waiters = w :: ws → (ctr s far).poison = false →
        w.2.2 ≤ ((ctr s far).issued + BitVec.ofNat 32 v - (ctr s far).retired).toNat → (ctr t far).waiters.Sublist ws)) ∧
    (Starts true 4 0x14 k noNeed syncCheck s u x → ∃ t, exec (.ctrTake k) s = .next t ∧ others own t ∧
      ((ctr s own).poison = true → EndedWith t x.id St.lockPoisoned ∧ bare (ctr t own) = bare (ctr s own)) ∧
      ((ctr s own).poison = false → (ctr s own).waiters = [] → v ≤ (ctr s own).avail →
        EndedWith t x.id St.done ∧ ctr t own = { ctr s own with retired := (ctr s own).retired + BitVec.ofNat 32 v }) ∧
      ((ctr s own).poison = false → ¬((ctr s own).waiters = [] ∧ v ≤ (ctr s own).avail) →
        (∃ c, t.cmd? x.id = some c ∧ c.wait = .ctr ∧ c.status = none) ∧
        ctr t own = { ctr s own with waiters := (ctr s own).waiters ++ [(ctxInCluster (cmdCtx u x), x.id, v)] })))

/-- A well-formed CTR_CLAIM, CTR_UNCLAIM or CTR_POST whose turn has come ends with PARTITION_FENCE when its CLUSTER lies outside the
issuing partition or names a retired cluster; no pair's counts, rank, claim or poison change, and nothing else does. -/
def Obligations.FencedPairs : Prop :=
  ∀ (s v : State) (k op : Nat) (c : Cmd), Sound s → op ∈ [0x11, 0x12, 0x13] → Arrives 4 op k s v c →
    syncOp c.bits = op → waitsBehind v c = false → syncMalformed c.bits = false →
    (clustersPer v ≤ syncCluster c.bits ∨ clusterRetired v (clusterAt v c.part (syncCluster c.bits)) = true) →
    ∃ t, exec (if op = 0x11 then .ctrClaim k else if op = 0x12 then .ctrUnclaim k else .ctrPost k) s = .next t ∧
      EndedWith t c.id St.fence ∧ CmdFrame v t ∧ ∀ i, { ctr t i with waiters := [] } = { ctr s i with waiters := [] }

/-- RETIRE that starts frees every context of its ring on its cores: each is unbound, and its units and claims are released poisoned
(R145, R155); the command ends with DONE, and memory and every other ring stay. LINTEL that starts waits at the barrier
(R158), and nothing but its waiting and the barrier's arrivals changes.
Once every member of the generation has arrived, LINTEL_COMPLETE ends each arrived LINTEL command with DONE, counts GEN, puts the
pending DET, TRACE and compatibility modes in force and leaves no generation in progress (R158, R159); clusters whose
pointing period has elapsed run their barrier then (R161). Before that it notes arrivals only. LINTEL_TIMEOUT after the
limit ends the arrived commands with STALL_ABORTED, counts GEN and raises LINTEL_TIMEOUT; it does nothing to a generation
that has not begun, is in time or is complete (R160). Memory stays. -/
def Obligations.RetireAndLintelBarriers : Prop :=
  (∀ (s u : State) (k : Nat) (x : Cmd), Sound s →
    (Starts true 4 0x30 k noNeed syncCheck s u x → ∃ t, exec (.retire k) s = .next t ∧
      (∀ n ∈ cmdCtxs u x, (ctx t n).ring = none ∧ (ctx t n).st = 0 ∧
        (∀ i, i / 2048 = ctxCluster n → (sem u i).holds (ctxInCluster n) = true →
          (sem u i).waiters = [] → (sem t i).holds (ctxInCluster n) = false ∧ (sem t i).poison = true)) ∧
      (∃ c, t.cmd? x.id = some c ∧ c.status.isSome = true) ∧ (∀ a, t.byte a = s.byte a) ∧
      ∀ i, i ≠ k → ring t i = ring u i) ∧
    (Starts true 4 0x20 k noNeed syncCheck s u x → ∃ t, exec (.lintel k) s = .next t ∧ CmdFrame u t ∧
      (∃ c, t.cmd? x.id = some c ∧ c.wait = .lintel ∧ c.status = none) ∧ t.sems = s.sems ∧ t.ctrs = s.ctrs ∧
      ∀ p, p ≠ x.part → lintelOf t p = lintelOf s p)) ∧
  (∀ (s : State) (p now : Nat), Sound s → p < s.settings.partitions →
    let v := (s.at_ now).lintelArrivals p
    (lintelFull v p = true → ∃ t, exec (.lintelComplete p now) s = .next t ∧
      (∀ a ∈ (lintelOf v p).arrived, ∀ c, v.cmd? a.2 = some c → c.status = none → EndedWith t a.2 St.done) ∧
      t.regFld (synHome s p) Reg.synLintelCtl 63 32 = (s.regFld (synHome s p) Reg.synLintelCtl 63 32 + 1) % 2 ^ 32 ∧
      (lintelOf t p).mask = none ∧ (lintelOf t p).arrived = [] ∧ (lintelOf t p).first = none ∧
      (ledger t p).detOn = (ledger s p).detPend ∧ (ledger t p).traceOn = (ledger s p).tracePend ∧
      compatOn t p = (s.reg (Blk.hod.page (firstCluster s p)) Reg.hodCompat).testBit 0 ∧
      (∀ c ∈ clustersOf s p, pointElapsed v c = true → (cluster t c).pointStart = t.now ∧ (cluster t c).pointDue = false) ∧
      ∀ k, t.byte k = s.byte k) ∧
    (lintelFull v p = false → exec (.lintelComplete p now) s = .next v) ∧
    (∀ f, (lintelOf v p).first = some f → f + 1000000 * s.regFld (synHome s p) Reg.synLintelCtl 13 0 ≤ v.now →
      lintelFull v p = false → ∃ t, exec (.lintelTimeout p now) s = .next t ∧
      (∀ a ∈ (lintelOf v p).arrived, ∀ c, v.cmd? a.2 = some c → c.status = none → EndedWith t a.2 St.stallAborted) ∧
      (t.reg (synHome s p) Reg.irqStat).testBit 1 = true ∧
      t.regFld (synHome s p) Reg.synLintelCtl 63 32 = (s.regFld (synHome s p) Reg.synLintelCtl 63 32 + 1) % 2 ^ 32 ∧
      (lintelOf t p).first = none ∧ ∀ k, t.byte k = s.byte k) ∧
    (((lintelOf v p).first = none ∨ lintelFull v p = true ∨
      ∃ f, (lintelOf v p).first = some f ∧ v.now < f + 1000000 * s.regFld (synHome s p) Reg.synLintelCtl 13 0) →
      exec (.lintelTimeout p now) s = .next v))

/-- A period that has passed makes the barrier due, and from the 17th on counts MISSED (R162). At the barrier each pair of the cluster
that has no waiter and whose counts agree goes to 0 and 0; one whose counts differ keeps them and DRIFT is raised; pairs
with a waiter and pairs of other clusters keep theirs. The period restarts and RUNS counts (R161). Where no period has
elapsed, or the cluster is not quiet, nothing changes but the time.
A usable core on which no context runs begins to switch to its best runnable context: highest priority, then longest runnable,
then lowest number; one whose running context is busy and not at a boundary, or that has nothing runnable, is retired or
asleep, or already switches, keeps as it is (R147). At the end of the switch the context holds the core and SWITCHES
counts (R148). -/
def Obligations.PointingAndContextSwitches : Prop :=
  (∀ (s : State) (cl now : Nat), Sound s → cl < 48 →
    let v := s.at_ now
    let period := s.regFld (Blk.syn.page cl) Reg.synPointCtl 19 0 * 1000
    ((cluster s cl).pointStart + ((cluster s cl).pointPassed + 1) * period ≤ v.now →
      ∃ t, exec (.pointingPeriodExpiry cl now) s = .next t ∧ (cluster t cl).pointDue = true ∧
        (cluster t cl).pointPassed = (cluster s cl).pointPassed + 1 ∧
        { t with clusters := s.clusters, regs := s.regs, now := s.now } = s ∧
        (16 ≤ (cluster s cl).pointPassed → t.regFld (Blk.syn.page cl) Reg.synPointCnt 63 48 =
          Nat.min 65535 (s.regFld (Blk.syn.page cl) Reg.synPointCnt 63 48 + 1)) ∧
        ((cluster s cl).pointPassed < 16 → t.regs = s.regs)) ∧
    (v.now < (cluster s cl).pointStart + ((cluster s cl).pointPassed + 1) * period →
      exec (.pointingPeriodExpiry cl now) s = .next v) ∧
    (pointElapsed v cl = true → clusterQuiet v cl = true → ∃ t, exec (.pointingBarrier cl now) s = .next t ∧
      (cluster t cl).pointStart = v.now ∧ (cluster t cl).pointDue = false ∧ (cluster t cl).pointPassed = 0 ∧
      (∀ i < 512, (ctr s (ctrKey cl i)).waiters = [] → (ctr s (ctrKey cl i)).issued = (ctr s (ctrKey cl i)).retired →
        ctr t (ctrKey cl i) = { ctr s (ctrKey cl i) with issued := 0, retired := 0 }) ∧
      (∀ j, (j / 512 ≠ cl ∨ (ctr s j).waiters ≠ [] ∨ (ctr s j).issued ≠ (ctr s j).retired) → ctr t j = ctr s j) ∧
      ((∃ i < 512, (ctr s (ctrKey cl i)).waiters = [] ∧ (ctr s (ctrKey cl i)).issued ≠ (ctr s (ctrKey cl i)).retired) →
        (t.reg (Blk.syn.page cl) Reg.irqStat).testBit 0 = true) ∧
      t.sems = s.sems ∧ t.cmds = s.cmds ∧ t.mem = s.mem) ∧
    ((pointElapsed v cl = false ∨ clusterQuiet v cl = false) → exec (.pointingBarrier cl now) s = .next v)) ∧
  (∀ (s : State) (core : Nat), Sound s → core < 384 →
    (∀ n ∈ runnable s core, (∀ m ∈ runnable s core, m ≠ n → better s m n = false) → (coreCtx s core).switchTo = none →
      coreUsable s core = true → (coreCtx s core).running = none → ∃ t, exec (.contextSwitch core) s = .next t ∧
        (coreCtx t core).switchTo = some n ∧ (coreCtx t core).running = none ∧ { t with cores := s.cores } = s ∧
        ∀ j, j ≠ core → coreCtx t j = coreCtx s j) ∧
    (∀ r, (coreCtx s core).running = some r → ctxBusy s r = true →
      (∀ n ∈ runnable s core, (coreCtx s core).boundary = false ∨ (ctx s n).prio ≤ (ctx s r).prio) →
      exec (.contextSwitch core) s = .next s) ∧
    (∀ r n, (coreCtx s core).running = some r → ctxBusy s r = true → (coreCtx s core).boundary = true →
      runnable s core = [n] → n ≠ r → r / 4 = core → (ctx s r).prio < (ctx s n).prio →
      (coreCtx s core).switchTo = none → coreUsable s core = true → ∃ t, exec (.contextSwitch core) s = .next t ∧
        (coreCtx t core).switchTo = some n ∧ (ctx t r).st = 2 ∧ (ctx t r).since = s.now ∧ t.mem = s.mem ∧ t.cmds = s.cmds) ∧
    ((runnable s core = [] ∨ coreUsable s core = false ∨ (coreCtx s core).switchTo.isSome = true) →
      exec (.contextSwitch core) s = .next s) ∧
    (∀ n, (coreCtx s core).switchTo = some n → ∃ t, exec (.contextSwitchEnd core) s = .next t ∧
      (coreCtx t core).running = some n ∧ (coreCtx t core).switchTo = none ∧ (ctx t n).st = 1 ∧
      t.regFld (Blk.syn.page (core / 8)) Reg.synSwitches 31 0 =
        Nat.min (2 ^ 32 - 1) (s.regFld (Blk.syn.page (core / 8)) Reg.synSwitches 31 0 + 1) ∧
      { t with cores := s.cores, ctxs := s.ctxs, coreDoms := s.coreDoms, regs := s.regs } = s) ∧
    ((coreCtx s core).switchTo = none → exec (.contextSwitchEnd core) s = .next s))

/-- When each starts: FETCH ends with DONE when every slab is resident, with TIER_UNREACHABLE when a missing one cannot be reached, and
else waits on slab-ready with a fetch of each missing slab queued or under way; FLUSH and EVICT end with DONE when there is
nothing to do and else wait with each dirty copy's write-back queued; EVICT of a clean unpinned copy, and DROP of an unpinned
one, free its frame and end; ALLOC waits with each slab's allocation queued; BIND binds every slab of the range and no other
(R253, R254, R257, R259, R260, R265). Memory stays, but for the frames that EVICT and DROP free. -/
def Obligations.TierCommands : Prop :=
  ∀ (s u : State) (k : Nat) (x : Cmd), Sound s →
    let p := x.part
    let slabs := tierRange x.bits
    let gone := slabs.filter (fun n => !resident u p n)
    let free (n f : Nat) (fr : Frame) : Prop := slabs = [n] ∧ frameOf u p n = some (f, fr) ∧ fr.ready = true ∧ fr.wb = false ∧
      framePinned u p fr = false ∧ ∀ e ∈ (tier u p).frames, ∀ g, e.2 = some g → g.slab = n → e.1 = f
    let freed (t : State) (n : Nat) : Prop := frameOf t p n = none ∧ EndedWith t x.id St.done ∧
      ∀ a, (∀ e ∈ (tier u p).frames, a / 65536 ≠ frameKey u p e.1 / 65536) → t.byte a = u.byte a
    (Starts true 6 1 k noNeed tierCheck s u x → ∃ t, exec (.fetch k) s = .next t ∧ CmdFrame u t ∧
      (gone = [] → EndedWith t x.id St.done) ∧
      ((∃ n ∈ gone, unreachable u p n = true) → EndedWith t x.id St.tierUnreachable) ∧
      (gone ≠ [] → (∀ n ∈ gone, unreachable u p n = false) →
        (∃ c, t.cmd? x.id = some c ∧ c.status = none ∧ c.wait = .slabReady u.now ∧ c.covers = gone) ∧
        ∀ n ∈ gone, (frameOf u p n).isSome = true ∨ ∃ j ∈ (tier t p).jobs, j.slab = n ∧ j.wb = false)) ∧
    (Starts true 6 2 k noNeed tierCheck s u x → ∃ t, exec (.flush k) s = .next t ∧ CmdFrame u t ∧
      (dirtyIn u x = [] → EndedWith t x.id St.done) ∧
      ((∃ n ∈ dirtyIn u x, bridgeFaulted u (bridgeOf u p n) = true) → EndedWith t x.id St.tierUnreachable) ∧
      (dirtyIn u x ≠ [] → (∀ n ∈ dirtyIn u x, bridgeFaulted u (bridgeOf u p n) = false) →
        (∃ c, t.cmd? x.id = some c ∧ c.status = none ∧ c.wait = .tier ∧ c.covers = dirtyIn u x) ∧
        ∀ n ∈ dirtyIn u x, ∃ j ∈ (tier t p).jobs, j.slab = n ∧ j.wb = true)) ∧
    (Starts true 6 3 k noNeed tierCheck s u x → ∃ t, exec (.evict k) s = .next t ∧
      ((∃ n ∈ dirtyIn u x, bridgeFaulted u (bridgeOf u p n) = true) → EndedWith t x.id St.tierUnreachable ∧ CmdFrame u t) ∧
      ((∀ n ∈ slabs, frameOf u p n = none) → EndedWith t x.id St.done) ∧
      (∀ n f fr, free n f fr → fr.dirty = false → freed t n)) ∧
    (Starts true 6 4 k noNeed tierCheck s u x → ∃ t, exec (.drop k) s = .next t ∧
      ((∀ n ∈ slabs, frameOf u p n = none) → EndedWith t x.id St.done) ∧ (∀ n f fr, free n f fr → freed t n)) ∧
    (Starts true 6 5 k noNeed tierCheck s u x → ∃ t, exec (.alloc k) s = .next t ∧ CmdFrame u t ∧
      (∃ c, t.cmd? x.id = some c ∧ c.status = none ∧ c.wait = .tier ∧ c.covers = slabs) ∧
      (tier t p).jobs = (tier u p).jobs ++ slabs.map (fun n => { slab := n, cls := 3, alloc := true, cmd := some x.id })) ∧
    (Starts true 6 6 k noNeed tierCheck s u x → ∃ t, exec (.bind k) s = .next t ∧ CmdFrame u t ∧
      EndedWith t x.id St.done ∧
      (∀ n ∈ slabs, SMap.get none (tier t p).bound n = if tierTable x.bits = 255 then none else some (tierTable x.bits)) ∧
      (∀ n, n ∉ slabs → SMap.get none (tier t p).bound n = SMap.get none (tier u p).bound n) ∧
      (tier t p).slabs = (tier u p).slabs ∧ (tier t p).jobs = (tier u p).jobs)

/-- With one job and nothing to free first: a fetch takes a free frame of its slab's colour, which holds the slab and is not ready, and
counts in FETCHES; one that no bridge can serve is dropped, and its command ends with TIER_UNREACHABLE; a write-back of a
ready dirty copy starts to read it; a write-back of a copy that is clean has nothing to do. The job leaves the queue, and no
byte changes (R253, R254, R256, R257). In a partition that does not run, no job starts.
When a fetch ends without a rejected block, and nothing waits for the slab, its frame is ready: a slab stored RAW stands in it byte
for byte, one that is FRESH leaves the frame as it was, and no byte outside it changes (R253, R262). A command that has
waited on slab-ready longer than LIMIT_MS ends with TIER_UNREACHABLE and raises READY_TIMEOUT; one that has not stays
(R254). A write-back that ends leaves the copy clean unless it was written meanwhile, and counts; over a faulted bridge the copy
stays dirty and the storage stays as it is (R257). An ended or absent fetch or write-back changes nothing. -/
def Obligations.TierManager : Prop :=
  (∀ (s : State) (p : Nat) (j : TierJob), Sound s → p < s.settings.partitions → s.sweepFrames p = s → (tier s p).jobs = [j] →
    j.cls < 5 →
    (s.startup.part.getD p 1 ≠ 0 → exec (.slabFetch p) s = .next s) ∧
    (s.startup.part.getD p 1 = 0 →
      (∀ f, j.wb = false → j.alloc = false → j.cmd = none → j.cls ≠ 4 → frameOf s p j.slab = none →
        unreachable s p j.slab = false →
        freeFrame s p (colourOf s (65536 * j.slab)) (frameCount s p) (firstRow s p) = some f →
        ∃ t fr, exec (.slabFetch p) s = .next t ∧ SMap.get none (tier t p).frames f = some fr ∧ fr.slab = j.slab ∧
          fr.ready = false ∧ fr.dirty = false ∧ fr.pins = [] ∧ (tier t p).jobs = [] ∧
          t.regFld (tirPage s p) Reg.tirFetch 31 0 = Nat.min (2 ^ 32 - 1) (s.regFld (tirPage s p) Reg.tirFetch 31 0 + 1) ∧
          { t with tiers := s.tiers, regs := s.regs } = s) ∧
      (j.wb = false → j.alloc = false → frameOf s p j.slab = none → unreachable s p j.slab = true →
        ∃ t, exec (.slabFetch p) s = .next t ∧ (tier t p).jobs = [] ∧ CmdFrame s t ∧
          ∀ i c, j.cmd = some i → s.cmd? i = some c → c.status = none → EndedWith t i St.tierUnreachable) ∧
      (∀ f fr, j.wb = true → frameOf s p j.slab = some (f, fr) → fr.dirty = true → fr.ready = true → fr.wb = false →
        bridgeFaulted s (bridgeOf s p j.slab) = false →
        ∃ t, exec (.slabFetch p) s = .next t ∧ (tier t p).jobs = [] ∧
          SMap.get none (tier t p).frames f = some { fr with wb := true, redirty := false } ∧
          { t with tiers := s.tiers } = s) ∧
      (∀ f fr, j.wb = true → frameOf s p j.slab = some (f, fr) → fr.dirty = false →
        ∃ t, exec (.slabFetch p) s = .next t ∧ CmdFrame s t ∧ (tier t p).jobs = []))) ∧
  (∀ (s : State), Sound s →
    (∀ p slab f fr, frameOf s p slab = some (f, fr) → fr.ready = false → frameKey s p f + 65536 ≤ 2 ^ 48 →
      s.cmds = [] → s.pcie.accs = [] → s.site.reqs = [] → (ledger s p).late = [] → slabState s p slab ≤ 1 →
      ∃ t, exec (.slabReady p slab []) s = .next t ∧
        (∃ gr, SMap.get none (tier t p).frames f = some gr ∧ gr.ready = true ∧ gr.slab = fr.slab) ∧
        (slabState s p slab = 1 → ∀ i < 65536, t.byte (frameKey s p f + i) = s.byte (homeKey s p slab + i)) ∧
        (slabState s p slab = 0 → t.mem = s.mem ∧ t.written = s.written) ∧
        ∀ a, (a < frameKey s p f ∨ frameKey s p f + 65536 ≤ a) → t.byte a = s.byte a) ∧
    (∀ p slab r, (frameOf s p slab = none ∨ ∃ f fr, frameOf s p slab = some (f, fr) ∧ fr.ready = true) →
      exec (.slabReady p slab r) s = .next s) ∧
    (∀ id now c w, s.cmd? id = some c → c.wait = .slabReady w → c.status = none →
      let v := (partsAll s).foldl (fun u p => u.ledgerExpire p) (s.at_ now)
      (w + 1000000 * v.regFld (tirPage s c.part) Reg.tirReadyLim 13 0 < v.now →
        ∃ t, exec (.readyTimeout id now) s = .next t ∧ EndedWith t id St.tierUnreachable ∧
          (t.reg (tirPage s c.part) Reg.irqStat).testBit 0 = true ∧ t.mem = v.mem) ∧
      (v.now ≤ w + 1000000 * v.regFld (tirPage s c.part) Reg.tirReadyLim 13 0 →
        exec (.readyTimeout id now) s = .next v)) ∧
    (∀ p slab f fr, p < s.settings.partitions → frameOf s p slab = some (f, fr) → fr.wb = true →
      (bridgeFaulted s (bridgeOf s p slab) = true → ∃ t, exec (.writebackDone p slab) s = .next t ∧
        SMap.get none (tier t p).frames f = some { fr with wb := false, redirty := false } ∧ { t with tiers := s.tiers } = s) ∧
      (bridgeFaulted s (bridgeOf s p slab) = false → ∃ t, exec (.writebackDone p slab) s = .next t ∧
        t.regFld (tirPage s p) Reg.tirWb 63 0 = Nat.min (2 ^ 64 - 1) (s.regFld (tirPage s p) Reg.tirWb 63 0 + 1))) ∧
    (∀ p slab, (frameOf s p slab = none ∨ ∃ f fr, frameOf s p slab = some (f, fr) ∧ fr.wb = false) →
      exec (.writebackDone p slab) s = .next s))

/-- STEP_BEGIN that starts counts QG_STEP, or leaves it at the value that software wrote in the same tick (Table FMT-12), waits on the
guard push, and the push waits for every earlier command of the partition that names a guard slot (R60). With a record open
and its start in HBM, the record's 64-byte header is written as Table TRN-8 lays it out, the record counts and the next
one starts where it ended. With none open and the ledger off, memory stays. -/
def Obligations.StepBegin : Prop :=
  ∀ (s u : State) (k : Nat) (clash : Option Word) (x : Cmd), Sound s → Starts true 8 1 k noNeed ledgerCheck s u x →
    let p := x.part
    let l := ledger u p
    ∃ t, exec (.stepBegin k clash) s = .next t ∧ Waits t x.id .guard ∧
      stepOf t p = clash.getD (stepOf s p + 1) ∧
      (∃ ids, (ledger t p).pushWait = some (x.id, ids) ∧
        ∀ d ∈ u.cmds, d.part = p → d.id ≠ x.id → d.status = none → namesGuard d = true → d.id ∈ ids) ∧
      (l.openAt = none → ∀ a, t.byte a = s.byte a) ∧
      (l.openAt = none → (ledger t p).openAt = (if ledgerOn s p then some l.head else none)) ∧
      (∀ a, l.openAt = some a → l.late = [] →
        let y := addrOff (ledgerBase s p + a % 2 ^ 32)
        y + 64 ≤ hbmHomed s p → poisonedRange s p y 64 = false →
        t.bytes (key 0 p y) 64 =
          ([(l.units <<< 32) ||| ((bitIf l.det 0 + bitIf l.trace 1 + bitIf l.seed.isSome 2) <<< 24) ||| (1 <<< 16) ||| 0x1ED9,
            l.step.toNat, (l.seed.getD 0).toNat, (cmdHash u p).toNat, (collHash u p).toNat, l.tBegin, s.now,
            (Nat.min 65535 l.colls <<< 48) ||| (Nat.min 65535 l.inputs <<< 32) ||| Nat.min (2 ^ 32 - 1) l.cmds] : List Nat).flatMap
              (leBytes 8) ∧
        (∀ b, (b < key 0 p y ∨ key 0 p y + 64 ≤ b) → t.byte b = s.byte b) ∧
        (ledger t p).head = (a + 32 * l.units) % 2 ^ 32 ∧ (ledger t p).records = (l.records + 1) % 2 ^ 32 ∧
        (ledger t p).openAt = (if ledgerOn s p then some ((a + 32 * l.units) % 2 ^ 32) else none))

/-- Once the commands that STEP_BEGIN waits for have ended, each slot's CONFIG comes into force and its RESET bit clears; a slot whose
amax was written in the step pushes it into its history and takes a new SCALE from R61; a slot with RESET starts again with
no history and SCALE 1; any other keeps what it holds. A SCALE that cannot be formed raises SCALE_EVT. Slots of other
partitions and memory stay, and STEP_BEGIN ends. Before that, and with no STEP_BEGIN waiting, nothing happens.
The oldest tile that waits for its audit on the core is recomputed: each guard slot of its on-the-fly operands counts a sample, and
a fail when d of R65 exceeds LIMIT or is a NaN, and keeps the greater of its worst d and this one; a fail raises the audit
event. The tile leaves the list. No other slot changes, and no byte of memory. With none waiting nothing happens. -/
def Obligations.GuardPushAndAudit : Prop :=
  (∀ (s : State) (p : Nat), Sound s →
    ((ledger s p).pushWait = none → exec (.guardHistoryPush p) s = .next s) ∧
    (∀ id ids, (ledger s p).pushWait = some (id, ids) → (∃ c ∈ s.cmds, c.id ∈ ids ∧ c.status = none) →
      exec (.guardHistoryPush p) s = .next s) ∧
    (∀ id ids, (ledger s p).pushWait = some (id, ids) → (∀ c ∈ s.cmds, c.id ∈ ids → c.status ≠ none) →
      ∃ t, exec (.guardHistoryPush p) s = .next t ∧ (ledger t p).pushWait = none ∧ (∀ a, t.byte a = s.byte a) ∧
        (∀ c, s.cmd? id = some c → c.status = none → EndedWith t id (c.late.getD St.done)) ∧
        (∀ q i, q ≠ p → i < 1024 → guard t q i = guard s q i) ∧
        (∀ i < 1024,
          let g := guard s p i
          let h := guard t p i
          h.config = g.config &&& 0x7FFFFFFF ∧ h.margin = fld g.config.toNat 7 5 ∧ h.format = fld g.config.toNat 3 0 ∧
          h.touched = false ∧
          (g.touched = false → g.config.getLsbD 31 = false →
            h = { g with config := h.config, margin := h.margin, format := h.format }) ∧
          (g.touched = false → g.config.getLsbD 31 = true →
            h = { amax := g.amax, config := h.config, margin := h.margin, format := h.format }) ∧
          (g.touched = true →
            h.amax = 0 ∧
            (g.config.getLsbD 31 = false → h.hist = g.hist.set g.head g.amax ∧ h.head = (g.head + 1) % 16 ∧
              h.count = Nat.min 16 (g.count + 1)) ∧
            h.scale = (guardScale (guardH h) h.margin h.format
              (if g.config.getLsbD 31 then 0x3F800000 else g.scale)).1 ∧
            ((guardScale (guardH h) h.margin h.format 0).2 = true →
              (t.reg (qgPage s p) Reg.irqStat).testBit 3 = true))))) ∧
  (∀ (s : State) (core : Nat), Sound s →
    ((∀ a ∈ s.audits, a.core ≠ core) → exec (.tileAudit core) s = .next s) ∧
    (∀ a, s.audits.find? (fun b => b.core == core) = some a →
      let m := matRun a.cmd
      let p := a.cmd.part
      let d := auditDiff a.vals (refVals s a.cmd m a.tile)
      let bad := auditFails (BitVec.ofNat 32 (s.regFld (qgPage s p) Reg.qgAuditLim 31 0)) d
      let slots := (([m.listA, m.listB].filter onFly).filterMap (fun l => l.map (·.hdr.guard))).dedup
      ∃ t, exec (.tileAudit core) s = .next t ∧ t.audits = s.audits.erase a ∧ (∀ b, t.byte b = s.byte b) ∧
        t.cmds = s.cmds ∧
        (∀ g ∈ slots, guard t p g = { guard s p g with
          samples := satAdd 32 (guard s p g).samples 1
          fails := if bad then satAdd 32 (guard s p g).fails 1 else (guard s p g).fails
          worst := amaxOf (guard s p g).worst d }) ∧
        (∀ q i, (∀ g ∈ slots, guardKey q i ≠ guardKey p g) → guard t q i = guard s q i) ∧
        (bad = true → slots ≠ [] → (t.reg (qgPage s p) Reg.irqStat).testBit 2 = true) ∧
        ((bad = false ∨ slots = []) → { t with audits := s.audits, guards := s.guards } = s)))

/-- MODE that starts notes DET and TRACE, which wait for the next lintel barrier, changes no mode in force and ends with DONE (R237).
INPUT that starts ends with DONE; with no record open nothing else changes; with one open whose entry lies in HBM, a 32-byte
entry of kind 1 with its ring, its length and two words is appended and counts (Table TRN-9); no other byte changes.
A write of TRN_LEDGER_CTL that its requester may make stores BASE. ENABLE 1 is kept where the 4 GiB ring from BASE lies in the
partition's range outside the open window; elsewhere ENABLE reads 0 and LEDGER_ERR is raised. With ENABLE 0 afterwards no
record is open and none is late. No other partition's ledger changes. A page of another block has no such register. -/
def Obligations.LedgerModeInputAndControl : Prop :=
  (∀ (s u : State) (k : Nat) (x : Cmd), Sound s →
    let p := x.part
    let w := ledgerOp x.bits
    let l := ledger u p
    (Starts true 8 2 k noNeed ledgerCheck s u x → ∃ t, exec (.mode k) s = .next t ∧ EndedWith t x.id St.done ∧
      ledger t p = { l with detPend := w.testBit 8, tracePend := w.testBit 9 } ∧
      (∀ q, q ≠ p → ledger t q = ledger u q) ∧ CmdFrame { u with ledgers := t.ledgers } t) ∧
    (Starts true 8 3 k noNeed ledgerCheck s u x → ∃ t, exec (.input k) s = .next t ∧ EndedWith t x.id St.done ∧
      (l.openAt = none → CmdFrame { u with ledgers := t.ledgers } t ∧ ledger t p = l) ∧
      (∀ a, l.openAt = some a → l.late = [] →
        let y := addrOff (ledgerBase s p + (a + 32 * l.units) % 2 ^ 32)
        y + 32 ≤ hbmHomed s p → poisonedRange s p y 32 = false →
        t.bytes (key 0 p y) 32 =
          ([1 ||| (k <<< 8), fld w 79 32, fld w 191 128, fld w 255 192] : List Nat).flatMap (leBytes 8) ∧
        (∀ b, (b < key 0 p y ∨ key 0 p y + 32 ≤ b) → t.byte b = s.byte b) ∧
        ledger t p = { l with units := l.units + 1, inputs := l.inputs + 1 }))) ∧
  (∀ (s : State) (who : Requester) (page : Nat) (val : Word), Sound s → page < pageCount →
    (blkOf page = .trn → accessOf s who page true = .ok →
      let p := (ownerOf s page).num
      let fits := ledgerFits s p (65536 * fld val.toNat 47 16)
      ∃ t, exec (.trnLedgerCtlWrite who page val) s = .next t ∧ t.regFld page Reg.trnLedgerCtl 47 16 = fld val.toNat 47 16 ∧
        (t.regFld page Reg.trnLedgerCtl 0 0 = if val.getLsbD 0 && fits then 1 else 0) ∧
        (val.getLsbD 0 = true → fits = false → (t.reg (trnPage s p) Reg.irqStat).testBit 3 = true) ∧
        ((val.getLsbD 0 && fits) = false → ledger t p = { ledger s p with openAt := none, late := [] }) ∧
        ((val.getLsbD 0 && fits) = true → t.ledgers = s.ledgers) ∧ (∀ q, q ≠ p → ledger t q = ledger s q) ∧
        AsideFromEvents { s.setReg page Reg.trnLedgerCtl (t.reg page Reg.trnLedgerCtl) with ledgers := t.ledgers } t) ∧
    (blkOf page ≠ .trn → exec (.trnLedgerCtlWrite who page val) s = .next s))

/-- A MATMUL or fused command that starts waits for admission (R126) with what it has sampled: the bond table, the length registers
that it names, the factors of per-tensor operands, the scales of its guard slots and its first pass (R62, R100, R339).
Lengths that R100 clamps are counted in PAD and raise the clamp event; with none, nothing else changes.
RUN and RUN_PERSIST that start wait for admission with the lists that they name and the scales of their guard slots; nothing else
changes (R126, R341). REARM that starts joins the pending ones of its stream, unfinished (R136); a fifth stays in its ring. A
RELEASE that starts marks its stream to end, and waits for that (R341). No other stream changes. -/
def Obligations.MatrixAndHodCommandsStart : Prop :=
  (∀ (s u : State) (k : Nat) (x : Cmd), Sound s →
    ∀ row ∈ [(0, Instr.matmul k), (1, Instr.fusedCommand k)], Starts false 1 row.1 k matNeed matCheck s u x →
    let m := matOf u x (bondAddr x.bits) (matEngines x.bits)
    let lens := if hasWalk x.bits then sampleLens u x.part m.bond.bond else []
    let n := if hasWalk x.bits then clampCount m.bond.bond lens else 0
    let pg := Blk.bnd.page (lowDie u x)
    ∃ t c, exec row.2 s = .next t ∧ t.cmd? x.id = some c ∧ c.status = none ∧ c.wait = .admission ∧ c.admitted = x.admitted ∧
      c.bond = (if hasWalk x.bits then some m.bond.bond else none) ∧ c.lens = lens ∧
      c.factors = (if hasWalk x.bits then matFactors u x.part m else []) ∧
      c.scales = sampleScales u x.part (namedSlots c) ∧
      (n = 0 → { t with cmds := u.cmds } = u) ∧
      (0 < n → (t.reg pg Reg.irqStat).testBit 0 = true ∧ t.regFld pg Reg.bndPad 63 32 =
        Nat.min (2 ^ 32 - 1) (u.regFld pg Reg.bndPad 63 32 + n)) ∧ ∀ a, t.byte a = s.byte a) ∧
  (∀ (s u : State) (k : Nat) (x : Cmd), Sound s →
    let h := cmdHandle x.bits
    (∀ row ∈ [(0x01, Instr.run k), (0x101, Instr.runPersist k)], Starts false 2 row.1 k runNeed runCheck s u x →
      ∃ t c, exec row.2 s = .next t ∧ t.cmd? x.id = some c ∧ c.status = none ∧ c.wait = .admission ∧
        c.streams.map (·.list) = (runLists x.bits).map (fun a => (readList u x.part a).list) ∧
        c.streams.map (·.role) = (List.range (runLists x.bits).length).map (3 + ·) ∧
        c.scales = sampleScales u x.part (namedSlots c) ∧ { t with cmds := u.cmds } = u) ∧
    (Starts true 2 0x02 k noNeed rearmCheck s u x → rearmFull s k = false →
      ∃ t c, exec (.rearm k) s = .next t ∧ t.cmd? x.id = some c ∧ c.status = none ∧ c.handle = some h ∧
        persist? t h = (persist? u h).map (fun y => { y with rearms := y.rearms ++ [x.id] }) ∧
        (∀ j, j ≠ h → persist? t j = persist? u j) ∧ { t with cmds := u.cmds, persists := u.persists } = u) ∧
    (rearmFull s k = true → exec (.rearm k) s = .next s) ∧
    (Starts true 2 0x03 k noNeed releaseCheck s u x → ∃ t, exec (.release k) s = .next t ∧
      persist? t h = (persist? u h).map (fun y => { y with ending := true, releaseCmd := some x.id }) ∧
      (∀ j, j ≠ h → persist? t j = persist? u j) ∧ { t with persists := u.persists } = u))

/-- TILE_EMIT puts the walk's next segment, or zero tile, at the end of its engine position's queue, when that holds fewer than two and
the core runs the command's context, and moves the walk on; an idle engine begins to ramp up. Otherwise, and when the walk is
done, nothing changes (R101, R102). TILE_STEAL moves every segment of a tile that has not started to an idle engine of the
same core and counts it; never in deterministic mode (R103). Memory stays. -/
def Obligations.TilesReachTheirEngines : Prop :=
  ∀ (s : State), Sound s →
    let bare (l : List TileSeg) : List TileSeg := l.map (fun g => { g with started := false })
    (∀ id c, s.cmd? id = some c → c.pass = 0 →
      let m := matRun c
      let b := m.bond.bond
      (hasWalk c.bits && c.admitted && c.status.isNone && !c.walk.done) = true →
      ∀ pos sk t k eng q, nextStep b c.lens (stepsOf b - c.walk.pos) c.walk.pos 0 = (pos, sk, some (t, k)) →
        (enginePos s c m)[(SMap.get none c.walk.engines t).getD (c.walk.ordinal % (enginePos s c m).length)]? = some (eng, q) →
        ((2 ≤ (quad s eng q).queue.length ∨ coreRuns s c.ring (eng / 4) = false) → exec (.tileEmit id) s = .next s) ∧
        ((quad s eng q).queue.length < 2 → coreRuns s c.ring (eng / 4) = true →
          ∃ v d fa fb, exec (.tileEmit id) s = .next v ∧ v.cmd? id = some d ∧ d.walk.pos = pos + 1 ∧ d.status = none ∧
            (d.walk.done = decide (stepsOf b ≤ pos + 1)) ∧
            bare (quad v eng q).queue =
              bare (quad s eng q).queue ++ [{ segOf b c.lens id t k with fillA := fa, fillB := fb }] ∧
            (∀ e' q', q' < 4 → (e' ≠ eng ∨ q' ≠ q) → bare (quad v e' q').queue = bare (quad s e' q').queue) ∧
            ((engine s eng).ramp = .idle → (engine v eng).ramp = .up 8) ∧
            ((engine s eng).ramp = .active → (engine v eng).ramp = .active) ∧ ∀ a, v.byte a = s.byte a)) ∧
    (∀ id, (∀ c, s.cmd? id = some c → (hasWalk c.bits && c.admitted && c.status.isNone && !c.walk.done) = false) →
      exec (.tileEmit id) s = .next s) ∧
    (∀ src dst q g c place,
      (List.range 4).findSome? (fun q => ((quad s src q).queue.find? (fun g => !g.started && g.kseg == 0)).map (fun g => (q, g))) =
        some (q, g) → s.cmd? g.cmd = some c →
      (enginePos s c (matRun c)).findIdx? (fun e => e == (dst, q)) = some place →
      (c.det = true → exec (.tileSteal src dst) s = .next s) ∧
      (c.det = false → src / 4 = dst / 4 → src ≠ dst → (∀ i < 4, (quad s dst i).queue = []) →
        (tilesAt c place + 1) * (matRun c).bond.bond.mT * (matRun c).bond.bond.nT * wordsPer (matRun c) *
          (if (matRun c).bond.bond.chained then 2 else 1) ≤ (if (matRun c).fracture then 16384 else 65536) →
        ∃ v, exec (.tileSteal src dst) s = .next v ∧
          bare (quad v dst q).queue =
            bare ((quad s src q).queue.filter (fun x => x.cmd == g.cmd && x.tile == g.tile)) ∧
          (quad v src q).queue = (quad s src q).queue.filter (fun x => !(x.cmd == g.cmd && x.tile == g.tile)) ∧
          (∃ d, v.cmd? g.cmd = some d ∧ SMap.get none d.walk.engines g.tile = some place) ∧
          v.regFld (Blk.bnd.page (dst / 32 / 12)) Reg.bndSteal 63 0 =
            Nat.min (2 ^ 64 - 1) (s.regFld (Blk.bnd.page (dst / 32 / 12)) Reg.bndSteal 63 0 + 1) ∧
          ((engine s dst).ramp = .idle → (engine v dst).ramp = .up 8) ∧ ∀ a, v.byte a = s.byte a))

/-- RAMP_UP_END and RAMP_DOWN_END, in every state, write no accumulator word and no draining block, change no command and so no flag,
no register and no byte of memory, and leave every engine's busy cycles (R87). -/
def Obligations.RampSetsNoFlag : Prop :=
  ∀ (s : State) (eng : Nat), ∀ c ∈ [Instr.rampUpEnd eng, Instr.rampDownEnd eng],
    ∃ t, exec c s = .next t ∧ t.cmds = s.cmds ∧ t.regs = s.regs ∧ t.mem = s.mem ∧
      (∀ e q, (quad t e q).acc = (quad s e q).acc ∧ (quad t e q).drains = (quad s e q).drains) ∧
      ∀ e, (engine t e).busy = (engine s e).busy

/-- At the end of its ramp up an engine is active, and the head of each of its queues is in progress (R85). At the end of its ramp down
it is idle, unfractured, and a ramp down counts (R86). An engine that does not ramp so stays as it is, and so does every
other engine.
When every element that the head segment needs has landed, SWEEP_END puts the block's results, as the operands' format computes them
(R35, R55), into the drain registers, and the sweep counts; the last sweep of the segment lets the next one begin. A zero tile
goes to the converter block by block with no sweep (R102). Operands not landed, or a block still draining, hold it.
BLOCK_DRAIN_END writes each word of the oldest draining block, or adds it to the word there (R77, R105); every other word
stays, and the tile's last segment passes the block on to the converter. Memory stays. -/
def Obligations.RampsSweepsAndDrains : Prop :=
  (∀ (s : State) (eng : Nat),
    (∀ n, (engine s eng).ramp = .up n → ∃ t, exec (.rampUpEnd eng) s = .next t ∧
      engine t eng = { engine s eng with ramp := .active } ∧ (∀ e, e ≠ eng → engine t e = engine s e) ∧
      (∀ q < 4, ∀ g gs, (quad s eng q).queue = g :: gs →
        quad t eng q = { quad s eng q with queue := { g with started := true } :: gs }) ∧
      { t with engines := s.engines, quads := s.quads, coreDoms := s.coreDoms } = s) ∧
    ((∀ n, (engine s eng).ramp ≠ .up n) → exec (.rampUpEnd eng) s = .next s) ∧
    ((engine s eng).ramp = .down → ∃ t, exec (.rampDownEnd eng) s = .next t ∧
      engine t eng = { engine s eng with
        ramp := .idle, downs := Nat.min (2 ^ 32 - 1) ((engine s eng).downs + 1), fractured := false } ∧
      (∀ e, e ≠ eng → engine t e = engine s e) ∧ { t with engines := s.engines, coreDoms := s.coreDoms } = s) ∧
    ((engine s eng).ramp ≠ .down → exec (.rampDownEnd eng) s = .next s)) ∧
  (∀ (s : State) (eng q : Nat), Sound s → q < 4 →
    let qd := quad s eng q
    (∀ g gs c, qd.queue = g :: gs → s.cmd? g.cmd = some c →
      let m := matRun c
      let b := m.bond.bond
      let nc := b.nT / side m
      let total := b.mT / side m * nc
      let bi := qd.sweep / nc
      let bj := qd.sweep % nc
      let ready := fillReady ((c.streams[streamIdx c 0 (eng / 32)]?).getD {}) g.fillA (faceOf m c.lens false g.tile g.kseg) &&
        fillReady ((c.streams[streamIdx c 1 (eng / 32)]?).getD {}) g.fillB (faceOf m c.lens true g.tile g.kseg)
      let busy := qd.drains.any (fun d => d.cmd == g.cmd && d.tile == g.tile && d.bi == bi && d.bj == bj)
      (((engine s eng).ramp ≠ .active ∨ g.started = false ∨ (g.zero = false ∧ (ready = false ∨ busy = true))) →
        exec (.sweepEnd eng q) s = .next s) ∧
      ((engine s eng).ramp = .active → g.started = true → g.zero = true → ∃ t, exec (.sweepEnd eng q) s = .next t ∧
        (quad t eng q).convs = qd.convs ++ (List.range total).map (fun n =>
          { cmd := g.cmd, tile := g.tile, bi := n / nc, bj := n % nc }) ∧
        (quad t eng q).queue.length = gs.length ∧ ∀ a, t.byte a = s.byte a) ∧
      ((engine s eng).ramp = .active → g.started = true → g.zero = false → ready = true → busy = false →
        ∃ t d, exec (.sweepEnd eng q) s = .next t ∧ (quad t eng q).drains = qd.drains ++ [d] ∧
          d.cmd = g.cmd ∧ d.tile = g.tile ∧ d.bi = bi ∧ d.bj = bj ∧ d.add = (g.last && g.addChain) ∧ d.last = g.final ∧
          (isComplex m.a.fmt = false → ∀ n < side m * side m, d.vals[n]? =
            ((sweepCell s c m g (eng / 32) qd.acc (bi * side m + n / side m) (bj * side m + n % side m))[0]?).map (·.val)) ∧
          (quad t eng q).acc = qd.acc ∧
          (qd.sweep + 1 ≠ total → (quad t eng q).sweep = qd.sweep + 1 ∧ (quad t eng q).queue = qd.queue) ∧
          (qd.sweep + 1 = total → (quad t eng q).sweep = 0 ∧ (quad t eng q).queue.length = gs.length) ∧
          ∀ a, t.byte a = s.byte a)) ∧
    (qd.queue = [] → exec (.sweepEnd eng q) s = .next s) ∧
    (∀ d ds c, qd.drains = d :: ds → s.cmd? d.cmd = some c → d.sel.Nodup →
      let sd := side (matRun c)
      let place (i x : Nat) : Nat := accKey d.cmd d.tile (d.sel.getD i 0) (d.bi * sd + x / sd) (d.bj * sd + x % sd)
      ∃ t, exec (.blockDrainEnd eng q) s = .next t ∧ (quad t eng q).drains = ds ∧ (∀ a, t.byte a = s.byte a) ∧
        (quad t eng q).convs = qd.convs ++
          (if d.last then [{ cmd := d.cmd, tile := d.tile, bi := d.bi, bj := d.bj }] else []) ∧
        (∀ i < d.sel.length, ∀ x < sd * sd, SMap.get 0 (quad t eng q).acc (place i x) =
          if d.add then (addWord (matRun c) (SMap.get 0 qd.acc (place i x)) (d.vals.getD (i * (sd * sd) + x) 0)).val
          else d.vals.getD (i * (sd * sd) + x) 0) ∧
        (∀ k, (∀ i < d.sel.length, ∀ x < sd * sd, k ≠ place i x) → SMap.get 0 (quad t eng q).acc k = SMap.get 0 qd.acc k) ∧
        (d.add = false → t.cmds = s.cmds)) ∧
    (qd.drains = [] → exec (.blockDrainEnd eng q) s = .next s))

/-- The converter's oldest block of an unfused command leaves it. Outside an amax pass its outputs, converted as R38 and R45 say, join
C's stream as runs of elements and of scales (R96, R104); with the tile's last block its accumulator words are free and, where
R64 samples the tile, it waits for its audit. Then the command's end is looked for. Memory stays, and so do other words.
In a fused command each stage takes the oldest block of the slice before it and, where the slice after it has room, passes on its
own: conversion passes its block into the first slice; EPILOGUE y = act(x + bias[n]) + resid[m, n], each operation rounded
once, for real outputs, and leaves padding (R131); QUANT the block's converted rows with their scales (R118); STORE passes the
rows to its hod as write runs of C, or to the list that it names (R132). With no block, an engine outside the stage's mask or a
full slice, nothing changes. Memory stays. -/
def Obligations.ConversionsAndFusedStages : Prop :=
  (∀ (s : State) (eng q : Nat), Sound s →
    (∀ v vs c, (quad s eng q).convs = v :: vs → s.cmd? v.cmd = some c → isFused c.bits = false → c.pass = 0 →
      persist? s c.id = none →
      let m := matRun c
      let b := m.bond.bond
      let last := v.bi + 1 == b.mT / side m && v.bj + 1 == b.nT / side m
      let k := streamIdx c 2 (eng / 32)
      let acc := (quad s eng q).acc
      ∃ t d, exec (.blockConversionEnd eng q) s = .next (t.checkEnd c.id) ∧ (quad t eng q).convs = vs ∧
        t.cmd? c.id = some d ∧ (∀ a, t.byte a = s.byte a) ∧
        (∀ j0 w, convSpan m v.bj = some (j0, w) → ∀ st, c.streams[k]? = some st →
          let n := Nat.min w (colsOf b c.lens v.tile - j0)
          let wr := Nat.min (side m) (rowsOf b c.lens v.tile - v.bi * side m)
          (d.streams[k]?).map (·.todo) = some (st.todo ++
            (if n = 0 then [] else (List.range wr).flatMap (fun i =>
              outRuns s c m v.tile (v.bi * side m + i) j0 n ((outQuant s c m).list ((List.range w).flatMap (fun j =>
                outElems s c m acc v.tile (v.bi * side m + i) (j0 + j) (decide (j < n))))))))) ∧
        (convSpan m v.bj = none → d.streams = c.streams) ∧
        (∀ x, SMap.get 0 (quad t eng q).acc x =
          if last && x / 2 ^ 34 == 2 ^ 64 * c.id + v.tile then 0 else SMap.get 0 acc x) ∧
        t.audits = s.audits ++ (if last && audited s c m v.tile then
          [{ core := eng / 4, cmd := c, tile := v.tile, vals := tileVals s c m acc v.tile }] else [])) ∧
    ((quad s eng q).convs = [] → exec (.blockConversionEnd eng q) s = .next s) ∧
    (∀ v vs, (quad s eng q).convs = v :: vs → s.cmd? v.cmd = none → ∃ t, exec (.blockConversionEnd eng q) s = .next t ∧
      quad t eng q = { quad s eng q with convs := vs })) ∧
  (∀ (s : State) (id : Nat) (c : Cmd), Sound s → s.cmd? id = some c → c.admitted = true → isFused c.bits = true →
    (∀ st ∈ c.streams, st.role ≠ 6) →
    let holds (cl k : Nat) : Prop := ∃ x ∈ c.slices, x.cluster = cl ∧ x.stage = k
    let sent (t : State) (cl k : Nat) (b : SliceBlock) : Prop := ∃ d, t.cmd? id = some d ∧
      (sliceAt d cl (k - 1)).blocks = (sliceAt c cl (k - 1)).blocks.drop 1 ∧
      (sliceAt d cl k).blocks = (sliceAt c cl k).blocks ++ [b] ∧ ∀ a, t.byte a = s.byte a
    (∀ eng q v vs, (quad s eng q).convs = v :: vs → v.cmd = id → holds (eng / 32) 0 →
      (sliceFree c (eng / 32) 0 = false → exec (.blockConversionEnd eng q) s = .next s) ∧
      (sliceFree c (eng / 32) 0 = true → ∃ t d b, exec (.blockConversionEnd eng q) s = .next (t.checkEnd id) ∧
        t.cmd? id = some d ∧ (sliceAt d (eng / 32) 0).blocks = (sliceAt c (eng / 32) 0).blocks ++ [b] ∧
        (quad t eng q).convs = vs ∧ ∀ a, t.byte a = s.byte a)) ∧
    (∀ eng st b, stageKind c.bits 3 = some st →
      let k := stageNo c.bits 3
      let cl := eng / 32
      let w := if b.words.length ≤ 256 then 16 else 32
      0 < k → (sliceAt c cl (k - 1)).blocks.head? = some b → holds cl k → st.engines.testBit (eng % 32) = true →
      sliceFree c cl k = true →
      let rs := (c.streams[streamIdx c 5 cl]?).getD {}
      (st.resid = true → ∀ i < w, ∀ j < w, i < b.rows → j < b.cols → residAt rs b i j ≠ none) →
      ∃ t nb, exec (.epilogueBlock id eng) s = .next t ∧ sent t cl k nb ∧ { nb with words := b.words } = b ∧
        ∀ i < w, ∀ j < w, nb.words.getD (w * i + j) 0 =
          (let x := b.words.getD (w * i + j) 0
           if i < b.rows ∧ j < b.cols then
             let y := (activate st.act (if st.bias then
               (add32 x (BitVec.ofNat 32 (s.num c.part (addrOff st.arg0 + 4 * (b.col0 + j)) 4))).val else x)).val
             if st.resid then (add32 y ((residAt rs b i j).getD 0)).val else y
           else x)) ∧
    (∀ eng st b, stageKind c.bits 3 = some st → st.resid = true →
      let k := stageNo c.bits 3
      let cl := eng / 32
      (sliceAt c cl (k - 1)).blocks.head? = some b →
      (∃ i j, i < b.rows ∧ j < b.cols ∧ i < 16 ∧ j < 16 ∧
        residAt ((c.streams[streamIdx c 5 cl]?).getD {}) b i j = none) → exec (.epilogueBlock id eng) s = .next s) ∧
    (∀ kind eng st, kind = 3 ∨ kind = 4 → stageKind c.bits kind = some st →
      let k := stageNo c.bits kind
      (st.engines.testBit (eng % 32) = false ∨ sliceFree c (eng / 32) k = false ∨
        (sliceAt c (eng / 32) (k - 1)).blocks = []) →
      exec (if kind = 3 then .epilogueBlock id eng else .quantBlock id eng) s = .next s) ∧
    (∀ eng st b, stageKind c.bits 4 = some st → c.pass = 0 →
      let k := stageNo c.bits 4
      let cl := eng / 32
      let w := if b.words.length ≤ 256 then 16 else 32
      let q : Quant := { fmt := st.qfmt, ovf := st.qovf, stoch := st.qrnd == 1, seed := c.seed, step := c.step,
                         tensor := st.tensor, scale := if st.guardEn then (slotScale s c.part c.scales st.guard).num else .one }
      let out (i : Nat) : QOut := q.list ((List.range w).map (fun j =>
        { val := F32.num (b.words.getD (w * i + j) 0), idx := b.index.getD i 0 + j, written := decide (j < b.cols) }))
      0 < k → (sliceAt c cl (k - 1)).blocks.head? = some b → holds cl k → st.engines.testBit (eng % 32) = true →
      sliceFree c cl k = true → ∃ t, exec (.quantBlock id eng) s = .next t ∧ sent t cl k { b with
        words := [], bytes := (List.range b.rows).map (fun i => packElems (bitsPer st.qfmt) ((out i).codes.take b.cols))
        scales := (List.range b.rows).map (fun i => (out i).scaleBytes st.qfmt) }) ∧
    (∀ st sl b bs, stageKind c.bits 5 = some st → c.pass = 0 → st.arg0 = 0 → persist? s id = none →
      let k := stageNo c.bits 5
      c.slices.find? (fun x => x.stage == k - 1 && !x.blocks.isEmpty) = some sl → sl.blocks = b :: bs →
      ∃ (t : State) (d : Cmd), exec (.storeBlock id) s = .next (t.checkEnd id) ∧ t.cmd? id = some d ∧
        (∀ a, t.byte a = s.byte a) ∧
        (∀ x, c.streams[streamIdx c 2 sl.cluster]? = some x → (d.streams[streamIdx c 2 sl.cluster]?).map (·.todo) =
          some (x.todo ++ ((blockRows b).zipIdx.filter (fun e => !e.1.isEmpty)).flatMap (fun e =>
            let a := b.addr + e.2 * (recOf c.bits 2).pitch
            let sc := b.scales.getD e.2 []
            ({ addr := a, len := e.1.length, data := e.1 } : Run) ::
              (if sc = [] then [] else [{
                addr := (recOf c.bits 2).scale + (a - (recOf c.bits 2).base) / scaleRatio (recOf c.bits 2).fmt
                len := sc.length, data := sc }])))) ∧
        ∀ x ∈ d.slices, x.cluster = sl.cluster → x.stage = k - 1 →
          ∃ y ∈ c.slices, y.cluster = x.cluster ∧ y.stage = x.stage ∧ x.blocks = y.blocks.drop 1) ∧
    (∀ eng, (stageKind c.bits 3 = none → exec (.epilogueBlock id eng) s = .next s) ∧
      (stageKind c.bits 4 = none → exec (.quantBlock id eng) s = .next s)) ∧
    ((∀ x ∈ c.slices, x.blocks = []) → exec (.storeBlock id) s = .next s))

/-- Between passes the oldest pending REARM applies: its bases replace those of the entries that it names and its pass begins, with the
command's seed, step and scales (R136). A stream that is to end, with no pass running or pending, is gone and its RELEASE ends
(R138, R341). While a pass runs, and with nothing to do, nothing changes. A REARM changes no other stream, and memory stays.
A command that waits for admission, with no earlier one ahead of it, a free context on every core, enough free slices in every
cluster and a hod for every stream, is admitted: it takes them all, its ring is bound on every core, and its end is looked for
(R126, R127, R128); RUN_PERSIST makes its stream and ends with the handle (R135). Lacking any of these it keeps waiting
and nothing changes; a sleeping cluster begins to wake first (R388). -/
def Obligations.StreamsAndAdmission : Prop :=
  (∀ (s : State) (h : Nat), Sound s →
    (∀ x r rs c, persist? s h = some x → x.inPass = false → x.rearms = r :: rs → s.cmd? r = some c →
      ∃ t y, exec (.rearmApply h) s = .next t ∧ persist? t h = some y ∧ y.rearms = rs ∧ y.current = some r ∧
        y.inPass = true ∧ y.seed = c.seed ∧ y.step = c.step ∧ y.stream.issued = 0 ∧ y.stream.used = 0 ∧
        y.stream.list = rebase x.stream.list (rearmPairs c.bits) ∧ (∀ j, j ≠ h → persist? t j = persist? s j) ∧
        t.regFld (Blk.hod.page x.stream.cluster) Reg.hodCluster 63 48 =
          Nat.min 65535 (s.regFld (Blk.hod.page x.stream.cluster) Reg.hodCluster 63 48 + 1) ∧
        { t with persists := s.persists, regs := s.regs } = s) ∧
    ((∀ x, persist? s h = some x → x.inPass = true ∨ x.rearms = []) → exec (.rearmApply h) s = .next s) ∧
    (∀ x, persist? s h = some x → x.ending = true → x.inPass = false → x.rearms = [] →
      ∃ t, exec (.persistentStreamRelease h) s = .next t ∧ persist? t h = none ∧ (∀ a, t.byte a = s.byte a) ∧
        (∀ i c, x.releaseCmd = some i → s.cmd? i = some c → c.status = none → EndedWith t i (c.late.getD St.done)) ∧
        (x.releaseCmd = none → ∀ j, j ≠ h → persist? t j = persist? s j)) ∧
    ((∀ x, persist? s h = some x → x.ending = false ∨ x.inPass = true ∨ x.rearms ≠ []) →
      exec (.persistentStreamRelease h) s = .next s)) ∧
  (∀ (s : State) (id : Nat) (c : Cmd), Sound s → s.cmd? id = some c →
    let cls := cmdClusters s c.part c.bits
    let cores := cmdCores s c.part c.bits
    let able := c.wait = .admission ∧ c.checked = true ∧ c.status = none ∧ heldBack s c = false ∧ waitsBehind s c = false ∧
      canBind s c.ring cores = true ∧ ∀ cl ∈ cls, slicesNeeded c.bits ≤ (freeSlices s cl).length
    let taken (t : State) (streams : List Stream) : Prop :=
      (∃ d, t.cmd? id = some d ∧ d.admitted = true ∧ d.wait = .none ∧ d.streams = streams ∧
        d.slices = cls.flatMap (slicesIn s c.bits)) ∧ ∀ core ∈ cores, (boundCtx t c.ring core).isSome = true
    (¬able → exec (.commandAdmission id) s = .next s) ∧
    (able → placeAll s c (isPersistRun c.bits) cls = none → exec (.commandAdmission id) s = .next s) ∧
    (able → ∀ streams, placeAll s c (isPersistRun c.bits) cls = some streams →
      ((∃ cl ∈ cls, (cluster s cl).asleep = true) → ∃ t, exec (.commandAdmission id) s = .next t ∧ CmdFrame s t ∧
        t.cmds = s.cmds ∧ ∀ cl ∈ cls, (cluster s cl).asleep = true → (cluster t cl).waking = true) ∧
      ((∀ cl ∈ cls, (cluster s cl).asleep = false) → isPersistRun c.bits = false → ∃ t : State,
        exec (.commandAdmission id) s = .next (t.checkEnd id) ∧ taken t streams ∧ CmdFrame s t) ∧
      ((∀ cl ∈ cls, (cluster s cl).asleep = false) → isPersistRun c.bits = true → ∀ st sts, streams = st :: sts →
        ∃ t, exec (.commandAdmission id) s = .next t ∧ taken t streams ∧ EndedWith t id (c.late.getD St.done) ∧
          (∃ d, t.cmd? id = some d ∧ d.result = BitVec.ofNat 64 id) ∧
          (persist? s id = none → ∃ y, persist? t id = some y ∧ y.stream = st ∧ y.part = c.part ∧ y.inPass = true ∧
            y.seed = c.seed ∧ y.step = c.step ∧ y.rearms = []) ∧ ∀ a, t.byte a = s.byte a)))

/-- An admitted command's stream whose next bytes lie in HBM issues one request for them when a tag is free: a read, or a write or
add-write with its data, narrow where R170 says so; the stream moves on by its bytes (R122, R124, R125). With no tag free
TAG_WAIT counts (R125). In deterministic mode an add-write waits for earlier commands' (R211). Bytes in a slab without a
ready copy make the command wait on slab-ready, or end with TIER_UNREACHABLE (R253, R254); in a fenced open window it ends
with OPEN_FENCED (R320). A stream with nothing to ask, or with data still to come, does nothing. Memory stays. -/
def Obligations.HodRequests : Prop :=
  ∀ (s : State) (id k : Nat) (c : Cmd) (st : Stream), Sound s → s.cmd? id = some c → persist? s id = none →
    c.admitted = true → c.status = none → c.streams[k]? = some st → st.handle = none →
    (wantOf st = none → exec (.hodRequestIssue id k) s = .next s) ∧
    (∀ w, wantOf st = some w → w.hint = none →
      let x := addrOff w.addr
      let dir := st.list.hdr.dir
      let n := if dir = 0 then 0 else wantData st w
      let data := if dir = 0 then [] else match st.todo with
        | r :: _ => r.data.take n
        | [] => st.outQ.take n
      let inHbm := 0 < w.len ∧ x + w.len ≤ hbmHomed s c.part
      (0 < n → dir ≠ 0 → st.todo = [] → st.outQ = [] → exec (.hodRequestIssue id k) s = .next s) ∧
      (dir = 2 → addWriteHeld s id = true → exec (.hodRequestIssue id k) s = .next s) ∧
      (data.length = n → (st.todo = [] → dir ≠ 0 → w.len ≤ st.outQ.length) → (dir = 2 → addWriteHeld s id = false) →
        (tagFor s id k st = none → ∃ t, exec (.hodRequestIssue id k) s = .next t ∧
          (hod t st.cluster st.hod).tagWait = Nat.min (2 ^ 64 - 1) ((hod s st.cluster st.hod).tagWait + 1) ∧
          { t with hods := s.hods } = s) ∧
        (∀ pool, tagFor s id k st = some pool →
          (inHbm → ∃ t, exec (.hodRequestIssue id k) s = .next t ∧
            t.reqs = s.reqs ++ [{
              id := s.nextReq, cmd := id, stream := k, cluster := st.cluster, hod := st.hod
              kind := if dir = 0 then .read else if dir = 1 then .write else .addWrite, addr := w.addr, len := w.len
              pos := w.pos, ent := w.ent, pool := pool, narrow := isNarrow w.addr w.len, data := data, born := s.now }] ∧
            t.nextReq = s.nextReq + 1 ∧ (∃ d, t.cmd? id = some d ∧ d.streams[k]? = some (st.asked w n)) ∧
            { t with reqs := s.reqs, nextReq := s.nextReq, hods := s.hods, cmds := s.cmds } = s) ∧
          (missing s c.part x w.len ≠ [] → isOpen x = false → w.codec = 0 →
            ∃ t, exec (.hodRequestIssue id k) s = .next t ∧ CmdFrame s t ∧
            ((∃ m ∈ missing s c.part x w.len, unreachable s c.part m = true) → EndedWith t id St.tierUnreachable) ∧
            ((∀ m ∈ missing s c.part x w.len, unreachable s c.part m = false) → ∃ f, Waits t id (.slabReady f))) ∧
          (isOpen x = true → openFenced s c.part x = true → ∃ t, exec (.hodRequestIssue id k) s = .next t ∧
            EndedWith t id St.openFenced ∧ CmdFrame s t) ∧
          (isOpen x = true → openFenced s c.part x = false →
            (dir = 0 → isFresh s (keyAt s c.part x) = true → ∃ t r, exec (.hodRequestIssue id k) s = .next t ∧
              t.reqs = s.reqs ++ [r] ∧ r.id = s.nextReq ∧ r.served = true ∧ r.data = List.replicate w.len 0 ∧
              t.out = s.out ∧ t.mem = s.mem) ∧
            (¬(dir = 0 ∧ isFresh s (keyAt s c.part x) = true) → ∃ t r, exec (.hodRequestIssue id k) s = .next t ∧
              t.reqs = s.reqs ++ [r] ∧ r.id = s.nextReq ∧ r.served = false ∧ r.addr = w.addr ∧ r.len = w.len ∧
              t.out = s.out ++ [.openReq s.nextReq] ∧ t.mem = s.mem))))) ∧
    exec (.hodRequestIssue id c.streams.length) s = .next s

/-- A served read that lands returns its tag, counts its bytes and marks progress; bytes of a MATMUL operand stand in the landing buffer
at their address, and the command's end is looked for. A read that met poison or a damaged block ends its command with that
status, and so does a double SRAM error, with DATA_POISONED (R176, R403). A served write returns its tag; one that dropped a
part leaves that status for the command's end (R176). A request not served stays. Memory stays. -/
def Obligations.HodDataArrives : Prop :=
  ∀ (s : State) (r : Req) (c : Cmd) (st : Stream), Sound s → s.reqs.find? (fun q => q.id == r.id) = some r →
    s.cmd? r.cmd = some c → persist? s r.cmd = none → c.admitted = true → c.status = none → c.streams[r.stream]? = some st →
    let returned (t : State) : Prop := t.reqs = s.reqs.filter (fun q => q.id != r.id) ∧ (∀ a, t.byte a = s.byte a)
    (r.served = false → (∀ e, exec (.hodReadLanding r.id e) s = .next s) ∧ exec (.hodWriteAck r.id) s = .next s) ∧
    (r.kind = .read → r.served = true → r.bad = false → st.role = 0 ∨ st.role = 1 →
      ∃ (t : State) (d : Cmd) (x : Stream), exec (.hodReadLanding r.id .clean) s = .next (t.checkEnd r.cmd) ∧ returned t ∧
        t.cmd? r.cmd = some d ∧ d.streams[r.stream]? = some x ∧
        (∀ i < r.len, i < r.data.length →
          SMap.get 0 x.landed (fillKey r.ent (r.addr + i)) = (r.data.getD i 0).toNat + 1) ∧
        (hod t r.cluster r.hod).bytes = Nat.min (2 ^ 64 - 1) ((hod s r.cluster r.hod).bytes + r.len) ∧
        (cluster t r.cluster).progress = s.now) ∧
    (r.kind = .read → r.served = true → r.bad = true → ∃ t, exec (.hodReadLanding r.id .clean) s = .next t ∧
      EndedWith t r.cmd r.badStatus ∧ ∀ a, t.byte a = s.byte a) ∧
    (r.kind = .read → r.served = true → r.bad = false → (cluster s r.cluster).dbe = [] →
      ∃ t, exec (.hodReadLanding r.id .doubleCluster) s = .next t ∧ EndedWith t r.cmd St.dataPoisoned ∧
        ∀ a, t.byte a = s.byte a) ∧
    (r.kind ≠ .read → r.served = true → ∃ (t : State) (d : Cmd), exec (.hodWriteAck r.id) s = .next (t.checkEnd r.cmd) ∧
      returned t ∧ t.cmd? r.cmd = some d ∧ d.late = (if r.bad then some (c.late.getD r.badStatus) else c.late) ∧
      (hod t r.cluster r.hod).bytes = Nat.min (2 ^ 64 - 1) ((hod s r.cluster r.hod).bytes + r.data.length))

/-- 1 ms without progress in a cluster that has unfinished commands, not all of them in waits with limits of their own, ends the one of
lowest priority, among equals the one dispatched last, with STALL_ABORTED; the measure starts again, the abort counts and
raises the event (R139, R140, R141). Progress in the same tick counts, and before the millisecond, or with every command in
such a wait, nothing happens but the passing of time. -/
def Obligations.SentinelExpiry : Prop :=
  ∀ (s : State) (cl now : Nat), Sound s →
    let v := s.at_ now
    let cs := unfinishedIn v cl
    (∃ t, exec (.sentinelExpiry cl now true) s = .next t ∧ { t with clusters := v.clusters } = v ∧
      (cluster t cl).progress = v.now ∧ (cluster t cl).sentinel = v.now) ∧
    (((∀ c ∈ cs, c.wait.exempt = true) ∨ v.now < (cluster s cl).sentinel + 1000000) →
      exec (.sentinelExpiry cl now false) s = .next v) ∧
    ((∃ c ∈ cs, c.wait.exempt = false) → (cluster s cl).sentinel + 1000000 ≤ v.now →
      ∃ t u c, exec (.sentinelExpiry cl now false) s = .next t ∧ c ∈ cs ∧ (∀ d ∈ cs, d.id ≠ c.id → before d c = true) ∧
        EndedWith t c.id St.stallAborted ∧ CmdFrame v u ∧ (cluster t cl).sentinel = v.now ∧
        t.regFld (Blk.hod.page cl) Reg.hodSentinel 63 32 =
          Nat.min (2 ^ 32 - 1) (u.regFld (Blk.hod.page cl) Reg.hodSentinel 63 32 + 1) ∧
        (t.reg (Blk.hod.page cl) Reg.irqStat).testBit 0 = true ∧ ∀ a, t.byte a = s.byte a)

/-- A read that its channel can serve is served: the bytes under its key, poisoned where an access of it is (R176); a fresh granule reads
as zeros unchecked and counts (R185); a narrow one counts (R170). An uncorrectable error poisons the access: the read is bad,
the channel's count rises, the row is marked and UE is raised (R175). No byte changes. A request that is unknown, of the
other width, or that its channel cannot serve now stays.
A write that its channel can serve stores its bytes under its key and clears the fresh bits there (R186); every other byte reads as
before. A write of part of a poisoned 64-byte access is dropped and marked bad; a whole one stores its bytes and ends the
poison (R176). A request that is unknown, of the other width, or that cannot be served now stays.
An add-write that its channel can serve replaces each aligned 4-byte word of its extent in HBM by the binary32 sum of the word and the
element, both taken as binary32 (R210); every other byte reads as before. On a poisoned access nothing is stored and the
request is bad (R176). A request that is unknown or cannot be served now stays. -/
def Obligations.HbmAccesses : Prop :=
  (∀ (s : State) (id : Nat) (narrow : Bool) (e : List Ecc), Sound s →
    let row : Instr := if narrow then .hbmNarrowRead id e else .hbmWideRead id e
    (∀ r k, reqOf s id .read (some narrow) = some r → serveKey s r 64 = some k →
      let st := chanOfKey s k / 32
      let ch := chanOfKey s k
      let served (d : List Byte) (bad : Bool) : List Req :=
        s.reqs.map (fun q => if q.id = r.id then { q with served := true, data := d, bad := bad } else q)
      let n := if narrow then 1 else 0
      (isFresh s k = true → isLost s k = false → ∃ t, exec row s = .next t ∧
        t.reqs = served (List.replicate r.len 0) false ∧
        (stack t st).freshRd = Nat.min (2 ^ 64 - 1) ((stack s st).freshRd + 1) ∧
        (narrow = true → (stack t st).narrow = Nat.min (2 ^ 64 - 1) ((stack s st).narrow + 1)) ∧
        { t with reqs := s.reqs, chans := s.chans, stks := s.stks } = s) ∧
      (isFresh s k = false → e = [] → ∃ t, exec row s = .next t ∧ t.reqs = served (s.bytes k r.len) (poisoned s k r.len) ∧
        (narrow = true → (stack t st).narrow = Nat.min (2 ^ 64 - 1) ((stack s st).narrow + n)) ∧
        { t with reqs := s.reqs, chans := s.chans, stks := s.stks } = s) ∧
      (isFresh s k = false → e = [.uncorrectable] → keyPart k < s.settings.partitions → 0 < r.len → k % 64 + r.len ≤ 64 →
        hasMoved (chan s ch) (chanOff s k) = false → isPoisoned s k = false → ∃ t, exec row s = .next t ∧
        t.reqs = served (s.bytes k r.len) true ∧ isPoisoned t k = true ∧
        (chan t ch).ue = Nat.min (2 ^ 32 - 1) ((chan s ch).ue + 1) ∧
        (∃ x ∈ (chan t ch).pend, x.bank = bankOf (chanOff s k) ∧ x.row = rowOf (chanOff s k) ∧ x.ue = true) ∧
        (t.reg (hbmPage st) Reg.irqStat).testBit 0 = true ∧ ∀ a, t.byte a = s.byte a)) ∧
    ((∀ r, reqOf s id .read (some narrow) = some r → serveKey s r 64 = none) → exec row s = .next s)) ∧
  (∀ (s : State) (id : Nat) (narrow : Bool), Sound s →
    let row : Instr := if narrow then .hbmNarrowWrite id [] else .hbmWideWrite id
    (∀ r k, reqOf s id .write (some narrow) = some r → serveKey s r 64 = some k →
      let p := addrPart r.addr
      let x := addrOff r.addr
      let n := r.data.length
      let served (bad : Bool) : List Req :=
        s.reqs.map (fun q => if q.id = r.id then { q with served := true, bad := bad } else q)
      let stored (t : State) : Prop :=
        ∀ a, t.byte a = if k ≤ a ∧ a < k + n then r.data.getD (a - k) 0 else s.byte a
      (narrow = false → 0 < n → x + n ≤ hbmHomed s p → poisonedRange s p x n = false → ∃ t, exec row s = .next t ∧
        t.reqs = served false ∧ stored t ∧ (∀ i < n, isFresh t (k + i) = false) ∧
        { t with reqs := s.reqs, chans := s.chans, cmds := s.cmds, mem := s.mem, written := s.written } = s) ∧
      (narrow = false → 0 < n → n < 64 → x % 64 + n ≤ 64 → isPoisoned s k = true → ∃ t, exec row s = .next t ∧
        t.reqs = served true ∧ ∀ a, t.byte a = s.byte a) ∧
      (narrow = false → n = 64 → x % 64 = 0 → isPoisoned s k = true → ∃ t, exec row s = .next t ∧
        t.reqs = served false ∧ stored t ∧ isPoisoned t k = false) ∧
      (narrow = true → isPoisoned s k = false → ∃ t, exec row s = .next t ∧ t.reqs = served false ∧ stored t ∧
        isFresh t k = false ∧
        (stack t (chanOfKey s k / 32)).narrow = Nat.min (2 ^ 64 - 1) ((stack s (chanOfKey s k / 32)).narrow + 1)) ∧
      (narrow = true → isPoisoned s k = true → ∃ t, exec row s = .next t ∧ t.reqs = served true ∧
        ∀ a, t.byte a = s.byte a)) ∧
    ((∀ r, reqOf s id .write (some narrow) = some r → serveKey s r 64 = none) → exec row s = .next s)) ∧
  (∀ (s : State) (id : Nat), Sound s →
    (∀ r k cfg st, reqOf s id .addWrite none = some r → serveKey s r 128 = some k → streamOf s r.cmd r.stream = some (cfg, st) →
      let p := addrPart r.addr
      let x := addrOff r.addr
      let vals := readElems st.list.hdr.srcFmt (r.len / 4) r.data
      x % 4 = 0 → r.len % 4 = 0 → 0 < r.len → x + r.len ≤ hbmHomed s p → vals.length = r.len / 4 →
      (poisonedRange s p x r.len = false → ∃ t, exec (.addWrite id []) s = .next t ∧
        t.reqs = s.reqs.map (fun q => if q.id = r.id then { q with served := true, bad := false } else q) ∧
        (∀ i < r.len / 4, ∀ v, vals[i]? = some v → leNat (t.bytes (k + 4 * i) 4) =
          (add32 (BitVec.ofNat 32 (leNat (s.bytes (k + 4 * i) 4))) (round32 v.val).val).val.toNat) ∧
        ∀ a, (a < k ∨ k + r.len ≤ a) → t.byte a = s.byte a) ∧
      (x % 64 + r.len ≤ 64 → isPoisoned s k = true → ∃ t, exec (.addWrite id []) s = .next t ∧
        t.reqs = s.reqs.map (fun q => if q.id = r.id then { q with served := true, bad := true } else q) ∧
        ∀ a, t.byte a = s.byte a)) ∧
    ((∀ r, reqOf s id .addWrite none = some r → serveKey s r 128 = none) → exec (.addWrite id []) s = .next s))

/-- Patrol scrub passes over an access that a command waits for, that is fresh or has moved, or that its channel cannot serve; else its
place moves on, and what it finds counts: a corrected error in CE, an uncorrectable one in UE, with its event (R174, R175,
R177). When a copy to a spare ends its row is redirected, leaves the count and pending lists, and ROW_REMAP is raised; an
access it could not correct counts in UE (R178, R191). REMAP_FLASH_COPY adds the channel's rows to the flash record, each
once, and marks the pending ones (R179). No byte changes before waiting window accesses are tried again.
One granule of a retiring channel moves: a fresh one as its fresh bit alone, a written one into a run of free units of the pool,
which is lent; with none free it and those after it are lost, and read as poisoned (R184, R268). A moved granule keeps its
bytes. When every granule has moved, or the pool is full, the channel is retired and CHAN_RETIRE is raised, and the next
channel of its partition that waits begins to move (R183, R184). Otherwise nothing changes. -/
def Obligations.SpareRowsAndChannelMoves : Prop :=
  (∀ (s : State) (ch : Nat), Sound s →
    let c := chan s ch
    (∀ off e,
      let co := off / 64 * 64
      let k := keyOfChan s ch co
      let skip := !chanServes s ch co || hasMoved c co || isFresh s k || wantedBy s k
      (skip = true → exec (.scrubRead ch off e) s = .next s) ∧
      (skip = false → ∃ t, exec (.scrubRead ch off e) s = .next t ∧ (chan t ch).scrub = (off / 64 + 1) % 33554432 ∧
        (∀ a, t.byte a = s.byte a) ∧ (e = .clean → { t with chans := s.chans } = s) ∧
        (∀ sym, e = .corrected sym → c.st = 0 → isPoisoned s k = false →
          (chan t ch).ce = Nat.min (2 ^ 32 - 1) (c.ce + 1)) ∧
        (e = .uncorrectable → isPoisoned s k = false → (chan t ch).ue = Nat.min (2 ^ 32 - 1) (c.ue + 1) ∧
          isPoisoned t k = true ∧ (t.reg (hbmPage (ch / 32)) Reg.irqStat).testBit 0 = true))) ∧
    (∀ bank row bad, c.copying = some (bank, row) → ∃ t : State,
      exec (.rowRemapEnd ch bank row bad) s = .next t.flushWins ∧ (bank, row) ∈ (chan t ch).remapped ∧
      (∀ x ∈ (chan t ch).pend, ¬(x.bank = bank ∧ x.row = row)) ∧
      (t.reg (hbmPage (ch / 32)) Reg.irqStat).testBit 1 = true ∧
      ((∀ x ∈ c.rows, x.count < 3) → (chan t ch).copying = none) ∧
      (bad = [] → (chan t ch).ue = c.ue ∧ t.poison = s.poison) ∧ ∀ a, t.byte a = s.byte a) ∧
    (∀ bank row bad, c.copying ≠ some (bank, row) → exec (.rowRemapEnd ch bank row bad) s = .next s) ∧
    (∃ t, exec (.remapFlashCopy ch) s = .next t ∧
      (∀ x, x ∈ t.flash.remaps ↔ x ∈ s.flash.remaps ∨
        (x.1 = ch ∧ ((x.2.1, x.2.2) ∈ c.remapped ∨ ∃ y ∈ c.pend, y.bank = x.2.1 ∧ y.row = x.2.2))) ∧
      (∀ y ∈ (chan t ch).pend, y.flashed = true) ∧
      { t with chans := s.chans, flash := { t.flash with remaps := s.flash.remaps } } = s)) ∧
  (∀ (s : State) (ch : Nat), Sound s →
    let c := chan s ch
    let p := partOfChan s ch
    let k := keyOfChan s ch (4096 * c.moved)
    let e := codeBlock 0 (SMap.get [] (tier s p).moveTabs ch) (s.bytes k 4096)
    let n := ceilDiv (if codes? e then e.length else 4096) 512
    let found := findUnits s p (if ch < 128 then 0 else 1) n (2 ^ 41)
    let able := c.st = 2 ∧ c.lost = none ∧ c.moved < chanGrans ∧ (stack s (ch / 32)).offline = false ∧ c.mode = 0
    (¬able → exec (.granuleMoved ch) s = .next s) ∧
    (able → isFresh s k = true → ∃ t : State, exec (.granuleMoved ch) s = .next t.flushWins ∧
      (chan t ch).moved = c.moved + 1 ∧ { t with chans := s.chans } = s) ∧
    (able → isFresh s k = false → ∀ slab u, found = some (slab, u) → ∃ t : State,
      exec (.granuleMoved ch) s = .next t.flushWins ∧ (chan t ch).moved = c.moved + 1 ∧
      (tier t p).lent = (tier s p).lent ++ [{ chan := ch, gran := c.moved, slab := slab, unit := u, count := n }] ∧
      ∀ a, t.byte a = s.byte a) ∧
    (able → isFresh s k = false → found = none → ∃ t : State, exec (.granuleMoved ch) s = .next t.flushWins ∧
      (chan t ch).lost = some c.moved ∧ (chan t ch).moved = c.moved ∧ ∀ a, t.byte a = s.byte a) ∧
    (¬(c.st = 2 ∧ (c.lost ≠ none ∨ chanGrans ≤ c.moved)) → exec (.channelMoveEnd ch) s = .next s) ∧
    (c.st = 2 → (c.lost ≠ none ∨ chanGrans ≤ c.moved) → ∃ t, exec (.channelMoveEnd ch) s = .next t ∧ (chan t ch).st = 3 ∧
      (t.reg (hbmPage (ch / 32)) Reg.irqStat).testBit 3 = true ∧ (∀ a, t.byte a = s.byte a) ∧
      (∀ m, s.flash.retiredChans.find? (fun m => partOfChan s m == p && decide ((chan s m).st < 2)) = some m →
        (chan t m).st = 2 ∧ (chan t m).moved = 0)))

/-- A sample of a stack's sensors, all of them plausible, sets the level of Table HBM-3 by its hottest one: up at once, down one level after
1 ms at 3 C below the threshold (R188); the first sets it outright; a change raises THERM_LEVEL; a stack with fewer than half
of a die's sensors stays at amber or above (R406). At level 4 the stack loses power and its partition faults (R190).
A pacing window starts empty, with the share of the level then in force (R189).
A sample of a die's sensors, all of them plausible, sets a compute die's level of Table PWR-3 as R188 states; a change raises the
level event; with fewer than half of its sensors the die stays at hot or above (R406). At the trip level the die loses power
and its partition faults (R395). The hub die at 110 C trips the module (R396). A coolant sample sets the condition of Table
PHY-5 and, for the next period, its limit: none, that of the derate, or 1,200 W for a sensor fault (R460–R462); while a trip
condition lasts the limit stays, and after 1 s of it the module trips (R461). Lost lock, or a fault of a power stage, faults
a powered die: a compute, memory or base die its partition, the hub die the module (R406). -/
def Obligations.HeatCoolantAndDieFaults : Prop :=
  (∀ (s : State) (st now : Nat) (readings : List Nat), Sound s →
    let v := s.at_ now
    let x := stack s st
    let hot := ((sensorsIn x.excluded readings).map Prod.snd).foldl Nat.max 0
    let r := if x.sampled then heatStep x.level x.belowSince hot v.now else (heatReach hot, none)
    let lvl := if stackHeld x.excluded then Nat.max 2 r.1 else r.1
    (newBad x.excluded 4 readings = [] → x.offline = false → lvl ≠ 4 → ∃ t : State,
      exec (.hbmThermalSample st readings now) s = .next t.cooled ∧ (stack t st).level = lvl ∧
      (stack t st).belowSince = r.2 ∧ (stack t st).temp = Nat.min 255 hot ∧ (stack t st).sampled = true ∧
      (lvl ≠ (if x.sampled then x.level else 0) → (t.reg (hbmPage st) Reg.irqStat).testBit 4 = true) ∧
      (lvl = (if x.sampled then x.level else 0) → { t with stks := s.stks } = v) ∧ ∀ a, t.byte a = s.byte a) ∧
    (newBad x.excluded 4 readings = [] → x.offline = false → lvl = 4 → partOfStack s st < s.startup.part.length →
      ∃ t, exec (.hbmThermalSample st readings now) s = .next t ∧ (stack t st).offline = true ∧
        t.startup.part.getD (partOfStack s st) 1 = 2 ∧ ∀ i < 32, (chan t (32 * st + i)).copying = none) ∧
    (∀ ch, ∃ t : State, exec (.pacingWindow ch now) s = .next t.flushWins ∧
      chan t ch = { chan s ch with
        window := 0, windowStart := v.now
        share := if (stack s (ch / 32)).level = 2 then some 44800 else if (stack s (ch / 32)).level = 3 then some 25600 else none } ∧
      (∀ c, c ≠ ch → chan t c = chan s c) ∧ { t with chans := s.chans } = v)) ∧
  (∀ (s : State) (now : Nat), Sound s → s.startup.part.length = 4 →
    let v := s.at_ now
    let faulted (t : State) (p : Nat) : Prop := t.startup.part.getD p 1 = 2
    (∀ n readings, (n < 4 ∨ n = 12) → (die s n).offline = false →
      let x := die s n
      let rs := readings.take (dieSensors n)
      let hot := ((sensorsIn x.excluded rs).map Prod.snd).foldl Nat.max 0
      let r := if x.sampled then heatStep x.level x.belowSince hot v.now else (heatReach hot, none)
      let lvl := if dieSensors n < 2 * popCount (dieSensors n) x.excluded then Nat.max 2 r.1 else r.1
      let was := if x.sampled then x.level else 0
      let read (t : State) : Prop := (die t n).sampled = true ∧ (die t n).level = lvl ∧ (die t n).belowSince = r.2 ∧
        (die t n).temp = Nat.min 255 hot ∧ (die t n).peak = Nat.max x.peak (Nat.min 255 hot)
      newBad x.excluded (dieSensors n) rs = [] →
      (n < 4 → lvl ≠ 4 → ∃ t : State, exec (.dieThermalSample n readings now) s = .next t.cooled ∧ read t ∧
        (lvl ≠ was → (t.reg (Blk.pwr.page n) Reg.irqStat).testBit 2 = true) ∧ AsideFromEvents { v with dies := t.dies } t) ∧
      (n < 4 → lvl = 4 → ∃ t, exec (.dieThermalSample n readings now) s = .next t ∧ read t ∧ (die t n).offline = true ∧
        faulted t (partOfDie s n)) ∧
      (n = 12 → ∃ t : State, read t ∧ { t with dies := s.dies } = v ∧ exec (.dieThermalSample n readings now) s =
        .next (if 110 ≤ hot then t.tripModule false else t.cooled))) ∧
    (∀ n readings, ¬(n < 4 ∨ n = 12) → exec (.dieThermalSample n readings now) s = .next v) ∧
    (∀ tc fl, (s.startup.powered = false → exec (.coolantSample tc fl now) s = .next v) ∧
      (s.startup.powered = true →
        let bad := tc < 0 ∨ 900 < tc ∨ fl < 0 ∨ 300 < fl
        let trip := 480 < tc ∨ fl < 40
        let warm := 400 < tc ∨ fl < 60
        ∃ t : State, exec (.coolantSample tc fl now) s = .next t.endTrip ∧ { t with coolant := s.coolant } = v ∧
          t.coolant.temp = tc ∧ t.coolant.flow = fl ∧ t.coolant.limit = s.coolant.limit ∧
          (bad → t.coolant.cond = 3 ∧ t.coolant.limitPend = some (some 1200000, v.now) ∧ t.coolant.tripSince = none ∧
            t.coolant.normalSince = none) ∧
          (¬bad → trip → t.coolant.cond = 2 ∧ t.coolant.limitPend = s.coolant.limitPend ∧ t.coolant.normalSince = none ∧
            t.coolant.tripSince = some (s.coolant.tripSince.getD v.now)) ∧
          (¬bad → ¬trip → warm → t.coolant.cond = 1 ∧ t.coolant.tripSince = none ∧ t.coolant.normalSince = none ∧
            t.coolant.limitPend = some (some (min (3000000 - 12500 * (tc - 400)) (50000 * fl)).toNat, v.now)) ∧
          (¬bad → ¬trip → ¬warm → t.coolant.cond = 0 ∧ t.coolant.limitPend = some (none, v.now) ∧
            t.coolant.tripSince = none ∧ t.coolant.normalSince = some (s.coolant.normalSince.getD v.now)))) ∧
    (s.coolant.tripSince = none → exec (.coolantTrip now) s = .next v) ∧
    (∀ u, s.coolant.tripSince = some u → exec (.coolantTrip now) s =
      .next (if u + 1000000000 ≤ v.now ∧ s.startup.powered = true then v.tripModule true else v)) ∧
    (∀ n,
      let fed := n < 13 ∧ 3 ≤ s.startup.phase ∧ s.startup.powered = true ∧ (die s n).faulted = false
      exec (.powerStageFault n) s = exec (.diePllLockLoss n) s ∧
      (¬fed → exec (.diePllLockLoss n) s = .next s) ∧
      (fed → ∃ t, exec (.diePllLockLoss n) s = .next t ∧ (die t n).faulted = true ∧
        (n < 4 → faulted t (partOfDie s n)) ∧ (4 ≤ n → n < 12 → faulted t (partOfStack s (n - 4))) ∧
        (n = 12 → t.startup.dead = true) ∧ ∀ a, t.byte a = s.byte a)))

/-- A near-memory command that starts (ADD, MUL, FMA, AFFINE, DIV, MAX, MIN, RSQRT, EXP, GELU, SILU, RMSNORM, LAYERNORM, SOFTMAX, QUANT,
DEQUANT, ADAMW, LION, SGDM, PLUMB) waits on its slots: its home units each take a segment of it at the end of their queues, and it
holds the slabs that it names, the scale of its guard slot, and, for an optimiser, its hyperparameters and whether stamps are
kept (R62, R195, R200, R220, R228). The first pass of a QUANT with a guard slot that has no push yet looks for the amax (R62).
Where a home unit's queue is full the command stays in its ring (Table NMU-1; log 25). FENCE that starts waits for the
unfinished near-memory commands of its ring, and once they have ended NMU_FENCE_COMPLETE ends it and counts it (R212). -/
def Obligations.NmuCommandsStart : Prop :=
  ∀ (s u : State) (i : Instr) (op k : Nat) (x : Cmd), Sound s → ringRow i = some (3, op, k) →
    let n := ndOf x.bits
    (unitsFull op s k = true → exec i s = .next s) ∧
    (op ≠ 0x30 → unitsFull op s k = false → Starts true 3 op k nmuNeed nmuCheck s u x →
      ∃ t c, exec i s = .next t ∧ CmdFrame u t ∧ t.cmd? x.id = some c ∧ c.status = none ∧ c.wait = .slotGrant u.now ∧
        c.units = nmuHomes u x.part n ∧ c.slabs = nmuSlabs u x.part n ∧ c.stamps = (n.isOpt && stampsOn u x.part) ∧
        c.scales = (if n.guardEn then sampleScales u x.part [n.guard] else []) ∧
        c.hp = (if n.isOpt then hpSet u x.part n.guard else []) ∧
        (∀ ch ∈ c.units, (chan t ch).queue = (chan u ch).queue ++
          [{ cmd := x.id, pass := if op = 0x18 ∧ n.guardEn = true ∧ (guard u x.part n.guard).count = 0 then 1 else 2 }]) ∧
        ∀ ch, ch ∉ c.units → chan t ch = chan u ch) ∧
    (op = 0x30 → unitsFull op s k = false → Starts true 3 op k nmuNeed nmuCheck s u x →
      ∃ t c, exec i s = .next t ∧ CmdFrame u t ∧ t.cmd? x.id = some c ∧ c.status = none ∧ c.wait = .fence ∧ t.chans = u.chans ∧
        ∀ j, j ∈ c.covers ↔ ∃ d ∈ u.cmds, d.id = j ∧ d.id ≠ x.id ∧ d.ring = x.ring ∧ d.status = none ∧ envClass d.bits = 3) ∧
    (∀ id c, s.cmd? id = some c → c.status = none → c.wait = .fence →
      ((∃ d ∈ s.cmds, d.id ∈ c.covers ∧ d.status = none) → exec (.nmuFenceComplete id) s = .next s) ∧
      ((∀ d ∈ s.cmds, d.id ∈ c.covers → d.status.isSome = true) → ∃ t, exec (.nmuFenceComplete id) s = .next t ∧
        EndedWith t id (c.late.getD St.done) ∧ SMap.get 0 t.fences c.ring = SMap.get 0 s.fences c.ring + 1 ∧
        ∀ a, t.byte a = s.byte a))

/-- A channel for which every condition of R197 holds begins to switch in, its SLOTS counts and its stack notes the grant; else
nothing changes but the time. In processor mode at SLOT_NS, or when nothing of the queue can go on, it begins to switch out and
notes the accesses that wait (R199); 180 ns later memory mode returns, time in the slot and the longest time that an access
waited behind it are counted, and open-window accesses that wait are flushed (R196, R198). A command one of whose units
has waited longer than LIMIT_MS for its slot ends with SLOT_DENIED: the unit's count and the event follow (R200, R217).
180 ns after its grant a channel is in processor mode and its unit works through its queue (R196, R199). A step of an element-wise
command whose sources are at hand writes, for every element of its next 64-byte DST access, the operation's result on that
element's sources, and no other byte (R195, R204). GRANULE_COMMIT writes the granule in the buffer: its runs of w, m and v,
with the flags and the elements passed over counted; where stamps are kept, the granule's record is read then, and the
granule is written with its record's new value, or is skipped (R228, R229). In no other mode does it commit. -/
def Obligations.NearMemorySlotsAndUnits : Prop :=
  (∀ (s : State) (ch now : Nat), Sound s →
    let v := s.at_ now
    let k := chan v ch
    let only (t : State) (x : Chan) : Prop :=
      chan t ch = x ∧ (∀ j, j ≠ ch → chan t j = chan v j) ∧ { t with chans := v.chans, stks := v.stks } = v
    (slotFree v ch = true → ∃ t, exec (.nmuSlotGrant ch now) s = .next t ∧
      only t { k with mode := 1, slots := Nat.min (2 ^ 32 - 1) (k.slots + 1), slotStart := v.now } ∧
      (stack t (ch / 32)).lastGrant = some v.now) ∧
    (slotFree v ch = false → exec (.nmuSlotGrant ch now) s = .next v) ∧
    (k.mode = 2 → (k.slotStart + 180 + slotNs v ch ≤ v.now ∨ unitStalled v ch = true) →
      ∃ t, exec (.nmuSlotEnd ch now) s = .next t ∧
        only t { k with mode := 3, errs := [], outStart := v.now, backlog := (waitingAt v ch).map (·.id) }) ∧
    ((k.mode ≠ 2 ∨ (v.now < k.slotStart + 180 + slotNs v ch ∧ unitStalled v ch = false)) →
      exec (.nmuSlotEnd ch now) s = .next v) ∧
    (k.mode = 3 → k.outStart + 180 ≤ v.now → ∃ (t : State) (held : Nat),
      exec (.nmuSwitchOutEnd ch now) s = .next t.flushWins ∧
      only t { k with
        mode := 0, lastOut := v.now, procNs := k.procNs + (v.now - k.slotStart), heldNs := k.heldNs + held
        workSince := v.now } ∧
      (waitingAt v ch = [] → held = 0) ∧ (∀ r ∈ waitingAt v ch, v.now - Nat.max k.slotStart r.born ≤ held) ∧
      (waitingAt v ch ≠ [] → ∃ r ∈ waitingAt v ch, held = v.now - Nat.max k.slotStart r.born)) ∧
    ((k.mode ≠ 3 ∨ v.now < k.outStart + 180) → exec (.nmuSwitchOutEnd ch now) s = .next v) ∧
    (∀ id c since, s.cmd? id = some c → c.status = none → c.wait = .slotGrant since →
      let lim := 1000000 * s.regFld (nmuPage (2 * firstDie s c.part)) Reg.nmuGrantLim 13 0
      let late (x : Nat) : Prop :=
        (chan s x).mode = 0 ∧ Nat.max since (Nat.max (chan s x).lastOut (chan s x).workSince) + lim < v.now
      ((∀ x ∈ c.units, ¬late x) → exec (.nmuGrantTimeout id now) s = .next v) ∧
      ((∃ x ∈ c.units, late x) → ∃ x ∈ c.units, late x ∧ ∃ (u t : State), exec (.nmuGrantTimeout id now) s = .next t ∧
        CmdFrame v u ∧ AsideFromEvents u t ∧ EndedWith t id St.slotDenied ∧
        (chan t x).denied = Nat.min 65535 ((chan s x).denied + 1) ∧
        (t.reg (nmuPage (x / 32)) Reg.irqStat).testBit 0 = true))) ∧
  (∀ (s : State) (ch now : Nat), Sound s →
    let v := s.at_ now
    let k := chan v ch
    (∀ budget eccs, k.mode = 1 → k.slotStart + 180 ≤ v.now → ∃ (w : State),
      exec (.nmuSwitchInEnd ch now budget eccs) s = .next (w.runUnit ch budget) ∧
      chan w ch = { k with mode := 2, errs := eccs } ∧ (∀ j, j ≠ ch → chan w j = chan v j) ∧ { w with chans := v.chans } = v ∧
      (budget = 1 → eccs = [] → ∀ g gs c e, k.queue = g :: gs → s.cmd? g.cmd = some c → (ndOf c.bits).isEw = true →
        g.pass = 2 → nextElem v c.part (ndOf c.bits) ch ((ndOf c.bits).total + 1) g.next = some e →
        let n := ndOf c.bits
        let es := accessGroup n e
        let xs := n.srcBytes v es
        chainHeld v c.part c.id ch (granulesOf xs) = false → srcPoisoned v c.part xs = false →
        ∀ a, (w.runUnit ch 1).byte a = (v.writeCodes c n (es.map (fun e => (e, (n.put c n.tensor e (ewOp n
          (n.src v c.part n.src0 e) (if n.useRow1 then n.src v c.part n.src1 e else 0)
          (if n.useRow2 then n.src v c.part n.src2 e else 0))).val)))).byte a)) ∧
    (∀ budget eccs, (k.mode ≠ 1 ∨ v.now < k.slotStart + 180) → exec (.nmuSwitchInEnd ch now budget eccs) s = .next v) ∧
    ((chan s ch).commits = [] → exec (.granuleCommit ch) s = .next s) ∧
    (∀ g gs c, (chan s ch).commits = g :: gs → s.cmd? g.cmd = some c →
      let rec_ := s.num c.part (stampAt s c.part g.slab) 8
      let put := g.writes.foldl (fun t y => t.cmdWrite c.id c.part y.1 y.2) s
      let counted (w : State) : Prop :=
        (chan w ch).commits = gs ∧ ∃ d, w.cmd? g.cmd = some d ∧ d.nonfinite = c.nonfinite + g.nonfinite ∧
          d.flags = c.flags ||| g.flags
      (((chan s ch).mode ≠ 2 ∨ (c.stamps = true ∧ stampReachable s ch c.part g.slab = false)) →
        exec (.granuleCommit ch) s = .next s) ∧
      ((chan s ch).mode = 2 → c.stamps = false → ∃ (w : State), exec (.granuleCommit ch) s = .next (w.runUnit ch 1) ∧
        counted w ∧ ∀ a, w.byte a = put.byte a) ∧
      ((chan s ch).mode = 2 → c.stamps = true → stampReachable s ch c.part g.slab = true →
        poisonedRange s c.part (stampAt s c.part g.slab) 8 = false →
        (stampOf rec_ c.step.toNat g.gran = .update → ∃ (w : State), exec (.granuleCommit ch) s = .next (w.runUnit ch 1) ∧
          counted w ∧ ∀ a, w.byte a = (put.narrowAt c.part (stampAt s c.part g.slab)
            (leBytes 8 (stampNext rec_ c.step.toNat g.gran))).1.byte a) ∧
        (stampOf rec_ c.step.toNat g.gran ≠ .update → ∃ (w : State),
          exec (.granuleCommit ch) s = .next (w.runUnit ch 1) ∧ (chan w ch).commits = gs ∧ ∀ a, w.byte a = s.byte a))))

/-- A COLL command that starts (REDUCE_SCATTER, ALL_GATHER, ALL_REDUCE, BROADCAST, PERMUTE, RESHARD) is accepted with the time and the list that it reads, and waits on its collective; then the partition's
collectives are numbered and started where they can be (R287, R289, R293). On courses that are up, with no flit held and no
other collective, each course takes its next CSEQ, 1 after 65,535 (R289). One that exceeds LIMIT_MS ends with FABRIC_TIMEOUT,
sends ABANDON on every course that numbered it and raises COLL_TIMEOUT on their engines (R296). ABANDON ends the collective
that it names with FABRIC_TIMEOUT too; one not yet dispatched here is noted (R296). No byte written is taken back. -/
def Obligations.Collectives : Prop :=
  ∀ (s : State), Sound s →
    (∀ u i op k x, ringRow i = some (5, op, k) → Starts true 5 op k collNeed collCheck s u x →
      let d := collD x.bits
      ∃ (t : State) (c : Cmd), exec i s = .next (t.tryColls x.part) ∧ CmdFrame u t ∧ t.cmd? x.id = some c ∧ c.status = none ∧
        c.wait = .coll ∧ c.coll = { x.coll with
          accepted := true, t0 := u.now, list := if d.isList then readCollList u x.part d else [] } ∧
        ((∀ y ∈ collsOf t x.part, y.id = x.id) → x.coll.seqs = [] →
          (∀ j ∈ d.courses, ((course u j).st = 2 ∨ (course u j).st = 3) ∧ (course u j).held = [] ∧ (course u j).abandoned = []) →
          ∀ j ∈ d.courses, (course (t.tryColls x.part) j).cseq =
            if (course u j).cseq = 65535 then 1 else (course u j).cseq + 1)) ∧
    (∀ id now c, s.cmd? id = some c → c.status = none → c.coll.accepted = true →
      let v := s.at_ now
      (c.coll.t0 + collLimit s c.part ≤ v.now → ∃ w t, exec (.collTimeout id now) s = .next (State.tryColls t c.part) ∧
        CmdFrame v { w with out := v.out } ∧ w.out = v.out ++ c.coll.seqs.map (fun e => .abandon e.1 e.2) ∧
        AsideFromEvents w t ∧ EndedWith t id St.fabricTimeout ∧
        ∀ j ∈ (collD c.bits).courses, (t.reg (coursePage j) Reg.irqStat).testBit 3 = true) ∧
      (v.now < c.coll.t0 + collLimit s c.part → exec (.collTimeout id now) s = .next v)) ∧
    (∀ j cseq c, collOf s j cseq = some c → ∃ (t : State), exec (.abandon j cseq) s = .next (t.tryColls c.part) ∧
      CmdFrame s { t with out := s.out } ∧ t.out = s.out ++ c.coll.seqs.map (fun e => .abandon e.1 e.2) ∧
      EndedWith t c.id St.fabricTimeout) ∧
    (∀ j cseq, collOf s j cseq = none →
      (isAhead s j cseq = true → cseq ∉ (course s j).abandoned → ∃ t, exec (.abandon j cseq) s = .next t ∧
        course t j = { course s j with abandoned := (course s j).abandoned ++ [cseq] } ∧ { t with courses := s.courses } = s ∧
        ∀ i, i ≠ j → course t i = course s i) ∧
      ((isAhead s j cseq = false ∨ cseq ∈ (course s j).abandoned) → exec (.abandon j cseq) s = .next s))

/-- A flit with a CRC error is counted and answered with NAK (R277). One in SEQ order is taken, and one past a gap is answered with
NAK; ACK and SLOW are taken from either (R277, R297). A wavelength that loses lock is retired with WL_RETIRE, a flash record
and a replay of the flits held; below 12 its port is retired with PORT_RETIRE (R278). A peer that departs, by its notice or
its silence, makes its port show that, and its course loses a link (R279): a ring that may fall back walks again as a chain,
and any other course that needs the link is BROKEN with its collectives ended PEER_DEPARTED (R298, R299). Training brings a
port up with the wavelengths in service that lock and its peer, when they are 12 or more (R278, R280; log 26). -/
def Obligations.FlitsAndPorts : Prop :=
  ∀ (s : State) (q w : Nat), Sound s →
    let p := port s q
    let c := q / 2
    let rest (t : State) : Prop := ∀ j, j ≠ q → port t j = port s j
    let live := p.st = 1 ∧ p.wl.getLsbD w = true
    (∀ flit, ¬live → exec (.flitReceive q w flit) s = .next s ∧ exec (.wavelengthLockLoss q w) s = .next s) ∧
    (∀ flit, live → flitCrc flit ≠ flitFld flit 127 96 →
      ((p.errs.filter (fun e => decide (s.now < e.1 + 1000000))).filter (fun e => e.2 == w)).length < 64 →
      ∃ t, exec (.flitReceive q w flit) s = .next t ∧ rest t ∧ { t with ports := s.ports, out := s.out } = s ∧
        t.out = s.out ++ [.nak q p.rxSeq] ∧ (port t q).crcErr = Nat.min (2 ^ 32 - 1) (p.crcErr + 1) ∧ (port t q).rxSeq = p.rxSeq) ∧
    (∀ flit, live → flitCrc flit = flitFld flit 127 96 →
      let ahead := (flitFld flit 95 80 + 65536 - p.rxSeq) % 65536
      ∃ (t : State), exec (.flitReceive q w flit) s = .next (t.tryColls (partOfPort s q)) ∧
        (port t q).rxSeq = (if ahead = 1 then flitFld flit 95 80 else p.rxSeq) ∧
        (port t q).slow = (flitFld flit 23 16).testBit flagSlow ∧
        (1 < ahead → ahead < 32768 → ∃ l, t.out = l ++ [.nak q p.rxSeq]) ∧
        (flitFld flit 7 0 = 0 → flitFld flit 23 16 = 0 → { t with ports := s.ports, out := s.out } = s ∧ rest t)) ∧
    (live → 12 < wlCount p.wl → ∃ t, exec (.wavelengthLockLoss q w) s = .next t ∧ rest t ∧ t.courses = s.courses ∧
      port t q = { p with
        wl := p.wl &&& ~~~((1 : BitVec 16) <<< w), retiredWl := p.retiredWl ||| ((1 : BitVec 16) <<< w)
        errs := p.errs.filter (fun e => e.2 != w)
        replays := if p.retry = [] then p.replays else Nat.min (2 ^ 32 - 1) (p.replays + p.retry.length) } ∧
      t.flash = { s.flash with retiredWls := s.flash.retiredWls ++ [(q, w)] } ∧
      (t.reg (narPage q) Reg.irqStat).testBit 0 = true ∧ (p.retry ≠ [] → ∃ a, .replay q a ∈ t.out)) ∧
    (live → wlCount p.wl ≤ 12 → ∃ t, exec (.wavelengthLockLoss q w) s = .next t ∧ (port t q).st = 2 ∧ (port t q).wl = 0 ∧
      t.flash.retiredPorts = s.flash.retiredPorts ++ [q] ∧ (t.reg (narPage q) Reg.irqStat).testBit 0 = true ∧
      (t.reg (narPage q) Reg.irqStat).testBit 1 = true) ∧
    (∀ now, exec (.peerLockLoss q now) s = exec (.departedNotice q) (s.at_ now)) ∧
    (p.st ≠ 1 → exec (.departedNotice q) s = .next s) ∧
    (p.st = 1 → ∃ (u : State), exec (.departedNotice q) s = .next (u.loseLink q) ∧ rest u ∧ { u with ports := s.ports } = s ∧
      port u q = { p with st := 3, waiting := [], retry := [] } ∧
      (((course s c).st = 0 ∨ (course s c).st = 4) → u.loseLink q = u) ∧
      (((course s c).st = 2 ∨ (course s c).st = 3) → hasNext s c (q % 2 == 1) = true →
        let t := u.loseLink q
        (mayFallBack s c = false → (course t c).st = 4 ∧ (t.reg (coursePage c) Reg.irqStat).testBit 2 = true ∧
          ∀ k ∈ collsOf s (partOfCourse s c), c ∈ (collD k.bits).courses → EndedWith t k.id St.peerDeparted) ∧
        (mayFallBack s c = true → (q % 2 = 1 ∨ hasPeer s (nextPort c) = true) → (course t c).st = 1 ∧
          (course t c).fallback = true ∧ (course t c).lead = (q % 2 == 0)))) ∧
    (∀ locked peerId peerPort,
      let wl := locked &&& ~~~p.retiredWl
      ((p.st = 2 ∨ wlCount wl < 12 ∨ s.startup.phase < 4) → exec (.portLinkTraining q locked peerId peerPort) s = .next s) ∧
      (p.st ≠ 2 → 12 ≤ wlCount wl → 4 ≤ s.startup.phase → ∃ t,
        exec (.portLinkTraining q locked peerId peerPort) s = .next t ∧ AsideFromEvents { s with ports := t.ports } t ∧ rest t ∧
        port t q = { p with
          st := 1, wl := wl, peerId := peerId, peerPort := peerPort, txSeq := 0, rxSeq := 0, retry := [], waiting := []
          slow := false }))

/-- Setting ENABLE makes the course WALKING; a head sends its token along NEXT (R282). Clearing it takes the member out: its collectives
of the course end with PEER_DEPARTED and its peers are told (R279, R282). While ENABLE stays 1 only FALLBACK_EN and ENABLE
are written (R282). A member takes the token's count as its POSITION and sends it on with itself added; the head's own token
that has come round, or a chain's tail, brings the course UP with the members' IDs, and the verdict goes back; on a tag, kind or size
that does not fit, an ID that repeats or a second head the walk fails (R282, R305). A verdict settles the course here and goes on.
A walk that fails, or has lasted 1 s, leaves DOWN, or BROKEN for a fallback walk, and raises COURSE_CHANGE (R283). -/
def Obligations.CourseWalks : Prop :=
  ∀ (s : State) (c : Nat), Sound s → c < 8 →
    let pg := coursePage c
    let v := course s c
    let fails (w t : State) : Prop :=
      (course t c).st = (if (course w c).fallback = true then 4 else 0) ∧ (t.reg pg Reg.irqStat).testBit 2 = true ∧
        ∀ k ∈ collsOf w (partOfCourse w c), c ∈ (collD k.bits).courses → EndedWith t k.id St.peerDeparted
    (∀ who val, accessOf s who pg true = .ok →
      let t0 := s.setReg pg (Reg.narCourse + c % 2) (courseWord s c val)
      ((courseOn s c = true ∨ courseOn t0 c = false) → exec (.courseEnable who c val) s = .next t0) ∧
      (courseOn s c = false → courseOn t0 c = true →
        (courseReg t0 c 21 21 = 0 ∨ courseReg t0 c 62 62 = 0 ∨ hasPeer s (nextPort c) = true) →
        ∃ t, exec (.courseEnable who c val) s = .next t ∧
          course t c = { st := 1, walkStart := s.now, lead := courseReg t0 c 21 21 == 1 } ∧
          t.out = s.out ++ (if courseReg t0 c 21 21 = 1 then [.walk c (firstToken t0 c false)] else []) ∧
          { t with courses := s.courses, out := s.out } = t0 ∧ ∀ j, j ≠ c → course t j = course s j) ∧
      ((courseOn s c = false ∨ courseOn t0 c = true) → exec (.courseDisable who c val none) s = .next t0) ∧
      (courseOn s c = true → courseOn t0 c = false → ∃ t, exec (.courseDisable who c val none) s = .next t ∧
        courseOn t c = false ∧ (course t c).st = 0 ∧ (∀ q ∈ [prevPort c, nextPort c], hasPeer s q = true → .departed q ∈ t.out) ∧
        ∀ k ∈ collsOf s (partOfCourse s c), c ∈ (collD k.bits).courses → EndedWith t k.id St.peerDeparted)) ∧
    (∀ tok : WalkTok, tok.back = true → v.st = 1 →
      (tok.ok = true → ∃ t, exec (.walkToken c tok) s = .next t ∧ (course t c).st = (if v.fallback then 3 else 2) ∧
        (course t c).ids = tok.ids) ∧
      (tok.ok = false → ∃ t, exec (.walkToken c tok) s = .next t ∧ fails s t ∧ ∃ l, t.out = l ++ [.walk c tok])) ∧
    (∀ tok : WalkTok, tok.back = false → tok.fallback = false →
      let own := s.settings.moduleId
      let fits := tok.tag = courseReg s c 15 0 ∧ tok.kind = courseReg s c 62 62
      ((v.st ≠ 1 ∨ v.fallback = true) → exec (.walkToken c tok) s = .next s) ∧
      (v.st = 1 → v.fallback = false → courseReg s c 21 21 = 1 →
        (fits → tok.ids.head? = some own → tok.kind = 0 → tok.count = courseSize s c → ∃ t, exec (.walkToken c tok) s = .next t ∧
          (course t c).st = 2 ∧ (course t c).ids = tok.ids ∧
          (courseSize s c ≠ 1 → ∃ l, t.out = l ++ [.walk c { tok with back := true, ok := true }])) ∧
        (¬(fits ∧ tok.ids.head? = some own ∧ tok.kind = 0 ∧ tok.count = courseSize s c) → ∃ t,
          exec (.walkToken c tok) s = .next t ∧ fails s t ∧ ∃ l, t.out = l ++ [.walk c { tok with back := true, ok := false }])) ∧
      (v.st = 1 → v.fallback = false → courseReg s c 21 21 = 0 →
        let good := fits ∧ tok.size = courseSize s c ∧ own ∉ tok.ids
        (good → (tok.kind ≠ 1 ∨ hasPeer s (nextPort c) = true) → ∃ t, exec (.walkToken c tok) s = .next t ∧
          course t c = { v with pos := tok.count } ∧ { t with courses := s.courses, out := s.out } = s ∧
          t.out = s.out ++ [.walk c { tok with
            count := tok.count + 1, ids := tok.ids ++ [own], shards := tok.shards ++ shardReports s (partOfCourse s c) }]) ∧
        (good → tok.kind = 1 → hasPeer s (nextPort c) = false → tok.count + 1 = courseSize s c → ∃ t,
          exec (.walkToken c tok) s = .next t ∧ (course t c).st = 2 ∧ (course t c).pos = tok.count ∧
          (course t c).ids = tok.ids ++ [own]) ∧
        (¬good → ∃ t, exec (.walkToken c tok) s = .next t ∧ fails s t ∧
          ∃ l, t.out = l ++ [.walk c { tok with back := true, ok := false }]))) ∧
    (∀ now, (v.st = 1 → v.walkStart + 1000000000 ≤ (s.at_ now).now → ∃ t, exec (.walkTimeout c now) s = .next t ∧ fails s t) ∧
      ((v.st ≠ 1 ∨ (s.at_ now).now < v.walkStart + 1000000000) → exec (.walkTimeout c now) s = .next (s.at_ now)))

/-- COPIED for an OUT entry commits it, STABLE with its new owner and the next EPOCH, and sends FLIP; FLIP writes the same entry at
every member, which sends it on and lets its RESHARD commands note it (R301). Software sets OWNER of the selected entry
while it is STABLE, or IN with a departed PEER, and in no other state; a commit in the same tick prevails, with notice 0x0305
(R300, R307). A timing flit of the source course steps the timebase at the first lock, and later moves it on by at most 100
ppm, never back; members up on the course relay it (R304). After 10 ms without one LOCKED clears and TIME_LOST is raised;
every 1 ms the member at position 0 of each course sends the time, and hops measure their delays (R304). -/
def Obligations.ShardsAndTime : Prop :=
  ∀ (s : State), Sound s →
    let only (t : State) (p i : Nat) (e : Shard) : Prop :=
      shard t p i = e ∧ { t with shards := s.shards, out := s.out } = s ∧
        ∀ k, k ≠ shardKey p i → SMap.get {} t.shards k = SMap.get {} s.shards k
    (∀ c i, let p := partOfCourse s c
      let e := shard s p i
      (e.st = 1 → ∃ (t : State), exec (.copied c i) s = .next (t.noteFlip c i) ∧
        only t p i { st := 0, owner := e.peer, epoch := (e.epoch + 1) % 65536, peer := 0 } ∧
        t.out = s.out ++ [.flip c i e.peer ((e.epoch + 1) % 65536)]) ∧
      (e.st ≠ 1 → exec (.copied c i) s = .next s) ∧
      ∀ owner epoch, ∃ (t : State), exec (.flip c i owner epoch) s = .next (t.noteFlip c i) ∧
        only t p i { st := 0, owner := owner, epoch := epoch, peer := 0 } ∧
        t.out = s.out ++ (if e = { st := 0, owner := owner, epoch := epoch, peer := 0 } then [] else [.flip c i owner epoch])) ∧
    (∀ who page val, blkOf page = .nar → accessOf s who page true = .ok →
      let p := (ownerOf s page).num
      let i := s.regFld page Reg.narShardSel 13 0
      let e := shard s p i
      ((e.st = 0 ∨ (e.st = 2 ∧ hasDeparted s p e.peer = true)) → ∃ t, exec (.narShardWrite who page val none) s = .next t ∧
        only t p i { e with st := 0, owner := fld val.toNat 16 0, peer := 0 } ∧ t.out = s.out) ∧
      (¬(e.st = 0 ∨ (e.st = 2 ∧ hasDeparted s p e.peer = true)) → exec (.narShardWrite who page val none) s = .next s) ∧
      ∀ owner epoch, ∃ t, exec (.narShardWrite who page val (some (owner, epoch))) s = .next t ∧
        AsideFromEvents { s with shards := t.shards } t ∧
        shard t p i = { st := 0, owner := owner, epoch := epoch, peer := 0 } ∧
        ((∀ c ∈ s.conns, c.queue.length ≤ 4088) →
          ∃ n ∈ t.log, n.code = 0x0305 ∧ n.d1 = ids16 [page, Reg.narShard, i] ∧ n.d2 = val)) ∧
    (∀ who page val commit, blkOf page ≠ .nar → exec (.narShardWrite who page val commit) s = .next s) ∧
    (∀ c time delay, ∃ t, exec (.timingFlit c time delay) s = .next t ∧
      { t with now := s.now, time := s.time, out := s.out } = s ∧
      (s.settings.timeSource ≠ c → t.now = s.now ∧ t.time = s.time) ∧
      (s.settings.timeSource = c → t.now = (if s.time.everLocked then
          s.now + Nat.min (time + delay - s.now) ((s.now - s.time.lastFlit) / 10000) else time + delay) ∧
        t.time = { s.time with
          locked := true, everLocked := true, offset := ((time + delay : Nat) : Int) - (s.now : Int), lastFlit := t.now }) ∧
      t.out = s.out ++ (if ((course s c).st = 2 ∨ (course s c).st = 3) ∧ hasPeer s (nextPort c) = true ∧
        (course s c).pos + 1 < courseSize s c then [.timing (nextPort c) (time + delay)] else [])) ∧
    (∀ now, let v := s.at_ now
      (s.time.locked = true → s.time.lastFlit + 10000000 ≤ v.now → ∃ t, exec (.timeLost now) s = .next t ∧
        AsideFromEvents { v with time := { s.time with locked := false } } t ∧
        (t.reg (coursePage s.settings.timeSource) Reg.irqStat).testBit 5 = true) ∧
      ((s.time.locked = false ∨ v.now < s.time.lastFlit + 10000000) → exec (.timeLost now) s = .next v) ∧
      (v.now < s.time.lastSend + 1000000 → exec (.timingFlitSend now) s = .next v) ∧
      (s.time.lastSend + 1000000 ≤ v.now → ∃ t, exec (.timingFlitSend now) s = .next t ∧ { t with out := v.out } =
        { v with time := { s.time with lastSend := v.now } } ∧
        let up := (List.range 8).filter (fun c => (course s c).st == 2 || (course s c).st == 3)
        t.out = s.out ++ (up.filter (fun c => (course s c).pos == 0 && hasPeer s (nextPort c))).map
          (fun c => .timing (nextPort c) v.now) ++
          ((up.flatMap (fun c => [prevPort c, nextPort c])).filter (hasPeer s)).map .delayExchange))

/-- On a link that is up a good frame moves the sequence on; a bad one has a replay requested, which counts as a replay, a check error
and an upset, and has no other effect; the fourth failed replay of one frame, or more than 256 replays within 1 ms, fault the
link (R313). A link that loses lock is faulted: LINK_FAULT is raised, flash records it, and Table PKG-4 applies: a partition
whose dies it joined, or whose die or stack it served, is FAULTED, the stack is offline, the courses of a Narar engine are BROKEN,
a bridge counts as faulted, and a module link fences the open site. A link faulted or unused before stays as it is.
A response to an outstanding request completes its access with its data, or as poisoned (R176, R320). Any other message of an
admitted die, read data of a wrong length, or a response later than TMO_US fences the module that the die answers for, or on
the SVT-24C the site; a draw above 60 W fences the site until a cold reset (R320). A fence ends the commands whose
accesses it cuts with OPEN_FENCED and raises OPEN_FENCE in the views of the partitions concerned; waiting window accesses are
looked at again. A response in time prevails over its timeout (R321). -/
def Obligations.LinksAndOpenSite : Prop :=
  (∀ (s : State) (l : Nat), Sound s → s.startup.part.length = 4 → l < 30 →
    let x := link s l
    let down (t : State) (p : Nat) : Prop := t.startup.part.getD p 1 = 2
    (∀ now good, let v := s.at_ now
      (x.st ≠ 1 → exec (.linkFrameReceive l good now) s = .next v) ∧
      (x.st = 1 → good = true → ∃ t, exec (.linkFrameReceive l good now) s = .next t ∧
        link t l = { x with fails := 0, rxSeq := (x.rxSeq + 1) % 65536 } ∧ { t with links := v.links } = v ∧
        ∀ j, j ≠ l → link t j = link s j) ∧
      (x.st = 1 → good = false →
        let times := x.times.filter (fun u => decide (v.now < u + 1000000)) ++ [v.now]
        ∃ (u : State), exec (.linkFrameReceive l good now) s =
            .next (if 5 ≤ x.fails + 1 ∨ 256 < times.length then u.faultLink l else u) ∧
          link u l = { x with
            fails := x.fails + 1, times := times, checkErr := Nat.min (2 ^ 32 - 1) (x.checkErr + 1)
            replays := Nat.min (2 ^ 32 - 1) (x.replays + 1) } ∧
          u.regFld (Blk.link.page l) Reg.fault 63 32 =
            Nat.min (2 ^ 32 - 1) (s.regFld (Blk.link.page l) Reg.fault 63 32 + 1) ∧
          u.out = v.out ++ [.linkReplay l] ∧ { u with links := v.links, out := v.out, regs := v.regs } = v)) ∧
    ((x.st = 2 ∨ x.st = 3) → exec (.linkLockLoss l) s = .next s ∧ s.faultLink l = s) ∧
    (x.st ≠ 2 → x.st ≠ 3 → ∃ (t : State), exec (.linkLockLoss l) s = .next t ∧ t = s.faultLink l ∧ (link t l).st = 2 ∧
      t.flash.faultedLinks = s.flash.faultedLinks ++ [l] ∧ (t.reg 1 Reg.irqStat).testBit 0 = true ∧
      (l < 6 → partOfDie s (cdEnds l).1 = partOfDie s (cdEnds l).2 → down t (partOfDie s (cdEnds l).1)) ∧
      (l < 6 → partOfDie s (cdEnds l).1 ≠ partOfDie s (cdEnds l).2 → t.startup = s.startup ∧ t.cmds = s.cmds) ∧
      (6 ≤ l → l < 14 → (stack t (l - 6)).offline = true ∧ down t (partOfStack s (l - 6))) ∧
      (14 ≤ l → l < 18 → ∀ c ∈ [2 * (l - 14), 2 * (l - 14) + 1],
        ((course s c).st = 1 ∨ (course s c).st = 2 ∨ (course s c).st = 3) → (course t c).st = 4) ∧
      (18 ≤ l → l < 22 → down t (partOfDie s (l - 18))) ∧
      (22 ≤ l → l < 26 → bridgeFaulted t ((l - 22) / 2) = true) ∧
      (26 ≤ l → s.site.fenced.length = 4 → t.site.siteFenced = true ∨ t.site.fenced.getD (l - 26) false = true))) ∧
  (∀ (s : State), Sound s →
    let ended (t : State) (hit : OpenReq → Prop) : Prop := ∀ r ∈ s.site.reqs, hit r → ∀ q c, r.req < 2 ^ 40 →
      s.reqs.find? (fun y => y.id == r.req) = some q → persist? s q.cmd = none → s.cmd? q.cmd = some c → c.status = none →
      EndedWith t q.cmd St.openFenced
    (∀ m, s.flash.variantC = false → s.site.siteFenced = false → s.site.fenced.length = 4 → s.site.irqStat.length = 4 → m < 4 →
      s.site.fenced.getD m false = false → ∃ t, s.fenceModule m = State.flushWins t ∧ t.site.fenced = s.site.fenced.set m true ∧
        (∀ r, r ∈ t.site.reqs ↔ r ∈ s.site.reqs ∧ r.module ≠ m) ∧ ended t (fun r => r.module = m) ∧
        t.site.irqStat.getD (partOfDie s m) false = true ∧ ∀ a, t.byte a = s.byte a) ∧
    (∀ m, s.flash.variantC = false → (s.site.siteFenced = true ∨ s.site.fenced.getD m false = true) → s.fenceModule m = s) ∧
    (∀ m, s.flash.variantC = true → s.fenceModule m = s.fenceSite false) ∧
    (∀ m, exec (.openDieMessage (.other m)) s = .next (if s.site.admitted = true then s.fenceModule m else s)) ∧
    (∀ m req data bad, s.site.admitted = false → exec (.openDieMessage (.response m req data bad)) s = .next s) ∧
    (∀ m req data bad, s.site.admitted = true →
      let gone := { s.site with reqs := s.site.reqs.filter (fun y => y.id != req) }
      (s.site.reqs.find? (fun r => r.id == req && r.module == m) = none →
        exec (.openDieMessage (.response m req data bad)) s = .next (s.fenceModule m)) ∧
      (∀ r, s.site.reqs.find? (fun r => r.id == req && r.module == m) = some r →
        (∀ q, s.reqs.find? (fun q => q.id == r.req) = some q →
          (q.kind = .read → data.length ≠ q.len → bad = false →
            exec (.openDieMessage (.response m req data bad)) s = .next (s.fenceModule m)) ∧
          (q.kind = .read → (data.length = q.len ∨ bad = true) → ∃ t, exec (.openDieMessage (.response m req data bad)) s = .next t ∧
            t.reqs = s.reqs.map (fun y => if y.id = q.id then
              { y with served := true, data := data, bad := bad, badStatus := St.dataPoisoned } else y) ∧
            { t with reqs := s.reqs } = { s with site := gone }) ∧
          (q.kind ≠ .read → ∃ t, exec (.openDieMessage (.response m req data bad)) s = .next t ∧ t.site = gone ∧
            t.reqs = s.reqs.map (fun y => if y.id = q.id then
              { y with served := true, bad := bad, badStatus := St.dataPoisoned } else y) ∧
            ∀ a, t.byte a = (if bad = true then s else s.pokeRange (addrPart q.addr) (addrOff q.addr) q.data).byte a)) ∧
        (∀ a, s.reqs.find? (fun q => q.id == r.req) = none → s.pcie.accs.find? (fun a => winReq a.id == r.req) = some a →
          a.data = none → (data.length = a.len ∨ bad = true) → ∃ t,
            exec (.openDieMessage (.response m req data bad)) s = .next (State.flushWins t) ∧
            t.out = s.out ++ [.winData a.win (if bad = true then List.replicate a.len 255 else data)] ∧
            t.pcie = { s.pcie with accs := s.pcie.accs.filter (fun b => b.id != a.id) } ∧
            { t with out := s.out, pcie := s.pcie } = { s with site := gone }))) ∧
    (∀ req now, let v := s.at_ now
      (s.site.reqs.find? (fun r => r.id == req) = none → exec (.openResponseTimeout req now) s = .next v) ∧
      ∀ r, s.site.reqs.find? (fun r => r.id == req) = some r → exec (.openResponseTimeout req now) s =
        .next (if r.sent + s.regFld 2 Reg.openCfg 15 0 * 1000 < v.now then v.fenceModule r.module else v)) ∧
    (∀ mw, (s.site.admitted = false ∨ mw ≤ 60000) → exec (.openPowerWindow mw) s = .next s) ∧
    (∀ mw, s.site.admitted = true → 60000 < mw → s.site.powerFence = false → ∃ t,
      exec (.openPowerWindow mw) s = .next (State.flushWins t) ∧ t.site.siteFenced = true ∧ t.site.powerFence = true ∧
      t.site.reqs = [] ∧ ended t (fun _ => True) ∧ ∀ a, t.byte a = s.byte a))

/-- A window access that R331 fences, or a read of a sealed partition (R383), is counted with its window and raises WIN_FENCE; a read
returns all ones, and a write is dropped. One that can be served at once returns the bytes at its address, or stores its bytes
there (R330, R332); behind an earlier write to its bytes it waits (R333), and one to the open window is sent to
the die there and waits (R319). One that has waited 40 ms completes as a fenced access, and the others are looked at
again (R332). Else nothing changes. -/
def Obligations.WindowAccesses : Prop :=
  ∀ (s : State) (w off len : Nat) (data : Option (List Byte)), Sound s → w < 8 → s.pcie.d3hot = false →
    (∀ bs, data = some bs → len = bs.length) →
    let row : Instr := match data with
      | none => .windowRead w off len []
      | some bs => .windowWrite w off bs
    let addr := winAddr s w off
    let p := addrPart addr
    let x := addrOff addr
    let k := keyAt s p x
    let pg := Blk.sec.page (winPart s w)
    let sealed := data = none ∧ s.regFld pg Reg.secSeal 0 0 = 1
    let fencedFrom (v t : State) (win l : Nat) (read : Bool) : Prop := ∃ (u a : State), { u with regs := v.regs } = v ∧
      u.regFld 0 Reg.hstErr 63 40 = Nat.min (2 ^ 24 - 1) (v.regFld 0 Reg.hstErr 63 40 + 1) ∧
      u.regFld 0 Reg.hstErr 39 37 = win ∧ AsideFromEvents u a ∧ (a.reg 0 Reg.irqStat).testBit 1 = true ∧
      t = { a with out := a.out ++ if read then [.winData win (List.replicate l 255)] else [] }
    let acc : WinAcc := { id := s.pcie.nextAcc, win := w, addr := addr, len := len, data := data, since := s.now }
    let v : State := { s with pcie := { s.pcie with nextAcc := s.pcie.nextAcc + 1 } }
    (¬sealed → winFenced s w addr len = true → ∃ t, exec row s = .next t ∧ fencedFrom s t w len data.isNone) ∧
    (sealed → ∃ z t, exec row s = .next t ∧ { z with regs := s.regs } = s ∧
      z.regFld pg Reg.secDenied 31 0 = Nat.min (2 ^ 32 - 1) (s.regFld pg Reg.secDenied 31 0 + 1) ∧ fencedFrom z t w len true) ∧
    (¬sealed → winFenced s w addr len = false →
      (winBehind s acc = true → exec row s = .next { v with pcie := { v.pcie with accs := s.pcie.accs ++ [acc] } }) ∧
      (winBehind s acc = false → isOpen x = false → missing s p x len = [] →
        (hasMoved (chan s (chanOfKey s k)) (chanOff s k) = true ∨ (chanServes s (chanOfKey s k) (chanOff s k) = true ∧
          paceRoom (chan s (chanOfKey s k)) (64 * accesses x len) = true)) →
        (data = none → isFresh s k = false → poisoned s k len = false → ∃ t, exec row s = .next t ∧
          t.out = s.out ++ [.winData w (s.bytes k len)] ∧ (∀ a, t.byte a = s.byte a) ∧ t.pcie = v.pcie) ∧
        (∀ bs, data = some bs → x + len ≤ hbmHomed s p → poisonedRange s p x len = false → ∃ t, exec row s = .next t ∧ t.out = s.out ∧
          (∀ a, t.byte a = (s.wideAt p x bs).1.byte a) ∧ t.pcie = v.pcie)) ∧
      (winBehind s acc = false → isOpen x = true → (data = none → isFresh s k = false) →
        (∀ r ∈ s.site.reqs, r.id ≠ winReq acc.id) → ∃ t, exec row s = .next t ∧ t.out = s.out ++ [.openReq (winReq acc.id)] ∧
          t.pcie = { v.pcie with accs := s.pcie.accs ++ [acc] } ∧
          t.site.reqs = s.site.reqs ++
            [{ id := winReq acc.id, module := openModule s p x, sent := s.now, req := winReq acc.id }] ∧
          { t with out := s.out, pcie := s.pcie, site := s.site } = s)) ∧
    (∀ id now, let z := s.at_ now
      (s.pcie.accs.find? (fun a => a.id == id) = none → exec (.windowAccessTimeout id now) s = .next z) ∧
      ∀ a, s.pcie.accs.find? (fun a => a.id == id) = some a →
        (z.now < a.since + 40000000 → exec (.windowAccessTimeout id now) s = .next z) ∧
        (a.since + 40000000 ≤ z.now → a.win < 8 → ∃ t, exec (.windowAccessTimeout id now) s = .next (State.flushWins t) ∧
          fencedFrom { z with
            pcie := { z.pcie with accs := s.pcie.accs.filter (fun b => b.id != id) }
            site := { z.site with reqs := s.site.reqs.filter (fun r => r.id != winReq id) } } t a.win a.len a.data.isNone))

/-- FLR disables every window and ring, resets the rings' contexts with their commands aborted, and clears the MSI-X table and pending
bits; a ring with commands that have still to write their records drains first (R326, R347). The loss of a PCIe link that
was up while the module is operational starts the hold-off timer (R350, R424). Link up takes the link's speed and
width, ends the hold-off, which DOWNS counts with LINK_DOWN, and sends the messages that were pending (R348, R350). -/
def Obligations.PcieFunction : Prop :=
  ∀ (s : State), Sound s →
    (∃ t, exec .flr s = .next t ∧ t.pcie.msix = [] ∧ t.pcie.pba = [] ∧
      (∀ w < 8, t.regFld 0 (Reg.hstWin + w) 63 63 = 0) ∧
      (∀ k < 64, (ring s k).st ≠ 0 → (ring t k).st = (if s.cmds.any (fun c => c.ring == k) then 2 else 0) ∧
        t.regFld (ringPage k) Reg.ringCtl 63 63 = 0 ∧ ∀ n, (ctx t n).ring ≠ some k) ∧
      ∀ c ∈ s.cmds, c.ring < 64 → (ring s c.ring).st ≠ 0 → ∃ d, t.cmd? c.id = some d ∧ d.status.isSome = true) ∧
    (∀ perst now, let v := s.at_ now
      ∃ t, exec (.pcieLinkDown perst now) s = .next t ∧ { t with pcie := s.pcie } = v ∧
        t.pcie = { s.pcie with
          up := false, perst := perst
          holdoff := if s.pcie.up = true ∧ s.startup.phase = 7 then some v.now else s.pcie.holdoff }) ∧
    (∀ now speed width, let v := s.at_ now
      let u := { v with pcie := { s.pcie with
        up := true, everUp := true, perst := false, speed := speed, widthLog2 := width, holdoff := none } }
      (s.pcie.holdoff = none → ∃ t, exec (.pcieLinkUp now speed width) s = .next t ∧ PendingSent u t) ∧
      (s.pcie.holdoff ≠ none → ∃ w a t, exec (.pcieLinkUp now speed width) s = .next t ∧ { w with regs := u.regs } = u ∧
        w.regFld 0 Reg.hstLink 47 32 = Nat.min 65535 (s.regFld 0 Reg.hstLink 47 32 + 1) ∧ AsideFromEvents w a ∧
        (a.reg 0 Reg.irqStat).testBit 2 = true ∧ PendingSent a t))

/-- A ring whose areas fit starts when ENABLE goes to 1: its indices are 0 and its records are cleared first; one that does not
fit, or drains, stays off with RING_ERR (R343, R347). Clearing ENABLE drains it, and once its commands have left, its
contexts retire (R145, R347). CTX_RESET ends its commands with ABORTED_BY_RESET and frees its contexts, with held units and
claims released poisoned (R155, R347). A doorbell within the size stores TAIL; any other raises RING_ERR (R344). A command
that has ended and makes no post leaves: its 32-byte record stands in its slot, its slot is free, RING_CNT counts it,
and what waited may go on (R345). A record in a slab without a copy has it fetched first (R253). -/
def Obligations.RingControl : Prop :=
  ∀ (s : State) (k : Nat), Sound s → k < 64 →
    let pg := ringPage k
    let p := partOfRing s k
    let on := s.regFld pg Reg.ringCtl 63 63 = 1
    (∀ who val, exec (.ringDisable who k val) s = exec (.ringEnable who k val) s) ∧
    (∀ who (val : Word), accessOf s who pg true = .ok → val.getLsbD 62 = false →
      let n := (writeFields (fieldsOf .ring Reg.ringCtl) (s.reg pg Reg.ringCtl) val.toNat) % 32
      let may := mayEnable s p = true ∧ (ring s k).st ≠ 2 ∧ ringFits s k n = true
      (on → val.getLsbD 63 = true → exec (.ringEnable who k val) s = .next s) ∧
      (on → val.getLsbD 63 = false → ∃ t, exec (.ringEnable who k val) s = .next t ∧ ring t k = { ring s k with st := 2 } ∧
        t.regFld pg Reg.ringCtl 63 63 = 0 ∧ { t with rings := s.rings, regs := s.regs } = s ∧ ∀ j, j ≠ k → ring t j = ring s j) ∧
      (¬on → val.getLsbD 63 = false → ∃ t, exec (.ringEnable who k val) s = .next t ∧ t.regFld pg Reg.ringCtl 4 0 = n ∧
        { t with regs := s.regs } = s) ∧
      (¬on → val.getLsbD 63 = true → may → ∃ t, exec (.ringEnable who k val) s = .next t ∧
        ring t k = { st := 1, clearing := true } ∧ t.regFld pg Reg.ringCtl 63 63 = 1 ∧ t.regFld pg Reg.ringCtl 4 0 = n ∧
        { t with rings := s.rings, regs := s.regs } = s ∧ ∀ j, j ≠ k → ring t j = ring s j) ∧
      (¬on → val.getLsbD 63 = true → ¬may → ∃ u t, exec (.ringEnable who k val) s = .next t ∧ { u with regs := s.regs } = s ∧
        u.regFld pg Reg.ringCtl 63 63 = 0 ∧ AsideFromEvents u t ∧ (t.reg pg Reg.irqStat).testBit 0 = true)) ∧
    (let x := addrOff (ringCpl s k);
      ((ring s k).st ≠ 0 → (ring s k).clearing = true → missing s p x (32 * ringSize s k) = [] → ∃ t,
        exec (.ringClearEnd k) s = .next t ∧ ring t k = { ring s k with clearing := false } ∧
        ∀ a, t.byte a = (s.wideAt p x (List.replicate (32 * ringSize s k) 0)).1.byte a) ∧
      ((ring s k).st ≠ 0 → (ring s k).clearing = true → missing s p x (32 * ringSize s k) ≠ [] → ∃ t,
        exec (.ringClearEnd k) s = .next t ∧ { t with tiers := s.tiers } = s)) ∧
    (((ring s k).st = 0 ∨ (ring s k).clearing = false) → exec (.ringClearEnd k) s = .next s) ∧
    (((ring s k).st ≠ 2 ∨ ∃ c ∈ s.cmds, c.ring = k) → exec (.ringDrainEnd k) s = .next s) ∧
    ((ring s k).st = 2 → (∀ c ∈ s.cmds, c.ring ≠ k) → ∃ t, exec (.ringDrainEnd k) s = .next t ∧ (ring t k).st = 0 ∧
      (∀ n, (ctx t n).ring ≠ some k) ∧ ∀ a, t.byte a = s.byte a) ∧
    (∀ who, accessOf s who pg true = .ok → ∃ (t : State), exec (.ctxReset who k) s = .next (t.tryColls p) ∧
      (∀ c ∈ s.cmds, c.ring = k → c.status = none → EndedWith t c.id St.aborted) ∧ (∀ n, (ctx t n).ring ≠ some k) ∧
      t.rings = s.rings ∧ ∀ a, t.byte a = s.byte a) ∧
    (∀ who val, accessOf s who pg true = .ok →
      ((ring s k).st = 1 → fld val.toNat 15 0 < ringSize s k → ∃ t, exec (.doorbell who k val) s = .next t ∧
        (ring t k).tail = fld val.toNat 15 0 ∧ (ring t k).head = (ring s k).head ∧ { t with rings := s.rings } = s ∧
        ∀ j, j ≠ k → ring t j = ring s j) ∧
      (((ring s k).st ≠ 1 ∨ ringSize s k ≤ fld val.toNat 15 0) → ∃ t, exec (.doorbell who k val) s = .next t ∧
        AsideFromEvents s t ∧ (t.reg pg Reg.irqStat).testBit 0 = true)) ∧
    (∀ id, (∀ c, s.cmd? id = some c → c.status = none) → exec (.commandCompletion id) s = .next s) ∧
    (∀ id c st, s.cmd? id = some c → c.status = some st → c.ring = k → posts c st = false →
      let x := recordAt s c
      let fin := finalStatus s c st
      (missing s c.part x 32 ≠ [] → (∀ n ∈ missing s c.part x 32, unreachable s c.part n = false) → ∃ t,
        exec (.commandCompletion id) s = .next t ∧ { t with tiers := s.tiers } = s) ∧
      (missing s c.part x 32 = [] → isPoisoned s (keyAt s c.part x) = false → c.trace = false → ∃ (m : State),
        exec (.commandCompletion id) s = .next ((m.lintelArrivals c.part).tryColls c.part) ∧ m.cmd? id = none ∧
        (∀ j, j ≠ id → m.cmd? j = s.cmd? j) ∧
        (∀ a, m.byte a = (s.narrowAt c.part x (recordBytes c fin s.now false)).1.byte a) ∧
        ring m k = { ring s k with busy := (ring s k).busy.erase c.slot } ∧
        m.regFld pg Reg.ringCnt 31 0 = (s.regFld pg Reg.ringCnt 31 0 + 1) % 2 ^ 32 ∧
        m.regFld pg Reg.ringCnt 63 32 = (if fin ≤ 1 then s.regFld pg Reg.ringCnt 63 32
          else Nat.min (2 ^ 32 - 1) (s.regFld pg Reg.ringCnt 63 32 + 1))))

/-- A responder that is up answers in order (R361): GET_VERSION starts over, GET_CAPABILITIES and NEGOTIATE_ALGORITHMS move the
connection on, and the other requests need it whole; one that comes too early, or asks for what is not supported, gets an
ERROR and changes nothing. GET_DIGESTS, GET_CERTIFICATE, CHALLENGE and GET_MEASUREMENTS change no state; measurements are
over the values of the indices that the responder has (R362). KEY_EXCHANGE opens a session, FINISH completes it with the
requester's root, END_SESSION ends it. A responder that is down is silent. DOE discovery names the three types of each of
the five instances. The codes and the bodies' order are the model's (PRESUMED, log 34). -/
def Obligations.SpdmRequests : Prop :=
  ∀ (s : State) (resp : Nat),
    let x := spdmOf s resp
    let tells (u : State) (code : Nat) (data : List Nat) : State := { u with out := u.out ++ [.spdm resp code data] }
    let only (u : State) : Prop :=
      { u with spdm := s.spdm, secs := s.secs } = s ∧ ∀ r, r ≠ resp → spdmOf u r = spdmOf s r
    let early (i : Instr) (least : Nat) : Prop := (spdmUp s resp = false → exec i s = .next s) ∧
      (spdmUp s resp = true → x.conn < least → exec i s = .next (tells s 0x7F [0x04]))
    early (.getVersion resp) 0 ∧ early (.getCapabilities resp) 1 ∧ (∀ b, early (.negotiateAlgorithms resp b) 2) ∧
    early (.getDigests resp) 3 ∧ (∀ n, early (.getCertificate resp n) 3) ∧ (∀ n y, early (.challenge resp n y) 3) ∧
    (∀ n y, early (.getMeasurements resp n y) 3) ∧ (∀ y, early (.keyExchange resp y) 3) ∧
    (∀ y r, early (.finish resp y r) 3) ∧ (∀ y, early (.endSession resp y) 3) ∧
    (∀ y b, early (.keyPut resp y b) 3 ∧ early (.keyClear resp y b) 3) ∧
    (spdmUp s resp = true →
      (∃ u, exec (.getVersion resp) s = .next (tells u 0x04 [0x13]) ∧ only u ∧ spdmOf u resp = { conn := 1 }) ∧
      (1 ≤ x.conn → ∃ u caps, exec (.getCapabilities resp) s = .next (tells u 0x61 caps) ∧ only u ∧
        spdmOf u resp = { x with conn := Nat.max x.conn 2 }) ∧
      (2 ≤ x.conn → exec (.negotiateAlgorithms resp false) s = .next (tells s 0x7F [0x01]) ∧
        ∃ u, exec (.negotiateAlgorithms resp true) s = .next (tells u 0x63 [384]) ∧ only u ∧ spdmOf u resp = { x with conn := 3 }) ∧
      (3 ≤ x.conn →
        (let leaf := s.startup.cdi.toNat :: leafNames s resp;
          exec (.getDigests resp) s = .next (tells s 0x01 (Config.spdmBody resp 0x01 leaf)) ∧
          exec (.getCertificate resp 0) s = .next (tells s 0x02 (Config.spdmBody resp 0x02 leaf))) ∧
        (∀ n, n ≠ 0 → exec (.getCertificate resp n) s = .next (tells s 0x7F [0x01]) ∧
          ∀ y, exec (.challenge resp n y) s = .next (tells s 0x7F [0x01])) ∧
        (∀ y : BitVec 256, exec (.challenge resp 0 y) s = .next (tells s 0x03
          (Config.spdmBody resp 0x03 (y.toNat :: (measIndices s resp).flatMap (measValue s resp)))) ∧
          exec (.getMeasurements resp 0 y) s = .next (tells s 0x60 [(measIndices s resp).length]) ∧
          ∀ n, n ≠ 0 → n ≠ 0xFF →
            (n ∈ measIndices s resp → ∃ body, exec (.getMeasurements resp n y) s = .next (tells s 0x60 (n :: body))) ∧
            (n ∉ measIndices s resp → exec (.getMeasurements resp n y) s = .next (tells s 0x7F [0x01]))) ∧
        (∀ y : BitVec 16, ∃ (u : State) (id : BitVec 32) (body : List Nat),
          exec (.keyExchange resp y) s = .next (tells u 0x64 (id.toNat :: body)) ∧
          only { u with draws := s.draws } ∧ u.draws = s.draws + 1 ∧ id.setWidth 16 = y ∧
          spdmOf u resp = { x with sessions := x.sessions.filter (fun e => e.id != id) ++ [{ id := id }] }) ∧
        (∀ id root, (sessionOf s resp id = none → exec (.finish resp id root) s = .next (tells s 0x7F [0x01]) ∧
            exec (.endSession resp id) s = .next (tells s 0x7F [0x01])) ∧
          ∀ e, sessionOf s resp id = some e →
            (e.open_ = true → exec (.finish resp id root) s = .next (tells s 0x7F [0x04]) ∧
              ∃ u, exec (.endSession resp id) s = .next (tells u 0x6C [id.toNat]) ∧ only u ∧
                spdmOf u resp = { x with sessions := x.sessions.filter (fun e => e.id != id) }) ∧
            (e.open_ = false → exec (.endSession resp id) s = .next (tells s 0x7F [0x01]) ∧
              ∃ u, exec (.finish resp id root) s = .next (tells u 0x65 [id.toNat]) ∧ only u ∧ sessionOf u resp id =
                some { e with open_ := true, root := root })))) ∧
    (∀ inst i, (firmwareUp s = true → inst < 5 → i < 3 → exec (.doeDiscovery inst i) s =
        .next { s with out := s.out ++ [.spdm inst 0 [1, i, (i + 1) % 3]] }) ∧
      ((firmwareUp s = false ∨ 5 ≤ inst ∨ 3 ≤ i) → exec (.doeDiscovery inst i) s = .next s))

/-- KEY_PUT in a session whose requester shows the bound tenant's root loads the slot with its key and KEY_ID and raises KEY_CHANGE;
KEY_CLEAR empties it; a session that may not ask gets RESULT 2, and a malformed payload RESULT 1: both are counted and change
no slot (R363, R364, R369). OPEN that starts samples its key and the bundle's header and goes on with its chunks in ascending
order (R364, R367): a chunk whose tag verifies is written decrypted to its place; one whose tag fails, or that reads as
poisoned, counts in RESULT with the first one's number, and its plaintext bytes are not written (R368). STATUS returns the
generation and the mask of loaded slots, and CLEAR empties its slot, both DONE (R369). -/
def Obligations.KeySlots : Prop :=
  ∀ (s : State), Sound s →
    (∀ resp id e (payload : BitVec 320), spdmUp s resp = true → 3 ≤ (spdmOf s resp).conn → resp ≠ 0 →
      sessionOf s resp id = some e → e.open_ = true →
      let p := resp - 1
      let n := putFld payload 15 8
      let ok := (sec s p).bound = true ∧ e.root = some (sec s p).root ∧ unsettled s p = false
      let answer (t : State) (result : Nat) : State := { t with out := t.out ++ [.spdm resp 0x7E
        ([putFld payload 7 0, result, 0, 0] ++ (leBytes 4 (putFld payload 63 32)).map BitVec.toNat)] }
      let refused (i : Instr) (result : Nat) : Prop := ∃ t, exec i s = .next (answer t result) ∧ { t with regs := s.regs } = s ∧
        t.regFld (secPage p) Reg.secDenied 63 32 = Nat.min (2 ^ 32 - 1) (s.regFld (secPage p) Reg.secDenied 63 32 + 1)
      let slots (u : State) (y : KeySlot) : Prop := { u with secs := s.secs } = s ∧ keySlot u p n = y ∧
        ∀ m, m ≠ n → keySlot u p m = keySlot s p m
      (¬ok → refused (.keyPut resp (some id) payload) 2 ∧ refused (.keyClear resp (some id) payload) 2) ∧
      (ok → putBad payload 1 = true → refused (.keyPut resp (some id) payload) 1) ∧
      (ok → putBad payload 2 = true → refused (.keyClear resp (some id) payload) 1) ∧
      (ok → putBad payload 1 = false → ∃ u t, exec (.keyPut resp (some id) payload) s = .next (answer t 0) ∧
        AsideFromEvents u t ∧ (t.reg (secPage p) Reg.irqStat).testBit 1 = true ∧ slots u {
          valid := true, keyId := BitVec.ofNat 32 (putFld payload 63 32), key := BitVec.ofNat 256 (putFld payload 319 64) }) ∧
      (ok → putBad payload 2 = false → (keySlot s p n).valid = true → ∃ u t,
        exec (.keyClear resp (some id) payload) s = .next (answer t 0) ∧ AsideFromEvents u t ∧
        (t.reg (secPage p) Reg.irqStat).testBit 1 = true ∧ slots u {}) ∧
      (ok → putBad payload 2 = false → (keySlot s p n).valid = false →
        exec (.keyClear resp (some id) payload) s = .next (answer s 0))) ∧
    (∀ resp session payload, spdmUp s resp = true → 3 ≤ (spdmOf s resp).conn →
      (resp = 0 ∨ session = none ∨ ∃ id, session = some id ∧ ∀ e, sessionOf s resp id = some e → e.open_ = false) →
      ∀ i ∈ [Instr.keyPut resp session payload, .keyClear resp session payload],
        exec i s = .next { s with out := s.out ++ [.spdm resp 0x7F [0x04]] }) ∧
    (∀ u k x, Starts true 7 1 k openNeed openCheck s u x →
      let h := u.range x.part (addrOff (keySrc x.bits)) 64
      ∃ (t : State) (c : Cmd), exec (.keyOpen k) s = .next (t.pumpOpen x.id (hdrChunks h + 1)) ∧ t.cmd? x.id = some c ∧
        c.key = (keySlot u x.part (keyFld x.bits 11 8)).key ∧ c.header = h ∧ c.chunk = 0 ∧ c.status = none ∧
        { t with cmds := u.cmds } = u) ∧
    (∀ id n c, s.cmd? id = some c → c.status = none → c.wait = .none → c.chunk < hdrChunks c.header →
      chunkNeed s c c.chunk = [] →
      let i := c.chunk
      let len := chunkLen c.header i
      let bad := poisonedRange s c.part (chunkAt c i) len || poisonedRange s c.part (tagAt c i) 16
      let plain := Config.gcmOpen c.key (chunkIv c.header i) c.header (s.range c.part (chunkAt c i) len)
        (s.range c.part (tagAt c i) 16)
      (∀ bs, bad = false → plain = some bs → ∃ (t : State) (d : Cmd), s.pumpOpen id (n + 1) = t.pumpOpen id n ∧
        t.cmd? id = some d ∧ d.chunk = i + 1 ∧ d.result = c.result ∧
        ∀ a, t.byte a = ((cutsOf 64 (plainAt c i) len).foldl (fun (t : State) (x : Nat × Nat) =>
          (t.wideAt c.part x.1 ((bs.drop (x.1 - plainAt c i)).take x.2)).1) s).byte a) ∧
      ((bad = true ∨ plain = none) → ∃ (t : State) (d : Cmd), s.pumpOpen id (n + 1) = t.pumpOpen id n ∧ t.cmd? id = some d ∧
        d.chunk = i + 1 ∧ fld d.result.toNat 63 32 = (fld c.result.toNat 63 32 + 1) % 2 ^ 32 ∧
        (fld c.result.toNat 63 32 = 0 → i < 2 ^ 32 → fld d.result.toNat 31 0 = i) ∧ ∀ a, t.byte a = s.byte a)) ∧
    (∀ u k x, Starts true 7 2 k (rowNeed 7 2) (rowCheck 7 2) s u x → ∃ t c, exec (.keyStatus k) s = .next t ∧ CmdFrame u t ∧
      EndedWith t x.id St.done ∧ t.cmd? x.id = some c ∧
      c.result = BitVec.ofNat 64 (2 ^ 32 * (sec u x.part).memGen.toNat + slotMask u x.part)) ∧
    (∀ u k x, Starts true 7 3 k (rowNeed 7 3) (rowCheck 7 3) s u x →
      let n := keyFld x.bits 11 8
      ∃ t, exec (.keyCmdClear k) s = .next t ∧ EndedWith t x.id St.done ∧ (keySlot t x.part n).valid = false ∧
        (∀ m, m ≠ n → keySlot t x.part m = keySlot u x.part m) ∧ (∀ a, t.byte a = s.byte a) ∧
        ((keySlot u x.part n).valid = true → (t.reg (secPage x.part) Reg.irqStat).testBit 1 = true))

/-- START copies a signed length of the partition's range as its steering program: the program runs, is measured, and the sessions and
key slots of the partition go (R359, R362). A length of 0 or above the share changes nothing and is noted; a copy that fails
leaves the program faulted; under a skim, an overwrite or scaffold mode START is ignored (R359, R372). STOP stops it
(R359). A write from the steering program itself is ignored. A hub core's access outside its bounds stops the
partition's hub cores and raises STEER_FAULT (R357); an ecall returns −2 in a0 (R358). SEAL takes the value written by the
partition's steering program alone (R382, R383).
At the end of a skim every command of the partition is gone, its keys are drawn anew, which erases its memory, its key slots are
empty, its shards are gone, and the skim counts with its time (R370, R372); then the binding applies, and SKIM_DONE is
raised. With OVERWRITE the overwrite begins instead, and flash records it (R373); at its end OVR_MS has its time, SKIM_DONE is
raised again and the binding applies (R373). A release leaves the partition unbound (R372). A read-back that finds a
nonzero word puts the partition into its reset (R372). With none running, or while a reset or fault of the partition
stands, nothing changes. -/
def Obligations.SteeringAndTenantSwitches : Prop :=
  (∀ (s : State) (p : Nat), Sound s → p < s.settings.partitions →
    let pg := secPage p
    (∀ who val, exec (.steerStop who p val) s = exec (.steerStart who p val) s) ∧
    (∀ who (val : Word), accessOf s who pg true = .ok → steeringOnly s who pg = true →
      exec (.steerStart who p val) s = .next s ∧ ∃ t, exec (.secSealWrite who p val) s = .next t ∧
        t.regFld pg Reg.secSeal 0 0 = val.toNat % 2 ∧ { t with regs := s.regs } = s) ∧
    (∀ who (val : Word), accessOf s who pg true = .ok → steeringOnly s who pg = false →
      exec (.secSealWrite who p val) s = .next s ∧
      let w := s.setRegFld pg Reg.secSteerCtl 47 32 (fld val.toNat 47 32)
      let kib := fld val.toNat 47 32
      let a := 4096 * s.regFld pg Reg.secSteerAddr 47 12
      let image := if inRange s p a (1024 * kib) && !isOpen (addrOff a) then imageBytes s p (addrOff a) kib else none
      let measuredAs (t : State) (x : Sec) : Prop := ∃ u : State, { u with secs := w.secs, hubGrps := w.hubGrps } = w ∧
        AsideFromEvents u t ∧ sec t p = { x with keys := [], spdm := { x.spdm with sessions := [] } } ∧
        ((sec s p).keys ≠ [] → (t.reg pg Reg.irqStat).testBit 1 = true)
      (val.getLsbD 0 = false → val.getLsbD 1 = false → exec (.steerStart who p val) s = .next w) ∧
      (val.getLsbD 0 = true → val.getLsbD 1 = false →
        (unsettled s p = true → exec (.steerStart who p val) s = .next w) ∧
        (unsettled s p = false → (kib = 0 ∨ shareKib s < kib) → ∃ t, exec (.steerStart who p val) s = .next t ∧
          AsideFromEvents w t ∧ t.secs = s.secs) ∧
        (unsettled s p = false → 0 < kib → kib ≤ shareKib s →
          (∀ bs, image = some bs → ∃ t, exec (.steerStart who p val) s = .next t ∧
            measuredAs t { sec s p with steer := 1, imageKib := kib, meas4 := Config.sha384 bs } ∧
            SMap.get 0 t.hubGrps (steerGroup s p) = 1) ∧
          (image = none → ∃ t, exec (.steerStart who p val) s = .next t ∧
            measuredAs t { sec s p with steer := 2, imageKib := 0, meas4 := 0 } ∧ SMap.get 0 t.hubGrps (steerGroup s p) = 0))) ∧
      (val.getLsbD 0 = false → val.getLsbD 1 = true → ∃ t, exec (.steerStart who p val) s = .next t ∧
        (sec t p).steer = 0 ∧ (sec t p).imageKib = 0 ∧ (sec t p).meas4 = 0 ∧ SMap.get 0 t.hubGrps (steerGroup s p) = 0 ∧
        ((sec s p).meas4 ≠ 0 → (sec t p).keys = [] ∧ (sec t p).spdm.sessions = []) ∧ t.mem = s.mem ∧ t.cmds = s.cmds)) ∧
    (∀ core, (∀ q, steersOn s core = some q → ∀ addr, (inBounds s core addr = true → exec (.steerTrap core addr) s = .next s) ∧
        (inBounds s core addr = false → ∃ t, exec (.steerTrap core addr) s = .next t ∧ AsideFromEvents (s.stopSteer q 2) t ∧
          (sec t q).steer = 2 ∧ (t.reg (secPage q) Reg.irqStat).testBit 2 = true)) ∧
      ((steersOn s core).isSome = true → exec (.steerEcall core) s =
        .next { s with out := s.out ++ [.ecall core (BitVec.ofInt 64 (-2))] }) ∧
      (steersOn s core = none → exec (.steerEcall core) s = .next s ∧ ∀ addr, exec (.steerTrap core addr) s = .next s))) ∧
  (∀ (s : State) (p : Nat), Sound s → p < s.settings.partitions → s.startup.part.length = 4 → s.startup.recovering.length = 4 →
    let x := sec s p
    let runs := s.startup.phase = 7 ∧ s.startup.part.getD p 1 = 0
    let bound (t : State) (b : Binding) : Prop :=
      (sec t p).skim = none ∧ (sec t p).overwriting = none ∧ (t.reg (secPage p) Reg.irqStat).testBit 0 = true ∧
        (b.release = true → (sec t p).bound = false ∧ (sec t p).tenant = 0 ∧ (sec t p).root = 0 ∧ (sec t p).gen = x.gen) ∧
        (b.release = false → (sec t p).bound = true ∧ (sec t p).tenant = b.tenant ∧ (sec t p).root = b.root ∧
          (sec t p).gen = x.gen + 1)
    let wiped (t : State) : Prop := (∀ c ∈ t.cmds, c.part ≠ p) ∧ (∀ k, keyPart k = p → isFresh t k = true ∧ t.byte k = 0) ∧
      (∀ k, keyPart k ≠ p → t.byte k = s.byte k) ∧ (sec t p).keys = [] ∧ (sec t p).memGen = x.memGen + 1 ∧
      (∀ i < 16384, shard t p i = {})
    ((x.skim = none ∨ ¬runs) → ∀ us dirty, exec (.skimEnd p us dirty) s = .next s) ∧
    ((x.overwriting = none ∨ ¬runs) → ∀ ms, exec (.overwriteEnd p ms) s = .next s) ∧
    (∀ b, x.skim = some b → runs → x.queued = none → x.overwriting = none →
      (∀ us, b.overwrite = false → ∃ t, exec (.skimEnd p us false) s = .next t ∧ wiped t ∧ bound t b ∧
        (sec t p).skims = Nat.min 65535 (x.skims + 1) ∧ (sec t p).lastUs = Nat.min 255 us) ∧
      (∀ us, b.overwrite = true → ∃ t, exec (.skimEnd p us false) s = .next t ∧ wiped t ∧ (sec t p).skim = none ∧
        (sec t p).overwriting = some b ∧ (sec t p).bound = x.bound ∧ (sec t p).gen = x.gen ∧ p ∈ t.flash.overwrites ∧
        (sec t p).skims = Nat.min 65535 (x.skims + 1) ∧ (t.reg (secPage p) Reg.irqStat).testBit 0 = true) ∧
      (∀ us, ∃ t, exec (.skimEnd p us true) s = .next t ∧ t.startup.part.getD p 0 = 1 ∧
        t.startup.recovering.getD p false = true ∧ ∀ c ∈ t.cmds, c.part ≠ p)) ∧
    (∀ b, x.overwriting = some b → runs → x.queued = none → ∀ ms, ∃ t, exec (.overwriteEnd p ms) s = .next t ∧ bound t b ∧
      (sec t p).ovrMs = Nat.min 65535 ms ∧ p ∉ t.flash.overwrites ∧ ∀ k, t.byte k = s.byte k))

/-- A TLS 1.3 client whose certificate ends in the installed root, or is self-signed while none is installed, takes the lowest free
connection of four (R377, R378); disconnecting ends that connection alone. A message on no connection, or while the firmware does not run, is not
answered; until a root is installed all but INSTALL_ROOT is denied (R378). A read answers with a register of a module-wide
page, or with one of the values that only Xanna reads (log 37); a partition's page is denied (R379, R445). SUBSCRIBE queues the
entries of the full log from SEQ on, oldest first (R416). The first root is the client's own certificate; later a client of the root
in force installs another (R378). -/
def Obligations.XannaConnections : Prop :=
  ∀ (s : State) (n : Nat),
    let answers (t : State) (typ seq st : Nat) (v : Word) : State := { t with out := t.out ++ [.xanna n typ seq st v] }
    let live := firmwareUp s = true ∧ (conn? s n).isSome = true
    let deaf (i : Instr) (typ seq : Nat) : Prop := (¬live → exec i s = .next s) ∧
      (live → s.flash.root = none → exec i s = .next (answers s typ seq 2 0))
    (∀ self root tls, let fits := firmwareUp s = true ∧ tls = true ∧
        ((s.flash.root = none ∧ self = true) ∨ s.flash.root = some root)
      (fits → n < 4 → conn? s n = none → (∀ m < n, (conn? s m).isSome = true) → ∃ t,
        exec (.xannaConnect self root tls) s = .next t ∧ t.conns = s.conns ++ [{ num := n, cert := root }] ∧
        { t with conns := s.conns } = s) ∧
      ((¬fits ∨ ∀ m < 4, (conn? s m).isSome = true) → exec (.xannaConnect self root tls) s = .next s)) ∧
    (∃ t, exec (.xannaDisconnect n) s = .next t ∧ conn? t n = none ∧ (∀ m, m ≠ n → conn? t m = conn? s m) ∧
      { t with conns := s.conns } = s) ∧
    (∀ page reg, deaf (.xannaRead n page reg) 0x0001 0) ∧ (∀ seq, deaf (.subscribe n seq) 0x0001 0) ∧
    (∀ seq p len, deaf (.spdmRelay n seq p len) 0x0050 seq) ∧
    (live → s.flash.root.isSome = true →
      (∀ page reg, page < pageCount → reg < 512 → exec (.xannaRead n page reg) s =
        .next (if ownerOf s page = .module then answers s 0x0001 0 0 (readReg s .host page reg) else answers s 0x0001 0 2 0)) ∧
      (∀ page reg, (pageCount < page ∨ (page < pageCount ∧ 512 ≤ reg)) →
        exec (.xannaRead n page reg) s = .next (answers s 0x0001 0 1 0)) ∧
      (∀ reg, reg ≠ 2 → exec (.xannaRead n pageCount reg) s = .next (answers s 0x0001 0 0 (xannaOnly s reg))) ∧
      (∃ v, exec (.xannaRead n pageCount 2) s = .next { answers s 0x0001 0 0 v with freeIdx := s.freeIdx + 1 }) ∧
      (∀ seq, ∃ t, exec (.subscribe n seq) s = .next (answers t 0x0001 0 0 0) ∧ { t with conns := s.conns } = s ∧
        (∀ m, m ≠ n → conn? t m = conn? s m) ∧ ∀ c, conn? s n = some c → conn? t n = some { c with
          sub := some seq, queue := (s.log.reverse.filter (fun e => decide (seq ≤ e.seq))).map snagWords }) ∧
      (∀ seq p len, exec (.spdmRelay n seq p len) s =
        .next (answers s 0x0050 seq (if (p < s.settings.partitions ∨ p = 0xFF) ∧ len ≤ 2 ^ 24 then 0 else 1) 0))) ∧
    (∀ seq root, (¬live → exec (.installRoot n seq root) s = .next s) ∧
      ∀ c, live → conn? s n = some c →
        (s.flash.root = none → exec (.installRoot n seq root) s =
          .next (answers { s with flash := { s.flash with root := some c.cert } } 0x0060 seq 0 0)) ∧
        (s.flash.root = some c.cert → exec (.installRoot n seq root) s =
          .next (answers { s with flash := { s.flash with root := some root } } 0x0060 seq 0 0)) ∧
        (∀ r, s.flash.root = some r → r ≠ c.cert → exec (.installRoot n seq root) s = .next (answers s 0x0060 seq 2 0)))

/-- Each setting that Table SEC-11 allows is kept, as a pending one where it waits for a reset or a period, and its answer says which;
any other value is answered as malformed and changes nothing: the partition count 1, 2 or 4, a cache share of 0 to 256 GiB in
steps of 8, fenced power, a cap of 1,200 to 3,000 W in steps of 10, an image whose signature verifies and whose SVN is not
below the minimum, which goes into the slot that did not boot, host access and windows, which wait while their partition
is in scaffold mode, and a module ID, time source or open-site owner. A module reset request is answered and begins the reset. -/
def Obligations.XannaSettings : Prop :=
  ∀ (s : State) (n seq : Nat), firmwareUp s = true → (conn? s n).isSome = true → s.flash.root.isSome = true →
    let kept (i : Instr) (v : State) (typ st : Nat) (x : Settings) : Prop :=
      exec i s = .next { v with settings := x, out := v.out ++ [.xanna n typ seq st 0] }
    let bad (i : Instr) (v : State) (typ : Nat) : Prop := exec i s = .next { v with out := v.out ++ [.xanna n typ seq 1 0] }
    let x := s.settings
    (∀ c, (c ∈ [1, 2, 4] → kept (.partitionCount n seq c) s 0x0010 3 { x with partPend := some c }) ∧
      (c ∉ [1, 2, 4] → bad (.partitionCount n seq c) s 0x0010)) ∧
    (∀ g, (shareLegal g → kept (.tierCacheShare n seq g) s 0x0011 3 { x with shareGib := g }) ∧
      (¬shareLegal g → bad (.tierCacheShare n seq g) s 0x0011)) ∧
    (∀ on now, kept (.fencedPower n seq on now) (s.at_ now) 0x0012 3
      { x with fencedPend := some on, fencedAt := (s.at_ now).now }) ∧
    (∀ w now, (capLegal w → kept (.powerCaps n seq w now) (s.at_ now) 0x0013 3 { x with capPend := some (w, (s.at_ now).now) }) ∧
      (¬capLegal w → bad (.powerCaps n seq w now) (s.at_ now) 0x0013)) ∧
    (∀ img : FwImage, (img.signed = true ∧ s.flash.minSvn ≤ img.svn → exec (.firmwareImage n seq img) s = .next { s with
        flash := if s.startup.slotB = true then { s.flash with slotA := img } else { s.flash with slotB := img }
        out := s.out ++ [.xanna n 0x0014 seq 3 0] }) ∧
      (¬(img.signed = true ∧ s.flash.minSvn ≤ img.svn) → bad (.firmwareImage n seq img) s 0x0014)) ∧
    exec (.moduleResetRequest n seq) s =
      .next (State.moduleReset { s with out := s.out ++ [.xanna n 0x0014 seq 0 0] } 1) ∧
    (∀ h, (hostSettingOk s h = false → bad (.hostAccessSettings n seq h) s 0x0030) ∧
      (hostSettingOk s h = true → (∃ p, hostSettingPart h = some p ∧ s.startup.part.getD p 1 = 1) →
        kept (.hostAccessSettings n seq h) s 0x0030 3 { x with hostPend := x.hostPend ++ [h] })) ∧
    (∀ ms, 10 ≤ ms → ms ≤ 10000 → kept (.hostAccessSettings n seq (.holdoff ms)) s 0x0030 0 { x with holdoffMs := ms }) ∧
    (∀ p m, p < x.partitions → m ≤ 2 → s.startup.part.getD p 1 ≠ 1 → hostMode s p ≠ m → x.hostAccess.length = 4 → p < 4 → ∃ t,
      exec (.hostAccessSettings n seq (.access p m)) s = .next t ∧ hostMode t p = m ∧ (sec t p).keys = [] ∧
      (sec t p).spdm.sessions = [] ∧ { t.settings with hostAccess := x.hostAccess } = x) ∧
    (∀ w p, w < 8 → p < x.partitions → s.startup.part.getD p 1 ≠ 1 → x.winPart.length = 8 → ∃ t,
      exec (.hostAccessSettings n seq (.window w p)) s = .next t ∧ winPart t w = p ∧
      (winPart s w ≠ p → ∀ q ∈ [winPart s w, p], (sec t q).keys = [] ∧ (sec t q).spdm.sessions = [])) ∧
    (∀ id, (id < 2 ^ 17 → kept (.moduleIdSettings n seq (.moduleId id)) s 0x0031 0 { x with moduleId := id }) ∧
      (2 ^ 17 ≤ id → bad (.moduleIdSettings n seq (.moduleId id)) s 0x0031)) ∧
    (∀ c, ((c < 8 ∨ c = 15) → ∃ t, exec (.moduleIdSettings n seq (.timeSource c)) s = .next t ∧
        t.settings = { x with timeSource := c } ∧ t.time = (if c = x.timeSource then s.time else { s.time with locked := false }) ∧
        t.out = s.out ++ [.xanna n 0x0031 seq 0 0]) ∧
      (8 ≤ c → c ≠ 15 → bad (.moduleIdSettings n seq (.timeSource c)) s 0x0031)) ∧
    (∀ p, let may := s.flash.variantC = true ∧ p < x.partPend.getD x.partitions
      (may → kept (.moduleIdSettings n seq (.openOwner p)) s 0x0031 3 { x with ownerPend := some p }) ∧
      (¬may → bad (.moduleIdSettings n seq (.openOwner p)) s 0x0031))

/-- A binding or release starts the partition's skim, which ends its commands, streams, sessions and window accesses, and applies at its end; behind a
skim, an overwrite, a reset or a fault it waits, in place of one that waits already (R372, R381, R429). A channel that is to be
retired is recorded in flash and moves at once unless another channel of its partition does (R183, R184). A unit returned to service
leaves its flash record and is in service, or is at its next training or reset (R278, R313, R404, R405). A partition or unit
that does not exist is answered as malformed and changes nothing. -/
def Obligations.XannaTenantsAndUnits : Prop :=
  ∀ (s : State) (n seq : Nat), Sound s → firmwareUp s = true → (conn? s n).isSome = true → s.flash.root.isSome = true →
    let answers (t : State) (typ st : Nat) : State := { t with out := t.out ++ [.xanna n typ seq st 0] }
    (∀ p tenant root ovr row typ b, (row, typ, b) ∈
        [(Instr.tenantBind n seq p tenant root ovr, 0x0020,
            ({ tenant := tenant, root := root, overwrite := ovr, release := false } : Binding)),
          (Instr.tenantRelease n seq p ovr, 0x0021, { overwrite := ovr, release := true })] →
      let x := sec s p
      let busy := x.skim.isSome = true ∨ x.overwriting.isSome = true ∨ s.startup.phase ≠ 7 ∨ s.startup.part.getD p 1 ≠ 0
      (s.settings.partitions ≤ p → exec row s = .next (answers s typ 1)) ∧
      (p < s.settings.partitions → busy → ∃ t, exec row s = .next (answers t typ 3) ∧ (sec t p) = { x with queued := some b } ∧
        { t with secs := s.secs } = s ∧ ∀ q, q ≠ p → sec t q = sec s q) ∧
      (p < s.settings.partitions → ¬busy → ∃ t, exec row s = .next (answers t typ 3) ∧
        (sec t p).skim = some { b with since := s.now } ∧ (sec t p).queued = none ∧ (sec t p).steer = 0 ∧
        (sec t p).spdm.sessions = [] ∧ (∀ y ∈ t.persists, y.part ≠ p) ∧
        (∀ c ∈ t.cmds, c.part = p → c.status.isSome = true) ∧ ∀ a ∈ t.pcie.accs, addrPart a.addr ≠ p)) ∧
    (∀ ch, (256 ≤ ch → exec (.channelRetireRequest n seq ch) s = .next (answers s 0x0040 1)) ∧
      (ch < 256 → (2 ≤ (chan s ch).st ∨ ch ∈ s.flash.retiredChans) →
        exec (.channelRetireRequest n seq ch) s = .next (answers s 0x0040 0)) ∧
      (ch < 256 → (chan s ch).st ≤ 1 → ch ∉ s.flash.retiredChans → ∃ t,
        exec (.channelRetireRequest n seq ch) s = .next (answers t 0x0040 0) ∧
        t.flash.retiredChans = s.flash.retiredChans ++ [ch] ∧
        (retiring s (partOfChan s ch) = true → { t with flash := s.flash } = s) ∧
        (retiring s (partOfChan s ch) = false → (chan t ch).st = 2))) ∧
    (∀ u f, unitOk u = false → exec (.returnToService n seq u f) s = .next (answers s 0x0040 1)) ∧
    (∀ u, unitOk u = true → ∃ t, exec (.returnToService n seq u false) s = .next (answers t 0x0040 0) ∧
      exec (.returnToService n seq u true) s = .next (answers (t.unitFails u) 0x0040 0) ∧
      match u with
      | .channel c => ((chan s c).st = 3 → (chan t c).st = 0 ∧ (chan t c).moved = 0 ∧ c ∉ t.flash.retiredChans) ∧
          ((chan s c).st ≠ 3 → t = s)
      | .lane c => ((chan s c).st = 1 → (chan t c).st = 0 ∧ (chan t c).badSymbol = none) ∧
          ((chan s c).st ≠ 1 → (chan t c).lanesUsed = (chan s c).lanesUsed - 1)
      | .wavelength q w => (port t q).retiredWl = (port s q).retiredWl &&& ~~~((1 : BitVec 16) <<< w) ∧
          (q, w) ∉ t.flash.retiredWls
      | .port q => (port t q).st = (if (port s q).st = 2 then 0 else (port s q).st) ∧ q ∉ t.flash.retiredPorts
      | .link l => t.links = s.links ∧ l ∉ t.flash.faultedLinks
      | .package k => k ∉ t.flash.retiredPkgs ∧ SMap.get [] t.pkgRej k = []
      | .core c => coreRetired t c = false ∧ (coreRetired s c = true → c ∉ t.flash.retiredCores)
      | .cluster c => clusterRetired t c = false ∧ (clusterRetired s c = true → c ∉ t.flash.retiredClusters))

/-- At the first boundary of a 1 ms period that a running loop has not yet taken, settings written before the boundary's pilot tick come
into force (R399), and every compute die of each group that shares a limit takes a level: the smallest one whose projected
draw stays within the limit where that is no lower than the level in force; else one level lower, if the projection then
stays within 97% of the limit, or the level in force; never below the floor that heat and the fast limit leave (R392–R394).
The level is 4 for the first period. The die's draw and throttled time count and a level above 0 raises THROTTLE (R398). A
10 µs average above 600 W raises a level below 8 to 8, holds it for the period, counts and raises FAST_LIMIT (R394). -/
def Obligations.PowerLoop : Prop :=
  ∀ (s : State) (now : Nat), Sound s →
    let v := s.at_ now
    let b := 1000000 * (v.now / 1000000)
    (∀ dd ep sd nd hub od,
      (¬(loopRuns s = true ∧ s.startup.lastPeriod < b) → exec (.powerLoopPeriod now dd ep sd nd hub od) s = .next v) ∧
      (loopRuns s = true → s.startup.lastPeriod < b → ∃ t, exec (.powerLoopPeriod now dd ep sd nd hub od) s = .next t ∧
        t.startup.lastPeriod = b ∧ t.startup.periods = s.startup.periods + 1 ∧
        (s.settings.capPend = none → t.settings.capW = s.settings.capW) ∧
        (∀ c, s.settings.capPend = some c →
          (c.2 / 20 < b / 20 → t.settings.capW = c.1 ∧ t.settings.capPend = none) ∧
          (b / 20 ≤ c.2 / 20 → t.settings.capW = s.settings.capW ∧ t.settings.capPend = some c)) ∧
        (∀ f, s.settings.fencedPend = some f → s.settings.fencedAt / 20 < b / 20 →
          t.settings.fenced = f ∧ t.settings.fencedPend = none) ∧
        (∀ c, s.coolant.limitPend = some c → c.2 / 20 < b / 20 → t.coolant.limit = c.1) ∧
        (∀ g ∈ loopGroups { s with settings := t.settings, coolant := t.coolant } sd nd hub od,
          let ds : List LoopDie := g.1.map (fun n =>
            { num := n, prev := (die s n).thr, bound := lowBound (die s n), draw := dd.getD n 0
              eng := if s.startup.periods ≤ 10 then 440000 else ep.getD n 0 })
          let fits (l : Nat) : Prop := project ds g.2.1 (fun d => Nat.max l d.bound) ≤ ((g.2.2 * loopScale : Nat) : Int)
          ∀ l, l ≤ 15 → (∀ m, m < l → ¬fits m) → (fits l ∨ l = 15) → ∀ d ∈ ds,
            let lim := if s.startup.periods = 0 then 4 else limitLevel l (mayRelax ds g.2.1 g.2.2 l) d
            let x := die t d.num
            x.thr = Nat.max d.bound lim ∧ x.fastHold = false ∧ x.draw = Nat.min 65535 (d.draw / 1000) ∧
            x.throttledMs = Nat.min (2 ^ 32 - 1) ((die s d.num).throttledMs + if x.thr = 0 then 0 else 1) ∧
            (x.thr ≠ 0 → dieDown s d.num = false → (t.reg (Blk.pwr.page d.num) Reg.irqStat).testBit 0 = true)))) ∧
    (∀ n mw,
      let x := die s n
      let acts := n < 4 ∧ loopRuns s = true ∧ 600000 < mw ∧ dieDown s n = false ∧ x.thr < 8
      (¬acts → exec (.fastLimitWindow n mw) s = .next s) ∧
      (acts → ∃ t, exec (.fastLimitWindow n mw) s = .next t ∧
        die t n = { x with thr := 8, reason := 4, fastHold := true, fast := Nat.min (2 ^ 32 - 1) (x.fast + 1) } ∧
        (∀ m, m ≠ n → die t m = die s m) ∧ (t.reg (Blk.pwr.page n) Reg.irqStat).testBit 1 = true ∧
        AsideFromEvents { s with dies := t.dies } t))

/-- A core domain sleeps once it has had no reason to be awake for PWR_IDLE, a cluster domain and a near-memory group once they had none
for 10 µs (R386); a wake in the same tick prevails (R399), and otherwise the domain stays awake. Wakes that wait
begin in order of request, at most eight of one compute die in any 200 ns (R389). When a wake that is under way ends, the
domain is awake and its idle time starts anew (R388); domains 0-383 are cores, 384-431 clusters, 432-463 near-memory groups
and 464-467 groups of tenant hub cores, in the model's numbering. Nothing else changes. -/
def Obligations.SwitchedDomains : Prop :=
  ∀ (s : State) (now : Nat) (w : Bool), Sound s →
    let v := s.at_ now
    let core (t : State) (k : Nat) : CoreDom := SMap.get {} t.coreDoms k
    (∀ k,
      let may := (core s k).asleep = false ∧ coreBusy s k = false ∧ w = false ∧
        (core s k).idleSince + s.regFld (Blk.pwr.page (k / 96)) Reg.pwrIdle 16 0 ≤ v.now
      (¬may → exec (.coreSleep k now w) s = .next v) ∧
      (may → ∃ t, exec (.coreSleep k now w) s = .next t ∧ core t k = { core s k with asleep := true } ∧
        (∀ j, j ≠ k → core t j = core s j) ∧ cluster t (k / 8) = { cluster s (k / 8) with idleSince := v.now } ∧
        (∀ c, c ≠ k / 8 → cluster t c = cluster s c) ∧ { t with coreDoms := s.coreDoms, clusters := s.clusters } = v)) ∧
    (∀ c,
      let may := (cluster s c).asleep = false ∧ clusterBusy s c = false ∧ w = false ∧ (cluster s c).idleSince + 10000 ≤ v.now
      (¬may → exec (.clusterSleep c now w) s = .next v) ∧
      (may → ∃ t, exec (.clusterSleep c now w) s = .next t ∧ cluster t c = { cluster s c with asleep := true } ∧
        (∀ d, d ≠ c → cluster t d = cluster s d) ∧ { t with clusters := s.clusters } = v)) ∧
    (∀ g,
      let x := stack s (g / 4)
      let may := x.groupAsleep.getD (g % 4) true = false ∧ w = false ∧ groupIdleFrom s g + 10000 ≤ v.now ∧
        ∀ c ∈ groupChans g, (chan s c).mode = 0 ∧ (chan s c).queue = []
      (¬may → exec (.nmuGroupSleep g now w) s = .next v) ∧
      (may → ∃ t, exec (.nmuGroupSleep g now w) s = .next t ∧
        stack t (g / 4) = { x with groupAsleep := x.groupAsleep.set (g % 4) true } ∧
        (∀ n, n ≠ g / 4 → stack t n = stack s n) ∧ { t with stks := s.stks } = v)) ∧
    (∀ n,
      let d := die s n
      let recent := d.wakeWin.filter (fun x => decide (v.now < x + 200))
      let go := d.wakeQ.take (8 - recent.length)
      ∃ t, exec (.coreWakeStart n now) s = .next t ∧
        (∀ k, core t k = if k ∈ go then { core s k with waking := true, waitWake := false } else core s k) ∧
        die t n = { d with
          wakeQ := d.wakeQ.drop go.length, wakeWin := recent ++ List.replicate go.length v.now
          coreWakes := Nat.min (2 ^ 32 - 1) (d.coreWakes + go.length) } ∧
        (∀ m, m ≠ n → die t m = die s m) ∧ { t with coreDoms := s.coreDoms, dies := s.dies } = v) ∧
    (∀ k, k < 384 → ∃ t, exec (.domainWakeEnd k) s = .next t ∧ { t with coreDoms := s.coreDoms } = s ∧
      (∀ j, core t j = if j = k ∧ (core s k).waking = true then
        { core s k with asleep := false, waking := false, idleSince := s.now } else core s j)) ∧
    (∀ c, c < 48 → ∃ t, exec (.domainWakeEnd (384 + c)) s = .next t ∧ { t with clusters := s.clusters } = s ∧
      (∀ d, cluster t d = if d = c ∧ (cluster s c).waking = true then
        { cluster s c with asleep := false, waking := false, idleSince := s.now } else cluster s d)) ∧
    (∀ n g, n < 8 → g < 4 →
      let x := stack s n
      ∃ t, exec (.domainWakeEnd (432 + 4 * n + g)) s = .next t ∧ { t with stks := s.stks } = s ∧
        (∀ m, stack t m = if m = n ∧ x.groupWaking.getD g false = true then
          { x with groupAsleep := x.groupAsleep.set g false, groupWaking := x.groupWaking.set g false
                   groupIdle := x.groupIdle.set g s.now } else stack s m)) ∧
    (∀ h, h < 4 → ∃ t, exec (.domainWakeEnd (464 + h)) s = .next t ∧ { t with hubGrps := s.hubGrps } = s ∧
      (∀ j, SMap.get 0 t.hubGrps j = if j = h ∧ SMap.get 0 s.hubGrps h = 1 then 2 else SMap.get 0 s.hubGrps j))

/-- SNAP that starts is armed with its T_SNAP and waits; while its partition has four armed, a fifth stays at the head of its ring (R417).
In the first pilot tick at or after T_SNAP each register of the partition's pages that has RO fields at 0x100 and above is
copied under each value of its selector, a copy equal to the reset value standing as none; each page takes the command's
tag; the copy counts; and each SNAP that falls in the tick ends with RESULT the timebase (R418). A write of RAS_LOG_CURSOR
latches the oldest entry of the view that is not older than the cursor, or shows that there is none; LOST says that an entry
at the cursor has gone (R422). Nothing else changes but what events and notices touch. -/
def Obligations.SnapsAndView : Prop :=
  ∀ (s : State), Sound s →
    (∀ k, 4 ≤ (armed s (partOfRing s k)).length → exec (.snap k) s = .next (s.wantSlot k)) ∧
    (∀ u k x, (armed s (partOfRing s k)).length < 4 → Starts true 9 1 k noNeed snapCheck s u x →
      ∃ t, exec (.snap k) s = .next t ∧ CmdFrame u t ∧ ∃ c, t.cmd? x.id = some c ∧ c.status = none ∧ c.wait = .snap ∧
        c.tsnap = payFld x.bits 8 63 0 ∧ c.lateSnap = decide (payFld x.bits 8 63 0 < s.now)) ∧
    (∀ p now, p < s.settings.partitions →
      let v := s.at_ now
      (dueSnaps v p = [] → exec (.snapCopy p now) s = .next v) ∧
      (∀ c, (dueSnaps v p).getLast? = some c → ∃ t, exec (.snapCopy p now) s = .next t ∧
        (∀ g ∈ pagesOf s p, t.regFld g Reg.snapTag 63 32 = envTag c.bits % 2 ^ 32 ∧
          ∀ r ∈ roRegs (blkOf g), ∀ y ∈ selValues (blkOf g) r,
            let ro := accMask .ro (fieldsOf (blkOf g) r)
            let w := roLive v (some p) g r y &&& ro
            SMap.get none t.snaps (snapKey g r y) =
              if w = resetReg (blkOf g) r &&& ro then none else some (BitVec.ofNat 64 w)) ∧
        (∀ n, n / 2 ^ 24 ∉ pagesOf s p → SMap.get none t.snaps n = SMap.get none s.snaps n) ∧
        t.regFld (rasPage p) Reg.rasSnap 63 32 =
          Nat.min (2 ^ 32 - 1) (s.regFld (rasPage p) Reg.rasSnap 63 32 + 1) ∧
        (∀ d ∈ dueSnaps v p, envClass d.bits = 9 → ∃ e, t.cmd? d.id = some e ∧ e.status = some (d.late.getD St.done) ∧
          e.result = BitVec.ofNat 64 v.now) ∧ ∀ a, t.byte a = s.byte a)) ∧
    (∀ who p (val : Word), accessOf s who (rasPage p) true = .ok →
      let old : View := SMap.get {} s.views p
      let cur := val.toNat % 2 ^ 32
      ∃ t, exec (.rasLogCursorWrite who p val) s = .next t ∧ t.regFld (rasPage p) Reg.rasLogCursor 31 0 = cur ∧
        { t with regs := s.regs, views := s.views } = s ∧
        (∀ q, q ≠ p → (SMap.get {} t.views q : View) = SMap.get {} s.views q) ∧
        (∀ e, (old.ents.filter (fun e => decide (cur ≤ e.seq))).getLast? = some e → (SMap.get {} t.views p : View) =
          { old with latch := some e, empty := false, lost := old.ents.getLast?.any (fun f => decide (cur < f.seq)) }) ∧
        (old.ents.filter (fun e => decide (cur ≤ e.seq)) = [] →
          (SMap.get {} t.views p : View) = { old with latch := none, empty := true, lost := false }))

/-- A module or link-loss reset of an operational module begins at phase 2: commands leave without records and are counted, ports that are
up depart, all memory is fresh, key slots, sessions, shards and Xanna connections are gone, steering programs stop, the
PCIe link is down and the timebase runs on unlocked, while settings and bindings stay (R423, R425, R434, R435). Hold-off
expiry with the link down begins the link-loss reset (R350, R351). A module trip ends every command, and its reset begins
when the hub reads below 95 C and, after a coolant trip, the coolant was normal for 10 s (R396, R461). A heartbeat goes out
every 100 us; 1 ms without one stops engines and ports, and 10 ms later the watchdog resets the module (R409). -/
def Obligations.ModuleResets : Prop :=
  ∀ (s : State) (now : Nat), Sound s →
    let v := s.at_ now
    let begins (i : Instr) (cause : Nat) : Prop := exec i s = .next
      (if s.startup.phase = 7 ∧ s.startup.powered = true then v.beginReset cause else v)
    let departs (t : State) : Prop := ∀ q < 16, (port s q).st = 1 → Out.departed q ∈ t.out
    (∀ cause, let t := s.beginReset cause
      t.startup.phase = 2 ∧ t.startup.part = [1, 1, 1, 1] ∧ t.startup.moduleCause = cause ∧ t.startup.t0 = s.now ∧
      t.startup.moduleResets = Nat.min (2 ^ 32 - 1) (s.startup.moduleResets + 1) ∧ t.startup.tripped = false ∧
      t.startup.aborted = (s.cmds.filter (fun c => c.status.isNone)).length ∧
      t.cmds = [] ∧ t.reqs = [] ∧ t.persists = [] ∧ t.conns = [] ∧ t.now = s.now ∧ t.time.locked = false ∧
      t.settings = s.settings ∧ t.pcie.up = false ∧ departs t ∧
      ∀ p < s.settings.partitions, (∀ k, keyPart k = p → isFresh t k = true ∧ t.byte k = 0) ∧ (sec t p).keys = [] ∧
        (sec t p).spdm.sessions = [] ∧ (sec t p).steer = 0 ∧ (∀ i < 16384, shard t p i = {}) ∧
        (sec t p).bound = (sec s p).bound ∧ (sec t p).tenant = (sec s p).tenant) ∧
    (∀ u, s.pcie.holdoff = some u → u + 1000000 * s.settings.holdoffMs ≤ v.now → s.pcie.up = false →
      begins (.holdoffExpiry now) 4) ∧
    ((∀ u, s.pcie.holdoff = some u → v.now < u + 1000000 * s.settings.holdoffMs ∨ s.pcie.up = true) →
      exec (.holdoffExpiry now) s = .next v) ∧
    (s.startup.tripped = false → ∀ coolant, let t := s.tripModule coolant
      t.startup.tripped = true ∧ t.startup.coolantTrip = coolant ∧ t.startup.part = s.startup.part.map (fun _ => 3) ∧
      departs t ∧ (∀ c ∈ t.cmds, c.part < s.settings.partitions → c.status ≠ none) ∧ ∀ a, t.byte a = s.byte a) ∧
    (let may := s.startup.tripped = true ∧ (die s 12).temp < 95 ∧
        (s.startup.coolantTrip = true → ∃ u, s.coolant.normalSince = some u ∧ u + 10000000000 ≤ s.now);
      (may → s.endTrip = s.beginReset 3) ∧ (¬may → s.endTrip = s)) ∧
    (let quiet := s.startup.dead = true ∨ s.startup.held = true ∨ s.startup.phase < 3 ∨ s.startup.beatLost ≠ none ∨
        v.now < s.startup.beat + 100000;
      (quiet → exec (.heartbeat now) s = .next v) ∧
      (¬quiet → exec (.heartbeat now) s =
        .next { v with startup := { s.startup with beat := v.now }, out := s.out ++ [.heartbeat] })) ∧
    (let lost := s.startup.beatLost = none ∧ s.startup.phase = 7 ∧ s.startup.beat + 1000000 ≤ v.now;
      (¬lost → exec (.heartbeatTimeout now) s = .next v) ∧
      (lost → ∃ t, exec (.heartbeatTimeout now) s = .next t ∧ departs t ∧ t.quads = [] ∧
        (∀ q, (port t q).st = if (port s q).st = 1 then 0 else (port s q).st) ∧ (∀ e, (engine t e).ramp = .idle) ∧
        t.startup = { s.startup with beatLost := some v.now, latched := some (if (die s 12).faulted = true then 1 else 0) } ∧
        { t with ports := s.ports, engines := s.engines, quads := s.quads, startup := s.startup, out := s.out } = v)) ∧
    (∀ u, s.startup.beatLost = some u → u + 10000000 ≤ v.now → begins (.watchdogExpiry now) 2) ∧
    ((∀ u, s.startup.beatLost = some u → v.now < u + 10000000) → exec (.watchdogExpiry now) s = .next v)

/-- A write of 1 to RESET on an operational or faulted partition begins its reset: its commands are gone without records, its memory is fresh
under a new key, its key slots are empty, its steering program stops, and it stands in recovery scaffold with the cause that
SUP_CAUSE tells; the binding, the settings and the shard directory stay, and so does every byte of another partition (R431,
R434, R435). While a stack or die that tripped reads 95 C or more the request waits, and begins when it cools (R190, R395). During
a reset the request is absorbed (R437). At the end of recovery the units that failed self-test are out of service, the cache
share takes effect and PART_READY is raised; a partition that lost a die, a stack or a link it needs is FAULTED (R430). -/
def Obligations.PartitionResets : Prop :=
  ∀ (s : State) (p : Nat), Sound s → p < s.settings.partitions → s.startup.part.length = 4 → s.startup.recovering.length = 4 →
    s.startup.thermalWait.length = 4 → s.startup.partCause.length = 4 → s.startup.partResets.length = 4 →
    let x := sec s p
    let st := s.startup.part.getD p 1
    let absorbed := s.startup.phase ≠ 7 ∨ st = 1 ∨ st = 3 ∨ s.startup.thermalWait.getD p false = true ∨ s.startup.tripped = true
    let begun (t : State) (cause : Nat) : Prop :=
      t.startup.part.getD p 0 = 1 ∧ t.startup.recovering.getD p false = true ∧ t.startup.partCause.getD p 0 = cause ∧
      t.startup.partResets.getD p 0 = s.startup.partResets.getD p 0 + 1 ∧ t.startup.thermalWait.getD p true = false ∧
      (∀ c ∈ t.cmds, c.part ≠ p) ∧ (∀ y ∈ t.persists, y.part ≠ p) ∧
      (∀ k, keyPart k = p → isFresh t k = true ∧ t.byte k = 0) ∧ (∀ k, keyPart k ≠ p → t.byte k = s.byte k) ∧
      (sec t p).keys = [] ∧ (sec t p).memGen = x.memGen + 1 ∧ (sec t p).steer = 0 ∧ (sec t p).tenant = x.tenant ∧
      (sec t p).bound = x.bound ∧ (sec t p).gen = x.gen ∧ t.settings = s.settings ∧ t.shards = s.shards
    (∀ who (val : Word), accessOf s who (supPage p) true = .ok →
      let cause := if who = .host then 1 else 2
      (val.getLsbD 0 = false → exec (.partitionReset who p val) s = .next s) ∧
      (absorbed → exec (.partitionReset who p val) s = .next s) ∧
      (val.getLsbD 0 = true → ¬absorbed → tooHot s p = true → exec (.partitionReset who p val) s = .next { s with
        startup := { s.startup with
          thermalWait := s.startup.thermalWait.set p true, partCause := s.startup.partCause.set p cause } }) ∧
      (val.getLsbD 0 = true → ¬absorbed → tooHot s p = false → ∃ t, exec (.partitionReset who p val) s = .next t ∧
        begun t cause)) ∧
    ((∀ q < s.settings.partitions, s.startup.thermalWait.getD q false = false ∨ tooHot s q = true) → s.endHeatWaits = s) ∧
    (s.startup.thermalWait.getD p false = true → tooHot s p = false →
      (∀ q < s.settings.partitions, q ≠ p → s.startup.thermalWait.getD q false = false) →
      begun s.endHeatWaits (s.startup.partCause.getD p 0)) ∧
    (∀ now fails,
      let v := s.at_ now
      let u := fails.foldl State.failUnit v
      let may := s.startup.phase = 7 ∧ s.startup.part.getD p 0 = 1 ∧ s.startup.recovering.getD p false = true
      (¬may → exec (.partitionResetEnd p now fails) s = .next v) ∧
      (may → ∃ t, exec (.partitionResetEnd p now fails) s = .next t ∧ t.startup.recovering.getD p true = false ∧
        t.settings.shareNow.getD p 0 = s.settings.shareGib ∧ (∀ h ∈ t.settings.hostPend, hostSettingPart h ≠ some p) ∧
        (partBroken u p = true → t.startup.part.getD p 0 = 2) ∧
        (partBroken u p = false → t.startup.part.getD p 1 = 0 ∧ (t.reg (supPage p) Reg.irqStat).testBit 0 = true)))

/-- The input in range starts a cold reset at phase 1, with what flash and fuses hold and nothing else (R423, R457); out of range every die
loses power, after departed notices of an operational module unless the protection acts (R458). The boot ROM starts the
accepted image of the higher SVN, A before B, or holds every die (R426, R428). Bring-up, links and self-test end
their phases with the units that failed out of service; a failed hub holds the module (R423, R430). In the links phase links
train and the open die is admitted where R317 lets it be. On entry to operational pending settings apply, memory is fresh,
partitions have new keys and are operational, or FAULTED where they lost a unit they need, and an image with COMMIT raises
the minimum SVN (R423, R426). A phase ends only in its order. -/
def Obligations.StartUp : Prop :=
  ∀ (s : State), Sound s → s.startup.part.length = 4 →
    let off (n : Nat) : Prop :=
      ¬(s.startup.phase = n ∧ s.startup.powered = true ∧ s.startup.held = false ∧ s.startup.tripped = false)
    let held (u : State) : State := { u with startup := { u.startup with held := true } }
    let cold (t : State) : Prop := t.flash = s.flash ∧ t.settings = { moduleId := s.settings.moduleId } ∧ t.now = 0 ∧
      t.cmds = [] ∧ t.log = [] ∧ t.startup.part = [1, 1, 1, 1] ∧ (∀ k, isFresh t k = true ∧ t.byte k = 0) ∧
      (∀ c < 384, coreRetired t c = s.flash.retiredCores.contains c) ∧
      (∀ c < 48, clusterRetired t c = s.flash.retiredClusters.contains c) ∧
      (∀ c < 256, ((chan t c).st = 3 ↔ c ∈ s.flash.retiredChans)) ∧ (∀ l < 30, ((link t l).st = 2 ↔ l ∈ s.flash.faultedLinks))
    (s.startup.powered = true → exec .powerInputInRange s = .next s) ∧
    (s.startup.powered = false → ∃ t, exec .powerInputInRange s = .next t ∧ cold t ∧ t.startup.phase = 1 ∧
      t.startup.powered = true ∧ t.out = s.out) ∧
    (∀ b, (s.startup.powered = false → exec (.powerInputOutOfRange b) s = .next s) ∧
      (s.startup.powered = true → ∃ t, exec (.powerInputOutOfRange b) s = .next t ∧ cold t ∧ t.startup.phase = 0 ∧
        t.startup.powered = false ∧ t.out = s.out ++ (if s.startup.phase = 7 ∧ b = false then
          ((List.range 16).filter (fun q => (port s q).st == 1)).map Out.departed else []))) ∧
    (off 1 → off 2 → exec .bootRomPhase s = .next s) ∧
    ((¬off 1 ∨ ¬off 2) →
      let ok (i : FwImage) : Prop := i.signed = true ∧ s.flash.minSvn ≤ i.svn
      let boots (b : Bool) (i : FwImage) : Prop := exec .bootRomPhase s = .next { s with
        startup := { s.startup with phase := 3, slotB := b, svn := i.svn, cdi := Config.cdi i.digest } }
      let a := s.flash.slotA
      let c := s.flash.slotB
      (ok a → (ok c → c.svn ≤ a.svn) → boots false a) ∧ (ok c → (ok a → a.svn < c.svn) → boots true c) ∧
      (¬ok a → ¬ok c → exec .bootRomPhase s = .next { s with startup := { s.startup with phase := 2, held := true } })) ∧
    (∀ c, coreRetired (s.failUnit (.core c)) c = true) ∧ (∀ c, clusterRetired (s.failUnit (.cluster c)) c = true) ∧
    (∀ c, (chan (s.failUnit (.chanTest c)) c).st = 3) ∧ (∀ n, (die (s.failUnit (.die n)) n).faulted = true) ∧
    (∀ l, (link s l).st ≠ 3 → (link (s.failUnit (.link l)) l).st = 2) ∧ (s.failUnit .hub).startup.dead = true ∧
    (∀ now fails,
      let v := s.at_ now
      let u := fails.foldl State.failUnit v
      (off 3 → exec (.bringUpPhase now fails) s = .next v) ∧
      (¬off 3 → exec (.bringUpPhase now fails) s = .next (if u.startup.dead = true then held u else
        { u with startup := { u.startup with phase := 4, beat := v.now } })) ∧
      (off 5 → exec (.selfTestPhase now fails) s = .next v) ∧
      (¬off 5 → exec (.selfTestPhase now fails) s = .next (if u.startup.dead = true then held u else
        { u with startup := { u.startup with phase := 6 } })) ∧
      (∀ d, off 4 → exec (.scaffoldLinksPhase now fails d) s = .next v)) ∧
    (∀ now d, ¬off 4 → s.startup.dead = false → ∃ t, exec (.scaffoldLinksPhase now [] d) s = .next t ∧ t.startup.phase = 5 ∧
      (∀ l < 26, (link t l).st = if (link s l).st = 2 then 2 else 1) ∧ (∀ c < 256, (chan t c).st ≠ 1) ∧
      t.site.admitted = siteFits s d ∧ (t.site.siteFenced = (!siteFits s d || s.site.powerFence)) ∧
      ∀ a, t.byte a = s.byte a) ∧
    (∀ now, (off 6 → exec (.entryToOperational now) s = .next (s.at_ now)) ∧
      (¬off 6 → ∃ t, exec (.entryToOperational now) s = .next t ∧ t.startup.phase = 7 ∧
        t.startup.bootMs = ((s.at_ now).now - s.startup.t0) / 1000000 ∧
        t.settings.partitions = s.settings.partPend.getD s.settings.partitions ∧ t.settings.partPend = none ∧
        t.settings.openOwner = s.settings.ownerPend.getD s.settings.openOwner ∧ t.settings.ownerPend = none ∧
        t.settings.shareNow = List.replicate 4 s.settings.shareGib ∧
        t.settings.fenced = s.settings.fencedPend.getD s.settings.fenced ∧
        t.settings.capW = (s.settings.capPend.map Prod.fst).getD s.settings.capW ∧
        (s.cmds = [] → ∀ k, isFresh t k = true) ∧
        t.flash.minSvn = (let img := if s.startup.slotB = true then s.flash.slotB else s.flash.slotA;
          if img.commit = true then Nat.max s.flash.minSvn img.svn else s.flash.minSvn) ∧
        ∀ p < t.settings.partitions, (sec t p).memGen = (sec s p).memGen + 1 ∧
          t.startup.part.getD p 1 = (if partBroken t p then 2 else 0) ∧
          (partBroken t p = false → (t.reg (supPage p) Reg.irqStat).testBit 0 = true)))
end

