-- ==== Sys2Proof/Laws/Map.lean ====
section
/-! SUPPORT. Sparse maps: what a read gives after a change, and that every change keeps the canonical form. -/

namespace Sys2Proof.Machine

variable {α : Type}

/-! ### Reads -/

@[simp] theorem SMap.get_nil (d : α) (a : Nat) : SMap.get d [] a = d := rfl

theorem SMap.get_erase (d : α) (m : SMap α) (k a : Nat) :
    SMap.get d (SMap.erase k m) a = if a = k then d else SMap.get d m a := by
  induction m with
  | nil => simp [SMap.erase, SMap.get]
  | cons e m ih =>
    obtain ⟨k', v'⟩ := e
    simp only [SMap.erase]
    by_cases h : k = k'
    · subst h; simp only [if_true, ih, SMap.get]; split <;> rfl
    · simp only [h, if_false, SMap.get, ih]
      by_cases h1 : a = k'
      · subst h1; simp [Ne.symm h]
      · simp [h1]

theorem SMap.get_insert (d : α) (m : SMap α) (k a : Nat) (v : α) (hk : ∀ e ∈ m, e.1 ≠ k) :
    SMap.get d (SMap.insert k v m) a = if a = k then v else SMap.get d m a := by
  induction m with
  | nil => simp [SMap.insert, SMap.get]
  | cons e m ih =>
    obtain ⟨k', v'⟩ := e
    have hk' : k' ≠ k := hk (k', v') (by simp)
    simp only [SMap.insert]
    split
    · simp [SMap.get]
    · simp only [SMap.get, ih (fun e he => hk e (by simp [he]))]
      by_cases h1 : a = k'
      · subst h1; simp [hk']
      · simp [h1]

theorem SMap.erase_absent (m : SMap α) (k : Nat) : ∀ e ∈ SMap.erase k m, e.1 ≠ k := by
  induction m with
  | nil => simp [SMap.erase]
  | cons e m ih =>
    obtain ⟨k', v'⟩ := e
    simp only [SMap.erase]
    split
    · exact ih
    · rintro e he
      rcases List.mem_cons.1 he with rfl | he
      · simpa using Ne.symm ‹_›
      · exact ih e he

/-- A read after a set: the value set at that key, the old value at every other. -/
theorem SMap.get_set [DecidableEq α] (d : α) (m : SMap α) (k a : Nat) (v : α) :
    SMap.get d (SMap.set d m k v) a = if a = k then v else SMap.get d m a := by
  unfold SMap.set
  split
  · rename_i h; subst h; exact SMap.get_erase v m k a
  · rw [SMap.get_insert _ _ _ _ _ (SMap.erase_absent m k), SMap.get_erase]; split <;> rfl

@[simp] theorem SMap.get_set_same [DecidableEq α] (d : α) (m : SMap α) (k : Nat) (v : α) :
    SMap.get d (SMap.set d m k v) k = v := by simp [SMap.get_set]

theorem SMap.get_set_other [DecidableEq α] (d : α) (m : SMap α) {k a : Nat} (v : α) (h : a ≠ k) :
    SMap.get d (SMap.set d m k v) a = SMap.get d m a := by simp [SMap.get_set, h]

theorem SMap.get_modify [DecidableEq α] (d : α) (m : SMap α) (k a : Nat) (f : α → α) :
    SMap.get d (SMap.modify d m k f) a = if a = k then f (SMap.get d m k) else SMap.get d m a :=
  SMap.get_set d m k a _

@[simp] theorem SMap.get_modify_same [DecidableEq α] (d : α) (m : SMap α) (k : Nat) (f : α → α) :
    SMap.get d (SMap.modify d m k f) k = f (SMap.get d m k) := by simp [SMap.get_modify]

theorem SMap.get_modify_other [DecidableEq α] (d : α) (m : SMap α) {k a : Nat} (f : α → α) (h : a ≠ k) :
    SMap.get d (SMap.modify d m k f) a = SMap.get d m a := by simp [SMap.get_modify, h]

theorem SMap.get_dropKeys (d : α) (m : SMap α) (p : Nat → Bool) (a : Nat) :
    SMap.get d (SMap.dropKeys p m) a = if p a then d else SMap.get d m a := by
  induction m with
  | nil => simp [SMap.dropKeys, SMap.get]
  | cons e m ih =>
    obtain ⟨k', v'⟩ := e
    simp only [SMap.dropKeys] at ih ⊢
    by_cases h : p k'
    · simp only [List.filter_cons, h, Bool.not_true, Bool.false_eq_true, if_false, ih, SMap.get]
      by_cases h1 : a = k'
      · subst h1; simp [h]
      · simp [h1]
    · simp only [List.filter_cons, h, Bool.not_false, if_true, SMap.get, ih]
      by_cases h1 : a = k'
      · subst h1; simp [h]
      · simp [h1]

/-! ### The canonical form -/

/-- The canonical form, as the two facts it says. -/
theorem SMap.wf_iff [DecidableEq α] (d : α) (m : SMap α) :
    SMap.wf d m = true ↔ m.Pairwise (fun a b => a.1 < b.1) ∧ ∀ e ∈ m, e.2 ≠ d := by
  induction m with
  | nil => simp [SMap.wf]
  | cons e m ih =>
    obtain ⟨k, v⟩ := e
    cases m with
    | nil => simp [SMap.wf]
    | cons e' m =>
      obtain ⟨k', v'⟩ := e'
      simp only [SMap.wf, Bool.and_eq_true, decide_eq_true_eq, ih]
      constructor
      · rintro ⟨⟨h1, h2⟩, h3, h4⟩
        refine ⟨List.pairwise_cons.2 ⟨?_, h3⟩, ?_⟩
        · intro e he
          rcases List.mem_cons.1 he with rfl | he
          · exact h1
          · exact Nat.lt_trans h1 ((List.pairwise_cons.1 h3).1 e he)
        · intro e he
          rcases List.mem_cons.1 he with rfl | he
          · exact h2
          · exact h4 e he
      · rintro ⟨h1, h2⟩
        obtain ⟨h3, h4⟩ := List.pairwise_cons.1 h1
        exact ⟨⟨h3 (k', v') (by simp), h2 (k, v) (by simp)⟩, h4, fun e he => h2 e (List.mem_cons_of_mem _ he)⟩

theorem SMap.erase_sublist (m : SMap α) (k : Nat) : (SMap.erase k m).Sublist m := by
  induction m with
  | nil => exact List.Sublist.refl _
  | cons e m ih =>
    obtain ⟨k', v'⟩ := e
    simp only [SMap.erase]
    split
    · exact List.Sublist.cons _ ih
    · exact ih.cons_cons _

theorem SMap.wf_sublist [DecidableEq α] (d : α) {m n : SMap α} (h : n.Sublist m) (hm : SMap.wf d m = true) :
    SMap.wf d n = true := by
  rw [SMap.wf_iff] at hm ⊢
  exact ⟨hm.1.sublist h, fun e he => hm.2 e (h.subset he)⟩

theorem SMap.wf_erase [DecidableEq α] (d : α) (m : SMap α) (k : Nat) (hm : SMap.wf d m = true) :
    SMap.wf d (SMap.erase k m) = true := SMap.wf_sublist d (SMap.erase_sublist m k) hm

theorem SMap.wf_dropKeys [DecidableEq α] (d : α) (m : SMap α) (p : Nat → Bool) (hm : SMap.wf d m = true) :
    SMap.wf d (SMap.dropKeys p m) = true := SMap.wf_sublist d List.filter_sublist hm

theorem SMap.mem_insert (m : SMap α) (k : Nat) (v : α) (e : Nat × α) :
    e ∈ SMap.insert k v m ↔ e = (k, v) ∨ e ∈ m := by
  induction m with
  | nil => simp [SMap.insert]
  | cons e' m ih =>
    obtain ⟨k', v'⟩ := e'
    simp only [SMap.insert]
    split
    · simp
    · simp only [List.mem_cons, ih]; tauto

theorem SMap.pairwise_insert (m : SMap α) (k : Nat) (v : α) (hm : m.Pairwise (fun a b => a.1 < b.1))
    (hk : ∀ e ∈ m, e.1 ≠ k) : (SMap.insert k v m).Pairwise (fun a b => a.1 < b.1) := by
  induction m with
  | nil => simp [SMap.insert]
  | cons e' m ih =>
    obtain ⟨k', v'⟩ := e'
    obtain ⟨h1, h2⟩ := List.pairwise_cons.1 hm
    simp only [SMap.insert]
    split
    · rename_i hlt
      refine List.pairwise_cons.2 ⟨?_, hm⟩
      intro e he
      rcases List.mem_cons.1 he with rfl | he
      · exact hlt
      · exact Nat.lt_trans hlt (h1 e he)
    · rename_i hge
      have hne : k' ≠ k := hk (k', v') (by simp)
      refine List.pairwise_cons.2 ⟨?_, ih h2 (fun e he => hk e (by simp [he]))⟩
      intro e he
      rcases (SMap.mem_insert m k v e).1 he with rfl | he
      · show k' < k; omega
      · exact h1 e he

theorem SMap.wf_set [DecidableEq α] (d : α) (m : SMap α) (k : Nat) (v : α) (hm : SMap.wf d m = true) :
    SMap.wf d (SMap.set d m k v) = true := by
  unfold SMap.set
  split
  · exact SMap.wf_erase d m k hm
  · rename_i hv
    have he := (SMap.wf_iff d _).1 (SMap.wf_erase d m k hm)
    refine (SMap.wf_iff d _).2 ⟨SMap.pairwise_insert _ k v he.1 (SMap.erase_absent m k), ?_⟩
    intro e h
    rcases (SMap.mem_insert _ k v e).1 h with rfl | h
    · exact hv
    · exact he.2 e h

theorem SMap.wf_modify [DecidableEq α] (d : α) (m : SMap α) (k : Nat) (f : α → α) (hm : SMap.wf d m = true) :
    SMap.wf d (SMap.modify d m k f) = true := SMap.wf_set d m k _ hm

/-! ### What holds of every value -/

theorem SMap.all_set [DecidableEq α] {P : α → Prop} (d : α) (m : SMap α) (k : Nat) (v : α) (hm : ∀ e ∈ m, P e.2) (hv : P v) :
    ∀ e ∈ SMap.set d m k v, P e.2 := by
  intro e he
  unfold SMap.set at he
  split at he
  · exact hm e ((SMap.erase_sublist m k).subset he)
  · rcases (SMap.mem_insert _ k v e).1 he with rfl | he
    · exact hv
    · exact hm e ((SMap.erase_sublist m k).subset he)

theorem SMap.all_get {P : α → Prop} (d : α) (m : SMap α) (k : Nat) (hm : ∀ e ∈ m, P e.2) (hd : P d) : P (SMap.get d m k) := by
  induction m with
  | nil => exact hd
  | cons e m ih =>
    obtain ⟨k', v'⟩ := e
    simp only [SMap.get]
    split
    · exact hm (k', v') (by simp)
    · exact ih (fun e he => hm e (List.mem_cons_of_mem _ he))

theorem SMap.all_modify [DecidableEq α] {P : α → Prop} (d : α) (m : SMap α) (k : Nat) (f : α → α) (hm : ∀ e ∈ m, P e.2)
    (hd : P d) (hf : ∀ v, P v → P (f v)) : ∀ e ∈ SMap.modify d m k f, P e.2 :=
  SMap.all_set d m k _ hm (hf _ (SMap.all_get d m k hm hd))

/-- The value at a key after every value has changed. -/
theorem SMap.get_mapVals [DecidableEq α] (d : α) (f : α → α) (hd : f d = d) (m : SMap α) (a : Nat) :
    SMap.get d (SMap.mapVals d f m) a = f (SMap.get d m a) := by
  induction m with
  | nil => exact hd.symm
  | cons e m ih =>
    obtain ⟨k, v⟩ := e
    rw [SMap.mapVals, SMap.get_set]
    by_cases h : a = k
    · simp [SMap.get, h]
    · simp [SMap.get, h, ih]

end Sys2Proof.Machine
end

