-- ==== Sys2Proof/Laws/Dispatch.lean ====
section
/-! SUPPORT. What the dispatch of a ring command answers once the command can start, or is refused. -/

namespace Sys2Proof.Machine

/-- The row of an operation takes a command whose class and operation are its own. -/
theorem rowTakes_own {cls sub : Nat} {b : CmdBits} (h : envClass b = cls) (h' : cmdSub b = sub) : rowTakes cls sub b = true := by
  simp [rowTakes, h, h']

/-- Where a command arrives, the row goes on to its checks. -/
theorem dispatchRow_arrives {cls sub k : Nat} {s v : State} {c : Cmd} (h : Arrives cls sub k s v c)
    (check : State → Cmd → Option Nat) (start : State → Cmd → State) :
    dispatchRow cls sub k check start s = checkAndStart true check start v c := by
  rcases h with ⟨h, -, -, -, rfl⟩ | ⟨h, b, hn, hp, hc, hs, he, rfl, rfl⟩
  · simp only [dispatchRow, h]
  · simp only [dispatchRow, h, hn, hp, rowTakes_own hc hs, he]
    rfl

/-- The same for a command that reads tables. -/
theorem dispatchRowT_arrives {atOnce : Bool} {cls sub k : Nat} {s v : State} {c : Cmd} (h : Arrives cls sub k s v c)
    (need : State → Cmd → List Nat) (check : State → Cmd → Option Nat) (start : State → Cmd → State)
    (hn : need v c = []) :
    dispatchRowT atOnce cls sub k need check start s = checkAndStart atOnce check start v c := by
  rcases h with ⟨h, -, -, -, rfl⟩ | ⟨h, b, hx, hp, hc, hs, he, rfl, rfl⟩
  · simp only [dispatchRowT, h, hn]; rfl
  · simp only [dispatchRowT, h, hx, hp, rowTakes_own hc hs, he, hn]
    rfl

/-- A command that nothing holds back starts. -/
theorem checkAndStart_starts {check : State → Cmd → Option Nat} {v : State} {c : Cmd} (hc : check v c = none)
    (h : NothingAhead v c) (start : State → Cmd → State) :
    checkAndStart true check start v c =
      start (bindNow true ((v.wantClusters (reaches v c)).1.modCmd c.id
        (fun c => { c with checked := true, wait := .none })) c) { c with checked := true, wait := .none } := by
  obtain ⟨h1, h2, h3, h4⟩ := h
  simp [checkAndStart, h1, hc, h2, h3, h4]

/-- What a row answers once its command starts. -/
theorem dispatchRow_starts {cls sub k : Nat} {check : State → Cmd → Option Nat} {s u : State} {x : Cmd}
    (h : Starts true cls sub k noNeed check s u x) (start : State → Cmd → State) :
    dispatchRow cls sub k check start s = start u x := by
  obtain ⟨v, c, ha, -, hc, hn, rfl, rfl⟩ := h
  rw [dispatchRow_arrives ha, checkAndStart_starts hc (hn rfl)]

theorem dispatchRowT_starts {cls sub k : Nat} {need : State → Cmd → List Nat} {check : State → Cmd → Option Nat} {s u : State}
    {x : Cmd} (h : Starts true cls sub k need check s u x) (start : State → Cmd → State) :
    dispatchRowT true cls sub k need check start s = start u x := by
  obtain ⟨v, c, ha, hd, hc, hn, rfl, rfl⟩ := h
  rw [dispatchRowT_arrives ha _ _ _ hd, checkAndStart_starts hc (hn rfl)]

/-- A row whose command takes its streams later starts it at once. -/
theorem dispatchRowT_later {cls sub k : Nat} {need : State → Cmd → List Nat} {check : State → Cmd → Option Nat} {s u : State}
    {x : Cmd} (h : Starts false cls sub k need check s u x) (start : State → Cmd → State) :
    dispatchRowT false cls sub k need check start s = start u x := by
  obtain ⟨v, c, ha, hd, hc, -, rfl, rfl⟩ := h
  rw [dispatchRowT_arrives ha _ _ _ hd]
  simp [checkAndStart, hc]

/-- A refused command ends with the refusal's status. -/
theorem dispatchRow_refuses {cls sub k st : Nat} {check : State → Cmd → Option Nat} {s v : State} {c : Cmd}
    (ha : Arrives cls sub k s v c) (hw : waitsBehind v c = false) (hc : check v c = some st)
    (start : State → Cmd → State) :
    dispatchRow cls sub k check start s = (v.modCmd c.id (fun c => { c with checked := true })).endCmd c.id st := by
  rw [dispatchRow_arrives ha]
  simp [checkAndStart, hw, hc]

end Sys2Proof.Machine
end

