-- ==== Sys2Proof/Laws/Events.lean ====
section
/-! SUPPORT. Reading a register after a write, and all that raising an event or writing a snag log entry can change. -/

namespace Sys2Proof.Machine

/-- Another key keeps its value, whatever default it is read with. -/
theorem SMap.get_set_other' {α : Type} [DecidableEq α] {d d' : α} (m : SMap α) {k a : Nat} (v : α) (h : a ≠ k) :
    SMap.get d' (SMap.set d m k v) a = SMap.get d' m a := by
  unfold SMap.set
  split
  · rw [SMap.get_erase, if_neg h]
  · rw [SMap.get_insert _ _ _ _ _ (SMap.erase_absent m k), if_neg h, SMap.get_erase, if_neg h]

/-! ### Registers -/

/-- A stored register is below 2^64. -/
theorem reg_lt (s : State) (g r : Nat) : s.reg g r < 2 ^ 64 := (BitVec.isLt _)

/-- The page that stores a register depends on the settings and the fuses alone. -/
theorem homePage_congr {s t : State} (hs : t.settings = s.settings) (hf : t.flash = s.flash) (g r : Nat) :
    homePage t g r = homePage s g r := by
  simp only [homePage, aliasInst, ownerOf, partOfHubCore, partOfRing, partOfDie, partOfStack, partOfCluster, partOfChan,
    partOfPort, diesPer, firstDie, firstCluster, hs, hf]

/-- A page's owner depends on the settings and the fuses alone. -/
theorem ownerOf_congr {s t : State} (hs : t.settings = s.settings) (hf : t.flash = s.flash) (g : Nat) :
    ownerOf t g = ownerOf s g := by
  simp only [ownerOf, partOfHubCore, partOfRing, partOfDie, partOfStack, partOfCluster, partOfChan,
    partOfPort, diesPer, hs, hf]

/-- A register reads the same in states with the same register file, settings and fuses. -/
theorem reg_congr {s t : State} (hr : t.regs = s.regs) (hs : t.settings = s.settings) (hf : t.flash = s.flash) (g r : Nat) :
    t.reg g r = s.reg g r := by
  simp only [State.reg, hr, homePage_congr hs hf]

/-- Pages and instances of the blocks agree with Table REG-7. -/
theorem blkOf_page : ∀ b ∈ Blk.all, ∀ j < b.info.2.1, blkOf (b.page j) = b := by decide +kernel

theorem blkOf_inst : ∀ g < 612, instOf g < (blkOf g).info.2.1 ∧ (blkOf g).page (instOf g) = g := by decide +kernel

theorem blkOf_all (b : Blk) : b ∈ Blk.all := by cases b <;> decide

theorem div_mul_le_left (i d : Nat) : i / d * d ≤ i := Nat.div_mul_le_self i d

/-- An alias stands on the lowest die, cluster or stack of its partition, so not above the page it is reached through. -/
theorem aliasInst_le (s : State) (b : Blk) (i : Nat) (hb : i < b.info.2.1) : aliasInst s b i ≤ i := by
  have hp : blkOf (b.page i) = b := blkOf_page b (blkOf_all b) i hb
  have hi : instOf (b.page i) = i := by
    simp only [instOf, hp]; simp [Blk.page]
  cases b <;> simp only [aliasInst, ownerOf, hp, hi, Owner.num, firstDie, firstCluster, partOfDie, partOfStack, partOfCluster,
    le_refl]
  all_goals
    first
    | exact div_mul_le_left i (diesPer s)
    | (have h := div_mul_le_left (i / 12) (diesPer s); have := div_mul_le_left i 12; omega)
    | (have h := div_mul_le_left (i / 2) (diesPer s); have := div_mul_le_left i 2; omega)

/-- The page that stores a register is one of the same block. -/
theorem blkOf_homePage (s : State) (g r : Nat) : blkOf (homePage s g r) = blkOf g := by
  unfold homePage
  split
  · rename_i h
    by_cases hg : g < 612
    · exact blkOf_page _ (blkOf_all _) _ (lt_of_le_of_lt (aliasInst_le s _ _ (blkOf_inst g hg).1) (blkOf_inst g hg).1)
    · exfalso
      have : blkOf g = .hst := by
        have : Blk.all.find? (fun b => decide (b.info.1 ≤ g) && decide (g < b.info.1 + b.info.2.1)) = none := by
          rw [List.find?_eq_none]
          intro b _
          have e : b.info.1 + b.info.2.1 ≤ 612 := by cases b <;> decide
          simp only [Bool.and_eq_true, decide_eq_true_eq, not_and, not_lt]
          omega
        simp [blkOf, this]
      simp [this, isAlias] at h
  · rfl

/-- The register after a write of itself or of another. -/
theorem reg_setReg (s : State) (g r v g' r' : Nat) (h : r < 512) (h' : r' < 512) :
    (s.setReg g r v).reg g' r' =
      if homePage s g' r' = homePage s g r ∧ r' = r then v % 2 ^ 64 else s.reg g' r' := by
  have hh : homePage (s.setReg g r v) g' r' = homePage s g' r' := homePage_congr rfl rfl g' r'
  simp only [State.reg, hh]
  simp only [State.setReg]
  by_cases hk : homePage s g' r' = homePage s g r ∧ r' = r
  · obtain ⟨hk, rfl⟩ := hk
    have hb : blkOf g' = blkOf g := by rw [← blkOf_homePage s g' r', hk, blkOf_homePage]
    simp [hk, hb]
  · have : regKey (homePage s g' r') r' ≠ regKey (homePage s g r) r := by
      intro e; apply hk; simp only [regKey] at e; omega
    rw [SMap.get_set_other' _ _ this, if_neg hk]

/-- The register just written. -/
theorem reg_setReg_same (s : State) (g r v : Nat) (h : r < 512) : (s.setReg g r v).reg g r = v % 2 ^ 64 := by
  simp [reg_setReg s g r v g r h h]

/-- A register of another place in its page. -/
theorem reg_setReg_place (s : State) (g r v g' r' : Nat) (h : r < 512) (h' : r' < 512) (hr : r' ≠ r) :
    (s.setReg g r v).reg g' r' = s.reg g' r' := by
  rw [reg_setReg s g r v g' r' h h', if_neg (fun e => hr e.2)]

/-! ### Events and the snag log -/

theorem AsideFromEvents.refl (s : State) : AsideFromEvents s s :=
  ⟨rfl, fun _ _ _ _ _ => rfl, fun _ _ h => h, List.prefix_rfl⟩

/-- The fields that no event touches. -/
theorem AsideFromEvents.settings {s t : State} (h : AsideFromEvents s t) : t.settings = s.settings := by
  have e := congrArg State.settings h.rest; exact e

theorem AsideFromEvents.flash {s t : State} (h : AsideFromEvents s t) : t.flash = s.flash := by
  have e := congrArg State.flash h.rest; exact e

theorem AsideFromEvents.now {s t : State} (h : AsideFromEvents s t) : t.now = s.now := by
  have e := congrArg State.now h.rest; exact e

theorem AsideFromEvents.trans {s t u : State} (h : AsideFromEvents s t) (k : AsideFromEvents t u) : AsideFromEvents s u := by
  refine ⟨?_, fun g r hr hi hn => (k.regs g r hr hi hn).trans (h.regs g r hr hi hn), fun g n e => k.irq g n (h.irq g n e),
    h.sent.trans k.sent⟩
  have a := h.rest
  have b := k.rest
  rw [← b] at a
  exact a

/-- A change of the log, the mirrors, the views, the pending messages or the output alone. -/
theorem AsideFromEvents.of_rest {s t : State} (hr : t.regs = s.regs) (ho : s.out <+: t.out)
    (h : { t with
      pcie := { t.pcie with pba := s.pcie.pba }, log := s.log, logNext := s.logNext, views := s.views
      conns := s.conns, out := s.out } = s) : AsideFromEvents s t := by
  have hs : t.settings = s.settings := by have e := congrArg State.settings h; exact e
  have hf : t.flash = s.flash := by have e := congrArg State.flash h; exact e
  refine ⟨?_, fun g r _ _ _ => reg_congr hr hs hf g r, fun g n e => ?_, ho⟩
  · rw [← hr]; exact h
  · rw [reg_congr hr hs hf]; exact e

/-- A change of one register that the events may change. -/
theorem AsideFromEvents.of_setReg (s : State) (g r v : Nat) (hr : r = Reg.irqStat ∨ (blkOf g = .sec ∧ r = Reg.secObs))
    (hv : r = Reg.irqStat → ∀ n, (s.reg g r).testBit n = true → v.testBit n = true) : AsideFromEvents s (s.setReg g r v) := by
  have hr5 : r < 512 := by rcases hr with h | ⟨_, h⟩ <;> subst h <;> decide
  refine ⟨rfl, fun g' r' h5 hi hn => ?_, fun g' n e => ?_, List.prefix_rfl⟩
  · rw [reg_setReg s g r v g' r' hr5 h5, if_neg]
    rintro ⟨hh, rfl⟩
    rcases hr with h | ⟨hb, h⟩
    · exact hi h
    · refine hn ⟨?_, h⟩
      rw [← blkOf_homePage s g' r', hh, blkOf_homePage, hb]
  · rw [reg_setReg s g r v g' Reg.irqStat hr5 (by decide)]
    split
    · rename_i h
      obtain ⟨hh, rfl⟩ := h
      have e' : (s.reg g Reg.irqStat).testBit n = true := by
        have hb : blkOf g' = blkOf g := by rw [← blkOf_homePage s g' Reg.irqStat, hh, blkOf_homePage]
        simpa only [State.reg, hh, hb] using e
      have hn : n < 64 := by
        by_contra h64
        have : s.reg g Reg.irqStat < 2 ^ n := lt_of_lt_of_le (reg_lt s g _) (Nat.pow_le_pow_right (by decide) (by omega))
        rw [Nat.testBit_lt_two_pow this] at e'
        cases e'
      rw [Nat.testBit_mod_two_pow]
      simp [hn, hv rfl n e']
    · exact e

theorem State.emit_aside (s : State) (o : Out) : AsideFromEvents s (s.emit o) :=
  .of_rest rfl (List.prefix_append _ _) rfl

theorem State.sendMsix_aside (s : State) (v : Nat) : AsideFromEvents s (s.sendMsix v) := by
  unfold State.sendMsix
  split
  · exact .refl s
  · split
    · exact s.emit_aside _
    · exact .of_rest rfl List.prefix_rfl rfl

theorem State.setIrq_aside (s : State) (g n : Nat) : AsideFromEvents s (s.setIrq g n) := by
  have h : AsideFromEvents s (s.setReg g Reg.irqStat (s.reg g Reg.irqStat ||| 2 ^ n)) :=
    .of_setReg s g _ _ (Or.inl rfl) (fun _ m e => by simp [Nat.testBit_or, e])
  unfold State.setIrq
  dsimp only
  split
  · exact h.trans (State.sendMsix_aside _ _)
  · exact h

theorem State.setIrqOpen_rest (s : State) (p : Nat) :
    AsideFromEvents { s with site := { s.site with irqStat := s.site.irqStat.set p true } } (s.setIrqOpen p) := by
  unfold State.setIrqOpen
  dsimp only
  split
  · exact State.sendMsix_aside _ _
  · exact .refl _

theorem State.logFull_aside (s : State) (e : Snag) : AsideFromEvents s (s.logFull e) := by
  unfold State.logFull
  split <;> exact .of_rest rfl List.prefix_rfl rfl

theorem State.logView_aside (s : State) (p : Nat) (e : Snag) : AsideFromEvents s (s.logView p e) := by
  unfold State.logView
  dsimp only
  split
  · exact .of_rest rfl List.prefix_rfl rfl
  · have h (v : SMap View) : AsideFromEvents s { s with views := v } := .of_rest rfl List.prefix_rfl rfl
    split
    · exact (h _).trans (State.setIrq_aside _ _ _)
    · exact ((h _).trans (State.setIrq_aside _ _ _)).trans (State.setIrq_aside _ _ _)

theorem State.moduleSeen_aside (s : State) (p : Nat) (hp : p < 4) : AsideFromEvents s (s.moduleSeen p) := by
  have hb : blkOf (Blk.sec.page p) = .sec := blkOf_page _ (blkOf_all _) p hp
  have hbump (t : State) : AsideFromEvents t (t.bump (Blk.sec.page p) Reg.secObs 31 0 1) :=
    .of_setReg _ _ _ _ (Or.inr ⟨hb, rfl⟩) (fun h => absurd h (by decide))
  exact ((((State.logView_aside s p _).trans (hbump _)).trans (State.setIrq_aside _ _ 3)).trans
    (State.logFull_aside _ _)).trans (State.logView_aside _ _ _)

theorem foldl_aside {α : Type} (f : State → α → State) (l : List α) (s : State)
    (h : ∀ a ∈ l, ∀ t, AsideFromEvents s t → AsideFromEvents t (f t a)) : AsideFromEvents s (l.foldl f s) := by
  suffices H : ∀ t, AsideFromEvents s t → AsideFromEvents s (l.foldl f t) from H s (.refl s)
  induction l with
  | nil => exact fun t ht => ht
  | cons a l ih =>
    intro t ht
    exact ih (fun b hb => h b (List.mem_cons_of_mem _ hb)) _ (ht.trans (h a (List.mem_cons_self ..) t ht))

theorem State.logOne_aside (s : State) (e : Snag) (hs : s.settings.partitions ≤ 4) : AsideFromEvents s (s.logOne e) := by
  unfold State.logOne
  dsimp only
  split
  · exact (State.logFull_aside s e).trans (State.logView_aside _ _ _)
  · refine (State.logFull_aside s e).trans (foldl_aside _ _ _ fun p hp t _ => State.moduleSeen_aside t p ?_)
    have := List.mem_range.1 hp
    omega

theorem State.log_aside (s : State) (e : Snag) (hs : s.settings.partitions ≤ 4) : AsideFromEvents s (s.log_ e) := by
  unfold State.log_
  dsimp only
  refine (State.logOne_aside s e hs).trans (foldl_aside _ _ _ fun p _ t ht => State.logOne_aside t _ ?_)
  rw [ht.settings, (State.logOne_aside s e hs).settings]
  exact hs

theorem State.raise_aside (s : State) (g n : Nat) (d : Det) (hs : s.settings.partitions ≤ 4) :
    AsideFromEvents s (s.raise_ g n d) := by
  unfold State.raise_
  dsimp only
  split
  · exact State.setIrq_aside s g n
  · refine (State.setIrq_aside s g n).trans (State.log_aside _ _ ?_)
    rw [(State.setIrq_aside s g n).settings]; exact hs

theorem State.notice_aside (s : State) (p i x : Nat) (d : Det) (hs : s.settings.partitions ≤ 4) :
    AsideFromEvents s (s.notice p i x d) := State.log_aside s _ hs

theorem State.faultEntry_aside (s : State) (p i x : Nat) (d : Det) (hs : s.settings.partitions ≤ 4) :
    AsideFromEvents s (s.faultEntry p i x d) := State.log_aside s _ hs

theorem State.resetEntry_aside (s : State) (p i x n : Nat) (hs : s.settings.partitions ≤ 4) :
    AsideFromEvents s (s.resetEntry p i x n) := State.log_aside s _ hs

/-- An event's bit is set once it is raised. -/
theorem State.setIrq_bit (s : State) (g n : Nat) (hn : n < 64) : ((s.setIrq g n).reg g Reg.irqStat).testBit n = true := by
  have h : ((s.setReg g Reg.irqStat (s.reg g Reg.irqStat ||| 2 ^ n)).reg g Reg.irqStat).testBit n = true := by
    rw [reg_setReg_same _ _ _ _ (by decide), Nat.testBit_mod_two_pow]
    simp [hn, Nat.testBit_or, Nat.testBit_two_pow_self]
  unfold State.setIrq
  dsimp only
  split
  · exact (State.sendMsix_aside _ _).irq _ _ h
  · exact h

theorem State.raise_bit (s : State) (g n : Nat) (d : Det) (hn : n < 64) (hs : s.settings.partitions ≤ 4) :
    ((s.raise_ g n d).reg g Reg.irqStat).testBit n = true := by
  unfold State.raise_
  dsimp only
  split
  · exact State.setIrq_bit s g n hn
  · refine (State.log_aside _ _ ?_).irq _ _ (State.setIrq_bit s g n hn)
    rw [(State.setIrq_aside s g n).settings]; exact hs

end Sys2Proof.Machine
end

