-- ==== Sys2Proof/Laws/Ends.lean ====
section
/-! SUPPORT. All that the start, the wait and the end of a command can touch. -/

namespace Sys2Proof.Machine

theorem CmdFrame.refl (s : State) : CmdFrame s s := ⟨rfl, fun _ => rfl, List.Sublist.refl _, fun _ _ _ _ _ => rfl⟩

theorem CmdFrame.trans {s t u : State} (h : CmdFrame s t) (k : CmdFrame t u) : CmdFrame s u := by
  refine ⟨?_, fun a => (k.bytes a).trans (h.bytes a), k.reqs.trans h.reqs,
    fun g r h1 h2 h3 => (k.regs g r h1 h2 h3).trans (h.regs g r h1 h2 h3)⟩
  have a := h.rest
  have b := k.rest
  rw [← b] at a
  exact a

/-- A change of the touched fields other than registers and requests. -/
theorem CmdFrame.of_rest {u t : State} (hr : t.regs = u.regs) (hq : t.reqs.Sublist u.reqs)
    (h : { t with
      cmds := u.cmds, ctxs := u.ctxs, cores := u.cores, clusters := u.clusters, coreDoms := u.coreDoms, dies := u.dies
      stks := u.stks, quads := u.quads, persists := u.persists, reqs := u.reqs, chans := u.chans, tiers := u.tiers
      sems := u.sems, ctrs := u.ctrs, lintels := u.lintels } = u) : CmdFrame u t := by
  have hs : t.settings = u.settings := by have e := congrArg State.settings h; exact e
  have hf : t.flash = u.flash := by have e := congrArg State.flash h; exact e
  have hm : t.mem = u.mem := by have e := congrArg State.mem h; exact e
  refine ⟨?_, fun k => ?_, hq, fun g r _ _ _ => reg_congr hr hs hf g r⟩
  · rw [← hr]; exact h
  · simp only [State.byte, hm]

/-- A change of the touched fields that leaves requests as they are. -/
theorem CmdFrame.of_same {u t : State} (hr : t.regs = u.regs) (hq : t.reqs = u.reqs)
    (h : { t with
      cmds := u.cmds, ctxs := u.ctxs, cores := u.cores, clusters := u.clusters, coreDoms := u.coreDoms, dies := u.dies
      stks := u.stks, quads := u.quads, persists := u.persists, reqs := u.reqs, chans := u.chans, tiers := u.tiers
      sems := u.sems, ctrs := u.ctrs, lintels := u.lintels } = u) : CmdFrame u t :=
  .of_rest hr (hq ▸ List.Sublist.refl _) h

theorem CmdFrame.foldl {α : Type} (f : State → α → State) (hf : ∀ t a, CmdFrame t (f t a)) (l : List α) (s : State) :
    CmdFrame s (l.foldl f s) := by
  induction l generalizing s with
  | nil => exact .refl s
  | cons a l ih => exact (hf s a).trans (ih _)

theorem CmdFrame.ite {u s t : State} {p : Prop} [Decidable p] (h : CmdFrame u s) (k : CmdFrame u t) :
    CmdFrame u (if p then s else t) := by split <;> assumption

theorem State.modCmd_frame (s : State) (i : Nat) (f : Cmd → Cmd) : CmdFrame s (s.modCmd i f) := .of_same rfl rfl rfl
theorem State.modCluster_frame (s : State) (i : Nat) (f : Cluster → Cluster) : CmdFrame s (s.modCluster i f) := .of_same rfl rfl rfl
theorem State.modCoreDom_frame (s : State) (i : Nat) (f : CoreDom → CoreDom) : CmdFrame s (s.modCoreDom i f) :=
  .of_same rfl rfl rfl
theorem State.modDie_frame (s : State) (i : Nat) (f : Die → Die) : CmdFrame s (s.modDie i f) := .of_same rfl rfl rfl
theorem State.modStack_frame (s : State) (i : Nat) (f : Stack → Stack) : CmdFrame s (s.modStack i f) := .of_same rfl rfl rfl
theorem State.modTier_frame (s : State) (i : Nat) (f : Tier → Tier) : CmdFrame s (s.modTier i f) := .of_same rfl rfl rfl
theorem State.modCore_frame (s : State) (i : Nat) (f : Core → Core) : CmdFrame s (s.modCore i f) := .of_same rfl rfl rfl
theorem State.modCtx_frame (s : State) (i : Nat) (f : Ctx → Ctx) : CmdFrame s (s.modCtx i f) := .of_same rfl rfl rfl
theorem State.modSem_frame (s : State) (i : Nat) (f : Sem → Sem) : CmdFrame s (s.modSem i f) := .of_same rfl rfl rfl
theorem State.modCtr_frame (s : State) (i : Nat) (f : Ctr → Ctr) : CmdFrame s (s.modCtr i f) := .of_same rfl rfl rfl
theorem State.modLintel_frame (s : State) (i : Nat) (f : Lintel → Lintel) : CmdFrame s (s.modLintel i f) := .of_same rfl rfl rfl
theorem State.stirCluster_frame (s : State) (i : Nat) : CmdFrame s (s.stirCluster i) := .of_same rfl rfl rfl
theorem State.stirGroup_frame (s : State) (i : Nat) : CmdFrame s (s.stirGroup i) := .of_same rfl rfl rfl
theorem State.progress_frame (s : State) (i : Nat) : CmdFrame s (s.progress i) := .of_same rfl rfl rfl
theorem State.unpin_frame (s : State) (i : Nat) : CmdFrame s (s.unpin i) := .of_same rfl rfl rfl

theorem State.setReg_frame (s : State) (g r v : Nat) (h : r = Reg.tirReadyWait ∨ r = Reg.synSwitches) :
    CmdFrame s (s.setReg g r v) := by
  have hr : r < 512 := by rcases h with h | h <;> subst h <;> decide
  refine ⟨rfl, fun _ => rfl, List.Sublist.refl _, fun g' r' h5 h1 h2 => ?_⟩
  refine reg_setReg_place s g r v g' r' hr h5 ?_
  rcases h with h | h <;> subst h <;> assumption

theorem State.wantCore_frame (s : State) (k : Nat) : CmdFrame s (s.wantCore k) := by
  unfold State.wantCore
  dsimp only
  split
  · exact (State.modCoreDom_frame s k _).trans (State.modDie_frame _ _ _)
  · exact .refl s

theorem State.ctxWaits_frame (s : State) (n : Nat) : CmdFrame s (s.ctxWaits n) := by
  unfold State.ctxWaits
  dsimp only
  split
  · exact (State.modCtx_frame s n _).trans (State.modCore_frame _ _ _)
  · exact State.modCtx_frame s n _

theorem State.ctxWakes_frame (s : State) (n : Nat) : CmdFrame s (s.ctxWakes n) := by
  unfold State.ctxWakes
  split
  · exact (State.modCtx_frame s n _).trans (State.wantCore_frame _ _)
  · exact .refl s

theorem State.settleWait_frame (s : State) (p : Nat) : CmdFrame s (s.settleWait p) := by
  unfold State.settleWait
  split
  · split
    · exact .refl s
    · exact (State.setReg_frame s _ _ _ (Or.inl rfl)).trans (State.modTier_frame _ _ _)
  · exact .refl s

theorem State.cmdWaits_frame (s : State) (id : Nat) (w : Wait) : CmdFrame s (s.cmdWaits id w) := by
  unfold State.cmdWaits
  split
  · exact (State.modCmd_frame s id _).trans (CmdFrame.foldl _ State.ctxWaits_frame _ _)
  · exact .refl s

theorem State.cmdWakes_frame (s : State) (id : Nat) : CmdFrame s (s.cmdWakes id) := by
  unfold State.cmdWakes
  split
  · rename_i c _
    have h : CmdFrame s (((cmdCtxs s c).foldl State.ctxWakes
        (s.modCmd id (fun c => { c with wait := .none }))).settleWait c.part) :=
      ((State.modCmd_frame s id _).trans (CmdFrame.foldl _ State.ctxWakes_frame _ _)).trans (State.settleWait_frame _ _)
    dsimp only
    split
    · exact h.trans (CmdFrame.foldl _ (fun t a => State.modCluster_frame t a _) _ _)
    · exact h
  · exact .refl s

theorem State.dropWork_frame (s : State) (id : Nat) : CmdFrame s (s.dropWork id) :=
  .of_rest rfl (List.filter_sublist ..) rfl

theorem State.endCmd_frame (s : State) (id st : Nat) : CmdFrame s (s.endCmd id st) := by
  unfold State.endCmd
  split
  · split
    · exact .refl s
    · rename_i c _ _
      have h : CmdFrame s ((cmdClusters s c.part c.bits).foldl State.stirCluster
          (c.units.foldl State.stirGroup (s.cmdWakes id))) :=
        ((State.cmdWakes_frame s id).trans (CmdFrame.foldl _ State.stirGroup_frame _ _)).trans
          (CmdFrame.foldl _ State.stirCluster_frame _ _)
      dsimp only
      split
      · exact (h.trans (State.unpin_frame _ _)).trans (State.modCmd_frame _ _ _)
      · exact (h.trans (State.dropWork_frame _ _)).trans (State.modCmd_frame _ _ _)
  · exact .refl s

theorem State.finishCmd_frame (s : State) (id : Nat) : CmdFrame s (s.finishCmd id) := by
  unfold State.finishCmd
  split
  · exact State.endCmd_frame s _ _
  · exact .refl s

theorem State.takeUnit_frame (s : State) (k n id : Nat) : CmdFrame s (s.takeUnit k n id) :=
  (State.modSem_frame s k _).trans (State.endCmd_frame _ _ _)

theorem State.serveSem_frame (s : State) (k n : Nat) : CmdFrame s (s.serveSem k n) := by
  induction n generalizing s with
  | zero => exact .refl s
  | succ n ih =>
    unfold State.serveSem
    dsimp only
    split
    · exact .refl s
    · split
      · exact ((State.modSem_frame s k _).trans (State.takeUnit_frame _ _ _ _)).trans (ih _)
      · exact .refl s

theorem State.serveCtr_frame (s : State) (k n : Nat) : CmdFrame s (s.serveCtr k n) := by
  induction n generalizing s with
  | zero => exact .refl s
  | succ n ih =>
    unfold State.serveCtr
    dsimp only
    split
    · exact .refl s
    · split
      · exact ((State.modCtr_frame s k _).trans (State.endCmd_frame _ _ _)).trans (ih _)
      · split
        · exact ((State.modCtr_frame s k _).trans (State.finishCmd_frame _ _)).trans (ih _)
        · exact .refl s

/-! ### Finding a command -/

/-- The command that stands under a number. -/
theorem State.cmd?_mem {s : State} {id : Nat} {c : Cmd} (h : s.cmd? id = some c) : c ∈ s.cmds ∧ c.id = id := by
  unfold State.cmd? at h
  exact ⟨List.mem_of_find?_eq_some h, by simpa using List.find?_some h⟩

/-- In a sound state the command of a number is the one that the list holds. -/
theorem State.cmd?_of_mem {s : State} {c : Cmd} (hp : s.cmds.Pairwise (fun a b => a.id < b.id)) (h : c ∈ s.cmds) :
    s.cmd? c.id = some c := by
  unfold State.cmd?
  cases hf : s.cmds.find? (fun x => x.id == c.id) with
  | none =>
    rw [List.find?_eq_none] at hf
    exact absurd (beq_self_eq_true c.id) (hf c h)
  | some d =>
    have hd := List.mem_of_find?_eq_some hf
    have he : d.id = c.id := by simpa using List.find?_some hf
    by_contra hne
    rcases List.mem_iff_getElem.1 h with ⟨i, hi, rfl⟩
    rcases List.mem_iff_getElem.1 hd with ⟨j, hj, rfl⟩
    rw [List.pairwise_iff_getElem] at hp
    rcases Nat.lt_trichotomy i j with hij | rfl | hij
    · exact absurd he (Nat.ne_of_gt (hp i j hi hj hij))
    · exact hne rfl
    · exact absurd he (Nat.ne_of_lt (hp j i hj hi hij))

/-- A changed command keeps its number. -/
theorem State.cmd?_modCmd (s : State) (i j : Nat) (f : Cmd → Cmd) :
    (s.modCmd i f).cmd? j = (s.cmd? j).map (fun c => if c.id = i then { f c with id := c.id } else c) := by
  unfold State.cmd? State.modCmd
  rw [List.find?_map]
  congr 1
  congr 1
  funext c
  simp only [Function.comp]
  split <;> rfl

/-! ### The commands after an end -/

theorem foldl_keep {α β : Type} (g : State → β) (f : State → α → State) (hf : ∀ t a, g (f t a) = g t) (l : List α) (s : State) :
    g (l.foldl f s) = g s := by
  induction l generalizing s with
  | nil => rfl
  | cons a l ih => exact (ih _).trans (hf s a)

theorem State.wantCore_cmds (s : State) (k : Nat) : (s.wantCore k).cmds = s.cmds := by
  unfold State.wantCore; dsimp only; split <;> rfl

theorem State.ctxWakes_cmds (s : State) (n : Nat) : (s.ctxWakes n).cmds = s.cmds := by
  unfold State.ctxWakes; split
  · exact State.wantCore_cmds _ _
  · rfl

theorem State.ctxWaits_cmds (s : State) (n : Nat) : (s.ctxWaits n).cmds = s.cmds := by
  unfold State.ctxWaits; dsimp only; split <;> rfl

theorem State.settleWait_cmds (s : State) (p : Nat) : (s.settleWait p).cmds = s.cmds := by
  unfold State.settleWait; split
  · split <;> rfl
  · rfl

theorem State.cmdWakes_cmds (s : State) (id : Nat) (c : Cmd) (h : s.cmd? id = some c) :
    (s.cmdWakes id).cmds = (s.modCmd id (fun c => { c with wait := .none })).cmds := by
  unfold State.cmdWakes
  rw [h]
  dsimp only
  split
  · rw [foldl_keep State.cmds _ (fun t a => by rfl), State.settleWait_cmds,
      foldl_keep State.cmds _ State.ctxWakes_cmds]
  · rw [State.settleWait_cmds, foldl_keep State.cmds _ State.ctxWakes_cmds]

theorem State.cmdWaits_cmds (s : State) (id : Nat) (w : Wait) (c : Cmd) (h : s.cmd? id = some c) :
    (s.cmdWaits id w).cmds = (s.modCmd id (fun c => { c with wait := w })).cmds := by
  unfold State.cmdWaits
  rw [h]
  exact foldl_keep State.cmds _ State.ctxWaits_cmds _ _

theorem State.cmd?_congr {s t : State} (h : t.cmds = s.cmds) (id : Nat) : t.cmd? id = s.cmd? id := by
  unfold State.cmd?; rw [h]

/-- A command that had not ended ends with the status. -/
theorem State.endCmd_cmd? (s : State) (id st : Nat) (c : Cmd) (h : s.cmd? id = some c) (hs : c.status = none) :
    (s.endCmd id st).cmd? id = some { c with
      status := some st, wait := .none, result := if envClass c.bits = 3 && st != St.done then 0 else c.result } := by
  have hid := (State.cmd?_mem h).2
  have key (t : State) (ht : t.cmds = (s.cmdWakes id).cmds) : t.cmd? id = some { c with wait := .none } := by
    rw [State.cmd?_congr (ht.trans (State.cmdWakes_cmds s id c h)), State.cmd?_modCmd, h]
    simp [hid]
  have hstir : ((cmdClusters s c.part c.bits).foldl State.stirCluster
      (c.units.foldl State.stirGroup (s.cmdWakes id))).cmds = (s.cmdWakes id).cmds := by
    rw [foldl_keep State.cmds _ (fun t a => by rfl), foldl_keep State.cmds _ (fun t a => by rfl)]
  unfold State.endCmd
  rw [h]
  dsimp only
  rw [hs]
  simp only [Option.isSome_none, Bool.false_eq_true, if_false]
  rw [State.cmd?_modCmd]
  split
  · rw [key ((State.unpin _ id)) (by exact hstir)]
    simp [hid]
  · rw [key ((State.dropWork _ id)) (by exact hstir)]
    simp [hid]

theorem State.endCmd_ended (s : State) (id st : Nat) (c : Cmd) (h : s.cmd? id = some c) (hs : c.status = none) :
    EndedWith (s.endCmd id st) id st := ⟨_, State.endCmd_cmd? s id st c h hs, rfl⟩

/-! ### The state in which a command starts -/

theorem State.wantClusters_frame (s : State) (l : List Nat) : CmdFrame s (s.wantClusters l).1 := by
  unfold State.wantClusters
  dsimp only
  refine CmdFrame.foldl _ (fun t a => ?_) _ _
  split
  · exact .refl t
  · exact (State.modCluster_frame t a _).trans (State.modDie_frame _ _ _)

theorem State.wantClusters_cmds (s : State) (l : List Nat) : (s.wantClusters l).1.cmds = s.cmds := by
  unfold State.wantClusters
  dsimp only
  refine foldl_keep State.cmds _ (fun t a => ?_) _ _
  split <;> rfl

theorem State.wantClusters_sync (s : State) (l : List Nat) :
    (s.wantClusters l).1.sems = s.sems ∧ (s.wantClusters l).1.ctrs = s.ctrs ∧ (s.wantClusters l).1.lintels = s.lintels := by
  unfold State.wantClusters
  dsimp only
  refine ⟨foldl_keep State.sems _ (fun t a => ?_) _ _, foldl_keep State.ctrs _ (fun t a => ?_) _ _,
    foldl_keep State.lintels _ (fun t a => ?_) _ _⟩ <;> (split <;> rfl)

theorem State.bind_step_cmds (k prio : Nat) (t : State) (c : Nat) :
    ((match ctxFor t k c with
    | some n =>
      (t.modCtx n (fun x =>
        if x.st = 1 then { x with ring := some k, prio := prio }
        else { x with ring := some k, st := 2, since := t.now, prio := prio })).wantCore c
    | none => t) : State).cmds = t.cmds := by
  split
  · exact State.wantCore_cmds _ _
  · rfl

theorem State.bind_cmds (s : State) (k prio : Nat) (l : List Nat) : (s.bind_ k prio l).cmds = s.cmds :=
  foldl_keep State.cmds _ (State.bind_step_cmds k prio) l s

theorem State.bind_frame (s : State) (k prio : Nat) (l : List Nat) : CmdFrame s (s.bind_ k prio l) := by
  refine CmdFrame.foldl _ (fun t c => ?_) l s
  split
  · exact (State.modCtx_frame t _ _).trans (State.wantCore_frame _ _)
  · exact .refl t

theorem State.wantCore_sync (s : State) (k : Nat) :
    (s.wantCore k).sems = s.sems ∧ (s.wantCore k).ctrs = s.ctrs ∧ (s.wantCore k).lintels = s.lintels := by
  unfold State.wantCore; dsimp only; split <;> exact ⟨rfl, rfl, rfl⟩

theorem State.bind_sync (s : State) (k prio : Nat) (l : List Nat) :
    (s.bind_ k prio l).sems = s.sems ∧ (s.bind_ k prio l).ctrs = s.ctrs ∧ (s.bind_ k prio l).lintels = s.lintels := by
  refine ⟨foldl_keep State.sems _ (fun t c => ?_) l s, foldl_keep State.ctrs _ (fun t c => ?_) l s,
    foldl_keep State.lintels _ (fun t c => ?_) l s⟩
  · split
    · exact (State.wantCore_sync _ _).1
    · rfl
  · split
    · exact (State.wantCore_sync _ _).2.1
    · rfl
  · split
    · exact (State.wantCore_sync _ _).2.2
    · rfl

theorem State.take_cmds (s : State) (k : Nat) (b : CmdBits) : (s.take_ k b).cmds = s.cmds ++ [newCmd s k b] := by
  unfold State.take_
  dsimp only
  exact foldl_keep State.cmds _ (fun t a => by rfl) _ _

/-- The command that starts stands among the commands, neither ended nor bound to end with another status. -/
theorem Starts.cmd? {a : Bool} {cls sub k : Nat} {need : State → Cmd → List Nat} {check : State → Cmd → Option Nat}
    {s u : State} {x : Cmd} (h : Starts a cls sub k need check s u x) (hs : Sound s) :
    u.cmd? x.id = some x ∧ x.status = none ∧ x.late = none ∧ envClass x.bits = cls ∧ cmdSub x.bits = sub := by
  obtain ⟨v, c, ha, -, -, -, rfl, rfl⟩ := h
  have hv : v.cmd? c.id = some c ∧ c.status = none ∧ c.late = none ∧ envClass c.bits = cls ∧ cmdSub c.bits = sub := by
    rcases ha with ⟨h, hl, hc, hb, rfl⟩ | ⟨-, b, -, -, hc, hb, -, rfl, rfl⟩
    · have hm := List.mem_of_find?_eq_some h
      have hp := List.find?_some h
      refine ⟨State.cmd?_of_mem hs.cmds.1 hm, ?_, hl, hc, hb⟩
      simp only [Bool.and_eq_true, Option.isNone_iff_eq_none] at hp
      exact hp.1.1.2
    · refine ⟨State.cmd?_of_mem ?_ ?_, rfl, rfl, hc, hb⟩
      · rw [State.take_cmds, List.pairwise_append]
        refine ⟨hs.cmds.1, List.pairwise_singleton _ _, fun a ha b' hb' => ?_⟩
        rw [List.mem_singleton] at hb'
        subst hb'
        exact hs.cmds.2 a ha
      · rw [State.take_cmds]; simp
  obtain ⟨h1, h2, h3, h4, h5⟩ := hv
  refine ⟨?_, h2, h3, h4, h5⟩
  have hc : (bindNow a ((v.wantClusters (reaches v c)).1.modCmd c.id
      (fun c => { c with checked := true, wait := .none })) c).cmds =
      ((v.wantClusters (reaches v c)).1.modCmd c.id (fun c => { c with checked := true, wait := .none })).cmds := by
    unfold bindNow; split
    · exact State.bind_cmds _ _ _ _
    · rfl
  rw [State.cmd?_congr hc, State.cmd?_modCmd, State.cmd?_congr (State.wantClusters_cmds v _), h1]
  simp

/-- Taking a command from its slot leaves a field that it does not name. -/
theorem State.take_field {β : Type} (g : State → β) (h1 : ∀ t a, g (State.progress t a) = g t)
    (h2 : ∀ t p f, g (State.modLedger t p f) = g t) (h3 : ∀ (t : State) k f, g (State.modRing t k f) = g t)
    (h4 : ∀ (t : State) c n, g { t with cmds := c, nextCmd := n } = g t) (s : State) (k : Nat) (b : CmdBits) :
    g (s.take_ k b) = g s := by
  unfold State.take_
  dsimp only
  rw [h2, foldl_keep g _ h1, h4, h3]

theorem State.wantCore_field {β : Type} (g : State → β) (h1 : ∀ (t : State) k f, g (State.modCoreDom t k f) = g t)
    (h2 : ∀ (t : State) k f, g (State.modDie t k f) = g t) (s : State) (k : Nat) : g (s.wantCore k) = g s := by
  unfold State.wantCore; dsimp only; split
  · rw [h2, h1]
  · rfl

/-- Binding contexts and waking clusters leave a field that they do not name. -/
theorem State.start_field {β : Type} (g : State → β) (h1 : ∀ (t : State) k f, g (State.modCoreDom t k f) = g t)
    (h2 : ∀ (t : State) k f, g (State.modDie t k f) = g t) (h3 : ∀ (t : State) k f, g (State.modCluster t k f) = g t)
    (h4 : ∀ (t : State) k f, g (State.modCmd t k f) = g t) (h5 : ∀ (t : State) k f, g (State.modCtx t k f) = g t)
    (a : Bool) (v : State) (l : List Nat) (i : Nat) (f : Cmd → Cmd) (c : Cmd) :
    g (bindNow a ((v.wantClusters l).1.modCmd i f) c) = g v := by
  have hw : g (v.wantClusters l).1 = g v := by
    unfold State.wantClusters
    dsimp only
    refine foldl_keep g _ (fun t c => ?_) _ _
    split
    · rfl
    · rw [h2, h3]
  unfold bindNow
  split
  · unfold State.bind_
    rw [foldl_keep g _ (fun t c => ?_), h4, hw]
    split
    · rw [State.wantCore_field g h1 h2, h5]
    · rfl
  · rw [h4, hw]

/-- A field that dispatch and start do not name. -/
theorem Starts.field {β : Type} (g : State → β) {a : Bool} {cls sub k : Nat} {need : State → Cmd → List Nat}
    {check : State → Cmd → Option Nat} {s u : State} {x : Cmd} (h : Starts a cls sub k need check s u x)
    (h2 : ∀ t p f, g (State.modLedger t p f) = g t) (h3 : ∀ (t : State) k f, g (State.modRing t k f) = g t)
    (h4 : ∀ (t : State) c n, g { t with cmds := c, nextCmd := n } = g t)
    (h5 : ∀ (t : State) k f, g (State.modCoreDom t k f) = g t) (h6 : ∀ (t : State) k f, g (State.modDie t k f) = g t)
    (h7 : ∀ (t : State) k f, g (State.modCluster t k f) = g t) (h8 : ∀ (t : State) k f, g (State.modCtx t k f) = g t) :
    g u = g s := by
  obtain ⟨v, c, ha, -, -, -, rfl, rfl⟩ := h
  have hc (t : State) (k : Nat) (f : Cmd → Cmd) : g (t.modCmd k f) = g t := h4 t _ t.nextCmd
  rw [State.start_field g h5 h6 h7 hc h8]
  rcases ha with ⟨-, -, -, -, rfl⟩ | ⟨-, b, -, -, -, -, -, rfl, rfl⟩
  · rfl
  · exact State.take_field g (fun t a => h7 t a _) h2 h3 h4 s k b

/-- What the start has left as it was. -/
theorem Starts.rest {a : Bool} {cls sub k : Nat} {need : State → Cmd → List Nat} {check : State → Cmd → Option Nat}
    {s u : State} {x : Cmd} (h : Starts a cls sub k need check s u x) :
    u.sems = s.sems ∧ u.ctrs = s.ctrs ∧ u.lintels = s.lintels ∧ u.settings = s.settings ∧ u.flash = s.flash ∧ u.regs = s.regs ∧
      u.mem = s.mem := by
  refine ⟨Starts.field State.sems h ?_ ?_ ?_ ?_ ?_ ?_ ?_, Starts.field State.ctrs h ?_ ?_ ?_ ?_ ?_ ?_ ?_,
    Starts.field State.lintels h ?_ ?_ ?_ ?_ ?_ ?_ ?_, Starts.field State.settings h ?_ ?_ ?_ ?_ ?_ ?_ ?_,
    Starts.field State.flash h ?_ ?_ ?_ ?_ ?_ ?_ ?_, Starts.field State.regs h ?_ ?_ ?_ ?_ ?_ ?_ ?_,
    Starts.field State.mem h ?_ ?_ ?_ ?_ ?_ ?_ ?_⟩ <;> exact fun _ _ _ => rfl

/-- A field that the end of a command does not name. -/
theorem State.cmdWakes_field {β : Type} (g : State → β) (h1 : ∀ (t : State) k f, g (State.modCmd t k f) = g t)
    (h2 : ∀ (t : State) k f, g (State.modCtx t k f) = g t) (h3 : ∀ (t : State) k f, g (State.modCoreDom t k f) = g t)
    (h4 : ∀ (t : State) k f, g (State.modDie t k f) = g t) (h5 : ∀ (t : State) k f, g (State.modCluster t k f) = g t)
    (h6 : ∀ (t : State) k f, g (State.modTier t k f) = g t)
    (h7 : ∀ (t : State) k v, g (State.setReg t k Reg.tirReadyWait v) = g t) (s : State) (id : Nat) : g (s.cmdWakes id) = g s := by
  have hw (t : State) (n : Nat) : g (t.ctxWakes n) = g t := by
    unfold State.ctxWakes; split
    · rw [State.wantCore_field g h3 h4, h2]
    · rfl
  have hl (t : State) (p : Nat) : g (t.settleWait p) = g t := by
    unfold State.settleWait; split
    · split
      · rfl
      · rw [h6]; exact h7 t _ _
    · rfl
  unfold State.cmdWakes
  split
  · dsimp only
    split
    · rw [foldl_keep g _ (fun t a => h5 t a _), hl, foldl_keep g _ hw, h1]
    · rw [hl, foldl_keep g _ hw, h1]
  · rfl

/-- What the end of a command leaves of a field: the work of the command is dropped from it unless the command is done. -/
theorem State.endCmd_field {β : Type} (g : State → β) (h1 : ∀ (t : State) k f, g (State.modCmd t k f) = g t)
    (h2 : ∀ (t : State) k f, g (State.modCtx t k f) = g t) (h3 : ∀ (t : State) k f, g (State.modCoreDom t k f) = g t)
    (h4 : ∀ (t : State) k f, g (State.modDie t k f) = g t) (h5 : ∀ (t : State) k f, g (State.modCluster t k f) = g t)
    (h6 : ∀ (t : State) k f, g (State.modTier t k f) = g t)
    (h7 : ∀ (t : State) k v, g (State.setReg t k Reg.tirReadyWait v) = g t)
    (h8 : ∀ (t : State) k f, g (State.modStack t k f) = g t) (h9 : ∀ t k, g (State.unpin t k) = g t) (s : State) (id st : Nat) :
    g (s.endCmd id st) = g s ∨ (st ≠ St.done ∧ ∃ t, g t = g s ∧ t.sems = s.sems ∧ t.ctrs = s.ctrs ∧ t.lintels = s.lintels ∧
      g (s.endCmd id st) = g (State.dropWork t id)) := by
  have hall {γ : Type} (f : State → γ) (h1 : ∀ (t : State) k x, f (State.modCmd t k x) = f t)
      (h2 : ∀ (t : State) k x, f (State.modCtx t k x) = f t) (h3 : ∀ (t : State) k x, f (State.modCoreDom t k x) = f t)
      (h4 : ∀ (t : State) k x, f (State.modDie t k x) = f t) (h5 : ∀ (t : State) k x, f (State.modCluster t k x) = f t)
      (h6 : ∀ (t : State) k x, f (State.modTier t k x) = f t)
      (h7 : ∀ (t : State) k v, f (State.setReg t k Reg.tirReadyWait v) = f t)
      (h8 : ∀ (t : State) k x, f (State.modStack t k x) = f t) (c : Cmd) :
      f ((cmdClusters s c.part c.bits).foldl State.stirCluster (c.units.foldl State.stirGroup (s.cmdWakes id))) = f s := by
    rw [foldl_keep f State.stirCluster (fun t a => h5 t a _), foldl_keep f State.stirGroup (fun t a => h8 t _ _),
      State.cmdWakes_field f h1 h2 h3 h4 h5 h6 h7]
  unfold State.endCmd
  split
  · split
    · exact Or.inl rfl
    · rename_i c _ _
      dsimp only
      split
      · left
        rw [h1, h9, hall g h1 h2 h3 h4 h5 h6 h7 h8]
      · right
        refine ⟨‹_›, _, hall g h1 h2 h3 h4 h5 h6 h7 h8 c, ?_, ?_, ?_, h1 _ _ _⟩
        all_goals
          refine hall _ ?_ ?_ ?_ ?_ ?_ ?_ ?_ ?_ c <;> exact fun _ _ _ => rfl
  · exact Or.inl rfl

/-- A semaphore after a command's end: the same, but that the command no longer waits there. -/
theorem State.endCmd_sem (s : State) (id st : Nat) :
    (s.endCmd id st).sems = s.sems ∨ (st ≠ St.done ∧ (s.endCmd id st).sems =
      SMap.mapVals {} (fun m => { m with waiters := m.waiters.filter (fun w => w.2 != id) }) s.sems) := by
  rcases State.endCmd_field State.sems (fun _ _ _ => rfl) (fun _ _ _ => rfl) (fun _ _ _ => rfl) (fun _ _ _ => rfl)
    (fun _ _ _ => rfl) (fun _ _ _ => rfl) (fun _ _ _ => rfl) (fun _ _ _ => rfl) (fun _ _ => rfl) s id st with h | ⟨h, t, -, ht, -, -, e⟩
  · exact Or.inl h
  · refine Or.inr ⟨h, e.trans ?_⟩
    show SMap.mapVals _ _ t.sems = _
    rw [ht]

theorem State.endCmd_ctr (s : State) (id st : Nat) :
    (s.endCmd id st).ctrs = s.ctrs ∨ (st ≠ St.done ∧ (s.endCmd id st).ctrs =
      SMap.mapVals {} (fun m => { m with waiters := m.waiters.filter (fun w => w.2.1 != id) }) s.ctrs) := by
  rcases State.endCmd_field State.ctrs (fun _ _ _ => rfl) (fun _ _ _ => rfl) (fun _ _ _ => rfl) (fun _ _ _ => rfl)
    (fun _ _ _ => rfl) (fun _ _ _ => rfl) (fun _ _ _ => rfl) (fun _ _ _ => rfl) (fun _ _ => rfl) s id st with h | ⟨h, t, -, -, ht, -, e⟩
  · exact Or.inl h
  · refine Or.inr ⟨h, e.trans ?_⟩
    show SMap.mapVals _ _ t.ctrs = _
    rw [ht]

theorem State.endCmd_bare (s : State) (id st i : Nat) :
    { sem (s.endCmd id st) i with waiters := [] } = { sem s i with waiters := [] } ∧
      { ctr (s.endCmd id st) i with waiters := [] } = { ctr s i with waiters := [] } := by
  unfold sem ctr
  constructor
  · rcases State.endCmd_sem s id st with h | ⟨-, h⟩
    · rw [h]
    · rw [h, SMap.get_mapVals _ _ rfl]
  · rcases State.endCmd_ctr s id st with h | ⟨-, h⟩
    · rw [h]
    · rw [h, SMap.get_mapVals _ _ rfl]

/-- A command that is done leaves the semaphores and pairs as they are. -/
theorem State.endCmd_done_sync (s : State) (id : Nat) :
    (s.endCmd id St.done).sems = s.sems ∧ (s.endCmd id St.done).ctrs = s.ctrs := by
  constructor
  · rcases State.endCmd_sem s id St.done with h | ⟨h, -⟩
    · exact h
    · exact absurd rfl h
  · rcases State.endCmd_ctr s id St.done with h | ⟨h, -⟩
    · exact h
    · exact absurd rfl h

theorem State.finishCmd_eq (s : State) (id : Nat) (c : Cmd) (h : s.cmd? id = some c) (hl : c.late = none) :
    s.finishCmd id = s.endCmd id St.done := by
  unfold State.finishCmd; rw [h]; simp [hl]

end Sys2Proof.Machine
end

