-- ==== Sys2Proof/Laws/Keeps.lean ====
section
/-! SUPPORT. What every operation keeps: the queue, the fused bits, soundness, and the counts that only grow. The
relation Keeps is stated on the components of a state, so that a change of any other field is no work. -/

namespace Sys2Proof.Machine

/-- The components that Keeps speaks of, against the state before. With `b` the timebase does not run back either. -/
structure KeepsC (b : Bool) (s : State) (p : List Instr) (now : Nat) (x : Settings) (vc : Bool) (vid svn ph : Nat)
    (mem : Memory) (wr po : SMap Bool) (co : List Conn) (lo : List Snag) (vi : SMap View) (dr : Nat) (out : List Out)
    (fr : Nat) (cm : List Cmd) (nc : Nat) : Prop where
  pending : p = s.pending
  variant : vc = s.flash.variantC
  vid : vid = s.flash.worrunVid
  svn : s.flash.minSvn ≤ svn
  draws : s.draws ≤ dr
  free : s.freeIdx ≤ fr
  out : s.out <+: out
  clock : b = true → s.now ≤ now
  mem : Sound s → mem.wf = true
  written : Sound s → SMap.wf false wr = true
  poison : Sound s → SMap.wf false po = true
  log : Sound s → lo.length ≤ 4096
  views : Sound s → ∀ e ∈ vi, e.2.ents.length ≤ 1024
  queues : Sound s → ∀ c ∈ co, c.queue.length ≤ 4096
  settings : Sound s → SettingsLegal x
  phase : Sound s → ph ≤ 7
  cmds : Sound s → cmdsLegal cm nc

/-- From `s` to `t` the machine keeps what every command keeps. -/
def Keeps (b : Bool) (s t : State) : Prop :=
  KeepsC b s t.pending t.now t.settings t.flash.variantC t.flash.worrunVid t.flash.minSvn t.startup.phase
    t.mem t.written t.poison t.conns t.log t.views t.draws t.out t.freeIdx t.cmds t.nextCmd

theorem Keeps.refl (b : Bool) (s : State) : Keeps b s s :=
  ⟨rfl, rfl, rfl, Nat.le_refl _, Nat.le_refl _, Nat.le_refl _, List.prefix_rfl, fun _ => Nat.le_refl _, (·.mem), (·.written),
    (·.poison), (·.log), (·.views), (·.queues), (·.settings), (·.phase), (·.cmds)⟩

theorem Keeps.sound {b : Bool} {s t : State} (h : Keeps b s t) (hs : Sound s) : Sound t :=
  ⟨h.mem hs, h.written hs, h.poison hs, h.log hs, h.views hs, h.queues hs, h.settings hs, h.phase hs, h.cmds hs⟩

theorem Keeps.trans {b : Bool} {s t u : State} (h : Keeps b s t) (k : Keeps b t u) : Keeps b s u :=
  ⟨k.pending.trans h.pending, k.variant.trans h.variant, k.vid.trans h.vid, Nat.le_trans h.svn k.svn,
    Nat.le_trans h.draws k.draws, Nat.le_trans h.free k.free, h.out.trans k.out,
    fun e => Nat.le_trans (h.clock e) (k.clock e), fun e => k.mem (h.sound e), fun e => k.written (h.sound e),
    fun e => k.poison (h.sound e), fun e => k.log (h.sound e), fun e => k.views (h.sound e), fun e => k.queues (h.sound e),
    fun e => k.settings (h.sound e), fun e => k.phase (h.sound e),
    fun e => k.cmds (h.sound e)⟩

/-- Keeping the timebase as well is the stronger claim. -/
theorem Keeps.weaken {b : Bool} {s t : State} (h : Keeps true s t) : Keeps b s t :=
  ⟨h.1, h.2, h.3, h.4, h.5, h.6, h.7, fun _ => h.8 rfl, h.9, h.10, h.11, h.12, h.13, h.14, h.15, h.16, h.17⟩

/-- A state written out field by field. -/
theorem Keeps.of_mk {b : Bool} {s₀ : State} {a0} {a1} {a2} {a3} {a4} {a5} {a6} {a7} {a8} {a9} {a10} {a11} {a12}
    {a13} {a14} {a15} {a16} {a17} {a18} {a19} {a20} {a21} {a22} {a23} {a24} {a25} {a26} {a27} {a28} {a29} {a30}
    {a31} {a32} {a33} {a34} {a35} {a36} {a37} {a38} {a39} {a40} {a41} {a42} {a43} {a44} {a45} {a46} {a47} {a48}
    {a49} {a50} {a51} {a52} {a53}
    (h : KeepsC b s₀ a0 a1 a2 a3.variantC a3.worrunVid a3.minSvn a4.phase a6 a7 a8 a41 a45 a47 a51 a52 a53 a10 a11) :
    Keeps b s₀ (State.mk
a0 a1 a2 a3 a4 a5 a6 a7 a8 a9 a10 a11 a12 a13 a14 a15 a16 a17 a18 a19 a20 a21 a22 a23 a24 a25 a26 a27 a28 a29 a30
      a31 a32 a33 a34 a35 a36 a37 a38 a39 a40 a41 a42 a43 a44 a45 a46 a47 a48 a49 a50 a51 a52 a53) := h

/-- The components of a state that is kept. -/
theorem Keeps.comps {b : Bool} {s₀ s : State} (h : Keeps b s₀ s) :
    KeepsC b s₀ s.pending s.now s.settings s.flash.variantC s.flash.worrunVid s.flash.minSvn s.startup.phase
      s.mem s.written s.poison s.conns s.log s.views s.draws s.out s.freeIdx s.cmds s.nextCmd := h

/-- Another phase of Table SUP-7. -/
theorem KeepsC.setPhase {b : Bool} {s₀ : State} {p : List Instr} {now : Nat} {x : Settings} {vc : Bool} {vid svn ph : Nat}
    {mem : Memory} {wr po : SMap Bool} {co : List Conn} {lo : List Snag} {vi : SMap View} {dr : Nat} {out : List Out}
    {fr : Nat} {cm : List Cmd} {nc : Nat}
    (h : KeepsC b s₀ p now x vc vid svn ph mem wr po co lo vi dr out fr cm nc) {n : Nat}
    (hn : n ≤ 7) : KeepsC b s₀ p now x vc vid svn n mem wr po co lo vi dr out fr cm nc :=
  ⟨h.1, h.2, h.3, h.4, h.5, h.6, h.7, h.8, h.9, h.10, h.11, h.12, h.13, h.14, h.15, fun _ => hn, h.17⟩

/-- Other connections. -/
theorem KeepsC.setConns {b : Bool} {s₀ : State} {p : List Instr} {now : Nat} {x : Settings} {vc : Bool} {vid svn ph : Nat}
    {mem : Memory} {wr po : SMap Bool} {co : List Conn} {lo : List Snag} {vi : SMap View} {dr : Nat} {out : List Out}
    {fr : Nat} {cm : List Cmd} {nc : Nat}
    (h : KeepsC b s₀ p now x vc vid svn ph mem wr po co lo vi dr out fr cm nc) {l : List Conn}
    (hn : (∀ c ∈ co, c.queue.length ≤ 4096) → ∀ c ∈ l, c.queue.length ≤ 4096) : KeepsC b s₀ p now x vc vid svn ph mem wr po l lo vi dr out fr cm nc :=
  ⟨h.1, h.2, h.3, h.4, h.5, h.6, h.7, h.8, h.9, h.10, h.11, h.12, h.13, fun e => hn (h.queues e), h.15, h.16, h.17⟩

/-- Settings that are legal where the state before is sound. -/
theorem KeepsC.newSettings {b : Bool} {s₀ : State} {p : List Instr} {now : Nat} {x : Settings} {vc : Bool} {vid svn ph : Nat}
    {mem : Memory} {wr po : SMap Bool} {co : List Conn} {lo : List Snag} {vi : SMap View} {dr : Nat} {out : List Out}
    {fr : Nat} {cm : List Cmd} {nc : Nat} {y : Settings} (h : KeepsC b s₀ p now x vc vid svn ph mem wr po co lo vi dr out fr cm nc)
    (hn : Sound s₀ → SettingsLegal y) : KeepsC b s₀ p now y vc vid svn ph mem wr po co lo vi dr out fr cm nc :=
  ⟨h.1, h.2, h.3, h.4, h.5, h.6, h.7, h.8, h.9, h.10, h.11, h.12, h.13, h.14, hn, h.16, h.17⟩

/-- Other legal settings. -/
theorem KeepsC.setSettings {b : Bool} {s₀ : State} {p : List Instr} {now : Nat} {x : Settings} {vc : Bool} {vid svn ph : Nat}
    {mem : Memory} {wr po : SMap Bool} {co : List Conn} {lo : List Snag} {vi : SMap View} {dr : Nat} {out : List Out}
    {fr : Nat} {cm : List Cmd} {nc : Nat}
    (h : KeepsC b s₀ p now x vc vid svn ph mem wr po co lo vi dr out fr cm nc) {y : Settings}
    (hn : SettingsLegal x → SettingsLegal y) : KeepsC b s₀ p now y vc vid svn ph mem wr po co lo vi dr out fr cm nc :=
  ⟨h.1, h.2, h.3, h.4, h.5, h.6, h.7, h.8, h.9, h.10, h.11, h.12, h.13, h.14, fun e => hn (h.settings e), h.16, h.17⟩

/-- A higher fused minimum. -/
theorem KeepsC.setSvn {b : Bool} {s₀ : State} {p : List Instr} {now : Nat} {x : Settings} {vc : Bool} {vid svn ph : Nat}
    {mem : Memory} {wr po : SMap Bool} {co : List Conn} {lo : List Snag} {vi : SMap View} {dr : Nat} {out : List Out}
    {fr : Nat} {cm : List Cmd} {nc : Nat}
    (h : KeepsC b s₀ p now x vc vid svn ph mem wr po co lo vi dr out fr cm nc) {n : Nat}
    (hn : svn ≤ n) : KeepsC b s₀ p now x vc vid n ph mem wr po co lo vi dr out fr cm nc :=
  ⟨h.1, h.2, h.3, Nat.le_trans h.4 hn, h.5, h.6, h.7, h.8, h.9, h.10, h.11, h.12, h.13, h.14, h.15, h.16, h.17⟩

/-- A later time. -/
theorem KeepsC.setNow {b : Bool} {s₀ : State} {p : List Instr} {now : Nat} {x : Settings} {vc : Bool} {vid svn ph : Nat}
    {mem : Memory} {wr po : SMap Bool} {co : List Conn} {lo : List Snag} {vi : SMap View} {dr : Nat} {out : List Out}
    {fr : Nat} {cm : List Cmd} {nc : Nat}
    (h : KeepsC b s₀ p now x vc vid svn ph mem wr po co lo vi dr out fr cm nc) {n : Nat}
    (hn : now ≤ n) : KeepsC b s₀ p n x vc vid svn ph mem wr po co lo vi dr out fr cm nc :=
  ⟨h.1, h.2, h.3, h.4, h.5, h.6, h.7, fun e => Nat.le_trans (h.8 e) hn, h.9, h.10, h.11, h.12, h.13, h.14, h.15, h.16, h.17⟩

/-- More output. -/
theorem KeepsC.setOut {b : Bool} {s₀ : State} {p : List Instr} {now : Nat} {x : Settings} {vc : Bool} {vid svn ph : Nat}
    {mem : Memory} {wr po : SMap Bool} {co : List Conn} {lo : List Snag} {vi : SMap View} {dr : Nat} {out : List Out}
    {fr : Nat} {cm : List Cmd} {nc : Nat}
    (h : KeepsC b s₀ p now x vc vid svn ph mem wr po co lo vi dr out fr cm nc) {l : List Out}
    (hn : out <+: l) : KeepsC b s₀ p now x vc vid svn ph mem wr po co lo vi dr l fr cm nc :=
  ⟨h.1, h.2, h.3, h.4, h.5, h.6, h.7.trans hn, h.8, h.9, h.10, h.11, h.12, h.13, h.14, h.15, h.16, h.17⟩

/-- Other views. -/
theorem KeepsC.setViews {b : Bool} {s₀ : State} {p : List Instr} {now : Nat} {x : Settings} {vc : Bool} {vid svn ph : Nat}
    {mem : Memory} {wr po : SMap Bool} {co : List Conn} {lo : List Snag} {vi : SMap View} {dr : Nat} {out : List Out}
    {fr : Nat} {cm : List Cmd} {nc : Nat}
    (h : KeepsC b s₀ p now x vc vid svn ph mem wr po co lo vi dr out fr cm nc) {w : SMap View}
    (hn : (∀ e ∈ vi, e.2.ents.length ≤ 1024) → ∀ e ∈ w, e.2.ents.length ≤ 1024) : KeepsC b s₀ p now x vc vid svn ph mem wr po co lo w dr out fr cm nc :=
  ⟨h.1, h.2, h.3, h.4, h.5, h.6, h.7, h.8, h.9, h.10, h.11, h.12, fun e => hn (h.views e), h.14, h.15, h.16, h.17⟩

/-- Other commands in flight. -/
theorem KeepsC.setCmds {b : Bool} {s₀ : State} {p : List Instr} {now : Nat} {x : Settings} {vc : Bool} {vid svn ph : Nat}
    {mem : Memory} {wr po : SMap Bool} {co : List Conn} {lo : List Snag} {vi : SMap View} {dr : Nat} {out : List Out}
    {fr : Nat} {cm : List Cmd} {nc : Nat}
    (h : KeepsC b s₀ p now x vc vid svn ph mem wr po co lo vi dr out fr cm nc) {l : List Cmd} {n : Nat}
    (hn : cmdsLegal cm nc → cmdsLegal l n) : KeepsC b s₀ p now x vc vid svn ph mem wr po co lo vi dr out fr l n :=
  ⟨h.1, h.2, h.3, h.4, h.5, h.6, h.7, h.8, h.9, h.10, h.11, h.12, h.13, h.14, h.15, h.16, fun e => hn (h.cmds e)⟩

/-- Fewer commands in flight are as legal. -/
theorem cmdsLegal.filter {l : List Cmd} {n : Nat} (h : cmdsLegal l n) (p : Cmd → Bool) : cmdsLegal (l.filter p) n :=
  ⟨h.1.filter p, fun c hc => h.2 c (List.mem_of_mem_filter hc)⟩

/-- A change of commands that keeps their numbers. -/
theorem cmdsLegal.map {l : List Cmd} {n : Nat} (h : cmdsLegal l n) (f : Cmd → Cmd) (hf : ∀ c, (f c).id = c.id) :
    cmdsLegal (l.map f) n := by
  refine ⟨List.pairwise_map.2 (h.1.imp fun {a c} hac => ?_), fun c hc => ?_⟩
  · simpa [hf] using hac
  · obtain ⟨d, hd, rfl⟩ := List.mem_map.1 hc
    simpa [hf] using h.2 d hd

/-- The next number goes to one more command. -/
theorem cmdsLegal.append {l : List Cmd} {n : Nat} (h : cmdsLegal l n) {c : Cmd} (hc : c.id = n) :
    cmdsLegal (l ++ [c]) (n + 1) := by
  refine ⟨List.pairwise_append.2 ⟨h.1, List.pairwise_singleton _ _, fun a ha d hd => ?_⟩, fun d hd => ?_⟩
  · rw [List.mem_singleton.1 hd, hc]; exact h.2 a ha
  · rcases List.mem_append.1 hd with hd | hd
    · exact Nat.lt_succ_of_lt (h.2 d hd)
    · rw [List.mem_singleton.1 hd, hc]; exact Nat.lt_succ_self n

theorem Keeps.ite {b : Bool} {s₀ x y : State} {c : Prop} [Decidable c] (hx : Keeps b s₀ x) (hy : Keeps b s₀ y) :
    Keeps b s₀ (if c then x else y) := by split <;> assumption

theorem Keeps.ite_fst {α : Type} {b : Bool} {s₀ : State} {x y : State × α} {c : Prop} [Decidable c] (hx : Keeps b s₀ x.1)
    (hy : Keeps b s₀ y.1) : Keeps b s₀ (if c then x else y).1 := by split <;> assumption

theorem Keeps.foldl {α : Type} {b : Bool} {s₀ s : State} {f : State → α → State} {l : List α}
    (hf : ∀ t x, Keeps b s₀ t → Keeps b s₀ (f t x)) (h : Keeps b s₀ s) : Keeps b s₀ (l.foldl f s) := by
  induction l generalizing s with
  | nil => exact h
  | cons x l ih => exact ih (hf s x h)

theorem Keeps.foldl_mem {α : Type} {b : Bool} {s₀ s : State} {f : State → α → State} {l : List α}
    (hf : ∀ t, ∀ x ∈ l, Keeps b s₀ t → Keeps b s₀ (f t x)) (h : Keeps b s₀ s) : Keeps b s₀ (l.foldl f s) := by
  induction l generalizing s with
  | nil => exact h
  | cons x l ih =>
    exact ih (fun t y hy => hf t y (List.mem_cons_of_mem _ hy)) (hf s x (List.mem_cons_self ..) h)

theorem Keeps.foldr {α : Type} {b : Bool} {s₀ s : State} {f : α → State → State} {l : List α}
    (hf : ∀ t x, Keeps b s₀ t → Keeps b s₀ (f x t)) (h : Keeps b s₀ s) : Keeps b s₀ (l.foldr f s) := by
  induction l with
  | nil => exact h
  | cons x l ih => exact hf _ x ih

theorem Keeps.foldl_fst {α β : Type} {b : Bool} {s₀ : State} {p : State × β} {f : State × β → α → State × β} {l : List α}
    (hf : ∀ t x, Keeps b s₀ t.1 → Keeps b s₀ (f t x).1) (h : Keeps b s₀ p.1) : Keeps b s₀ (l.foldl f p).1 := by
  induction l generalizing p with
  | nil => exact h
  | cons x l ih => exact ih (hf p x h)

theorem Keeps.of_fst {β : Type} {b : Bool} {s₀ t : State} {p : State × β} {y : β} (h : Keeps b s₀ p.1) (e : p = (t, y)) :
    Keeps b s₀ t := by subst e; exact h

/-! ### Answers -/

/-- An answer, if it is a next state, keeps what every command keeps. -/
def KeepsA (b : Bool) (s : State) (o : Answer) : Prop := ∀ t, o = .next t → Keeps b s t

theorem KeepsA.next {b : Bool} {s t : State} (h : Keeps b s t) : KeepsA b s (.next t) := by
  intro u e; cases e; exact h

theorem KeepsA.ite {b : Bool} {s : State} {x y : Answer} {c : Prop} [Decidable c] (hx : KeepsA b s x) (hy : KeepsA b s y) :
    KeepsA b s (if c then x else y) := by split <;> assumption

/-- An optional state, if there is one, keeps what every command keeps. -/
def KeepsO (b : Bool) (s : State) (o : Option State) : Prop := ∀ t, o = some t → Keeps b s t

theorem KeepsO.some {b : Bool} {s t : State} (h : Keeps b s t) : KeepsO b s (some t) := by
  intro u e; cases e; exact h

theorem KeepsO.none {b : Bool} {s : State} : KeepsO b s none := by
  intro u e; cases e

theorem KeepsO.ite {b : Bool} {s : State} {x y : Option State} {c : Prop} [Decidable c] (hx : KeepsO b s x)
    (hy : KeepsO b s y) : KeepsO b s (if c then x else y) := by split <;> assumption

theorem KeepsO.get {b : Bool} {s t : State} {o : Option State} (h : KeepsO b s o) (e : o = Option.some t) : Keeps b s t := h t e

end Sys2Proof.Machine
end

