-- ==== Sys2Proof/Laws/Keeps/Ops.lean ====
section
/-! SUPPORT. What the operations of Machine/Ops.lean keep. -/

namespace Sys2Proof.Machine

theorem State.setReg_keeps {b : Bool} {s₀ s : State} (h : Keeps b s₀ s) (a1) (a2) (a3) :
    Keeps b s₀ (State.setReg s a1 a2 a3) := by
  unfold State.setReg
  repeat' first
    | with_reducible assumption
    | with_reducible refine Keeps.ite ?_ ?_
    | (fail_if_no_progress with_reducible refine Keeps.of_mk (Keeps.comps ?_))

theorem State.setRegFld_keeps {b : Bool} {s₀ s : State} (h : Keeps b s₀ s) (a1) (a2) (a3) (a4) (a5) :
    Keeps b s₀ (State.setRegFld s a1 a2 a3 a4 a5) := by
  unfold State.setRegFld
  repeat' first
    | with_reducible assumption
    | with_reducible refine State.setReg_keeps ?_ _ _ _

theorem State.bump_keeps {b : Bool} {s₀ s : State} (h : Keeps b s₀ s) (a1) (a2) (a3) (a4) (a5) :
    Keeps b s₀ (State.bump s a1 a2 a3 a4 a5) := by
  unfold State.bump
  repeat' first
    | with_reducible assumption
    | with_reducible refine State.setRegFld_keeps ?_ _ _ _ _ _

theorem State.bumpWrap_keeps {b : Bool} {s₀ s : State} (h : Keeps b s₀ s) (a1) (a2) (a3) (a4) (a5) :
    Keeps b s₀ (State.bumpWrap s a1 a2 a3 a4 a5) := by
  unfold State.bumpWrap
  repeat' first
    | with_reducible assumption
    | with_reducible refine State.setRegFld_keeps ?_ _ _ _ _ _

theorem State.clearPages_keeps {b : Bool} {s₀ s : State} (h : Keeps b s₀ s) (a1) :
    Keeps b s₀ (State.clearPages s a1) := by
  unfold State.clearPages
  repeat' first
    | with_reducible assumption
    | with_reducible refine Keeps.ite ?_ ?_
    | (fail_if_no_progress with_reducible refine Keeps.of_mk (Keeps.comps ?_))

theorem State.emit_keeps {b : Bool} {s₀ s : State} (h : Keeps b s₀ s) (a1) : Keeps b s₀ (State.emit s a1) :=
  ⟨h.1, h.2, h.3, h.4, h.5, h.6, h.7.trans (List.prefix_append _ _), h.8, h.9, h.10, h.11, h.12, h.13, h.14, h.15, h.16, h.17⟩

theorem State.tookFree_keeps {b : Bool} {s₀ s : State} (h : Keeps b s₀ s) : Keeps b s₀ (State.tookFree s) :=
  ⟨h.1, h.2, h.3, h.4, h.5, Nat.le_succ_of_le h.6, h.7, h.8, h.9, h.10, h.11, h.12, h.13, h.14, h.15, h.16, h.17⟩

theorem State.sendMsix_keeps {b : Bool} {s₀ s : State} (h : Keeps b s₀ s) (a1) :
    Keeps b s₀ (State.sendMsix s a1) := by
  unfold State.sendMsix
  repeat' first
    | with_reducible assumption
    | with_reducible refine State.emit_keeps ?_ _
    | with_reducible refine Keeps.ite ?_ ?_
    | (fail_if_no_progress with_reducible refine Keeps.of_mk (Keeps.comps ?_))

theorem State.flushMsix_keeps {b : Bool} {s₀ s : State} (h : Keeps b s₀ s) : Keeps b s₀ (State.flushMsix s) :=
  ⟨h.1, h.2, h.3, h.4, h.5, h.6, h.7.trans (List.prefix_append _ _), h.8, h.9, h.10, h.11, h.12, h.13, h.14, h.15, h.16, h.17⟩

theorem State.setIrq_keeps {b : Bool} {s₀ s : State} (h : Keeps b s₀ s) (a1) (a2) :
    Keeps b s₀ (State.setIrq s a1 a2) := by
  unfold State.setIrq
  repeat' first
    | with_reducible assumption
    | with_reducible refine State.setReg_keeps ?_ _ _ _
    | with_reducible refine State.sendMsix_keeps ?_ _
    | with_reducible refine Keeps.ite ?_ ?_

theorem State.setIrqOpen_keeps {b : Bool} {s₀ s : State} (h : Keeps b s₀ s) (a1) :
    Keeps b s₀ (State.setIrqOpen s a1) := by
  unfold State.setIrqOpen
  repeat' first
    | with_reducible assumption
    | with_reducible refine State.sendMsix_keeps ?_ _
    | with_reducible refine Keeps.ite ?_ ?_
    | (fail_if_no_progress with_reducible refine Keeps.of_mk (Keeps.comps ?_))

theorem mergeSnag_length {n : Nat} {xs : List Snag} {e : Snag} {r : List Snag × Snag} (h : mergeSnag n xs e = some r) :
    r.1.length = xs.length := by
  induction n generalizing xs r with
  | zero => simp [mergeSnag] at h
  | succ n ih =>
    cases xs with
    | nil => simp [mergeSnag] at h
    | cons x xs =>
      simp only [mergeSnag] at h
      split at h
      · cases h; rfl
      · obtain ⟨q, hq, rfl⟩ := Option.map_eq_some_iff.1 h
        simp [ih hq]

theorem Conn.push_queue {c : Conn} {e : Snag} (h : c.queue.length ≤ 4096) : (c.push e).queue.length ≤ 4096 := by
  unfold Conn.push
  split
  · exact h
  · split
    · exact h
    · split
      · simp only [List.length_append, List.length_cons, List.length_nil]; omega
      · simp only [List.length_append, List.length_drop, List.length_cons, List.length_nil]; omega

theorem Conn.push_all {l : List Conn} {e : Snag} (h : ∀ c ∈ l, c.queue.length ≤ 4096) :
    ∀ c ∈ l.map (fun c => c.push e), c.queue.length ≤ 4096 := by
  intro c hc
  obtain ⟨d, hd, rfl⟩ := List.mem_map.1 hc
  exact Conn.push_queue (h d hd)

theorem State.logFull_keeps {b : Bool} {s₀ s : State} (h : Keeps b s₀ s) (a1) : Keeps b s₀ (State.logFull s a1) := by
  unfold State.logFull
  split
  · rename_i l x hm
    exact ⟨h.1, h.2, h.3, h.4, h.5, h.6, h.7, h.8, h.9, h.10, h.11,
      fun e => by have := mergeSnag_length hm; have := h.log e; simp only at *; omega, h.13,
      fun e => Conn.push_all (h.queues e), h.15, h.16, h.17⟩
  · exact ⟨h.1, h.2, h.3, h.4, h.5, h.6, h.7, h.8, h.9, h.10, h.11,
      fun _ => by simp only [List.length_take]; omega, h.13, fun e => Conn.push_all (h.queues e), h.15, h.16, h.17⟩

theorem State.setViews_keeps {b : Bool} {s₀ s : State} (h : Keeps b s₀ s) (p : Nat) (v : View)
    (hv : Sound s₀ → v.ents.length ≤ 1024) : Keeps b s₀ { s with views := SMap.set {} s.views p v } :=
  ⟨h.1, h.2, h.3, h.4, h.5, h.6, h.7, h.8, h.9, h.10, h.11, h.12,
    fun e => SMap.all_set (P := fun (v : View) => v.ents.length ≤ 1024) _ _ _ _ (h.views e) (hv e), h.14, h.15, h.16, h.17⟩

theorem Keeps.view {b : Bool} {s₀ s : State} (h : Keeps b s₀ s) (p : Nat) (e : Sound s₀) :
    (SMap.get {} s.views p : View).ents.length ≤ 1024 :=
  SMap.all_get (P := fun (v : View) => v.ents.length ≤ 1024) _ _ _ (h.views e) (by simp)

theorem State.logView_keeps {b : Bool} {s₀ s : State} (h : Keeps b s₀ s) (a1) (a2) :
    Keeps b s₀ (State.logView s a1 a2) := by
  unfold State.logView
  dsimp only
  split
  · rename_i l x hm
    refine State.setViews_keeps h _ _ (fun e => ?_)
    have h1 := mergeSnag_length hm
    have h2 := h.view a1 e
    simp only at h1 ⊢
    omega
  · have h1 := State.setIrq_keeps (State.setViews_keeps h a1
      { (SMap.get {} s.views a1 : View) with
        ents := ({ a2 with seq := (SMap.get {} s.views a1 : View).next } :: (SMap.get {} s.views a1 : View).ents).take 1024
        next := ((SMap.get {} s.views a1 : View).next + 1) % 2 ^ 32 }
      (fun _ => by simp only [List.length_take]; omega)) (Blk.ras.page a1) 0
    split
    · exact h1
    · exact State.setIrq_keeps h1 _ _

theorem State.moduleSeen_keeps {b : Bool} {s₀ s : State} (h : Keeps b s₀ s) (a1) :
    Keeps b s₀ (State.moduleSeen s a1) := by
  unfold State.moduleSeen
  repeat' first
    | with_reducible assumption
    | with_reducible refine State.logView_keeps ?_ _ _
    | with_reducible refine State.setIrq_keeps ?_ _ _
    | with_reducible refine State.bump_keeps ?_ _ _ _ _ _
    | with_reducible refine State.logFull_keeps ?_ _

theorem State.logOne_keeps {b : Bool} {s₀ s : State} (h : Keeps b s₀ s) (a1) :
    Keeps b s₀ (State.logOne s a1) := by
  unfold State.logOne
  repeat' first
    | with_reducible assumption
    | with_reducible refine State.logFull_keeps ?_ _
    | with_reducible refine State.logView_keeps ?_ _ _
    | with_reducible refine State.moduleSeen_keeps ?_ _
    | with_reducible refine Keeps.ite ?_ ?_
    | (with_reducible refine Keeps.foldl (fun t x ht => ?_) ?_)

theorem State.log__keeps {b : Bool} {s₀ s : State} (h : Keeps b s₀ s) (a1) :
    Keeps b s₀ (State.log_ s a1) := by
  unfold State.log_
  repeat' first
    | with_reducible assumption
    | with_reducible refine State.logOne_keeps ?_ _
    | with_reducible refine Keeps.ite ?_ ?_
    | (with_reducible refine Keeps.foldl (fun t x ht => ?_) ?_)

theorem State.raise__keeps {b : Bool} {s₀ s : State} (h : Keeps b s₀ s) (a1) (a2) (a3) :
    Keeps b s₀ (State.raise_ s a1 a2 a3) := by
  unfold State.raise_
  repeat' first
    | with_reducible assumption
    | with_reducible refine State.setIrq_keeps ?_ _ _
    | with_reducible refine State.log__keeps ?_ _
    | with_reducible refine Keeps.ite ?_ ?_

theorem State.raiseOpen_keeps {b : Bool} {s₀ s : State} (h : Keeps b s₀ s) (a1) (a2) :
    Keeps b s₀ (State.raiseOpen s a1 a2) := by
  unfold State.raiseOpen
  repeat' first
    | with_reducible assumption
    | with_reducible refine State.log__keeps ?_ _
    | with_reducible refine State.setIrqOpen_keeps ?_ _

theorem State.denied_keeps {b : Bool} {s₀ s : State} (h : Keeps b s₀ s) :
    Keeps b s₀ (State.denied s) := by
  unfold State.denied
  repeat' first
    | with_reducible assumption
    | with_reducible refine State.bump_keeps ?_ _ _ _ _ _

theorem State.notice_keeps {b : Bool} {s₀ s : State} (h : Keeps b s₀ s) (a1) (a2) (a3) (a4) :
    Keeps b s₀ (State.notice s a1 a2 a3 a4) := by
  unfold State.notice
  repeat' first
    | with_reducible assumption
    | with_reducible refine State.log__keeps ?_ _

theorem State.faultEntry_keeps {b : Bool} {s₀ s : State} (h : Keeps b s₀ s) (a1) (a2) (a3) (a4) :
    Keeps b s₀ (State.faultEntry s a1 a2 a3 a4) := by
  unfold State.faultEntry
  repeat' first
    | with_reducible assumption
    | with_reducible refine State.log__keeps ?_ _

theorem State.resetEntry_keeps {b : Bool} {s₀ s : State} (h : Keeps b s₀ s) (a1) (a2) (a3) (a4) :
    Keeps b s₀ (State.resetEntry s a1 a2 a3 a4) := by
  unfold State.resetEntry
  repeat' first
    | with_reducible assumption
    | with_reducible refine State.log__keeps ?_ _

theorem State.lostUpdate_keeps {b : Bool} {s₀ s : State} (h : Keeps b s₀ s) (a1) (a2) (a3) :
    Keeps b s₀ (State.lostUpdate s a1 a2 a3) := by
  unfold State.lostUpdate
  repeat' first
    | with_reducible assumption
    | with_reducible refine State.notice_keeps ?_ _ _ _ _

theorem State.countUpset_keeps {b : Bool} {s₀ s : State} (h : Keeps b s₀ s) (a1) :
    Keeps b s₀ (State.countUpset s a1) := by
  unfold State.countUpset
  repeat' first
    | with_reducible assumption
    | with_reducible refine State.bump_keeps ?_ _ _ _ _ _

theorem State.countFault_keeps {b : Bool} {s₀ s : State} (h : Keeps b s₀ s) (a1) :
    Keeps b s₀ (State.countFault s a1) := by
  unfold State.countFault
  repeat' first
    | with_reducible assumption
    | with_reducible refine State.bump_keeps ?_ _ _ _ _ _

theorem State.modDie_keeps {b : Bool} {s₀ s : State} (h : Keeps b s₀ s) (a1) (a2) :
    Keeps b s₀ (State.modDie s a1 a2) := by
  unfold State.modDie
  repeat' first
    | with_reducible assumption
    | with_reducible refine Keeps.ite ?_ ?_
    | (fail_if_no_progress with_reducible refine Keeps.of_mk (Keeps.comps ?_))

theorem State.modStack_keeps {b : Bool} {s₀ s : State} (h : Keeps b s₀ s) (a1) (a2) :
    Keeps b s₀ (State.modStack s a1 a2) := by
  unfold State.modStack
  repeat' first
    | with_reducible assumption
    | with_reducible refine Keeps.ite ?_ ?_
    | (fail_if_no_progress with_reducible refine Keeps.of_mk (Keeps.comps ?_))

theorem State.modChan_keeps {b : Bool} {s₀ s : State} (h : Keeps b s₀ s) (a1) (a2) :
    Keeps b s₀ (State.modChan s a1 a2) := by
  unfold State.modChan
  repeat' first
    | with_reducible assumption
    | with_reducible refine Keeps.ite ?_ ?_
    | (fail_if_no_progress with_reducible refine Keeps.of_mk (Keeps.comps ?_))

theorem State.modPort_keeps {b : Bool} {s₀ s : State} (h : Keeps b s₀ s) (a1) (a2) :
    Keeps b s₀ (State.modPort s a1 a2) := by
  unfold State.modPort
  repeat' first
    | with_reducible assumption
    | with_reducible refine Keeps.ite ?_ ?_
    | (fail_if_no_progress with_reducible refine Keeps.of_mk (Keeps.comps ?_))

theorem State.modCourse_keeps {b : Bool} {s₀ s : State} (h : Keeps b s₀ s) (a1) (a2) :
    Keeps b s₀ (State.modCourse s a1 a2) := by
  unfold State.modCourse
  repeat' first
    | with_reducible assumption
    | with_reducible refine Keeps.ite ?_ ?_
    | (fail_if_no_progress with_reducible refine Keeps.of_mk (Keeps.comps ?_))

theorem State.modLink_keeps {b : Bool} {s₀ s : State} (h : Keeps b s₀ s) (a1) (a2) :
    Keeps b s₀ (State.modLink s a1 a2) := by
  unfold State.modLink
  repeat' first
    | with_reducible assumption
    | with_reducible refine Keeps.ite ?_ ?_
    | (fail_if_no_progress with_reducible refine Keeps.of_mk (Keeps.comps ?_))

theorem State.modRing_keeps {b : Bool} {s₀ s : State} (h : Keeps b s₀ s) (a1) (a2) :
    Keeps b s₀ (State.modRing s a1 a2) := by
  unfold State.modRing
  repeat' first
    | with_reducible assumption
    | with_reducible refine Keeps.ite ?_ ?_
    | (fail_if_no_progress with_reducible refine Keeps.of_mk (Keeps.comps ?_))

theorem State.modSec_keeps {b : Bool} {s₀ s : State} (h : Keeps b s₀ s) (a1) (a2) :
    Keeps b s₀ (State.modSec s a1 a2) := by
  unfold State.modSec
  repeat' first
    | with_reducible assumption
    | with_reducible refine Keeps.ite ?_ ?_
    | (fail_if_no_progress with_reducible refine Keeps.of_mk (Keeps.comps ?_))

theorem State.modTier_keeps {b : Bool} {s₀ s : State} (h : Keeps b s₀ s) (a1) (a2) :
    Keeps b s₀ (State.modTier s a1 a2) := by
  unfold State.modTier
  repeat' first
    | with_reducible assumption
    | with_reducible refine Keeps.ite ?_ ?_
    | (fail_if_no_progress with_reducible refine Keeps.of_mk (Keeps.comps ?_))

theorem State.modLedger_keeps {b : Bool} {s₀ s : State} (h : Keeps b s₀ s) (a1) (a2) :
    Keeps b s₀ (State.modLedger s a1 a2) := by
  unfold State.modLedger
  repeat' first
    | with_reducible assumption
    | with_reducible refine Keeps.ite ?_ ?_
    | (fail_if_no_progress with_reducible refine Keeps.of_mk (Keeps.comps ?_))

theorem State.modCluster_keeps {b : Bool} {s₀ s : State} (h : Keeps b s₀ s) (a1) (a2) :
    Keeps b s₀ (State.modCluster s a1 a2) := by
  unfold State.modCluster
  repeat' first
    | with_reducible assumption
    | with_reducible refine Keeps.ite ?_ ?_
    | (fail_if_no_progress with_reducible refine Keeps.of_mk (Keeps.comps ?_))

theorem State.modCoreDom_keeps {b : Bool} {s₀ s : State} (h : Keeps b s₀ s) (a1) (a2) :
    Keeps b s₀ (State.modCoreDom s a1 a2) := by
  unfold State.modCoreDom
  repeat' first
    | with_reducible assumption
    | with_reducible refine Keeps.ite ?_ ?_
    | (fail_if_no_progress with_reducible refine Keeps.of_mk (Keeps.comps ?_))

theorem State.noteHealth_keeps {b : Bool} {s₀ s : State} (h : Keeps b s₀ s) (a1) (a2) :
    Keeps b s₀ (State.noteHealth a1 s a2) := by
  unfold State.noteHealth
  repeat' first
    | with_reducible assumption
    | with_reducible refine State.raise__keeps ?_ _ _ _
    | with_reducible refine Keeps.ite ?_ ?_
    | (with_reducible refine Keeps.foldl (fun t x ht => ?_) ?_)

theorem State.modCmd_keeps {b : Bool} {s₀ s : State} (h : Keeps b s₀ s) (a1) (a2) :
    Keeps b s₀ (State.modCmd s a1 a2) := by
  unfold State.modCmd
  repeat' first
    | with_reducible assumption
    | with_reducible refine Keeps.ite ?_ ?_
    | (fail_if_no_progress with_reducible refine Keeps.of_mk (Keeps.comps ?_))
    | (fail_if_no_progress refine Keeps.of_mk (KeepsC.setCmds (Keeps.comps ?_) (fun hc => cmdsLegal.map hc _ (fun c => by split <;> rfl))))

theorem State.wantCore_keeps {b : Bool} {s₀ s : State} (h : Keeps b s₀ s) (a1) :
    Keeps b s₀ (State.wantCore s a1) := by
  unfold State.wantCore
  repeat' first
    | with_reducible assumption
    | with_reducible refine State.modDie_keeps ?_ _ _
    | with_reducible refine State.modCoreDom_keeps ?_ _ _
    | with_reducible refine Keeps.ite ?_ ?_

theorem State.wantClusters_keeps {b : Bool} {s₀ s : State} (h : Keeps b s₀ s) (a1) :
    Keeps b s₀ (State.wantClusters s a1).1 := by
  unfold State.wantClusters
  repeat' first
    | with_reducible assumption
    | with_reducible refine State.modDie_keeps ?_ _ _
    | with_reducible refine State.modCluster_keeps ?_ _ _
    | with_reducible refine Keeps.ite ?_ ?_
    | (with_reducible refine Keeps.foldl (fun t x ht => ?_) ?_)

theorem State.progress_keeps {b : Bool} {s₀ s : State} (h : Keeps b s₀ s) (a1) :
    Keeps b s₀ (State.progress s a1) := by
  unfold State.progress
  repeat' first
    | with_reducible assumption
    | with_reducible refine State.modCluster_keeps ?_ _ _

theorem State.at__keeps {b : Bool} {s₀ s : State} (h : Keeps b s₀ s) (a1) : Keeps b s₀ (State.at_ s a1) :=
  ⟨h.1, h.2, h.3, h.4, h.5, h.6, h.7, fun e => Nat.le_trans (h.8 e) (Nat.le_max_left _ _), h.9, h.10, h.11, h.12, h.13,
    h.14, h.15, h.16, h.17⟩

end Sys2Proof.Machine
end

