-- ==== Sys2Proof/Laws/Memory.lean ====
section
/-! SUPPORT. Module memory: what a byte reads after each operation, and that every operation keeps the canonical form. -/

namespace Sys2Proof.Machine

theorem Memory.wf_put (m : Memory) (k : Nat) (v : Byte) (h : m.wf = true) : (m.put k v).wf = true := SMap.wf_set 0 m k v h

theorem Memory.wf_puts (m : Memory) (k : Nat) (bs : List Byte) (h : m.wf = true) : (m.puts k bs).wf = true := by
  induction bs generalizing m k with
  | nil => exact h
  | cons v bs ih => exact ih _ _ (Memory.wf_put m k v h)

theorem Memory.wf_drop (m : Memory) (p : Nat → Bool) (h : m.wf = true) : (m.drop p).wf = true := SMap.wf_dropKeys 0 m p h

/-- A byte after one byte is put. -/
theorem Memory.byte_put (m : Memory) (k a : Nat) (v : Byte) : (m.put k v).byte a = if a = k then v else m.byte a :=
  SMap.get_set 0 m k a v

/-- A byte after a run of bytes is put: the run's byte inside, the old byte outside. -/
theorem Memory.byte_puts (m : Memory) (k a : Nat) (bs : List Byte) :
    (m.puts k bs).byte a = if k ≤ a ∧ a < k + bs.length then bs.getD (a - k) 0 else m.byte a := by
  induction bs generalizing m k with
  | nil => simp [Memory.puts]
  | cons v bs ih =>
    simp only [Memory.puts, ih, Memory.byte_put, List.length_cons]
    by_cases h : a = k
    · subst h
      simp
    · by_cases h1 : k + 1 ≤ a ∧ a < k + 1 + bs.length
      · have h2 : k ≤ a ∧ a < k + (bs.length + 1) := by omega
        have h3 : a - k = (a - (k + 1)) + 1 := by omega
        simp [h1, h2, h3]
      · have h2 : ¬ (k ≤ a ∧ a < k + (bs.length + 1)) := by omega
        rw [if_neg h1, if_neg h, if_neg h2]

/-- A byte after some keys are forgotten. -/
theorem Memory.byte_drop (m : Memory) (p : Nat → Bool) (a : Nat) : (m.drop p).byte a = if p a then 0 else m.byte a :=
  SMap.get_dropKeys 0 m p a

@[simp] theorem State.byte_poke (s : State) (k a : Nat) (bs : List Byte) :
    (s.poke k bs).byte a = if k ≤ a ∧ a < k + bs.length then bs.getD (a - k) 0 else s.byte a :=
  Memory.byte_puts s.mem k a bs

@[simp] theorem State.byte_freshen (s : State) (p : Nat → Bool) (a : Nat) :
    (s.freshen p).byte a = if p a then 0 else s.byte a := Memory.byte_drop s.mem p a

@[simp] theorem State.byte_clearFresh (s : State) (k a : Nat) : (s.clearFresh k).byte a = s.byte a := rfl

@[simp] theorem State.byte_setPoison (s : State) (k a : Nat) (v : Bool) : (s.setPoison k v).byte a = s.byte a := rfl

/-- Poison after it is set for one access. -/
theorem State.isPoisoned_setPoison_same (s : State) (k : Nat) (v : Bool) : isPoisoned (s.setPoison k v) k = v := by
  have hl : isLost (s.setPoison k v) k = isLost s k := rfl
  rw [isPoisoned, hl]
  simp only [State.setPoison, SMap.get_set_same]
  cases v <;> cases isLost s k <;> rfl

/-- The fresh bit of a granule clears when it is written (R186). -/
theorem isFresh_clearFresh (s : State) (k a : Nat) :
    isFresh (s.clearFresh k) a = (isFresh s a && decide (a / 4096 ≠ k / 4096)) := by
  simp only [isFresh, State.clearFresh, SMap.get_set]
  by_cases h : a / 4096 = k / 4096 <;> simp [h]

/-- Reset memory lists nothing, which is canonical. -/
theorem reset_mem_wf : State.reset.mem.wf = true := rfl

end Sys2Proof.Machine
end

