-- ==== Sys2Proof/Laws/Keeps/Memory.lean ====
section
/-! SUPPORT. What the operations of Machine/Memory.lean keep. -/

namespace Sys2Proof.Machine

theorem Keeps.setMem {b : Bool} {s₀ s : State} (h : Keeps b s₀ s) {m : Memory} (hm : s.mem.wf = true → m.wf = true) :
    Keeps b s₀ { s with mem := m } :=
  ⟨h.1, h.2, h.3, h.4, h.5, h.6, h.7, h.8, fun e => hm (h.mem e), h.10, h.11, h.12, h.13, h.14, h.15, h.16, h.17⟩

theorem Keeps.setWritten {b : Bool} {s₀ s : State} (h : Keeps b s₀ s) {m : SMap Bool}
    (hm : SMap.wf false s.written = true → SMap.wf false m = true) : Keeps b s₀ { s with written := m } :=
  ⟨h.1, h.2, h.3, h.4, h.5, h.6, h.7, h.8, h.9, fun e => hm (h.written e), h.11, h.12, h.13, h.14, h.15, h.16, h.17⟩

theorem Keeps.setPoison {b : Bool} {s₀ s : State} (h : Keeps b s₀ s) {m : SMap Bool}
    (hm : SMap.wf false s.poison = true → SMap.wf false m = true) : Keeps b s₀ { s with poison := m } :=
  ⟨h.1, h.2, h.3, h.4, h.5, h.6, h.7, h.8, h.9, h.10, fun e => hm (h.poison e), h.12, h.13, h.14, h.15, h.16, h.17⟩

theorem State.clearFresh_keeps {b : Bool} {s₀ s : State} (h : Keeps b s₀ s) (a1) : Keeps b s₀ (State.clearFresh s a1) :=
  h.setWritten (SMap.wf_set _ _ _ _)

theorem State.setPoison_keeps {b : Bool} {s₀ s : State} (h : Keeps b s₀ s) (a1) (a2) :
    Keeps b s₀ (State.setPoison s a1 a2) := h.setPoison (SMap.wf_set _ _ _ _)

theorem State.freshen_keeps {b : Bool} {s₀ s : State} (h : Keeps b s₀ s) (a1) : Keeps b s₀ (State.freshen s a1) :=
  ((h.setMem (Memory.wf_drop _ a1)).setWritten (SMap.wf_dropKeys _ _ (fun g => a1 (4096 * g)))).setPoison
    (SMap.wf_dropKeys _ _ (fun a => a1 (a * 64)))

theorem State.poke_keeps {b : Bool} {s₀ s : State} (h : Keeps b s₀ s) (a1) (a2) : Keeps b s₀ (State.poke s a1 a2) :=
  State.clearFresh_keeps (h.setMem (Memory.wf_puts _ a1 a2)) a1

theorem State.wide64_keeps {b : Bool} {s₀ s : State} (h : Keeps b s₀ s) (a1) (a2) :
    Keeps b s₀ (State.wide64 s a1 a2).1 := by
  unfold State.wide64
  repeat' first
    | with_reducible assumption
    | with_reducible refine State.setPoison_keeps ?_ _ _
    | with_reducible refine State.poke_keeps ?_ _ _
    | with_reducible refine Keeps.ite ?_ ?_
    | with_reducible refine Keeps.ite_fst ?_ ?_

theorem State.dirtyAt_keeps {b : Bool} {s₀ s : State} (h : Keeps b s₀ s) (a1) (a2) :
    Keeps b s₀ (State.dirtyAt s a1 a2) := by
  unfold State.dirtyAt
  repeat' first
    | with_reducible assumption
    | with_reducible refine State.modTier_keeps ?_ _ _
    | with_reducible refine Keeps.ite ?_ ?_
    | (fail_if_no_progress with_reducible refine Keeps.of_mk (Keeps.comps ?_))
    | dsimp only
    | split

theorem State.useAt_keeps {b : Bool} {s₀ s : State} (h : Keeps b s₀ s) (a1) (a2) :
    Keeps b s₀ (State.useAt s a1 a2) := by
  unfold State.useAt
  repeat' first
    | with_reducible assumption
    | with_reducible refine State.modTier_keeps ?_ _ _
    | with_reducible refine Keeps.ite ?_ ?_
    | (fail_if_no_progress with_reducible refine Keeps.of_mk (Keeps.comps ?_))
    | dsimp only
    | split

theorem State.wideAt_keeps {b : Bool} {s₀ s : State} (h : Keeps b s₀ s) (a1) (a2) (a3) :
    Keeps b s₀ (State.wideAt s a1 a2 a3).1 := by
  unfold State.wideAt
  repeat' first
    | with_reducible assumption
    | with_reducible refine State.wide64_keeps ?_ _ _
    | with_reducible refine State.dirtyAt_keeps ?_ _ _
    | with_reducible refine Keeps.ite ?_ ?_
    | (with_reducible refine Keeps.foldl (fun t x ht => ?_) ?_)
    | (with_reducible refine Keeps.foldl_fst (fun t x ht => ?_) ?_)

theorem State.narrowAt_keeps {b : Bool} {s₀ s : State} (h : Keeps b s₀ s) (a1) (a2) (a3) :
    Keeps b s₀ (State.narrowAt s a1 a2 a3).1 := by
  unfold State.narrowAt
  repeat' first
    | with_reducible assumption
    | with_reducible refine State.dirtyAt_keeps ?_ _ _
    | with_reducible refine State.poke_keeps ?_ _ _
    | with_reducible refine Keeps.ite ?_ ?_
    | with_reducible refine Keeps.ite_fst ?_ ?_

theorem State.countFresh_keeps {b : Bool} {s₀ s : State} (h : Keeps b s₀ s) (a1) :
    Keeps b s₀ (State.countFresh s a1) := by
  unfold State.countFresh
  repeat' first
    | with_reducible assumption
    | with_reducible refine State.modStack_keeps ?_ _ _
    | with_reducible refine Keeps.ite ?_ ?_

theorem State.countRead_keeps {b : Bool} {s₀ s : State} (h : Keeps b s₀ s) (a1) (a2) (a3) :
    Keeps b s₀ (State.countRead s a1 a2 a3) := by
  unfold State.countRead
  repeat' first
    | with_reducible assumption
    | with_reducible refine State.countFresh_keeps ?_ _
    | with_reducible refine Keeps.ite ?_ ?_
    | (with_reducible refine Keeps.foldl (fun t x ht => ?_) ?_)

theorem State.queueFetch_keeps {b : Bool} {s₀ s : State} (h : Keeps b s₀ s) (a1) (a2) (a3) (a4) :
    Keeps b s₀ (State.queueFetch s a1 a2 a3 a4) := by
  unfold State.queueFetch
  repeat' first
    | with_reducible assumption
    | with_reducible refine State.modTier_keeps ?_ _ _
    | with_reducible refine Keeps.ite ?_ ?_

end Sys2Proof.Machine
end

