-- ==== Sys2Proof/Laws/Keeps/Envelope.lean ====
section
/-! SUPPORT. What the operations of Machine/Envelope.lean keep. -/

namespace Sys2Proof.Machine

theorem State.stirCore_keeps {b : Bool} {s₀ s : State} (h : Keeps b s₀ s) (a1) :
    Keeps b s₀ (State.stirCore s a1) := by
  unfold State.stirCore
  repeat' first
    | with_reducible assumption
    | with_reducible refine State.modCoreDom_keeps ?_ _ _

theorem State.stirCluster_keeps {b : Bool} {s₀ s : State} (h : Keeps b s₀ s) (a1) :
    Keeps b s₀ (State.stirCluster s a1) := by
  unfold State.stirCluster
  repeat' first
    | with_reducible assumption
    | with_reducible refine State.modCluster_keeps ?_ _ _

theorem State.stirGroup_keeps {b : Bool} {s₀ s : State} (h : Keeps b s₀ s) (a1) :
    Keeps b s₀ (State.stirGroup s a1) := by
  unfold State.stirGroup
  repeat' first
    | with_reducible assumption
    | with_reducible refine State.modStack_keeps ?_ _ _

theorem State.modCtx_keeps {b : Bool} {s₀ s : State} (h : Keeps b s₀ s) (a1) (a2) :
    Keeps b s₀ (State.modCtx s a1 a2) := by
  unfold State.modCtx
  repeat' first
    | with_reducible assumption
    | with_reducible refine State.stirCore_keeps ?_ _
    | with_reducible refine Keeps.ite ?_ ?_
    | (fail_if_no_progress with_reducible refine Keeps.of_mk (Keeps.comps ?_))

theorem State.modCore_keeps {b : Bool} {s₀ s : State} (h : Keeps b s₀ s) (a1) (a2) :
    Keeps b s₀ (State.modCore s a1 a2) := by
  unfold State.modCore
  repeat' first
    | with_reducible assumption
    | with_reducible refine Keeps.ite ?_ ?_
    | (fail_if_no_progress with_reducible refine Keeps.of_mk (Keeps.comps ?_))

theorem State.bind__keeps {b : Bool} {s₀ s : State} (h : Keeps b s₀ s) (a1) (a2) (a3) :
    Keeps b s₀ (State.bind_ s a1 a2 a3) := by
  unfold State.bind_
  repeat' first
    | with_reducible assumption
    | with_reducible refine State.wantCore_keeps ?_ _
    | with_reducible refine State.modCtx_keeps ?_ _ _
    | with_reducible refine Keeps.ite ?_ ?_
    | (with_reducible refine Keeps.foldl (fun t x ht => ?_) ?_)
    | (with_reducible refine Keeps.foldl_fst (fun t x ht => ?_) ?_)
    | (fail_if_no_progress with_reducible refine Keeps.of_mk (Keeps.comps ?_))
    | dsimp only
    | split

theorem State.ctxWaits_keeps {b : Bool} {s₀ s : State} (h : Keeps b s₀ s) (a1) :
    Keeps b s₀ (State.ctxWaits s a1) := by
  unfold State.ctxWaits
  repeat' first
    | with_reducible assumption
    | with_reducible refine State.modCtx_keeps ?_ _ _
    | with_reducible refine State.modCore_keeps ?_ _ _
    | with_reducible refine Keeps.ite ?_ ?_

theorem State.ctxWakes_keeps {b : Bool} {s₀ s : State} (h : Keeps b s₀ s) (a1) :
    Keeps b s₀ (State.ctxWakes s a1) := by
  unfold State.ctxWakes
  repeat' first
    | with_reducible assumption
    | with_reducible refine State.wantCore_keeps ?_ _
    | with_reducible refine State.modCtx_keeps ?_ _ _
    | with_reducible refine Keeps.ite ?_ ?_

theorem State.cmdWaits_keeps {b : Bool} {s₀ s : State} (h : Keeps b s₀ s) (a1) (a2) :
    Keeps b s₀ (State.cmdWaits s a1 a2) := by
  unfold State.cmdWaits
  repeat' first
    | with_reducible assumption
    | with_reducible refine State.modCmd_keeps ?_ _ _
    | with_reducible refine State.ctxWaits_keeps ?_ _
    | with_reducible refine Keeps.ite ?_ ?_
    | (with_reducible refine Keeps.foldl (fun t x ht => ?_) ?_)
    | (with_reducible refine Keeps.foldl_fst (fun t x ht => ?_) ?_)
    | (fail_if_no_progress with_reducible refine Keeps.of_mk (Keeps.comps ?_))
    | dsimp only
    | split

theorem State.settleWait_keeps {b : Bool} {s₀ s : State} (h : Keeps b s₀ s) (a1) :
    Keeps b s₀ (State.settleWait s a1) := by
  unfold State.settleWait
  repeat' first
    | with_reducible assumption
    | with_reducible refine State.modTier_keeps ?_ _ _
    | with_reducible refine State.bump_keeps ?_ _ _ _ _ _
    | with_reducible refine Keeps.ite ?_ ?_
    | (fail_if_no_progress with_reducible refine Keeps.of_mk (Keeps.comps ?_))
    | dsimp only
    | split

theorem State.cmdWakes_keeps {b : Bool} {s₀ s : State} (h : Keeps b s₀ s) (a1) :
    Keeps b s₀ (State.cmdWakes s a1) := by
  unfold State.cmdWakes
  repeat' first
    | with_reducible assumption
    | with_reducible refine State.settleWait_keeps ?_ _
    | with_reducible refine State.ctxWakes_keeps ?_ _
    | with_reducible refine State.modCmd_keeps ?_ _ _
    | with_reducible refine State.modCluster_keeps ?_ _ _
    | with_reducible refine Keeps.ite ?_ ?_
    | (with_reducible refine Keeps.foldl (fun t x ht => ?_) ?_)
    | (with_reducible refine Keeps.foldl_fst (fun t x ht => ?_) ?_)
    | (fail_if_no_progress with_reducible refine Keeps.of_mk (Keeps.comps ?_))
    | dsimp only
    | split

theorem State.dropWork_keeps {b : Bool} {s₀ s : State} (h : Keeps b s₀ s) (a1) :
    Keeps b s₀ (State.dropWork s a1) := by
  unfold State.dropWork
  repeat' first
    | with_reducible assumption
    | with_reducible refine Keeps.ite ?_ ?_
    | (fail_if_no_progress with_reducible refine Keeps.of_mk (Keeps.comps ?_))

theorem State.unpin_keeps {b : Bool} {s₀ s : State} (h : Keeps b s₀ s) (a1) :
    Keeps b s₀ (State.unpin s a1) := by
  unfold State.unpin
  repeat' first
    | with_reducible assumption
    | with_reducible refine Keeps.ite ?_ ?_
    | (fail_if_no_progress with_reducible refine Keeps.of_mk (Keeps.comps ?_))

theorem State.endCmd_keeps {b : Bool} {s₀ s : State} (h : Keeps b s₀ s) (a1) (a2) :
    Keeps b s₀ (State.endCmd s a1 a2) := by
  unfold State.endCmd
  repeat' first
    | with_reducible assumption
    | with_reducible refine State.stirCluster_keeps ?_ _
    | with_reducible refine State.stirGroup_keeps ?_ _
    | with_reducible refine State.cmdWakes_keeps ?_ _
    | with_reducible refine State.unpin_keeps ?_ _
    | with_reducible refine State.dropWork_keeps ?_ _
    | with_reducible refine State.modCmd_keeps ?_ _ _
    | with_reducible refine Keeps.ite ?_ ?_
    | (with_reducible refine Keeps.foldl (fun t x ht => ?_) ?_)
    | (with_reducible refine Keeps.foldl_fst (fun t x ht => ?_) ?_)
    | (fail_if_no_progress with_reducible refine Keeps.of_mk (Keeps.comps ?_))
    | dsimp only
    | split

theorem State.finishCmd_keeps {b : Bool} {s₀ s : State} (h : Keeps b s₀ s) (a1) :
    Keeps b s₀ (State.finishCmd s a1) := by
  unfold State.finishCmd
  repeat' first
    | with_reducible assumption
    | with_reducible refine State.endCmd_keeps ?_ _ _
    | with_reducible refine Keeps.ite ?_ ?_
    | (fail_if_no_progress with_reducible refine Keeps.of_mk (Keeps.comps ?_))
    | dsimp only
    | split

theorem State.noteLate_keeps {b : Bool} {s₀ s : State} (h : Keeps b s₀ s) (a1) (a2) :
    Keeps b s₀ (State.noteLate s a1 a2) := by
  unfold State.noteLate
  repeat' first
    | with_reducible assumption
    | with_reducible refine State.modCmd_keeps ?_ _ _

theorem State.addFlags_keeps {b : Bool} {s₀ s : State} (h : Keeps b s₀ s) (a1) (a2) :
    Keeps b s₀ (State.addFlags s a1 a2) := by
  unfold State.addFlags
  repeat' first
    | with_reducible assumption
    | with_reducible refine State.modCmd_keeps ?_ _ _

theorem State.setResult_keeps {b : Bool} {s₀ s : State} (h : Keeps b s₀ s) (a1) (a2) :
    Keeps b s₀ (State.setResult s a1 a2) := by
  unfold State.setResult
  repeat' first
    | with_reducible assumption
    | with_reducible refine State.modCmd_keeps ?_ _ _

theorem State.take__keeps {b : Bool} {s₀ s : State} (h : Keeps b s₀ s) (a1) (a2) :
    Keeps b s₀ (State.take_ s a1 a2) := by
  unfold State.take_
  repeat' first
    | with_reducible assumption
    | with_reducible refine State.modRing_keeps ?_ _ _
    | with_reducible refine State.progress_keeps ?_ _
    | with_reducible refine State.modLedger_keeps ?_ _ _
    | with_reducible refine Keeps.ite ?_ ?_
    | (with_reducible refine Keeps.foldl (fun t x ht => ?_) ?_)
    | (with_reducible refine Keeps.foldl_fst (fun t x ht => ?_) ?_)
    | (fail_if_no_progress with_reducible refine Keeps.of_mk (Keeps.comps ?_))
    | (fail_if_no_progress refine Keeps.of_mk (KeepsC.setCmds (Keeps.comps ?_) (fun hc => cmdsLegal.append hc rfl)))

theorem State.wantSlot_keeps {b : Bool} {s₀ s : State} (h : Keeps b s₀ s) (a1) :
    Keeps b s₀ (State.wantSlot s a1) := by
  unfold State.wantSlot
  repeat' first
    | with_reducible assumption
    | with_reducible refine State.queueFetch_keeps ?_ _ _ _ _
    | with_reducible refine Keeps.ite ?_ ?_
    | (with_reducible refine Keeps.foldl (fun t x ht => ?_) ?_)

theorem bindNow_keeps {b : Bool} {s₀ s : State} (h : Keeps b s₀ s) (a1) (a2) :
    Keeps b s₀ (bindNow a1 s a2) := by
  unfold bindNow
  repeat' first
    | with_reducible assumption
    | with_reducible refine State.bind__keeps ?_ _ _ _
    | with_reducible refine Keeps.ite ?_ ?_

theorem checkAndStart_keeps {b : Bool} {s₀ s : State} {start : State → Cmd → State}
    (hf : ∀ t c, Keeps b s₀ t → Keeps b s₀ (start t c)) (h : Keeps b s₀ s) (a1) (a2) (a4) :
    Keeps b s₀ (checkAndStart a1 a2 start s a4) := by
  unfold checkAndStart
  dsimp only
  have hw := State.wantClusters_keeps h (reaches s a4)
  repeat' first
    | with_reducible assumption
    | with_reducible refine hf _ _ ?_
    | with_reducible refine bindNow_keeps ?_ _ _
    | with_reducible refine State.endCmd_keeps ?_ _ _
    | with_reducible refine State.modCmd_keeps ?_ _ _
    | with_reducible refine Keeps.ite ?_ ?_
    | split

theorem dispatchRow_keeps {b : Bool} {s₀ s : State} {start : State → Cmd → State}
    (hf : ∀ t c, Keeps b s₀ t → Keeps b s₀ (start t c)) (h : Keeps b s₀ s) (a1) (a2) (a3) (a4) :
    Keeps b s₀ (dispatchRow a1 a2 a3 a4 start s) := by
  unfold dispatchRow
  repeat' first
    | with_reducible assumption
    | with_reducible refine checkAndStart_keeps hf ?_ _ _ _
    | with_reducible refine State.wantSlot_keeps ?_ _
    | with_reducible refine State.endCmd_keeps ?_ _ _
    | with_reducible refine State.take__keeps ?_ _ _
    | with_reducible refine Keeps.ite ?_ ?_
    | split

theorem State.cmdProgress_keeps {b : Bool} {s₀ s : State} (h : Keeps b s₀ s) (a1) :
    Keeps b s₀ (State.cmdProgress s a1) := by
  unfold State.cmdProgress
  repeat' first
    | with_reducible assumption
    | with_reducible refine State.progress_keeps ?_ _
    | with_reducible refine Keeps.ite ?_ ?_
    | (with_reducible refine Keeps.foldl (fun t x ht => ?_) ?_)

end Sys2Proof.Machine
end

