-- ==== Sys2Proof/Laws/Keeps/Sync.lean ====
section
/-! SUPPORT. What the operations of Machine/Sync.lean keep. -/

namespace Sys2Proof.Machine

theorem State.modSem_keeps {b : Bool} {s₀ s : State} (h : Keeps b s₀ s) (a1) (a2) :
    Keeps b s₀ (State.modSem s a1 a2) := by
  unfold State.modSem
  repeat' first
    | with_reducible assumption
    | with_reducible refine State.progress_keeps ?_ _
    | with_reducible refine Keeps.ite ?_ ?_
    | (fail_if_no_progress with_reducible refine Keeps.of_mk (Keeps.comps ?_))

theorem State.modCtr_keeps {b : Bool} {s₀ s : State} (h : Keeps b s₀ s) (a1) (a2) :
    Keeps b s₀ (State.modCtr s a1 a2) := by
  unfold State.modCtr
  repeat' first
    | with_reducible assumption
    | with_reducible refine State.progress_keeps ?_ _
    | with_reducible refine Keeps.ite ?_ ?_
    | (fail_if_no_progress with_reducible refine Keeps.of_mk (Keeps.comps ?_))

theorem State.takeUnit_keeps {b : Bool} {s₀ s : State} (h : Keeps b s₀ s) (a1) (a2) (a3) :
    Keeps b s₀ (State.takeUnit s a1 a2 a3) := by
  unfold State.takeUnit
  repeat' first
    | with_reducible assumption
    | with_reducible refine State.endCmd_keeps ?_ _ _
    | with_reducible refine State.modSem_keeps ?_ _ _

theorem State.serveSem_keeps {b : Bool} {s₀ s : State} (h : Keeps b s₀ s) (a1) (a2) :
    Keeps b s₀ (State.serveSem s a1 a2) := by
  induction a2 generalizing s a1 with
  | zero =>
    unfold State.serveSem
    repeat' first
      | with_reducible assumption
  | succ n ih =>
    unfold State.serveSem
    repeat' first
      | with_reducible assumption
      | with_reducible refine ih ?_ _
      | with_reducible refine State.modSem_keeps ?_ _ _
      | with_reducible refine State.takeUnit_keeps ?_ _ _ _
      | with_reducible refine Keeps.ite ?_ ?_
      | (fail_if_no_progress with_reducible refine Keeps.of_mk (Keeps.comps ?_))
      | dsimp only
      | split

theorem State.serveCtr_keeps {b : Bool} {s₀ s : State} (h : Keeps b s₀ s) (a1) (a2) :
    Keeps b s₀ (State.serveCtr s a1 a2) := by
  induction a2 generalizing s a1 with
  | zero =>
    unfold State.serveCtr
    repeat' first
      | with_reducible assumption
  | succ n ih =>
    unfold State.serveCtr
    repeat' first
      | with_reducible assumption
      | with_reducible refine ih ?_ _
      | with_reducible refine State.endCmd_keeps ?_ _ _
      | with_reducible refine State.finishCmd_keeps ?_ _
      | with_reducible refine State.modCtr_keeps ?_ _ _
      | with_reducible refine Keeps.ite ?_ ?_
      | (fail_if_no_progress with_reducible refine Keeps.of_mk (Keeps.comps ?_))
      | dsimp only
      | split

theorem State.post_keeps {b : Bool} {s₀ s : State} (h : Keeps b s₀ s) (a1) (a2) :
    Keeps b s₀ (State.post s a1 a2) := by
  unfold State.post
  repeat' first
    | with_reducible assumption
    | with_reducible refine State.serveCtr_keeps ?_ _ _
    | with_reducible refine State.modCtr_keeps ?_ _ _

theorem semInitStart_keeps {b : Bool} {s₀ s : State} (h : Keeps b s₀ s) (a1) :
    Keeps b s₀ (semInitStart s a1) := by
  unfold semInitStart
  repeat' first
    | with_reducible assumption
    | with_reducible refine State.finishCmd_keeps ?_ _
    | with_reducible refine State.modSem_keeps ?_ _ _

theorem semAcquireStart_keeps {b : Bool} {s₀ s : State} (h : Keeps b s₀ s) (a1) :
    Keeps b s₀ (semAcquireStart s a1) := by
  unfold semAcquireStart
  repeat' first
    | with_reducible assumption
    | with_reducible refine State.takeUnit_keeps ?_ _ _ _
    | with_reducible refine State.cmdWaits_keeps ?_ _ _
    | with_reducible refine State.modSem_keeps ?_ _ _
    | with_reducible refine Keeps.ite ?_ ?_

theorem semTryStart_keeps {b : Bool} {s₀ s : State} (h : Keeps b s₀ s) (a1) :
    Keeps b s₀ (semTryStart s a1) := by
  unfold semTryStart
  repeat' first
    | with_reducible assumption
    | with_reducible refine State.takeUnit_keeps ?_ _ _ _
    | with_reducible refine State.setResult_keeps ?_ _ _
    | with_reducible refine State.finishCmd_keeps ?_ _
    | with_reducible refine Keeps.ite ?_ ?_

theorem semReleaseStart_keeps {b : Bool} {s₀ s : State} (h : Keeps b s₀ s) (a1) :
    Keeps b s₀ (semReleaseStart s a1) := by
  unfold semReleaseStart
  repeat' first
    | with_reducible assumption
    | with_reducible refine State.modSem_keeps ?_ _ _
    | with_reducible refine State.serveSem_keeps ?_ _ _
    | with_reducible refine State.finishCmd_keeps ?_ _

theorem semClearPoisonStart_keeps {b : Bool} {s₀ s : State} (h : Keeps b s₀ s) (a1) :
    Keeps b s₀ (semClearPoisonStart s a1) := by
  unfold semClearPoisonStart
  repeat' first
    | with_reducible assumption
    | with_reducible refine State.finishCmd_keeps ?_ _
    | with_reducible refine State.modSem_keeps ?_ _ _

theorem ctrInitStart_keeps {b : Bool} {s₀ s : State} (h : Keeps b s₀ s) (a1) :
    Keeps b s₀ (ctrInitStart s a1) := by
  unfold ctrInitStart
  repeat' first
    | with_reducible assumption
    | with_reducible refine State.finishCmd_keeps ?_ _
    | with_reducible refine State.modCtr_keeps ?_ _ _

theorem ctrClaimStart_keeps {b : Bool} {s₀ s : State} (h : Keeps b s₀ s) (a1) :
    Keeps b s₀ (ctrClaimStart s a1) := by
  unfold ctrClaimStart
  repeat' first
    | with_reducible assumption
    | with_reducible refine State.endCmd_keeps ?_ _ _
    | with_reducible refine State.modCtr_keeps ?_ _ _

theorem ctrUnclaimStart_keeps {b : Bool} {s₀ s : State} (h : Keeps b s₀ s) (a1) :
    Keeps b s₀ (ctrUnclaimStart s a1) := by
  unfold ctrUnclaimStart
  repeat' first
    | with_reducible assumption
    | with_reducible refine State.finishCmd_keeps ?_ _
    | with_reducible refine State.modCtr_keeps ?_ _ _

theorem ctrPostStart_keeps {b : Bool} {s₀ s : State} (h : Keeps b s₀ s) (a1) :
    Keeps b s₀ (ctrPostStart s a1) := by
  unfold ctrPostStart
  repeat' first
    | with_reducible assumption
    | with_reducible refine State.finishCmd_keeps ?_ _
    | with_reducible refine State.post_keeps ?_ _ _

theorem ctrTakeStart_keeps {b : Bool} {s₀ s : State} (h : Keeps b s₀ s) (a1) :
    Keeps b s₀ (ctrTakeStart s a1) := by
  unfold ctrTakeStart
  repeat' first
    | with_reducible assumption
    | with_reducible refine State.endCmd_keeps ?_ _ _
    | with_reducible refine State.finishCmd_keeps ?_ _
    | with_reducible refine State.modCtr_keeps ?_ _ _
    | with_reducible refine State.cmdWaits_keeps ?_ _ _
    | with_reducible refine Keeps.ite ?_ ?_

theorem State.releasePoisoned_keeps {b : Bool} {s₀ s : State} (h : Keeps b s₀ s) (a1) :
    Keeps b s₀ (State.releasePoisoned s a1) := by
  unfold State.releasePoisoned
  repeat' first
    | with_reducible assumption
    | with_reducible refine State.modSem_keeps ?_ _ _
    | with_reducible refine State.raise__keeps ?_ _ _ _
    | with_reducible refine State.serveSem_keeps ?_ _ _
    | with_reducible refine State.modCtr_keeps ?_ _ _
    | with_reducible refine State.serveCtr_keeps ?_ _ _
    | with_reducible refine Keeps.ite ?_ ?_
    | (with_reducible refine Keeps.foldl (fun t x ht => ?_) ?_)

theorem State.freeCtx_keeps {b : Bool} {s₀ s : State} (h : Keeps b s₀ s) (a1) :
    Keeps b s₀ (State.freeCtx s a1) := by
  unfold State.freeCtx
  repeat' first
    | with_reducible assumption
    | with_reducible refine State.modCtx_keeps ?_ _ _
    | with_reducible refine State.modCore_keeps ?_ _ _

theorem retireStart_keeps {b : Bool} {s₀ s : State} (h : Keeps b s₀ s) (a1) :
    Keeps b s₀ (retireStart s a1) := by
  unfold retireStart
  repeat' first
    | with_reducible assumption
    | with_reducible refine State.freeCtx_keeps ?_ _
    | with_reducible refine State.releasePoisoned_keeps ?_ _
    | with_reducible refine State.finishCmd_keeps ?_ _
    | with_reducible refine State.modRing_keeps ?_ _ _
    | with_reducible refine Keeps.ite ?_ ?_
    | (with_reducible refine Keeps.foldl (fun t x ht => ?_) ?_)

theorem State.modLintel_keeps {b : Bool} {s₀ s : State} (h : Keeps b s₀ s) (a1) (a2) :
    Keeps b s₀ (State.modLintel s a1 a2) := by
  unfold State.modLintel
  repeat' first
    | with_reducible assumption
    | with_reducible refine Keeps.ite ?_ ?_
    | (fail_if_no_progress with_reducible refine Keeps.of_mk (Keeps.comps ?_))

theorem State.lintelArrivals_keeps {b : Bool} {s₀ s : State} (h : Keeps b s₀ s) (a1) :
    Keeps b s₀ (State.lintelArrivals s a1) := by
  unfold State.lintelArrivals
  repeat' first
    | with_reducible assumption
    | with_reducible refine State.modLintel_keeps ?_ _ _
    | with_reducible refine Keeps.ite ?_ ?_

theorem lintelStart_keeps {b : Bool} {s₀ s : State} (h : Keeps b s₀ s) (a1) :
    Keeps b s₀ (lintelStart s a1) := by
  unfold lintelStart
  repeat' first
    | with_reducible assumption
    | with_reducible refine State.lintelArrivals_keeps ?_ _
    | with_reducible refine State.cmdWaits_keeps ?_ _ _

theorem State.lintelEnd_keeps {b : Bool} {s₀ s : State} (h : Keeps b s₀ s) (a1) (a2) :
    Keeps b s₀ (State.lintelEnd s a1 a2) := by
  unfold State.lintelEnd
  repeat' first
    | with_reducible assumption
    | with_reducible refine State.modLintel_keeps ?_ _ _
    | with_reducible refine State.bumpWrap_keeps ?_ _ _ _ _ _
    | with_reducible refine State.endCmd_keeps ?_ _ _
    | with_reducible refine Keeps.ite ?_ ?_
    | (with_reducible refine Keeps.foldl (fun t x ht => ?_) ?_)

theorem State.pointPairs_keeps {b : Bool} {s₀ s : State} (h : Keeps b s₀ s) (a1) :
    Keeps b s₀ (State.pointPairs s a1) := by
  unfold State.pointPairs
  repeat' first
    | with_reducible assumption
    | with_reducible refine State.raise__keeps ?_ _ _ _
    | with_reducible refine State.bump_keeps ?_ _ _ _ _ _
    | with_reducible refine Keeps.ite ?_ ?_
    | (with_reducible refine Keeps.foldl (fun t x ht => ?_) ?_)
    | (with_reducible refine Keeps.foldl_fst (fun t x ht => ?_) ?_)
    | (fail_if_no_progress with_reducible refine Keeps.of_mk (Keeps.comps ?_))

theorem State.pointRun_keeps {b : Bool} {s₀ s : State} (h : Keeps b s₀ s) (a1) :
    Keeps b s₀ (State.pointRun s a1) := by
  unfold State.pointRun
  repeat' first
    | with_reducible assumption
    | with_reducible refine State.modCluster_keeps ?_ _ _
    | with_reducible refine State.bump_keeps ?_ _ _ _ _ _
    | with_reducible refine State.pointPairs_keeps ?_ _

theorem State.applyModes_keeps {b : Bool} {s₀ s : State} (h : Keeps b s₀ s) (a1) :
    Keeps b s₀ (State.applyModes s a1) := by
  unfold State.applyModes
  repeat' first
    | with_reducible assumption
    | with_reducible refine State.modLedger_keeps ?_ _ _
    | with_reducible refine State.setRegFld_keeps ?_ _ _ _ _ _
    | with_reducible refine Keeps.ite ?_ ?_
    | (fail_if_no_progress with_reducible refine Keeps.of_mk (Keeps.comps ?_))

theorem execSemInit_keeps {b : Bool} {s₀ s : State} (h : Keeps b s₀ s) (a1) :
    KeepsA b s₀ (execSemInit a1 s) := by
  unfold execSemInit
  repeat' first
    | with_reducible assumption
    | with_reducible refine KeepsA.next ?_
    | with_reducible refine dispatchRow_keeps (fun t c ht => ?_) ?_ _ _ _ _
    | with_reducible refine semInitStart_keeps ?_ _

theorem State.countLadder_keeps {b : Bool} {s₀ s : State} (h : Keeps b s₀ s) (a1) (a2) (a3) :
    Keeps b s₀ (State.countLadder a1 s a2 a3) := by
  unfold State.countLadder
  repeat' first
    | with_reducible assumption
    | with_reducible refine State.bump_keeps ?_ _ _ _ _ _
    | with_reducible refine Keeps.ite ?_ ?_
    | (fail_if_no_progress with_reducible refine Keeps.of_mk (Keeps.comps ?_))
    | dsimp only
    | split

theorem execSemAcquire_keeps {b : Bool} {s₀ s : State} (h : Keeps b s₀ s) (a1) :
    KeepsA b s₀ (execSemAcquire a1 s) := by
  unfold execSemAcquire
  repeat' first
    | with_reducible assumption
    | with_reducible refine KeepsA.next ?_
    | with_reducible refine State.countLadder_keeps ?_ _ _ _
    | with_reducible refine dispatchRow_keeps (fun t c ht => ?_) ?_ _ _ _ _
    | with_reducible refine semAcquireStart_keeps ?_ _

theorem execSemTry_keeps {b : Bool} {s₀ s : State} (h : Keeps b s₀ s) (a1) :
    KeepsA b s₀ (execSemTry a1 s) := by
  unfold execSemTry
  repeat' first
    | with_reducible assumption
    | with_reducible refine KeepsA.next ?_
    | with_reducible refine dispatchRow_keeps (fun t c ht => ?_) ?_ _ _ _ _
    | with_reducible refine semTryStart_keeps ?_ _

theorem execSemRelease_keeps {b : Bool} {s₀ s : State} (h : Keeps b s₀ s) (a1) :
    KeepsA b s₀ (execSemRelease a1 s) := by
  unfold execSemRelease
  repeat' first
    | with_reducible assumption
    | with_reducible refine KeepsA.next ?_
    | with_reducible refine dispatchRow_keeps (fun t c ht => ?_) ?_ _ _ _ _
    | with_reducible refine semReleaseStart_keeps ?_ _

theorem execSemClearPoison_keeps {b : Bool} {s₀ s : State} (h : Keeps b s₀ s) (a1) :
    KeepsA b s₀ (execSemClearPoison a1 s) := by
  unfold execSemClearPoison
  repeat' first
    | with_reducible assumption
    | with_reducible refine KeepsA.next ?_
    | with_reducible refine dispatchRow_keeps (fun t c ht => ?_) ?_ _ _ _ _
    | with_reducible refine semClearPoisonStart_keeps ?_ _

theorem execCtrInit_keeps {b : Bool} {s₀ s : State} (h : Keeps b s₀ s) (a1) :
    KeepsA b s₀ (execCtrInit a1 s) := by
  unfold execCtrInit
  repeat' first
    | with_reducible assumption
    | with_reducible refine KeepsA.next ?_
    | with_reducible refine dispatchRow_keeps (fun t c ht => ?_) ?_ _ _ _ _
    | with_reducible refine ctrInitStart_keeps ?_ _

theorem execCtrClaim_keeps {b : Bool} {s₀ s : State} (h : Keeps b s₀ s) (a1) :
    KeepsA b s₀ (execCtrClaim a1 s) := by
  unfold execCtrClaim
  repeat' first
    | with_reducible assumption
    | with_reducible refine KeepsA.next ?_
    | with_reducible refine dispatchRow_keeps (fun t c ht => ?_) ?_ _ _ _ _
    | with_reducible refine ctrClaimStart_keeps ?_ _

theorem execCtrUnclaim_keeps {b : Bool} {s₀ s : State} (h : Keeps b s₀ s) (a1) :
    KeepsA b s₀ (execCtrUnclaim a1 s) := by
  unfold execCtrUnclaim
  repeat' first
    | with_reducible assumption
    | with_reducible refine KeepsA.next ?_
    | with_reducible refine dispatchRow_keeps (fun t c ht => ?_) ?_ _ _ _ _
    | with_reducible refine ctrUnclaimStart_keeps ?_ _

theorem execCtrPost_keeps {b : Bool} {s₀ s : State} (h : Keeps b s₀ s) (a1) :
    KeepsA b s₀ (execCtrPost a1 s) := by
  unfold execCtrPost
  repeat' first
    | with_reducible assumption
    | with_reducible refine KeepsA.next ?_
    | with_reducible refine dispatchRow_keeps (fun t c ht => ?_) ?_ _ _ _ _
    | with_reducible refine ctrPostStart_keeps ?_ _
    | with_reducible refine State.raise__keeps ?_ _ _ _
    | with_reducible refine KeepsA.ite ?_ ?_
    | with_reducible refine Keeps.ite ?_ ?_
    | (fail_if_no_progress with_reducible refine Keeps.of_mk (Keeps.comps ?_))
    | dsimp only
    | split

theorem execCtrTake_keeps {b : Bool} {s₀ s : State} (h : Keeps b s₀ s) (a1) :
    KeepsA b s₀ (execCtrTake a1 s) := by
  unfold execCtrTake
  repeat' first
    | with_reducible assumption
    | with_reducible refine KeepsA.next ?_
    | with_reducible refine State.countLadder_keeps ?_ _ _ _
    | with_reducible refine dispatchRow_keeps (fun t c ht => ?_) ?_ _ _ _ _
    | with_reducible refine ctrTakeStart_keeps ?_ _

theorem execLintel_keeps {b : Bool} {s₀ s : State} (h : Keeps b s₀ s) (a1) :
    KeepsA b s₀ (execLintel a1 s) := by
  unfold execLintel
  repeat' first
    | with_reducible assumption
    | with_reducible refine KeepsA.next ?_
    | with_reducible refine State.countLadder_keeps ?_ _ _ _
    | with_reducible refine dispatchRow_keeps (fun t c ht => ?_) ?_ _ _ _ _
    | with_reducible refine lintelStart_keeps ?_ _

theorem execRetire_keeps {b : Bool} {s₀ s : State} (h : Keeps b s₀ s) (a1) :
    KeepsA b s₀ (execRetire a1 s) := by
  unfold execRetire
  repeat' first
    | with_reducible assumption
    | with_reducible refine KeepsA.next ?_
    | with_reducible refine dispatchRow_keeps (fun t c ht => ?_) ?_ _ _ _ _
    | with_reducible refine retireStart_keeps ?_ _

theorem execLintelComplete_keeps {b : Bool} {s₀ s : State} (h : Keeps b s₀ s) (a1) (a2) :
    KeepsA b s₀ (execLintelComplete a1 a2 s) := by
  unfold execLintelComplete
  repeat' first
    | with_reducible assumption
    | with_reducible refine KeepsA.next ?_
    | with_reducible refine State.lintelArrivals_keeps ?_ _
    | with_reducible refine State.at__keeps ?_ _
    | with_reducible refine State.applyModes_keeps ?_ _
    | with_reducible refine State.lintelEnd_keeps ?_ _ _
    | with_reducible refine State.pointRun_keeps ?_ _
    | with_reducible refine KeepsA.ite ?_ ?_
    | with_reducible refine Keeps.ite ?_ ?_
    | (with_reducible refine Keeps.foldl (fun t x ht => ?_) ?_)

theorem execLintelTimeout_keeps {b : Bool} {s₀ s : State} (h : Keeps b s₀ s) (a1) (a2) :
    KeepsA b s₀ (execLintelTimeout a1 a2 s) := by
  unfold execLintelTimeout
  repeat' first
    | with_reducible assumption
    | with_reducible refine KeepsA.next ?_
    | with_reducible refine State.lintelArrivals_keeps ?_ _
    | with_reducible refine State.at__keeps ?_ _
    | with_reducible refine State.raise__keeps ?_ _ _ _
    | with_reducible refine State.lintelEnd_keeps ?_ _ _
    | with_reducible refine KeepsA.ite ?_ ?_
    | with_reducible refine Keeps.ite ?_ ?_
    | (fail_if_no_progress with_reducible refine Keeps.of_mk (Keeps.comps ?_))
    | dsimp only
    | split

theorem execPointingPeriodExpiry_keeps {b : Bool} {s₀ s : State} (h : Keeps b s₀ s) (a1) (a2) :
    KeepsA b s₀ (execPointingPeriodExpiry a1 a2 s) := by
  unfold execPointingPeriodExpiry
  repeat' first
    | with_reducible assumption
    | with_reducible refine KeepsA.next ?_
    | with_reducible refine State.at__keeps ?_ _
    | with_reducible refine State.modCluster_keeps ?_ _ _
    | with_reducible refine State.bump_keeps ?_ _ _ _ _ _
    | with_reducible refine KeepsA.ite ?_ ?_
    | with_reducible refine Keeps.ite ?_ ?_

theorem execPointingBarrier_keeps {b : Bool} {s₀ s : State} (h : Keeps b s₀ s) (a1) (a2) :
    KeepsA b s₀ (execPointingBarrier a1 a2 s) := by
  unfold execPointingBarrier
  repeat' first
    | with_reducible assumption
    | with_reducible refine KeepsA.next ?_
    | with_reducible refine State.at__keeps ?_ _
    | with_reducible refine State.pointRun_keeps ?_ _
    | with_reducible refine KeepsA.ite ?_ ?_

theorem execContextSwitch_keeps {b : Bool} {s₀ s : State} (h : Keeps b s₀ s) (a1) :
    KeepsA b s₀ (execContextSwitch a1 s) := by
  unfold execContextSwitch
  repeat' first
    | with_reducible assumption
    | with_reducible refine KeepsA.next ?_
    | with_reducible refine State.modCore_keeps ?_ _ _
    | with_reducible refine State.modCtx_keeps ?_ _ _
    | with_reducible refine KeepsA.ite ?_ ?_
    | with_reducible refine Keeps.ite ?_ ?_
    | (fail_if_no_progress with_reducible refine Keeps.of_mk (Keeps.comps ?_))
    | dsimp only
    | split

theorem execContextSwitchEnd_keeps {b : Bool} {s₀ s : State} (h : Keeps b s₀ s) (a1) :
    KeepsA b s₀ (execContextSwitchEnd a1 s) := by
  unfold execContextSwitchEnd
  repeat' first
    | with_reducible assumption
    | with_reducible refine KeepsA.next ?_
    | with_reducible refine State.modCore_keeps ?_ _ _
    | with_reducible refine State.bump_keeps ?_ _ _ _ _ _
    | with_reducible refine State.modCtx_keeps ?_ _ _
    | with_reducible refine KeepsA.ite ?_ ?_
    | with_reducible refine Keeps.ite ?_ ?_
    | (fail_if_no_progress with_reducible refine Keeps.of_mk (Keeps.comps ?_))
    | dsimp only
    | split

end Sys2Proof.Machine
end

