-- ==== Sys2Proof/Laws/Keeps/Faults.lean ====
section
/-! SUPPORT. What the operations of Machine/Faults.lean keep. -/

namespace Sys2Proof.Machine

theorem State.resetCtxs_keeps {b : Bool} {s₀ s : State} (h : Keeps b s₀ s) (a1) :
    Keeps b s₀ (State.resetCtxs s a1) := by
  unfold State.resetCtxs
  repeat' first
    | with_reducible assumption
    | with_reducible refine State.freeCtx_keeps ?_ _
    | with_reducible refine State.releasePoisoned_keeps ?_ _
    | with_reducible refine Keeps.ite ?_ ?_
    | (with_reducible refine Keeps.foldl (fun t x ht => ?_) ?_)

theorem State.leaveService_keeps {b : Bool} {s₀ s : State} (h : Keeps b s₀ s) (a1) :
    Keeps b s₀ (State.leaveService s a1) := by
  unfold State.leaveService
  repeat' first
    | with_reducible assumption
    | with_reducible refine State.resetCtxs_keeps ?_ _
    | with_reducible refine State.endCmd_keeps ?_ _ _
    | with_reducible refine Keeps.ite ?_ ?_
    | (with_reducible refine Keeps.foldl (fun t x ht => ?_) ?_)

theorem State.retireCore_keeps {b : Bool} {s₀ s : State} (h : Keeps b s₀ s) (a1) :
    Keeps b s₀ (State.retireCore s a1) := by
  unfold State.retireCore
  repeat' first
    | with_reducible assumption
    | with_reducible refine State.modCoreDom_keeps ?_ _ _
    | with_reducible refine State.leaveService_keeps ?_ _
    | with_reducible refine State.faultEntry_keeps ?_ _ _ _ _
    | with_reducible refine State.noteHealth_keeps ?_ _ _
    | with_reducible refine State.setIrq_keeps ?_ _ _
    | with_reducible refine Keeps.ite ?_ ?_
    | (fail_if_no_progress with_reducible refine Keeps.of_mk (Keeps.comps ?_))

theorem State.dropPersists_keeps {b : Bool} {s₀ s : State} (h : Keeps b s₀ s) (a1) :
    Keeps b s₀ (State.dropPersists s a1) := by
  unfold State.dropPersists
  repeat' first
    | with_reducible assumption
    | with_reducible refine State.endCmd_keeps ?_ _ _
    | with_reducible refine State.stirCluster_keeps ?_ _
    | with_reducible refine Keeps.ite ?_ ?_
    | (with_reducible refine Keeps.foldl (fun t x ht => ?_) ?_)
    | (with_reducible refine Keeps.foldl_fst (fun t x ht => ?_) ?_)
    | (fail_if_no_progress with_reducible refine Keeps.of_mk (Keeps.comps ?_))

theorem State.retireCluster_keeps {b : Bool} {s₀ s : State} (h : Keeps b s₀ s) (a1) :
    Keeps b s₀ (State.retireCluster s a1) := by
  unfold State.retireCluster
  repeat' first
    | with_reducible assumption
    | with_reducible refine State.modCluster_keeps ?_ _ _
    | with_reducible refine State.leaveService_keeps ?_ _
    | with_reducible refine State.dropPersists_keeps ?_ _
    | with_reducible refine State.faultEntry_keeps ?_ _ _ _ _
    | with_reducible refine State.noteHealth_keeps ?_ _ _
    | with_reducible refine State.setIrq_keeps ?_ _ _
    | with_reducible refine Keeps.ite ?_ ?_
    | (fail_if_no_progress with_reducible refine Keeps.of_mk (Keeps.comps ?_))

theorem State.sramError_keeps {b : Bool} {s₀ s : State} (h : Keeps b s₀ s) (a1) (a2) :
    Keeps b s₀ (State.sramError s a1 a2).1 := by
  unfold State.sramError
  repeat' first
    | with_reducible assumption
    | with_reducible refine State.countUpset_keeps ?_ _
    | with_reducible refine State.bump_keeps ?_ _ _ _ _ _
    | with_reducible refine State.faultEntry_keeps ?_ _ _ _ _
    | with_reducible refine State.countFault_keeps ?_ _
    | with_reducible refine State.modCoreDom_keeps ?_ _ _
    | with_reducible refine State.retireCore_keeps ?_ _
    | with_reducible refine State.modCluster_keeps ?_ _ _
    | with_reducible refine State.retireCluster_keeps ?_ _
    | with_reducible refine Keeps.ite ?_ ?_
    | with_reducible refine Keeps.ite_fst ?_ ?_
    | with_reducible refine Keeps.of_fst ?_ (by assumption)
    | (fail_if_no_progress with_reducible refine Keeps.of_mk (Keeps.comps ?_))
    | dsimp only
    | split

theorem State.abortPart_keeps {b : Bool} {s₀ s : State} (h : Keeps b s₀ s) (a1) :
    Keeps b s₀ (State.abortPart s a1) := by
  unfold State.abortPart
  repeat' first
    | with_reducible assumption
    | with_reducible refine State.endCmd_keeps ?_ _ _
    | with_reducible refine Keeps.ite ?_ ?_
    | (with_reducible refine Keeps.foldl (fun t x ht => ?_) ?_)

theorem State.departPorts_keeps {b : Bool} {s₀ s : State} (h : Keeps b s₀ s) (a1) :
    Keeps b s₀ (State.departPorts s a1) := by
  unfold State.departPorts
  repeat' first
    | with_reducible assumption
    | with_reducible refine State.emit_keeps ?_ _
    | with_reducible refine Keeps.ite ?_ ?_
    | (with_reducible refine Keeps.foldl (fun t x ht => ?_) ?_)

theorem State.faultPart_keeps {b : Bool} {s₀ s : State} (h : Keeps b s₀ s) (a1) :
    Keeps b s₀ (State.faultPart s a1) := by
  unfold State.faultPart
  repeat' first
    | with_reducible assumption
    | with_reducible refine State.departPorts_keeps ?_ _
    | with_reducible refine State.abortPart_keeps ?_ _
    | with_reducible refine State.resetEntry_keeps ?_ _ _ _ _
    | with_reducible refine State.raise__keeps ?_ _ _ _
    | with_reducible refine Keeps.ite ?_ ?_
    | (fail_if_no_progress with_reducible refine Keeps.of_mk (Keeps.comps ?_))

theorem State.faultDie_keeps {b : Bool} {s₀ s : State} (h : Keeps b s₀ s) (a1) :
    Keeps b s₀ (State.faultDie s a1) := by
  unfold State.faultDie
  repeat' first
    | with_reducible assumption
    | with_reducible refine State.modDie_keeps ?_ _ _
    | with_reducible refine State.faultEntry_keeps ?_ _ _ _ _
    | with_reducible refine State.noteHealth_keeps ?_ _ _
    | with_reducible refine State.faultPart_keeps ?_ _
    | with_reducible refine Keeps.ite ?_ ?_
    | (fail_if_no_progress with_reducible refine Keeps.of_mk (Keeps.comps ?_))

end Sys2Proof.Machine
end

