-- ==== Sys2Proof/Laws/Keeps/Access.lean ====
section
/-! SUPPORT. What the operations of Machine/Access.lean keep. -/

namespace Sys2Proof.Machine

theorem State.stopSteer_keeps {b : Bool} {s₀ s : State} (h : Keeps b s₀ s) (a1) (a2) :
    Keeps b s₀ (State.stopSteer s a1 a2) := by
  unfold State.stopSteer
  repeat' first
    | with_reducible assumption
    | with_reducible refine State.modSec_keeps ?_ _ _
    | with_reducible refine Keeps.ite ?_ ?_
    | (fail_if_no_progress with_reducible refine Keeps.of_mk (Keeps.comps ?_))

theorem State.steerTrap_keeps {b : Bool} {s₀ s : State} (h : Keeps b s₀ s) (a1) :
    Keeps b s₀ (State.steerTrap s a1) := by
  unfold State.steerTrap
  repeat' first
    | with_reducible assumption
    | with_reducible refine State.raise__keeps ?_ _ _ _
    | with_reducible refine State.stopSteer_keeps ?_ _ _

theorem State.onWrite_keeps {b : Bool} {s₀ s : State} {f : State → State} (hf : ∀ t, Keeps b s₀ t → Keeps b s₀ (f t))
    (h : Keeps b s₀ s) (a1) (a2) : Keeps b s₀ (State.onWrite s a1 a2 f) := by
  unfold State.onWrite
  repeat' first
    | with_reducible assumption
    | with_reducible refine hf _ ?_
    | with_reducible refine State.emit_keeps ?_ _
    | with_reducible refine State.denied_keeps ?_
    | with_reducible refine State.steerTrap_keeps ?_ _
    | split

theorem State.steeringWrite_keeps {b : Bool} {s₀ s : State} {f : State → State}
    (hf : ∀ t, Keeps b s₀ t → Keeps b s₀ (f t)) (h : Keeps b s₀ s) (a1) (a2) :
    Keeps b s₀ (State.steeringWrite s a1 a2 f) := by
  unfold State.steeringWrite
  repeat' first
    | with_reducible assumption
    | with_reducible refine State.emit_keeps ?_ _
    | with_reducible refine State.steerTrap_keeps ?_ _
    | with_reducible refine State.denied_keeps ?_
    | with_reducible exact hf _ h
    | split

end Sys2Proof.Machine
end

