-- ==== Sys2Proof/Laws/Keeps/Convert.lean ====
section
/-! SUPPORT. What the operations of Machine/Convert.lean keep. -/

namespace Sys2Proof.Machine

theorem State.modGuard_keeps {b : Bool} {s₀ s : State} (h : Keeps b s₀ s) (a1) (a2) (a3) :
    Keeps b s₀ (State.modGuard s a1 a2 a3) := by
  unfold State.modGuard
  repeat' first
    | with_reducible assumption
    | with_reducible refine Keeps.ite ?_ ?_
    | (fail_if_no_progress with_reducible refine Keeps.of_mk (Keeps.comps ?_))

theorem State.guardEvent_keeps {b : Bool} {s₀ s : State} (h : Keeps b s₀ s) (a1) (a2) (a3) :
    Keeps b s₀ (State.guardEvent s a1 a2 a3) := by
  unfold State.guardEvent
  repeat' first
    | with_reducible assumption
    | with_reducible refine State.raise__keeps ?_ _ _ _
    | with_reducible refine State.setRegFld_keeps ?_ _ _ _ _ _
    | with_reducible refine State.bump_keeps ?_ _ _ _ _ _

theorem State.rescale_keeps {b : Bool} {s₀ s : State} (h : Keeps b s₀ s) (a1) (a2) (a3) :
    Keeps b s₀ (State.rescale s a1 a2 a3) := by
  unfold State.rescale
  repeat' first
    | with_reducible assumption
    | with_reducible refine State.modGuard_keeps ?_ _ _ _
    | with_reducible refine State.guardEvent_keeps ?_ _ _ _
    | with_reducible refine Keeps.ite ?_ ?_

theorem State.guardFeed_keeps {b : Bool} {s₀ s : State} (h : Keeps b s₀ s) (a1) (a2) (a3) (a4) :
    Keeps b s₀ (State.guardFeed s a1 a2 a3 a4) := by
  unfold State.guardFeed
  repeat' first
    | with_reducible assumption
    | with_reducible refine State.modGuard_keeps ?_ _ _ _

end Sys2Proof.Machine
end

