-- ==== Sys2Proof/Laws/Keeps/TierOps.lean ====
section
/-! SUPPORT. What the operations of Machine/TierOps.lean keep. -/

namespace Sys2Proof.Machine

theorem State.poolLow_keeps {b : Bool} {s₀ s : State} (h : Keeps b s₀ s) (a1) (a2) :
    Keeps b s₀ (State.poolLow a1 a2 s) := by
  unfold State.poolLow
  repeat' first
    | with_reducible assumption
    | with_reducible refine State.raise__keeps ?_ _ _ _
    | with_reducible refine Keeps.ite ?_ ?_

theorem State.poisonGranule_keeps {b : Bool} {s₀ s : State} (h : Keeps b s₀ s) (a1) :
    Keeps b s₀ (State.poisonGranule s a1) := by
  unfold State.poisonGranule
  repeat' first
    | with_reducible assumption
    | with_reducible refine State.setPoison_keeps ?_ _ _
    | with_reducible refine State.clearFresh_keeps ?_ _
    | with_reducible refine Keeps.ite ?_ ?_
    | (with_reducible refine Keeps.foldl (fun t x ht => ?_) ?_)

theorem State.moveLent_keeps {b : Bool} {s₀ s : State} (h : Keeps b s₀ s) (a1) (a2) (a3) :
    Keeps b s₀ (State.moveLent s a1 a2 a3) := by
  unfold State.moveLent
  repeat' first
    | with_reducible assumption
    | with_reducible refine State.modTier_keeps ?_ _ _
    | with_reducible refine State.raise__keeps ?_ _ _ _
    | with_reducible refine State.poisonGranule_keeps ?_ _
    | with_reducible refine Keeps.ite ?_ ?_
    | (with_reducible refine Keeps.foldl (fun t x ht => ?_) ?_)
    | (with_reducible refine Keeps.foldl_fst (fun t x ht => ?_) ?_)
    | (fail_if_no_progress with_reducible refine Keeps.of_mk (Keeps.comps ?_))
    | dsimp only
    | split

theorem State.storeSlab_keeps {b : Bool} {s₀ s : State} (h : Keeps b s₀ s) (a1) (a2) (a3) (a4) :
    Keeps b s₀ (State.storeSlab s a1 a2 a3 a4) := by
  unfold State.storeSlab
  repeat' first
    | with_reducible assumption
    | with_reducible refine State.moveLent_keeps ?_ _ _ _
    | with_reducible refine State.modTier_keeps ?_ _ _
    | with_reducible refine State.bump_keeps ?_ _ _ _ _ _
    | with_reducible refine State.poolLow_keeps ?_ _ _
    | with_reducible refine Keeps.ite ?_ ?_
    | (with_reducible refine Keeps.foldl (fun t x ht => ?_) ?_)
    | (with_reducible refine Keeps.foldl_fst (fun t x ht => ?_) ?_)
    | (fail_if_no_progress with_reducible refine Keeps.of_mk (Keeps.comps ?_))
    | (fail_if_no_progress with_reducible refine Keeps.setMem ?_ ?_)
    | with_reducible exact Memory.wf_puts _ _ _
    | with_reducible exact Memory.wf_drop _ _
    | with_reducible exact fun e => Memory.wf_puts _ _ _ (Memory.wf_drop _ _ e)

theorem State.markDamaged_keeps {b : Bool} {s₀ s : State} (h : Keeps b s₀ s) (a1) (a2) (a3) :
    Keeps b s₀ (State.markDamaged s a1 a2 a3) := by
  unfold State.markDamaged
  dsimp only
  have ht := h.setMem (Memory.wf_puts s.mem (homeKey s a1 a2 + 4 * a3) (leBytes 4 (3 * 2 ^ 30)))
  repeat' first
    | with_reducible exact h
    | with_reducible exact ht
    | with_reducible refine State.raise__keeps ?_ _ _ _
    | with_reducible refine State.bump_keeps ?_ _ _ _ _ _
    | with_reducible refine State.modTier_keeps ?_ _ _
    | split

theorem State.setFrame_keeps {b : Bool} {s₀ s : State} (h : Keeps b s₀ s) (a1) (a2) (a3) :
    Keeps b s₀ (State.setFrame s a1 a2 a3) := by
  unfold State.setFrame
  repeat' first
    | with_reducible assumption
    | with_reducible refine State.modTier_keeps ?_ _ _

theorem State.modFrame_keeps {b : Bool} {s₀ s : State} (h : Keeps b s₀ s) (a1) (a2) (a3) :
    Keeps b s₀ (State.modFrame s a1 a2 a3) := by
  unfold State.modFrame
  repeat' first
    | with_reducible assumption
    | with_reducible refine State.setFrame_keeps ?_ _ _ _
    | with_reducible refine Keeps.ite ?_ ?_
    | (fail_if_no_progress with_reducible refine Keeps.of_mk (Keeps.comps ?_))
    | dsimp only
    | split

theorem State.freeFrameOf_keeps {b : Bool} {s₀ s : State} (h : Keeps b s₀ s) (a1) (a2) :
    Keeps b s₀ (State.freeFrameOf s a1 a2) := by
  unfold State.freeFrameOf
  repeat' first
    | with_reducible assumption
    | with_reducible refine State.setFrame_keeps ?_ _ _ _
    | with_reducible refine State.freshen_keeps ?_ _
    | with_reducible refine Keeps.ite ?_ ?_
    | (fail_if_no_progress with_reducible refine Keeps.of_mk (Keeps.comps ?_))
    | dsimp only
    | split

theorem State.waitSlabs_keeps {b : Bool} {s₀ s : State} (h : Keeps b s₀ s) (a1) (a2) (a3) :
    Keeps b s₀ (State.waitSlabs s a1 a2 a3) := by
  unfold State.waitSlabs
  repeat' first
    | with_reducible assumption
    | with_reducible refine State.endCmd_keeps ?_ _ _
    | with_reducible refine State.queueFetch_keeps ?_ _ _ _ _
    | with_reducible refine State.modTier_keeps ?_ _ _
    | with_reducible refine State.cmdWaits_keeps ?_ _ _
    | with_reducible refine State.modCmd_keeps ?_ _ _
    | with_reducible refine Keeps.ite ?_ ?_
    | (with_reducible refine Keeps.foldl (fun t x ht => ?_) ?_)

theorem State.pullAhead_keeps {b : Bool} {s₀ s : State} (h : Keeps b s₀ s) (a1) (a2) (a3) :
    Keeps b s₀ (State.pullAhead s a1 a2 a3) := by
  unfold State.pullAhead
  repeat' first
    | with_reducible assumption
    | with_reducible refine State.bump_keeps ?_ _ _ _ _ _
    | with_reducible refine State.queueFetch_keeps ?_ _ _ _ _
    | with_reducible refine Keeps.ite ?_ ?_
    | (with_reducible refine Keeps.foldl (fun t x ht => ?_) ?_)

theorem State.codecWrite_keeps {b : Bool} {s₀ s : State} (h : Keeps b s₀ s) (a1) (a2) (a3) (a4) (a5) (a6) :
    Keeps b s₀ (State.codecWrite s a1 a2 a3 a4 a5 a6) := by
  unfold State.codecWrite
  extract_lets n sk s0 s1 s2 blk blocks s3
  have h0 : Keeps b s₀ s0 := by
    unfold s0
    split
    · exact h.setMem (Memory.wf_puts _ _ _)
    · exact h
  have h1 : Keeps b s₀ s1 := h0.setMem (Memory.wf_puts _ _ _)
  have h2 : Keeps b s₀ s2 := by
    unfold s2
    split
    · exact State.poke_keeps h1 _ _
    · exact h1
  split
  · exact (State.storeSlab_keeps h2 _ _ _ _).setMem (Memory.wf_drop _ _)
  · exact h2

end Sys2Proof.Machine
end

