-- ==== Sys2Proof/Laws/Keeps/HodList.lean ====
section
/-! SUPPORT. What the operations of Machine/HodList.lean keep. -/

namespace Sys2Proof.Machine

theorem dispatchRowT_keeps {b : Bool} {s₀ s : State} {start : State → Cmd → State}
    (hf : ∀ t c, Keeps b s₀ t → Keeps b s₀ (start t c)) (h : Keeps b s₀ s) (a0) (a1) (a2) (a3) (a4) (a5) :
    Keeps b s₀ (dispatchRowT a0 a1 a2 a3 a4 a5 start s) := by
  unfold dispatchRowT
  dsimp only
  repeat' first
    | with_reducible assumption
    | with_reducible refine checkAndStart_keeps hf ?_ _ _ _
    | with_reducible refine State.waitSlabs_keeps ?_ _ _ _
    | with_reducible refine State.modCmd_keeps ?_ _ _
    | with_reducible refine State.wantSlot_keeps ?_ _
    | with_reducible refine State.endCmd_keeps ?_ _ _
    | with_reducible refine State.take__keeps ?_ _ _
    | with_reducible refine Keeps.ite ?_ ?_
    | split

end Sys2Proof.Machine
end

