-- ==== Sys2Proof/Laws/Keeps/HodOps.lean ====
section
/-! SUPPORT. What the operations of Machine/HodOps.lean keep. -/

namespace Sys2Proof.Machine

theorem State.modPersist_keeps {b : Bool} {s₀ s : State} (h : Keeps b s₀ s) (a1) (a2) :
    Keeps b s₀ (State.modPersist s a1 a2) := by
  unfold State.modPersist
  repeat' first
    | with_reducible assumption
    | with_reducible refine Keeps.ite ?_ ?_
    | (fail_if_no_progress with_reducible refine Keeps.of_mk (Keeps.comps ?_))

theorem State.modStream_keeps {b : Bool} {s₀ s : State} (h : Keeps b s₀ s) (a1) (a2) (a3) :
    Keeps b s₀ (State.modStream s a1 a2 a3) := by
  unfold State.modStream
  repeat' first
    | with_reducible assumption
    | with_reducible refine State.modPersist_keeps ?_ _ _
    | with_reducible refine State.modCmd_keeps ?_ _ _
    | with_reducible refine Keeps.ite ?_ ?_
    | (fail_if_no_progress with_reducible refine Keeps.of_mk (Keeps.comps ?_))
    | dsimp only
    | split

theorem State.modHod_keeps {b : Bool} {s₀ s : State} (h : Keeps b s₀ s) (a1) (a2) (a3) :
    Keeps b s₀ (State.modHod s a1 a2 a3) := by
  unfold State.modHod
  repeat' first
    | with_reducible assumption
    | with_reducible refine Keeps.ite ?_ ?_
    | (fail_if_no_progress with_reducible refine Keeps.of_mk (Keeps.comps ?_))

theorem State.sendOpen_keeps {b : Bool} {s₀ s : State} (h : Keeps b s₀ s) (a1) (a2) (a3) :
    Keeps b s₀ (State.sendOpen s a1 a2 a3) := by
  unfold State.sendOpen
  repeat' first
    | with_reducible assumption
    | with_reducible refine State.emit_keeps ?_ _
    | with_reducible refine Keeps.ite ?_ ?_
    | (fail_if_no_progress with_reducible refine Keeps.of_mk (Keeps.comps ?_))

theorem State.noteWrite_keeps {b : Bool} {s₀ s : State} (h : Keeps b s₀ s) (a1) (a2) (a3) (a4) :
    Keeps b s₀ (State.noteWrite s a1 a2 a3 a4) := by
  unfold State.noteWrite
  repeat' first
    | with_reducible assumption
    | with_reducible refine State.modCmd_keeps ?_ _ _
    | with_reducible refine Keeps.ite ?_ ?_
    | (fail_if_no_progress with_reducible refine Keeps.of_mk (Keeps.comps ?_))
    | dsimp only
    | split

theorem State.cmdWrite_keeps {b : Bool} {s₀ s : State} (h : Keeps b s₀ s) (a1) (a2) (a3) (a4) :
    Keeps b s₀ (State.cmdWrite s a1 a2 a3 a4) := by
  unfold State.cmdWrite
  repeat' first
    | with_reducible assumption
    | with_reducible refine State.wideAt_keeps ?_ _ _ _
    | with_reducible refine State.noteWrite_keeps ?_ _ _ _ _
    | with_reducible refine State.noteLate_keeps ?_ _ _
    | with_reducible refine Keeps.ite ?_ ?_

theorem State.addReq_keeps {b : Bool} {s₀ s : State} (h : Keeps b s₀ s) (a1) :
    Keeps b s₀ (State.addReq s a1) := by
  unfold State.addReq
  repeat' first
    | with_reducible assumption
    | with_reducible refine State.modHod_keeps ?_ _ _ _
    | with_reducible refine Keeps.ite ?_ ?_
    | (fail_if_no_progress with_reducible refine Keeps.of_mk (Keeps.comps ?_))

theorem State.serveDirect_keeps {b : Bool} {s₀ s : State} (h : Keeps b s₀ s) (a1) (a2) (a3) (a4) (a5) :
    Keeps b s₀ (State.serveDirect s a1 a2 a3 a4 a5) := by
  unfold State.serveDirect
  repeat' first
    | with_reducible assumption
    | with_reducible refine State.bump_keeps ?_ _ _ _ _ _
    | with_reducible refine State.addReq_keeps ?_ _
    | with_reducible refine State.markDamaged_keeps ?_ _ _ _
    | with_reducible refine State.codecWrite_keeps ?_ _ _ _ _ _ _
    | with_reducible refine State.noteWrite_keeps ?_ _ _ _ _
    | with_reducible refine Keeps.ite ?_ ?_
    | (fail_if_no_progress with_reducible refine Keeps.of_mk (Keeps.comps ?_))
    | dsimp only
    | split

theorem State.issueReq_keeps {b : Bool} {s₀ s : State} (h : Keeps b s₀ s) (a1) (a2) (a3) (a4) (a5) :
    Keeps b s₀ (State.issueReq s a1 a2 a3 a4 a5) := by
  unfold State.issueReq
  repeat' first
    | with_reducible assumption
    | with_reducible refine State.modHod_keeps ?_ _ _ _
    | with_reducible refine State.pullAhead_keeps ?_ _ _ _
    | with_reducible refine State.modStream_keeps ?_ _ _ _
    | with_reducible refine State.endCmd_keeps ?_ _ _
    | with_reducible refine State.addReq_keeps ?_ _
    | with_reducible refine State.sendOpen_keeps ?_ _ _ _
    | with_reducible refine State.serveDirect_keeps ?_ _ _ _ _ _
    | with_reducible refine State.useAt_keeps ?_ _ _
    | with_reducible refine State.waitSlabs_keeps ?_ _ _ _
    | with_reducible refine Keeps.ite ?_ ?_
    | (fail_if_no_progress with_reducible refine Keeps.of_mk (Keeps.comps ?_))
    | dsimp only
    | split

theorem State.feed_keeps {b : Bool} {s₀ s : State} (h : Keeps b s₀ s) (a1) (a2) (a3) (a4) :
    Keeps b s₀ (State.feed s a1 a2 a3 a4) := by
  unfold State.feed
  repeat' first
    | with_reducible assumption
    | with_reducible refine State.modPersist_keeps ?_ _ _
    | with_reducible refine State.modCmd_keeps ?_ _ _
    | with_reducible refine State.addFlags_keeps ?_ _ _
    | with_reducible refine State.guardFeed_keeps ?_ _ _ _ _
    | with_reducible refine Keeps.ite ?_ ?_

theorem State.handOn_keeps {b : Bool} {s₀ s : State} (h : Keeps b s₀ s) (a1) (a2) (a3) :
    Keeps b s₀ (State.handOn s a1 a2 a3).1 := by
  unfold State.handOn
  repeat' first
    | with_reducible assumption
    | with_reducible refine State.modStream_keeps ?_ _ _ _
    | with_reducible refine State.feed_keeps ?_ _ _ _ _
    | with_reducible refine Keeps.ite ?_ ?_
    | with_reducible refine Keeps.ite_fst ?_ ?_
    | with_reducible refine Keeps.of_fst ?_ (by assumption)
    | (fail_if_no_progress with_reducible refine Keeps.of_mk (Keeps.comps ?_))
    | dsimp only
    | split

theorem State.form_keeps {b : Bool} {s₀ s : State} (h : Keeps b s₀ s) (a1) (a2) :
    Keeps b s₀ (State.form s a1 a2) := by
  unfold State.form
  repeat' first
    | with_reducible assumption
    | with_reducible refine State.modStream_keeps ?_ _ _ _
    | with_reducible refine State.feed_keeps ?_ _ _ _ _
    | with_reducible refine Keeps.ite ?_ ?_
    | (fail_if_no_progress with_reducible refine Keeps.of_mk (Keeps.comps ?_))
    | dsimp only
    | split

theorem State.settleScales_keeps {b : Bool} {s₀ s : State} (h : Keeps b s₀ s) (a1) (a2) (a3) :
    Keeps b s₀ (State.settleScales s a1 a2 a3) := by
  unfold State.settleScales
  repeat' first
    | with_reducible assumption
    | with_reducible refine State.rescale_keeps ?_ _ _ _
    | with_reducible refine Keeps.ite ?_ ?_
    | (with_reducible refine Keeps.foldl (fun t x ht => ?_) ?_)

end Sys2Proof.Machine
end

