-- ==== Sys2Proof/Laws/Keeps/MatOps.lean ====
section
/-! SUPPORT. What the operations of Machine/MatOps.lean keep. -/

namespace Sys2Proof.Machine

theorem State.modQuad_keeps {b : Bool} {s₀ s : State} (h : Keeps b s₀ s) (a1) (a2) (a3) :
    Keeps b s₀ (State.modQuad s a1 a2 a3) := by
  unfold State.modQuad
  repeat' first
    | with_reducible assumption
    | with_reducible refine State.stirCore_keeps ?_ _
    | with_reducible refine Keeps.ite ?_ ?_
    | (fail_if_no_progress with_reducible refine Keeps.of_mk (Keeps.comps ?_))

theorem State.modEngine_keeps {b : Bool} {s₀ s : State} (h : Keeps b s₀ s) (a1) (a2) :
    Keeps b s₀ (State.modEngine s a1 a2) := by
  unfold State.modEngine
  repeat' first
    | with_reducible assumption
    | with_reducible refine State.stirCore_keeps ?_ _
    | with_reducible refine Keeps.ite ?_ ?_
    | (fail_if_no_progress with_reducible refine Keeps.of_mk (Keeps.comps ?_))

end Sys2Proof.Machine
end

