-- ==== Sys2Proof/Laws/Keeps/FusedOps.lean ====
section
/-! SUPPORT. What the operations of Machine/FusedOps.lean keep. -/

namespace Sys2Proof.Machine

theorem State.modSlice_keeps {b : Bool} {s₀ s : State} (h : Keeps b s₀ s) (a1) (a2) (a3) (a4) :
    Keeps b s₀ (State.modSlice s a1 a2 a3 a4) := by
  unfold State.modSlice
  repeat' first
    | with_reducible assumption
    | with_reducible refine State.modCmd_keeps ?_ _ _

theorem State.pushBlock_keeps {b : Bool} {s₀ s : State} (h : Keeps b s₀ s) (a1) (a2) (a3) (a4) :
    Keeps b s₀ (State.pushBlock s a1 a2 a3 a4) := by
  unfold State.pushBlock
  repeat' first
    | with_reducible assumption
    | with_reducible refine State.progress_keeps ?_ _
    | with_reducible refine State.modSlice_keeps ?_ _ _ _ _

theorem State.askResid_keeps {b : Bool} {s₀ s : State} (h : Keeps b s₀ s) (a1) (a2) (a3) :
    Keeps b s₀ (State.askResid s a1 a2 a3) := by
  unfold State.askResid
  repeat' first
    | with_reducible assumption
    | with_reducible refine State.modStream_keeps ?_ _ _ _
    | with_reducible refine Keeps.ite ?_ ?_
    | (fail_if_no_progress with_reducible refine Keeps.of_mk (Keeps.comps ?_))
    | dsimp only
    | split

theorem State.enterSlice_keeps {b : Bool} {s₀ s : State} (h : Keeps b s₀ s) (a1) (a2) (a3) (a4) :
    Keeps b s₀ (State.enterSlice s a1 a2 a3 a4) := by
  unfold State.enterSlice
  repeat' first
    | with_reducible assumption
    | with_reducible refine State.pushBlock_keeps ?_ _ _ _ _
    | with_reducible refine State.askResid_keeps ?_ _ _ _
    | with_reducible refine Keeps.ite ?_ ?_
    | (fail_if_no_progress with_reducible refine Keeps.of_mk (Keeps.comps ?_))
    | dsimp only
    | split

theorem State.loadBlocks_keeps {b : Bool} {s₀ s : State} (h : Keeps b s₀ s) (a1) (a2) (a3) :
    Keeps b s₀ (State.loadBlocks s a1 a2 a3) := by
  induction a3 generalizing s a1 a2 with
  | zero =>
    unfold State.loadBlocks
    repeat' first
      | with_reducible assumption
  | succ n ih =>
    unfold State.loadBlocks
    repeat' first
      | with_reducible assumption
      | with_reducible refine ih ?_ _ _
      | with_reducible refine State.modStream_keeps ?_ _ _ _
      | with_reducible refine State.enterSlice_keeps ?_ _ _ _ _
      | with_reducible refine Keeps.ite ?_ ?_
      | (fail_if_no_progress with_reducible refine Keeps.of_mk (Keeps.comps ?_))
      | dsimp only
      | split

theorem State.checkEnd_keeps {b : Bool} {s₀ s : State} (h : Keeps b s₀ s) (a1) :
    Keeps b s₀ (State.checkEnd s a1) := by
  unfold State.checkEnd
  repeat' first
    | with_reducible assumption
    | with_reducible refine State.finishCmd_keeps ?_ _
    | with_reducible refine State.settleScales_keeps ?_ _ _ _
    | with_reducible refine State.modCmd_keeps ?_ _ _
    | with_reducible refine Keeps.ite ?_ ?_
    | (with_reducible refine Keeps.foldl (fun t x ht => ?_) ?_)
    | (with_reducible refine Keeps.foldl_fst (fun t x ht => ?_) ?_)
    | (fail_if_no_progress with_reducible refine Keeps.of_mk (Keeps.comps ?_))
    | dsimp only
    | split

end Sys2Proof.Machine
end

