-- ==== Sys2Proof/Laws/Keeps/Engines.lean ====
section
/-! SUPPORT. What the operations of Machine/Engines.lean keep. -/

namespace Sys2Proof.Machine

theorem matStart_keeps {b : Bool} {s₀ s : State} (h : Keeps b s₀ s) (a1) :
    Keeps b s₀ (matStart s a1) := by
  unfold matStart
  repeat' first
    | with_reducible assumption
    | with_reducible refine State.modCmd_keeps ?_ _ _
    | with_reducible refine State.raise__keeps ?_ _ _ _
    | with_reducible refine State.bump_keeps ?_ _ _ _ _ _
    | with_reducible refine Keeps.ite ?_ ?_

theorem execMatmul_keeps {b : Bool} {s₀ s : State} (h : Keeps b s₀ s) (a1) :
    KeepsA b s₀ (execMatmul a1 s) := by
  unfold execMatmul
  repeat' first
    | with_reducible assumption
    | with_reducible refine KeepsA.next ?_
    | with_reducible refine dispatchRowT_keeps (fun t c ht => ?_) ?_ _ _ _ _ _ _
    | with_reducible refine matStart_keeps ?_ _

theorem execFusedCommand_keeps {b : Bool} {s₀ s : State} (h : Keeps b s₀ s) (a1) :
    KeepsA b s₀ (execFusedCommand a1 s) := by
  unfold execFusedCommand
  repeat' first
    | with_reducible assumption
    | with_reducible refine KeepsA.next ?_
    | with_reducible refine dispatchRowT_keeps (fun t c ht => ?_) ?_ _ _ _ _ _ _
    | with_reducible refine matStart_keeps ?_ _

theorem State.wakeEngine_keeps {b : Bool} {s₀ s : State} (h : Keeps b s₀ s) (a1) (a2) :
    Keeps b s₀ (State.wakeEngine s a1 a2) := by
  unfold State.wakeEngine
  repeat' first
    | with_reducible assumption
    | with_reducible refine State.modEngine_keeps ?_ _ _

theorem State.startHeads_keeps {b : Bool} {s₀ s : State} (h : Keeps b s₀ s) (a1) :
    Keeps b s₀ (State.startHeads s a1) := by
  unfold State.startHeads
  repeat' first
    | with_reducible assumption
    | with_reducible refine State.modQuad_keeps ?_ _ _ _
    | with_reducible refine Keeps.ite ?_ ?_
    | (with_reducible refine Keeps.foldl (fun t x ht => ?_) ?_)

theorem State.fillOperand_keeps {b : Bool} {s₀ s : State} (h : Keeps b s₀ s) (a1) (a2) (a3) (a4) (a5) (a6) :
    Keeps b s₀ (State.fillOperand s a1 a2 a3 a4 a5 a6).1 := by
  unfold State.fillOperand
  repeat' first
    | with_reducible assumption
    | with_reducible refine State.modCmd_keeps ?_ _ _
    | with_reducible refine State.bump_keeps ?_ _ _ _ _ _
    | with_reducible refine State.modStream_keeps ?_ _ _ _
    | with_reducible refine Keeps.ite ?_ ?_
    | (with_reducible refine Keeps.foldl (fun t x ht => ?_) ?_)
    | (with_reducible refine Keeps.foldl_fst (fun t x ht => ?_) ?_)
    | with_reducible refine Keeps.ite_fst ?_ ?_
    | with_reducible refine Keeps.of_fst ?_ (by assumption)
    | (fail_if_no_progress with_reducible refine Keeps.of_mk (Keeps.comps ?_))
    | dsimp only
    | split

theorem State.walkTo_keeps {b : Bool} {s₀ s : State} (h : Keeps b s₀ s) (a1) (a2) :
    Keeps b s₀ (State.walkTo s a1 a2) := by
  unfold State.walkTo
  repeat' first
    | with_reducible assumption
    | with_reducible refine State.modCmd_keeps ?_ _ _

theorem execTileEmit_keeps {b : Bool} {s₀ s : State} (h : Keeps b s₀ s) (a1) :
    KeepsA b s₀ (execTileEmit a1 s) := by
  unfold execTileEmit
  repeat' first
    | with_reducible assumption
    | with_reducible refine KeepsA.next ?_
    | with_reducible refine State.bump_keeps ?_ _ _ _ _ _
    | with_reducible refine State.checkEnd_keeps ?_ _
    | with_reducible refine State.walkTo_keeps ?_ _ _
    | with_reducible refine State.fillOperand_keeps ?_ _ _ _ _ _ _
    | with_reducible refine State.modCmd_keeps ?_ _ _
    | with_reducible refine State.modQuad_keeps ?_ _ _ _
    | with_reducible refine State.startHeads_keeps ?_ _
    | with_reducible refine State.wakeEngine_keeps ?_ _ _
    | with_reducible refine KeepsA.ite ?_ ?_
    | with_reducible refine Keeps.ite ?_ ?_
    | (with_reducible refine Keeps.foldl (fun t x ht => ?_) ?_)
    | (with_reducible refine Keeps.foldl_fst (fun t x ht => ?_) ?_)
    | with_reducible refine Keeps.ite_fst ?_ ?_
    | with_reducible refine Keeps.of_fst ?_ (by assumption)
    | (fail_if_no_progress with_reducible refine Keeps.of_mk (Keeps.comps ?_))
    | dsimp only
    | split

theorem execTileSteal_keeps {b : Bool} {s₀ s : State} (h : Keeps b s₀ s) (a1) (a2) :
    KeepsA b s₀ (execTileSteal a1 a2 s) := by
  unfold execTileSteal
  repeat' first
    | with_reducible assumption
    | with_reducible refine KeepsA.next ?_
    | with_reducible refine State.modQuad_keeps ?_ _ _ _
    | with_reducible refine State.modCmd_keeps ?_ _ _
    | with_reducible refine State.startHeads_keeps ?_ _
    | with_reducible refine State.wakeEngine_keeps ?_ _ _
    | with_reducible refine State.bump_keeps ?_ _ _ _ _ _
    | with_reducible refine KeepsA.ite ?_ ?_
    | with_reducible refine Keeps.ite ?_ ?_
    | (fail_if_no_progress with_reducible refine Keeps.of_mk (Keeps.comps ?_))
    | dsimp only
    | split

theorem execRampUpEnd_keeps {b : Bool} {s₀ s : State} (h : Keeps b s₀ s) (a1) :
    KeepsA b s₀ (execRampUpEnd a1 s) := by
  unfold execRampUpEnd
  repeat' first
    | with_reducible assumption
    | with_reducible refine KeepsA.next ?_
    | with_reducible refine State.startHeads_keeps ?_ _
    | with_reducible refine State.modEngine_keeps ?_ _ _
    | with_reducible refine KeepsA.ite ?_ ?_
    | with_reducible refine Keeps.ite ?_ ?_
    | (fail_if_no_progress with_reducible refine Keeps.of_mk (Keeps.comps ?_))
    | dsimp only
    | split

theorem execRampDownEnd_keeps {b : Bool} {s₀ s : State} (h : Keeps b s₀ s) (a1) :
    KeepsA b s₀ (execRampDownEnd a1 s) := by
  unfold execRampDownEnd
  repeat' first
    | with_reducible assumption
    | with_reducible refine KeepsA.next ?_
    | with_reducible refine State.modEngine_keeps ?_ _ _
    | with_reducible refine KeepsA.ite ?_ ?_

theorem State.dropFills_keeps {b : Bool} {s₀ s : State} (h : Keeps b s₀ s) (a1) (a2) :
    Keeps b s₀ (State.dropFills s a1 a2) := by
  unfold State.dropFills
  repeat' first
    | with_reducible assumption
    | with_reducible refine State.modCmd_keeps ?_ _ _

theorem State.popSeg_keeps {b : Bool} {s₀ s : State} (h : Keeps b s₀ s) (a1) (a2) (a3) :
    Keeps b s₀ (State.popSeg s a1 a2 a3) := by
  unfold State.popSeg
  repeat' first
    | with_reducible assumption
    | with_reducible refine State.modQuad_keeps ?_ _ _ _
    | with_reducible refine State.dropFills_keeps ?_ _ _
    | with_reducible refine State.modEngine_keeps ?_ _ _
    | with_reducible refine State.startHeads_keeps ?_ _
    | with_reducible refine Keeps.ite ?_ ?_

theorem execSweepEnd_keeps {b : Bool} {s₀ s : State} (h : Keeps b s₀ s) (a1) (a2) :
    KeepsA b s₀ (execSweepEnd a1 a2 s) := by
  unfold execSweepEnd
  repeat' first
    | with_reducible assumption
    | with_reducible refine KeepsA.next ?_
    | with_reducible refine State.popSeg_keeps ?_ _ _ _
    | with_reducible refine State.modQuad_keeps ?_ _ _ _
    | with_reducible refine State.addFlags_keeps ?_ _ _
    | with_reducible refine State.progress_keeps ?_ _
    | with_reducible refine State.modEngine_keeps ?_ _ _
    | with_reducible refine KeepsA.ite ?_ ?_
    | with_reducible refine Keeps.ite ?_ ?_
    | (fail_if_no_progress with_reducible refine Keeps.of_mk (Keeps.comps ?_))
    | dsimp only
    | split

theorem execBlockDrainEnd_keeps {b : Bool} {s₀ s : State} (h : Keeps b s₀ s) (a1) (a2) :
    KeepsA b s₀ (execBlockDrainEnd a1 a2 s) := by
  unfold execBlockDrainEnd
  repeat' first
    | with_reducible assumption
    | with_reducible refine KeepsA.next ?_
    | with_reducible refine State.modQuad_keeps ?_ _ _ _
    | with_reducible refine State.addFlags_keeps ?_ _ _
    | with_reducible refine KeepsA.ite ?_ ?_
    | with_reducible refine Keeps.ite ?_ ?_
    | (with_reducible refine Keeps.foldl (fun t x ht => ?_) ?_)
    | (with_reducible refine Keeps.foldl_fst (fun t x ht => ?_) ?_)
    | (fail_if_no_progress with_reducible refine Keeps.of_mk (Keeps.comps ?_))
    | dsimp only
    | split

theorem execBlockConversionEnd_keeps {b : Bool} {s₀ s : State} (h : Keeps b s₀ s) (a1) (a2) :
    KeepsA b s₀ (execBlockConversionEnd a1 a2 s) := by
  unfold execBlockConversionEnd
  repeat' first
    | with_reducible assumption
    | with_reducible refine KeepsA.next ?_
    | with_reducible refine State.modQuad_keeps ?_ _ _ _
    | with_reducible refine State.enterSlice_keeps ?_ _ _ _ _
    | with_reducible refine State.addFlags_keeps ?_ _ _
    | with_reducible refine State.feed_keeps ?_ _ _ _ _
    | with_reducible refine State.modStream_keeps ?_ _ _ _
    | with_reducible refine State.modCmd_keeps ?_ _ _
    | with_reducible refine State.checkEnd_keeps ?_ _
    | with_reducible refine KeepsA.ite ?_ ?_
    | with_reducible refine Keeps.ite ?_ ?_
    | (with_reducible refine Keeps.foldl (fun t x ht => ?_) ?_)
    | (with_reducible refine Keeps.foldl_fst (fun t x ht => ?_) ?_)
    | (fail_if_no_progress with_reducible refine Keeps.of_mk (Keeps.comps ?_))
    | dsimp only
    | split

theorem execEpilogueBlock_keeps {b : Bool} {s₀ s : State} (h : Keeps b s₀ s) (a1) (a2) :
    KeepsA b s₀ (execEpilogueBlock a1 a2 s) := by
  unfold execEpilogueBlock
  repeat' first
    | with_reducible assumption
    | with_reducible refine KeepsA.next ?_
    | with_reducible refine State.modSlice_keeps ?_ _ _ _ _
    | with_reducible refine State.addFlags_keeps ?_ _ _
    | with_reducible refine State.modStream_keeps ?_ _ _ _
    | with_reducible refine State.loadBlocks_keeps ?_ _ _ _
    | with_reducible refine State.enterSlice_keeps ?_ _ _ _ _
    | with_reducible refine KeepsA.ite ?_ ?_
    | with_reducible refine Keeps.ite ?_ ?_
    | (fail_if_no_progress with_reducible refine Keeps.of_mk (Keeps.comps ?_))
    | dsimp only
    | split

theorem execQuantBlock_keeps {b : Bool} {s₀ s : State} (h : Keeps b s₀ s) (a1) (a2) :
    KeepsA b s₀ (execQuantBlock a1 a2 s) := by
  unfold execQuantBlock
  repeat' first
    | with_reducible assumption
    | with_reducible refine KeepsA.next ?_
    | with_reducible refine State.feed_keeps ?_ _ _ _ _
    | with_reducible refine State.loadBlocks_keeps ?_ _ _ _
    | with_reducible refine State.modSlice_keeps ?_ _ _ _ _
    | with_reducible refine State.enterSlice_keeps ?_ _ _ _ _
    | with_reducible refine State.checkEnd_keeps ?_ _
    | with_reducible refine KeepsA.ite ?_ ?_
    | with_reducible refine Keeps.ite ?_ ?_
    | (with_reducible refine Keeps.foldl (fun t x ht => ?_) ?_)
    | (with_reducible refine Keeps.foldl_fst (fun t x ht => ?_) ?_)
    | (fail_if_no_progress with_reducible refine Keeps.of_mk (Keeps.comps ?_))
    | dsimp only
    | split

theorem execStoreBlock_keeps {b : Bool} {s₀ s : State} (h : Keeps b s₀ s) (a1) :
    KeepsA b s₀ (execStoreBlock a1 s) := by
  unfold execStoreBlock
  repeat' first
    | with_reducible assumption
    | with_reducible refine KeepsA.next ?_
    | with_reducible refine State.loadBlocks_keeps ?_ _ _ _
    | with_reducible refine State.progress_keeps ?_ _
    | with_reducible refine State.modSlice_keeps ?_ _ _ _ _
    | with_reducible refine State.checkEnd_keeps ?_ _
    | with_reducible refine State.modStream_keeps ?_ _ _ _
    | with_reducible refine State.form_keeps ?_ _ _
    | with_reducible refine KeepsA.ite ?_ ?_
    | with_reducible refine Keeps.ite ?_ ?_
    | (fail_if_no_progress with_reducible refine Keeps.of_mk (Keeps.comps ?_))
    | dsimp only
    | split

theorem execBndMcastWrite_keeps {b : Bool} {s₀ s : State} (h : Keeps b s₀ s) (a1) (a2) (a3) (a4) :
    KeepsA b s₀ (execBndMcastWrite a1 a2 a3 a4 s) := by
  unfold execBndMcastWrite
  repeat' first
    | with_reducible assumption
    | with_reducible refine KeepsA.next ?_
    | with_reducible refine State.steeringWrite_keeps (fun t ht => ?_) ?_ _ _
    | with_reducible refine State.setReg_keeps ?_ _ _ _
    | with_reducible refine KeepsA.ite ?_ ?_

end Sys2Proof.Machine
end

