-- ==== Sys2Proof/Laws/Keeps/Hods.lean ====
section
/-! SUPPORT. What the operations of Machine/Hods.lean keep. -/

namespace Sys2Proof.Machine

theorem runStart_keeps {b : Bool} {s₀ s : State} (h : Keeps b s₀ s) (a1) :
    Keeps b s₀ (runStart s a1) := by
  unfold runStart
  repeat' first
    | with_reducible assumption
    | with_reducible refine State.modCmd_keeps ?_ _ _

theorem execRun_keeps {b : Bool} {s₀ s : State} (h : Keeps b s₀ s) (a1) :
    KeepsA b s₀ (execRun a1 s) := by
  unfold execRun
  repeat' first
    | with_reducible assumption
    | with_reducible refine KeepsA.next ?_
    | with_reducible refine dispatchRowT_keeps (fun t c ht => ?_) ?_ _ _ _ _ _ _
    | with_reducible refine runStart_keeps ?_ _

theorem execRunPersist_keeps {b : Bool} {s₀ s : State} (h : Keeps b s₀ s) (a1) :
    KeepsA b s₀ (execRunPersist a1 s) := by
  unfold execRunPersist
  repeat' first
    | with_reducible assumption
    | with_reducible refine KeepsA.next ?_
    | with_reducible refine dispatchRowT_keeps (fun t c ht => ?_) ?_ _ _ _ _ _ _
    | with_reducible refine runStart_keeps ?_ _

theorem rearmStart_keeps {b : Bool} {s₀ s : State} (h : Keeps b s₀ s) (a1) :
    Keeps b s₀ (rearmStart s a1) := by
  unfold rearmStart
  repeat' first
    | with_reducible assumption
    | with_reducible refine State.modCmd_keeps ?_ _ _
    | with_reducible refine State.modPersist_keeps ?_ _ _

theorem execRearm_keeps {b : Bool} {s₀ s : State} (h : Keeps b s₀ s) (a1) :
    KeepsA b s₀ (execRearm a1 s) := by
  unfold execRearm
  repeat' first
    | with_reducible assumption
    | with_reducible refine KeepsA.next ?_
    | with_reducible refine dispatchRow_keeps (fun t c ht => ?_) ?_ _ _ _ _
    | with_reducible refine rearmStart_keeps ?_ _
    | with_reducible refine KeepsA.ite ?_ ?_

theorem execRearmApply_keeps {b : Bool} {s₀ s : State} (h : Keeps b s₀ s) (a1) :
    KeepsA b s₀ (execRearmApply a1 s) := by
  unfold execRearmApply
  repeat' first
    | with_reducible assumption
    | with_reducible refine KeepsA.next ?_
    | with_reducible refine State.modPersist_keeps ?_ _ _
    | with_reducible refine State.bump_keeps ?_ _ _ _ _ _
    | with_reducible refine KeepsA.ite ?_ ?_
    | with_reducible refine Keeps.ite ?_ ?_
    | (fail_if_no_progress with_reducible refine Keeps.of_mk (Keeps.comps ?_))
    | dsimp only
    | split

theorem releaseStart_keeps {b : Bool} {s₀ s : State} (h : Keeps b s₀ s) (a1) :
    Keeps b s₀ (releaseStart s a1) := by
  unfold releaseStart
  repeat' first
    | with_reducible assumption
    | with_reducible refine State.modPersist_keeps ?_ _ _

theorem execRelease_keeps {b : Bool} {s₀ s : State} (h : Keeps b s₀ s) (a1) :
    KeepsA b s₀ (execRelease a1 s) := by
  unfold execRelease
  repeat' first
    | with_reducible assumption
    | with_reducible refine KeepsA.next ?_
    | with_reducible refine dispatchRow_keeps (fun t c ht => ?_) ?_ _ _ _ _
    | with_reducible refine releaseStart_keeps ?_ _

theorem execPersistentStreamRelease_keeps {b : Bool} {s₀ s : State} (h : Keeps b s₀ s) (a1) :
    KeepsA b s₀ (execPersistentStreamRelease a1 s) := by
  unfold execPersistentStreamRelease
  repeat' first
    | with_reducible assumption
    | with_reducible refine KeepsA.next ?_
    | with_reducible refine State.stirCluster_keeps ?_ _
    | with_reducible refine State.finishCmd_keeps ?_ _
    | with_reducible refine KeepsA.ite ?_ ?_
    | with_reducible refine Keeps.ite ?_ ?_
    | (fail_if_no_progress with_reducible refine Keeps.of_mk (Keeps.comps ?_))
    | dsimp only
    | split

theorem execCommandAdmission_keeps {b : Bool} {s₀ s : State} (h : Keeps b s₀ s) (a1) :
    KeepsA b s₀ (execCommandAdmission a1 s) := by
  unfold execCommandAdmission
  repeat' first
    | with_reducible assumption
    | with_reducible refine KeepsA.next ?_
    | with_reducible refine State.wantClusters_keeps ?_ _
    | with_reducible refine State.bind__keeps ?_ _ _ _
    | with_reducible refine State.modCmd_keeps ?_ _ _
    | with_reducible refine State.finishCmd_keeps ?_ _
    | with_reducible refine State.setResult_keeps ?_ _ _
    | with_reducible refine State.checkEnd_keeps ?_ _
    | with_reducible refine KeepsA.ite ?_ ?_
    | with_reducible refine Keeps.ite ?_ ?_
    | with_reducible refine Keeps.ite_fst ?_ ?_
    | with_reducible refine Keeps.of_fst ?_ (by assumption)
    | (fail_if_no_progress with_reducible refine Keeps.of_mk (Keeps.comps ?_))
    | dsimp only
    | split

theorem State.consume_keeps {b : Bool} {s₀ s : State} (h : Keeps b s₀ s) (a1) (a2) (a3) (a4) :
    Keeps b s₀ (State.consume s a1 a2 a3 a4) := by
  unfold State.consume
  repeat' first
    | with_reducible assumption
    | with_reducible refine State.modStream_keeps ?_ _ _ _
    | with_reducible refine State.modPersist_keeps ?_ _ _
    | with_reducible refine Keeps.ite ?_ ?_
    | (fail_if_no_progress with_reducible refine Keeps.of_mk (Keeps.comps ?_))
    | dsimp only
    | split

theorem State.failPersist_keeps {b : Bool} {s₀ s : State} (h : Keeps b s₀ s) (a1) (a2) :
    Keeps b s₀ (State.failPersist s a1 a2) := by
  unfold State.failPersist
  repeat' first
    | with_reducible assumption
    | with_reducible refine State.endCmd_keeps ?_ _ _
    | with_reducible refine Keeps.ite ?_ ?_
    | (with_reducible refine Keeps.foldl (fun t x ht => ?_) ?_)

theorem execHodRequestIssue_keeps {b : Bool} {s₀ s : State} (h : Keeps b s₀ s) (a1) (a2) :
    KeepsA b s₀ (execHodRequestIssue a1 a2 s) := by
  unfold execHodRequestIssue
  repeat' first
    | with_reducible assumption
    | with_reducible refine KeepsA.next ?_
    | with_reducible refine State.consume_keeps ?_ _ _ _ _
    | with_reducible refine State.failPersist_keeps ?_ _ _
    | with_reducible refine State.issueReq_keeps ?_ _ _ _ _ _
    | with_reducible refine KeepsA.ite ?_ ?_
    | with_reducible refine Keeps.ite ?_ ?_
    | (fail_if_no_progress with_reducible refine Keeps.of_mk (Keeps.comps ?_))
    | dsimp only
    | split

theorem State.persistEnd_keeps {b : Bool} {s₀ s : State} (h : Keeps b s₀ s) (a1) :
    Keeps b s₀ (State.persistEnd s a1) := by
  unfold State.persistEnd
  repeat' first
    | with_reducible assumption
    | with_reducible refine State.settleScales_keeps ?_ _ _ _
    | with_reducible refine State.modPersist_keeps ?_ _ _
    | with_reducible refine State.finishCmd_keeps ?_ _
    | with_reducible refine Keeps.ite ?_ ?_
    | (fail_if_no_progress with_reducible refine Keeps.of_mk (Keeps.comps ?_))
    | dsimp only
    | split

theorem State.feedOperand_keeps {b : Bool} {s₀ s : State} (h : Keeps b s₀ s) (a1) (a2) (a3) (a4) (a5) :
    Keeps b s₀ (State.feedOperand s a1 a2 a3 a4 a5) := by
  unfold State.feedOperand
  repeat' first
    | with_reducible assumption
    | with_reducible refine State.feed_keeps ?_ _ _ _ _
    | with_reducible refine Keeps.ite ?_ ?_

theorem State.afterLanding_keeps {b : Bool} {s₀ s : State} (h : Keeps b s₀ s) (a1) (a2) (a3) (a4) (a5) (a6) :
    Keeps b s₀ (State.afterLanding s a1 a2 a3 a4 a5 a6) := by
  unfold State.afterLanding
  repeat' first
    | with_reducible assumption
    | with_reducible refine State.handOn_keeps ?_ _ _ _
    | with_reducible refine State.persistEnd_keeps ?_ _
    | with_reducible refine State.modStream_keeps ?_ _ _ _
    | with_reducible refine State.feedOperand_keeps ?_ _ _ _ _ _
    | with_reducible refine State.form_keeps ?_ _ _
    | with_reducible refine State.loadBlocks_keeps ?_ _ _ _
    | with_reducible refine Keeps.ite ?_ ?_
    | with_reducible refine Keeps.ite_fst ?_ ?_
    | with_reducible refine Keeps.of_fst ?_ (by assumption)
    | (fail_if_no_progress with_reducible refine Keeps.of_mk (Keeps.comps ?_))
    | dsimp only
    | split

theorem execHodReadLanding_keeps {b : Bool} {s₀ s : State} (h : Keeps b s₀ s) (a1) (a2) :
    KeepsA b s₀ (execHodReadLanding a1 a2 s) := by
  unfold execHodReadLanding
  repeat' first
    | with_reducible assumption
    | with_reducible refine KeepsA.next ?_
    | with_reducible refine State.progress_keeps ?_ _
    | with_reducible refine State.modHod_keeps ?_ _ _ _
    | with_reducible refine State.sramError_keeps ?_ _ _
    | with_reducible refine State.failPersist_keeps ?_ _ _
    | with_reducible refine State.endCmd_keeps ?_ _ _
    | with_reducible refine State.modStream_keeps ?_ _ _ _
    | with_reducible refine State.checkEnd_keeps ?_ _
    | with_reducible refine State.afterLanding_keeps ?_ _ _ _ _ _ _
    | with_reducible refine KeepsA.ite ?_ ?_
    | with_reducible refine Keeps.ite ?_ ?_
    | with_reducible refine Keeps.ite_fst ?_ ?_
    | with_reducible refine Keeps.of_fst ?_ (by assumption)
    | (fail_if_no_progress with_reducible refine Keeps.of_mk (Keeps.comps ?_))
    | dsimp only
    | split

theorem execHodWriteAck_keeps {b : Bool} {s₀ s : State} (h : Keeps b s₀ s) (a1) :
    KeepsA b s₀ (execHodWriteAck a1 s) := by
  unfold execHodWriteAck
  repeat' first
    | with_reducible assumption
    | with_reducible refine KeepsA.next ?_
    | with_reducible refine State.progress_keeps ?_ _
    | with_reducible refine State.modHod_keeps ?_ _ _ _
    | with_reducible refine State.checkEnd_keeps ?_ _
    | with_reducible refine State.noteLate_keeps ?_ _ _
    | with_reducible refine KeepsA.ite ?_ ?_
    | with_reducible refine Keeps.ite ?_ ?_
    | (fail_if_no_progress with_reducible refine Keeps.of_mk (Keeps.comps ?_))
    | dsimp only
    | split

theorem execHodCompatWrite_keeps {b : Bool} {s₀ s : State} (h : Keeps b s₀ s) (a1) (a2) (a3) :
    KeepsA b s₀ (execHodCompatWrite a1 a2 a3 s) := by
  unfold execHodCompatWrite
  repeat' first
    | with_reducible assumption
    | with_reducible refine KeepsA.next ?_
    | with_reducible refine State.steeringWrite_keeps (fun t ht => ?_) ?_ _ _
    | with_reducible refine State.setRegFld_keeps ?_ _ _ _ _ _
    | with_reducible refine KeepsA.ite ?_ ?_

theorem execSentinelExpiry_keeps {b : Bool} {s₀ s : State} (h : Keeps b s₀ s) (a1) (a2) (a3) :
    KeepsA b s₀ (execSentinelExpiry a1 a2 a3 s) := by
  unfold execSentinelExpiry
  repeat' first
    | with_reducible assumption
    | with_reducible refine KeepsA.next ?_
    | with_reducible refine State.at__keeps ?_ _
    | with_reducible refine State.progress_keeps ?_ _
    | with_reducible refine State.modCluster_keeps ?_ _ _
    | with_reducible refine State.endCmd_keeps ?_ _ _
    | with_reducible refine State.raise__keeps ?_ _ _ _
    | with_reducible refine State.bump_keeps ?_ _ _ _ _ _
    | with_reducible refine KeepsA.ite ?_ ?_
    | with_reducible refine Keeps.ite ?_ ?_
    | (fail_if_no_progress with_reducible refine Keeps.of_mk (Keeps.comps ?_))
    | dsimp only
    | split

end Sys2Proof.Machine
end

