-- ==== Sys2Proof/Laws/Keeps/LedgerOps.lean ====
section
/-! SUPPORT. What the operations of Machine/LedgerOps.lean keep. -/

namespace Sys2Proof.Machine

theorem State.ledgerAbandon_keeps {b : Bool} {s₀ s : State} (h : Keeps b s₀ s) (a1) (a2) :
    Keeps b s₀ (State.ledgerAbandon s a1 a2) := by
  unfold State.ledgerAbandon
  repeat' first
    | with_reducible assumption
    | with_reducible refine State.raise__keeps ?_ _ _ _
    | with_reducible refine State.modLedger_keeps ?_ _ _

theorem State.ledgerPut_keeps {b : Bool} {s₀ s : State} (h : Keeps b s₀ s) (a1) (a2) (a3) :
    Keeps b s₀ (State.ledgerPut s a1 a2 a3) := by
  unfold State.ledgerPut
  repeat' first
    | with_reducible assumption
    | with_reducible refine State.ledgerAbandon_keeps ?_ _ _
    | with_reducible refine State.wideAt_keeps ?_ _ _ _
    | with_reducible refine Keeps.ite ?_ ?_

theorem State.ledgerWrite_keeps {b : Bool} {s₀ s : State} (h : Keeps b s₀ s) (a1) (a2) (a3) :
    Keeps b s₀ (State.ledgerWrite s a1 a2 a3) := by
  unfold State.ledgerWrite
  repeat' first
    | with_reducible assumption
    | with_reducible refine State.ledgerAbandon_keeps ?_ _ _
    | with_reducible refine State.ledgerPut_keeps ?_ _ _ _
    | with_reducible refine State.modLedger_keeps ?_ _ _
    | with_reducible refine State.queueFetch_keeps ?_ _ _ _ _
    | with_reducible refine Keeps.ite ?_ ?_
    | (with_reducible refine Keeps.foldl (fun t x ht => ?_) ?_)

theorem State.ledgerDrain_keeps {b : Bool} {s₀ s : State} (h : Keeps b s₀ s) (a1) (a2) :
    Keeps b s₀ (State.ledgerDrain s a1 a2) := by
  induction a2 generalizing s a1 with
  | zero =>
    unfold State.ledgerDrain
    repeat' first
      | with_reducible assumption
  | succ n ih =>
    unfold State.ledgerDrain
    repeat' first
      | with_reducible assumption
      | with_reducible refine ih ?_ _
      | with_reducible refine State.modLedger_keeps ?_ _ _
      | with_reducible refine State.ledgerPut_keeps ?_ _ _ _
      | with_reducible refine Keeps.ite ?_ ?_
      | (fail_if_no_progress with_reducible refine Keeps.of_mk (Keeps.comps ?_))
      | dsimp only
      | split

theorem State.ledgerExpire_keeps {b : Bool} {s₀ s : State} (h : Keeps b s₀ s) (a1) :
    Keeps b s₀ (State.ledgerExpire s a1) := by
  unfold State.ledgerExpire
  repeat' first
    | with_reducible assumption
    | with_reducible refine State.ledgerAbandon_keeps ?_ _ _
    | with_reducible refine Keeps.ite ?_ ?_
    | (fail_if_no_progress with_reducible refine Keeps.of_mk (Keeps.comps ?_))
    | dsimp only
    | split

theorem State.ledgerWrap_keeps {b : Bool} {s₀ s : State} (h : Keeps b s₀ s) (a1) (a2) (a3) :
    Keeps b s₀ (State.ledgerWrap s a1 a2 a3) := by
  unfold State.ledgerWrap
  repeat' first
    | with_reducible assumption
    | with_reducible refine State.raise__keeps ?_ _ _ _
    | with_reducible refine Keeps.ite ?_ ?_

theorem State.ledgerAppend_keeps {b : Bool} {s₀ s : State} (h : Keeps b s₀ s) (a1) (a2) :
    Keeps b s₀ (State.ledgerAppend s a1 a2) := by
  unfold State.ledgerAppend
  repeat' first
    | with_reducible assumption
    | with_reducible refine State.ledgerWrap_keeps ?_ _ _ _
    | with_reducible refine State.modLedger_keeps ?_ _ _
    | with_reducible refine State.ledgerWrite_keeps ?_ _ _ _
    | with_reducible refine Keeps.ite ?_ ?_
    | (fail_if_no_progress with_reducible refine Keeps.of_mk (Keeps.comps ?_))
    | dsimp only
    | split

theorem State.ledgerOpen_keeps {b : Bool} {s₀ s : State} (h : Keeps b s₀ s) (a1) :
    Keeps b s₀ (State.ledgerOpen s a1) := by
  unfold State.ledgerOpen
  repeat' first
    | with_reducible assumption
    | with_reducible refine State.ledgerWrap_keeps ?_ _ _ _
    | with_reducible refine State.modLedger_keeps ?_ _ _
    | with_reducible refine Keeps.ite ?_ ?_

theorem State.ledgerClose_keeps {b : Bool} {s₀ s : State} (h : Keeps b s₀ s) (a1) :
    Keeps b s₀ (State.ledgerClose s a1) := by
  unfold State.ledgerClose
  repeat' first
    | with_reducible assumption
    | with_reducible refine State.ledgerWrite_keeps ?_ _ _ _
    | with_reducible refine State.modLedger_keeps ?_ _ _
    | with_reducible refine Keeps.ite ?_ ?_
    | (fail_if_no_progress with_reducible refine Keeps.of_mk (Keeps.comps ?_))
    | dsimp only
    | split

theorem State.ledgerTrace_keeps {b : Bool} {s₀ s : State} (h : Keeps b s₀ s) (a1) (a2) :
    Keeps b s₀ (State.ledgerTrace s a1 a2) := by
  unfold State.ledgerTrace
  repeat' first
    | with_reducible assumption
    | with_reducible refine State.ledgerAppend_keeps ?_ _ _
    | with_reducible refine Keeps.ite ?_ ?_

theorem State.ledgerColl_keeps {b : Bool} {s₀ s : State} (h : Keeps b s₀ s) (a1) (a2) :
    Keeps b s₀ (State.ledgerColl s a1 a2) := by
  unfold State.ledgerColl
  repeat' first
    | with_reducible assumption
    | with_reducible refine State.ledgerAppend_keeps ?_ _ _
    | with_reducible refine State.modLedger_keeps ?_ _ _

end Sys2Proof.Machine
end

