-- ==== Sys2Proof/Laws/Keeps/Guards.lean ====
section
/-! SUPPORT. What the operations of Machine/Guards.lean keep. -/

namespace Sys2Proof.Machine

theorem execQgSeedWrite_keeps {b : Bool} {s₀ s : State} (h : Keeps b s₀ s) (a1) (a2) (a3) :
    KeepsA b s₀ (execQgSeedWrite a1 a2 a3 s) := by
  unfold execQgSeedWrite
  repeat' first
    | with_reducible assumption
    | with_reducible refine KeepsA.next ?_
    | with_reducible refine State.onWrite_keeps (fun t ht => ?_) ?_ _ _
    | with_reducible refine State.setReg_keeps ?_ _ _ _
    | with_reducible refine KeepsA.ite ?_ ?_

theorem execQgKeyClear_keeps {b : Bool} {s₀ s : State} (h : Keeps b s₀ s) (a1) (a2) (a3) :
    KeepsA b s₀ (execQgKeyClear a1 a2 a3 s) := by
  unfold execQgKeyClear
  repeat' first
    | with_reducible assumption
    | with_reducible refine KeepsA.next ?_
    | with_reducible refine State.onWrite_keeps (fun t ht => ?_) ?_ _ _
    | with_reducible refine State.setReg_keeps ?_ _ _ _
    | with_reducible refine KeepsA.ite ?_ ?_
    | with_reducible refine Keeps.ite ?_ ?_

theorem execGuardConfigWrite_keeps {b : Bool} {s₀ s : State} (h : Keeps b s₀ s) (a1) (a2) (a3) :
    KeepsA b s₀ (execGuardConfigWrite a1 a2 a3 s) := by
  unfold execGuardConfigWrite
  repeat' first
    | with_reducible assumption
    | with_reducible refine KeepsA.next ?_
    | with_reducible refine State.modGuard_keeps ?_ _ _ _
    | with_reducible refine State.steerTrap_keeps ?_ _
    | with_reducible refine KeepsA.ite ?_ ?_
    | with_reducible refine Keeps.ite ?_ ?_
    | (with_reducible refine Keeps.foldl (fun t x ht => ?_) ?_)
    | (with_reducible refine Keeps.foldl_fst (fun t x ht => ?_) ?_)
    | (fail_if_no_progress with_reducible refine Keeps.of_mk (Keeps.comps ?_))
    | dsimp only
    | split

theorem stepStart_keeps {b : Bool} {s₀ s : State} (h : Keeps b s₀ s) (a1) (a2) :
    Keeps b s₀ (stepStart a1 s a2) := by
  unfold stepStart
  repeat' first
    | with_reducible assumption
    | with_reducible refine State.ledgerClose_keeps ?_ _
    | with_reducible refine State.notice_keeps ?_ _ _ _ _
    | with_reducible refine State.setReg_keeps ?_ _ _ _
    | with_reducible refine State.modCmd_keeps ?_ _ _
    | with_reducible refine State.modLedger_keeps ?_ _ _
    | with_reducible refine State.ledgerOpen_keeps ?_ _
    | with_reducible refine Keeps.ite ?_ ?_
    | (fail_if_no_progress with_reducible refine Keeps.of_mk (Keeps.comps ?_))
    | dsimp only
    | split

theorem execStepBegin_keeps {b : Bool} {s₀ s : State} (h : Keeps b s₀ s) (a1) (a2) :
    KeepsA b s₀ (execStepBegin a1 a2 s) := by
  unfold execStepBegin
  repeat' first
    | with_reducible assumption
    | with_reducible refine KeepsA.next ?_
    | with_reducible refine dispatchRow_keeps (fun t c ht => ?_) ?_ _ _ _ _
    | with_reducible refine stepStart_keeps ?_ _ _

theorem execGuardHistoryPush_keeps {b : Bool} {s₀ s : State} (h : Keeps b s₀ s) (a1) :
    KeepsA b s₀ (execGuardHistoryPush a1 s) := by
  unfold execGuardHistoryPush
  repeat' first
    | with_reducible assumption
    | with_reducible refine KeepsA.next ?_
    | with_reducible refine State.modGuard_keeps ?_ _ _ _
    | with_reducible refine State.guardEvent_keeps ?_ _ _ _
    | with_reducible refine State.finishCmd_keeps ?_ _
    | with_reducible refine State.modLedger_keeps ?_ _ _
    | with_reducible refine KeepsA.ite ?_ ?_
    | with_reducible refine Keeps.ite ?_ ?_
    | (with_reducible refine Keeps.foldr (fun t x ht => ?_) ?_)
    | (fail_if_no_progress with_reducible refine Keeps.of_mk (Keeps.comps ?_))
    | dsimp only
    | split

theorem execTileAudit_keeps {b : Bool} {s₀ s : State} (h : Keeps b s₀ s) (a1) :
    KeepsA b s₀ (execTileAudit a1 s) := by
  unfold execTileAudit
  repeat' first
    | with_reducible assumption
    | with_reducible refine KeepsA.next ?_
    | with_reducible refine State.modGuard_keeps ?_ _ _ _
    | with_reducible refine State.guardEvent_keeps ?_ _ _ _
    | with_reducible refine KeepsA.ite ?_ ?_
    | with_reducible refine Keeps.ite ?_ ?_
    | (with_reducible refine Keeps.foldl (fun t x ht => ?_) ?_)
    | (with_reducible refine Keeps.foldl_fst (fun t x ht => ?_) ?_)
    | (fail_if_no_progress with_reducible refine Keeps.of_mk (Keeps.comps ?_))
    | dsimp only
    | split

end Sys2Proof.Machine
end

