-- ==== Sys2Proof/Laws/Keeps/HbmOps.lean ====
section
/-! SUPPORT. What the operations of Machine/HbmOps.lean keep. -/

namespace Sys2Proof.Machine

theorem State.denyUnit_keeps {b : Bool} {s₀ s : State} (h : Keeps b s₀ s) (a1) (a2) :
    Keeps b s₀ (State.denyUnit s a1 a2) := by
  unfold State.denyUnit
  repeat' first
    | with_reducible assumption
    | with_reducible refine State.modChan_keeps ?_ _ _
    | with_reducible refine State.modCmd_keeps ?_ _ _
    | with_reducible refine State.noteLate_keeps ?_ _ _
    | with_reducible refine State.stirGroup_keeps ?_ _
    | with_reducible refine State.raise__keeps ?_ _ _ _
    | with_reducible refine State.finishCmd_keeps ?_ _
    | with_reducible refine Keeps.ite ?_ ?_
    | (fail_if_no_progress with_reducible refine Keeps.of_mk (Keeps.comps ?_))
    | dsimp only
    | split

theorem State.startMove_keeps {b : Bool} {s₀ s : State} (h : Keeps b s₀ s) (a1) :
    Keeps b s₀ (State.startMove s a1) := by
  unfold State.startMove
  repeat' first
    | with_reducible assumption
    | with_reducible refine State.modTier_keeps ?_ _ _
    | with_reducible refine State.modChan_keeps ?_ _ _
    | with_reducible refine State.denyUnit_keeps ?_ _ _
    | with_reducible refine State.noteHealth_keeps ?_ _ _
    | with_reducible refine State.countFault_keeps ?_ _
    | with_reducible refine State.raise__keeps ?_ _ _ _
    | with_reducible refine Keeps.ite ?_ ?_
    | (with_reducible refine Keeps.foldl (fun t x ht => ?_) ?_)

theorem State.retireChan_keeps {b : Bool} {s₀ s : State} (h : Keeps b s₀ s) (a1) :
    Keeps b s₀ (State.retireChan s a1) := by
  unfold State.retireChan
  repeat' first
    | with_reducible assumption
    | with_reducible refine State.startMove_keeps ?_ _
    | with_reducible refine Keeps.ite ?_ ?_
    | (fail_if_no_progress with_reducible refine Keeps.of_mk (Keeps.comps ?_))

theorem State.loseFrom_keeps {b : Bool} {s₀ s : State} (h : Keeps b s₀ s) (a1) (a2) :
    Keeps b s₀ (State.loseFrom s a1 a2) := by
  unfold State.loseFrom
  exact (State.modChan_keeps h a1 _).setPoison (SMap.wf_dropKeys _ _ _)

theorem State.moveGranule_keeps {b : Bool} {s₀ s : State} (h : Keeps b s₀ s) (a1) :
    Keeps b s₀ (State.moveGranule s a1) := by
  unfold State.moveGranule
  repeat' first
    | with_reducible assumption
    | with_reducible refine State.modChan_keeps ?_ _ _
    | with_reducible refine State.modTier_keeps ?_ _ _
    | with_reducible refine State.poolLow_keeps ?_ _ _
    | with_reducible refine State.loseFrom_keeps ?_ _ _
    | with_reducible refine Keeps.ite ?_ ?_
    | (fail_if_no_progress with_reducible refine Keeps.of_mk (Keeps.comps ?_))
    | dsimp only
    | split

theorem State.startCopy_keeps {b : Bool} {s₀ s : State} (h : Keeps b s₀ s) (a1) (a2) (a3) :
    Keeps b s₀ (State.startCopy s a1 a2 a3) := by
  unfold State.startCopy
  repeat' first
    | with_reducible assumption
    | with_reducible refine State.retireChan_keeps ?_ _
    | with_reducible refine State.modChan_keeps ?_ _ _
    | with_reducible refine State.raise__keeps ?_ _ _ _
    | with_reducible refine Keeps.ite ?_ ?_

theorem State.countRow_keeps {b : Bool} {s₀ s : State} (h : Keeps b s₀ s) (a1) (a2) (a3) :
    Keeps b s₀ (State.countRow s a1 a2 a3) := by
  unfold State.countRow
  repeat' first
    | with_reducible assumption
    | with_reducible refine State.modChan_keeps ?_ _ _
    | with_reducible refine State.countFault_keeps ?_ _
    | with_reducible refine State.startCopy_keeps ?_ _ _ _
    | with_reducible refine Keeps.ite ?_ ?_

theorem State.laneFault_keeps {b : Bool} {s₀ s : State} (h : Keeps b s₀ s) (a1) (a2) :
    Keeps b s₀ (State.laneFault s a1 a2) := by
  unfold State.laneFault
  repeat' first
    | with_reducible assumption
    | with_reducible refine State.retireChan_keeps ?_ _
    | with_reducible refine State.modChan_keeps ?_ _ _
    | with_reducible refine State.noteHealth_keeps ?_ _ _
    | with_reducible refine State.raise__keeps ?_ _ _ _
    | with_reducible refine State.countFault_keeps ?_ _
    | with_reducible refine Keeps.ite ?_ ?_

theorem State.corrected_keeps {b : Bool} {s₀ s : State} (h : Keeps b s₀ s) (a1) (a2) (a3) :
    Keeps b s₀ (State.corrected s a1 a2 a3) := by
  unfold State.corrected
  repeat' first
    | with_reducible assumption
    | with_reducible refine State.countUpset_keeps ?_ _
    | with_reducible refine State.modChan_keeps ?_ _ _
    | with_reducible refine State.laneFault_keeps ?_ _ _
    | with_reducible refine State.countRow_keeps ?_ _ _ _
    | with_reducible refine Keeps.ite ?_ ?_

theorem State.uncorrected_keeps {b : Bool} {s₀ s : State} (h : Keeps b s₀ s) (a1) (a2) :
    Keeps b s₀ (State.uncorrected s a1 a2) := by
  unfold State.uncorrected
  repeat' first
    | with_reducible assumption
    | with_reducible refine State.setPoison_keeps ?_ _ _
    | with_reducible refine State.modChan_keeps ?_ _ _
    | with_reducible refine State.raise__keeps ?_ _ _ _
    | with_reducible refine State.countFault_keeps ?_ _

theorem State.uncorrectable_keeps {b : Bool} {s₀ s : State} (h : Keeps b s₀ s) (a1) (a2) :
    Keeps b s₀ (State.uncorrectable s a1 a2) := by
  unfold State.uncorrectable
  repeat' first
    | with_reducible assumption
    | with_reducible refine State.modChan_keeps ?_ _ _
    | with_reducible refine State.uncorrected_keeps ?_ _ _

theorem State.checkAccess_keeps {b : Bool} {s₀ s : State} (h : Keeps b s₀ s) (a1) (a2) (a3) :
    Keeps b s₀ (State.checkAccess s a1 a2 a3) := by
  unfold State.checkAccess
  repeat' first
    | with_reducible assumption
    | with_reducible refine State.uncorrectable_keeps ?_ _ _
    | with_reducible refine State.corrected_keeps ?_ _ _ _
    | with_reducible refine Keeps.ite ?_ ?_
    | (fail_if_no_progress with_reducible refine Keeps.of_mk (Keeps.comps ?_))
    | dsimp only
    | split

theorem State.checkReads_keeps {b : Bool} {s₀ s : State} (h : Keeps b s₀ s) (a1) (a2) (a3) (a4) :
    Keeps b s₀ (State.checkReads s a1 a2 a3 a4) := by
  induction a2 generalizing s a1 a3 a4 with
  | zero =>
    unfold State.checkReads
    repeat' first
      | with_reducible assumption
  | succ n ih =>
    unfold State.checkReads
    repeat' first
      | with_reducible assumption
      | with_reducible refine ih ?_ _ _ _
      | with_reducible refine State.checkAccess_keeps ?_ _ _ _
      | with_reducible refine Keeps.ite ?_ ?_

theorem State.pace_keeps {b : Bool} {s₀ s : State} (h : Keeps b s₀ s) (a1) (a2) :
    Keeps b s₀ (State.pace s a1 a2) := by
  unfold State.pace
  repeat' first
    | with_reducible assumption
    | with_reducible refine State.modChan_keeps ?_ _ _
    | with_reducible refine Keeps.ite ?_ ?_

theorem State.modReq_keeps {b : Bool} {s₀ s : State} (h : Keeps b s₀ s) (a1) (a2) :
    Keeps b s₀ (State.modReq s a1 a2) := by
  unfold State.modReq
  repeat' first
    | with_reducible assumption
    | with_reducible refine Keeps.ite ?_ ?_
    | (fail_if_no_progress with_reducible refine Keeps.of_mk (Keeps.comps ?_))

theorem State.readKey_keeps {b : Bool} {s₀ s : State} (h : Keeps b s₀ s) (a1) (a2) (a3) :
    Keeps b s₀ (State.readKey s a1 a2 a3).1 := by
  unfold State.readKey
  repeat' first
    | with_reducible assumption
    | with_reducible refine State.countFresh_keeps ?_ _
    | with_reducible refine State.checkReads_keeps ?_ _ _ _ _
    | with_reducible refine Keeps.ite ?_ ?_
    | with_reducible refine Keeps.ite_fst ?_ ?_

theorem State.checkRmw_keeps {b : Bool} {s₀ s : State} (h : Keeps b s₀ s) (a1) (a2) (a3) :
    Keeps b s₀ (State.checkRmw s a1 a2 a3) := by
  unfold State.checkRmw
  repeat' first
    | with_reducible assumption
    | with_reducible refine State.checkReads_keeps ?_ _ _ _ _
    | with_reducible refine Keeps.ite ?_ ?_

end Sys2Proof.Machine
end

