-- ==== Sys2Proof/Laws/Keeps/WinOps.lean ====
section
/-! SUPPORT. What the operations of Machine/WinOps.lean keep. -/

namespace Sys2Proof.Machine

theorem State.fenceWin_keeps {b : Bool} {s₀ s : State} (h : Keeps b s₀ s) (a1) (a2) :
    Keeps b s₀ (State.fenceWin s a1 a2) := by
  unfold State.fenceWin
  repeat' first
    | with_reducible assumption
    | with_reducible refine State.raise__keeps ?_ _ _ _
    | with_reducible refine State.setRegFld_keeps ?_ _ _ _ _ _
    | with_reducible refine State.bump_keeps ?_ _ _ _ _ _
    | with_reducible refine State.emit_keeps ?_ _
    | with_reducible refine Keeps.ite ?_ ?_
    | (fail_if_no_progress with_reducible refine Keeps.of_mk (Keeps.comps ?_))
    | dsimp only
    | split

theorem State.winReadKey_keeps {b : Bool} {s₀ s : State} (h : Keeps b s₀ s) (a1) (a2) (a3) :
    Keeps b s₀ (State.winReadKey s a1 a2 a3) := by
  unfold State.winReadKey
  repeat' first
    | with_reducible assumption
    | with_reducible refine State.readKey_keeps ?_ _ _ _
    | with_reducible refine State.raise__keeps ?_ _ _ _
    | with_reducible refine State.emit_keeps ?_ _
    | with_reducible refine Keeps.ite ?_ ?_

theorem State.winWriteKey_keeps {b : Bool} {s₀ s : State} (h : Keeps b s₀ s) (a1) (a2) (a3) :
    Keeps b s₀ (State.winWriteKey s a1 a2 a3) := by
  unfold State.winWriteKey
  repeat' first
    | with_reducible assumption
    | with_reducible refine State.wideAt_keeps ?_ _ _ _
    | with_reducible refine State.raise__keeps ?_ _ _ _
    | with_reducible refine Keeps.ite ?_ ?_

theorem State.serveWin_keeps {b : Bool} {s₀ s : State} (h : Keeps b s₀ s) (a1) (a2) :
    Keeps b s₀ (State.serveWin s a1 a2).1 := by
  unfold State.serveWin
  repeat' first
    | with_reducible assumption
    | with_reducible refine State.emit_keeps ?_ _
    | with_reducible refine State.sendOpen_keeps ?_ _ _ _
    | with_reducible refine State.queueFetch_keeps ?_ _ _ _ _
    | with_reducible refine State.useAt_keeps ?_ _ _
    | with_reducible refine State.pace_keeps ?_ _ _
    | with_reducible refine State.winReadKey_keeps ?_ _ _ _
    | with_reducible refine State.winWriteKey_keeps ?_ _ _ _
    | with_reducible refine Keeps.ite ?_ ?_
    | (with_reducible refine Keeps.foldl (fun t x ht => ?_) ?_)
    | (with_reducible refine Keeps.foldl_fst (fun t x ht => ?_) ?_)
    | with_reducible refine Keeps.ite_fst ?_ ?_
    | with_reducible refine Keeps.of_fst ?_ (by assumption)
    | (fail_if_no_progress with_reducible refine Keeps.of_mk (Keeps.comps ?_))
    | dsimp only
    | split

theorem State.flushWins_keeps {b : Bool} {s₀ s : State} (h : Keeps b s₀ s) :
    Keeps b s₀ (State.flushWins s) := by
  unfold State.flushWins
  repeat' first
    | with_reducible assumption
    | with_reducible refine State.serveWin_keeps ?_ _ _
    | with_reducible refine Keeps.ite ?_ ?_
    | (with_reducible refine Keeps.foldl (fun t x ht => ?_) ?_)
    | (with_reducible refine Keeps.foldl_fst (fun t x ht => ?_) ?_)
    | with_reducible refine Keeps.ite_fst ?_ ?_
    | with_reducible refine Keeps.of_fst ?_ (by assumption)
    | (fail_if_no_progress with_reducible refine Keeps.of_mk (Keeps.comps ?_))

theorem State.windowAccess_keeps {b : Bool} {s₀ s : State} (h : Keeps b s₀ s) (a1) (a2) (a3) (a4) (a5) :
    Keeps b s₀ (State.windowAccess s a1 a2 a3 a4 a5) := by
  unfold State.windowAccess
  repeat' first
    | with_reducible assumption
    | with_reducible refine State.emit_keeps ?_ _
    | with_reducible refine State.fenceWin_keeps ?_ _ _
    | with_reducible refine State.bump_keeps ?_ _ _ _ _ _
    | with_reducible refine State.serveWin_keeps ?_ _ _
    | with_reducible refine Keeps.ite ?_ ?_
    | with_reducible refine Keeps.ite_fst ?_ ?_
    | with_reducible refine Keeps.of_fst ?_ (by assumption)
    | (fail_if_no_progress with_reducible refine Keeps.of_mk (Keeps.comps ?_))

end Sys2Proof.Machine
end

