-- ==== Sys2Proof/Laws/Keeps/Hbm.lean ====
section
/-! SUPPORT. What the operations of Machine/Hbm.lean keep. -/

namespace Sys2Proof.Machine

theorem State.countNarrow_keeps {b : Bool} {s₀ s : State} (h : Keeps b s₀ s) (a1) (a2) :
    Keeps b s₀ (State.countNarrow s a1 a2) := by
  unfold State.countNarrow
  repeat' first
    | with_reducible assumption
    | with_reducible refine State.modStack_keeps ?_ _ _
    | with_reducible refine Keeps.ite ?_ ?_

theorem State.serveRead_keeps {b : Bool} {s₀ s : State} (h : Keeps b s₀ s) (a1) (a2) :
    Keeps b s₀ (State.serveRead s a1 a2) := by
  unfold State.serveRead
  repeat' first
    | with_reducible assumption
    | with_reducible refine State.countNarrow_keeps ?_ _ _
    | with_reducible refine State.pace_keeps ?_ _ _
    | with_reducible refine State.readKey_keeps ?_ _ _ _
    | with_reducible refine State.modReq_keeps ?_ _ _
    | with_reducible refine Keeps.ite ?_ ?_
    | with_reducible refine Keeps.ite_fst ?_ ?_
    | with_reducible refine Keeps.of_fst ?_ (by assumption)
    | (fail_if_no_progress with_reducible refine Keeps.of_mk (Keeps.comps ?_))
    | dsimp only
    | split

theorem execHbmWideRead_keeps {b : Bool} {s₀ s : State} (h : Keeps b s₀ s) (a1) (a2) :
    KeepsA b s₀ (execHbmWideRead a1 a2 s) := by
  unfold execHbmWideRead
  repeat' first
    | with_reducible assumption
    | with_reducible refine KeepsA.next ?_
    | with_reducible refine State.serveRead_keeps ?_ _ _
    | with_reducible refine KeepsA.ite ?_ ?_
    | with_reducible refine Keeps.ite ?_ ?_
    | (fail_if_no_progress with_reducible refine Keeps.of_mk (Keeps.comps ?_))
    | dsimp only
    | split

theorem execHbmNarrowRead_keeps {b : Bool} {s₀ s : State} (h : Keeps b s₀ s) (a1) (a2) :
    KeepsA b s₀ (execHbmNarrowRead a1 a2 s) := by
  unfold execHbmNarrowRead
  repeat' first
    | with_reducible assumption
    | with_reducible refine KeepsA.next ?_
    | with_reducible refine State.serveRead_keeps ?_ _ _
    | with_reducible refine KeepsA.ite ?_ ?_
    | with_reducible refine Keeps.ite ?_ ?_
    | (fail_if_no_progress with_reducible refine Keeps.of_mk (Keeps.comps ?_))
    | dsimp only
    | split

theorem execHbmWideWrite_keeps {b : Bool} {s₀ s : State} (h : Keeps b s₀ s) (a1) :
    KeepsA b s₀ (execHbmWideWrite a1 s) := by
  unfold execHbmWideWrite
  repeat' first
    | with_reducible assumption
    | with_reducible refine KeepsA.next ?_
    | with_reducible refine State.pace_keeps ?_ _ _
    | with_reducible refine State.wideAt_keeps ?_ _ _ _
    | with_reducible refine State.noteWrite_keeps ?_ _ _ _ _
    | with_reducible refine State.modReq_keeps ?_ _ _
    | with_reducible refine KeepsA.ite ?_ ?_
    | with_reducible refine Keeps.ite ?_ ?_
    | with_reducible refine Keeps.ite_fst ?_ ?_
    | with_reducible refine Keeps.of_fst ?_ (by assumption)
    | (fail_if_no_progress with_reducible refine Keeps.of_mk (Keeps.comps ?_))
    | dsimp only
    | split

theorem execHbmNarrowWrite_keeps {b : Bool} {s₀ s : State} (h : Keeps b s₀ s) (a1) (a2) :
    KeepsA b s₀ (execHbmNarrowWrite a1 a2 s) := by
  unfold execHbmNarrowWrite
  repeat' first
    | with_reducible assumption
    | with_reducible refine KeepsA.next ?_
    | with_reducible refine State.checkRmw_keeps ?_ _ _ _
    | with_reducible refine State.countNarrow_keeps ?_ _ _
    | with_reducible refine State.pace_keeps ?_ _ _
    | with_reducible refine State.narrowAt_keeps ?_ _ _ _
    | with_reducible refine State.noteWrite_keeps ?_ _ _ _ _
    | with_reducible refine State.modReq_keeps ?_ _ _
    | with_reducible refine KeepsA.ite ?_ ?_
    | with_reducible refine Keeps.ite ?_ ?_
    | with_reducible refine Keeps.ite_fst ?_ ?_
    | with_reducible refine Keeps.of_fst ?_ (by assumption)
    | (fail_if_no_progress with_reducible refine Keeps.of_mk (Keeps.comps ?_))
    | dsimp only
    | split

theorem State.addPart_keeps {b : Bool} {s₀ s : State} (h : Keeps b s₀ s) (a1) (a2) (a3) :
    Keeps b s₀ (State.addPart s a1 a2 a3).1 := by
  unfold State.addPart
  repeat' first
    | with_reducible assumption
    | with_reducible refine State.dirtyAt_keeps ?_ _ _
    | with_reducible refine State.poke_keeps ?_ _ _
    | with_reducible refine Keeps.ite ?_ ?_
    | with_reducible refine Keeps.ite_fst ?_ ?_

theorem State.addAll_keeps {b : Bool} {s₀ s : State} (h : Keeps b s₀ s) (a1) (a2) (a3) :
    Keeps b s₀ (State.addAll s a1 a2 a3).1 := by
  unfold State.addAll
  repeat' first
    | with_reducible assumption
    | with_reducible refine State.addPart_keeps ?_ _ _ _
    | with_reducible refine Keeps.ite ?_ ?_
    | (with_reducible refine Keeps.foldl (fun t x ht => ?_) ?_)
    | (with_reducible refine Keeps.foldl_fst (fun t x ht => ?_) ?_)

theorem execAddWrite_keeps {b : Bool} {s₀ s : State} (h : Keeps b s₀ s) (a1) (a2) :
    KeepsA b s₀ (execAddWrite a1 a2 s) := by
  unfold execAddWrite
  repeat' first
    | with_reducible assumption
    | with_reducible refine KeepsA.next ?_
    | with_reducible refine State.checkRmw_keeps ?_ _ _ _
    | with_reducible refine State.countNarrow_keeps ?_ _ _
    | with_reducible refine State.pace_keeps ?_ _ _
    | with_reducible refine State.addAll_keeps ?_ _ _ _
    | with_reducible refine State.noteWrite_keeps ?_ _ _ _ _
    | with_reducible refine State.addFlags_keeps ?_ _ _
    | with_reducible refine State.modReq_keeps ?_ _ _
    | with_reducible refine KeepsA.ite ?_ ?_
    | with_reducible refine Keeps.ite ?_ ?_
    | with_reducible refine Keeps.ite_fst ?_ ?_
    | with_reducible refine Keeps.of_fst ?_ (by assumption)
    | (fail_if_no_progress with_reducible refine Keeps.of_mk (Keeps.comps ?_))
    | dsimp only
    | split

theorem execRowRemapEnd_keeps {b : Bool} {s₀ s : State} (h : Keeps b s₀ s) (a1) (a2) (a3) (a4) :
    KeepsA b s₀ (execRowRemapEnd a1 a2 a3 a4 s) := by
  unfold execRowRemapEnd
  repeat' first
    | with_reducible assumption
    | with_reducible refine KeepsA.next ?_
    | with_reducible refine State.modChan_keeps ?_ _ _
    | with_reducible refine State.uncorrected_keeps ?_ _ _
    | with_reducible refine State.raise__keeps ?_ _ _ _
    | with_reducible refine State.flushWins_keeps ?_
    | with_reducible refine State.startCopy_keeps ?_ _ _ _
    | with_reducible refine KeepsA.ite ?_ ?_
    | with_reducible refine Keeps.ite ?_ ?_
    | (with_reducible refine Keeps.foldl (fun t x ht => ?_) ?_)
    | (with_reducible refine Keeps.foldl_fst (fun t x ht => ?_) ?_)
    | (fail_if_no_progress with_reducible refine Keeps.of_mk (Keeps.comps ?_))
    | dsimp only
    | split

theorem execScrubRead_keeps {b : Bool} {s₀ s : State} (h : Keeps b s₀ s) (a1) (a2) (a3) :
    KeepsA b s₀ (execScrubRead a1 a2 a3 s) := by
  unfold execScrubRead
  repeat' first
    | with_reducible assumption
    | with_reducible refine KeepsA.next ?_
    | with_reducible refine State.modChan_keeps ?_ _ _
    | with_reducible refine State.checkReads_keeps ?_ _ _ _ _
    | with_reducible refine KeepsA.ite ?_ ?_

theorem execRemapFlashCopy_keeps {b : Bool} {s₀ s : State} (h : Keeps b s₀ s) (a1) :
    KeepsA b s₀ (execRemapFlashCopy a1 s) := by
  unfold execRemapFlashCopy
  repeat' first
    | with_reducible assumption
    | with_reducible refine KeepsA.next ?_
    | with_reducible refine State.modChan_keeps ?_ _ _
    | with_reducible refine KeepsA.ite ?_ ?_
    | with_reducible refine Keeps.ite ?_ ?_
    | (fail_if_no_progress with_reducible refine Keeps.of_mk (Keeps.comps ?_))

theorem execGranuleMoved_keeps {b : Bool} {s₀ s : State} (h : Keeps b s₀ s) (a1) :
    KeepsA b s₀ (execGranuleMoved a1 s) := by
  unfold execGranuleMoved
  repeat' first
    | with_reducible assumption
    | with_reducible refine KeepsA.next ?_
    | with_reducible refine State.flushWins_keeps ?_
    | with_reducible refine State.moveGranule_keeps ?_ _
    | with_reducible refine KeepsA.ite ?_ ?_

theorem execChannelMoveEnd_keeps {b : Bool} {s₀ s : State} (h : Keeps b s₀ s) (a1) :
    KeepsA b s₀ (execChannelMoveEnd a1 s) := by
  unfold execChannelMoveEnd
  repeat' first
    | with_reducible assumption
    | with_reducible refine KeepsA.next ?_
    | with_reducible refine State.modChan_keeps ?_ _ _
    | with_reducible refine State.noteHealth_keeps ?_ _ _
    | with_reducible refine State.raise__keeps ?_ _ _ _
    | with_reducible refine State.startMove_keeps ?_ _
    | with_reducible refine KeepsA.ite ?_ ?_
    | with_reducible refine Keeps.ite ?_ ?_
    | (fail_if_no_progress with_reducible refine Keeps.of_mk (Keeps.comps ?_))
    | dsimp only
    | split

theorem State.tripStack_keeps {b : Bool} {s₀ s : State} (h : Keeps b s₀ s) (a1) :
    Keeps b s₀ (State.tripStack s a1) := by
  unfold State.tripStack
  repeat' first
    | with_reducible assumption
    | with_reducible refine State.modStack_keeps ?_ _ _
    | with_reducible refine State.modChan_keeps ?_ _ _
    | with_reducible refine State.noteHealth_keeps ?_ _ _
    | with_reducible refine State.faultPart_keeps ?_ _
    | with_reducible refine Keeps.ite ?_ ?_
    | (with_reducible refine Keeps.foldl (fun t x ht => ?_) ?_)

theorem State.excludeStack_keeps {b : Bool} {s₀ s : State} (h : Keeps b s₀ s) (a1) (a2) :
    Keeps b s₀ (State.excludeStack s a1 a2) := by
  unfold State.excludeStack
  repeat' first
    | with_reducible assumption
    | with_reducible refine State.faultEntry_keeps ?_ _ _ _ _
    | with_reducible refine State.countFault_keeps ?_ _
    | with_reducible refine State.modStack_keeps ?_ _ _
    | with_reducible refine Keeps.ite ?_ ?_
    | (with_reducible refine Keeps.foldl (fun t x ht => ?_) ?_)

theorem execPacingWindow_keeps {b : Bool} {s₀ s : State} (h : Keeps b s₀ s) (a1) (a2) :
    KeepsA b s₀ (execPacingWindow a1 a2 s) := by
  unfold execPacingWindow
  repeat' first
    | with_reducible assumption
    | with_reducible refine KeepsA.next ?_
    | with_reducible refine State.at__keeps ?_ _
    | with_reducible refine State.flushWins_keeps ?_
    | with_reducible refine State.modChan_keeps ?_ _ _

end Sys2Proof.Machine
end

