-- ==== Sys2Proof/Laws/Keeps/NmuRun.lean ====
section
/-! SUPPORT. What the operations of Machine/NmuRun.lean keep. -/

namespace Sys2Proof.Machine

theorem State.modSeg_keeps {b : Bool} {s₀ s : State} (h : Keeps b s₀ s) (a1) (a2) (a3) :
    Keeps b s₀ (State.modSeg s a1 a2 a3) := by
  unfold State.modSeg
  repeat' first
    | with_reducible assumption
    | with_reducible refine State.modChan_keeps ?_ _ _

theorem State.finishSeg_keeps {b : Bool} {s₀ s : State} (h : Keeps b s₀ s) (a1) (a2) :
    Keeps b s₀ (State.finishSeg s a1 a2) := by
  unfold State.finishSeg
  repeat' first
    | with_reducible assumption
    | with_reducible refine State.modChan_keeps ?_ _ _
    | with_reducible refine State.modCmd_keeps ?_ _ _
    | with_reducible refine State.finishCmd_keeps ?_ _
    | with_reducible refine Keeps.ite ?_ ?_
    | (fail_if_no_progress with_reducible refine Keeps.of_mk (Keeps.comps ?_))
    | dsimp only
    | split

theorem State.meet_keeps {b : Bool} {s₀ s : State} (h : Keeps b s₀ s) (a1) (a2) (a3) :
    Keeps b s₀ (State.meet s a1 a2 a3) := by
  unfold State.meet
  repeat' first
    | with_reducible assumption
    | with_reducible refine State.checkAccess_keeps ?_ _ _ _
    | with_reducible refine State.modChan_keeps ?_ _ _
    | with_reducible refine Keeps.ite ?_ ?_
    | (with_reducible refine Keeps.foldl (fun t x ht => ?_) ?_)

theorem State.noteSources_keeps {b : Bool} {s₀ s : State} (h : Keeps b s₀ s) (a1) (a2) (a3) (a4) (a5) :
    Keeps b s₀ (State.noteSources s a1 a2 a3 a4 a5) := by
  unfold State.noteSources
  repeat' first
    | with_reducible assumption
    | with_reducible refine State.countFresh_keeps ?_ _
    | with_reducible refine State.modChan_keeps ?_ _ _
    | with_reducible refine Keeps.ite ?_ ?_
    | (with_reducible refine Keeps.foldl (fun t x ht => ?_) ?_)

theorem State.writeCodes_keeps {b : Bool} {s₀ s : State} (h : Keeps b s₀ s) (a1) (a2) (a3) :
    Keeps b s₀ (State.writeCodes s a1 a2 a3) := by
  unfold State.writeCodes
  repeat' first
    | with_reducible assumption
    | with_reducible refine State.cmdWrite_keeps ?_ _ _ _ _
    | with_reducible refine Keeps.ite ?_ ?_
    | (with_reducible refine Keeps.foldl (fun t x ht => ?_) ?_)

theorem State.doGroup_keeps {b : Bool} {s₀ s : State} (h : Keeps b s₀ s) (a1) (a2) (a3) (a4) (a5) :
    Keeps b s₀ (State.doGroup s a1 a2 a3 a4 a5) := by
  unfold State.doGroup
  repeat' first
    | with_reducible assumption
    | with_reducible refine State.writeCodes_keeps ?_ _ _ _
    | with_reducible refine State.modSeg_keeps ?_ _ _ _
    | with_reducible refine State.addFlags_keeps ?_ _ _

theorem State.doQuant_keeps {b : Bool} {s₀ s : State} (h : Keeps b s₀ s) (a1) (a2) (a3) (a4) :
    Keeps b s₀ (State.doQuant s a1 a2 a3 a4) := by
  unfold State.doQuant
  repeat' first
    | with_reducible assumption
    | with_reducible refine State.writeCodes_keeps ?_ _ _ _
    | with_reducible refine State.cmdWrite_keeps ?_ _ _ _ _
    | with_reducible refine State.modSeg_keeps ?_ _ _ _
    | with_reducible refine State.addFlags_keeps ?_ _ _
    | with_reducible refine State.modCmd_keeps ?_ _ _
    | with_reducible refine State.guardFeed_keeps ?_ _ _ _ _
    | with_reducible refine Keeps.ite ?_ ?_
    | (with_reducible refine Keeps.foldl (fun t x ht => ?_) ?_)

theorem State.doAmax_keeps {b : Bool} {s₀ s : State} (h : Keeps b s₀ s) (a1) (a2) (a3) (a4) :
    Keeps b s₀ (State.doAmax s a1 a2 a3 a4) := by
  unfold State.doAmax
  repeat' first
    | with_reducible assumption
    | with_reducible refine State.modSeg_keeps ?_ _ _ _
    | with_reducible refine State.modCmd_keeps ?_ _ _

theorem State.amaxDone_keeps {b : Bool} {s₀ s : State} (h : Keeps b s₀ s) (a1) (a2) (a3) :
    Keeps b s₀ (State.amaxDone s a1 a2 a3) := by
  unfold State.amaxDone
  repeat' first
    | with_reducible assumption
    | with_reducible refine State.modSeg_keeps ?_ _ _ _
    | with_reducible refine State.settleScales_keeps ?_ _ _ _
    | with_reducible refine State.modCmd_keeps ?_ _ _
    | with_reducible refine Keeps.ite ?_ ?_
    | (with_reducible refine Keeps.foldl (fun t x ht => ?_) ?_)

theorem State.withStats_keeps {b : Bool} {s₀ s : State} (h : Keeps b s₀ s) (a1) (a2) (a3) :
    Keeps b s₀ (State.withStats s a1 a2 a3) := by
  unfold State.withStats
  repeat' first
    | with_reducible assumption
    | with_reducible refine State.addFlags_keeps ?_ _ _
    | with_reducible refine State.modCmd_keeps ?_ _ _
    | with_reducible refine Keeps.ite ?_ ?_
    | (with_reducible refine Keeps.foldl (fun t x ht => ?_) ?_)
    | (with_reducible refine Keeps.foldl_fst (fun t x ht => ?_) ?_)
    | (fail_if_no_progress with_reducible refine Keeps.of_mk (Keeps.comps ?_))
    | dsimp only
    | split

theorem State.doSoftmax_keeps {b : Bool} {s₀ s : State} (h : Keeps b s₀ s) (a1) (a2) (a3) (a4) :
    Keeps b s₀ (State.doSoftmax s a1 a2 a3 a4) := by
  unfold State.doSoftmax
  repeat' first
    | with_reducible assumption
    | with_reducible refine State.writeCodes_keeps ?_ _ _ _
    | with_reducible refine State.modSeg_keeps ?_ _ _ _
    | with_reducible refine State.addFlags_keeps ?_ _ _

theorem State.stepPlumb_keeps {b : Bool} {s₀ s : State} (h : Keeps b s₀ s) (a1) (a2) (a3) (a4) :
    Keeps b s₀ (State.stepPlumb s a1 a2 a3 a4) := by
  unfold State.stepPlumb
  repeat' first
    | with_reducible assumption
    | with_reducible refine State.finishSeg_keeps ?_ _ _
    | with_reducible refine State.meet_keeps ?_ _ _ _
    | with_reducible refine State.endCmd_keeps ?_ _ _
    | with_reducible refine State.countFresh_keeps ?_ _
    | with_reducible refine State.setResult_keeps ?_ _ _
    | with_reducible refine State.modSeg_keeps ?_ _ _ _
    | with_reducible refine Keeps.ite ?_ ?_
    | (fail_if_no_progress with_reducible refine Keeps.of_mk (Keeps.comps ?_))
    | dsimp only
    | split

theorem State.noteMismatch_keeps {b : Bool} {s₀ s : State} (h : Keeps b s₀ s) (a1) (a2) :
    Keeps b s₀ (State.noteMismatch s a1 a2) := by
  unfold State.noteMismatch
  repeat' first
    | with_reducible assumption
    | with_reducible refine State.raise__keeps ?_ _ _ _
    | with_reducible refine State.setReg_keeps ?_ _ _ _
    | with_reducible refine State.noteLate_keeps ?_ _ _
    | with_reducible refine State.modCmd_keeps ?_ _ _
    | with_reducible refine Keeps.ite ?_ ?_

theorem State.noteSkip_keeps {b : Bool} {s₀ s : State} (h : Keeps b s₀ s) (a1) (a2) (a3) :
    Keeps b s₀ (State.noteSkip s a1 a2 a3) := by
  unfold State.noteSkip
  repeat' first
    | with_reducible assumption
    | with_reducible refine State.bump_keeps ?_ _ _ _ _ _
    | with_reducible refine State.modCmd_keeps ?_ _ _
    | with_reducible refine Keeps.ite ?_ ?_

theorem State.stepOpt_keeps {b : Bool} {s₀ s : State} (h : Keeps b s₀ s) (a1) (a2) (a3) (a4) :
    KeepsO b s₀ (State.stepOpt s a1 a2 a3 a4) := by
  unfold State.stepOpt
  repeat' first
    | with_reducible assumption
    | with_reducible refine KeepsO.some ?_
    | with_reducible exact KeepsO.none
    | with_reducible refine State.finishSeg_keeps ?_ _ _
    | with_reducible refine State.modSeg_keeps ?_ _ _ _
    | with_reducible refine State.meet_keeps ?_ _ _ _
    | with_reducible refine State.endCmd_keeps ?_ _ _
    | with_reducible refine State.noteMismatch_keeps ?_ _ _
    | with_reducible refine State.noteSkip_keeps ?_ _ _ _
    | with_reducible refine State.noteSources_keeps ?_ _ _ _ _ _
    | with_reducible refine State.modChan_keeps ?_ _ _
    | with_reducible refine KeepsO.ite ?_ ?_
    | with_reducible refine Keeps.ite ?_ ?_
    | (fail_if_no_progress with_reducible refine Keeps.of_mk (Keeps.comps ?_))
    | dsimp only
    | split

theorem State.stepPass1_keeps {b : Bool} {s₀ s : State} (h : Keeps b s₀ s) (a1) (a2) (a3) (a4) :
    KeepsO b s₀ (State.stepPass1 s a1 a2 a3 a4) := by
  unfold State.stepPass1
  repeat' first
    | with_reducible assumption
    | with_reducible refine KeepsO.some ?_
    | with_reducible exact KeepsO.none
    | with_reducible refine State.meet_keeps ?_ _ _ _
    | with_reducible refine State.endCmd_keeps ?_ _ _
    | with_reducible refine State.modSeg_keeps ?_ _ _ _
    | with_reducible refine KeepsO.ite ?_ ?_
    | with_reducible refine Keeps.ite ?_ ?_

theorem State.stepGroup_keeps {b : Bool} {s₀ s : State} (h : Keeps b s₀ s) (a1) (a2) (a3) (a4) (a5) (a6) (a7) :
    Keeps b s₀ (State.stepGroup s a1 a2 a3 a4 a5 a6 a7) := by
  unfold State.stepGroup
  repeat' first
    | with_reducible assumption
    | with_reducible refine State.endCmd_keeps ?_ _ _
    | with_reducible refine State.noteSources_keeps ?_ _ _ _ _ _
    | with_reducible refine State.doAmax_keeps ?_ _ _ _ _
    | with_reducible refine State.withStats_keeps ?_ _ _ _
    | with_reducible refine State.doGroup_keeps ?_ _ _ _ _ _
    | with_reducible refine State.doSoftmax_keeps ?_ _ _ _ _
    | with_reducible refine State.doQuant_keeps ?_ _ _ _ _
    | with_reducible refine State.amaxDone_keeps ?_ _ _ _
    | with_reducible refine State.finishSeg_keeps ?_ _ _
    | with_reducible refine Keeps.ite ?_ ?_

theorem State.stepSeg_keeps {b : Bool} {s₀ s : State} (h : Keeps b s₀ s) (a1) (a2) :
    KeepsO b s₀ (State.stepSeg s a1 a2) := by
  unfold State.stepSeg
  repeat' first
    | with_reducible assumption
    | with_reducible refine KeepsO.some ?_
    | with_reducible exact KeepsO.none
    | with_reducible refine State.stepPlumb_keeps ?_ _ _ _ _
    | with_reducible refine State.stepOpt_keeps ?_ _ _ _ _
    | with_reducible refine KeepsO.get (State.stepOpt_keeps ?_ _ _ _ _) (by assumption)
    | with_reducible refine State.amaxDone_keeps ?_ _ _ _
    | with_reducible refine State.finishSeg_keeps ?_ _ _
    | with_reducible refine State.stepPass1_keeps ?_ _ _ _ _
    | with_reducible refine KeepsO.get (State.stepPass1_keeps ?_ _ _ _ _) (by assumption)
    | with_reducible refine State.stepGroup_keeps ?_ _ _ _ _ _ _ _
    | with_reducible refine State.meet_keeps ?_ _ _ _
    | with_reducible refine KeepsO.ite ?_ ?_
    | with_reducible refine Keeps.ite ?_ ?_
    | (fail_if_no_progress with_reducible refine Keeps.of_mk (Keeps.comps ?_))
    | dsimp only
    | split

theorem firstStep_keeps {b : Bool} {s₀ s : State} (h : Keeps b s₀ s) (a1) (a2) (a3) :
    KeepsO b s₀ (firstStep s a1 a2 a3) := by
  induction a3 generalizing a2 with
  | nil => exact KeepsO.none
  | cons x l ih =>
    unfold firstStep
    dsimp only
    split
    · rename_i t e
      refine KeepsO.some ?_
      split at e
      · cases e
      · exact (State.stepSeg_keeps h a1 x) t e
    · exact ih _

theorem State.runUnit_keeps {b : Bool} {s₀ s : State} (h : Keeps b s₀ s) (a1) (a2) :
    Keeps b s₀ (State.runUnit s a1 a2) := by
  induction a2 generalizing s a1 with
  | zero =>
    unfold State.runUnit
    repeat' first
      | with_reducible assumption
  | succ n ih =>
    unfold State.runUnit
    repeat' first
      | with_reducible assumption
      | with_reducible refine ih ?_ _
      | with_reducible refine KeepsO.get (firstStep_keeps ?_ _ _ _) (by assumption)
      | with_reducible refine Keeps.ite ?_ ?_
      | (fail_if_no_progress with_reducible refine Keeps.of_mk (Keeps.comps ?_))
      | dsimp only
      | split

end Sys2Proof.Machine
end

