-- ==== Sys2Proof/Laws/Keeps/Nmu.lean ====
section
/-! SUPPORT. What the operations of Machine/Nmu.lean keep. -/

namespace Sys2Proof.Machine

theorem State.wakeGroup_keeps {b : Bool} {s₀ s : State} (h : Keeps b s₀ s) (a1) :
    Keeps b s₀ (State.wakeGroup s a1) := by
  unfold State.wakeGroup
  repeat' first
    | with_reducible assumption
    | with_reducible refine State.modStack_keeps ?_ _ _
    | with_reducible refine Keeps.ite ?_ ?_

theorem State.addSeg_keeps {b : Bool} {s₀ s : State} (h : Keeps b s₀ s) (a1) (a2) :
    Keeps b s₀ (State.addSeg s a1 a2) := by
  unfold State.addSeg
  repeat' first
    | with_reducible assumption
    | with_reducible refine State.wakeGroup_keeps ?_ _
    | with_reducible refine State.modChan_keeps ?_ _ _

theorem State.pin_keeps {b : Bool} {s₀ s : State} (h : Keeps b s₀ s) (a1) (a2) (a3) :
    Keeps b s₀ (State.pin s a1 a2 a3) := by
  unfold State.pin
  repeat' first
    | with_reducible assumption
    | with_reducible refine State.modFrame_keeps ?_ _ _ _
    | with_reducible refine Keeps.ite ?_ ?_
    | (with_reducible refine Keeps.foldl (fun t x ht => ?_) ?_)

theorem fenceStart_keeps {b : Bool} {s₀ s : State} (h : Keeps b s₀ s) (a1) :
    Keeps b s₀ (fenceStart s a1) := by
  unfold fenceStart
  repeat' first
    | with_reducible assumption
    | with_reducible refine State.cmdWaits_keeps ?_ _ _
    | with_reducible refine State.modCmd_keeps ?_ _ _

theorem nmuStart_keeps {b : Bool} {s₀ s : State} (h : Keeps b s₀ s) (a1) :
    Keeps b s₀ (nmuStart s a1) := by
  unfold nmuStart
  repeat' first
    | with_reducible assumption
    | with_reducible refine fenceStart_keeps ?_ _
    | with_reducible refine State.modCmd_keeps ?_ _ _
    | with_reducible refine State.pin_keeps ?_ _ _ _
    | with_reducible refine State.cmdWaits_keeps ?_ _ _
    | with_reducible refine State.addSeg_keeps ?_ _ _
    | with_reducible refine Keeps.ite ?_ ?_
    | (with_reducible refine Keeps.foldl (fun t x ht => ?_) ?_)

theorem nmuRow_keeps {b : Bool} {s₀ s : State} (h : Keeps b s₀ s) (a1) (a2) :
    Keeps b s₀ (nmuRow a1 a2 s) := by
  unfold nmuRow
  repeat' first
    | with_reducible assumption
    | with_reducible refine dispatchRowT_keeps (fun t c ht => ?_) ?_ _ _ _ _ _ _
    | with_reducible refine nmuStart_keeps ?_ _
    | with_reducible refine State.raise__keeps ?_ _ _ _
    | with_reducible refine State.modChan_keeps ?_ _ _
    | with_reducible refine Keeps.ite ?_ ?_
    | (with_reducible refine Keeps.foldl (fun t x ht => ?_) ?_)
    | (with_reducible refine Keeps.foldl_fst (fun t x ht => ?_) ?_)
    | (fail_if_no_progress with_reducible refine Keeps.of_mk (Keeps.comps ?_))
    | dsimp only
    | split

theorem execAdd_keeps {b : Bool} {s₀ s : State} (h : Keeps b s₀ s) (a1) :
    KeepsA b s₀ (execAdd a1 s) := by
  unfold execAdd
  repeat' first
    | with_reducible assumption
    | with_reducible refine KeepsA.next ?_
    | with_reducible refine nmuRow_keeps ?_ _ _

theorem execMul_keeps {b : Bool} {s₀ s : State} (h : Keeps b s₀ s) (a1) :
    KeepsA b s₀ (execMul a1 s) := by
  unfold execMul
  repeat' first
    | with_reducible assumption
    | with_reducible refine KeepsA.next ?_
    | with_reducible refine nmuRow_keeps ?_ _ _

theorem execFma_keeps {b : Bool} {s₀ s : State} (h : Keeps b s₀ s) (a1) :
    KeepsA b s₀ (execFma a1 s) := by
  unfold execFma
  repeat' first
    | with_reducible assumption
    | with_reducible refine KeepsA.next ?_
    | with_reducible refine nmuRow_keeps ?_ _ _

theorem execAffine_keeps {b : Bool} {s₀ s : State} (h : Keeps b s₀ s) (a1) :
    KeepsA b s₀ (execAffine a1 s) := by
  unfold execAffine
  repeat' first
    | with_reducible assumption
    | with_reducible refine KeepsA.next ?_
    | with_reducible refine nmuRow_keeps ?_ _ _

theorem execDiv_keeps {b : Bool} {s₀ s : State} (h : Keeps b s₀ s) (a1) :
    KeepsA b s₀ (execDiv a1 s) := by
  unfold execDiv
  repeat' first
    | with_reducible assumption
    | with_reducible refine KeepsA.next ?_
    | with_reducible refine nmuRow_keeps ?_ _ _

theorem execMax_keeps {b : Bool} {s₀ s : State} (h : Keeps b s₀ s) (a1) :
    KeepsA b s₀ (execMax a1 s) := by
  unfold execMax
  repeat' first
    | with_reducible assumption
    | with_reducible refine KeepsA.next ?_
    | with_reducible refine nmuRow_keeps ?_ _ _

theorem execMin_keeps {b : Bool} {s₀ s : State} (h : Keeps b s₀ s) (a1) :
    KeepsA b s₀ (execMin a1 s) := by
  unfold execMin
  repeat' first
    | with_reducible assumption
    | with_reducible refine KeepsA.next ?_
    | with_reducible refine nmuRow_keeps ?_ _ _

theorem execRsqrt_keeps {b : Bool} {s₀ s : State} (h : Keeps b s₀ s) (a1) :
    KeepsA b s₀ (execRsqrt a1 s) := by
  unfold execRsqrt
  repeat' first
    | with_reducible assumption
    | with_reducible refine KeepsA.next ?_
    | with_reducible refine nmuRow_keeps ?_ _ _

theorem execExp_keeps {b : Bool} {s₀ s : State} (h : Keeps b s₀ s) (a1) :
    KeepsA b s₀ (execExp a1 s) := by
  unfold execExp
  repeat' first
    | with_reducible assumption
    | with_reducible refine KeepsA.next ?_
    | with_reducible refine nmuRow_keeps ?_ _ _

theorem execGelu_keeps {b : Bool} {s₀ s : State} (h : Keeps b s₀ s) (a1) :
    KeepsA b s₀ (execGelu a1 s) := by
  unfold execGelu
  repeat' first
    | with_reducible assumption
    | with_reducible refine KeepsA.next ?_
    | with_reducible refine nmuRow_keeps ?_ _ _

theorem execSilu_keeps {b : Bool} {s₀ s : State} (h : Keeps b s₀ s) (a1) :
    KeepsA b s₀ (execSilu a1 s) := by
  unfold execSilu
  repeat' first
    | with_reducible assumption
    | with_reducible refine KeepsA.next ?_
    | with_reducible refine nmuRow_keeps ?_ _ _

theorem execRmsnorm_keeps {b : Bool} {s₀ s : State} (h : Keeps b s₀ s) (a1) :
    KeepsA b s₀ (execRmsnorm a1 s) := by
  unfold execRmsnorm
  repeat' first
    | with_reducible assumption
    | with_reducible refine KeepsA.next ?_
    | with_reducible refine nmuRow_keeps ?_ _ _

theorem execLayernorm_keeps {b : Bool} {s₀ s : State} (h : Keeps b s₀ s) (a1) :
    KeepsA b s₀ (execLayernorm a1 s) := by
  unfold execLayernorm
  repeat' first
    | with_reducible assumption
    | with_reducible refine KeepsA.next ?_
    | with_reducible refine nmuRow_keeps ?_ _ _

theorem execSoftmax_keeps {b : Bool} {s₀ s : State} (h : Keeps b s₀ s) (a1) :
    KeepsA b s₀ (execSoftmax a1 s) := by
  unfold execSoftmax
  repeat' first
    | with_reducible assumption
    | with_reducible refine KeepsA.next ?_
    | with_reducible refine nmuRow_keeps ?_ _ _

theorem execQuant_keeps {b : Bool} {s₀ s : State} (h : Keeps b s₀ s) (a1) :
    KeepsA b s₀ (execQuant a1 s) := by
  unfold execQuant
  repeat' first
    | with_reducible assumption
    | with_reducible refine KeepsA.next ?_
    | with_reducible refine nmuRow_keeps ?_ _ _

theorem execDequant_keeps {b : Bool} {s₀ s : State} (h : Keeps b s₀ s) (a1) :
    KeepsA b s₀ (execDequant a1 s) := by
  unfold execDequant
  repeat' first
    | with_reducible assumption
    | with_reducible refine KeepsA.next ?_
    | with_reducible refine nmuRow_keeps ?_ _ _

theorem execAdamw_keeps {b : Bool} {s₀ s : State} (h : Keeps b s₀ s) (a1) :
    KeepsA b s₀ (execAdamw a1 s) := by
  unfold execAdamw
  repeat' first
    | with_reducible assumption
    | with_reducible refine KeepsA.next ?_
    | with_reducible refine nmuRow_keeps ?_ _ _

theorem execLion_keeps {b : Bool} {s₀ s : State} (h : Keeps b s₀ s) (a1) :
    KeepsA b s₀ (execLion a1 s) := by
  unfold execLion
  repeat' first
    | with_reducible assumption
    | with_reducible refine KeepsA.next ?_
    | with_reducible refine nmuRow_keeps ?_ _ _

theorem execSgdm_keeps {b : Bool} {s₀ s : State} (h : Keeps b s₀ s) (a1) :
    KeepsA b s₀ (execSgdm a1 s) := by
  unfold execSgdm
  repeat' first
    | with_reducible assumption
    | with_reducible refine KeepsA.next ?_
    | with_reducible refine nmuRow_keeps ?_ _ _

theorem execPlumb_keeps {b : Bool} {s₀ s : State} (h : Keeps b s₀ s) (a1) :
    KeepsA b s₀ (execPlumb a1 s) := by
  unfold execPlumb
  repeat' first
    | with_reducible assumption
    | with_reducible refine KeepsA.next ?_
    | with_reducible refine nmuRow_keeps ?_ _ _

theorem execFence_keeps {b : Bool} {s₀ s : State} (h : Keeps b s₀ s) (a1) :
    KeepsA b s₀ (execFence a1 s) := by
  unfold execFence
  repeat' first
    | with_reducible assumption
    | with_reducible refine KeepsA.next ?_
    | with_reducible refine nmuRow_keeps ?_ _ _

theorem execNmuFenceComplete_keeps {b : Bool} {s₀ s : State} (h : Keeps b s₀ s) (a1) :
    KeepsA b s₀ (execNmuFenceComplete a1 s) := by
  unfold execNmuFenceComplete
  repeat' first
    | with_reducible assumption
    | with_reducible refine KeepsA.next ?_
    | with_reducible refine State.finishCmd_keeps ?_ _
    | with_reducible refine KeepsA.ite ?_ ?_
    | with_reducible refine Keeps.ite ?_ ?_
    | (fail_if_no_progress with_reducible refine Keeps.of_mk (Keeps.comps ?_))
    | dsimp only
    | split

theorem execNmuSlotGrant_keeps {b : Bool} {s₀ s : State} (h : Keeps b s₀ s) (a1) (a2) :
    KeepsA b s₀ (execNmuSlotGrant a1 a2 s) := by
  unfold execNmuSlotGrant
  repeat' first
    | with_reducible assumption
    | with_reducible refine KeepsA.next ?_
    | with_reducible refine State.at__keeps ?_ _
    | with_reducible refine State.modStack_keeps ?_ _ _
    | with_reducible refine State.modChan_keeps ?_ _ _
    | with_reducible refine KeepsA.ite ?_ ?_

theorem execNmuSwitchInEnd_keeps {b : Bool} {s₀ s : State} (h : Keeps b s₀ s) (a1) (a2) (a3) (a4) :
    KeepsA b s₀ (execNmuSwitchInEnd a1 a2 a3 a4 s) := by
  unfold execNmuSwitchInEnd
  repeat' first
    | with_reducible assumption
    | with_reducible refine KeepsA.next ?_
    | with_reducible refine State.at__keeps ?_ _
    | with_reducible refine State.runUnit_keeps ?_ _ _
    | with_reducible refine State.modChan_keeps ?_ _ _
    | with_reducible refine KeepsA.ite ?_ ?_

theorem execNmuSlotEnd_keeps {b : Bool} {s₀ s : State} (h : Keeps b s₀ s) (a1) (a2) :
    KeepsA b s₀ (execNmuSlotEnd a1 a2 s) := by
  unfold execNmuSlotEnd
  repeat' first
    | with_reducible assumption
    | with_reducible refine KeepsA.next ?_
    | with_reducible refine State.at__keeps ?_ _
    | with_reducible refine State.modChan_keeps ?_ _ _
    | with_reducible refine KeepsA.ite ?_ ?_

theorem execNmuSwitchOutEnd_keeps {b : Bool} {s₀ s : State} (h : Keeps b s₀ s) (a1) (a2) :
    KeepsA b s₀ (execNmuSwitchOutEnd a1 a2 s) := by
  unfold execNmuSwitchOutEnd
  repeat' first
    | with_reducible assumption
    | with_reducible refine KeepsA.next ?_
    | with_reducible refine State.at__keeps ?_ _
    | with_reducible refine State.flushWins_keeps ?_
    | with_reducible refine State.modChan_keeps ?_ _ _
    | with_reducible refine KeepsA.ite ?_ ?_

theorem execNmuGrantTimeout_keeps {b : Bool} {s₀ s : State} (h : Keeps b s₀ s) (a1) (a2) :
    KeepsA b s₀ (execNmuGrantTimeout a1 a2 s) := by
  unfold execNmuGrantTimeout
  repeat' first
    | with_reducible assumption
    | with_reducible refine KeepsA.next ?_
    | with_reducible refine State.at__keeps ?_ _
    | with_reducible refine State.modChan_keeps ?_ _ _
    | with_reducible refine State.endCmd_keeps ?_ _ _
    | with_reducible refine State.raise__keeps ?_ _ _ _
    | with_reducible refine KeepsA.ite ?_ ?_
    | with_reducible refine Keeps.ite ?_ ?_
    | (fail_if_no_progress with_reducible refine Keeps.of_mk (Keeps.comps ?_))
    | dsimp only
    | split

theorem State.commitData_keeps {b : Bool} {s₀ s : State} (h : Keeps b s₀ s) (a1) (a2) :
    Keeps b s₀ (State.commitData s a1 a2) := by
  unfold State.commitData
  repeat' first
    | with_reducible assumption
    | with_reducible refine State.cmdWrite_keeps ?_ _ _ _ _
    | with_reducible refine State.modCmd_keeps ?_ _ _
    | with_reducible refine State.addFlags_keeps ?_ _ _
    | with_reducible refine State.bump_keeps ?_ _ _ _ _ _
    | with_reducible refine Keeps.ite ?_ ?_
    | (with_reducible refine Keeps.foldl (fun t x ht => ?_) ?_)

theorem State.commitOne_keeps {b : Bool} {s₀ s : State} (h : Keeps b s₀ s) (a1) (a2) :
    Keeps b s₀ (State.commitOne s a1 a2) := by
  unfold State.commitOne
  repeat' first
    | with_reducible assumption
    | with_reducible refine State.commitData_keeps ?_ _ _
    | with_reducible refine State.endCmd_keeps ?_ _ _
    | with_reducible refine State.narrowAt_keeps ?_ _ _ _
    | with_reducible refine State.modStack_keeps ?_ _ _
    | with_reducible refine State.bump_keeps ?_ _ _ _ _ _
    | with_reducible refine State.noteSkip_keeps ?_ _ _ _
    | with_reducible refine Keeps.ite ?_ ?_
    | with_reducible refine Keeps.ite_fst ?_ ?_
    | with_reducible refine Keeps.of_fst ?_ (by assumption)
    | (fail_if_no_progress with_reducible refine Keeps.of_mk (Keeps.comps ?_))
    | dsimp only
    | split

theorem execGranuleCommit_keeps {b : Bool} {s₀ s : State} (h : Keeps b s₀ s) (a1) :
    KeepsA b s₀ (execGranuleCommit a1 s) := by
  unfold execGranuleCommit
  repeat' first
    | with_reducible assumption
    | with_reducible refine KeepsA.next ?_
    | with_reducible refine State.modChan_keeps ?_ _ _
    | with_reducible refine State.runUnit_keeps ?_ _ _
    | with_reducible refine State.commitOne_keeps ?_ _ _
    | with_reducible refine KeepsA.ite ?_ ?_
    | with_reducible refine Keeps.ite ?_ ?_
    | (fail_if_no_progress with_reducible refine Keeps.of_mk (Keeps.comps ?_))
    | dsimp only
    | split

end Sys2Proof.Machine
end

