-- ==== Sys2Proof/Laws/Keeps/NarFlit.lean ====
section
/-! SUPPORT. What the operations of Machine/NarFlit.lean keep. -/

namespace Sys2Proof.Machine

theorem State.pumpPort_keeps {b : Bool} {s₀ s : State} (h : Keeps b s₀ s) (a1) (a2) :
    Keeps b s₀ (State.pumpPort s a1 a2) := by
  induction a2 generalizing s a1 with
  | zero =>
    unfold State.pumpPort
    repeat' first
      | with_reducible assumption
  | succ n ih =>
    unfold State.pumpPort
    repeat' first
      | with_reducible assumption
      | with_reducible refine ih ?_ _
      | with_reducible refine State.emit_keeps ?_ _
      | with_reducible refine State.modPort_keeps ?_ _ _
      | with_reducible refine Keeps.ite ?_ ?_
      | (fail_if_no_progress with_reducible refine Keeps.of_mk (Keeps.comps ?_))
      | dsimp only
      | split

theorem State.sendFlits_keeps {b : Bool} {s₀ s : State} (h : Keeps b s₀ s) (a1) (a2) :
    Keeps b s₀ (State.sendFlits s a1 a2) := by
  unfold State.sendFlits
  repeat' first
    | with_reducible assumption
    | with_reducible refine State.modPort_keeps ?_ _ _
    | with_reducible refine State.pumpPort_keeps ?_ _ _

theorem State.replayAfter_keeps {b : Bool} {s₀ s : State} (h : Keeps b s₀ s) (a1) (a2) :
    Keeps b s₀ (State.replayAfter s a1 a2) := by
  unfold State.replayAfter
  repeat' first
    | with_reducible assumption
    | with_reducible refine State.emit_keeps ?_ _
    | with_reducible refine State.modPort_keeps ?_ _ _
    | with_reducible refine State.bump_keeps ?_ _ _ _ _ _
    | with_reducible refine Keeps.ite ?_ ?_

theorem State.takeAck_keeps {b : Bool} {s₀ s : State} (h : Keeps b s₀ s) (a1) (a2) :
    Keeps b s₀ (State.takeAck s a1 a2) := by
  unfold State.takeAck
  repeat' first
    | with_reducible assumption
    | with_reducible refine State.modPort_keeps ?_ _ _
    | with_reducible refine Keeps.ite ?_ ?_

theorem State.sendNak_keeps {b : Bool} {s₀ s : State} (h : Keeps b s₀ s) (a1) :
    Keeps b s₀ (State.sendNak s a1) := by
  unfold State.sendNak
  repeat' first
    | with_reducible assumption
    | with_reducible refine State.emit_keeps ?_ _

theorem State.retirePort_keeps {b : Bool} {s₀ s : State} (h : Keeps b s₀ s) (a1) :
    Keeps b s₀ (State.retirePort s a1) := by
  unfold State.retirePort
  repeat' first
    | with_reducible assumption
    | with_reducible refine State.modPort_keeps ?_ _ _
    | with_reducible refine State.noteHealth_keeps ?_ _ _
    | with_reducible refine State.raise__keeps ?_ _ _ _
    | with_reducible refine Keeps.ite ?_ ?_
    | (fail_if_no_progress with_reducible refine Keeps.of_mk (Keeps.comps ?_))

theorem State.retireWl_keeps {b : Bool} {s₀ s : State} (h : Keeps b s₀ s) (a1) (a2) :
    Keeps b s₀ (State.retireWl s a1 a2).1 := by
  unfold State.retireWl
  repeat' first
    | with_reducible assumption
    | with_reducible refine State.modPort_keeps ?_ _ _
    | with_reducible refine State.raise__keeps ?_ _ _ _
    | with_reducible refine State.replayAfter_keeps ?_ _ _
    | with_reducible refine State.noteHealth_keeps ?_ _ _
    | with_reducible refine State.retirePort_keeps ?_ _
    | with_reducible refine Keeps.ite ?_ ?_
    | with_reducible refine Keeps.ite_fst ?_ ?_
    | with_reducible refine Keeps.of_fst ?_ (by assumption)
    | (fail_if_no_progress with_reducible refine Keeps.of_mk (Keeps.comps ?_))

theorem State.crcError_keeps {b : Bool} {s₀ s : State} (h : Keeps b s₀ s) (a1) (a2) :
    Keeps b s₀ (State.crcError s a1 a2).1 := by
  unfold State.crcError
  repeat' first
    | with_reducible assumption
    | with_reducible refine State.sendNak_keeps ?_ _
    | with_reducible refine State.modPort_keeps ?_ _ _
    | with_reducible refine State.retireWl_keeps ?_ _ _
    | with_reducible refine Keeps.ite ?_ ?_
    | with_reducible refine Keeps.ite_fst ?_ ?_

theorem State.takeSlow_keeps {b : Bool} {s₀ s : State} (h : Keeps b s₀ s) (a1) (a2) :
    Keeps b s₀ (State.takeSlow s a1 a2) := by
  unfold State.takeSlow
  repeat' first
    | with_reducible assumption
    | with_reducible refine State.modPort_keeps ?_ _ _
    | with_reducible refine State.bump_keeps ?_ _ _ _ _ _
    | with_reducible refine State.setRegFld_keeps ?_ _ _ _ _ _
    | with_reducible refine State.raise__keeps ?_ _ _ _
    | with_reducible refine State.modCourse_keeps ?_ _ _
    | with_reducible refine Keeps.ite ?_ ?_

end Sys2Proof.Machine
end

