-- ==== Sys2Proof/Laws/Keeps/CollDesc.lean ====
section
/-! SUPPORT. What the operations of Machine/CollDesc.lean keep. -/

namespace Sys2Proof.Machine

theorem State.setShard_keeps {b : Bool} {s₀ s : State} (h : Keeps b s₀ s) (a1) (a2) (a3) :
    Keeps b s₀ (State.setShard s a1 a2 a3) := by
  unfold State.setShard
  repeat' first
    | with_reducible assumption
    | with_reducible refine Keeps.ite ?_ ?_
    | (fail_if_no_progress with_reducible refine Keeps.of_mk (Keeps.comps ?_))

end Sys2Proof.Machine
end

