-- ==== Sys2Proof/Laws/Keeps/CollRun.lean ====
section
/-! SUPPORT. What the operations of Machine/CollRun.lean keep. -/

namespace Sys2Proof.Machine

theorem State.modColl_keeps {b : Bool} {s₀ s : State} (h : Keeps b s₀ s) (a1) (a2) :
    Keeps b s₀ (State.modColl s a1 a2) := by
  unfold State.modColl
  repeat' first
    | with_reducible assumption
    | with_reducible refine State.modCmd_keeps ?_ _ _

theorem State.sendMsg_keeps {b : Bool} {s₀ s : State} (h : Keeps b s₀ s) (a1) (a2) (a3) (a4) (a5) (a6) :
    Keeps b s₀ (State.sendMsg s a1 a2 a3 a4 a5 a6) := by
  unfold State.sendMsg
  repeat' first
    | with_reducible assumption
    | with_reducible refine State.sendFlits_keeps ?_ _ _
    | with_reducible refine State.modColl_keeps ?_ _ _
    | with_reducible refine Keeps.ite ?_ ?_
    | (fail_if_no_progress with_reducible refine Keeps.of_mk (Keeps.comps ?_))
    | dsimp only
    | split

theorem State.sendTo_keeps {b : Bool} {s₀ s : State} (h : Keeps b s₀ s) (a1) (a2) (a3) (a4) (a5) (a6) :
    Keeps b s₀ (State.sendTo s a1 a2 a3 a4 a5 a6) := by
  unfold State.sendTo
  repeat' first
    | with_reducible assumption
    | with_reducible refine State.sendMsg_keeps ?_ _ _ _ _ _ _

theorem State.sendAbandon_keeps {b : Bool} {s₀ s : State} (h : Keeps b s₀ s) (a1) :
    Keeps b s₀ (State.sendAbandon s a1) := by
  unfold State.sendAbandon
  repeat' first
    | with_reducible assumption
    | with_reducible refine State.emit_keeps ?_ _
    | with_reducible refine Keeps.ite ?_ ?_
    | (with_reducible refine Keeps.foldl (fun t x ht => ?_) ?_)

theorem State.failColl_keeps {b : Bool} {s₀ s : State} (h : Keeps b s₀ s) (a1) (a2) :
    Keeps b s₀ (State.failColl s a1 a2) := by
  unfold State.failColl
  repeat' first
    | with_reducible assumption
    | with_reducible refine State.sendAbandon_keeps ?_ _
    | with_reducible refine State.endCmd_keeps ?_ _ _
    | with_reducible refine Keeps.ite ?_ ?_
    | (fail_if_no_progress with_reducible refine Keeps.of_mk (Keeps.comps ?_))
    | dsimp only
    | split

theorem State.clearRead_keeps {b : Bool} {s₀ s : State} (h : Keeps b s₀ s) (a1) (a2) (a3) (a4) :
    Keeps b s₀ (State.clearRead s a1 a2 a3 a4) := by
  unfold State.clearRead
  repeat' first
    | with_reducible assumption
    | with_reducible refine State.modColl_keeps ?_ _ _
    | with_reducible refine State.dirtyAt_keeps ?_ _ _
    | with_reducible refine State.freshen_keeps ?_ _
    | with_reducible refine Keeps.ite ?_ ?_
    | (with_reducible refine Keeps.foldl (fun t x ht => ?_) ?_)

theorem State.collStep_keeps {b : Bool} {s₀ s : State} (h : Keeps b s₀ s) (a1) :
    Keeps b s₀ (State.collStep s a1) := by
  unfold State.collStep
  repeat' first
    | with_reducible assumption
    | with_reducible refine State.modColl_keeps ?_ _ _

theorem State.sendGather_keeps {b : Bool} {s₀ s : State} (h : Keeps b s₀ s) (a1) (a2) (a3) (a4) :
    Keeps b s₀ (State.sendGather s a1 a2 a3 a4) := by
  unfold State.sendGather
  repeat' first
    | with_reducible assumption
    | with_reducible refine State.sendMsg_keeps ?_ _ _ _ _ _ _
    | with_reducible refine Keeps.ite ?_ ?_
    | (with_reducible refine Keeps.foldl (fun t x ht => ?_) ?_)

theorem State.finishSum_keeps {b : Bool} {s₀ s : State} (h : Keeps b s₀ s) (a1) (a2) (a3) (a4) :
    Keeps b s₀ (State.finishSum s a1 a2 a3 a4) := by
  unfold State.finishSum
  repeat' first
    | with_reducible assumption
    | with_reducible refine State.collStep_keeps ?_ _
    | with_reducible refine State.cmdWrite_keeps ?_ _ _ _ _
    | with_reducible refine State.addFlags_keeps ?_ _ _
    | with_reducible refine State.sendGather_keeps ?_ _ _ _ _
    | with_reducible refine Keeps.ite ?_ ?_

theorem State.sumWork_keeps {b : Bool} {s₀ s : State} (h : Keeps b s₀ s) (a1) (a2) :
    Keeps b s₀ (State.sumWork s a1 a2) := by
  unfold State.sumWork
  repeat' first
    | with_reducible assumption
    | with_reducible refine State.clearRead_keeps ?_ _ _ _ _
    | with_reducible refine State.countRead_keeps ?_ _ _ _
    | with_reducible refine State.modColl_keeps ?_ _ _
    | with_reducible refine State.finishSum_keeps ?_ _ _ _ _
    | with_reducible refine State.addFlags_keeps ?_ _ _
    | with_reducible refine State.collStep_keeps ?_ _
    | with_reducible refine State.sendMsg_keeps ?_ _ _ _ _ _ _
    | with_reducible refine Keeps.ite ?_ ?_

theorem State.sendTable_keeps {b : Bool} {s₀ s : State} (h : Keeps b s₀ s) (a1) (a2) (a3) (a4) (a5) :
    Keeps b s₀ (State.sendTable s a1 a2 a3 a4 a5) := by
  unfold State.sendTable
  repeat' first
    | with_reducible assumption
    | with_reducible refine State.sendMsg_keeps ?_ _ _ _ _ _ _
    | with_reducible refine State.modColl_keeps ?_ _ _
    | with_reducible refine Keeps.ite ?_ ?_
    | (fail_if_no_progress with_reducible refine Keeps.of_mk (Keeps.comps ?_))
    | dsimp only
    | split

theorem State.shardArrived_keeps {b : Bool} {s₀ s : State} (h : Keeps b s₀ s) (a1) (a2) (a3) :
    Keeps b s₀ (State.shardArrived s a1 a2 a3) := by
  unfold State.shardArrived
  repeat' first
    | with_reducible assumption
    | with_reducible refine State.emit_keeps ?_ _
    | with_reducible refine State.modColl_keeps ?_ _ _
    | with_reducible refine State.setShard_keeps ?_ _ _ _
    | with_reducible refine Keeps.ite ?_ ?_

theorem State.chunkLanded_keeps {b : Bool} {s₀ s : State} (h : Keeps b s₀ s) (a1) (a2) (a3) :
    Keeps b s₀ (State.chunkLanded s a1 a2 a3) := by
  unfold State.chunkLanded
  repeat' first
    | with_reducible assumption
    | with_reducible refine State.collStep_keeps ?_ _
    | with_reducible refine State.modColl_keeps ?_ _ _
    | with_reducible refine State.sendTo_keeps ?_ _ _ _ _ _ _
    | with_reducible refine State.shardArrived_keeps ?_ _ _ _
    | with_reducible refine Keeps.ite ?_ ?_
    | (fail_if_no_progress with_reducible refine Keeps.of_mk (Keeps.comps ?_))
    | dsimp only
    | split

theorem State.poisonChunk_keeps {b : Bool} {s₀ s : State} (h : Keeps b s₀ s) (a1) (a2) :
    Keeps b s₀ (State.poisonChunk s a1 a2) := by
  unfold State.poisonChunk
  repeat' first
    | with_reducible assumption
    | with_reducible refine State.setPoison_keeps ?_ _ _
    | with_reducible refine State.clearFresh_keeps ?_ _
    | with_reducible refine State.noteLate_keeps ?_ _ _
    | with_reducible refine State.dirtyAt_keeps ?_ _ _
    | with_reducible refine State.raise__keeps ?_ _ _ _
    | with_reducible refine State.bump_keeps ?_ _ _ _ _ _
    | with_reducible refine Keeps.ite ?_ ?_
    | (with_reducible refine Keeps.foldl (fun t x ht => ?_) ?_)

theorem State.startWith_keeps {b : Bool} {s₀ s : State} (h : Keeps b s₀ s) (a1) (a2) (a3) :
    Keeps b s₀ (State.startWith s a1 a2 a3) := by
  unfold State.startWith
  repeat' first
    | with_reducible assumption
    | with_reducible refine State.endCmd_keeps ?_ _ _
    | with_reducible refine State.countRead_keeps ?_ _ _ _
    | with_reducible refine State.sendGather_keeps ?_ _ _ _ _
    | with_reducible refine State.sendTable_keeps ?_ _ _ _ _ _
    | with_reducible refine State.collStep_keeps ?_ _
    | with_reducible refine State.cmdWrite_keeps ?_ _ _ _ _
    | with_reducible refine State.chunkLanded_keeps ?_ _ _ _
    | with_reducible refine State.sendTo_keeps ?_ _ _ _ _ _ _
    | with_reducible refine Keeps.ite ?_ ?_
    | (with_reducible refine Keeps.foldl (fun t x ht => ?_) ?_)
    | (with_reducible refine Keeps.foldl_fst (fun t x ht => ?_) ?_)
    | (fail_if_no_progress with_reducible refine Keeps.of_mk (Keeps.comps ?_))
    | dsimp only
    | split

theorem State.startCopy__keeps {b : Bool} {s₀ s : State} (h : Keeps b s₀ s) (a1) (a2) :
    Keeps b s₀ (State.startCopy_ s a1 a2) := by
  unfold State.startCopy_
  repeat' first
    | with_reducible assumption
    | with_reducible refine State.startWith_keeps ?_ _ _ _

theorem State.landChunk_keeps {b : Bool} {s₀ s : State} (h : Keeps b s₀ s) (a1) (a2) (a3) :
    Keeps b s₀ (State.landChunk s a1 a2 a3) := by
  unfold State.landChunk
  repeat' first
    | with_reducible assumption
    | with_reducible refine State.bump_keeps ?_ _ _ _ _ _
    | with_reducible refine State.chunkLanded_keeps ?_ _ _ _
    | with_reducible refine State.cmdWrite_keeps ?_ _ _ _ _
    | with_reducible refine State.poisonChunk_keeps ?_ _ _
    | with_reducible refine State.sendTo_keeps ?_ _ _ _ _ _ _
    | with_reducible refine State.modColl_keeps ?_ _ _
    | with_reducible refine Keeps.ite ?_ ?_
    | (fail_if_no_progress with_reducible refine Keeps.of_mk (Keeps.comps ?_))
    | dsimp only
    | split

theorem State.doWork_keeps {b : Bool} {s₀ s : State} (h : Keeps b s₀ s) (a1) (a2) :
    Keeps b s₀ (State.doWork s a1 a2) := by
  unfold State.doWork
  repeat' first
    | with_reducible assumption
    | with_reducible refine State.endCmd_keeps ?_ _ _
    | with_reducible refine State.sumWork_keeps ?_ _ _
    | with_reducible refine State.startCopy__keeps ?_ _ _
    | with_reducible refine State.landChunk_keeps ?_ _ _ _
    | with_reducible refine Keeps.ite ?_ ?_
    | (fail_if_no_progress with_reducible refine Keeps.of_mk (Keeps.comps ?_))
    | dsimp only
    | split

theorem State.checkColl_keeps {b : Bool} {s₀ s : State} (h : Keeps b s₀ s) (a1) :
    Keeps b s₀ (State.checkColl s a1) := by
  unfold State.checkColl
  repeat' first
    | with_reducible assumption
    | with_reducible refine State.finishCmd_keeps ?_ _
    | with_reducible refine Keeps.ite ?_ ?_
    | (fail_if_no_progress with_reducible refine Keeps.of_mk (Keeps.comps ?_))
    | dsimp only
    | split

theorem State.pumpColl_keeps {b : Bool} {s₀ s : State} (h : Keeps b s₀ s) (a1) :
    Keeps b s₀ (State.pumpColl s a1) := by
  unfold State.pumpColl
  repeat' first
    | with_reducible assumption
    | with_reducible refine State.doWork_keeps ?_ _ _
    | with_reducible refine State.modColl_keeps ?_ _ _
    | with_reducible refine State.unpin_keeps ?_ _
    | with_reducible refine State.checkColl_keeps ?_ _
    | with_reducible refine State.cmdWaits_keeps ?_ _ _
    | with_reducible refine State.waitSlabs_keeps ?_ _ _ _
    | with_reducible refine Keeps.ite ?_ ?_
    | (with_reducible refine Keeps.foldl (fun t x ht => ?_) ?_)
    | (with_reducible refine Keeps.foldl_fst (fun t x ht => ?_) ?_)
    | (fail_if_no_progress with_reducible refine Keeps.of_mk (Keeps.comps ?_))
    | dsimp only
    | split

theorem State.pumpColls_keeps {b : Bool} {s₀ s : State} (h : Keeps b s₀ s) (a1) :
    Keeps b s₀ (State.pumpColls s a1) := by
  unfold State.pumpColls
  repeat' first
    | with_reducible assumption
    | with_reducible refine State.pumpColl_keeps ?_ _
    | with_reducible refine Keeps.ite ?_ ?_
    | (with_reducible refine Keeps.foldl (fun t x ht => ?_) ?_)

theorem State.ctlArrived_keeps {b : Bool} {s₀ s : State} (h : Keeps b s₀ s) (a1) (a2) (a3) :
    Keeps b s₀ (State.ctlArrived s a1 a2 a3) := by
  unfold State.ctlArrived
  repeat' first
    | with_reducible assumption
    | with_reducible refine State.sendMsg_keeps ?_ _ _ _ _ _ _
    | with_reducible refine State.failColl_keeps ?_ _ _
    | with_reducible refine State.modColl_keeps ?_ _ _
    | with_reducible refine State.checkColl_keeps ?_ _
    | with_reducible refine State.collStep_keeps ?_ _
    | with_reducible refine State.pumpColl_keeps ?_ _
    | with_reducible refine Keeps.ite ?_ ?_

theorem State.chunkArrived_keeps {b : Bool} {s₀ s : State} (h : Keeps b s₀ s) (a1) (a2) (a3) (a4) :
    Keeps b s₀ (State.chunkArrived s a1 a2 a3 a4) := by
  unfold State.chunkArrived
  repeat' first
    | with_reducible assumption
    | with_reducible refine State.sendMsg_keeps ?_ _ _ _ _ _ _
    | with_reducible refine State.pumpColl_keeps ?_ _
    | with_reducible refine State.modColl_keeps ?_ _ _
    | with_reducible refine Keeps.ite ?_ ?_

theorem State.collFlit_keeps {b : Bool} {s₀ s : State} (h : Keeps b s₀ s) (a1) (a2) :
    Keeps b s₀ (State.collFlit s a1 a2) := by
  unfold State.collFlit
  repeat' first
    | with_reducible assumption
    | with_reducible refine State.modCourse_keeps ?_ _ _
    | with_reducible refine State.ctlArrived_keeps ?_ _ _ _
    | with_reducible refine State.chunkArrived_keeps ?_ _ _ _ _
    | with_reducible refine State.modColl_keeps ?_ _ _
    | with_reducible refine Keeps.ite ?_ ?_
    | (fail_if_no_progress with_reducible refine Keeps.of_mk (Keeps.comps ?_))
    | dsimp only
    | split

theorem State.numberOn_keeps {b : Bool} {s₀ s : State} (h : Keeps b s₀ s) (a1) (a2) :
    Keeps b s₀ (State.numberOn s a1 a2) := by
  unfold State.numberOn
  repeat' first
    | with_reducible assumption
    | with_reducible refine State.modColl_keeps ?_ _ _
    | with_reducible refine State.modCourse_keeps ?_ _ _
    | with_reducible refine State.endCmd_keeps ?_ _ _
    | with_reducible refine State.ctlArrived_keeps ?_ _ _ _
    | with_reducible refine Keeps.ite ?_ ?_
    | (with_reducible refine Keeps.foldl (fun t x ht => ?_) ?_)
    | (with_reducible refine Keeps.foldl_fst (fun t x ht => ?_) ?_)
    | (fail_if_no_progress with_reducible refine Keeps.of_mk (Keeps.comps ?_))
    | dsimp only
    | split

theorem State.numberColl_keeps {b : Bool} {s₀ s : State} (h : Keeps b s₀ s) (a1) :
    Keeps b s₀ (State.numberColl s a1) := by
  unfold State.numberColl
  repeat' first
    | with_reducible assumption
    | with_reducible refine State.numberOn_keeps ?_ _ _
    | with_reducible refine State.endCmd_keeps ?_ _ _
    | with_reducible refine Keeps.ite ?_ ?_
    | (with_reducible refine Keeps.foldl (fun t x ht => ?_) ?_)
    | (with_reducible refine Keeps.foldl_fst (fun t x ht => ?_) ?_)
    | (fail_if_no_progress with_reducible refine Keeps.of_mk (Keeps.comps ?_))
    | dsimp only
    | split

theorem State.noteStart_keeps {b : Bool} {s₀ s : State} (h : Keeps b s₀ s) (a1) :
    Keeps b s₀ (State.noteStart s a1) := by
  unfold State.noteStart
  repeat' first
    | with_reducible assumption
    | with_reducible refine State.setRegFld_keeps ?_ _ _ _ _ _
    | with_reducible refine State.bumpWrap_keeps ?_ _ _ _ _ _
    | with_reducible refine State.ledgerColl_keeps ?_ _ _
    | with_reducible refine Keeps.ite ?_ ?_
    | (with_reducible refine Keeps.foldl (fun t x ht => ?_) ?_)

theorem State.sendGreetings_keeps {b : Bool} {s₀ s : State} (h : Keeps b s₀ s) (a1) :
    Keeps b s₀ (State.sendGreetings s a1) := by
  unfold State.sendGreetings
  repeat' first
    | with_reducible assumption
    | with_reducible refine State.sendMsg_keeps ?_ _ _ _ _ _ _
    | with_reducible refine State.sendTo_keeps ?_ _ _ _ _ _ _
    | with_reducible refine Keeps.ite ?_ ?_
    | (with_reducible refine Keeps.foldl (fun t x ht => ?_) ?_)

theorem State.markOut_keeps {b : Bool} {s₀ s : State} (h : Keeps b s₀ s) (a1) :
    Keeps b s₀ (State.markOut s a1) := by
  unfold State.markOut
  repeat' first
    | with_reducible assumption
    | with_reducible refine State.setShard_keeps ?_ _ _ _
    | with_reducible refine Keeps.ite ?_ ?_
    | (with_reducible refine Keeps.foldl (fun t x ht => ?_) ?_)

theorem State.startColl_keeps {b : Bool} {s₀ s : State} (h : Keeps b s₀ s) (a1) :
    Keeps b s₀ (State.startColl s a1) := by
  unfold State.startColl
  repeat' first
    | with_reducible assumption
    | with_reducible refine State.endCmd_keeps ?_ _ _
    | with_reducible refine State.noteStart_keeps ?_ _
    | with_reducible refine State.modColl_keeps ?_ _ _
    | with_reducible refine State.pumpColl_keeps ?_ _
    | with_reducible refine State.markOut_keeps ?_ _
    | with_reducible refine State.sendGreetings_keeps ?_ _
    | with_reducible refine State.collFlit_keeps ?_ _ _
    | with_reducible refine State.modCourse_keeps ?_ _ _
    | with_reducible refine Keeps.ite ?_ ?_
    | (with_reducible refine Keeps.foldl (fun t x ht => ?_) ?_)
    | (with_reducible refine Keeps.foldl_fst (fun t x ht => ?_) ?_)
    | (fail_if_no_progress with_reducible refine Keeps.of_mk (Keeps.comps ?_))
    | dsimp only
    | split

theorem State.tryColls_keeps {b : Bool} {s₀ s : State} (h : Keeps b s₀ s) (a1) :
    Keeps b s₀ (State.tryColls s a1) := by
  unfold State.tryColls
  repeat' first
    | with_reducible assumption
    | with_reducible refine State.numberColl_keeps ?_ _
    | with_reducible refine State.startColl_keeps ?_ _
    | with_reducible refine Keeps.ite ?_ ?_
    | (with_reducible refine Keeps.foldl (fun t x ht => ?_) ?_)
    | (with_reducible refine Keeps.foldl_fst (fun t x ht => ?_) ?_)
    | (fail_if_no_progress with_reducible refine Keeps.of_mk (Keeps.comps ?_))
    | dsimp only
    | split

end Sys2Proof.Machine
end

