-- ==== Sys2Proof/Laws/Keeps/Courses.lean ====
section
/-! SUPPORT. What the operations of Machine/Courses.lean keep. -/

namespace Sys2Proof.Machine

theorem State.courseEvent_keeps {b : Bool} {s₀ s : State} (h : Keeps b s₀ s) (a1) :
    Keeps b s₀ (State.courseEvent s a1) := by
  unfold State.courseEvent
  repeat' first
    | with_reducible assumption
    | with_reducible refine State.raise__keeps ?_ _ _ _

theorem State.endColls_keeps {b : Bool} {s₀ s : State} (h : Keeps b s₀ s) (a1) (a2) :
    Keeps b s₀ (State.endColls s a1 a2) := by
  unfold State.endColls
  repeat' first
    | with_reducible assumption
    | with_reducible refine State.endCmd_keeps ?_ _ _
    | with_reducible refine Keeps.ite ?_ ?_
    | (with_reducible refine Keeps.foldl (fun t x ht => ?_) ?_)

theorem State.dropCourse_keeps {b : Bool} {s₀ s : State} (h : Keeps b s₀ s) (a1) (a2) :
    Keeps b s₀ (State.dropCourse s a1 a2) := by
  unfold State.dropCourse
  repeat' first
    | with_reducible assumption
    | with_reducible refine State.modCourse_keeps ?_ _ _
    | with_reducible refine State.tryColls_keeps ?_ _
    | with_reducible refine State.courseEvent_keeps ?_ _
    | with_reducible refine State.endColls_keeps ?_ _ _

theorem State.settleShards_keeps {b : Bool} {s₀ s : State} (h : Keeps b s₀ s) (a1) (a2) :
    Keeps b s₀ (State.settleShards s a1 a2) := by
  unfold State.settleShards
  repeat' first
    | with_reducible assumption
    | with_reducible refine State.setShard_keeps ?_ _ _ _
    | with_reducible refine State.emit_keeps ?_ _
    | with_reducible refine Keeps.ite ?_ ?_
    | (with_reducible refine Keeps.foldl (fun t x ht => ?_) ?_)

theorem State.courseUp_keeps {b : Bool} {s₀ s : State} (h : Keeps b s₀ s) (a1) (a2) :
    Keeps b s₀ (State.courseUp s a1 a2) := by
  unfold State.courseUp
  repeat' first
    | with_reducible assumption
    | with_reducible refine State.modCourse_keeps ?_ _ _
    | with_reducible refine State.setRegFld_keeps ?_ _ _ _ _ _
    | with_reducible refine State.tryColls_keeps ?_ _
    | with_reducible refine State.settleShards_keeps ?_ _ _
    | with_reducible refine Keeps.ite ?_ ?_

theorem State.walkFails_keeps {b : Bool} {s₀ s : State} (h : Keeps b s₀ s) (a1) :
    Keeps b s₀ (State.walkFails s a1) := by
  unfold State.walkFails
  repeat' first
    | with_reducible assumption
    | with_reducible refine State.dropCourse_keeps ?_ _ _

theorem State.refuseWalk_keeps {b : Bool} {s₀ s : State} (h : Keeps b s₀ s) (a1) (a2) :
    Keeps b s₀ (State.refuseWalk s a1 a2) := by
  unfold State.refuseWalk
  repeat' first
    | with_reducible assumption
    | with_reducible refine State.emit_keeps ?_ _
    | with_reducible refine State.walkFails_keeps ?_ _

theorem State.judgeChain_keeps {b : Bool} {s₀ s : State} (h : Keeps b s₀ s) (a1) (a2) :
    Keeps b s₀ (State.judgeChain s a1 a2) := by
  unfold State.judgeChain
  repeat' first
    | with_reducible assumption
    | with_reducible refine State.courseUp_keeps ?_ _ _
    | with_reducible refine State.emit_keeps ?_ _
    | with_reducible refine State.refuseWalk_keeps ?_ _ _
    | with_reducible refine Keeps.ite ?_ ?_

theorem State.passToken_keeps {b : Bool} {s₀ s : State} (h : Keeps b s₀ s) (a1) (a2) :
    Keeps b s₀ (State.passToken s a1 a2) := by
  unfold State.passToken
  repeat' first
    | with_reducible assumption
    | with_reducible refine State.judgeChain_keeps ?_ _ _
    | with_reducible refine State.emit_keeps ?_ _
    | with_reducible refine Keeps.ite ?_ ?_

theorem State.startFallback_keeps {b : Bool} {s₀ s : State} (h : Keeps b s₀ s) (a1) (a2) :
    Keeps b s₀ (State.startFallback s a1 a2) := by
  unfold State.startFallback
  repeat' first
    | with_reducible assumption
    | with_reducible refine State.endColls_keeps ?_ _ _
    | with_reducible refine State.modCourse_keeps ?_ _ _
    | with_reducible refine State.courseEvent_keeps ?_ _
    | with_reducible refine State.passToken_keeps ?_ _ _
    | with_reducible refine State.tryColls_keeps ?_ _
    | with_reducible refine Keeps.ite ?_ ?_

theorem State.breakCourse_keeps {b : Bool} {s₀ s : State} (h : Keeps b s₀ s) (a1) :
    Keeps b s₀ (State.breakCourse s a1) := by
  unfold State.breakCourse
  repeat' first
    | with_reducible assumption
    | with_reducible refine State.dropCourse_keeps ?_ _ _

theorem State.loseLink_keeps {b : Bool} {s₀ s : State} (h : Keeps b s₀ s) (a1) :
    Keeps b s₀ (State.loseLink s a1) := by
  unfold State.loseLink
  repeat' first
    | with_reducible assumption
    | with_reducible refine State.judgeChain_keeps ?_ _ _
    | with_reducible refine State.refuseWalk_keeps ?_ _ _
    | with_reducible refine State.startFallback_keeps ?_ _ _
    | with_reducible refine State.emit_keeps ?_ _
    | with_reducible refine State.breakCourse_keeps ?_ _
    | with_reducible refine Keeps.ite ?_ ?_

theorem State.peerDeparts_keeps {b : Bool} {s₀ s : State} (h : Keeps b s₀ s) (a1) :
    Keeps b s₀ (State.peerDeparts s a1) := by
  unfold State.peerDeparts
  repeat' first
    | with_reducible assumption
    | with_reducible refine State.loseLink_keeps ?_ _
    | with_reducible refine State.modPort_keeps ?_ _ _
    | with_reducible refine Keeps.ite ?_ ?_

theorem wlGone_keeps {b : Bool} {s₀ : State} {r : State × Bool} (h : Keeps b s₀ r.1) (a1) : Keeps b s₀ (wlGone r a1) := by
  unfold wlGone
  repeat' first
    | with_reducible assumption
    | with_reducible refine State.loseLink_keeps ?_ _
    | with_reducible refine Keeps.ite ?_ ?_

theorem State.verdictArrives_keeps {b : Bool} {s₀ s : State} (h : Keeps b s₀ s) (a1) (a2) :
    Keeps b s₀ (State.verdictArrives s a1 a2) := by
  unfold State.verdictArrives
  repeat' first
    | with_reducible assumption
    | with_reducible refine State.courseUp_keeps ?_ _ _
    | with_reducible refine State.emit_keeps ?_ _
    | with_reducible refine State.walkFails_keeps ?_ _
    | with_reducible refine State.breakCourse_keeps ?_ _
    | with_reducible refine Keeps.ite ?_ ?_

theorem State.tokenArrives_keeps {b : Bool} {s₀ s : State} (h : Keeps b s₀ s) (a1) (a2) :
    Keeps b s₀ (State.tokenArrives s a1 a2) := by
  unfold State.tokenArrives
  repeat' first
    | with_reducible assumption
    | with_reducible refine State.passToken_keeps ?_ _ _
    | with_reducible refine State.modCourse_keeps ?_ _ _
    | with_reducible refine State.startFallback_keeps ?_ _ _
    | with_reducible refine State.emit_keeps ?_ _
    | with_reducible refine State.breakCourse_keeps ?_ _
    | with_reducible refine State.courseUp_keeps ?_ _ _
    | with_reducible refine State.refuseWalk_keeps ?_ _ _
    | with_reducible refine Keeps.ite ?_ ?_

end Sys2Proof.Machine
end

