-- ==== Sys2Proof/Laws/Keeps/Narar.lean ====
section
/-! SUPPORT. What the operations of Machine/Narar.lean keep. -/

namespace Sys2Proof.Machine

theorem State.goodFlit_keeps {b : Bool} {s₀ s : State} (h : Keeps b s₀ s) (a1) (a2) :
    Keeps b s₀ (State.goodFlit s a1 a2) := by
  unfold State.goodFlit
  repeat' first
    | with_reducible assumption
    | with_reducible refine State.takeAck_keeps ?_ _ _
    | with_reducible refine State.replayAfter_keeps ?_ _ _
    | with_reducible refine State.takeSlow_keeps ?_ _ _
    | with_reducible refine State.pumpPort_keeps ?_ _ _
    | with_reducible refine State.modPort_keeps ?_ _ _
    | with_reducible refine State.collFlit_keeps ?_ _ _
    | with_reducible refine State.sendNak_keeps ?_ _
    | with_reducible refine Keeps.ite ?_ ?_

theorem execFlitReceive_keeps {b : Bool} {s₀ s : State} (h : Keeps b s₀ s) (a1) (a2) (a3) :
    KeepsA b s₀ (execFlitReceive a1 a2 a3 s) := by
  unfold execFlitReceive
  repeat' first
    | with_reducible assumption
    | with_reducible refine KeepsA.next ?_
    | with_reducible refine wlGone_keeps ?_ _
    | with_reducible refine State.crcError_keeps ?_ _ _
    | with_reducible refine State.goodFlit_keeps ?_ _ _
    | with_reducible refine State.tryColls_keeps ?_ _
    | with_reducible refine KeepsA.ite ?_ ?_

theorem execWavelengthLockLoss_keeps {b : Bool} {s₀ s : State} (h : Keeps b s₀ s) (a1) (a2) :
    KeepsA b s₀ (execWavelengthLockLoss a1 a2 s) := by
  unfold execWavelengthLockLoss
  repeat' first
    | with_reducible assumption
    | with_reducible refine KeepsA.next ?_
    | with_reducible refine wlGone_keeps ?_ _
    | with_reducible refine State.retireWl_keeps ?_ _ _

theorem execDepartedNotice_keeps {b : Bool} {s₀ s : State} (h : Keeps b s₀ s) (a1) :
    KeepsA b s₀ (execDepartedNotice a1 s) := by
  unfold execDepartedNotice
  repeat' first
    | with_reducible assumption
    | with_reducible refine KeepsA.next ?_
    | with_reducible refine State.peerDeparts_keeps ?_ _

theorem execPeerLockLoss_keeps {b : Bool} {s₀ s : State} (h : Keeps b s₀ s) (a1) (a2) :
    KeepsA b s₀ (execPeerLockLoss a1 a2 s) := by
  unfold execPeerLockLoss
  repeat' first
    | with_reducible assumption
    | with_reducible refine KeepsA.next ?_
    | with_reducible refine State.peerDeparts_keeps ?_ _
    | with_reducible refine State.at__keeps ?_ _

theorem execPortLinkTraining_keeps {b : Bool} {s₀ s : State} (h : Keeps b s₀ s) (a1) (a2) (a3) (a4) :
    KeepsA b s₀ (execPortLinkTraining a1 a2 a3 a4 s) := by
  unfold execPortLinkTraining
  repeat' first
    | with_reducible assumption
    | with_reducible refine KeepsA.next ?_
    | with_reducible refine State.modPort_keeps ?_ _ _
    | with_reducible refine State.noteHealth_keeps ?_ _ _
    | with_reducible refine KeepsA.ite ?_ ?_

theorem execCourseEnable_keeps {b : Bool} {s₀ s : State} (h : Keeps b s₀ s) (a1) (a2) (a3) :
    KeepsA b s₀ (execCourseEnable a1 a2 a3 s) := by
  unfold execCourseEnable
  repeat' first
    | with_reducible assumption
    | with_reducible refine KeepsA.next ?_
    | with_reducible refine State.onWrite_keeps (fun t ht => ?_) ?_ _ _
    | with_reducible refine State.setReg_keeps ?_ _ _ _
    | with_reducible refine State.modCourse_keeps ?_ _ _
    | with_reducible refine State.passToken_keeps ?_ _ _
    | with_reducible refine KeepsA.ite ?_ ?_
    | with_reducible refine Keeps.ite ?_ ?_

theorem execCourseDisable_keeps {b : Bool} {s₀ s : State} (h : Keeps b s₀ s) (a1) (a2) (a3) (a4) :
    KeepsA b s₀ (execCourseDisable a1 a2 a3 a4 s) := by
  unfold execCourseDisable
  repeat' first
    | with_reducible assumption
    | with_reducible refine KeepsA.next ?_
    | with_reducible refine State.onWrite_keeps (fun t ht => ?_) ?_ _ _
    | with_reducible refine State.setReg_keeps ?_ _ _ _
    | with_reducible refine State.endColls_keeps ?_ _ _
    | with_reducible refine State.modCourse_keeps ?_ _ _
    | with_reducible refine State.departPorts_keeps ?_ _
    | with_reducible refine State.lostUpdate_keeps ?_ _ _ _
    | with_reducible refine State.tryColls_keeps ?_ _
    | with_reducible refine KeepsA.ite ?_ ?_
    | with_reducible refine Keeps.ite ?_ ?_
    | (fail_if_no_progress with_reducible refine Keeps.of_mk (Keeps.comps ?_))
    | dsimp only
    | split

theorem execWalkToken_keeps {b : Bool} {s₀ s : State} (h : Keeps b s₀ s) (a1) (a2) :
    KeepsA b s₀ (execWalkToken a1 a2 s) := by
  unfold execWalkToken
  repeat' first
    | with_reducible assumption
    | with_reducible refine KeepsA.next ?_
    | with_reducible refine State.verdictArrives_keeps ?_ _ _
    | with_reducible refine State.tokenArrives_keeps ?_ _ _
    | with_reducible refine KeepsA.ite ?_ ?_
    | with_reducible refine Keeps.ite ?_ ?_

theorem execWalkTimeout_keeps {b : Bool} {s₀ s : State} (h : Keeps b s₀ s) (a1) (a2) :
    KeepsA b s₀ (execWalkTimeout a1 a2 s) := by
  unfold execWalkTimeout
  repeat' first
    | with_reducible assumption
    | with_reducible refine KeepsA.next ?_
    | with_reducible refine State.at__keeps ?_ _
    | with_reducible refine State.walkFails_keeps ?_ _
    | with_reducible refine KeepsA.ite ?_ ?_

theorem collStart_keeps {b : Bool} {s₀ s : State} (h : Keeps b s₀ s) (a1) :
    Keeps b s₀ (collStart s a1) := by
  unfold collStart
  repeat' first
    | with_reducible assumption
    | with_reducible refine State.tryColls_keeps ?_ _
    | with_reducible refine State.cmdWaits_keeps ?_ _ _
    | with_reducible refine State.modColl_keeps ?_ _ _

theorem collRow_keeps {b : Bool} {s₀ s : State} (h : Keeps b s₀ s) (a1) (a2) :
    Keeps b s₀ (collRow a1 a2 s) := by
  unfold collRow
  repeat' first
    | with_reducible assumption
    | with_reducible refine dispatchRowT_keeps (fun t c ht => ?_) ?_ _ _ _ _ _ _
    | with_reducible refine collStart_keeps ?_ _

theorem execReduceScatter_keeps {b : Bool} {s₀ s : State} (h : Keeps b s₀ s) (a1) :
    KeepsA b s₀ (execReduceScatter a1 s) := by
  unfold execReduceScatter
  repeat' first
    | with_reducible assumption
    | with_reducible refine KeepsA.next ?_
    | with_reducible refine collRow_keeps ?_ _ _

theorem execAllGather_keeps {b : Bool} {s₀ s : State} (h : Keeps b s₀ s) (a1) :
    KeepsA b s₀ (execAllGather a1 s) := by
  unfold execAllGather
  repeat' first
    | with_reducible assumption
    | with_reducible refine KeepsA.next ?_
    | with_reducible refine collRow_keeps ?_ _ _

theorem execAllReduce_keeps {b : Bool} {s₀ s : State} (h : Keeps b s₀ s) (a1) :
    KeepsA b s₀ (execAllReduce a1 s) := by
  unfold execAllReduce
  repeat' first
    | with_reducible assumption
    | with_reducible refine KeepsA.next ?_
    | with_reducible refine collRow_keeps ?_ _ _

theorem execBroadcast_keeps {b : Bool} {s₀ s : State} (h : Keeps b s₀ s) (a1) :
    KeepsA b s₀ (execBroadcast a1 s) := by
  unfold execBroadcast
  repeat' first
    | with_reducible assumption
    | with_reducible refine KeepsA.next ?_
    | with_reducible refine collRow_keeps ?_ _ _

theorem execPermute_keeps {b : Bool} {s₀ s : State} (h : Keeps b s₀ s) (a1) :
    KeepsA b s₀ (execPermute a1 s) := by
  unfold execPermute
  repeat' first
    | with_reducible assumption
    | with_reducible refine KeepsA.next ?_
    | with_reducible refine collRow_keeps ?_ _ _

theorem execReshard_keeps {b : Bool} {s₀ s : State} (h : Keeps b s₀ s) (a1) :
    KeepsA b s₀ (execReshard a1 s) := by
  unfold execReshard
  repeat' first
    | with_reducible assumption
    | with_reducible refine KeepsA.next ?_
    | with_reducible refine collRow_keeps ?_ _ _

theorem execCollTimeout_keeps {b : Bool} {s₀ s : State} (h : Keeps b s₀ s) (a1) (a2) :
    KeepsA b s₀ (execCollTimeout a1 a2 s) := by
  unfold execCollTimeout
  repeat' first
    | with_reducible assumption
    | with_reducible refine KeepsA.next ?_
    | with_reducible refine State.at__keeps ?_ _
    | with_reducible refine State.raise__keeps ?_ _ _ _
    | with_reducible refine State.failColl_keeps ?_ _ _
    | with_reducible refine State.tryColls_keeps ?_ _
    | with_reducible refine KeepsA.ite ?_ ?_
    | with_reducible refine Keeps.ite ?_ ?_
    | (with_reducible refine Keeps.foldl (fun t x ht => ?_) ?_)
    | (with_reducible refine Keeps.foldl_fst (fun t x ht => ?_) ?_)
    | (fail_if_no_progress with_reducible refine Keeps.of_mk (Keeps.comps ?_))
    | dsimp only
    | split

theorem execAbandon_keeps {b : Bool} {s₀ s : State} (h : Keeps b s₀ s) (a1) (a2) :
    KeepsA b s₀ (execAbandon a1 a2 s) := by
  unfold execAbandon
  repeat' first
    | with_reducible assumption
    | with_reducible refine KeepsA.next ?_
    | with_reducible refine State.tryColls_keeps ?_ _
    | with_reducible refine State.failColl_keeps ?_ _ _
    | with_reducible refine State.modCourse_keeps ?_ _ _
    | with_reducible refine KeepsA.ite ?_ ?_
    | with_reducible refine Keeps.ite ?_ ?_
    | (fail_if_no_progress with_reducible refine Keeps.of_mk (Keeps.comps ?_))
    | dsimp only
    | split

theorem State.noteFlip_keeps {b : Bool} {s₀ s : State} (h : Keeps b s₀ s) (a1) (a2) :
    Keeps b s₀ (State.noteFlip s a1 a2) := by
  unfold State.noteFlip
  repeat' first
    | with_reducible assumption
    | with_reducible refine State.tryColls_keeps ?_ _
    | with_reducible refine State.checkColl_keeps ?_ _
    | with_reducible refine State.modColl_keeps ?_ _ _
    | with_reducible refine Keeps.ite ?_ ?_
    | (with_reducible refine Keeps.foldl (fun t x ht => ?_) ?_)

theorem execCopied_keeps {b : Bool} {s₀ s : State} (h : Keeps b s₀ s) (a1) (a2) :
    KeepsA b s₀ (execCopied a1 a2 s) := by
  unfold execCopied
  repeat' first
    | with_reducible assumption
    | with_reducible refine KeepsA.next ?_
    | with_reducible refine State.noteFlip_keeps ?_ _ _
    | with_reducible refine State.emit_keeps ?_ _
    | with_reducible refine State.setShard_keeps ?_ _ _ _
    | with_reducible refine KeepsA.ite ?_ ?_

theorem execFlip_keeps {b : Bool} {s₀ s : State} (h : Keeps b s₀ s) (a1) (a2) (a3) (a4) :
    KeepsA b s₀ (execFlip a1 a2 a3 a4 s) := by
  unfold execFlip
  repeat' first
    | with_reducible assumption
    | with_reducible refine KeepsA.next ?_
    | with_reducible refine State.noteFlip_keeps ?_ _ _
    | with_reducible refine State.emit_keeps ?_ _
    | with_reducible refine State.setShard_keeps ?_ _ _ _
    | with_reducible refine KeepsA.ite ?_ ?_

theorem execNarShardWrite_keeps {b : Bool} {s₀ s : State} (h : Keeps b s₀ s) (a1) (a2) (a3) (a4) :
    KeepsA b s₀ (execNarShardWrite a1 a2 a3 a4 s) := by
  unfold execNarShardWrite
  repeat' first
    | with_reducible assumption
    | with_reducible refine KeepsA.next ?_
    | with_reducible refine State.onWrite_keeps (fun t ht => ?_) ?_ _ _
    | with_reducible refine State.notice_keeps ?_ _ _ _ _
    | with_reducible refine State.setShard_keeps ?_ _ _ _
    | with_reducible refine KeepsA.ite ?_ ?_
    | with_reducible refine Keeps.ite ?_ ?_
    | (fail_if_no_progress with_reducible refine Keeps.of_mk (Keeps.comps ?_))
    | dsimp only
    | split

theorem Keeps.setTime {b : Bool} {s₀ s : State} (h : Keeps b s₀ s) (n : Nat) (x : Time) (hn : b = true → s.now ≤ n) :
    Keeps b s₀ { s with now := n, time := x } :=
  ⟨h.1, h.2, h.3, h.4, h.5, h.6, h.7, fun e => Nat.le_trans (h.8 e) (hn e), h.9, h.10, h.11, h.12, h.13, h.14, h.15, h.16, h.17⟩

/-- TIMING_FLIT keeps the timebase from running back once the module has locked; the first lock steps it (R304). -/
theorem execTimingFlit_keeps {b : Bool} {s₀ s : State} (h : Keeps b s₀ s) (a1) (a2) (a3)
    (hb : b = true → s.time.everLocked = true) : KeepsA b s₀ (execTimingFlit a1 a2 a3 s) := by
  unfold execTimingFlit
  refine KeepsA.next ?_
  dsimp only
  have ht (n : Nat) (x : Time) (hn : b = true → s.now ≤ n) := h.setTime n x hn
  have hk : Keeps b s₀
      (if (s.settings.timeSource == a1) = true then
        { s with
          now := if (!s.settings.timeSource == a1) = true then s.now
            else if s.time.everLocked = true then s.now + Nat.min (a2 + a3 - s.now) ((s.now - s.time.lastFlit) / 10000)
            else a2 + a3
          time := { s.time with
            locked := true, everLocked := true, offset := ((a2 + a3 : Nat) : Int) - (s.now : Int)
            lastFlit := if (!s.settings.timeSource == a1) = true then s.now
              else if s.time.everLocked = true then
                s.now + Nat.min (a2 + a3 - s.now) ((s.now - s.time.lastFlit) / 10000)
              else a2 + a3 } }
      else s) := by
    split
    · refine ht _ _ (fun e => ?_)
      have hl := hb e
      split
      · exact Nat.le_refl _
      · first
        | exact Nat.le_add_right _ _
        | (simp only [hl, if_true]; exact Nat.le_add_right _ _)
    · exact h
  split
  · exact State.emit_keeps hk _
  · exact hk

theorem execTimeLost_keeps {b : Bool} {s₀ s : State} (h : Keeps b s₀ s) (a1) :
    KeepsA b s₀ (execTimeLost a1 s) := by
  unfold execTimeLost
  repeat' first
    | with_reducible assumption
    | with_reducible refine KeepsA.next ?_
    | with_reducible refine State.at__keeps ?_ _
    | with_reducible refine State.raise__keeps ?_ _ _ _
    | with_reducible refine KeepsA.ite ?_ ?_
    | with_reducible refine Keeps.ite ?_ ?_
    | (fail_if_no_progress with_reducible refine Keeps.of_mk (Keeps.comps ?_))

theorem execTimingFlitSend_keeps {b : Bool} {s₀ s : State} (h : Keeps b s₀ s) (a1) :
    KeepsA b s₀ (execTimingFlitSend a1 s) := by
  unfold execTimingFlitSend
  repeat' first
    | with_reducible assumption
    | with_reducible refine KeepsA.next ?_
    | with_reducible refine State.at__keeps ?_ _
    | with_reducible refine State.emit_keeps ?_ _
    | with_reducible refine KeepsA.ite ?_ ?_
    | with_reducible refine Keeps.ite ?_ ?_
    | (with_reducible refine Keeps.foldl (fun t x ht => ?_) ?_)
    | (with_reducible refine Keeps.foldl_fst (fun t x ht => ?_) ?_)
    | (fail_if_no_progress with_reducible refine Keeps.of_mk (Keeps.comps ?_))

end Sys2Proof.Machine
end

