-- ==== Sys2Proof/Laws/Keeps/KeyOps.lean ====
section
/-! SUPPORT. What the operations of Machine/KeyOps.lean keep. -/

namespace Sys2Proof.Machine

theorem State.loadSlot_keeps {b : Bool} {s₀ s : State} (h : Keeps b s₀ s) (a1) (a2) (a3) (a4) :
    Keeps b s₀ (State.loadSlot s a1 a2 a3 a4) := by
  unfold State.loadSlot
  repeat' first
    | with_reducible assumption
    | with_reducible refine State.raise__keeps ?_ _ _ _
    | with_reducible refine State.modSec_keeps ?_ _ _

theorem State.emptySlot_keeps {b : Bool} {s₀ s : State} (h : Keeps b s₀ s) (a1) (a2) :
    Keeps b s₀ (State.emptySlot s a1 a2) := by
  unfold State.emptySlot
  repeat' first
    | with_reducible assumption
    | with_reducible refine State.raise__keeps ?_ _ _ _
    | with_reducible refine State.modSec_keeps ?_ _ _
    | with_reducible refine Keeps.ite ?_ ?_

theorem State.poisonAt_keeps {b : Bool} {s₀ s : State} (h : Keeps b s₀ s) (a1) (a2) (a3) :
    Keeps b s₀ (State.poisonAt s a1 a2 a3) := by
  unfold State.poisonAt
  repeat' first
    | with_reducible assumption
    | with_reducible refine State.clearFresh_keeps ?_ _
    | with_reducible refine State.setPoison_keeps ?_ _ _
    | with_reducible refine State.dirtyAt_keeps ?_ _ _
    | with_reducible refine Keeps.ite ?_ ?_
    | (with_reducible refine Keeps.foldl (fun t x ht => ?_) ?_)

theorem State.openChunk_keeps {b : Bool} {s₀ s : State} (h : Keeps b s₀ s) (a1) (a2) :
    Keeps b s₀ (State.openChunk s a1 a2) := by
  unfold State.openChunk
  repeat' first
    | with_reducible assumption
    | with_reducible refine State.wideAt_keeps ?_ _ _ _
    | with_reducible refine State.modCmd_keeps ?_ _ _
    | with_reducible refine State.poisonAt_keeps ?_ _ _ _
    | with_reducible refine Keeps.ite ?_ ?_
    | (with_reducible refine Keeps.foldl (fun t x ht => ?_) ?_)
    | (with_reducible refine Keeps.foldl_fst (fun t x ht => ?_) ?_)
    | with_reducible refine Keeps.ite_fst ?_ ?_
    | with_reducible refine Keeps.of_fst ?_ (by assumption)
    | (fail_if_no_progress with_reducible refine Keeps.of_mk (Keeps.comps ?_))
    | dsimp only
    | split

theorem State.pumpOpen_keeps {b : Bool} {s₀ s : State} (h : Keeps b s₀ s) (a1) (a2) :
    Keeps b s₀ (State.pumpOpen s a1 a2) := by
  induction a2 generalizing s a1 with
  | zero =>
    unfold State.pumpOpen
    repeat' first
      | with_reducible assumption
  | succ n ih =>
    unfold State.pumpOpen
    repeat' first
      | with_reducible assumption
      | with_reducible refine ih ?_ _
      | with_reducible refine State.endCmd_keeps ?_ _ _
      | with_reducible refine State.finishCmd_keeps ?_ _
      | with_reducible refine State.cmdProgress_keeps ?_ _
      | with_reducible refine State.waitSlabs_keeps ?_ _ _ _
      | with_reducible refine State.openChunk_keeps ?_ _ _
      | with_reducible refine Keeps.ite ?_ ?_
      | (fail_if_no_progress with_reducible refine Keeps.of_mk (Keeps.comps ?_))
      | dsimp only
      | split

theorem State.pumpOpens_keeps {b : Bool} {s₀ s : State} (h : Keeps b s₀ s) (a1) :
    Keeps b s₀ (State.pumpOpens s a1) := by
  unfold State.pumpOpens
  repeat' first
    | with_reducible assumption
    | with_reducible refine State.pumpOpen_keeps ?_ _ _
    | with_reducible refine Keeps.ite ?_ ?_
    | (with_reducible refine Keeps.foldl (fun t x ht => ?_) ?_)

theorem State.startOpen_keeps {b : Bool} {s₀ s : State} (h : Keeps b s₀ s) (a1) :
    Keeps b s₀ (State.startOpen s a1) := by
  unfold State.startOpen
  repeat' first
    | with_reducible assumption
    | with_reducible refine State.pumpOpen_keeps ?_ _ _
    | with_reducible refine State.modCmd_keeps ?_ _ _

end Sys2Proof.Machine
end

