-- ==== Sys2Proof/Laws/Keeps/Tier.lean ====
section
/-! SUPPORT. What the operations of Machine/Tier.lean keep. -/

namespace Sys2Proof.Machine

theorem State.addJob_keeps {b : Bool} {s₀ s : State} (h : Keeps b s₀ s) (a1) (a2) :
    Keeps b s₀ (State.addJob s a1 a2) := by
  unfold State.addJob
  repeat' first
    | with_reducible assumption
    | with_reducible refine State.modTier_keeps ?_ _ _

theorem State.checkTier_keeps {b : Bool} {s₀ s : State} (h : Keeps b s₀ s) (a1) :
    Keeps b s₀ (State.checkTier s a1) := by
  unfold State.checkTier
  repeat' first
    | with_reducible assumption
    | with_reducible refine State.finishCmd_keeps ?_ _
    | with_reducible refine Keeps.ite ?_ ?_
    | (fail_if_no_progress with_reducible refine Keeps.of_mk (Keeps.comps ?_))
    | dsimp only
    | split

theorem State.uncover_keeps {b : Bool} {s₀ s : State} (h : Keeps b s₀ s) (a1) (a2) (a3) :
    Keeps b s₀ (State.uncover s a1 a2 a3) := by
  unfold State.uncover
  repeat' first
    | with_reducible assumption
    | with_reducible refine State.checkTier_keeps ?_ _
    | with_reducible refine State.modCmd_keeps ?_ _ _
    | with_reducible refine Keeps.ite ?_ ?_
    | (with_reducible refine Keeps.foldl (fun t x ht => ?_) ?_)

theorem State.sweepFrames_keeps {b : Bool} {s₀ s : State} (h : Keeps b s₀ s) (a1) :
    Keeps b s₀ (State.sweepFrames s a1) := by
  unfold State.sweepFrames
  repeat' first
    | with_reducible assumption
    | with_reducible refine State.uncover_keeps ?_ _ _ _
    | with_reducible refine State.freeFrameOf_keeps ?_ _ _
    | with_reducible refine State.addJob_keeps ?_ _ _
    | with_reducible refine Keeps.ite ?_ ?_
    | (with_reducible refine Keeps.foldl (fun t x ht => ?_) ?_)
    | (with_reducible refine Keeps.foldl_fst (fun t x ht => ?_) ?_)
    | (fail_if_no_progress with_reducible refine Keeps.of_mk (Keeps.comps ?_))
    | dsimp only
    | split

theorem fetchStart_keeps {b : Bool} {s₀ s : State} (h : Keeps b s₀ s) (a1) :
    Keeps b s₀ (fetchStart s a1) := by
  unfold fetchStart
  repeat' first
    | with_reducible assumption
    | with_reducible refine State.endCmd_keeps ?_ _ _
    | with_reducible refine State.queueFetch_keeps ?_ _ _ _ _
    | with_reducible refine State.finishCmd_keeps ?_ _
    | with_reducible refine State.modTier_keeps ?_ _ _
    | with_reducible refine State.cmdWaits_keeps ?_ _ _
    | with_reducible refine State.modCmd_keeps ?_ _ _
    | with_reducible refine Keeps.ite ?_ ?_
    | (with_reducible refine Keeps.foldl (fun t x ht => ?_) ?_)

theorem State.queueWb_keeps {b : Bool} {s₀ s : State} (h : Keeps b s₀ s) (a1) (a2) (a3) :
    Keeps b s₀ (State.queueWb s a1 a2 a3) := by
  unfold State.queueWb
  repeat' first
    | with_reducible assumption
    | with_reducible refine State.addJob_keeps ?_ _ _
    | with_reducible refine Keeps.ite ?_ ?_

theorem flushStart_keeps {b : Bool} {s₀ s : State} (h : Keeps b s₀ s) (a1) :
    Keeps b s₀ (flushStart s a1) := by
  unfold flushStart
  repeat' first
    | with_reducible assumption
    | with_reducible refine State.endCmd_keeps ?_ _ _
    | with_reducible refine State.modCmd_keeps ?_ _ _
    | with_reducible refine State.queueWb_keeps ?_ _ _ _
    | with_reducible refine State.checkTier_keeps ?_ _
    | with_reducible refine State.cmdWaits_keeps ?_ _ _
    | with_reducible refine Keeps.ite ?_ ?_
    | (with_reducible refine Keeps.foldl (fun t x ht => ?_) ?_)

theorem evictStart_keeps {b : Bool} {s₀ s : State} (h : Keeps b s₀ s) (a1) :
    Keeps b s₀ (evictStart s a1) := by
  unfold evictStart
  repeat' first
    | with_reducible assumption
    | with_reducible refine State.endCmd_keeps ?_ _ _
    | with_reducible refine State.queueWb_keeps ?_ _ _ _
    | with_reducible refine State.modFrame_keeps ?_ _ _ _
    | with_reducible refine State.cmdWaits_keeps ?_ _ _
    | with_reducible refine State.modCmd_keeps ?_ _ _
    | with_reducible refine State.checkTier_keeps ?_ _
    | with_reducible refine State.sweepFrames_keeps ?_ _
    | with_reducible refine Keeps.ite ?_ ?_
    | (with_reducible refine Keeps.foldl (fun t x ht => ?_) ?_)

theorem dropStart_keeps {b : Bool} {s₀ s : State} (h : Keeps b s₀ s) (a1) :
    Keeps b s₀ (dropStart s a1) := by
  unfold dropStart
  repeat' first
    | with_reducible assumption
    | with_reducible refine State.modFrame_keeps ?_ _ _ _
    | with_reducible refine State.cmdWaits_keeps ?_ _ _
    | with_reducible refine State.modCmd_keeps ?_ _ _
    | with_reducible refine State.checkTier_keeps ?_ _
    | with_reducible refine State.sweepFrames_keeps ?_ _
    | with_reducible refine Keeps.ite ?_ ?_
    | (with_reducible refine Keeps.foldl (fun t x ht => ?_) ?_)

theorem allocStart_keeps {b : Bool} {s₀ s : State} (h : Keeps b s₀ s) (a1) :
    Keeps b s₀ (allocStart s a1) := by
  unfold allocStart
  repeat' first
    | with_reducible assumption
    | with_reducible refine State.addJob_keeps ?_ _ _
    | with_reducible refine State.cmdWaits_keeps ?_ _ _
    | with_reducible refine State.modCmd_keeps ?_ _ _
    | with_reducible refine Keeps.ite ?_ ?_
    | (with_reducible refine Keeps.foldl (fun t x ht => ?_) ?_)

theorem tierBindStart_keeps {b : Bool} {s₀ s : State} (h : Keeps b s₀ s) (a1) :
    Keeps b s₀ (tierBindStart s a1) := by
  unfold tierBindStart
  repeat' first
    | with_reducible assumption
    | with_reducible refine State.finishCmd_keeps ?_ _
    | with_reducible refine State.modTier_keeps ?_ _ _

theorem execFetch_keeps {b : Bool} {s₀ s : State} (h : Keeps b s₀ s) (a1) :
    KeepsA b s₀ (execFetch a1 s) := by
  unfold execFetch
  repeat' first
    | with_reducible assumption
    | with_reducible refine KeepsA.next ?_
    | with_reducible refine dispatchRow_keeps (fun t c ht => ?_) ?_ _ _ _ _
    | with_reducible refine fetchStart_keeps ?_ _

theorem execFlush_keeps {b : Bool} {s₀ s : State} (h : Keeps b s₀ s) (a1) :
    KeepsA b s₀ (execFlush a1 s) := by
  unfold execFlush
  repeat' first
    | with_reducible assumption
    | with_reducible refine KeepsA.next ?_
    | with_reducible refine dispatchRow_keeps (fun t c ht => ?_) ?_ _ _ _ _
    | with_reducible refine flushStart_keeps ?_ _

theorem execEvict_keeps {b : Bool} {s₀ s : State} (h : Keeps b s₀ s) (a1) :
    KeepsA b s₀ (execEvict a1 s) := by
  unfold execEvict
  repeat' first
    | with_reducible assumption
    | with_reducible refine KeepsA.next ?_
    | with_reducible refine dispatchRow_keeps (fun t c ht => ?_) ?_ _ _ _ _
    | with_reducible refine evictStart_keeps ?_ _

theorem execDrop_keeps {b : Bool} {s₀ s : State} (h : Keeps b s₀ s) (a1) :
    KeepsA b s₀ (execDrop a1 s) := by
  unfold execDrop
  repeat' first
    | with_reducible assumption
    | with_reducible refine KeepsA.next ?_
    | with_reducible refine dispatchRow_keeps (fun t c ht => ?_) ?_ _ _ _ _
    | with_reducible refine dropStart_keeps ?_ _

theorem execAlloc_keeps {b : Bool} {s₀ s : State} (h : Keeps b s₀ s) (a1) :
    KeepsA b s₀ (execAlloc a1 s) := by
  unfold execAlloc
  repeat' first
    | with_reducible assumption
    | with_reducible refine KeepsA.next ?_
    | with_reducible refine dispatchRow_keeps (fun t c ht => ?_) ?_ _ _ _ _
    | with_reducible refine allocStart_keeps ?_ _

theorem execBind_keeps {b : Bool} {s₀ s : State} (h : Keeps b s₀ s) (a1) :
    KeepsA b s₀ (execBind a1 s) := by
  unfold execBind
  repeat' first
    | with_reducible assumption
    | with_reducible refine KeepsA.next ?_
    | with_reducible refine dispatchRow_keeps (fun t c ht => ?_) ?_ _ _ _ _
    | with_reducible refine tierBindStart_keeps ?_ _

theorem State.takeFrame_keeps {b : Bool} {s₀ s : State} (h : Keeps b s₀ s) (a1) (a2) (a3) :
    Keeps b s₀ (State.takeFrame s a1 a2 a3).1 := by
  unfold State.takeFrame
  repeat' first
    | with_reducible assumption
    | with_reducible refine State.addJob_keeps ?_ _ _
    | with_reducible refine State.freeFrameOf_keeps ?_ _ _
    | with_reducible refine Keeps.ite ?_ ?_
    | with_reducible refine Keeps.ite_fst ?_ ?_
    | with_reducible refine Keeps.of_fst ?_ (by assumption)
    | (fail_if_no_progress with_reducible refine Keeps.of_mk (Keeps.comps ?_))
    | dsimp only
    | split

theorem State.fillFrame_keeps {b : Bool} {s₀ s : State} (h : Keeps b s₀ s) (a1) (a2) (a3) (a4) :
    Keeps b s₀ (State.fillFrame s a1 a2 a3 a4) := by
  unfold State.fillFrame
  repeat' first
    | with_reducible assumption
    | with_reducible refine State.modTier_keeps ?_ _ _
    | with_reducible refine State.setFrame_keeps ?_ _ _ _

theorem State.fetchNmu_keeps {b : Bool} {s₀ s : State} (h : Keeps b s₀ s) (a1) (a2) :
    KeepsO b s₀ (State.fetchNmu s a1 a2) := by
  unfold State.fetchNmu
  repeat' first
    | with_reducible assumption
    | with_reducible refine KeepsO.some ?_
    | with_reducible exact KeepsO.none
    | with_reducible refine State.modFrame_keeps ?_ _ _ _
    | with_reducible refine State.takeFrame_keeps ?_ _ _ _
    | with_reducible refine State.bump_keeps ?_ _ _ _ _ _
    | with_reducible refine State.fillFrame_keeps ?_ _ _ _ _
    | with_reducible refine State.modTier_keeps ?_ _ _
    | with_reducible refine KeepsO.ite ?_ ?_
    | with_reducible refine Keeps.ite ?_ ?_
    | (with_reducible refine Keeps.foldl (fun t x ht => ?_) ?_)
    | (with_reducible refine Keeps.foldl_fst (fun t x ht => ?_) ?_)
    | with_reducible refine Keeps.ite_fst ?_ ?_
    | with_reducible refine Keeps.of_fst ?_ (by assumption)
    | (fail_if_no_progress with_reducible refine Keeps.of_mk (Keeps.comps ?_))
    | dsimp only
    | split

theorem State.startJob_keeps {b : Bool} {s₀ s : State} (h : Keeps b s₀ s) (a1) (a2) :
    KeepsO b s₀ (State.startJob s a1 a2) := by
  unfold State.startJob
  repeat' first
    | with_reducible assumption
    | with_reducible refine KeepsO.some ?_
    | with_reducible exact KeepsO.none
    | with_reducible refine State.modTier_keeps ?_ _ _
    | with_reducible refine State.uncover_keeps ?_ _ _ _
    | with_reducible refine State.modFrame_keeps ?_ _ _ _
    | with_reducible refine State.freshen_keeps ?_ _
    | with_reducible refine State.takeFrame_keeps ?_ _ _ _
    | with_reducible refine State.fillFrame_keeps ?_ _ _ _ _
    | with_reducible refine State.endCmd_keeps ?_ _ _
    | with_reducible refine State.fetchNmu_keeps ?_ _ _
    | with_reducible refine KeepsO.get (State.fetchNmu_keeps ?_ _ _) (by assumption)
    | with_reducible refine State.bump_keeps ?_ _ _ _ _ _
    | with_reducible refine KeepsO.ite ?_ ?_
    | with_reducible refine Keeps.ite ?_ ?_
    | with_reducible refine Keeps.ite_fst ?_ ?_
    | with_reducible refine Keeps.of_fst ?_ (by assumption)
    | (fail_if_no_progress with_reducible refine Keeps.of_mk (Keeps.comps ?_))
    | dsimp only
    | split

theorem State.firstJob_keeps {b : Bool} {s₀ s : State} (h : Keeps b s₀ s) (a1) (a2) :
    Keeps b s₀ (State.firstJob s a1 a2) := by
  induction a2 generalizing s a1 with
  | nil =>
    unfold State.firstJob
    repeat' first
      | with_reducible assumption
  | cons x l ih =>
    unfold State.firstJob
    repeat' first
      | with_reducible assumption
      | with_reducible refine ih ?_ _
      | with_reducible refine KeepsO.get (State.startJob_keeps ?_ _ _) (by assumption)
      | with_reducible refine Keeps.ite ?_ ?_
      | (fail_if_no_progress with_reducible refine Keeps.of_mk (Keeps.comps ?_))
      | dsimp only
      | split

theorem execSlabFetch_keeps {b : Bool} {s₀ s : State} (h : Keeps b s₀ s) (a1) :
    KeepsA b s₀ (execSlabFetch a1 s) := by
  unfold execSlabFetch
  repeat' first
    | with_reducible assumption
    | with_reducible refine KeepsA.next ?_
    | with_reducible refine State.sweepFrames_keeps ?_ _
    | with_reducible refine State.firstJob_keeps ?_ _ _
    | with_reducible refine KeepsA.ite ?_ ?_

theorem State.landBlock_keeps {b : Bool} {s₀ s : State} (h : Keeps b s₀ s) (a1) (a2) (a3) (a4) (a5) :
    Keeps b s₀ (State.landBlock s a1 a2 a3 a4 a5) := by
  unfold State.landBlock
  repeat' first
    | with_reducible assumption
    | with_reducible refine State.poisonGranule_keeps ?_ _
    | with_reducible refine State.markDamaged_keeps ?_ _ _ _
    | with_reducible refine State.bump_keeps ?_ _ _ _ _ _
    | with_reducible refine State.poke_keeps ?_ _ _
    | with_reducible refine Keeps.ite ?_ ?_
    | (fail_if_no_progress with_reducible refine Keeps.of_mk (Keeps.comps ?_))
    | dsimp only
    | split

theorem State.slabDone_keeps {b : Bool} {s₀ s : State} (h : Keeps b s₀ s) (a1) (a2) :
    Keeps b s₀ (State.slabDone s a1 a2) := by
  unfold State.slabDone
  repeat' first
    | with_reducible assumption
    | with_reducible refine State.uncover_keeps ?_ _ _ _
    | with_reducible refine State.modCmd_keeps ?_ _ _
    | with_reducible refine State.cmdWakes_keeps ?_ _
    | with_reducible refine State.tryColls_keeps ?_ _
    | with_reducible refine State.pumpColls_keeps ?_ _
    | with_reducible refine State.pumpOpens_keeps ?_ _
    | with_reducible refine State.flushWins_keeps ?_
    | with_reducible refine State.ledgerDrain_keeps ?_ _ _
    | with_reducible refine Keeps.ite ?_ ?_
    | (with_reducible refine Keeps.foldl (fun t x ht => ?_) ?_)

theorem State.bridgeDown_keeps {b : Bool} {s₀ s : State} (h : Keeps b s₀ s) (a1) :
    Keeps b s₀ (State.bridgeDown s a1) := by
  unfold State.bridgeDown
  repeat' first
    | with_reducible assumption
    | with_reducible refine State.endCmd_keeps ?_ _ _
    | with_reducible refine State.freeFrameOf_keeps ?_ _ _
    | with_reducible refine State.ledgerAbandon_keeps ?_ _ _
    | with_reducible refine Keeps.ite ?_ ?_
    | (with_reducible refine Keeps.foldl (fun t x ht => ?_) ?_)
    | (with_reducible refine Keeps.foldl_fst (fun t x ht => ?_) ?_)
    | (fail_if_no_progress with_reducible refine Keeps.of_mk (Keeps.comps ?_))
    | dsimp only
    | split

theorem State.retirePkg_keeps {b : Bool} {s₀ s : State} (h : Keeps b s₀ s) (a1) :
    Keeps b s₀ (State.retirePkg s a1) := by
  unfold State.retirePkg
  repeat' first
    | with_reducible assumption
    | with_reducible refine State.faultEntry_keeps ?_ _ _ _ _
    | with_reducible refine State.bridgeDown_keeps ?_ _
    | with_reducible refine State.noteHealth_keeps ?_ _ _
    | with_reducible refine Keeps.ite ?_ ?_
    | (fail_if_no_progress with_reducible refine Keeps.of_mk (Keeps.comps ?_))

theorem State.pkgReject_keeps {b : Bool} {s₀ s : State} (h : Keeps b s₀ s) (a1) :
    Keeps b s₀ (State.pkgReject s a1) := by
  unfold State.pkgReject
  repeat' first
    | with_reducible assumption
    | with_reducible refine State.retirePkg_keeps ?_ _
    | with_reducible refine Keeps.ite ?_ ?_
    | (fail_if_no_progress with_reducible refine Keeps.of_mk (Keeps.comps ?_))

theorem execSlabReady_keeps {b : Bool} {s₀ s : State} (h : Keeps b s₀ s) (a1) (a2) (a3) :
    KeepsA b s₀ (execSlabReady a1 a2 a3 s) := by
  unfold execSlabReady
  repeat' first
    | with_reducible assumption
    | with_reducible refine KeepsA.next ?_
    | with_reducible refine State.landBlock_keeps ?_ _ _ _ _ _
    | with_reducible refine State.slabDone_keeps ?_ _ _
    | with_reducible refine State.modFrame_keeps ?_ _ _ _
    | with_reducible refine State.pkgReject_keeps ?_ _
    | with_reducible refine KeepsA.ite ?_ ?_
    | with_reducible refine Keeps.ite ?_ ?_
    | (with_reducible refine Keeps.foldl (fun t x ht => ?_) ?_)
    | (with_reducible refine Keeps.foldl_fst (fun t x ht => ?_) ?_)
    | (fail_if_no_progress with_reducible refine Keeps.of_mk (Keeps.comps ?_))
    | dsimp only
    | split

theorem execReadyTimeout_keeps {b : Bool} {s₀ s : State} (h : Keeps b s₀ s) (a1) (a2) :
    KeepsA b s₀ (execReadyTimeout a1 a2 s) := by
  unfold execReadyTimeout
  repeat' first
    | with_reducible assumption
    | with_reducible refine KeepsA.next ?_
    | with_reducible refine State.at__keeps ?_ _
    | with_reducible refine State.ledgerExpire_keeps ?_ _
    | with_reducible refine State.raise__keeps ?_ _ _ _
    | with_reducible refine State.endCmd_keeps ?_ _ _
    | with_reducible refine KeepsA.ite ?_ ?_
    | with_reducible refine Keeps.ite ?_ ?_
    | (with_reducible refine Keeps.foldl (fun t x ht => ?_) ?_)
    | (with_reducible refine Keeps.foldl_fst (fun t x ht => ?_) ?_)
    | (fail_if_no_progress with_reducible refine Keeps.of_mk (Keeps.comps ?_))
    | dsimp only
    | split

theorem execWritebackDone_keeps {b : Bool} {s₀ s : State} (h : Keeps b s₀ s) (a1) (a2) :
    KeepsA b s₀ (execWritebackDone a1 a2 s) := by
  unfold execWritebackDone
  repeat' first
    | with_reducible assumption
    | with_reducible refine KeepsA.next ?_
    | with_reducible refine State.modFrame_keeps ?_ _ _ _
    | with_reducible refine State.storeSlab_keeps ?_ _ _ _ _
    | with_reducible refine State.bump_keeps ?_ _ _ _ _ _
    | with_reducible refine State.sweepFrames_keeps ?_ _
    | with_reducible refine State.uncover_keeps ?_ _ _ _
    | with_reducible refine KeepsA.ite ?_ ?_
    | with_reducible refine Keeps.ite ?_ ?_
    | (fail_if_no_progress with_reducible refine Keeps.of_mk (Keeps.comps ?_))
    | dsimp only
    | split

end Sys2Proof.Machine
end

