-- ==== Sys2Proof/Laws/Keeps/Links.lean ====
section
/-! SUPPORT. What the operations of Machine/Links.lean keep. -/

namespace Sys2Proof.Machine

theorem State.endOpenReqs_keeps {b : Bool} {s₀ s : State} (h : Keeps b s₀ s) (a1) :
    Keeps b s₀ (State.endOpenReqs s a1) := by
  unfold State.endOpenReqs
  repeat' first
    | with_reducible assumption
    | with_reducible refine State.failPersist_keeps ?_ _ _
    | with_reducible refine State.endCmd_keeps ?_ _ _
    | with_reducible refine State.fenceWin_keeps ?_ _ _
    | with_reducible refine Keeps.ite ?_ ?_
    | (with_reducible refine Keeps.foldl (fun t x ht => ?_) ?_)
    | (with_reducible refine Keeps.foldl_fst (fun t x ht => ?_) ?_)
    | (fail_if_no_progress with_reducible refine Keeps.of_mk (Keeps.comps ?_))
    | dsimp only
    | split

theorem State.raiseFence_keeps {b : Bool} {s₀ s : State} (h : Keeps b s₀ s) (a1) (a2) :
    Keeps b s₀ (State.raiseFence s a1 a2) := by
  unfold State.raiseFence
  repeat' first
    | with_reducible assumption
    | with_reducible refine State.raiseOpen_keeps ?_ _ _
    | with_reducible refine Keeps.ite ?_ ?_
    | (with_reducible refine Keeps.foldl (fun t x ht => ?_) ?_)

theorem State.fenceSite_keeps {b : Bool} {s₀ s : State} (h : Keeps b s₀ s) (a1) :
    Keeps b s₀ (State.fenceSite s a1) := by
  unfold State.fenceSite
  repeat' first
    | with_reducible assumption
    | with_reducible refine State.raiseFence_keeps ?_ _ _
    | with_reducible refine State.endOpenReqs_keeps ?_ _
    | with_reducible refine State.flushWins_keeps ?_
    | with_reducible refine Keeps.ite ?_ ?_
    | (fail_if_no_progress with_reducible refine Keeps.of_mk (Keeps.comps ?_))

theorem State.fenceModule_keeps {b : Bool} {s₀ s : State} (h : Keeps b s₀ s) (a1) :
    Keeps b s₀ (State.fenceModule s a1) := by
  unfold State.fenceModule
  repeat' first
    | with_reducible assumption
    | with_reducible refine State.fenceSite_keeps ?_ _
    | with_reducible refine State.flushWins_keeps ?_
    | with_reducible refine State.raiseFence_keeps ?_ _ _
    | with_reducible refine State.endOpenReqs_keeps ?_ _
    | with_reducible refine Keeps.ite ?_ ?_
    | (fail_if_no_progress with_reducible refine Keeps.of_mk (Keeps.comps ?_))

theorem State.loseEngine_keeps {b : Bool} {s₀ s : State} (h : Keeps b s₀ s) (a1) :
    Keeps b s₀ (State.loseEngine s a1) := by
  unfold State.loseEngine
  repeat' first
    | with_reducible assumption
    | with_reducible refine State.noteHealth_keeps ?_ _ _
    | with_reducible refine State.departPorts_keeps ?_ _
    | with_reducible refine State.modPort_keeps ?_ _ _
    | with_reducible refine State.breakCourse_keeps ?_ _
    | with_reducible refine Keeps.ite ?_ ?_
    | (with_reducible refine Keeps.foldl (fun t x ht => ?_) ?_)

theorem State.faultLink_keeps {b : Bool} {s₀ s : State} (h : Keeps b s₀ s) (a1) :
    Keeps b s₀ (State.faultLink s a1) := by
  unfold State.faultLink
  repeat' first
    | with_reducible assumption
    | with_reducible refine State.modLink_keeps ?_ _ _
    | with_reducible refine State.noteHealth_keeps ?_ _ _
    | with_reducible refine State.raise__keeps ?_ _ _ _
    | with_reducible refine State.faultPart_keeps ?_ _
    | with_reducible refine State.tripStack_keeps ?_ _
    | with_reducible refine State.loseEngine_keeps ?_ _
    | with_reducible refine State.bridgeDown_keeps ?_ _
    | with_reducible refine State.fenceModule_keeps ?_ _
    | with_reducible refine Keeps.ite ?_ ?_
    | (fail_if_no_progress with_reducible refine Keeps.of_mk (Keeps.comps ?_))

theorem execLinkFrameReceive_keeps {b : Bool} {s₀ s : State} (h : Keeps b s₀ s) (a1) (a2) (a3) :
    KeepsA b s₀ (execLinkFrameReceive a1 a2 a3 s) := by
  unfold execLinkFrameReceive
  repeat' first
    | with_reducible assumption
    | with_reducible refine KeepsA.next ?_
    | with_reducible refine State.at__keeps ?_ _
    | with_reducible refine State.modLink_keeps ?_ _ _
    | with_reducible refine State.countUpset_keeps ?_ _
    | with_reducible refine State.emit_keeps ?_ _
    | with_reducible refine State.faultLink_keeps ?_ _
    | with_reducible refine KeepsA.ite ?_ ?_

theorem execLinkLockLoss_keeps {b : Bool} {s₀ s : State} (h : Keeps b s₀ s) (a1) :
    KeepsA b s₀ (execLinkLockLoss a1 s) := by
  unfold execLinkLockLoss
  repeat' first
    | with_reducible assumption
    | with_reducible refine KeepsA.next ?_
    | with_reducible refine State.faultLink_keeps ?_ _

theorem State.pokeRange_keeps {b : Bool} {s₀ s : State} (h : Keeps b s₀ s) (a1) (a2) (a3) :
    Keeps b s₀ (State.pokeRange s a1 a2 a3) := by
  unfold State.pokeRange
  repeat' first
    | with_reducible assumption
    | with_reducible refine State.poke_keeps ?_ _ _
    | with_reducible refine Keeps.ite ?_ ?_
    | (with_reducible refine Keeps.foldl (fun t x ht => ?_) ?_)

theorem State.openAnswers_keeps {b : Bool} {s₀ s : State} (h : Keeps b s₀ s) (a1) (a2) (a3) :
    Keeps b s₀ (State.openAnswers s a1 a2 a3) := by
  unfold State.openAnswers
  repeat' first
    | with_reducible assumption
    | with_reducible refine State.modReq_keeps ?_ _ _
    | with_reducible refine State.noteWrite_keeps ?_ _ _ _ _
    | with_reducible refine State.pokeRange_keeps ?_ _ _ _
    | with_reducible refine Keeps.ite ?_ ?_

theorem State.openWinAnswers_keeps {b : Bool} {s₀ s : State} (h : Keeps b s₀ s) (a1) (a2) (a3) :
    Keeps b s₀ (State.openWinAnswers s a1 a2 a3) := by
  unfold State.openWinAnswers
  repeat' first
    | with_reducible assumption
    | with_reducible refine State.emit_keeps ?_ _
    | with_reducible refine State.pokeRange_keeps ?_ _ _ _
    | with_reducible refine State.flushWins_keeps ?_
    | with_reducible refine Keeps.ite ?_ ?_
    | (fail_if_no_progress with_reducible refine Keeps.of_mk (Keeps.comps ?_))
    | dsimp only
    | split

theorem execOpenDieMessage_keeps {b : Bool} {s₀ s : State} (h : Keeps b s₀ s) (a1) :
    KeepsA b s₀ (execOpenDieMessage a1 s) := by
  unfold execOpenDieMessage
  repeat' first
    | with_reducible assumption
    | with_reducible refine KeepsA.next ?_
    | with_reducible refine State.fenceModule_keeps ?_ _
    | with_reducible refine State.openAnswers_keeps ?_ _ _ _
    | with_reducible refine State.openWinAnswers_keeps ?_ _ _ _
    | with_reducible refine KeepsA.ite ?_ ?_
    | with_reducible refine Keeps.ite ?_ ?_
    | (fail_if_no_progress with_reducible refine Keeps.of_mk (Keeps.comps ?_))
    | dsimp only
    | split

theorem execOpenResponseTimeout_keeps {b : Bool} {s₀ s : State} (h : Keeps b s₀ s) (a1) (a2) :
    KeepsA b s₀ (execOpenResponseTimeout a1 a2 s) := by
  unfold execOpenResponseTimeout
  repeat' first
    | with_reducible assumption
    | with_reducible refine KeepsA.next ?_
    | with_reducible refine State.at__keeps ?_ _
    | with_reducible refine State.fenceModule_keeps ?_ _
    | with_reducible refine KeepsA.ite ?_ ?_
    | with_reducible refine Keeps.ite ?_ ?_
    | (fail_if_no_progress with_reducible refine Keeps.of_mk (Keeps.comps ?_))
    | dsimp only
    | split

theorem execOpenPowerWindow_keeps {b : Bool} {s₀ s : State} (h : Keeps b s₀ s) (a1) :
    KeepsA b s₀ (execOpenPowerWindow a1 s) := by
  unfold execOpenPowerWindow
  repeat' first
    | with_reducible assumption
    | with_reducible refine KeepsA.next ?_
    | with_reducible refine State.fenceSite_keeps ?_ _
    | with_reducible refine KeepsA.ite ?_ ?_

end Sys2Proof.Machine
end

