-- ==== Sys2Proof/Laws/Keeps/RingOps.lean ====
section
/-! SUPPORT. What the operations of Machine/RingOps.lean keep. -/

namespace Sys2Proof.Machine

theorem State.resetRing_keeps {b : Bool} {s₀ s : State} (h : Keeps b s₀ s) (a1) :
    Keeps b s₀ (State.resetRing s a1) := by
  unfold State.resetRing
  repeat' first
    | with_reducible assumption
    | with_reducible refine State.endCmd_keeps ?_ _ _
    | with_reducible refine State.freeCtx_keeps ?_ _
    | with_reducible refine State.releasePoisoned_keeps ?_ _
    | with_reducible refine State.tryColls_keeps ?_ _
    | with_reducible refine State.resetEntry_keeps ?_ _ _ _ _
    | with_reducible refine Keeps.ite ?_ ?_
    | (with_reducible refine Keeps.foldl (fun t x ht => ?_) ?_)

theorem State.ringCtlWrite_keeps {b : Bool} {s₀ s : State} (h : Keeps b s₀ s) (a1) (a2) :
    Keeps b s₀ (State.ringCtlWrite s a1 a2) := by
  unfold State.ringCtlWrite
  repeat' first
    | with_reducible assumption
    | with_reducible refine State.setRegFld_keeps ?_ _ _ _ _ _
    | with_reducible refine State.resetRing_keeps ?_ _
    | with_reducible refine State.raise__keeps ?_ _ _ _
    | with_reducible refine State.modRing_keeps ?_ _ _
    | with_reducible refine Keeps.ite ?_ ?_

theorem State.endDrain_keeps {b : Bool} {s₀ s : State} (h : Keeps b s₀ s) (a1) :
    Keeps b s₀ (State.endDrain s a1) := by
  unfold State.endDrain
  repeat' first
    | with_reducible assumption
    | with_reducible refine State.modRing_keeps ?_ _ _
    | with_reducible refine State.freeCtx_keeps ?_ _
    | with_reducible refine State.releasePoisoned_keeps ?_ _
    | with_reducible refine Keeps.ite ?_ ?_
    | (with_reducible refine Keeps.foldl (fun t x ht => ?_) ?_)

theorem State.makePost_keeps {b : Bool} {s₀ s : State} (h : Keeps b s₀ s) (a1) :
    Keeps b s₀ (State.makePost s a1).1 := by
  unfold State.makePost
  repeat' first
    | with_reducible assumption
    | with_reducible refine State.post_keeps ?_ _ _
    | with_reducible refine State.raise__keeps ?_ _ _ _
    | with_reducible refine Keeps.ite ?_ ?_
    | with_reducible refine Keeps.ite_fst ?_ ?_
    | with_reducible refine Keeps.of_fst ?_ (by assumption)
    | (fail_if_no_progress with_reducible refine Keeps.of_mk (Keeps.comps ?_))
    | dsimp only
    | split

theorem State.endEvents_keeps {b : Bool} {s₀ s : State} (h : Keeps b s₀ s) (a1) :
    Keeps b s₀ (State.endEvents s a1) := by
  unfold State.endEvents
  repeat' first
    | with_reducible assumption
    | with_reducible refine State.guardEvent_keeps ?_ _ _ _
    | with_reducible refine State.raise__keeps ?_ _ _ _
    | with_reducible refine Keeps.ite ?_ ?_
    | (with_reducible refine Keeps.foldl (fun t x ht => ?_) ?_)

theorem State.countColl_keeps {b : Bool} {s₀ s : State} (h : Keeps b s₀ s) (a1) (a2) :
    Keeps b s₀ (State.countColl s a1 a2) := by
  unfold State.countColl
  repeat' first
    | with_reducible assumption
    | with_reducible refine State.bump_keeps ?_ _ _ _ _ _
    | with_reducible refine Keeps.ite ?_ ?_
    | (with_reducible refine Keeps.foldl (fun t x ht => ?_) ?_)

theorem State.countRing_keeps {b : Bool} {s₀ s : State} (h : Keeps b s₀ s) (a1) (a2) :
    Keeps b s₀ (State.countRing s a1 a2) := by
  unfold State.countRing
  repeat' first
    | with_reducible assumption
    | with_reducible refine State.bumpWrap_keeps ?_ _ _ _ _ _
    | with_reducible refine State.bump_keeps ?_ _ _ _ _ _
    | with_reducible refine Keeps.ite ?_ ?_

theorem State.atBoundary_keeps {b : Bool} {s₀ s : State} (h : Keeps b s₀ s) (a1) :
    Keeps b s₀ (State.atBoundary s a1) := by
  unfold State.atBoundary
  repeat' first
    | with_reducible assumption
    | with_reducible refine State.modCore_keeps ?_ _ _
    | with_reducible refine Keeps.ite ?_ ?_
    | (with_reducible refine Keeps.foldl (fun t x ht => ?_) ?_)

theorem State.leave_keeps {b : Bool} {s₀ s : State} (h : Keeps b s₀ s) (a1) :
    Keeps b s₀ (State.leave s a1) := by
  unfold State.leave
  repeat' first
    | with_reducible assumption
    | with_reducible refine State.modRing_keeps ?_ _ _
    | with_reducible refine Keeps.ite ?_ ?_
    | (fail_if_no_progress with_reducible refine Keeps.of_mk (Keeps.comps ?_))
    | (fail_if_no_progress refine Keeps.of_mk (KeepsC.setCmds (Keeps.comps ?_) (fun hc => cmdsLegal.filter hc _)))

theorem State.complete_keeps {b : Bool} {s₀ s : State} (h : Keeps b s₀ s) (a1) (a2) :
    Keeps b s₀ (State.complete s a1 a2) := by
  unfold State.complete
  repeat' first
    | with_reducible assumption
    | with_reducible refine State.wantClusters_keeps ?_ _
    | with_reducible refine State.queueFetch_keeps ?_ _ _ _ _
    | with_reducible refine State.makePost_keeps ?_ _
    | with_reducible refine State.narrowAt_keeps ?_ _ _ _
    | with_reducible refine State.countColl_keeps ?_ _ _
    | with_reducible refine State.countRing_keeps ?_ _ _
    | with_reducible refine State.ledgerTrace_keeps ?_ _ _
    | with_reducible refine State.endEvents_keeps ?_ _
    | with_reducible refine State.leave_keeps ?_ _
    | with_reducible refine State.atBoundary_keeps ?_ _
    | with_reducible refine State.cmdProgress_keeps ?_ _
    | with_reducible refine State.sendMsix_keeps ?_ _
    | with_reducible refine State.tryColls_keeps ?_ _
    | with_reducible refine State.lintelArrivals_keeps ?_ _
    | with_reducible refine Keeps.ite ?_ ?_
    | (with_reducible refine Keeps.foldl (fun t x ht => ?_) ?_)
    | (with_reducible refine Keeps.foldl_fst (fun t x ht => ?_) ?_)
    | with_reducible refine Keeps.ite_fst ?_ ?_

end Sys2Proof.Machine
end

