-- ==== Sys2Proof/Laws/Keeps/Clear.lean ====
section
/-! SUPPORT. What the operations of Machine/Clear.lean keep. -/

namespace Sys2Proof.Machine

theorem State.clearRegs_keeps {b : Bool} {s₀ s : State} (h : Keeps b s₀ s) (a1) (a2) :
    Keeps b s₀ (State.clearRegs s a1 a2) := by
  unfold State.clearRegs
  repeat' first
    | with_reducible assumption
    | with_reducible refine Keeps.ite ?_ ?_
    | (fail_if_no_progress with_reducible refine Keeps.of_mk (Keeps.comps ?_))

theorem State.clearCores_keeps {b : Bool} {s₀ s : State} (h : Keeps b s₀ s) (a1) :
    Keeps b s₀ (State.clearCores s a1) := by
  unfold State.clearCores
  repeat' first
    | with_reducible assumption
    | with_reducible refine Keeps.ite ?_ ?_
    | (fail_if_no_progress with_reducible refine Keeps.of_mk (Keeps.comps ?_))

theorem State.clearUnits_keeps {b : Bool} {s₀ s : State} (h : Keeps b s₀ s) (a1) :
    Keeps b s₀ (State.clearUnits s a1) := by
  unfold State.clearUnits
  repeat' first
    | with_reducible assumption
    | with_reducible refine Keeps.ite ?_ ?_
    | (fail_if_no_progress with_reducible refine Keeps.of_mk (Keeps.comps ?_))

theorem State.dropCmds_keeps {b : Bool} {s₀ s : State} (h : Keeps b s₀ s) (a1) :
    Keeps b s₀ (State.dropCmds s a1) := by
  unfold State.dropCmds
  repeat' first
    | with_reducible assumption
    | with_reducible refine Keeps.ite ?_ ?_
    | (fail_if_no_progress with_reducible refine Keeps.of_mk (Keeps.comps ?_))
    | (fail_if_no_progress refine Keeps.of_mk (KeepsC.setCmds (Keeps.comps ?_) (fun hc => cmdsLegal.filter hc _)))

theorem State.clearView_keeps {b : Bool} {s₀ s : State} (h : Keeps b s₀ s) (a1) : Keeps b s₀ (State.clearView s a1) :=
  ⟨h.1, h.2, h.3, h.4, h.5, h.6, h.7, h.8, h.9, h.10, h.11, h.12,
    fun e x hx => h.views e x (List.mem_of_mem_filter hx), h.14, h.15, h.16, h.17⟩

theorem State.eraseMem_keeps {b : Bool} {s₀ s : State} (h : Keeps b s₀ s) (a1) :
    Keeps b s₀ (State.eraseMem s a1) := by
  unfold State.eraseMem
  repeat' first
    | with_reducible assumption
    | with_reducible refine State.freshen_keeps ?_ _

theorem Keeps.setDraws {b : Bool} {s₀ s : State} (h : Keeps b s₀ s) (n : Nat) (hn : s.draws ≤ n) :
    Keeps b s₀ { s with draws := n } :=
  ⟨h.1, h.2, h.3, h.4, Nat.le_trans h.5 hn, h.6, h.7, h.8, h.9, h.10, h.11, h.12, h.13, h.14, h.15, h.16, h.17⟩

theorem State.drawKeys_keeps {b : Bool} {s₀ s : State} (h : Keeps b s₀ s) (a1) : Keeps b s₀ (State.drawKeys s a1) :=
  State.modSec_keeps (h.setDraws _ (Nat.le_add_right _ 2)) _ _

theorem State.dropSecrets_keeps {b : Bool} {s₀ s : State} (h : Keeps b s₀ s) (a1) :
    Keeps b s₀ (State.dropSecrets s a1) := by
  unfold State.dropSecrets
  repeat' first
    | with_reducible assumption
    | with_reducible refine State.modSec_keeps ?_ _ _

theorem State.measured_keeps {b : Bool} {s₀ s : State} (h : Keeps b s₀ s) (a1) :
    Keeps b s₀ (State.measured s a1) := by
  unfold State.measured
  repeat' first
    | with_reducible assumption
    | with_reducible refine State.modSec_keeps ?_ _ _
    | with_reducible refine State.raise__keeps ?_ _ _ _
    | with_reducible refine Keeps.ite ?_ ?_

theorem State.clearPart_keeps {b : Bool} {s₀ s : State} (h : Keeps b s₀ s) (a1) (a2) :
    Keeps b s₀ (State.clearPart s a1 a2) := by
  unfold State.clearPart
  repeat' first
    | with_reducible assumption
    | with_reducible refine State.eraseMem_keeps ?_ _
    | with_reducible refine State.clearRegs_keeps ?_ _ _
    | with_reducible refine State.clearUnits_keeps ?_ _
    | with_reducible refine State.clearCores_keeps ?_ _
    | with_reducible refine State.dropCmds_keeps ?_ _
    | with_reducible refine State.dropSecrets_keeps ?_ _
    | with_reducible refine State.drawKeys_keeps ?_ _
    | with_reducible refine State.clearView_keeps ?_ _
    | with_reducible refine Keeps.ite ?_ ?_
    | (fail_if_no_progress with_reducible refine Keeps.of_mk (Keeps.comps ?_))

theorem State.fenceWins_keeps {b : Bool} {s₀ s : State} (h : Keeps b s₀ s) (a1) :
    Keeps b s₀ (State.fenceWins s a1) := by
  unfold State.fenceWins
  repeat' first
    | with_reducible assumption
    | with_reducible refine State.fenceWin_keeps ?_ _ _
    | with_reducible refine Keeps.ite ?_ ?_
    | (with_reducible refine Keeps.foldl (fun t x ht => ?_) ?_)
    | (with_reducible refine Keeps.foldl_fst (fun t x ht => ?_) ?_)
    | (fail_if_no_progress with_reducible refine Keeps.of_mk (Keeps.comps ?_))

theorem State.haltPart_keeps {b : Bool} {s₀ s : State} (h : Keeps b s₀ s) (a1) :
    Keeps b s₀ (State.haltPart s a1) := by
  unfold State.haltPart
  repeat' first
    | with_reducible assumption
    | with_reducible refine State.stopSteer_keeps ?_ _ _
    | with_reducible refine State.dropPersists_keeps ?_ _
    | with_reducible refine State.abortPart_keeps ?_ _
    | with_reducible refine State.fenceWins_keeps ?_ _
    | with_reducible refine State.modSec_keeps ?_ _ _

theorem State.stopPart_keeps {b : Bool} {s₀ s : State} (h : Keeps b s₀ s) (a1) :
    Keeps b s₀ (State.stopPart s a1).1 := by
  unfold State.stopPart
  repeat' first
    | with_reducible assumption
    | with_reducible refine State.departPorts_keeps ?_ _
    | with_reducible refine State.haltPart_keeps ?_ _

theorem State.completeAll_keeps {b : Bool} {s₀ s : State} (h : Keeps b s₀ s) (a1) :
    Keeps b s₀ (State.completeAll s a1) := by
  unfold State.completeAll
  repeat' first
    | with_reducible assumption
    | with_reducible refine State.complete_keeps ?_ _ _
    | with_reducible refine Keeps.ite ?_ ?_
    | (with_reducible refine Keeps.foldl (fun t x ht => ?_) ?_)
    | (with_reducible refine Keeps.foldl_fst (fun t x ht => ?_) ?_)
    | (fail_if_no_progress with_reducible refine Keeps.of_mk (Keeps.comps ?_))
    | dsimp only
    | split

end Sys2Proof.Machine
end

