-- ==== Sys2Proof/Laws/Keeps/Resets.lean ====
section
/-! SUPPORT. What the operations of Machine/Resets.lean keep. -/

namespace Sys2Proof.Machine

theorem State.finishCopies_keeps {b : Bool} {s₀ s : State} (h : Keeps b s₀ s) (a1) :
    Keeps b s₀ (State.finishCopies s a1) := by
  unfold State.finishCopies
  repeat' first
    | with_reducible assumption
    | with_reducible refine State.raise__keeps ?_ _ _ _
    | with_reducible refine State.modChan_keeps ?_ _ _
    | with_reducible refine Keeps.ite ?_ ?_
    | (with_reducible refine Keeps.foldl (fun t x ht => ?_) ?_)
    | (with_reducible refine Keeps.foldl_fst (fun t x ht => ?_) ?_)
    | (fail_if_no_progress with_reducible refine Keeps.of_mk (Keeps.comps ?_))
    | dsimp only
    | split

theorem State.retireAtReset_keeps {b : Bool} {s₀ s : State} (h : Keeps b s₀ s) (a1) :
    Keeps b s₀ (State.retireAtReset s a1) := by
  unfold State.retireAtReset
  repeat' first
    | with_reducible assumption
    | with_reducible refine State.modChan_keeps ?_ _ _
    | with_reducible refine State.noteHealth_keeps ?_ _ _
    | with_reducible refine State.countFault_keeps ?_ _
    | with_reducible refine State.raise__keeps ?_ _ _ _
    | with_reducible refine Keeps.ite ?_ ?_
    | (fail_if_no_progress with_reducible refine Keeps.of_mk (Keeps.comps ?_))

theorem State.remapPending_keeps {b : Bool} {s₀ s : State} (h : Keeps b s₀ s) (a1) :
    Keeps b s₀ (State.remapPending s a1) := by
  unfold State.remapPending
  repeat' first
    | with_reducible assumption
    | with_reducible refine State.modChan_keeps ?_ _ _
    | with_reducible refine State.retireAtReset_keeps ?_ _
    | with_reducible refine Keeps.ite ?_ ?_
    | (fail_if_no_progress with_reducible refine Keeps.of_mk (Keeps.comps ?_))

theorem State.trainChan_keeps {b : Bool} {s₀ s : State} (h : Keeps b s₀ s) (a1) (a2) :
    Keeps b s₀ (State.trainChan s a1 a2) := by
  unfold State.trainChan
  repeat' first
    | with_reducible assumption
    | with_reducible refine State.retireAtReset_keeps ?_ _
    | with_reducible refine State.modChan_keeps ?_ _ _
    | with_reducible refine State.noteHealth_keeps ?_ _ _
    | with_reducible refine Keeps.ite ?_ ?_
    | (fail_if_no_progress with_reducible refine Keeps.of_mk (Keeps.comps ?_))

theorem State.resetChan_keeps {b : Bool} {s₀ s : State} (h : Keeps b s₀ s) (a1) :
    Keeps b s₀ (State.resetChan s a1) := by
  unfold State.resetChan
  repeat' first
    | with_reducible assumption
    | with_reducible refine State.retireAtReset_keeps ?_ _
    | with_reducible refine State.remapPending_keeps ?_ _
    | with_reducible refine Keeps.ite ?_ ?_

theorem State.failUnit_keeps {b : Bool} {s₀ s : State} (h : Keeps b s₀ s) (a1) :
    Keeps b s₀ (State.failUnit s a1) := by
  unfold State.failUnit
  repeat' first
    | with_reducible assumption
    | with_reducible refine State.retireCore_keeps ?_ _
    | with_reducible refine State.retireCluster_keeps ?_ _
    | with_reducible refine State.trainChan_keeps ?_ _ _
    | with_reducible refine State.retireAtReset_keeps ?_ _
    | with_reducible refine State.faultLink_keeps ?_ _
    | with_reducible refine State.retirePkg_keeps ?_ _
    | with_reducible refine State.faultDie_keeps ?_ _
    | with_reducible refine Keeps.ite ?_ ?_
    | (fail_if_no_progress with_reducible refine Keeps.of_mk (Keeps.comps ?_))
    | dsimp only
    | split

theorem State.repower_keeps {b : Bool} {s₀ s : State} (h : Keeps b s₀ s) (a1) :
    Keeps b s₀ (State.repower s a1) := by
  unfold State.repower
  repeat' first
    | with_reducible assumption
    | with_reducible refine State.modDie_keeps ?_ _ _
    | with_reducible refine State.modStack_keeps ?_ _ _
    | with_reducible refine Keeps.ite ?_ ?_
    | (with_reducible refine Keeps.foldl (fun t x ht => ?_) ?_)

theorem State.trainReturned_keeps {b : Bool} {s₀ s : State} (h : Keeps b s₀ s) (a1) :
    Keeps b s₀ (State.trainReturned s a1) := by
  unfold State.trainReturned
  repeat' first
    | with_reducible assumption
    | with_reducible refine State.modLink_keeps ?_ _ _
    | with_reducible refine Keeps.ite ?_ ?_
    | (with_reducible refine Keeps.foldl (fun t x ht => ?_) ?_)

theorem State.startPartReset_keeps {b : Bool} {s₀ s : State} (h : Keeps b s₀ s) (a1) (a2) :
    Keeps b s₀ (State.startPartReset s a1 a2) := by
  unfold State.startPartReset
  repeat' first
    | with_reducible assumption
    | with_reducible refine State.finishCopies_keeps ?_ _
    | with_reducible refine State.stopPart_keeps ?_ _
    | with_reducible refine State.clearPart_keeps ?_ _ _
    | with_reducible refine State.resetEntry_keeps ?_ _ _ _ _
    | with_reducible refine State.repower_keeps ?_ _
    | with_reducible refine State.trainChan_keeps ?_ _ _
    | with_reducible refine State.resetChan_keeps ?_ _
    | with_reducible refine State.trainReturned_keeps ?_ _
    | with_reducible refine State.noteHealth_keeps ?_ _ _
    | with_reducible refine Keeps.ite ?_ ?_
    | (with_reducible refine Keeps.foldl (fun t x ht => ?_) ?_)
    | (with_reducible refine Keeps.foldl_fst (fun t x ht => ?_) ?_)
    | with_reducible refine Keeps.ite_fst ?_ ?_
    | with_reducible refine Keeps.of_fst ?_ (by assumption)
    | (fail_if_no_progress with_reducible refine Keeps.of_mk (Keeps.comps ?_))

theorem State.partReset_keeps {b : Bool} {s₀ s : State} (h : Keeps b s₀ s) (a1) (a2) :
    Keeps b s₀ (State.partReset s a1 a2) := by
  unfold State.partReset
  repeat' first
    | with_reducible assumption
    | with_reducible refine State.startPartReset_keeps ?_ _ _
    | with_reducible refine Keeps.ite ?_ ?_
    | (fail_if_no_progress with_reducible refine Keeps.of_mk (Keeps.comps ?_))

theorem State.endHeatWaits_keeps {b : Bool} {s₀ s : State} (h : Keeps b s₀ s) :
    Keeps b s₀ (State.endHeatWaits s) := by
  unfold State.endHeatWaits
  repeat' first
    | with_reducible assumption
    | with_reducible refine State.startPartReset_keeps ?_ _ _
    | with_reducible refine Keeps.ite ?_ ?_
    | (with_reducible refine Keeps.foldl (fun t x ht => ?_) ?_)

theorem State.clearModuleRegs_keeps {b : Bool} {s₀ s : State} (h : Keeps b s₀ s) :
    Keeps b s₀ (State.clearModuleRegs s) := by
  unfold State.clearModuleRegs
  repeat' first
    | with_reducible assumption
    | with_reducible refine State.setRegFld_keeps ?_ _ _ _ _ _
    | with_reducible refine Keeps.ite ?_ ?_
    | (with_reducible refine Keeps.foldl (fun t x ht => ?_) ?_)
    | (with_reducible refine Keeps.foldl_fst (fun t x ht => ?_) ?_)
    | (fail_if_no_progress with_reducible refine Keeps.of_mk (Keeps.comps ?_))

theorem State.downFabric_keeps {b : Bool} {s₀ s : State} (h : Keeps b s₀ s) :
    Keeps b s₀ (State.downFabric s) := by
  unfold State.downFabric
  repeat' first
    | with_reducible assumption
    | with_reducible refine Keeps.ite ?_ ?_
    | (fail_if_no_progress with_reducible refine Keeps.of_mk (Keeps.comps ?_))

theorem State.downHost_keeps {b : Bool} {s₀ s : State} (h : Keeps b s₀ s) : Keeps b s₀ (State.downHost s) :=
  Keeps.of_mk (h.comps.setConns (l := []) (fun _ _ hc => by cases hc))

theorem State.beginReset_keeps {b : Bool} {s₀ s : State} (h : Keeps b s₀ s) (a1) :
    Keeps b s₀ (State.beginReset s a1) := by
  have ha := State.departPorts_keeps (State.finishCopies_keeps h (List.range 256)) (List.range 16)
  unfold State.beginReset
  extract_lets a total b' c d e f g
  have hb : Keeps b s₀ b' := Keeps.foldl (fun t p ht =>
    Keeps.ite (State.resetEntry_keeps (State.haltPart_keeps ht p) _ _ _ _) (State.haltPart_keeps ht p)) ha
  have hc : Keeps b s₀ c := Keeps.foldl (fun t p ht =>
    Keeps.ite (State.repower_keeps (State.clearPart_keeps ht p _) p)
      (State.modSec_keeps (State.repower_keeps (State.clearPart_keeps ht p _) p) _ _)) hb
  have hd : Keeps b s₀ d := Keeps.foldl (fun t p ht => State.resetChan_keeps ht p) hc
  have he : Keeps b s₀ e := State.downHost_keeps (State.downFabric_keeps (State.clearModuleRegs_keeps hd))
  have hg : Keeps b s₀ g := State.noteHealth_keeps (State.modDie_keeps he _ _) _ _
  exact Keeps.of_mk ((hg.comps.setPhase (n := 2) (by decide)).setCmds (l := []) (fun _ => ⟨List.Pairwise.nil, fun _ hx => by cases hx⟩))

theorem State.moduleReset_keeps {b : Bool} {s₀ s : State} (h : Keeps b s₀ s) (a1) :
    Keeps b s₀ (State.moduleReset s a1) := by
  unfold State.moduleReset
  repeat' first
    | with_reducible assumption
    | with_reducible refine State.beginReset_keeps ?_ _
    | with_reducible refine Keeps.ite ?_ ?_

theorem State.tripModule_keeps {b : Bool} {s₀ s : State} (h : Keeps b s₀ s) (a1) :
    Keeps b s₀ (State.tripModule s a1) := by
  unfold State.tripModule
  repeat' first
    | with_reducible assumption
    | with_reducible refine State.departPorts_keeps ?_ _
    | with_reducible refine State.haltPart_keeps ?_ _
    | with_reducible refine State.moduleSeen_keeps ?_ _
    | with_reducible refine Keeps.ite ?_ ?_
    | (with_reducible refine Keeps.foldl (fun t x ht => ?_) ?_)
    | (with_reducible refine Keeps.foldl_fst (fun t x ht => ?_) ?_)
    | (fail_if_no_progress with_reducible refine Keeps.of_mk (Keeps.comps ?_))

theorem State.endTrip_keeps {b : Bool} {s₀ s : State} (h : Keeps b s₀ s) :
    Keeps b s₀ (State.endTrip s) := by
  unfold State.endTrip
  repeat' first
    | with_reducible assumption
    | with_reducible refine State.beginReset_keeps ?_ _
    | with_reducible refine Keeps.ite ?_ ?_

theorem execPartitionReset_keeps {b : Bool} {s₀ s : State} (h : Keeps b s₀ s) (a1) (a2) (a3) :
    KeepsA b s₀ (execPartitionReset a1 a2 a3 s) := by
  unfold execPartitionReset
  repeat' first
    | with_reducible assumption
    | with_reducible refine KeepsA.next ?_
    | with_reducible refine State.onWrite_keeps (fun t ht => ?_) ?_ _ _
    | with_reducible refine State.partReset_keeps ?_ _ _
    | with_reducible refine KeepsA.ite ?_ ?_
    | with_reducible refine Keeps.ite ?_ ?_

theorem execHoldoffExpiry_keeps {b : Bool} {s₀ s : State} (h : Keeps b s₀ s) (a1) :
    KeepsA b s₀ (execHoldoffExpiry a1 s) := by
  unfold execHoldoffExpiry
  repeat' first
    | with_reducible assumption
    | with_reducible refine KeepsA.next ?_
    | with_reducible refine State.at__keeps ?_ _
    | with_reducible refine State.moduleReset_keeps ?_ _
    | with_reducible refine KeepsA.ite ?_ ?_
    | with_reducible refine Keeps.ite ?_ ?_
    | (fail_if_no_progress with_reducible refine Keeps.of_mk (Keeps.comps ?_))
    | dsimp only
    | split

theorem execHeartbeat_keeps {b : Bool} {s₀ s : State} (h : Keeps b s₀ s) (a1) :
    KeepsA b s₀ (execHeartbeat a1 s) := by
  unfold execHeartbeat
  repeat' first
    | with_reducible assumption
    | with_reducible refine KeepsA.next ?_
    | with_reducible refine State.at__keeps ?_ _
    | with_reducible refine State.emit_keeps ?_ _
    | with_reducible refine KeepsA.ite ?_ ?_
    | with_reducible refine Keeps.ite ?_ ?_
    | (fail_if_no_progress with_reducible refine Keeps.of_mk (Keeps.comps ?_))

theorem execHeartbeatTimeout_keeps {b : Bool} {s₀ s : State} (h : Keeps b s₀ s) (a1) :
    KeepsA b s₀ (execHeartbeatTimeout a1 s) := by
  unfold execHeartbeatTimeout
  repeat' first
    | with_reducible assumption
    | with_reducible refine KeepsA.next ?_
    | with_reducible refine State.at__keeps ?_ _
    | with_reducible refine State.departPorts_keeps ?_ _
    | with_reducible refine KeepsA.ite ?_ ?_
    | with_reducible refine Keeps.ite ?_ ?_
    | (fail_if_no_progress with_reducible refine Keeps.of_mk (Keeps.comps ?_))

theorem execWatchdogExpiry_keeps {b : Bool} {s₀ s : State} (h : Keeps b s₀ s) (a1) :
    KeepsA b s₀ (execWatchdogExpiry a1 s) := by
  unfold execWatchdogExpiry
  repeat' first
    | with_reducible assumption
    | with_reducible refine KeepsA.next ?_
    | with_reducible refine State.at__keeps ?_ _
    | with_reducible refine State.moduleReset_keeps ?_ _
    | with_reducible refine KeepsA.ite ?_ ?_
    | with_reducible refine Keeps.ite ?_ ?_
    | (fail_if_no_progress with_reducible refine Keeps.of_mk (Keeps.comps ?_))
    | dsimp only
    | split

end Sys2Proof.Machine
end

