-- ==== Sys2Proof/Laws/Keeps/Spdm.lean ====
section
/-! SUPPORT. What the operations of Machine/Spdm.lean keep. -/

namespace Sys2Proof.Machine

theorem State.modSpdm_keeps {b : Bool} {s₀ s : State} (h : Keeps b s₀ s) (a1) (a2) :
    Keeps b s₀ (State.modSpdm s a1 a2) := by
  unfold State.modSpdm
  repeat' first
    | with_reducible assumption
    | with_reducible refine State.modSec_keeps ?_ _ _
    | with_reducible refine Keeps.ite ?_ ?_
    | (fail_if_no_progress with_reducible refine Keeps.of_mk (Keeps.comps ?_))

theorem State.spdmSay_keeps {b : Bool} {s₀ s : State} (h : Keeps b s₀ s) (a1) (a2) (a3) :
    Keeps b s₀ (State.spdmSay s a1 a2 a3) := by
  unfold State.spdmSay
  repeat' first
    | with_reducible assumption
    | with_reducible refine State.emit_keeps ?_ _

theorem State.spdmErr_keeps {b : Bool} {s₀ s : State} (h : Keeps b s₀ s) (a1) (a2) :
    Keeps b s₀ (State.spdmErr s a1 a2) := by
  unfold State.spdmErr
  repeat' first
    | with_reducible assumption
    | with_reducible refine State.spdmSay_keeps ?_ _ _ _

theorem State.spdmReq_keeps {b : Bool} {s₀ s : State} {f : State → State} (hf : ∀ t, Keeps b s₀ t → Keeps b s₀ (f t))
    (h : Keeps b s₀ s) (a1) (a2) : Keeps b s₀ (State.spdmReq s a1 a2 f) := by
  unfold State.spdmReq
  repeat' first
    | with_reducible assumption
    | with_reducible refine hf _ ?_
    | with_reducible refine State.spdmErr_keeps ?_ _ _
    | with_reducible refine Keeps.ite ?_ ?_

theorem execGetVersion_keeps {b : Bool} {s₀ s : State} (h : Keeps b s₀ s) (a1) :
    KeepsA b s₀ (execGetVersion a1 s) := by
  unfold execGetVersion
  repeat' first
    | with_reducible assumption
    | with_reducible refine KeepsA.next ?_
    | with_reducible refine State.spdmReq_keeps (fun t ht => ?_) ?_ _ _
    | with_reducible refine State.spdmSay_keeps ?_ _ _ _
    | with_reducible refine State.modSpdm_keeps ?_ _ _

theorem execGetCapabilities_keeps {b : Bool} {s₀ s : State} (h : Keeps b s₀ s) (a1) :
    KeepsA b s₀ (execGetCapabilities a1 s) := by
  unfold execGetCapabilities
  repeat' first
    | with_reducible assumption
    | with_reducible refine KeepsA.next ?_
    | with_reducible refine State.spdmReq_keeps (fun t ht => ?_) ?_ _ _
    | with_reducible refine State.spdmSay_keeps ?_ _ _ _
    | with_reducible refine State.modSpdm_keeps ?_ _ _

theorem execNegotiateAlgorithms_keeps {b : Bool} {s₀ s : State} (h : Keeps b s₀ s) (a1) (a2) :
    KeepsA b s₀ (execNegotiateAlgorithms a1 a2 s) := by
  unfold execNegotiateAlgorithms
  repeat' first
    | with_reducible assumption
    | with_reducible refine KeepsA.next ?_
    | with_reducible refine State.spdmReq_keeps (fun t ht => ?_) ?_ _ _
    | with_reducible refine State.spdmSay_keeps ?_ _ _ _
    | with_reducible refine State.modSpdm_keeps ?_ _ _
    | with_reducible refine State.spdmErr_keeps ?_ _ _
    | with_reducible refine KeepsA.ite ?_ ?_
    | with_reducible refine Keeps.ite ?_ ?_

theorem execGetDigests_keeps {b : Bool} {s₀ s : State} (h : Keeps b s₀ s) (a1) :
    KeepsA b s₀ (execGetDigests a1 s) := by
  unfold execGetDigests
  repeat' first
    | with_reducible assumption
    | with_reducible refine KeepsA.next ?_
    | with_reducible refine State.spdmReq_keeps (fun t ht => ?_) ?_ _ _
    | with_reducible refine State.spdmSay_keeps ?_ _ _ _

theorem execGetCertificate_keeps {b : Bool} {s₀ s : State} (h : Keeps b s₀ s) (a1) (a2) :
    KeepsA b s₀ (execGetCertificate a1 a2 s) := by
  unfold execGetCertificate
  repeat' first
    | with_reducible assumption
    | with_reducible refine KeepsA.next ?_
    | with_reducible refine State.spdmReq_keeps (fun t ht => ?_) ?_ _ _
    | with_reducible refine State.spdmSay_keeps ?_ _ _ _
    | with_reducible refine State.spdmErr_keeps ?_ _ _
    | with_reducible refine KeepsA.ite ?_ ?_
    | with_reducible refine Keeps.ite ?_ ?_

theorem execChallenge_keeps {b : Bool} {s₀ s : State} (h : Keeps b s₀ s) (a1) (a2) (a3) :
    KeepsA b s₀ (execChallenge a1 a2 a3 s) := by
  unfold execChallenge
  repeat' first
    | with_reducible assumption
    | with_reducible refine KeepsA.next ?_
    | with_reducible refine State.spdmReq_keeps (fun t ht => ?_) ?_ _ _
    | with_reducible refine State.spdmSay_keeps ?_ _ _ _
    | with_reducible refine State.spdmErr_keeps ?_ _ _
    | with_reducible refine KeepsA.ite ?_ ?_
    | with_reducible refine Keeps.ite ?_ ?_

theorem execGetMeasurements_keeps {b : Bool} {s₀ s : State} (h : Keeps b s₀ s) (a1) (a2) (a3) :
    KeepsA b s₀ (execGetMeasurements a1 a2 a3 s) := by
  unfold execGetMeasurements
  repeat' first
    | with_reducible assumption
    | with_reducible refine KeepsA.next ?_
    | with_reducible refine State.spdmReq_keeps (fun t ht => ?_) ?_ _ _
    | with_reducible refine State.spdmSay_keeps ?_ _ _ _
    | with_reducible refine State.spdmErr_keeps ?_ _ _
    | with_reducible refine KeepsA.ite ?_ ?_
    | with_reducible refine Keeps.ite ?_ ?_

theorem execKeyExchange_keeps {b : Bool} {s₀ s : State} (h : Keeps b s₀ s) (a1) (a2) :
    KeepsA b s₀ (execKeyExchange a1 a2 s) := by
  unfold execKeyExchange
  repeat' first
    | with_reducible assumption
    | with_reducible refine KeepsA.next ?_
    | with_reducible refine State.spdmReq_keeps (fun t ht => ?_) ?_ _ _
    | with_reducible refine State.spdmSay_keeps ?_ _ _ _
    | with_reducible refine State.modSpdm_keeps ?_ _ _
    | with_reducible refine KeepsA.ite ?_ ?_
    | with_reducible refine Keeps.ite ?_ ?_
    | (fail_if_no_progress with_reducible refine Keeps.of_mk (Keeps.comps ?_))
    | (fail_if_no_progress with_reducible refine Keeps.setDraws ?_ _ ?_)
    | exact Nat.le_succ _

theorem execFinish_keeps {b : Bool} {s₀ s : State} (h : Keeps b s₀ s) (a1) (a2) (a3) :
    KeepsA b s₀ (execFinish a1 a2 a3 s) := by
  unfold execFinish
  repeat' first
    | with_reducible assumption
    | with_reducible refine KeepsA.next ?_
    | with_reducible refine State.spdmReq_keeps (fun t ht => ?_) ?_ _ _
    | with_reducible refine State.spdmErr_keeps ?_ _ _
    | with_reducible refine State.spdmSay_keeps ?_ _ _ _
    | with_reducible refine State.modSpdm_keeps ?_ _ _
    | with_reducible refine KeepsA.ite ?_ ?_
    | with_reducible refine Keeps.ite ?_ ?_
    | (fail_if_no_progress with_reducible refine Keeps.of_mk (Keeps.comps ?_))
    | dsimp only
    | split

theorem execEndSession_keeps {b : Bool} {s₀ s : State} (h : Keeps b s₀ s) (a1) (a2) :
    KeepsA b s₀ (execEndSession a1 a2 s) := by
  unfold execEndSession
  repeat' first
    | with_reducible assumption
    | with_reducible refine KeepsA.next ?_
    | with_reducible refine State.spdmReq_keeps (fun t ht => ?_) ?_ _ _
    | with_reducible refine State.spdmSay_keeps ?_ _ _ _
    | with_reducible refine State.modSpdm_keeps ?_ _ _
    | with_reducible refine State.spdmErr_keeps ?_ _ _
    | with_reducible refine KeepsA.ite ?_ ?_
    | with_reducible refine Keeps.ite ?_ ?_
    | (fail_if_no_progress with_reducible refine Keeps.of_mk (Keeps.comps ?_))
    | dsimp only
    | split

theorem execDoeDiscovery_keeps {b : Bool} {s₀ s : State} (h : Keeps b s₀ s) (a1) (a2) :
    KeepsA b s₀ (execDoeDiscovery a1 a2 s) := by
  unfold execDoeDiscovery
  repeat' first
    | with_reducible assumption
    | with_reducible refine KeepsA.next ?_
    | with_reducible refine State.spdmSay_keeps ?_ _ _ _
    | with_reducible refine KeepsA.ite ?_ ?_

theorem State.putSay_keeps {b : Bool} {s₀ s : State} (h : Keeps b s₀ s) (a1) (a2) (a3) :
    Keeps b s₀ (State.putSay s a1 a2 a3) := by
  unfold State.putSay
  repeat' first
    | with_reducible assumption
    | with_reducible refine State.bump_keeps ?_ _ _ _ _ _
    | with_reducible refine State.spdmSay_keeps ?_ _ _ _
    | with_reducible refine Keeps.ite ?_ ?_

theorem State.keyRequest_keeps {b : Bool} {s₀ s : State} {f : State → Nat → State}
    (hf : ∀ t p, Keeps b s₀ t → Keeps b s₀ (f t p)) (h : Keeps b s₀ s) (a1) (a2) (a3) (a4) :
    Keeps b s₀ (State.keyRequest s a1 a2 a3 a4 f) := by
  unfold State.keyRequest
  repeat' first
    | with_reducible assumption
    | with_reducible refine State.spdmReq_keeps (fun t ht => ?_) ?_ _ _
    | with_reducible refine State.putSay_keeps ?_ _ _ _
    | with_reducible refine State.spdmErr_keeps ?_ _ _
    | with_reducible refine hf _ _ ?_
    | with_reducible refine Keeps.ite ?_ ?_
    | split

theorem execKeyPut_keeps {b : Bool} {s₀ s : State} (h : Keeps b s₀ s) (a1) (a2) (a3) :
    KeepsA b s₀ (execKeyPut a1 a2 a3 s) := by
  unfold execKeyPut
  repeat' first
    | with_reducible assumption
    | with_reducible refine KeepsA.next ?_
    | with_reducible refine State.keyRequest_keeps (fun t p ht => ?_) ?_ _ _ _ _
    | with_reducible refine State.loadSlot_keeps ?_ _ _ _ _

theorem execKeyClear_keeps {b : Bool} {s₀ s : State} (h : Keeps b s₀ s) (a1) (a2) (a3) :
    KeepsA b s₀ (execKeyClear a1 a2 a3 s) := by
  unfold execKeyClear
  repeat' first
    | with_reducible assumption
    | with_reducible refine KeepsA.next ?_
    | with_reducible refine State.keyRequest_keeps (fun t p ht => ?_) ?_ _ _ _ _
    | with_reducible refine State.emptySlot_keeps ?_ _ _

theorem execKeyOpen_keeps {b : Bool} {s₀ s : State} (h : Keeps b s₀ s) (a1) :
    KeepsA b s₀ (execKeyOpen a1 s) := by
  unfold execKeyOpen
  repeat' first
    | with_reducible assumption
    | with_reducible refine KeepsA.next ?_
    | with_reducible refine dispatchRowT_keeps (fun t c ht => ?_) ?_ _ _ _ _ _ _
    | with_reducible refine State.startOpen_keeps ?_ _

theorem execKeyStatus_keeps {b : Bool} {s₀ s : State} (h : Keeps b s₀ s) (a1) :
    KeepsA b s₀ (execKeyStatus a1 s) := by
  unfold execKeyStatus
  repeat' first
    | with_reducible assumption
    | with_reducible refine KeepsA.next ?_
    | with_reducible refine dispatchRow_keeps (fun t c ht => ?_) ?_ _ _ _ _
    | with_reducible refine State.finishCmd_keeps ?_ _
    | with_reducible refine State.setResult_keeps ?_ _ _

theorem execKeyCmdClear_keeps {b : Bool} {s₀ s : State} (h : Keeps b s₀ s) (a1) :
    KeepsA b s₀ (execKeyCmdClear a1 s) := by
  unfold execKeyCmdClear
  repeat' first
    | with_reducible assumption
    | with_reducible refine KeepsA.next ?_
    | with_reducible refine dispatchRow_keeps (fun t c ht => ?_) ?_ _ _ _ _
    | with_reducible refine State.finishCmd_keeps ?_ _
    | with_reducible refine State.emptySlot_keeps ?_ _ _

end Sys2Proof.Machine
end

