-- ==== Sys2Proof/Laws/Keeps/Skims.lean ====
section
/-! SUPPORT. What the operations of Machine/Skims.lean keep. -/

namespace Sys2Proof.Machine

theorem State.steerLoad_keeps {b : Bool} {s₀ s : State} (h : Keeps b s₀ s) (a1) :
    Keeps b s₀ (State.steerLoad s a1) := by
  unfold State.steerLoad
  repeat' first
    | with_reducible assumption
    | with_reducible refine State.notice_keeps ?_ _ _ _ _
    | with_reducible refine State.stopSteer_keeps ?_ _ _
    | with_reducible refine State.modSec_keeps ?_ _ _
    | with_reducible refine State.measured_keeps ?_ _
    | with_reducible refine Keeps.ite ?_ ?_
    | (fail_if_no_progress with_reducible refine Keeps.of_mk (Keeps.comps ?_))
    | dsimp only
    | split

theorem State.steerHalt_keeps {b : Bool} {s₀ s : State} (h : Keeps b s₀ s) (a1) :
    Keeps b s₀ (State.steerHalt s a1) := by
  unfold State.steerHalt
  repeat' first
    | with_reducible assumption
    | with_reducible refine State.stopSteer_keeps ?_ _ _
    | with_reducible refine State.measured_keeps ?_ _
    | with_reducible refine Keeps.ite ?_ ?_

theorem State.steerCtlWrite_keeps {b : Bool} {s₀ s : State} (h : Keeps b s₀ s) (a1) (a2) :
    Keeps b s₀ (State.steerCtlWrite s a1 a2) := by
  unfold State.steerCtlWrite
  repeat' first
    | with_reducible assumption
    | with_reducible refine State.setRegFld_keeps ?_ _ _ _ _ _
    | with_reducible refine State.steerHalt_keeps ?_ _
    | with_reducible refine State.steerLoad_keeps ?_ _
    | with_reducible refine Keeps.ite ?_ ?_

theorem State.steerWrite_keeps {b : Bool} {s₀ s : State} (h : Keeps b s₀ s) (a1) (a2) (a3) :
    Keeps b s₀ (State.steerWrite s a1 a2 a3) := by
  unfold State.steerWrite
  repeat' first
    | with_reducible assumption
    | with_reducible refine State.onWrite_keeps (fun t ht => ?_) ?_ _ _
    | with_reducible refine State.steerCtlWrite_keeps ?_ _ _
    | with_reducible refine Keeps.ite ?_ ?_

theorem execSteerStart_keeps {b : Bool} {s₀ s : State} (h : Keeps b s₀ s) (a1) (a2) (a3) :
    KeepsA b s₀ (execSteerStart a1 a2 a3 s) := by
  unfold execSteerStart
  repeat' first
    | with_reducible assumption
    | with_reducible refine KeepsA.next ?_
    | with_reducible refine State.steerWrite_keeps ?_ _ _ _

theorem execSteerStop_keeps {b : Bool} {s₀ s : State} (h : Keeps b s₀ s) (a1) (a2) (a3) :
    KeepsA b s₀ (execSteerStop a1 a2 a3 s) := by
  unfold execSteerStop
  repeat' first
    | with_reducible assumption
    | with_reducible refine KeepsA.next ?_
    | with_reducible refine State.steerWrite_keeps ?_ _ _ _

theorem execSteerTrap_keeps {b : Bool} {s₀ s : State} (h : Keeps b s₀ s) (a1) (a2) :
    KeepsA b s₀ (execSteerTrap a1 a2 s) := by
  unfold execSteerTrap
  repeat' first
    | with_reducible assumption
    | with_reducible refine KeepsA.next ?_
    | with_reducible refine State.steerTrap_keeps ?_ _
    | with_reducible refine KeepsA.ite ?_ ?_
    | with_reducible refine Keeps.ite ?_ ?_
    | (fail_if_no_progress with_reducible refine Keeps.of_mk (Keeps.comps ?_))
    | dsimp only
    | split

theorem execSteerEcall_keeps {b : Bool} {s₀ s : State} (h : Keeps b s₀ s) (a1) :
    KeepsA b s₀ (execSteerEcall a1 s) := by
  unfold execSteerEcall
  repeat' first
    | with_reducible assumption
    | with_reducible refine KeepsA.next ?_
    | with_reducible refine State.emit_keeps ?_ _
    | with_reducible refine KeepsA.ite ?_ ?_
    | with_reducible refine Keeps.ite ?_ ?_
    | (fail_if_no_progress with_reducible refine Keeps.of_mk (Keeps.comps ?_))
    | dsimp only
    | split

theorem State.sealWrite_keeps {b : Bool} {s₀ s : State} (h : Keeps b s₀ s) (a1) (a2) (a3) :
    Keeps b s₀ (State.sealWrite s a1 a2 a3) := by
  unfold State.sealWrite
  repeat' first
    | with_reducible assumption
    | with_reducible refine State.onWrite_keeps (fun t ht => ?_) ?_ _ _
    | with_reducible refine State.setRegFld_keeps ?_ _ _ _ _ _
    | with_reducible refine Keeps.ite ?_ ?_

theorem execSecSealWrite_keeps {b : Bool} {s₀ s : State} (h : Keeps b s₀ s) (a1) (a2) (a3) :
    KeepsA b s₀ (execSecSealWrite a1 a2 a3 s) := by
  unfold execSecSealWrite
  repeat' first
    | with_reducible assumption
    | with_reducible refine KeepsA.next ?_
    | with_reducible refine State.sealWrite_keeps ?_ _ _ _

theorem State.wakeAll_keeps {b : Bool} {s₀ s : State} (h : Keeps b s₀ s) (a1) :
    Keeps b s₀ (State.wakeAll s a1) := by
  unfold State.wakeAll
  repeat' first
    | with_reducible assumption
    | with_reducible refine State.modCoreDom_keeps ?_ _ _
    | with_reducible refine State.modCluster_keeps ?_ _ _
    | with_reducible refine State.modStack_keeps ?_ _ _
    | with_reducible refine State.modDie_keeps ?_ _ _
    | with_reducible refine Keeps.ite ?_ ?_
    | (with_reducible refine Keeps.foldl (fun t x ht => ?_) ?_)

theorem State.startSkim_keeps {b : Bool} {s₀ s : State} (h : Keeps b s₀ s) (a1) (a2) :
    Keeps b s₀ (State.startSkim s a1 a2) := by
  unfold State.startSkim
  repeat' first
    | with_reducible assumption
    | with_reducible refine State.completeAll_keeps ?_ _
    | with_reducible refine State.stopPart_keeps ?_ _
    | with_reducible refine State.modSec_keeps ?_ _ _
    | with_reducible refine State.wakeAll_keeps ?_ _

theorem State.bindRequest_keeps {b : Bool} {s₀ s : State} (h : Keeps b s₀ s) (a1) (a2) :
    Keeps b s₀ (State.bindRequest s a1 a2) := by
  unfold State.bindRequest
  repeat' first
    | with_reducible assumption
    | with_reducible refine State.modSec_keeps ?_ _ _
    | with_reducible refine State.startSkim_keeps ?_ _ _
    | with_reducible refine Keeps.ite ?_ ?_

theorem State.applyBinding_keeps {b : Bool} {s₀ s : State} (h : Keeps b s₀ s) (a1) (a2) :
    Keeps b s₀ (State.applyBinding s a1 a2) := by
  unfold State.applyBinding
  repeat' first
    | with_reducible assumption
    | with_reducible refine State.modSec_keeps ?_ _ _
    | with_reducible refine State.raise__keeps ?_ _ _ _
    | with_reducible refine State.measured_keeps ?_ _
    | with_reducible refine State.startSkim_keeps ?_ _ _
    | with_reducible refine Keeps.ite ?_ ?_
    | (fail_if_no_progress with_reducible refine Keeps.of_mk (Keeps.comps ?_))
    | dsimp only
    | split

theorem State.finishSkim_keeps {b : Bool} {s₀ s : State} (h : Keeps b s₀ s) (a1) (a2) :
    Keeps b s₀ (State.finishSkim s a1 a2) := by
  unfold State.finishSkim
  repeat' first
    | with_reducible assumption
    | with_reducible refine State.modSec_keeps ?_ _ _
    | with_reducible refine State.raise__keeps ?_ _ _ _
    | with_reducible refine State.applyBinding_keeps ?_ _ _
    | with_reducible refine Keeps.ite ?_ ?_
    | (fail_if_no_progress with_reducible refine Keeps.of_mk (Keeps.comps ?_))

theorem State.resumeSwitch_keeps {b : Bool} {s₀ s : State} (h : Keeps b s₀ s) (a1) :
    Keeps b s₀ (State.resumeSwitch s a1) := by
  unfold State.resumeSwitch
  repeat' first
    | with_reducible assumption
    | with_reducible refine State.finishSkim_keeps ?_ _ _
    | with_reducible refine State.modSec_keeps ?_ _ _
    | with_reducible refine State.startSkim_keeps ?_ _ _
    | with_reducible refine Keeps.ite ?_ ?_
    | (fail_if_no_progress with_reducible refine Keeps.of_mk (Keeps.comps ?_))
    | dsimp only
    | split

theorem execSkimEnd_keeps {b : Bool} {s₀ s : State} (h : Keeps b s₀ s) (a1) (a2) (a3) :
    KeepsA b s₀ (execSkimEnd a1 a2 a3 s) := by
  unfold execSkimEnd
  repeat' first
    | with_reducible assumption
    | with_reducible refine KeepsA.next ?_
    | with_reducible refine State.clearPart_keeps ?_ _ _
    | with_reducible refine State.finishCopies_keeps ?_ _
    | with_reducible refine State.faultPart_keeps ?_ _
    | with_reducible refine State.startPartReset_keeps ?_ _ _
    | with_reducible refine State.modSec_keeps ?_ _ _
    | with_reducible refine State.finishSkim_keeps ?_ _ _
    | with_reducible refine KeepsA.ite ?_ ?_
    | with_reducible refine Keeps.ite ?_ ?_
    | (fail_if_no_progress with_reducible refine Keeps.of_mk (Keeps.comps ?_))
    | dsimp only
    | split

theorem execOverwriteEnd_keeps {b : Bool} {s₀ s : State} (h : Keeps b s₀ s) (a1) (a2) :
    KeepsA b s₀ (execOverwriteEnd a1 a2 s) := by
  unfold execOverwriteEnd
  repeat' first
    | with_reducible assumption
    | with_reducible refine KeepsA.next ?_
    | with_reducible refine State.modSec_keeps ?_ _ _
    | with_reducible refine State.applyBinding_keeps ?_ _ _
    | with_reducible refine KeepsA.ite ?_ ?_
    | with_reducible refine Keeps.ite ?_ ?_
    | (fail_if_no_progress with_reducible refine Keeps.of_mk (Keeps.comps ?_))
    | dsimp only
    | split

end Sys2Proof.Machine
end

