-- ==== Sys2Proof/Laws/Keeps/Heat.lean ====
section
/-! SUPPORT. What the operations of Machine/Heat.lean keep. -/

namespace Sys2Proof.Machine

theorem State.cooled_keeps {b : Bool} {s₀ s : State} (h : Keeps b s₀ s) :
    Keeps b s₀ (State.cooled s) := by
  unfold State.cooled
  repeat' first
    | with_reducible assumption
    | with_reducible refine State.endTrip_keeps ?_
    | with_reducible refine State.endHeatWaits_keeps ?_

theorem execHbmThermalSample_keeps {b : Bool} {s₀ s : State} (h : Keeps b s₀ s) (a1) (a2) (a3) :
    KeepsA b s₀ (execHbmThermalSample a1 a2 a3 s) := by
  unfold execHbmThermalSample
  repeat' first
    | with_reducible assumption
    | with_reducible refine KeepsA.next ?_
    | with_reducible refine State.at__keeps ?_ _
    | with_reducible refine State.excludeStack_keeps ?_ _ _
    | with_reducible refine State.modStack_keeps ?_ _ _
    | with_reducible refine State.raise__keeps ?_ _ _ _
    | with_reducible refine State.tripStack_keeps ?_ _
    | with_reducible refine State.cooled_keeps ?_
    | with_reducible refine KeepsA.ite ?_ ?_
    | with_reducible refine Keeps.ite ?_ ?_

theorem State.excludeDie_keeps {b : Bool} {s₀ s : State} (h : Keeps b s₀ s) (a1) (a2) :
    Keeps b s₀ (State.excludeDie s a1 a2) := by
  unfold State.excludeDie
  repeat' first
    | with_reducible assumption
    | with_reducible refine State.faultEntry_keeps ?_ _ _ _ _
    | with_reducible refine State.countFault_keeps ?_ _
    | with_reducible refine State.modDie_keeps ?_ _ _
    | with_reducible refine Keeps.ite ?_ ?_
    | (with_reducible refine Keeps.foldl (fun t x ht => ?_) ?_)

theorem State.tripDie_keeps {b : Bool} {s₀ s : State} (h : Keeps b s₀ s) (a1) :
    Keeps b s₀ (State.tripDie s a1) := by
  unfold State.tripDie
  repeat' first
    | with_reducible assumption
    | with_reducible refine State.modDie_keeps ?_ _ _
    | with_reducible refine State.noteHealth_keeps ?_ _ _
    | with_reducible refine State.faultPart_keeps ?_ _

theorem execDieThermalSample_keeps {b : Bool} {s₀ s : State} (h : Keeps b s₀ s) (a1) (a2) (a3) :
    KeepsA b s₀ (execDieThermalSample a1 a2 a3 s) := by
  unfold execDieThermalSample
  repeat' first
    | with_reducible assumption
    | with_reducible refine KeepsA.next ?_
    | with_reducible refine State.at__keeps ?_ _
    | with_reducible refine State.excludeDie_keeps ?_ _ _
    | with_reducible refine State.noteHealth_keeps ?_ _ _
    | with_reducible refine State.modDie_keeps ?_ _ _
    | with_reducible refine State.tripModule_keeps ?_ _
    | with_reducible refine State.cooled_keeps ?_
    | with_reducible refine State.raise__keeps ?_ _ _ _
    | with_reducible refine State.tripDie_keeps ?_ _
    | with_reducible refine KeepsA.ite ?_ ?_
    | with_reducible refine Keeps.ite ?_ ?_

theorem execCoolantSample_keeps {b : Bool} {s₀ s : State} (h : Keeps b s₀ s) (a1) (a2) (a3) :
    KeepsA b s₀ (execCoolantSample a1 a2 a3 s) := by
  unfold execCoolantSample
  repeat' first
    | with_reducible assumption
    | with_reducible refine KeepsA.next ?_
    | with_reducible refine State.at__keeps ?_ _
    | with_reducible refine State.endTrip_keeps ?_
    | with_reducible refine KeepsA.ite ?_ ?_
    | with_reducible refine Keeps.ite ?_ ?_
    | (fail_if_no_progress with_reducible refine Keeps.of_mk (Keeps.comps ?_))

theorem execCoolantTrip_keeps {b : Bool} {s₀ s : State} (h : Keeps b s₀ s) (a1) :
    KeepsA b s₀ (execCoolantTrip a1 s) := by
  unfold execCoolantTrip
  repeat' first
    | with_reducible assumption
    | with_reducible refine KeepsA.next ?_
    | with_reducible refine State.at__keeps ?_ _
    | with_reducible refine State.tripModule_keeps ?_ _
    | with_reducible refine KeepsA.ite ?_ ?_
    | with_reducible refine Keeps.ite ?_ ?_
    | (fail_if_no_progress with_reducible refine Keeps.of_mk (Keeps.comps ?_))
    | dsimp only
    | split

end Sys2Proof.Machine
end

