-- ==== Sys2Proof/Laws/Keeps/Ledgers.lean ====
section
/-! SUPPORT. What the operations of Machine/Ledgers.lean keep. -/

namespace Sys2Proof.Machine

theorem modeStart_keeps {b : Bool} {s₀ s : State} (h : Keeps b s₀ s) (a1) :
    Keeps b s₀ (modeStart s a1) := by
  unfold modeStart
  repeat' first
    | with_reducible assumption
    | with_reducible refine State.finishCmd_keeps ?_ _
    | with_reducible refine State.modLedger_keeps ?_ _ _

theorem execMode_keeps {b : Bool} {s₀ s : State} (h : Keeps b s₀ s) (a1) :
    KeepsA b s₀ (execMode a1 s) := by
  unfold execMode
  repeat' first
    | with_reducible assumption
    | with_reducible refine KeepsA.next ?_
    | with_reducible refine dispatchRow_keeps (fun t c ht => ?_) ?_ _ _ _ _
    | with_reducible refine modeStart_keeps ?_ _

theorem inputStart_keeps {b : Bool} {s₀ s : State} (h : Keeps b s₀ s) (a1) :
    Keeps b s₀ (inputStart s a1) := by
  unfold inputStart
  repeat' first
    | with_reducible assumption
    | with_reducible refine State.ledgerAppend_keeps ?_ _ _
    | with_reducible refine State.finishCmd_keeps ?_ _
    | with_reducible refine State.modLedger_keeps ?_ _ _

theorem execInput_keeps {b : Bool} {s₀ s : State} (h : Keeps b s₀ s) (a1) :
    KeepsA b s₀ (execInput a1 s) := by
  unfold execInput
  repeat' first
    | with_reducible assumption
    | with_reducible refine KeepsA.next ?_
    | with_reducible refine dispatchRow_keeps (fun t c ht => ?_) ?_ _ _ _ _
    | with_reducible refine inputStart_keeps ?_ _

theorem execTrnLedgerCtlWrite_keeps {b : Bool} {s₀ s : State} (h : Keeps b s₀ s) (a1) (a2) (a3) :
    KeepsA b s₀ (execTrnLedgerCtlWrite a1 a2 a3 s) := by
  unfold execTrnLedgerCtlWrite
  repeat' first
    | with_reducible assumption
    | with_reducible refine KeepsA.next ?_
    | with_reducible refine State.onWrite_keeps (fun t ht => ?_) ?_ _ _
    | with_reducible refine State.modLedger_keeps ?_ _ _
    | with_reducible refine State.raise__keeps ?_ _ _ _
    | with_reducible refine State.setReg_keeps ?_ _ _ _
    | with_reducible refine KeepsA.ite ?_ ?_
    | with_reducible refine Keeps.ite ?_ ?_

end Sys2Proof.Machine
end

