-- ==== Sys2Proof/Laws/Keeps/Power.lean ====
section
/-! SUPPORT. What the operations of Machine/Power.lean keep. -/

namespace Sys2Proof.Machine

theorem capLegal_of_pend {x : Settings} (h : SettingsLegal x) : capLegal ((x.capPend.map Prod.fst).getD x.capW) := by
  cases e : x.capPend with
  | none => exact h.cap
  | some c => exact h.capPend c e

theorem State.applyPower_keeps {b : Bool} {s₀ s : State} (h : Keeps b s₀ s) (a1) :
    Keeps b s₀ (State.applyPower s a1) := by
  unfold State.applyPower
  extract_lets x due capOn fenceOn limOn y t
  have ht : Keeps b s₀ t := by
    refine Keeps.of_mk (h.comps.setSettings (fun hl => ?_))
    refine ⟨hl.1, hl.2, hl.3, hl.4, ?_, ?_, hl.7, hl.8, hl.9, hl.10, hl.11, hl.12⟩
    · dsimp only
      split
      · exact capLegal_of_pend hl
      · exact hl.cap
    · intro c hc
      dsimp only at hc
      split at hc
      · cases hc
      · exact hl.capPend c hc
  exact Keeps.ite ht (Keeps.foldl (fun t p hp => State.measured_keeps hp p) ht)

theorem State.setLevel_keeps {b : Bool} {s₀ s : State} (h : Keeps b s₀ s) (a1) (a2) (a3) (a4) :
    Keeps b s₀ (State.setLevel s a1 a2 a3 a4) := by
  unfold State.setLevel
  repeat' first
    | with_reducible assumption
    | with_reducible refine State.modDie_keeps ?_ _ _
    | with_reducible refine State.raise__keeps ?_ _ _ _
    | with_reducible refine Keeps.ite ?_ ?_

theorem State.loopGroup_keeps {b : Bool} {s₀ s : State} (h : Keeps b s₀ s) (a1) (a2) (a3) :
    Keeps b s₀ (State.loopGroup s a1 a2 a3) := by
  unfold State.loopGroup
  repeat' first
    | with_reducible assumption
    | with_reducible refine State.setLevel_keeps ?_ _ _ _ _
    | with_reducible refine Keeps.ite ?_ ?_
    | (with_reducible refine Keeps.foldl (fun t x ht => ?_) ?_)

theorem State.shareThrottle_keeps {b : Bool} {s₀ s : State} (h : Keeps b s₀ s) :
    Keeps b s₀ (State.shareThrottle s) := by
  unfold State.shareThrottle
  repeat' first
    | with_reducible assumption
    | with_reducible refine State.raise__keeps ?_ _ _ _
    | with_reducible refine State.bump_keeps ?_ _ _ _ _ _
    | with_reducible refine Keeps.ite ?_ ?_
    | (with_reducible refine Keeps.foldl (fun t x ht => ?_) ?_)

theorem execPowerLoopPeriod_keeps {b : Bool} {s₀ s : State} (h : Keeps b s₀ s) (a1) (a2) (a3) (a4) (a5) (a6) (a7) :
    KeepsA b s₀ (execPowerLoopPeriod a1 a2 a3 a4 a5 a6 a7 s) := by
  unfold execPowerLoopPeriod
  repeat' first
    | with_reducible assumption
    | with_reducible refine KeepsA.next ?_
    | with_reducible refine State.at__keeps ?_ _
    | with_reducible refine State.applyPower_keeps ?_ _
    | with_reducible refine State.loopGroup_keeps ?_ _ _ _
    | with_reducible refine State.shareThrottle_keeps ?_
    | with_reducible refine KeepsA.ite ?_ ?_
    | with_reducible refine Keeps.ite ?_ ?_
    | (with_reducible refine Keeps.foldl (fun t x ht => ?_) ?_)
    | (with_reducible refine Keeps.foldl_fst (fun t x ht => ?_) ?_)
    | (fail_if_no_progress with_reducible refine Keeps.of_mk (Keeps.comps ?_))

theorem execFastLimitWindow_keeps {b : Bool} {s₀ s : State} (h : Keeps b s₀ s) (a1) (a2) :
    KeepsA b s₀ (execFastLimitWindow a1 a2 s) := by
  unfold execFastLimitWindow
  repeat' first
    | with_reducible assumption
    | with_reducible refine KeepsA.next ?_
    | with_reducible refine State.raise__keeps ?_ _ _ _
    | with_reducible refine State.modDie_keeps ?_ _ _
    | with_reducible refine KeepsA.ite ?_ ?_

theorem execCoreSleep_keeps {b : Bool} {s₀ s : State} (h : Keeps b s₀ s) (a1) (a2) (a3) :
    KeepsA b s₀ (execCoreSleep a1 a2 a3 s) := by
  unfold execCoreSleep
  repeat' first
    | with_reducible assumption
    | with_reducible refine KeepsA.next ?_
    | with_reducible refine State.at__keeps ?_ _
    | with_reducible refine State.stirCluster_keeps ?_ _
    | with_reducible refine State.modCoreDom_keeps ?_ _ _
    | with_reducible refine KeepsA.ite ?_ ?_

theorem execClusterSleep_keeps {b : Bool} {s₀ s : State} (h : Keeps b s₀ s) (a1) (a2) (a3) :
    KeepsA b s₀ (execClusterSleep a1 a2 a3 s) := by
  unfold execClusterSleep
  repeat' first
    | with_reducible assumption
    | with_reducible refine KeepsA.next ?_
    | with_reducible refine State.at__keeps ?_ _
    | with_reducible refine State.modCluster_keeps ?_ _ _
    | with_reducible refine KeepsA.ite ?_ ?_

theorem execNmuGroupSleep_keeps {b : Bool} {s₀ s : State} (h : Keeps b s₀ s) (a1) (a2) (a3) :
    KeepsA b s₀ (execNmuGroupSleep a1 a2 a3 s) := by
  unfold execNmuGroupSleep
  repeat' first
    | with_reducible assumption
    | with_reducible refine KeepsA.next ?_
    | with_reducible refine State.at__keeps ?_ _
    | with_reducible refine State.modStack_keeps ?_ _ _
    | with_reducible refine KeepsA.ite ?_ ?_

theorem execCoreWakeStart_keeps {b : Bool} {s₀ s : State} (h : Keeps b s₀ s) (a1) (a2) :
    KeepsA b s₀ (execCoreWakeStart a1 a2 s) := by
  unfold execCoreWakeStart
  repeat' first
    | with_reducible assumption
    | with_reducible refine KeepsA.next ?_
    | with_reducible refine State.at__keeps ?_ _
    | with_reducible refine State.modCoreDom_keeps ?_ _ _
    | with_reducible refine State.modDie_keeps ?_ _ _
    | with_reducible refine KeepsA.ite ?_ ?_
    | with_reducible refine Keeps.ite ?_ ?_
    | (with_reducible refine Keeps.foldl (fun t x ht => ?_) ?_)

theorem execDomainWakeEnd_keeps {b : Bool} {s₀ s : State} (h : Keeps b s₀ s) (a1) :
    KeepsA b s₀ (execDomainWakeEnd a1 s) := by
  unfold execDomainWakeEnd
  repeat' first
    | with_reducible assumption
    | with_reducible refine KeepsA.next ?_
    | with_reducible refine State.modCoreDom_keeps ?_ _ _
    | with_reducible refine State.modCluster_keeps ?_ _ _
    | with_reducible refine State.modStack_keeps ?_ _ _
    | with_reducible refine KeepsA.ite ?_ ?_
    | with_reducible refine Keeps.ite ?_ ?_
    | (fail_if_no_progress with_reducible refine Keeps.of_mk (Keeps.comps ?_))

theorem State.partFault_keeps {b : Bool} {s₀ s : State} (h : Keeps b s₀ s) (a1) :
    Keeps b s₀ (State.partFault s a1) := by
  unfold State.partFault
  repeat' first
    | with_reducible assumption
    | with_reducible refine State.faultDie_keeps ?_ _
    | with_reducible refine Keeps.ite ?_ ?_

theorem execDiePllLockLoss_keeps {b : Bool} {s₀ s : State} (h : Keeps b s₀ s) (a1) :
    KeepsA b s₀ (execDiePllLockLoss a1 s) := by
  unfold execDiePllLockLoss
  repeat' first
    | with_reducible assumption
    | with_reducible refine KeepsA.next ?_
    | with_reducible refine State.partFault_keeps ?_ _

theorem execPowerStageFault_keeps {b : Bool} {s₀ s : State} (h : Keeps b s₀ s) (a1) :
    KeepsA b s₀ (execPowerStageFault a1 s) := by
  unfold execPowerStageFault
  repeat' first
    | with_reducible assumption
    | with_reducible refine KeepsA.next ?_
    | with_reducible refine State.partFault_keeps ?_ _

end Sys2Proof.Machine
end

