-- ==== Sys2Proof/Laws/Keeps/Startup.lean ====
section
/-! SUPPORT. What the operations of Machine/Startup.lean keep. -/

namespace Sys2Proof.Machine

theorem State.cold_keeps {s₀ s : State} (h : Keeps false s₀ s) : Keeps false s₀ (State.cold s) := by
  have hl (e : Sound s₀) : SettingsLegal { moduleId := s.settings.moduleId } :=
    ⟨by simp, by simp, by simp [shareLegal], by simp [shareLegal], by simp [capLegal], by simp, (h.settings e).moduleId,
      Or.inr rfl, by simp, by simp, rfl, by simp⟩
  refine ⟨h.1, h.2, h.3, h.4, h.5, h.6, h.7, ?_, ?_, ?_, ?_, ?_, ?_, ?_, hl, ?_, ?_⟩
  · intro e; cases e
  · intro _; rfl
  · intro _; rfl
  · intro _; rfl
  · intro _; exact Nat.zero_le _
  · intro _ x hx; exact absurd hx (List.not_mem_nil)
  · intro _ x hx; exact absurd hx (List.not_mem_nil)
  · intro _; exact (by decide : 1 ≤ 7)
  · intro _; exact ⟨List.Pairwise.nil, fun x hx => absurd hx (List.not_mem_nil)⟩

theorem execPowerInputInRange_keeps {s₀ s : State} (h : Keeps false s₀ s) :
    KeepsA false s₀ (execPowerInputInRange s) := by
  unfold execPowerInputInRange
  repeat' first
    | with_reducible assumption
    | with_reducible refine KeepsA.next ?_
    | with_reducible refine State.cold_keeps ?_
    | with_reducible refine KeepsA.ite ?_ ?_

theorem execPowerInputOutOfRange_keeps {s₀ s : State} (h : Keeps false s₀ s) (a1) :
    KeepsA false s₀ (execPowerInputOutOfRange a1 s) := by
  unfold execPowerInputOutOfRange
  repeat' first
    | with_reducible assumption
    | with_reducible refine KeepsA.next ?_
    | with_reducible refine State.departPorts_keeps ?_ _
    | with_reducible refine State.cold_keeps ?_
    | with_reducible refine KeepsA.ite ?_ ?_
    | with_reducible refine Keeps.ite ?_ ?_
    | (fail_if_no_progress with_reducible refine Keeps.of_mk (Keeps.comps ?_))
    | (fail_if_no_progress with_reducible refine Keeps.of_mk (KeepsC.setPhase (Keeps.comps ?_) (by simp only; omega)))

theorem State.hold_keeps {b : Bool} {s₀ s : State} (h : Keeps b s₀ s) :
    Keeps b s₀ (State.hold s) := by
  unfold State.hold
  repeat' first
    | with_reducible assumption
    | with_reducible refine Keeps.ite ?_ ?_
    | (fail_if_no_progress with_reducible refine Keeps.of_mk (Keeps.comps ?_))

theorem execBootRomPhase_keeps {b : Bool} {s₀ s : State} (h : Keeps b s₀ s) :
    KeepsA b s₀ (execBootRomPhase s) := by
  unfold execBootRomPhase
  repeat' first
    | with_reducible assumption
    | with_reducible refine KeepsA.next ?_
    | with_reducible refine State.hold_keeps ?_
    | with_reducible refine KeepsA.ite ?_ ?_
    | with_reducible refine Keeps.ite ?_ ?_
    | (fail_if_no_progress with_reducible refine Keeps.of_mk (Keeps.comps ?_))
    | (fail_if_no_progress with_reducible refine Keeps.of_mk (KeepsC.setPhase (Keeps.comps ?_) (by simp only; omega)))
    | dsimp only
    | split

theorem execBringUpPhase_keeps {b : Bool} {s₀ s : State} (h : Keeps b s₀ s) (a1) (a2) :
    KeepsA b s₀ (execBringUpPhase a1 a2 s) := by
  unfold execBringUpPhase
  repeat' first
    | with_reducible assumption
    | with_reducible refine KeepsA.next ?_
    | with_reducible refine State.at__keeps ?_ _
    | with_reducible refine State.failUnit_keeps ?_ _
    | with_reducible refine State.hold_keeps ?_
    | with_reducible refine KeepsA.ite ?_ ?_
    | with_reducible refine Keeps.ite ?_ ?_
    | (with_reducible refine Keeps.foldl (fun t x ht => ?_) ?_)
    | (with_reducible refine Keeps.foldl_fst (fun t x ht => ?_) ?_)
    | (fail_if_no_progress with_reducible refine Keeps.of_mk (Keeps.comps ?_))
    | (fail_if_no_progress with_reducible refine Keeps.of_mk (KeepsC.setPhase (Keeps.comps ?_) (by simp only; omega)))

theorem State.admitSite_keeps {b : Bool} {s₀ s : State} (h : Keeps b s₀ s) (a1) :
    Keeps b s₀ (State.admitSite s a1) := by
  unfold State.admitSite
  repeat' first
    | with_reducible assumption
    | with_reducible refine State.modLink_keeps ?_ _ _
    | with_reducible refine State.raiseFence_keeps ?_ _ _
    | with_reducible refine Keeps.ite ?_ ?_
    | (with_reducible refine Keeps.foldl (fun t x ht => ?_) ?_)
    | (with_reducible refine Keeps.foldl_fst (fun t x ht => ?_) ?_)
    | (fail_if_no_progress with_reducible refine Keeps.of_mk (Keeps.comps ?_))

theorem State.trainLinks_keeps {b : Bool} {s₀ s : State} (h : Keeps b s₀ s) :
    Keeps b s₀ (State.trainLinks s) := by
  unfold State.trainLinks
  repeat' first
    | with_reducible assumption
    | with_reducible refine State.modLink_keeps ?_ _ _
    | with_reducible refine Keeps.ite ?_ ?_
    | (with_reducible refine Keeps.foldl (fun t x ht => ?_) ?_)

theorem execScaffoldLinksPhase_keeps {b : Bool} {s₀ s : State} (h : Keeps b s₀ s) (a1) (a2) (a3) :
    KeepsA b s₀ (execScaffoldLinksPhase a1 a2 a3 s) := by
  unfold execScaffoldLinksPhase
  repeat' first
    | with_reducible assumption
    | with_reducible refine KeepsA.next ?_
    | with_reducible refine State.at__keeps ?_ _
    | with_reducible refine State.trainLinks_keeps ?_
    | with_reducible refine State.trainChan_keeps ?_ _ _
    | with_reducible refine State.admitSite_keeps ?_ _
    | with_reducible refine State.failUnit_keeps ?_ _
    | with_reducible refine State.noteHealth_keeps ?_ _ _
    | with_reducible refine State.hold_keeps ?_
    | with_reducible refine KeepsA.ite ?_ ?_
    | with_reducible refine Keeps.ite ?_ ?_
    | (with_reducible refine Keeps.foldl (fun t x ht => ?_) ?_)
    | (with_reducible refine Keeps.foldl_fst (fun t x ht => ?_) ?_)
    | (fail_if_no_progress with_reducible refine Keeps.of_mk (Keeps.comps ?_))
    | (fail_if_no_progress with_reducible refine Keeps.of_mk (KeepsC.setPhase (Keeps.comps ?_) (by simp only; omega)))

theorem execSelfTestPhase_keeps {b : Bool} {s₀ s : State} (h : Keeps b s₀ s) (a1) (a2) :
    KeepsA b s₀ (execSelfTestPhase a1 a2 s) := by
  unfold execSelfTestPhase
  repeat' first
    | with_reducible assumption
    | with_reducible refine KeepsA.next ?_
    | with_reducible refine State.at__keeps ?_ _
    | with_reducible refine State.failUnit_keeps ?_ _
    | with_reducible refine State.hold_keeps ?_
    | with_reducible refine KeepsA.ite ?_ ?_
    | with_reducible refine Keeps.ite ?_ ?_
    | (with_reducible refine Keeps.foldl (fun t x ht => ?_) ?_)
    | (with_reducible refine Keeps.foldl_fst (fun t x ht => ?_) ?_)
    | (fail_if_no_progress with_reducible refine Keeps.of_mk (Keeps.comps ?_))
    | (fail_if_no_progress with_reducible refine Keeps.of_mk (KeepsC.setPhase (Keeps.comps ?_) (by simp only; omega)))

theorem State.applyHost_keeps {b : Bool} {s₀ s : State} (h : Keeps b s₀ s) (a1)
    (hl : Sound s₀ → hostLegal a1) : Keeps b s₀ (State.applyHost s a1) := by
  unfold State.applyHost
  split
  · rename_i p m
    refine State.measured_keeps (Keeps.of_mk (h.comps.newSettings (fun e => ?_))) _
    have k := h.settings e
    refine ⟨k.1, k.2, k.3, k.4, k.5, k.6, k.7, k.8, ⟨?_, ?_⟩, k.10, k.11, k.12⟩
    · simp only [List.length_set]; exact k.9.1
    · intro y hy
      rcases List.mem_or_eq_of_mem_set hy with hy | rfl
      · exact k.9.2 y hy
      · exact hl e
  · rename_i w p
    have ht : Keeps b s₀ { s with settings := { s.settings with winPart := s.settings.winPart.set w (some p) } } := by
      refine Keeps.of_mk (h.comps.newSettings (fun e => ?_))
      have k := h.settings e
      exact ⟨k.1, k.2, k.3, k.4, k.5, k.6, k.7, k.8, k.9, k.10, by simp only [List.length_set]; exact k.11, k.12⟩
    exact Keeps.ite ht (State.measured_keeps (State.measured_keeps ht _) _)
  · refine Keeps.of_mk (h.comps.newSettings (fun e => ?_))
    have k := h.settings e
    exact ⟨k.1, k.2, k.3, k.4, k.5, k.6, k.7, k.8, k.9, hl e, k.11, k.12⟩

theorem State.applyHeld_keeps {b : Bool} {s₀ s : State} (h : Keeps b s₀ s) (a1) :
    Keeps b s₀ (State.applyHeld s a1) := by
  unfold State.applyHeld
  refine Keeps.foldl_mem (fun t x hx ht => State.applyHost_keeps ht x (fun e => ?_)) ?_
  · exact (h.settings e).held x (List.mem_of_mem_filter hx)
  · refine Keeps.of_mk (h.comps.newSettings (fun e => ?_))
    have k := h.settings e
    exact ⟨k.1, k.2, k.3, k.4, k.5, k.6, k.7, k.8, k.9, k.10, k.11, fun x hx => k.held x (List.mem_of_mem_filter hx)⟩

theorem State.applyPending_keeps {b : Bool} {s₀ s : State} (h : Keeps b s₀ s) : Keeps b s₀ (State.applyPending s) := by
  refine Keeps.of_mk (h.comps.newSettings (fun e => ?_))
  have k := h.settings e
  refine ⟨?_, by simp, k.3, ⟨by simp, fun g hg => ?_⟩, capLegal_of_pend k, by simp, k.7, k.8, k.9, k.10, k.11, k.12⟩
  · cases hp : s.settings.partPend with
    | none => exact k.partitions
    | some n => exact k.partPend n hp
  · rw [List.eq_of_mem_replicate hg]; exact k.share

theorem State.openPart_keeps {b : Bool} {s₀ s : State} (h : Keeps b s₀ s) (a1) :
    Keeps b s₀ (State.openPart s a1) := by
  unfold State.openPart
  repeat' first
    | with_reducible assumption
    | with_reducible refine State.raise__keeps ?_ _ _ _
    | with_reducible refine State.resumeSwitch_keeps ?_ _
    | with_reducible refine Keeps.ite ?_ ?_
    | (fail_if_no_progress with_reducible refine Keeps.of_mk (Keeps.comps ?_))

theorem State.logStart_keeps {b : Bool} {s₀ s : State} (h : Keeps b s₀ s) :
    Keeps b s₀ (State.logStart s) := by
  unfold State.logStart
  repeat' first
    | with_reducible assumption
    | with_reducible refine State.resetEntry_keeps ?_ _ _ _ _
    | with_reducible refine State.faultEntry_keeps ?_ _ _ _ _
    | with_reducible refine Keeps.ite ?_ ?_
    | (fail_if_no_progress with_reducible refine Keeps.of_mk (Keeps.comps ?_))
    | dsimp only
    | split

theorem execEntryToOperational_keeps {b : Bool} {s₀ s : State} (h : Keeps b s₀ s) (a1) :
    KeepsA b s₀ (execEntryToOperational a1 s) := by
  unfold execEntryToOperational
  extract_lets u faulted a b' img keep fl st c
  have hu : Keeps b s₀ u := State.at__keeps h a1
  split
  · have ha : Keeps b s₀ a := State.freshen_keeps (State.applyPending_keeps hu) _
    have hb : Keeps b s₀ b' := Keeps.foldl (fun t p ht => State.applyHeld_keeps (State.drawKeys_keeps ht p) p)
      (Keeps.of_mk ha.comps)
    have hc : Keeps b s₀ c := by
      refine Keeps.of_mk ((hb.comps.setPhase (n := 7) (by decide)).setSvn ?_)
      dsimp only
      split
      · exact Nat.le_max_left _ _
      · exact Nat.le_refl _
    exact KeepsA.next (Keeps.foldl (fun t p ht => State.openPart_keeps ht p) (State.logStart_keeps hc))
  · exact KeepsA.next hu

theorem execPartitionResetEnd_keeps {b : Bool} {s₀ s : State} (h : Keeps b s₀ s) (a1) (a2) (a3) :
    KeepsA b s₀ (execPartitionResetEnd a1 a2 a3 s) := by
  unfold execPartitionResetEnd
  extract_lets u a x y b'
  have hu : Keeps b s₀ u := State.at__keeps h a2
  split
  · have ha : Keeps b s₀ a := Keeps.foldl (fun t p ht => State.failUnit_keeps ht p) hu
    have hb : Keeps b s₀ b' := by
      refine Keeps.of_mk (ha.comps.newSettings (fun e => ?_))
      have k := ha.settings e
      refine ⟨k.1, k.2, k.3, ⟨by simp only [List.length_set]; exact k.4.1, fun g hg => ?_⟩, k.5, k.6, k.7, k.8, k.9, k.10,
        k.11, k.12⟩
      rcases List.mem_or_eq_of_mem_set hg with hg | rfl
      · exact k.4.2 g hg
      · exact k.share
    exact KeepsA.next (State.openPart_keeps (State.applyHeld_keeps hb a1) a1)
  · exact KeepsA.next hu

end Sys2Proof.Machine
end

