-- ==== Sys2Proof/Laws/Keeps/Snaps.lean ====
section
/-! SUPPORT. What the operations of Machine/Snaps.lean keep. -/

namespace Sys2Proof.Machine

theorem snapStart_keeps {b : Bool} {s₀ s : State} (h : Keeps b s₀ s) (a1) :
    Keeps b s₀ (snapStart s a1) := by
  unfold snapStart
  repeat' first
    | with_reducible assumption
    | with_reducible refine State.cmdWaits_keeps ?_ _ _
    | with_reducible refine State.modCmd_keeps ?_ _ _

theorem execSnap_keeps {b : Bool} {s₀ s : State} (h : Keeps b s₀ s) (a1) :
    KeepsA b s₀ (execSnap a1 s) := by
  unfold execSnap
  repeat' first
    | with_reducible assumption
    | with_reducible refine KeepsA.next ?_
    | with_reducible refine State.wantSlot_keeps ?_ _
    | with_reducible refine dispatchRow_keeps (fun t c ht => ?_) ?_ _ _ _ _
    | with_reducible refine snapStart_keeps ?_ _
    | with_reducible refine KeepsA.ite ?_ ?_

theorem State.copyPages_keeps {b : Bool} {s₀ s : State} (h : Keeps b s₀ s) (a1) (a2) :
    Keeps b s₀ (State.copyPages s a1 a2) := by
  unfold State.copyPages
  repeat' first
    | with_reducible assumption
    | with_reducible refine State.setRegFld_keeps ?_ _ _ _ _ _
    | with_reducible refine Keeps.ite ?_ ?_
    | (with_reducible refine Keeps.foldl (fun t x ht => ?_) ?_)
    | (with_reducible refine Keeps.foldl_fst (fun t x ht => ?_) ?_)
    | (fail_if_no_progress with_reducible refine Keeps.of_mk (Keeps.comps ?_))

theorem execSnapCopy_keeps {b : Bool} {s₀ s : State} (h : Keeps b s₀ s) (a1) (a2) :
    KeepsA b s₀ (execSnapCopy a1 a2 s) := by
  unfold execSnapCopy
  repeat' first
    | with_reducible assumption
    | with_reducible refine KeepsA.next ?_
    | with_reducible refine State.at__keeps ?_ _
    | with_reducible refine State.bump_keeps ?_ _ _ _ _ _
    | with_reducible refine State.copyPages_keeps ?_ _ _
    | with_reducible refine State.notice_keeps ?_ _ _ _ _
    | with_reducible refine State.finishCmd_keeps ?_ _
    | with_reducible refine State.setResult_keeps ?_ _ _
    | with_reducible refine KeepsA.ite ?_ ?_
    | with_reducible refine Keeps.ite ?_ ?_
    | (with_reducible refine Keeps.foldl (fun t x ht => ?_) ?_)
    | (with_reducible refine Keeps.foldl_fst (fun t x ht => ?_) ?_)
    | (fail_if_no_progress with_reducible refine Keeps.of_mk (Keeps.comps ?_))
    | dsimp only
    | split

theorem View.seek_ents (v : View) (n : Nat) : (v.seek n).ents = v.ents := by
  unfold View.seek
  split <;> rfl

theorem State.seekView_keeps {b : Bool} {s₀ s : State} (h : Keeps b s₀ s) (a1) (a2) :
    Keeps b s₀ (State.seekView s a1 a2) := by
  have ht := State.setRegFld_keeps h (rasPage a1) Reg.rasLogCursor 31 0 a2
  refine Keeps.of_mk (ht.comps.setViews (fun e => ?_))
  exact SMap.all_modify (P := fun (v : View) => v.ents.length ≤ 1024) _ _ _ _ e (by simp) (fun v hv => by
    rw [View.seek_ents]; exact hv)

theorem execRasLogCursorWrite_keeps {b : Bool} {s₀ s : State} (h : Keeps b s₀ s) (a1) (a2) (a3) :
    KeepsA b s₀ (execRasLogCursorWrite a1 a2 a3 s) := by
  unfold execRasLogCursorWrite
  repeat' first
    | with_reducible assumption
    | with_reducible refine KeepsA.next ?_
    | with_reducible refine State.onWrite_keeps (fun t ht => ?_) ?_ _ _
    | with_reducible refine State.seekView_keeps ?_ _ _

end Sys2Proof.Machine
end

