-- ==== Sys2Proof/Laws/Keeps/Registers.lean ====
section
/-! SUPPORT. What the operations of Machine/Registers.lean keep. -/

namespace Sys2Proof.Machine

theorem State.openEnWrite_keeps {b : Bool} {s₀ s : State} (h : Keeps b s₀ s) (a1) (a2) (a3) :
    Keeps b s₀ (State.openEnWrite s a1 a2 a3) := by
  unfold State.openEnWrite
  repeat' first
    | with_reducible assumption
    | with_reducible refine State.sendMsix_keeps ?_ _
    | with_reducible refine Keeps.ite ?_ ?_
    | (fail_if_no_progress with_reducible refine Keeps.of_mk (Keeps.comps ?_))

theorem State.openStatWrite_keeps {b : Bool} {s₀ s : State} (h : Keeps b s₀ s) (a1) (a2) (a3) :
    Keeps b s₀ (State.openStatWrite s a1 a2 a3) := by
  unfold State.openStatWrite
  repeat' first
    | with_reducible assumption
    | with_reducible refine State.sendMsix_keeps ?_ _
    | with_reducible refine Keeps.ite ?_ ?_
    | (fail_if_no_progress with_reducible refine Keeps.of_mk (Keeps.comps ?_))

theorem State.irqEnWrite_keeps {b : Bool} {s₀ s : State} (h : Keeps b s₀ s) (a1) (a2) (a3) (a4) :
    Keeps b s₀ (State.irqEnWrite s a1 a2 a3 a4) := by
  unfold State.irqEnWrite
  repeat' first
    | with_reducible assumption
    | with_reducible refine State.onWrite_keeps (fun t ht => ?_) ?_ _ _
    | with_reducible refine State.openEnWrite_keeps ?_ _ _ _
    | with_reducible refine State.setReg_keeps ?_ _ _ _
    | with_reducible refine State.sendMsix_keeps ?_ _
    | with_reducible refine Keeps.ite ?_ ?_
    | (with_reducible refine Keeps.foldl (fun t x ht => ?_) ?_)

theorem State.irqStatWrite_keeps {b : Bool} {s₀ s : State} (h : Keeps b s₀ s) (a1) (a2) (a3) (a4) :
    Keeps b s₀ (State.irqStatWrite s a1 a2 a3 a4) := by
  unfold State.irqStatWrite
  repeat' first
    | with_reducible assumption
    | with_reducible refine State.onWrite_keeps (fun t ht => ?_) ?_ _ _
    | with_reducible refine State.openStatWrite_keeps ?_ _ _ _
    | with_reducible refine State.setReg_keeps ?_ _ _ _
    | with_reducible refine State.sendMsix_keeps ?_ _
    | with_reducible refine Keeps.ite ?_ ?_
    | (with_reducible refine Keeps.foldl (fun t x ht => ?_) ?_)

theorem execBlkIrqEnWrite_keeps {b : Bool} {s₀ s : State} (h : Keeps b s₀ s) (a1) (a2) (a3) (a4) :
    KeepsA b s₀ (execBlkIrqEnWrite a1 a2 a3 a4 s) := by
  unfold execBlkIrqEnWrite
  repeat' first
    | with_reducible assumption
    | with_reducible refine KeepsA.next ?_
    | with_reducible refine State.irqEnWrite_keeps ?_ _ _ _ _
    | with_reducible refine KeepsA.ite ?_ ?_

theorem execBlkIrqStatClear_keeps {b : Bool} {s₀ s : State} (h : Keeps b s₀ s) (a1) (a2) (a3) (a4) :
    KeepsA b s₀ (execBlkIrqStatClear a1 a2 a3 a4 s) := by
  unfold execBlkIrqStatClear
  repeat' first
    | with_reducible assumption
    | with_reducible refine KeepsA.next ?_
    | with_reducible refine State.irqStatWrite_keeps ?_ _ _ _ _
    | with_reducible refine KeepsA.ite ?_ ?_

theorem State.writeReg_keeps {b : Bool} {s₀ s : State} (h : Keeps b s₀ s) (a1) (a2) (a3) (a4) :
    Keeps b s₀ (State.writeReg s a1 a2 a3 a4) := by
  unfold State.writeReg
  repeat' first
    | with_reducible assumption
    | with_reducible refine State.setReg_keeps ?_ _ _ _
    | with_reducible refine Keeps.ite ?_ ?_
    | (fail_if_no_progress with_reducible refine Keeps.of_mk (Keeps.comps ?_))

theorem State.plainWrite_keeps {b : Bool} {s₀ s : State} (h : Keeps b s₀ s) (a1) (a2) (a3) (a4) (a5) :
    Keeps b s₀ (State.plainWrite s a1 a2 a3 a4 a5) := by
  unfold State.plainWrite
  repeat' first
    | with_reducible assumption
    | with_reducible refine State.onWrite_keeps (fun t ht => ?_) ?_ _ _
    | with_reducible refine State.writeReg_keeps ?_ _ _ _ _
    | with_reducible refine State.lostUpdate_keeps ?_ _ _ _
    | with_reducible refine Keeps.ite ?_ ?_
    | (fail_if_no_progress with_reducible refine Keeps.of_mk (Keeps.comps ?_))
    | dsimp only
    | split

theorem execRegisterWrite_keeps {b : Bool} {s₀ s : State} (h : Keeps b s₀ s) (a1) (a2) (a3) (a4) (a5) :
    KeepsA b s₀ (execRegisterWrite a1 a2 a3 a4 a5 s) := by
  unfold execRegisterWrite
  repeat' first
    | with_reducible assumption
    | with_reducible refine KeepsA.next ?_
    | with_reducible refine State.plainWrite_keeps ?_ _ _ _ _ _
    | with_reducible refine State.irqEnWrite_keeps ?_ _ _ _ _
    | with_reducible refine State.irqStatWrite_keeps ?_ _ _ _ _
    | with_reducible refine execQgSeedWrite_keeps ?_ _ _ _
    | with_reducible refine execQgKeyClear_keeps ?_ _ _ _
    | with_reducible refine execBndMcastWrite_keeps ?_ _ _ _ _
    | with_reducible refine execHodCompatWrite_keeps ?_ _ _ _
    | with_reducible refine execTrnLedgerCtlWrite_keeps ?_ _ _ _
    | with_reducible refine execNarShardWrite_keeps ?_ _ _ _ _
    | with_reducible refine execCourseDisable_keeps ?_ _ _ _ _
    | with_reducible refine execCourseEnable_keeps ?_ _ _ _
    | with_reducible refine State.onWrite_keeps (fun t ht => ?_) ?_ _ _
    | with_reducible refine State.ringCtlWrite_keeps ?_ _ _
    | with_reducible refine execDoorbell_keeps ?_ _ _ _
    | with_reducible refine State.steerWrite_keeps ?_ _ _ _
    | with_reducible refine State.sealWrite_keeps ?_ _ _ _
    | with_reducible refine State.writeReg_keeps ?_ _ _ _ _
    | with_reducible refine State.seekView_keeps ?_ _ _
    | with_reducible refine execPartitionReset_keeps ?_ _ _ _
    | with_reducible refine KeepsA.ite ?_ ?_
    | with_reducible refine Keeps.ite ?_ ?_
    | (fail_if_no_progress with_reducible refine Keeps.of_mk (Keeps.comps ?_))
    | dsimp only
    | split

theorem execRegisterRead_keeps {b : Bool} {s₀ s : State} (h : Keeps b s₀ s) (a1) (a2) (a3) :
    KeepsA b s₀ (execRegisterRead a1 a2 a3 s) := by
  unfold execRegisterRead
  repeat' first
    | with_reducible assumption
    | with_reducible refine KeepsA.next ?_
    | with_reducible refine State.emit_keeps ?_ _
    | with_reducible refine State.denied_keeps ?_
    | with_reducible refine State.steerTrap_keeps ?_ _
    | with_reducible refine KeepsA.ite ?_ ?_
    | with_reducible refine Keeps.ite ?_ ?_
    | (fail_if_no_progress with_reducible refine Keeps.of_mk (Keeps.comps ?_))
    | dsimp only
    | split

end Sys2Proof.Machine
end

