-- ==== Sys2Proof/Laws/Keeps/Xanna.lean ====
section
/-! SUPPORT. What the operations of Machine/Xanna.lean keep. -/

namespace Sys2Proof.Machine

theorem State.modConn_keeps {b : Bool} {s₀ s : State} (h : Keeps b s₀ s) (a1) (a2)
    (hf : Sound s₀ → ∀ c : Conn, c.queue.length ≤ 4096 → (a2 c).queue.length ≤ 4096) :
    Keeps b s₀ (State.modConn s a1 a2) := by
  refine ⟨h.1, h.2, h.3, h.4, h.5, h.6, h.7, h.8, h.9, h.10, h.11, h.12, h.13, fun e c hc => ?_, h.15, h.16, h.17⟩
  obtain ⟨d, hd, rfl⟩ := List.mem_map.1 hc
  split
  · exact hf e d (h.queues e d hd)
  · exact h.queues e d hd

theorem execXannaConnect_keeps {b : Bool} {s₀ s : State} (h : Keeps b s₀ s) (a1) (a2) (a3) :
    KeepsA b s₀ (execXannaConnect a1 a2 a3 s) := by
  unfold execXannaConnect
  dsimp only
  split
  · refine KeepsA.next (Keeps.ite (Keeps.of_mk (h.comps.setConns (fun hq c hc => ?_))) h)
    rcases List.mem_append.1 hc with hc | hc
    · exact hq c hc
    · rw [List.mem_singleton.1 hc]; exact Nat.zero_le _
  · exact KeepsA.next h

theorem execXannaDisconnect_keeps {b : Bool} {s₀ s : State} (h : Keeps b s₀ s) (a1) :
    KeepsA b s₀ (execXannaDisconnect a1 s) :=
  KeepsA.next (Keeps.of_mk (h.comps.setConns (fun hq c hc => hq c (List.mem_of_mem_filter hc))))

theorem State.xanna_keeps {b : Bool} {s₀ s : State} {f : State → State × Nat}
    (hf : ∀ t, Keeps b s₀ t → Keeps b s₀ (f t).1) (h : Keeps b s₀ s) (a1) (a2) (a3) :
    Keeps b s₀ (State.xanna s a1 a2 a3 f) := by
  unfold State.xanna
  repeat' first
    | with_reducible assumption
    | with_reducible refine State.emit_keeps ?_ _
    | with_reducible refine hf _ ?_
    | with_reducible refine Keeps.ite ?_ ?_

theorem asked_keeps {b : Bool} {s₀ s t : State} (a1) (a2) (ht : a1 = true → Keeps b s₀ t) (h : Keeps b s₀ s) :
    Keeps b s₀ (asked a1 t a2 s).1 := by
  unfold asked
  split
  · exact ht ‹_›
  · exact h

theorem State.sendBodies_keeps {b : Bool} {s₀ s : State} (h : Keeps b s₀ s) : Keeps b s₀ (State.sendBodies s) := by
  refine Keeps.of_mk ((h.comps.setConns (fun hq c hc => ?_)).setOut (List.prefix_append _ _))
  obtain ⟨d, hd, rfl⟩ := List.mem_map.1 hc
  have := hq d hd
  simp only [List.length_drop]
  omega

theorem State.pilotTick_keeps {b : Bool} {s₀ s : State} (h : Keeps b s₀ s) : Keeps b s₀ (State.pilotTick s) :=
  Keeps.ite (State.sendBodies_keeps (Keeps.of_mk (h.comps.setNow (Nat.le_add_right _ 20)))) h

theorem execXannaRead_keeps {b : Bool} {s₀ s : State} (h : Keeps b s₀ s) (a1) (a2) (a3) :
    KeepsA b s₀ (execXannaRead a1 a2 a3 s) := by
  unfold execXannaRead
  repeat' first
    | with_reducible assumption
    | with_reducible refine KeepsA.next ?_
    | with_reducible refine State.emit_keeps ?_ _
    | with_reducible refine State.tookFree_keeps ?_
    | with_reducible refine KeepsA.ite ?_ ?_
    | with_reducible refine Keeps.ite ?_ ?_

theorem execSubscribe_keeps {b : Bool} {s₀ s : State} (h : Keeps b s₀ s) (a1) (a2) :
    KeepsA b s₀ (execSubscribe a1 a2 s) := by
  refine KeepsA.next (State.xanna_keeps (fun t ht => State.modConn_keeps ht _ _ (fun e c hc => ?_)) h _ _ _)
  have h1 : (t.log.reverse.filter (fun e => decide (a2 ≤ e.seq))).length ≤ t.log.length :=
    Nat.le_trans (List.length_filter_le ..) (Nat.le_of_eq List.length_reverse)
  have h2 := ht.log e
  simp only [List.length_map]
  omega

theorem execPartitionCount_keeps {b : Bool} {s₀ s : State} (h : Keeps b s₀ s) (a1) (a2) (a3) :
    KeepsA b s₀ (execPartitionCount a1 a2 a3 s) := by
  refine KeepsA.next (State.xanna_keeps (fun t ht => asked_keeps _ _ (fun ok => ?_) ht) h _ _ _)
  refine Keeps.of_mk (ht.comps.setSettings (fun k => ?_))
  refine ⟨k.1, fun n hn => ?_, k.3, k.4, k.5, k.6, k.7, k.8, k.9, k.10, k.11, k.12⟩
  cases hn
  simpa using ok

theorem execTierCacheShare_keeps {b : Bool} {s₀ s : State} (h : Keeps b s₀ s) (a1) (a2) (a3) :
    KeepsA b s₀ (execTierCacheShare a1 a2 a3 s) := by
  refine KeepsA.next (State.xanna_keeps (fun t ht => asked_keeps _ _ (fun ok => ?_) ht) h _ _ _)
  refine Keeps.of_mk (ht.comps.setSettings (fun k => ?_))
  exact ⟨k.1, k.2, by simpa [shareLegal] using ok, k.4, k.5, k.6, k.7, k.8, k.9, k.10, k.11, k.12⟩

theorem execFencedPower_keeps {b : Bool} {s₀ s : State} (h : Keeps b s₀ s) (a1) (a2) (a3) (a4) :
    KeepsA b s₀ (execFencedPower a1 a2 a3 a4 s) := by
  refine KeepsA.next (State.xanna_keeps (fun t ht => ?_) (State.at__keeps h _) _ _ _)
  refine Keeps.of_mk (ht.comps.setSettings (fun k => ?_))
  exact ⟨k.1, k.2, k.3, k.4, k.5, k.6, k.7, k.8, k.9, k.10, k.11, k.12⟩

theorem execPowerCaps_keeps {b : Bool} {s₀ s : State} (h : Keeps b s₀ s) (a1) (a2) (a3) (a4) :
    KeepsA b s₀ (execPowerCaps a1 a2 a3 a4 s) := by
  refine KeepsA.next (State.xanna_keeps (fun t ht => asked_keeps _ _ (fun ok => ?_) ht) (State.at__keeps h _) _ _ _)
  refine Keeps.of_mk (ht.comps.setSettings (fun k => ?_))
  refine ⟨k.1, k.2, k.3, k.4, k.5, fun c hc => ?_, k.7, k.8, k.9, k.10, k.11, k.12⟩
  cases hc
  simpa [capLegal, and_assoc] using ok

theorem execFirmwareImage_keeps {b : Bool} {s₀ s : State} (h : Keeps b s₀ s) (a1) (a2) (a3) :
    KeepsA b s₀ (execFirmwareImage a1 a2 a3 s) := by
  unfold execFirmwareImage
  repeat' first
    | with_reducible assumption
    | with_reducible refine KeepsA.next ?_
    | with_reducible refine State.xanna_keeps (fun t ht => ?_) ?_ _ _ _
    | with_reducible refine asked_keeps _ _ (fun ok => ?_) ?_
    | with_reducible refine KeepsA.ite ?_ ?_
    | with_reducible refine Keeps.ite ?_ ?_
    | with_reducible refine Keeps.ite_fst ?_ ?_
    | with_reducible refine Keeps.of_fst ?_ (by assumption)
    | (fail_if_no_progress with_reducible refine Keeps.of_mk (Keeps.comps ?_))
    | dsimp only
    | split

theorem execModuleResetRequest_keeps {b : Bool} {s₀ s : State} (h : Keeps b s₀ s) (a1) (a2) :
    KeepsA b s₀ (execModuleResetRequest a1 a2 s) := by
  unfold execModuleResetRequest
  repeat' first
    | with_reducible assumption
    | with_reducible refine KeepsA.next ?_
    | with_reducible refine State.xanna_keeps (fun t ht => ?_) ?_ _ _ _
    | with_reducible refine State.moduleReset_keeps ?_ _
    | with_reducible refine KeepsA.ite ?_ ?_
    | with_reducible refine Keeps.ite ?_ ?_

theorem execTenantBind_keeps {b : Bool} {s₀ s : State} (h : Keeps b s₀ s) (a1) (a2) (a3) (a4) (a5) (a6) :
    KeepsA b s₀ (execTenantBind a1 a2 a3 a4 a5 a6 s) := by
  unfold execTenantBind
  repeat' first
    | with_reducible assumption
    | with_reducible refine KeepsA.next ?_
    | with_reducible refine State.xanna_keeps (fun t ht => ?_) ?_ _ _ _
    | with_reducible refine asked_keeps _ _ (fun ok => ?_) ?_
    | with_reducible refine State.bindRequest_keeps ?_ _ _

theorem execTenantRelease_keeps {b : Bool} {s₀ s : State} (h : Keeps b s₀ s) (a1) (a2) (a3) (a4) :
    KeepsA b s₀ (execTenantRelease a1 a2 a3 a4 s) := by
  unfold execTenantRelease
  repeat' first
    | with_reducible assumption
    | with_reducible refine KeepsA.next ?_
    | with_reducible refine State.xanna_keeps (fun t ht => ?_) ?_ _ _ _
    | with_reducible refine asked_keeps _ _ (fun ok => ?_) ?_
    | with_reducible refine State.bindRequest_keeps ?_ _ _

theorem execHostAccessSettings_keeps {b : Bool} {s₀ s : State} (h : Keeps b s₀ s) (a1) (a2) (a3) :
    KeepsA b s₀ (execHostAccessSettings a1 a2 a3 s) := by
  unfold execHostAccessSettings
  refine KeepsA.next (State.xanna_keeps (fun t ht => ?_) h _ _ _)
  have hl (hok : hostSettingOk t a3 = true) : hostLegal a3 := by
    revert hok
    cases a3 <;> simp [hostSettingOk, hostLegal]
  split
  · exact ht
  · rename_i hok
    have hok' : hostSettingOk t a3 = true := by simpa using hok
    split
    · refine Keeps.of_mk (ht.comps.setSettings (fun k => ?_))
      refine ⟨k.1, k.2, k.3, k.4, k.5, k.6, k.7, k.8, k.9, k.10, k.11, fun x hx => ?_⟩
      rcases List.mem_append.1 hx with hx | hx
      · exact k.held x hx
      · rw [List.mem_singleton.1 hx]; exact hl hok'
    · split
      · exact ht
      · exact State.applyHost_keeps ht _ (fun _ => hl hok')

theorem execModuleIdSettings_keeps {b : Bool} {s₀ s : State} (h : Keeps b s₀ s) (a1) (a2) (a3) :
    KeepsA b s₀ (execModuleIdSettings a1 a2 a3 s) := by
  unfold execModuleIdSettings
  refine KeepsA.next (State.xanna_keeps (fun t ht => ?_) h _ _ _)
  split
  · refine asked_keeps _ _ (fun ok => Keeps.of_mk (ht.comps.setSettings (fun k => ?_))) ht
    exact ⟨k.1, k.2, k.3, k.4, k.5, k.6, of_decide_eq_true ok, k.8, k.9, k.10, k.11, k.12⟩
  · refine asked_keeps _ _ (fun ok => Keeps.of_mk (ht.comps.setSettings (fun k => ?_))) ht
    exact ⟨k.1, k.2, k.3, k.4, k.5, k.6, k.7, by simpa using ok, k.9, k.10, k.11, k.12⟩
  · refine asked_keeps _ _ (fun ok => Keeps.of_mk (ht.comps.setSettings (fun k => ?_))) ht
    exact ⟨k.1, k.2, k.3, k.4, k.5, k.6, k.7, k.8, k.9, k.10, k.11, k.12⟩

theorem execChannelRetireRequest_keeps {b : Bool} {s₀ s : State} (h : Keeps b s₀ s) (a1) (a2) (a3) :
    KeepsA b s₀ (execChannelRetireRequest a1 a2 a3 s) := by
  unfold execChannelRetireRequest
  repeat' first
    | with_reducible assumption
    | with_reducible refine KeepsA.next ?_
    | with_reducible refine State.xanna_keeps (fun t ht => ?_) ?_ _ _ _
    | with_reducible refine asked_keeps _ _ (fun ok => ?_) ?_
    | with_reducible refine State.retireChan_keeps ?_ _

theorem State.channelBack_keeps {b : Bool} {s₀ s : State} (h : Keeps b s₀ s) (a1) :
    Keeps b s₀ (State.channelBack s a1) := by
  unfold State.channelBack
  repeat' first
    | with_reducible assumption
    | with_reducible refine State.modChan_keeps ?_ _ _
    | with_reducible refine State.modTier_keeps ?_ _ _
    | with_reducible refine State.noteHealth_keeps ?_ _ _
    | with_reducible refine Keeps.ite ?_ ?_
    | (fail_if_no_progress with_reducible refine Keeps.of_mk (Keeps.comps ?_))

theorem State.laneBack_keeps {b : Bool} {s₀ s : State} (h : Keeps b s₀ s) (a1) :
    Keeps b s₀ (State.laneBack s a1) := by
  unfold State.laneBack
  repeat' first
    | with_reducible assumption
    | with_reducible refine State.noteHealth_keeps ?_ _ _
    | with_reducible refine State.modChan_keeps ?_ _ _
    | with_reducible refine Keeps.ite ?_ ?_
    | (fail_if_no_progress with_reducible refine Keeps.of_mk (Keeps.comps ?_))

theorem State.unitBack_keeps {b : Bool} {s₀ s : State} (h : Keeps b s₀ s) (a1) :
    Keeps b s₀ (State.unitBack s a1) := by
  unfold State.unitBack
  repeat' first
    | with_reducible assumption
    | with_reducible refine State.channelBack_keeps ?_ _
    | with_reducible refine State.laneBack_keeps ?_ _
    | with_reducible refine State.modPort_keeps ?_ _ _
    | with_reducible refine State.noteHealth_keeps ?_ _ _
    | with_reducible refine State.modCoreDom_keeps ?_ _ _
    | with_reducible refine State.modCluster_keeps ?_ _ _
    | with_reducible refine Keeps.ite ?_ ?_
    | (fail_if_no_progress with_reducible refine Keeps.of_mk (Keeps.comps ?_))
    | dsimp only
    | split

theorem State.unitFails_keeps {b : Bool} {s₀ s : State} (h : Keeps b s₀ s) (a1) :
    Keeps b s₀ (State.unitFails s a1) := by
  unfold State.unitFails
  repeat' first
    | with_reducible assumption
    | with_reducible refine State.retireChan_keeps ?_ _
    | with_reducible refine State.laneFault_keeps ?_ _ _
    | with_reducible refine State.modPort_keeps ?_ _ _
    | with_reducible refine State.raise__keeps ?_ _ _ _
    | with_reducible refine wlGone_keeps ?_ _
    | with_reducible refine State.retirePort_keeps ?_ _
    | with_reducible refine State.faultLink_keeps ?_ _
    | with_reducible refine State.modLink_keeps ?_ _ _
    | with_reducible refine State.retirePkg_keeps ?_ _
    | with_reducible refine State.retireCore_keeps ?_ _
    | with_reducible refine State.retireCluster_keeps ?_ _
    | with_reducible refine Keeps.ite ?_ ?_
    | (fail_if_no_progress with_reducible refine Keeps.of_mk (Keeps.comps ?_))
    | dsimp only
    | split

theorem execReturnToService_keeps {b : Bool} {s₀ s : State} (h : Keeps b s₀ s) (a1) (a2) (a3) (a4) :
    KeepsA b s₀ (execReturnToService a1 a2 a3 a4 s) := by
  unfold execReturnToService
  repeat' first
    | with_reducible assumption
    | with_reducible refine KeepsA.next ?_
    | with_reducible refine State.xanna_keeps (fun t ht => ?_) ?_ _ _ _
    | with_reducible refine asked_keeps _ _ (fun ok => ?_) ?_
    | with_reducible refine State.unitFails_keeps ?_ _
    | with_reducible refine State.unitBack_keeps ?_ _
    | with_reducible refine KeepsA.ite ?_ ?_
    | with_reducible refine Keeps.ite ?_ ?_

theorem execSpdmRelay_keeps {b : Bool} {s₀ s : State} (h : Keeps b s₀ s) (a1) (a2) (a3) (a4) :
    KeepsA b s₀ (execSpdmRelay a1 a2 a3 a4 s) := by
  unfold execSpdmRelay
  repeat' first
    | with_reducible assumption
    | with_reducible refine KeepsA.next ?_
    | with_reducible refine State.xanna_keeps (fun t ht => ?_) ?_ _ _ _

theorem execInstallRoot_keeps {b : Bool} {s₀ s : State} (h : Keeps b s₀ s) (a1) (a2) (a3) :
    KeepsA b s₀ (execInstallRoot a1 a2 a3 s) := by
  unfold execInstallRoot
  repeat' first
    | with_reducible assumption
    | with_reducible refine KeepsA.next ?_
    | with_reducible refine State.emit_keeps ?_ _
    | with_reducible refine KeepsA.ite ?_ ?_
    | with_reducible refine Keeps.ite ?_ ?_
    | (fail_if_no_progress with_reducible refine Keeps.of_mk (Keeps.comps ?_))
    | dsimp only
    | split

end Sys2Proof.Machine
end

