-- ==== Sys2Proof/WellFormed.lean ====
section
/-! DEFINITION. Which operands a command can carry: every number names a unit that the module has. A command
that is not well-formed names no operation or event of the manual; the meanings are total all the same. -/

namespace Sys2Proof

/-- A requester is the host or one of the 16 hub cores (Table SEC-1, R355). -/
def Requester.wf : Requester → Bool
  | .host => true
  | .hub c => decide (c < 16)

def SramErr.wf : SramErr → Bool
  | .doubleCore c => decide (c < 384)
  | _ => true

/-- Aligned 4-byte or 8-byte accesses within the table of 69 entries at 0x0002_0000 or the pending bits at
0x0002_1000 (R450). -/
def msixRange (off size : Nat) : Bool :=
  (size == 4 || size == 8) && off % size == 0 &&
    ((decide (0x20000 ≤ off) && decide (off + size ≤ 0x20000 + 69 * 16)) ||
      (decide (0x21000 ≤ off) && decide (off + size ≤ 0x21000 + 16)))

def MsixAccess.wf : MsixAccess → Bool
  | .read off size => msixRange off size
  | .write off size _ => msixRange off size

/-- Four modules, each with a rate of R315 or untrained. -/
def OpenDie.wf (d : OpenDie) : Bool :=
  d.rates.length == 4 && d.rates.all (fun r => r == 0 || r == 16 || r == 24 || r == 32)

/-- An SVN is 0 to 63 (R426). -/
def FwImage.wf (i : FwImage) : Bool := decide (i.svn < 64)

def TestFail.wf : TestFail → Bool
  | .core c => decide (c < 384)
  | .cluster c => decide (c < 48)
  | .chanLanes c _ => decide (c < 256)
  | .chanTest c => decide (c < 256)
  | .link l => decide (l < 30)
  | .package p => decide (p < 16)
  | .die d => decide (d < 13)
  | .stack s => decide (s < 8)
  | .hub => true

def Unit40.wf : Unit40 → Bool
  | .channel c => decide (c < 256)
  | .lane c => decide (c < 256)
  | .wavelength p w => decide (p < 16) && decide (w < 16)
  | .port p => decide (p < 16)
  | .link l => decide (l < 30)
  | .package p => decide (p < 16)
  | .core c => decide (c < 384)
  | .cluster c => decide (c < 48)

def HostSetting.wf : HostSetting → Bool
  | .access p m => decide (p < 4) && decide (m < 3)
  | .window w p => decide (w < 8) && decide (p < 4)
  | .holdoff _ => true

def ModuleSetting.wf : ModuleSetting → Bool
  | .moduleId i => decide (i < 131072)
  | .timeSource t => decide (t < 16)
  | .openOwner p => decide (p < 4)

/-- Well-formed commands, row by row. -/
def Instr.wf : Instr → Bool
  | .registerWrite who page reg _ _ => who.wf && decide (page < 612) && decide (reg < 512)
  | .blkIrqEnWrite who page _ _ => who.wf && decide (page < 612)
  | .blkIrqStatClear who page _ _ => who.wf && decide (page < 612)
  | .msixTableAccess acc => acc.wf
  | .bar0MissizedAccess _ _ _ => true
  | .qgSeedWrite who page _ => who.wf && decide (page < 612)
  | .qgKeyClear who page _ => who.wf && decide (page < 612)
  | .guardConfigWrite core off data => decide (core < 16) && decide (off < 131072) && decide (0 < data.length)
  | .stepBegin ring _ => decide (ring < 64)
  | .guardHistoryPush part => decide (part < 4)
  | .tileAudit core => decide (core < 384)
  | .matmul ring => decide (ring < 64)
  | .fusedCommand ring => decide (ring < 64)
  | .commandAdmission _ => true
  | .tileEmit _ => true
  | .tileSteal src dst => decide (src < 1536) && decide (dst < 1536)
  | .rampUpEnd eng => decide (eng < 1536)
  | .sweepEnd eng quad => decide (eng < 1536) && decide (quad < 4)
  | .rampDownEnd eng => decide (eng < 1536)
  | .blockDrainEnd eng quad => decide (eng < 1536) && decide (quad < 4)
  | .blockConversionEnd eng quad => decide (eng < 1536) && decide (quad < 4)
  | .epilogueBlock _ eng => decide (eng < 1536)
  | .quantBlock _ eng => decide (eng < 1536)
  | .storeBlock _ => true
  | .bndMcastWrite who page reg _ => who.wf && decide (page < 612) && decide (reg < 512)
  | .run ring => decide (ring < 64)
  | .runPersist ring => decide (ring < 64)
  | .rearm ring => decide (ring < 64)
  | .rearmApply _ => true
  | .release ring => decide (ring < 64)
  | .persistentStreamRelease _ => true
  | .hodRequestIssue _ _ => true
  | .hodReadLanding _ sram => sram.wf
  | .hodWriteAck _ => true
  | .hodCompatWrite who page _ => who.wf && decide (page < 612)
  | .sentinelExpiry cluster _ _ => decide (cluster < 48)
  | .contextSwitch core => decide (core < 384)
  | .contextSwitchEnd core => decide (core < 384)
  | .semInit ring => decide (ring < 64)
  | .semAcquire ring => decide (ring < 64)
  | .semTry ring => decide (ring < 64)
  | .semRelease ring => decide (ring < 64)
  | .semClearPoison ring => decide (ring < 64)
  | .ctrInit ring => decide (ring < 64)
  | .ctrClaim ring => decide (ring < 64)
  | .ctrUnclaim ring => decide (ring < 64)
  | .ctrPost ring => decide (ring < 64)
  | .ctrTake ring => decide (ring < 64)
  | .lintel ring => decide (ring < 64)
  | .retire ring => decide (ring < 64)
  | .lintelComplete part _ => decide (part < 4)
  | .lintelTimeout part _ => decide (part < 4)
  | .pointingPeriodExpiry cluster _ => decide (cluster < 48)
  | .pointingBarrier cluster _ => decide (cluster < 48)
  | .hbmWideRead _ _ => true
  | .hbmWideWrite _ => true
  | .hbmNarrowRead _ _ => true
  | .hbmNarrowWrite _ _ => true
  | .addWrite _ _ => true
  | .rowRemapEnd chan bank row _ => decide (chan < 256) && decide (bank < 64) && decide (row < 32768)
  | .scrubRead chan _ _ => decide (chan < 256)
  | .remapFlashCopy chan => decide (chan < 256)
  | .channelMoveEnd chan => decide (chan < 256)
  | .hbmThermalSample stack _ _ => decide (stack < 8)
  | .pacingWindow chan _ => decide (chan < 256)
  | .add ring => decide (ring < 64)
  | .mul ring => decide (ring < 64)
  | .fma ring => decide (ring < 64)
  | .affine ring => decide (ring < 64)
  | .div ring => decide (ring < 64)
  | .max ring => decide (ring < 64)
  | .min ring => decide (ring < 64)
  | .rsqrt ring => decide (ring < 64)
  | .exp ring => decide (ring < 64)
  | .gelu ring => decide (ring < 64)
  | .silu ring => decide (ring < 64)
  | .rmsnorm ring => decide (ring < 64)
  | .layernorm ring => decide (ring < 64)
  | .softmax ring => decide (ring < 64)
  | .quant ring => decide (ring < 64)
  | .dequant ring => decide (ring < 64)
  | .adamw ring => decide (ring < 64)
  | .lion ring => decide (ring < 64)
  | .sgdm ring => decide (ring < 64)
  | .plumb ring => decide (ring < 64)
  | .fence ring => decide (ring < 64)
  | .nmuSlotGrant chan _ => decide (chan < 256)
  | .nmuSwitchInEnd chan _ _ _ => decide (chan < 256)
  | .nmuSlotEnd chan _ => decide (chan < 256)
  | .nmuSwitchOutEnd chan _ => decide (chan < 256)
  | .nmuGrantTimeout _ _ => true
  | .nmuFenceComplete _ => true
  | .granuleCommit chan => decide (chan < 256)
  | .mode ring => decide (ring < 64)
  | .input ring => decide (ring < 64)
  | .trnLedgerCtlWrite who page _ => who.wf && decide (page < 612)
  | .fetch ring => decide (ring < 64)
  | .flush ring => decide (ring < 64)
  | .evict ring => decide (ring < 64)
  | .drop ring => decide (ring < 64)
  | .alloc ring => decide (ring < 64)
  | .bind ring => decide (ring < 64)
  | .slabFetch part => decide (part < 4)
  | .slabReady part _ rj => decide (part < 4) && rj.all (fun r => decide (r.1 < 16) && decide (r.2.2 < 8))
  | .readyTimeout _ _ => true
  | .writebackDone part _ => decide (part < 4)
  | .flitReceive port wl _ => decide (port < 16) && decide (wl < 16)
  | .wavelengthLockLoss port wl => decide (port < 16) && decide (wl < 16)
  | .departedNotice port => decide (port < 16)
  | .peerLockLoss port _ => decide (port < 16)
  | .courseEnable who course _ => who.wf && decide (course < 8)
  | .courseDisable who course _ _ => who.wf && decide (course < 8)
  | .walkToken course _ => decide (course < 8)
  | .walkTimeout course _ => decide (course < 8)
  | .reduceScatter ring => decide (ring < 64)
  | .allGather ring => decide (ring < 64)
  | .allReduce ring => decide (ring < 64)
  | .broadcast ring => decide (ring < 64)
  | .permute ring => decide (ring < 64)
  | .reshard ring => decide (ring < 64)
  | .collTimeout _ _ => true
  | .abandon course _ => decide (course < 8)
  | .copied course shard => decide (course < 8) && decide (shard < 16384)
  | .flip course shard owner epoch => decide (course < 8) && decide (shard < 16384) && decide (owner < 131072) && decide (epoch < 65536)
  | .narShardWrite who page _ _ => who.wf && decide (page < 612)
  | .timingFlit course _ _ => decide (course < 8)
  | .timeLost _ => true
  | .linkFrameReceive link _ _ => decide (link < 30)
  | .linkLockLoss link => decide (link < 30)
  | .openDieMessage _ => true
  | .openResponseTimeout _ _ => true
  | .openPowerWindow _ => true
  | .windowRead win _ _ _ => decide (win < 8)
  | .windowWrite win _ _ => decide (win < 8)
  | .windowAccessTimeout _ _ => true
  | .flr => true
  | .pmStateChange _ => true
  | .busMasterEnableChange _ => true
  | .pcieLinkDown _ _ => true
  | .pcieLinkUp _ speed widthLog2 => decide (speed < 7) && decide (widthLog2 < 5)
  | .holdoffExpiry _ => true
  | .ringEnable who ring _ => who.wf && decide (ring < 64)
  | .ringClearEnd ring => decide (ring < 64)
  | .ringDisable who ring _ => who.wf && decide (ring < 64)
  | .ringDrainEnd ring => decide (ring < 64)
  | .ctxReset who ring => who.wf && decide (ring < 64)
  | .doorbell who ring _ => who.wf && decide (ring < 64)
  | .commandCompletion _ => true
  | .getVersion resp => decide (resp < 5)
  | .getCapabilities resp => decide (resp < 5)
  | .negotiateAlgorithms resp _ => decide (resp < 5)
  | .getDigests resp => decide (resp < 5)
  | .getCertificate resp slot => decide (resp < 5) && decide (slot < 256)
  | .challenge resp slot _ => decide (resp < 5) && decide (slot < 256)
  | .getMeasurements resp _ _ => decide (resp < 5)
  | .keyExchange resp _ => decide (resp < 5)
  | .finish resp _ _ => decide (resp < 5)
  | .endSession resp _ => decide (resp < 5)
  | .doeDiscovery inst _ => decide (inst < 5)
  | .keyPut resp _ _ => decide (resp < 5)
  | .keyClear resp _ _ => decide (resp < 5)
  | .keyOpen ring => decide (ring < 64)
  | .keyStatus ring => decide (ring < 64)
  | .keyCmdClear ring => decide (ring < 64)
  | .steerStart who part _ => who.wf && decide (part < 4)
  | .steerStop who part _ => who.wf && decide (part < 4)
  | .steerTrap core _ => decide (core < 16)
  | .steerEcall core => decide (core < 16)
  | .secSealWrite who part _ => who.wf && decide (part < 4)
  | .skimEnd part _ _ => decide (part < 4)
  | .overwriteEnd part _ => decide (part < 4)
  | .xannaConnect _ _ _ => true
  | .xannaDisconnect conn => decide (conn < 4)
  | .xannaRead conn page reg => decide (conn < 4) && decide (page < 613) && decide (reg < 512)
  | .subscribe conn _ => decide (conn < 4)
  | .partitionCount conn _ _ => decide (conn < 4)
  | .tierCacheShare conn _ _ => decide (conn < 4)
  | .fencedPower conn _ _ _ => decide (conn < 4)
  | .powerCaps conn _ _ _ => decide (conn < 4)
  | .firmwareImage conn _ img => decide (conn < 4) && img.wf
  | .moduleResetRequest conn _ => decide (conn < 4)
  | .tenantBind conn _ part _ _ _ => decide (conn < 4) && decide (part < 4)
  | .tenantRelease conn _ part _ => decide (conn < 4) && decide (part < 4)
  | .hostAccessSettings conn _ set => decide (conn < 4) && set.wf
  | .moduleIdSettings conn _ set => decide (conn < 4) && set.wf
  | .channelRetireRequest conn _ chan => decide (conn < 4) && decide (chan < 256)
  | .returnToService conn _ unit _ => decide (conn < 4) && unit.wf
  | .spdmRelay conn _ part len => decide (conn < 4) && (decide (part < 4) || part == 255) && decide (len < 16777217)
  | .installRoot conn _ _ => decide (conn < 4)
  | .powerLoopPeriod _ _ _ _ _ _ _ => true
  | .fastLimitWindow die _ => decide (die < 13)
  | .dieThermalSample die _ _ => decide (die < 13)
  | .coreSleep core _ _ => decide (core < 384)
  | .clusterSleep cluster _ _ => decide (cluster < 48)
  | .nmuGroupSleep group _ _ => decide (group < 32)
  | .coreWakeStart die _ => decide (die < 4)
  | .domainWakeEnd domain => decide (domain < 468)
  | .diePllLockLoss die => decide (die < 13)
  | .powerStageFault die => decide (die < 13)
  | .heartbeat _ => true
  | .heartbeatTimeout _ => true
  | .watchdogExpiry _ => true
  | .snap ring => decide (ring < 64)
  | .snapCopy part _ => decide (part < 4)
  | .rasLogCursorWrite who part _ => who.wf && decide (part < 4)
  | .powerInputInRange => true
  | .powerInputOutOfRange _ => true
  | .bootRomPhase => true
  | .bringUpPhase _ failedDies => failedDies.all TestFail.wf
  | .scaffoldLinksPhase _ fails die => fails.all TestFail.wf && die.wf
  | .selfTestPhase _ fails => fails.all TestFail.wf
  | .entryToOperational _ => true
  | .partitionReset who part _ => who.wf && decide (part < 4)
  | .partitionResetEnd part _ fails => decide (part < 4) && fails.all TestFail.wf
  | .coolantSample _ _ _ => true
  | .coolantTrip _ => true
  | .portLinkTraining port _ peerId peerPort => decide (port < 16) && decide (peerId < 131072) && decide (peerPort < 16)
  | .granuleMoved chan => decide (chan < 256)
  | .timingFlitSend _ => true
  | .registerRead who page reg => who.wf && decide (page < 612) && decide (reg < 512)

end Sys2Proof
end

