-- ==== Sys2Proof/Laws/PerInstr.lean ====
section
/-! SUPPORT. One lemma for each constructor of Instr: the opcode table gives the row no bits, so no word of any length
spells the command. -/

namespace Sys2Proof.Laws

/-- No word spells the command: the opcode table gives its row no bits. -/
def F.Statement (i : Instr) : Prop := ∀ nbits w : Nat, decodeTableWord nbits w ≠ some i

/-- The table's decoder answers none whatever the word. -/
theorem F.of_none (i : Instr) : F.Statement i := by
  intro nbits w h
  cases h

theorem F.registerWrite x0 x1 x2 x3 x4 : F.Statement (.registerWrite x0 x1 x2 x3 x4) := F.of_none _
theorem F.blkIrqEnWrite x0 x1 x2 x3 : F.Statement (.blkIrqEnWrite x0 x1 x2 x3) := F.of_none _
theorem F.blkIrqStatClear x0 x1 x2 x3 : F.Statement (.blkIrqStatClear x0 x1 x2 x3) := F.of_none _
theorem F.msixTableAccess x0 : F.Statement (.msixTableAccess x0) := F.of_none _
theorem F.bar0MissizedAccess x0 x1 x2 : F.Statement (.bar0MissizedAccess x0 x1 x2) := F.of_none _
theorem F.qgSeedWrite x0 x1 x2 : F.Statement (.qgSeedWrite x0 x1 x2) := F.of_none _
theorem F.qgKeyClear x0 x1 x2 : F.Statement (.qgKeyClear x0 x1 x2) := F.of_none _
theorem F.guardConfigWrite x0 x1 x2 : F.Statement (.guardConfigWrite x0 x1 x2) := F.of_none _
theorem F.stepBegin x0 x1 : F.Statement (.stepBegin x0 x1) := F.of_none _
theorem F.guardHistoryPush x0 : F.Statement (.guardHistoryPush x0) := F.of_none _
theorem F.tileAudit x0 : F.Statement (.tileAudit x0) := F.of_none _
theorem F.matmul x0 : F.Statement (.matmul x0) := F.of_none _
theorem F.fusedCommand x0 : F.Statement (.fusedCommand x0) := F.of_none _
theorem F.commandAdmission x0 : F.Statement (.commandAdmission x0) := F.of_none _
theorem F.tileEmit x0 : F.Statement (.tileEmit x0) := F.of_none _
theorem F.tileSteal x0 x1 : F.Statement (.tileSteal x0 x1) := F.of_none _
theorem F.rampUpEnd x0 : F.Statement (.rampUpEnd x0) := F.of_none _
theorem F.sweepEnd x0 x1 : F.Statement (.sweepEnd x0 x1) := F.of_none _
theorem F.rampDownEnd x0 : F.Statement (.rampDownEnd x0) := F.of_none _
theorem F.blockDrainEnd x0 x1 : F.Statement (.blockDrainEnd x0 x1) := F.of_none _
theorem F.blockConversionEnd x0 x1 : F.Statement (.blockConversionEnd x0 x1) := F.of_none _
theorem F.epilogueBlock x0 x1 : F.Statement (.epilogueBlock x0 x1) := F.of_none _
theorem F.quantBlock x0 x1 : F.Statement (.quantBlock x0 x1) := F.of_none _
theorem F.storeBlock x0 : F.Statement (.storeBlock x0) := F.of_none _
theorem F.bndMcastWrite x0 x1 x2 x3 : F.Statement (.bndMcastWrite x0 x1 x2 x3) := F.of_none _
theorem F.run x0 : F.Statement (.run x0) := F.of_none _
theorem F.runPersist x0 : F.Statement (.runPersist x0) := F.of_none _
theorem F.rearm x0 : F.Statement (.rearm x0) := F.of_none _
theorem F.rearmApply x0 : F.Statement (.rearmApply x0) := F.of_none _
theorem F.release x0 : F.Statement (.release x0) := F.of_none _
theorem F.persistentStreamRelease x0 : F.Statement (.persistentStreamRelease x0) := F.of_none _
theorem F.hodRequestIssue x0 x1 : F.Statement (.hodRequestIssue x0 x1) := F.of_none _
theorem F.hodReadLanding x0 x1 : F.Statement (.hodReadLanding x0 x1) := F.of_none _
theorem F.hodWriteAck x0 : F.Statement (.hodWriteAck x0) := F.of_none _
theorem F.hodCompatWrite x0 x1 x2 : F.Statement (.hodCompatWrite x0 x1 x2) := F.of_none _
theorem F.sentinelExpiry x0 x1 x2 : F.Statement (.sentinelExpiry x0 x1 x2) := F.of_none _
theorem F.contextSwitch x0 : F.Statement (.contextSwitch x0) := F.of_none _
theorem F.contextSwitchEnd x0 : F.Statement (.contextSwitchEnd x0) := F.of_none _
theorem F.semInit x0 : F.Statement (.semInit x0) := F.of_none _
theorem F.semAcquire x0 : F.Statement (.semAcquire x0) := F.of_none _
theorem F.semTry x0 : F.Statement (.semTry x0) := F.of_none _
theorem F.semRelease x0 : F.Statement (.semRelease x0) := F.of_none _
theorem F.semClearPoison x0 : F.Statement (.semClearPoison x0) := F.of_none _
theorem F.ctrInit x0 : F.Statement (.ctrInit x0) := F.of_none _
theorem F.ctrClaim x0 : F.Statement (.ctrClaim x0) := F.of_none _
theorem F.ctrUnclaim x0 : F.Statement (.ctrUnclaim x0) := F.of_none _
theorem F.ctrPost x0 : F.Statement (.ctrPost x0) := F.of_none _
theorem F.ctrTake x0 : F.Statement (.ctrTake x0) := F.of_none _
theorem F.lintel x0 : F.Statement (.lintel x0) := F.of_none _
theorem F.retire x0 : F.Statement (.retire x0) := F.of_none _
theorem F.lintelComplete x0 x1 : F.Statement (.lintelComplete x0 x1) := F.of_none _
theorem F.lintelTimeout x0 x1 : F.Statement (.lintelTimeout x0 x1) := F.of_none _
theorem F.pointingPeriodExpiry x0 x1 : F.Statement (.pointingPeriodExpiry x0 x1) := F.of_none _
theorem F.pointingBarrier x0 x1 : F.Statement (.pointingBarrier x0 x1) := F.of_none _
theorem F.hbmWideRead x0 x1 : F.Statement (.hbmWideRead x0 x1) := F.of_none _
theorem F.hbmWideWrite x0 : F.Statement (.hbmWideWrite x0) := F.of_none _
theorem F.hbmNarrowRead x0 x1 : F.Statement (.hbmNarrowRead x0 x1) := F.of_none _
theorem F.hbmNarrowWrite x0 x1 : F.Statement (.hbmNarrowWrite x0 x1) := F.of_none _
theorem F.addWrite x0 x1 : F.Statement (.addWrite x0 x1) := F.of_none _
theorem F.rowRemapEnd x0 x1 x2 x3 : F.Statement (.rowRemapEnd x0 x1 x2 x3) := F.of_none _
theorem F.scrubRead x0 x1 x2 : F.Statement (.scrubRead x0 x1 x2) := F.of_none _
theorem F.remapFlashCopy x0 : F.Statement (.remapFlashCopy x0) := F.of_none _
theorem F.channelMoveEnd x0 : F.Statement (.channelMoveEnd x0) := F.of_none _
theorem F.hbmThermalSample x0 x1 x2 : F.Statement (.hbmThermalSample x0 x1 x2) := F.of_none _
theorem F.pacingWindow x0 x1 : F.Statement (.pacingWindow x0 x1) := F.of_none _
theorem F.add x0 : F.Statement (.add x0) := F.of_none _
theorem F.mul x0 : F.Statement (.mul x0) := F.of_none _
theorem F.fma x0 : F.Statement (.fma x0) := F.of_none _
theorem F.affine x0 : F.Statement (.affine x0) := F.of_none _
theorem F.div x0 : F.Statement (.div x0) := F.of_none _
theorem F.max x0 : F.Statement (.max x0) := F.of_none _
theorem F.min x0 : F.Statement (.min x0) := F.of_none _
theorem F.rsqrt x0 : F.Statement (.rsqrt x0) := F.of_none _
theorem F.exp x0 : F.Statement (.exp x0) := F.of_none _
theorem F.gelu x0 : F.Statement (.gelu x0) := F.of_none _
theorem F.silu x0 : F.Statement (.silu x0) := F.of_none _
theorem F.rmsnorm x0 : F.Statement (.rmsnorm x0) := F.of_none _
theorem F.layernorm x0 : F.Statement (.layernorm x0) := F.of_none _
theorem F.softmax x0 : F.Statement (.softmax x0) := F.of_none _
theorem F.quant x0 : F.Statement (.quant x0) := F.of_none _
theorem F.dequant x0 : F.Statement (.dequant x0) := F.of_none _
theorem F.adamw x0 : F.Statement (.adamw x0) := F.of_none _
theorem F.lion x0 : F.Statement (.lion x0) := F.of_none _
theorem F.sgdm x0 : F.Statement (.sgdm x0) := F.of_none _
theorem F.plumb x0 : F.Statement (.plumb x0) := F.of_none _
theorem F.fence x0 : F.Statement (.fence x0) := F.of_none _
theorem F.nmuSlotGrant x0 x1 : F.Statement (.nmuSlotGrant x0 x1) := F.of_none _
theorem F.nmuSwitchInEnd x0 x1 x2 x3 : F.Statement (.nmuSwitchInEnd x0 x1 x2 x3) := F.of_none _
theorem F.nmuSlotEnd x0 x1 : F.Statement (.nmuSlotEnd x0 x1) := F.of_none _
theorem F.nmuSwitchOutEnd x0 x1 : F.Statement (.nmuSwitchOutEnd x0 x1) := F.of_none _
theorem F.nmuGrantTimeout x0 x1 : F.Statement (.nmuGrantTimeout x0 x1) := F.of_none _
theorem F.nmuFenceComplete x0 : F.Statement (.nmuFenceComplete x0) := F.of_none _
theorem F.granuleCommit x0 : F.Statement (.granuleCommit x0) := F.of_none _
theorem F.mode x0 : F.Statement (.mode x0) := F.of_none _
theorem F.input x0 : F.Statement (.input x0) := F.of_none _
theorem F.trnLedgerCtlWrite x0 x1 x2 : F.Statement (.trnLedgerCtlWrite x0 x1 x2) := F.of_none _
theorem F.fetch x0 : F.Statement (.fetch x0) := F.of_none _
theorem F.flush x0 : F.Statement (.flush x0) := F.of_none _
theorem F.evict x0 : F.Statement (.evict x0) := F.of_none _
theorem F.drop x0 : F.Statement (.drop x0) := F.of_none _
theorem F.alloc x0 : F.Statement (.alloc x0) := F.of_none _
theorem F.bind x0 : F.Statement (.bind x0) := F.of_none _
theorem F.slabFetch x0 : F.Statement (.slabFetch x0) := F.of_none _
theorem F.slabReady x0 x1 x2 : F.Statement (.slabReady x0 x1 x2) := F.of_none _
theorem F.readyTimeout x0 x1 : F.Statement (.readyTimeout x0 x1) := F.of_none _
theorem F.writebackDone x0 x1 : F.Statement (.writebackDone x0 x1) := F.of_none _
theorem F.flitReceive x0 x1 x2 : F.Statement (.flitReceive x0 x1 x2) := F.of_none _
theorem F.wavelengthLockLoss x0 x1 : F.Statement (.wavelengthLockLoss x0 x1) := F.of_none _
theorem F.departedNotice x0 : F.Statement (.departedNotice x0) := F.of_none _
theorem F.peerLockLoss x0 x1 : F.Statement (.peerLockLoss x0 x1) := F.of_none _
theorem F.courseEnable x0 x1 x2 : F.Statement (.courseEnable x0 x1 x2) := F.of_none _
theorem F.courseDisable x0 x1 x2 x3 : F.Statement (.courseDisable x0 x1 x2 x3) := F.of_none _
theorem F.walkToken x0 x1 : F.Statement (.walkToken x0 x1) := F.of_none _
theorem F.walkTimeout x0 x1 : F.Statement (.walkTimeout x0 x1) := F.of_none _
theorem F.reduceScatter x0 : F.Statement (.reduceScatter x0) := F.of_none _
theorem F.allGather x0 : F.Statement (.allGather x0) := F.of_none _
theorem F.allReduce x0 : F.Statement (.allReduce x0) := F.of_none _
theorem F.broadcast x0 : F.Statement (.broadcast x0) := F.of_none _
theorem F.permute x0 : F.Statement (.permute x0) := F.of_none _
theorem F.reshard x0 : F.Statement (.reshard x0) := F.of_none _
theorem F.collTimeout x0 x1 : F.Statement (.collTimeout x0 x1) := F.of_none _
theorem F.abandon x0 x1 : F.Statement (.abandon x0 x1) := F.of_none _
theorem F.copied x0 x1 : F.Statement (.copied x0 x1) := F.of_none _
theorem F.flip x0 x1 x2 x3 : F.Statement (.flip x0 x1 x2 x3) := F.of_none _
theorem F.narShardWrite x0 x1 x2 x3 : F.Statement (.narShardWrite x0 x1 x2 x3) := F.of_none _
theorem F.timingFlit x0 x1 x2 : F.Statement (.timingFlit x0 x1 x2) := F.of_none _
theorem F.timeLost x0 : F.Statement (.timeLost x0) := F.of_none _
theorem F.linkFrameReceive x0 x1 x2 : F.Statement (.linkFrameReceive x0 x1 x2) := F.of_none _
theorem F.linkLockLoss x0 : F.Statement (.linkLockLoss x0) := F.of_none _
theorem F.openDieMessage x0 : F.Statement (.openDieMessage x0) := F.of_none _
theorem F.openResponseTimeout x0 x1 : F.Statement (.openResponseTimeout x0 x1) := F.of_none _
theorem F.openPowerWindow x0 : F.Statement (.openPowerWindow x0) := F.of_none _
theorem F.windowRead x0 x1 x2 x3 : F.Statement (.windowRead x0 x1 x2 x3) := F.of_none _
theorem F.windowWrite x0 x1 x2 : F.Statement (.windowWrite x0 x1 x2) := F.of_none _
theorem F.windowAccessTimeout x0 x1 : F.Statement (.windowAccessTimeout x0 x1) := F.of_none _
theorem F.flr : F.Statement (.flr) := F.of_none _
theorem F.pmStateChange x0 : F.Statement (.pmStateChange x0) := F.of_none _
theorem F.busMasterEnableChange x0 : F.Statement (.busMasterEnableChange x0) := F.of_none _
theorem F.pcieLinkDown x0 x1 : F.Statement (.pcieLinkDown x0 x1) := F.of_none _
theorem F.pcieLinkUp x0 x1 x2 : F.Statement (.pcieLinkUp x0 x1 x2) := F.of_none _
theorem F.holdoffExpiry x0 : F.Statement (.holdoffExpiry x0) := F.of_none _
theorem F.ringEnable x0 x1 x2 : F.Statement (.ringEnable x0 x1 x2) := F.of_none _
theorem F.ringClearEnd x0 : F.Statement (.ringClearEnd x0) := F.of_none _
theorem F.ringDisable x0 x1 x2 : F.Statement (.ringDisable x0 x1 x2) := F.of_none _
theorem F.ringDrainEnd x0 : F.Statement (.ringDrainEnd x0) := F.of_none _
theorem F.ctxReset x0 x1 : F.Statement (.ctxReset x0 x1) := F.of_none _
theorem F.doorbell x0 x1 x2 : F.Statement (.doorbell x0 x1 x2) := F.of_none _
theorem F.commandCompletion x0 : F.Statement (.commandCompletion x0) := F.of_none _
theorem F.getVersion x0 : F.Statement (.getVersion x0) := F.of_none _
theorem F.getCapabilities x0 : F.Statement (.getCapabilities x0) := F.of_none _
theorem F.negotiateAlgorithms x0 x1 : F.Statement (.negotiateAlgorithms x0 x1) := F.of_none _
theorem F.getDigests x0 : F.Statement (.getDigests x0) := F.of_none _
theorem F.getCertificate x0 x1 : F.Statement (.getCertificate x0 x1) := F.of_none _
theorem F.challenge x0 x1 x2 : F.Statement (.challenge x0 x1 x2) := F.of_none _
theorem F.getMeasurements x0 x1 x2 : F.Statement (.getMeasurements x0 x1 x2) := F.of_none _
theorem F.keyExchange x0 x1 : F.Statement (.keyExchange x0 x1) := F.of_none _
theorem F.finish x0 x1 x2 : F.Statement (.finish x0 x1 x2) := F.of_none _
theorem F.endSession x0 x1 : F.Statement (.endSession x0 x1) := F.of_none _
theorem F.doeDiscovery x0 x1 : F.Statement (.doeDiscovery x0 x1) := F.of_none _
theorem F.keyPut x0 x1 x2 : F.Statement (.keyPut x0 x1 x2) := F.of_none _
theorem F.keyClear x0 x1 x2 : F.Statement (.keyClear x0 x1 x2) := F.of_none _
theorem F.keyOpen x0 : F.Statement (.keyOpen x0) := F.of_none _
theorem F.keyStatus x0 : F.Statement (.keyStatus x0) := F.of_none _
theorem F.keyCmdClear x0 : F.Statement (.keyCmdClear x0) := F.of_none _
theorem F.steerStart x0 x1 x2 : F.Statement (.steerStart x0 x1 x2) := F.of_none _
theorem F.steerStop x0 x1 x2 : F.Statement (.steerStop x0 x1 x2) := F.of_none _
theorem F.steerTrap x0 x1 : F.Statement (.steerTrap x0 x1) := F.of_none _
theorem F.steerEcall x0 : F.Statement (.steerEcall x0) := F.of_none _
theorem F.secSealWrite x0 x1 x2 : F.Statement (.secSealWrite x0 x1 x2) := F.of_none _
theorem F.skimEnd x0 x1 x2 : F.Statement (.skimEnd x0 x1 x2) := F.of_none _
theorem F.overwriteEnd x0 x1 : F.Statement (.overwriteEnd x0 x1) := F.of_none _
theorem F.xannaConnect x0 x1 x2 : F.Statement (.xannaConnect x0 x1 x2) := F.of_none _
theorem F.xannaDisconnect x0 : F.Statement (.xannaDisconnect x0) := F.of_none _
theorem F.xannaRead x0 x1 x2 : F.Statement (.xannaRead x0 x1 x2) := F.of_none _
theorem F.subscribe x0 x1 : F.Statement (.subscribe x0 x1) := F.of_none _
theorem F.partitionCount x0 x1 x2 : F.Statement (.partitionCount x0 x1 x2) := F.of_none _
theorem F.tierCacheShare x0 x1 x2 : F.Statement (.tierCacheShare x0 x1 x2) := F.of_none _
theorem F.fencedPower x0 x1 x2 x3 : F.Statement (.fencedPower x0 x1 x2 x3) := F.of_none _
theorem F.powerCaps x0 x1 x2 x3 : F.Statement (.powerCaps x0 x1 x2 x3) := F.of_none _
theorem F.firmwareImage x0 x1 x2 : F.Statement (.firmwareImage x0 x1 x2) := F.of_none _
theorem F.moduleResetRequest x0 x1 : F.Statement (.moduleResetRequest x0 x1) := F.of_none _
theorem F.tenantBind x0 x1 x2 x3 x4 x5 : F.Statement (.tenantBind x0 x1 x2 x3 x4 x5) := F.of_none _
theorem F.tenantRelease x0 x1 x2 x3 : F.Statement (.tenantRelease x0 x1 x2 x3) := F.of_none _
theorem F.hostAccessSettings x0 x1 x2 : F.Statement (.hostAccessSettings x0 x1 x2) := F.of_none _
theorem F.moduleIdSettings x0 x1 x2 : F.Statement (.moduleIdSettings x0 x1 x2) := F.of_none _
theorem F.channelRetireRequest x0 x1 x2 : F.Statement (.channelRetireRequest x0 x1 x2) := F.of_none _
theorem F.returnToService x0 x1 x2 x3 : F.Statement (.returnToService x0 x1 x2 x3) := F.of_none _
theorem F.spdmRelay x0 x1 x2 x3 : F.Statement (.spdmRelay x0 x1 x2 x3) := F.of_none _
theorem F.installRoot x0 x1 x2 : F.Statement (.installRoot x0 x1 x2) := F.of_none _
theorem F.powerLoopPeriod x0 x1 x2 x3 x4 x5 x6 : F.Statement (.powerLoopPeriod x0 x1 x2 x3 x4 x5 x6) := F.of_none _
theorem F.fastLimitWindow x0 x1 : F.Statement (.fastLimitWindow x0 x1) := F.of_none _
theorem F.dieThermalSample x0 x1 x2 : F.Statement (.dieThermalSample x0 x1 x2) := F.of_none _
theorem F.coreSleep x0 x1 x2 : F.Statement (.coreSleep x0 x1 x2) := F.of_none _
theorem F.clusterSleep x0 x1 x2 : F.Statement (.clusterSleep x0 x1 x2) := F.of_none _
theorem F.nmuGroupSleep x0 x1 x2 : F.Statement (.nmuGroupSleep x0 x1 x2) := F.of_none _
theorem F.coreWakeStart x0 x1 : F.Statement (.coreWakeStart x0 x1) := F.of_none _
theorem F.domainWakeEnd x0 : F.Statement (.domainWakeEnd x0) := F.of_none _
theorem F.diePllLockLoss x0 : F.Statement (.diePllLockLoss x0) := F.of_none _
theorem F.powerStageFault x0 : F.Statement (.powerStageFault x0) := F.of_none _
theorem F.heartbeat x0 : F.Statement (.heartbeat x0) := F.of_none _
theorem F.heartbeatTimeout x0 : F.Statement (.heartbeatTimeout x0) := F.of_none _
theorem F.watchdogExpiry x0 : F.Statement (.watchdogExpiry x0) := F.of_none _
theorem F.snap x0 : F.Statement (.snap x0) := F.of_none _
theorem F.snapCopy x0 x1 : F.Statement (.snapCopy x0 x1) := F.of_none _
theorem F.rasLogCursorWrite x0 x1 x2 : F.Statement (.rasLogCursorWrite x0 x1 x2) := F.of_none _
theorem F.powerInputInRange : F.Statement (.powerInputInRange) := F.of_none _
theorem F.powerInputOutOfRange x0 : F.Statement (.powerInputOutOfRange x0) := F.of_none _
theorem F.bootRomPhase : F.Statement (.bootRomPhase) := F.of_none _
theorem F.bringUpPhase x0 x1 : F.Statement (.bringUpPhase x0 x1) := F.of_none _
theorem F.scaffoldLinksPhase x0 x1 x2 : F.Statement (.scaffoldLinksPhase x0 x1 x2) := F.of_none _
theorem F.selfTestPhase x0 x1 : F.Statement (.selfTestPhase x0 x1) := F.of_none _
theorem F.entryToOperational x0 : F.Statement (.entryToOperational x0) := F.of_none _
theorem F.partitionReset x0 x1 x2 : F.Statement (.partitionReset x0 x1 x2) := F.of_none _
theorem F.partitionResetEnd x0 x1 x2 : F.Statement (.partitionResetEnd x0 x1 x2) := F.of_none _
theorem F.coolantSample x0 x1 x2 : F.Statement (.coolantSample x0 x1 x2) := F.of_none _
theorem F.coolantTrip x0 : F.Statement (.coolantTrip x0) := F.of_none _
theorem F.portLinkTraining x0 x1 x2 x3 : F.Statement (.portLinkTraining x0 x1 x2 x3) := F.of_none _
theorem F.granuleMoved x0 : F.Statement (.granuleMoved x0) := F.of_none _
theorem F.timingFlitSend x0 : F.Statement (.timingFlitSend x0) := F.of_none _
theorem F.registerRead x0 x1 x2 : F.Statement (.registerRead x0 x1 x2) := F.of_none _

end Sys2Proof.Laws
end

