-- ==== Sys2Proof/Laws/State.lean ====
section
/-! SUPPORT. What each update of the state writes and leaves: one lemma for each field and update, so that no later
proof unfolds a record update. -/

namespace Sys2Proof.Machine

variable (s : State)

/-! ### State.setReg -/

@[simp] theorem State.setReg_pending (page reg val : Nat) : (s.setReg page reg val).pending = s.pending := rfl
@[simp] theorem State.setReg_now (page reg val : Nat) : (s.setReg page reg val).now = s.now := rfl
@[simp] theorem State.setReg_settings (page reg val : Nat) : (s.setReg page reg val).settings = s.settings := rfl
@[simp] theorem State.setReg_flash (page reg val : Nat) : (s.setReg page reg val).flash = s.flash := rfl
@[simp] theorem State.setReg_startup (page reg val : Nat) : (s.setReg page reg val).startup = s.startup := rfl
@[simp] theorem State.setReg_mem (page reg val : Nat) : (s.setReg page reg val).mem = s.mem := rfl
@[simp] theorem State.setReg_written (page reg val : Nat) : (s.setReg page reg val).written = s.written := rfl
@[simp] theorem State.setReg_poison (page reg val : Nat) : (s.setReg page reg val).poison = s.poison := rfl
@[simp] theorem State.setReg_rings (page reg val : Nat) : (s.setReg page reg val).rings = s.rings := rfl
@[simp] theorem State.setReg_cmds (page reg val : Nat) : (s.setReg page reg val).cmds = s.cmds := rfl
@[simp] theorem State.setReg_nextCmd (page reg val : Nat) : (s.setReg page reg val).nextCmd = s.nextCmd := rfl
@[simp] theorem State.setReg_reqs (page reg val : Nat) : (s.setReg page reg val).reqs = s.reqs := rfl
@[simp] theorem State.setReg_nextReq (page reg val : Nat) : (s.setReg page reg val).nextReq = s.nextReq := rfl
@[simp] theorem State.setReg_ctxs (page reg val : Nat) : (s.setReg page reg val).ctxs = s.ctxs := rfl
@[simp] theorem State.setReg_cores (page reg val : Nat) : (s.setReg page reg val).cores = s.cores := rfl
@[simp] theorem State.setReg_sems (page reg val : Nat) : (s.setReg page reg val).sems = s.sems := rfl
@[simp] theorem State.setReg_ctrs (page reg val : Nat) : (s.setReg page reg val).ctrs = s.ctrs := rfl
@[simp] theorem State.setReg_lintels (page reg val : Nat) : (s.setReg page reg val).lintels = s.lintels := rfl
@[simp] theorem State.setReg_clusters (page reg val : Nat) : (s.setReg page reg val).clusters = s.clusters := rfl
@[simp] theorem State.setReg_coreDoms (page reg val : Nat) : (s.setReg page reg val).coreDoms = s.coreDoms := rfl
@[simp] theorem State.setReg_persists (page reg val : Nat) : (s.setReg page reg val).persists = s.persists := rfl
@[simp] theorem State.setReg_engines (page reg val : Nat) : (s.setReg page reg val).engines = s.engines := rfl
@[simp] theorem State.setReg_quads (page reg val : Nat) : (s.setReg page reg val).quads = s.quads := rfl
@[simp] theorem State.setReg_hods (page reg val : Nat) : (s.setReg page reg val).hods = s.hods := rfl
@[simp] theorem State.setReg_audits (page reg val : Nat) : (s.setReg page reg val).audits = s.audits := rfl
@[simp] theorem State.setReg_guards (page reg val : Nat) : (s.setReg page reg val).guards = s.guards := rfl
@[simp] theorem State.setReg_chans (page reg val : Nat) : (s.setReg page reg val).chans = s.chans := rfl
@[simp] theorem State.setReg_stks (page reg val : Nat) : (s.setReg page reg val).stks = s.stks := rfl
@[simp] theorem State.setReg_fences (page reg val : Nat) : (s.setReg page reg val).fences = s.fences := rfl
@[simp] theorem State.setReg_tiers (page reg val : Nat) : (s.setReg page reg val).tiers = s.tiers := rfl
@[simp] theorem State.setReg_pkgRej (page reg val : Nat) : (s.setReg page reg val).pkgRej = s.pkgRej := rfl
@[simp] theorem State.setReg_ports (page reg val : Nat) : (s.setReg page reg val).ports = s.ports := rfl
@[simp] theorem State.setReg_courses (page reg val : Nat) : (s.setReg page reg val).courses = s.courses := rfl
@[simp] theorem State.setReg_shards (page reg val : Nat) : (s.setReg page reg val).shards = s.shards := rfl
@[simp] theorem State.setReg_time (page reg val : Nat) : (s.setReg page reg val).time = s.time := rfl
@[simp] theorem State.setReg_links (page reg val : Nat) : (s.setReg page reg val).links = s.links := rfl
@[simp] theorem State.setReg_site (page reg val : Nat) : (s.setReg page reg val).site = s.site := rfl
@[simp] theorem State.setReg_pcie (page reg val : Nat) : (s.setReg page reg val).pcie = s.pcie := rfl
@[simp] theorem State.setReg_secs (page reg val : Nat) : (s.setReg page reg val).secs = s.secs := rfl
@[simp] theorem State.setReg_spdm (page reg val : Nat) : (s.setReg page reg val).spdm = s.spdm := rfl
@[simp] theorem State.setReg_conns (page reg val : Nat) : (s.setReg page reg val).conns = s.conns := rfl
@[simp] theorem State.setReg_dies (page reg val : Nat) : (s.setReg page reg val).dies = s.dies := rfl
@[simp] theorem State.setReg_coolant (page reg val : Nat) : (s.setReg page reg val).coolant = s.coolant := rfl
@[simp] theorem State.setReg_ledgers (page reg val : Nat) : (s.setReg page reg val).ledgers = s.ledgers := rfl
@[simp] theorem State.setReg_log (page reg val : Nat) : (s.setReg page reg val).log = s.log := rfl
@[simp] theorem State.setReg_logNext (page reg val : Nat) : (s.setReg page reg val).logNext = s.logNext := rfl
@[simp] theorem State.setReg_views (page reg val : Nat) : (s.setReg page reg val).views = s.views := rfl
@[simp] theorem State.setReg_snaps (page reg val : Nat) : (s.setReg page reg val).snaps = s.snaps := rfl
@[simp] theorem State.setReg_snapView (page reg val : Nat) : (s.setReg page reg val).snapView = s.snapView := rfl
@[simp] theorem State.setReg_hubGrps (page reg val : Nat) : (s.setReg page reg val).hubGrps = s.hubGrps := rfl
@[simp] theorem State.setReg_draws (page reg val : Nat) : (s.setReg page reg val).draws = s.draws := rfl
@[simp] theorem State.setReg_out (page reg val : Nat) : (s.setReg page reg val).out = s.out := rfl
@[simp] theorem State.setReg_freeIdx (page reg val : Nat) : (s.setReg page reg val).freeIdx = s.freeIdx := rfl

/-! ### State.clearPages -/

@[simp] theorem State.clearPages_regs (p : Nat → Bool) : (s.clearPages p).regs = SMap.dropKeys (fun k => p (k / 512)) s.regs := rfl
@[simp] theorem State.clearPages_pending (p : Nat → Bool) : (s.clearPages p).pending = s.pending := rfl
@[simp] theorem State.clearPages_now (p : Nat → Bool) : (s.clearPages p).now = s.now := rfl
@[simp] theorem State.clearPages_settings (p : Nat → Bool) : (s.clearPages p).settings = s.settings := rfl
@[simp] theorem State.clearPages_flash (p : Nat → Bool) : (s.clearPages p).flash = s.flash := rfl
@[simp] theorem State.clearPages_startup (p : Nat → Bool) : (s.clearPages p).startup = s.startup := rfl
@[simp] theorem State.clearPages_mem (p : Nat → Bool) : (s.clearPages p).mem = s.mem := rfl
@[simp] theorem State.clearPages_written (p : Nat → Bool) : (s.clearPages p).written = s.written := rfl
@[simp] theorem State.clearPages_poison (p : Nat → Bool) : (s.clearPages p).poison = s.poison := rfl
@[simp] theorem State.clearPages_rings (p : Nat → Bool) : (s.clearPages p).rings = s.rings := rfl
@[simp] theorem State.clearPages_cmds (p : Nat → Bool) : (s.clearPages p).cmds = s.cmds := rfl
@[simp] theorem State.clearPages_nextCmd (p : Nat → Bool) : (s.clearPages p).nextCmd = s.nextCmd := rfl
@[simp] theorem State.clearPages_reqs (p : Nat → Bool) : (s.clearPages p).reqs = s.reqs := rfl
@[simp] theorem State.clearPages_nextReq (p : Nat → Bool) : (s.clearPages p).nextReq = s.nextReq := rfl
@[simp] theorem State.clearPages_ctxs (p : Nat → Bool) : (s.clearPages p).ctxs = s.ctxs := rfl
@[simp] theorem State.clearPages_cores (p : Nat → Bool) : (s.clearPages p).cores = s.cores := rfl
@[simp] theorem State.clearPages_sems (p : Nat → Bool) : (s.clearPages p).sems = s.sems := rfl
@[simp] theorem State.clearPages_ctrs (p : Nat → Bool) : (s.clearPages p).ctrs = s.ctrs := rfl
@[simp] theorem State.clearPages_lintels (p : Nat → Bool) : (s.clearPages p).lintels = s.lintels := rfl
@[simp] theorem State.clearPages_clusters (p : Nat → Bool) : (s.clearPages p).clusters = s.clusters := rfl
@[simp] theorem State.clearPages_coreDoms (p : Nat → Bool) : (s.clearPages p).coreDoms = s.coreDoms := rfl
@[simp] theorem State.clearPages_persists (p : Nat → Bool) : (s.clearPages p).persists = s.persists := rfl
@[simp] theorem State.clearPages_engines (p : Nat → Bool) : (s.clearPages p).engines = s.engines := rfl
@[simp] theorem State.clearPages_quads (p : Nat → Bool) : (s.clearPages p).quads = s.quads := rfl
@[simp] theorem State.clearPages_hods (p : Nat → Bool) : (s.clearPages p).hods = s.hods := rfl
@[simp] theorem State.clearPages_audits (p : Nat → Bool) : (s.clearPages p).audits = s.audits := rfl
@[simp] theorem State.clearPages_guards (p : Nat → Bool) : (s.clearPages p).guards = s.guards := rfl
@[simp] theorem State.clearPages_chans (p : Nat → Bool) : (s.clearPages p).chans = s.chans := rfl
@[simp] theorem State.clearPages_stks (p : Nat → Bool) : (s.clearPages p).stks = s.stks := rfl
@[simp] theorem State.clearPages_fences (p : Nat → Bool) : (s.clearPages p).fences = s.fences := rfl
@[simp] theorem State.clearPages_tiers (p : Nat → Bool) : (s.clearPages p).tiers = s.tiers := rfl
@[simp] theorem State.clearPages_pkgRej (p : Nat → Bool) : (s.clearPages p).pkgRej = s.pkgRej := rfl
@[simp] theorem State.clearPages_ports (p : Nat → Bool) : (s.clearPages p).ports = s.ports := rfl
@[simp] theorem State.clearPages_courses (p : Nat → Bool) : (s.clearPages p).courses = s.courses := rfl
@[simp] theorem State.clearPages_shards (p : Nat → Bool) : (s.clearPages p).shards = s.shards := rfl
@[simp] theorem State.clearPages_time (p : Nat → Bool) : (s.clearPages p).time = s.time := rfl
@[simp] theorem State.clearPages_links (p : Nat → Bool) : (s.clearPages p).links = s.links := rfl
@[simp] theorem State.clearPages_site (p : Nat → Bool) : (s.clearPages p).site = s.site := rfl
@[simp] theorem State.clearPages_pcie (p : Nat → Bool) : (s.clearPages p).pcie = s.pcie := rfl
@[simp] theorem State.clearPages_secs (p : Nat → Bool) : (s.clearPages p).secs = s.secs := rfl
@[simp] theorem State.clearPages_spdm (p : Nat → Bool) : (s.clearPages p).spdm = s.spdm := rfl
@[simp] theorem State.clearPages_conns (p : Nat → Bool) : (s.clearPages p).conns = s.conns := rfl
@[simp] theorem State.clearPages_dies (p : Nat → Bool) : (s.clearPages p).dies = s.dies := rfl
@[simp] theorem State.clearPages_coolant (p : Nat → Bool) : (s.clearPages p).coolant = s.coolant := rfl
@[simp] theorem State.clearPages_ledgers (p : Nat → Bool) : (s.clearPages p).ledgers = s.ledgers := rfl
@[simp] theorem State.clearPages_log (p : Nat → Bool) : (s.clearPages p).log = s.log := rfl
@[simp] theorem State.clearPages_logNext (p : Nat → Bool) : (s.clearPages p).logNext = s.logNext := rfl
@[simp] theorem State.clearPages_views (p : Nat → Bool) : (s.clearPages p).views = s.views := rfl
@[simp] theorem State.clearPages_snaps (p : Nat → Bool) : (s.clearPages p).snaps = s.snaps := rfl
@[simp] theorem State.clearPages_snapView (p : Nat → Bool) : (s.clearPages p).snapView = s.snapView := rfl
@[simp] theorem State.clearPages_hubGrps (p : Nat → Bool) : (s.clearPages p).hubGrps = s.hubGrps := rfl
@[simp] theorem State.clearPages_draws (p : Nat → Bool) : (s.clearPages p).draws = s.draws := rfl
@[simp] theorem State.clearPages_out (p : Nat → Bool) : (s.clearPages p).out = s.out := rfl
@[simp] theorem State.clearPages_freeIdx (p : Nat → Bool) : (s.clearPages p).freeIdx = s.freeIdx := rfl

/-! ### State.emit -/

@[simp] theorem State.emit_out (o : Out) : (s.emit o).out = s.out ++ [o] := rfl
@[simp] theorem State.emit_pending (o : Out) : (s.emit o).pending = s.pending := rfl
@[simp] theorem State.emit_now (o : Out) : (s.emit o).now = s.now := rfl
@[simp] theorem State.emit_settings (o : Out) : (s.emit o).settings = s.settings := rfl
@[simp] theorem State.emit_flash (o : Out) : (s.emit o).flash = s.flash := rfl
@[simp] theorem State.emit_startup (o : Out) : (s.emit o).startup = s.startup := rfl
@[simp] theorem State.emit_regs (o : Out) : (s.emit o).regs = s.regs := rfl
@[simp] theorem State.emit_mem (o : Out) : (s.emit o).mem = s.mem := rfl
@[simp] theorem State.emit_written (o : Out) : (s.emit o).written = s.written := rfl
@[simp] theorem State.emit_poison (o : Out) : (s.emit o).poison = s.poison := rfl
@[simp] theorem State.emit_rings (o : Out) : (s.emit o).rings = s.rings := rfl
@[simp] theorem State.emit_cmds (o : Out) : (s.emit o).cmds = s.cmds := rfl
@[simp] theorem State.emit_nextCmd (o : Out) : (s.emit o).nextCmd = s.nextCmd := rfl
@[simp] theorem State.emit_reqs (o : Out) : (s.emit o).reqs = s.reqs := rfl
@[simp] theorem State.emit_nextReq (o : Out) : (s.emit o).nextReq = s.nextReq := rfl
@[simp] theorem State.emit_ctxs (o : Out) : (s.emit o).ctxs = s.ctxs := rfl
@[simp] theorem State.emit_cores (o : Out) : (s.emit o).cores = s.cores := rfl
@[simp] theorem State.emit_sems (o : Out) : (s.emit o).sems = s.sems := rfl
@[simp] theorem State.emit_ctrs (o : Out) : (s.emit o).ctrs = s.ctrs := rfl
@[simp] theorem State.emit_lintels (o : Out) : (s.emit o).lintels = s.lintels := rfl
@[simp] theorem State.emit_clusters (o : Out) : (s.emit o).clusters = s.clusters := rfl
@[simp] theorem State.emit_coreDoms (o : Out) : (s.emit o).coreDoms = s.coreDoms := rfl
@[simp] theorem State.emit_persists (o : Out) : (s.emit o).persists = s.persists := rfl
@[simp] theorem State.emit_engines (o : Out) : (s.emit o).engines = s.engines := rfl
@[simp] theorem State.emit_quads (o : Out) : (s.emit o).quads = s.quads := rfl
@[simp] theorem State.emit_hods (o : Out) : (s.emit o).hods = s.hods := rfl
@[simp] theorem State.emit_audits (o : Out) : (s.emit o).audits = s.audits := rfl
@[simp] theorem State.emit_guards (o : Out) : (s.emit o).guards = s.guards := rfl
@[simp] theorem State.emit_chans (o : Out) : (s.emit o).chans = s.chans := rfl
@[simp] theorem State.emit_stks (o : Out) : (s.emit o).stks = s.stks := rfl
@[simp] theorem State.emit_fences (o : Out) : (s.emit o).fences = s.fences := rfl
@[simp] theorem State.emit_tiers (o : Out) : (s.emit o).tiers = s.tiers := rfl
@[simp] theorem State.emit_pkgRej (o : Out) : (s.emit o).pkgRej = s.pkgRej := rfl
@[simp] theorem State.emit_ports (o : Out) : (s.emit o).ports = s.ports := rfl
@[simp] theorem State.emit_courses (o : Out) : (s.emit o).courses = s.courses := rfl
@[simp] theorem State.emit_shards (o : Out) : (s.emit o).shards = s.shards := rfl
@[simp] theorem State.emit_time (o : Out) : (s.emit o).time = s.time := rfl
@[simp] theorem State.emit_links (o : Out) : (s.emit o).links = s.links := rfl
@[simp] theorem State.emit_site (o : Out) : (s.emit o).site = s.site := rfl
@[simp] theorem State.emit_pcie (o : Out) : (s.emit o).pcie = s.pcie := rfl
@[simp] theorem State.emit_secs (o : Out) : (s.emit o).secs = s.secs := rfl
@[simp] theorem State.emit_spdm (o : Out) : (s.emit o).spdm = s.spdm := rfl
@[simp] theorem State.emit_conns (o : Out) : (s.emit o).conns = s.conns := rfl
@[simp] theorem State.emit_dies (o : Out) : (s.emit o).dies = s.dies := rfl
@[simp] theorem State.emit_coolant (o : Out) : (s.emit o).coolant = s.coolant := rfl
@[simp] theorem State.emit_ledgers (o : Out) : (s.emit o).ledgers = s.ledgers := rfl
@[simp] theorem State.emit_log (o : Out) : (s.emit o).log = s.log := rfl
@[simp] theorem State.emit_logNext (o : Out) : (s.emit o).logNext = s.logNext := rfl
@[simp] theorem State.emit_views (o : Out) : (s.emit o).views = s.views := rfl
@[simp] theorem State.emit_snaps (o : Out) : (s.emit o).snaps = s.snaps := rfl
@[simp] theorem State.emit_snapView (o : Out) : (s.emit o).snapView = s.snapView := rfl
@[simp] theorem State.emit_hubGrps (o : Out) : (s.emit o).hubGrps = s.hubGrps := rfl
@[simp] theorem State.emit_draws (o : Out) : (s.emit o).draws = s.draws := rfl
@[simp] theorem State.emit_freeIdx (o : Out) : (s.emit o).freeIdx = s.freeIdx := rfl

/-! ### State.tookFree -/

@[simp] theorem State.tookFree_freeIdx : (s.tookFree ).freeIdx = s.freeIdx + 1 := rfl
@[simp] theorem State.tookFree_pending : (s.tookFree).pending = s.pending := rfl
@[simp] theorem State.tookFree_now : (s.tookFree).now = s.now := rfl
@[simp] theorem State.tookFree_settings : (s.tookFree).settings = s.settings := rfl
@[simp] theorem State.tookFree_flash : (s.tookFree).flash = s.flash := rfl
@[simp] theorem State.tookFree_startup : (s.tookFree).startup = s.startup := rfl
@[simp] theorem State.tookFree_regs : (s.tookFree).regs = s.regs := rfl
@[simp] theorem State.tookFree_mem : (s.tookFree).mem = s.mem := rfl
@[simp] theorem State.tookFree_written : (s.tookFree).written = s.written := rfl
@[simp] theorem State.tookFree_poison : (s.tookFree).poison = s.poison := rfl
@[simp] theorem State.tookFree_rings : (s.tookFree).rings = s.rings := rfl
@[simp] theorem State.tookFree_cmds : (s.tookFree).cmds = s.cmds := rfl
@[simp] theorem State.tookFree_nextCmd : (s.tookFree).nextCmd = s.nextCmd := rfl
@[simp] theorem State.tookFree_reqs : (s.tookFree).reqs = s.reqs := rfl
@[simp] theorem State.tookFree_nextReq : (s.tookFree).nextReq = s.nextReq := rfl
@[simp] theorem State.tookFree_ctxs : (s.tookFree).ctxs = s.ctxs := rfl
@[simp] theorem State.tookFree_cores : (s.tookFree).cores = s.cores := rfl
@[simp] theorem State.tookFree_sems : (s.tookFree).sems = s.sems := rfl
@[simp] theorem State.tookFree_ctrs : (s.tookFree).ctrs = s.ctrs := rfl
@[simp] theorem State.tookFree_lintels : (s.tookFree).lintels = s.lintels := rfl
@[simp] theorem State.tookFree_clusters : (s.tookFree).clusters = s.clusters := rfl
@[simp] theorem State.tookFree_coreDoms : (s.tookFree).coreDoms = s.coreDoms := rfl
@[simp] theorem State.tookFree_persists : (s.tookFree).persists = s.persists := rfl
@[simp] theorem State.tookFree_engines : (s.tookFree).engines = s.engines := rfl
@[simp] theorem State.tookFree_quads : (s.tookFree).quads = s.quads := rfl
@[simp] theorem State.tookFree_hods : (s.tookFree).hods = s.hods := rfl
@[simp] theorem State.tookFree_audits : (s.tookFree).audits = s.audits := rfl
@[simp] theorem State.tookFree_guards : (s.tookFree).guards = s.guards := rfl
@[simp] theorem State.tookFree_chans : (s.tookFree).chans = s.chans := rfl
@[simp] theorem State.tookFree_stks : (s.tookFree).stks = s.stks := rfl
@[simp] theorem State.tookFree_fences : (s.tookFree).fences = s.fences := rfl
@[simp] theorem State.tookFree_tiers : (s.tookFree).tiers = s.tiers := rfl
@[simp] theorem State.tookFree_pkgRej : (s.tookFree).pkgRej = s.pkgRej := rfl
@[simp] theorem State.tookFree_ports : (s.tookFree).ports = s.ports := rfl
@[simp] theorem State.tookFree_courses : (s.tookFree).courses = s.courses := rfl
@[simp] theorem State.tookFree_shards : (s.tookFree).shards = s.shards := rfl
@[simp] theorem State.tookFree_time : (s.tookFree).time = s.time := rfl
@[simp] theorem State.tookFree_links : (s.tookFree).links = s.links := rfl
@[simp] theorem State.tookFree_site : (s.tookFree).site = s.site := rfl
@[simp] theorem State.tookFree_pcie : (s.tookFree).pcie = s.pcie := rfl
@[simp] theorem State.tookFree_secs : (s.tookFree).secs = s.secs := rfl
@[simp] theorem State.tookFree_spdm : (s.tookFree).spdm = s.spdm := rfl
@[simp] theorem State.tookFree_conns : (s.tookFree).conns = s.conns := rfl
@[simp] theorem State.tookFree_dies : (s.tookFree).dies = s.dies := rfl
@[simp] theorem State.tookFree_coolant : (s.tookFree).coolant = s.coolant := rfl
@[simp] theorem State.tookFree_ledgers : (s.tookFree).ledgers = s.ledgers := rfl
@[simp] theorem State.tookFree_log : (s.tookFree).log = s.log := rfl
@[simp] theorem State.tookFree_logNext : (s.tookFree).logNext = s.logNext := rfl
@[simp] theorem State.tookFree_views : (s.tookFree).views = s.views := rfl
@[simp] theorem State.tookFree_snaps : (s.tookFree).snaps = s.snaps := rfl
@[simp] theorem State.tookFree_snapView : (s.tookFree).snapView = s.snapView := rfl
@[simp] theorem State.tookFree_hubGrps : (s.tookFree).hubGrps = s.hubGrps := rfl
@[simp] theorem State.tookFree_draws : (s.tookFree).draws = s.draws := rfl
@[simp] theorem State.tookFree_out : (s.tookFree).out = s.out := rfl

/-! ### State.modDie -/

@[simp] theorem State.modDie_dies (n : Nat) (f : Die → Die) : (s.modDie n f).dies = SMap.modify {} s.dies n f := rfl
@[simp] theorem State.modDie_pending (n : Nat) (f : Die → Die) : (s.modDie n f).pending = s.pending := rfl
@[simp] theorem State.modDie_now (n : Nat) (f : Die → Die) : (s.modDie n f).now = s.now := rfl
@[simp] theorem State.modDie_settings (n : Nat) (f : Die → Die) : (s.modDie n f).settings = s.settings := rfl
@[simp] theorem State.modDie_flash (n : Nat) (f : Die → Die) : (s.modDie n f).flash = s.flash := rfl
@[simp] theorem State.modDie_startup (n : Nat) (f : Die → Die) : (s.modDie n f).startup = s.startup := rfl
@[simp] theorem State.modDie_regs (n : Nat) (f : Die → Die) : (s.modDie n f).regs = s.regs := rfl
@[simp] theorem State.modDie_mem (n : Nat) (f : Die → Die) : (s.modDie n f).mem = s.mem := rfl
@[simp] theorem State.modDie_written (n : Nat) (f : Die → Die) : (s.modDie n f).written = s.written := rfl
@[simp] theorem State.modDie_poison (n : Nat) (f : Die → Die) : (s.modDie n f).poison = s.poison := rfl
@[simp] theorem State.modDie_rings (n : Nat) (f : Die → Die) : (s.modDie n f).rings = s.rings := rfl
@[simp] theorem State.modDie_cmds (n : Nat) (f : Die → Die) : (s.modDie n f).cmds = s.cmds := rfl
@[simp] theorem State.modDie_nextCmd (n : Nat) (f : Die → Die) : (s.modDie n f).nextCmd = s.nextCmd := rfl
@[simp] theorem State.modDie_reqs (n : Nat) (f : Die → Die) : (s.modDie n f).reqs = s.reqs := rfl
@[simp] theorem State.modDie_nextReq (n : Nat) (f : Die → Die) : (s.modDie n f).nextReq = s.nextReq := rfl
@[simp] theorem State.modDie_ctxs (n : Nat) (f : Die → Die) : (s.modDie n f).ctxs = s.ctxs := rfl
@[simp] theorem State.modDie_cores (n : Nat) (f : Die → Die) : (s.modDie n f).cores = s.cores := rfl
@[simp] theorem State.modDie_sems (n : Nat) (f : Die → Die) : (s.modDie n f).sems = s.sems := rfl
@[simp] theorem State.modDie_ctrs (n : Nat) (f : Die → Die) : (s.modDie n f).ctrs = s.ctrs := rfl
@[simp] theorem State.modDie_lintels (n : Nat) (f : Die → Die) : (s.modDie n f).lintels = s.lintels := rfl
@[simp] theorem State.modDie_clusters (n : Nat) (f : Die → Die) : (s.modDie n f).clusters = s.clusters := rfl
@[simp] theorem State.modDie_coreDoms (n : Nat) (f : Die → Die) : (s.modDie n f).coreDoms = s.coreDoms := rfl
@[simp] theorem State.modDie_persists (n : Nat) (f : Die → Die) : (s.modDie n f).persists = s.persists := rfl
@[simp] theorem State.modDie_engines (n : Nat) (f : Die → Die) : (s.modDie n f).engines = s.engines := rfl
@[simp] theorem State.modDie_quads (n : Nat) (f : Die → Die) : (s.modDie n f).quads = s.quads := rfl
@[simp] theorem State.modDie_hods (n : Nat) (f : Die → Die) : (s.modDie n f).hods = s.hods := rfl
@[simp] theorem State.modDie_audits (n : Nat) (f : Die → Die) : (s.modDie n f).audits = s.audits := rfl
@[simp] theorem State.modDie_guards (n : Nat) (f : Die → Die) : (s.modDie n f).guards = s.guards := rfl
@[simp] theorem State.modDie_chans (n : Nat) (f : Die → Die) : (s.modDie n f).chans = s.chans := rfl
@[simp] theorem State.modDie_stks (n : Nat) (f : Die → Die) : (s.modDie n f).stks = s.stks := rfl
@[simp] theorem State.modDie_fences (n : Nat) (f : Die → Die) : (s.modDie n f).fences = s.fences := rfl
@[simp] theorem State.modDie_tiers (n : Nat) (f : Die → Die) : (s.modDie n f).tiers = s.tiers := rfl
@[simp] theorem State.modDie_pkgRej (n : Nat) (f : Die → Die) : (s.modDie n f).pkgRej = s.pkgRej := rfl
@[simp] theorem State.modDie_ports (n : Nat) (f : Die → Die) : (s.modDie n f).ports = s.ports := rfl
@[simp] theorem State.modDie_courses (n : Nat) (f : Die → Die) : (s.modDie n f).courses = s.courses := rfl
@[simp] theorem State.modDie_shards (n : Nat) (f : Die → Die) : (s.modDie n f).shards = s.shards := rfl
@[simp] theorem State.modDie_time (n : Nat) (f : Die → Die) : (s.modDie n f).time = s.time := rfl
@[simp] theorem State.modDie_links (n : Nat) (f : Die → Die) : (s.modDie n f).links = s.links := rfl
@[simp] theorem State.modDie_site (n : Nat) (f : Die → Die) : (s.modDie n f).site = s.site := rfl
@[simp] theorem State.modDie_pcie (n : Nat) (f : Die → Die) : (s.modDie n f).pcie = s.pcie := rfl
@[simp] theorem State.modDie_secs (n : Nat) (f : Die → Die) : (s.modDie n f).secs = s.secs := rfl
@[simp] theorem State.modDie_spdm (n : Nat) (f : Die → Die) : (s.modDie n f).spdm = s.spdm := rfl
@[simp] theorem State.modDie_conns (n : Nat) (f : Die → Die) : (s.modDie n f).conns = s.conns := rfl
@[simp] theorem State.modDie_coolant (n : Nat) (f : Die → Die) : (s.modDie n f).coolant = s.coolant := rfl
@[simp] theorem State.modDie_ledgers (n : Nat) (f : Die → Die) : (s.modDie n f).ledgers = s.ledgers := rfl
@[simp] theorem State.modDie_log (n : Nat) (f : Die → Die) : (s.modDie n f).log = s.log := rfl
@[simp] theorem State.modDie_logNext (n : Nat) (f : Die → Die) : (s.modDie n f).logNext = s.logNext := rfl
@[simp] theorem State.modDie_views (n : Nat) (f : Die → Die) : (s.modDie n f).views = s.views := rfl
@[simp] theorem State.modDie_snaps (n : Nat) (f : Die → Die) : (s.modDie n f).snaps = s.snaps := rfl
@[simp] theorem State.modDie_snapView (n : Nat) (f : Die → Die) : (s.modDie n f).snapView = s.snapView := rfl
@[simp] theorem State.modDie_hubGrps (n : Nat) (f : Die → Die) : (s.modDie n f).hubGrps = s.hubGrps := rfl
@[simp] theorem State.modDie_draws (n : Nat) (f : Die → Die) : (s.modDie n f).draws = s.draws := rfl
@[simp] theorem State.modDie_out (n : Nat) (f : Die → Die) : (s.modDie n f).out = s.out := rfl
@[simp] theorem State.modDie_freeIdx (n : Nat) (f : Die → Die) : (s.modDie n f).freeIdx = s.freeIdx := rfl

/-! ### State.modStack -/

@[simp] theorem State.modStack_stks (n : Nat) (f : Stack → Stack) : (s.modStack n f).stks = SMap.modify {} s.stks n f := rfl
@[simp] theorem State.modStack_pending (n : Nat) (f : Stack → Stack) : (s.modStack n f).pending = s.pending := rfl
@[simp] theorem State.modStack_now (n : Nat) (f : Stack → Stack) : (s.modStack n f).now = s.now := rfl
@[simp] theorem State.modStack_settings (n : Nat) (f : Stack → Stack) : (s.modStack n f).settings = s.settings := rfl
@[simp] theorem State.modStack_flash (n : Nat) (f : Stack → Stack) : (s.modStack n f).flash = s.flash := rfl
@[simp] theorem State.modStack_startup (n : Nat) (f : Stack → Stack) : (s.modStack n f).startup = s.startup := rfl
@[simp] theorem State.modStack_regs (n : Nat) (f : Stack → Stack) : (s.modStack n f).regs = s.regs := rfl
@[simp] theorem State.modStack_mem (n : Nat) (f : Stack → Stack) : (s.modStack n f).mem = s.mem := rfl
@[simp] theorem State.modStack_written (n : Nat) (f : Stack → Stack) : (s.modStack n f).written = s.written := rfl
@[simp] theorem State.modStack_poison (n : Nat) (f : Stack → Stack) : (s.modStack n f).poison = s.poison := rfl
@[simp] theorem State.modStack_rings (n : Nat) (f : Stack → Stack) : (s.modStack n f).rings = s.rings := rfl
@[simp] theorem State.modStack_cmds (n : Nat) (f : Stack → Stack) : (s.modStack n f).cmds = s.cmds := rfl
@[simp] theorem State.modStack_nextCmd (n : Nat) (f : Stack → Stack) : (s.modStack n f).nextCmd = s.nextCmd := rfl
@[simp] theorem State.modStack_reqs (n : Nat) (f : Stack → Stack) : (s.modStack n f).reqs = s.reqs := rfl
@[simp] theorem State.modStack_nextReq (n : Nat) (f : Stack → Stack) : (s.modStack n f).nextReq = s.nextReq := rfl
@[simp] theorem State.modStack_ctxs (n : Nat) (f : Stack → Stack) : (s.modStack n f).ctxs = s.ctxs := rfl
@[simp] theorem State.modStack_cores (n : Nat) (f : Stack → Stack) : (s.modStack n f).cores = s.cores := rfl
@[simp] theorem State.modStack_sems (n : Nat) (f : Stack → Stack) : (s.modStack n f).sems = s.sems := rfl
@[simp] theorem State.modStack_ctrs (n : Nat) (f : Stack → Stack) : (s.modStack n f).ctrs = s.ctrs := rfl
@[simp] theorem State.modStack_lintels (n : Nat) (f : Stack → Stack) : (s.modStack n f).lintels = s.lintels := rfl
@[simp] theorem State.modStack_clusters (n : Nat) (f : Stack → Stack) : (s.modStack n f).clusters = s.clusters := rfl
@[simp] theorem State.modStack_coreDoms (n : Nat) (f : Stack → Stack) : (s.modStack n f).coreDoms = s.coreDoms := rfl
@[simp] theorem State.modStack_persists (n : Nat) (f : Stack → Stack) : (s.modStack n f).persists = s.persists := rfl
@[simp] theorem State.modStack_engines (n : Nat) (f : Stack → Stack) : (s.modStack n f).engines = s.engines := rfl
@[simp] theorem State.modStack_quads (n : Nat) (f : Stack → Stack) : (s.modStack n f).quads = s.quads := rfl
@[simp] theorem State.modStack_hods (n : Nat) (f : Stack → Stack) : (s.modStack n f).hods = s.hods := rfl
@[simp] theorem State.modStack_audits (n : Nat) (f : Stack → Stack) : (s.modStack n f).audits = s.audits := rfl
@[simp] theorem State.modStack_guards (n : Nat) (f : Stack → Stack) : (s.modStack n f).guards = s.guards := rfl
@[simp] theorem State.modStack_chans (n : Nat) (f : Stack → Stack) : (s.modStack n f).chans = s.chans := rfl
@[simp] theorem State.modStack_fences (n : Nat) (f : Stack → Stack) : (s.modStack n f).fences = s.fences := rfl
@[simp] theorem State.modStack_tiers (n : Nat) (f : Stack → Stack) : (s.modStack n f).tiers = s.tiers := rfl
@[simp] theorem State.modStack_pkgRej (n : Nat) (f : Stack → Stack) : (s.modStack n f).pkgRej = s.pkgRej := rfl
@[simp] theorem State.modStack_ports (n : Nat) (f : Stack → Stack) : (s.modStack n f).ports = s.ports := rfl
@[simp] theorem State.modStack_courses (n : Nat) (f : Stack → Stack) : (s.modStack n f).courses = s.courses := rfl
@[simp] theorem State.modStack_shards (n : Nat) (f : Stack → Stack) : (s.modStack n f).shards = s.shards := rfl
@[simp] theorem State.modStack_time (n : Nat) (f : Stack → Stack) : (s.modStack n f).time = s.time := rfl
@[simp] theorem State.modStack_links (n : Nat) (f : Stack → Stack) : (s.modStack n f).links = s.links := rfl
@[simp] theorem State.modStack_site (n : Nat) (f : Stack → Stack) : (s.modStack n f).site = s.site := rfl
@[simp] theorem State.modStack_pcie (n : Nat) (f : Stack → Stack) : (s.modStack n f).pcie = s.pcie := rfl
@[simp] theorem State.modStack_secs (n : Nat) (f : Stack → Stack) : (s.modStack n f).secs = s.secs := rfl
@[simp] theorem State.modStack_spdm (n : Nat) (f : Stack → Stack) : (s.modStack n f).spdm = s.spdm := rfl
@[simp] theorem State.modStack_conns (n : Nat) (f : Stack → Stack) : (s.modStack n f).conns = s.conns := rfl
@[simp] theorem State.modStack_dies (n : Nat) (f : Stack → Stack) : (s.modStack n f).dies = s.dies := rfl
@[simp] theorem State.modStack_coolant (n : Nat) (f : Stack → Stack) : (s.modStack n f).coolant = s.coolant := rfl
@[simp] theorem State.modStack_ledgers (n : Nat) (f : Stack → Stack) : (s.modStack n f).ledgers = s.ledgers := rfl
@[simp] theorem State.modStack_log (n : Nat) (f : Stack → Stack) : (s.modStack n f).log = s.log := rfl
@[simp] theorem State.modStack_logNext (n : Nat) (f : Stack → Stack) : (s.modStack n f).logNext = s.logNext := rfl
@[simp] theorem State.modStack_views (n : Nat) (f : Stack → Stack) : (s.modStack n f).views = s.views := rfl
@[simp] theorem State.modStack_snaps (n : Nat) (f : Stack → Stack) : (s.modStack n f).snaps = s.snaps := rfl
@[simp] theorem State.modStack_snapView (n : Nat) (f : Stack → Stack) : (s.modStack n f).snapView = s.snapView := rfl
@[simp] theorem State.modStack_hubGrps (n : Nat) (f : Stack → Stack) : (s.modStack n f).hubGrps = s.hubGrps := rfl
@[simp] theorem State.modStack_draws (n : Nat) (f : Stack → Stack) : (s.modStack n f).draws = s.draws := rfl
@[simp] theorem State.modStack_out (n : Nat) (f : Stack → Stack) : (s.modStack n f).out = s.out := rfl
@[simp] theorem State.modStack_freeIdx (n : Nat) (f : Stack → Stack) : (s.modStack n f).freeIdx = s.freeIdx := rfl

/-! ### State.modChan -/

@[simp] theorem State.modChan_chans (n : Nat) (f : Chan → Chan) : (s.modChan n f).chans = SMap.modify {} s.chans n f := rfl
@[simp] theorem State.modChan_pending (n : Nat) (f : Chan → Chan) : (s.modChan n f).pending = s.pending := rfl
@[simp] theorem State.modChan_now (n : Nat) (f : Chan → Chan) : (s.modChan n f).now = s.now := rfl
@[simp] theorem State.modChan_settings (n : Nat) (f : Chan → Chan) : (s.modChan n f).settings = s.settings := rfl
@[simp] theorem State.modChan_flash (n : Nat) (f : Chan → Chan) : (s.modChan n f).flash = s.flash := rfl
@[simp] theorem State.modChan_startup (n : Nat) (f : Chan → Chan) : (s.modChan n f).startup = s.startup := rfl
@[simp] theorem State.modChan_regs (n : Nat) (f : Chan → Chan) : (s.modChan n f).regs = s.regs := rfl
@[simp] theorem State.modChan_mem (n : Nat) (f : Chan → Chan) : (s.modChan n f).mem = s.mem := rfl
@[simp] theorem State.modChan_written (n : Nat) (f : Chan → Chan) : (s.modChan n f).written = s.written := rfl
@[simp] theorem State.modChan_poison (n : Nat) (f : Chan → Chan) : (s.modChan n f).poison = s.poison := rfl
@[simp] theorem State.modChan_rings (n : Nat) (f : Chan → Chan) : (s.modChan n f).rings = s.rings := rfl
@[simp] theorem State.modChan_cmds (n : Nat) (f : Chan → Chan) : (s.modChan n f).cmds = s.cmds := rfl
@[simp] theorem State.modChan_nextCmd (n : Nat) (f : Chan → Chan) : (s.modChan n f).nextCmd = s.nextCmd := rfl
@[simp] theorem State.modChan_reqs (n : Nat) (f : Chan → Chan) : (s.modChan n f).reqs = s.reqs := rfl
@[simp] theorem State.modChan_nextReq (n : Nat) (f : Chan → Chan) : (s.modChan n f).nextReq = s.nextReq := rfl
@[simp] theorem State.modChan_ctxs (n : Nat) (f : Chan → Chan) : (s.modChan n f).ctxs = s.ctxs := rfl
@[simp] theorem State.modChan_cores (n : Nat) (f : Chan → Chan) : (s.modChan n f).cores = s.cores := rfl
@[simp] theorem State.modChan_sems (n : Nat) (f : Chan → Chan) : (s.modChan n f).sems = s.sems := rfl
@[simp] theorem State.modChan_ctrs (n : Nat) (f : Chan → Chan) : (s.modChan n f).ctrs = s.ctrs := rfl
@[simp] theorem State.modChan_lintels (n : Nat) (f : Chan → Chan) : (s.modChan n f).lintels = s.lintels := rfl
@[simp] theorem State.modChan_clusters (n : Nat) (f : Chan → Chan) : (s.modChan n f).clusters = s.clusters := rfl
@[simp] theorem State.modChan_coreDoms (n : Nat) (f : Chan → Chan) : (s.modChan n f).coreDoms = s.coreDoms := rfl
@[simp] theorem State.modChan_persists (n : Nat) (f : Chan → Chan) : (s.modChan n f).persists = s.persists := rfl
@[simp] theorem State.modChan_engines (n : Nat) (f : Chan → Chan) : (s.modChan n f).engines = s.engines := rfl
@[simp] theorem State.modChan_quads (n : Nat) (f : Chan → Chan) : (s.modChan n f).quads = s.quads := rfl
@[simp] theorem State.modChan_hods (n : Nat) (f : Chan → Chan) : (s.modChan n f).hods = s.hods := rfl
@[simp] theorem State.modChan_audits (n : Nat) (f : Chan → Chan) : (s.modChan n f).audits = s.audits := rfl
@[simp] theorem State.modChan_guards (n : Nat) (f : Chan → Chan) : (s.modChan n f).guards = s.guards := rfl
@[simp] theorem State.modChan_stks (n : Nat) (f : Chan → Chan) : (s.modChan n f).stks = s.stks := rfl
@[simp] theorem State.modChan_fences (n : Nat) (f : Chan → Chan) : (s.modChan n f).fences = s.fences := rfl
@[simp] theorem State.modChan_tiers (n : Nat) (f : Chan → Chan) : (s.modChan n f).tiers = s.tiers := rfl
@[simp] theorem State.modChan_pkgRej (n : Nat) (f : Chan → Chan) : (s.modChan n f).pkgRej = s.pkgRej := rfl
@[simp] theorem State.modChan_ports (n : Nat) (f : Chan → Chan) : (s.modChan n f).ports = s.ports := rfl
@[simp] theorem State.modChan_courses (n : Nat) (f : Chan → Chan) : (s.modChan n f).courses = s.courses := rfl
@[simp] theorem State.modChan_shards (n : Nat) (f : Chan → Chan) : (s.modChan n f).shards = s.shards := rfl
@[simp] theorem State.modChan_time (n : Nat) (f : Chan → Chan) : (s.modChan n f).time = s.time := rfl
@[simp] theorem State.modChan_links (n : Nat) (f : Chan → Chan) : (s.modChan n f).links = s.links := rfl
@[simp] theorem State.modChan_site (n : Nat) (f : Chan → Chan) : (s.modChan n f).site = s.site := rfl
@[simp] theorem State.modChan_pcie (n : Nat) (f : Chan → Chan) : (s.modChan n f).pcie = s.pcie := rfl
@[simp] theorem State.modChan_secs (n : Nat) (f : Chan → Chan) : (s.modChan n f).secs = s.secs := rfl
@[simp] theorem State.modChan_spdm (n : Nat) (f : Chan → Chan) : (s.modChan n f).spdm = s.spdm := rfl
@[simp] theorem State.modChan_conns (n : Nat) (f : Chan → Chan) : (s.modChan n f).conns = s.conns := rfl
@[simp] theorem State.modChan_dies (n : Nat) (f : Chan → Chan) : (s.modChan n f).dies = s.dies := rfl
@[simp] theorem State.modChan_coolant (n : Nat) (f : Chan → Chan) : (s.modChan n f).coolant = s.coolant := rfl
@[simp] theorem State.modChan_ledgers (n : Nat) (f : Chan → Chan) : (s.modChan n f).ledgers = s.ledgers := rfl
@[simp] theorem State.modChan_log (n : Nat) (f : Chan → Chan) : (s.modChan n f).log = s.log := rfl
@[simp] theorem State.modChan_logNext (n : Nat) (f : Chan → Chan) : (s.modChan n f).logNext = s.logNext := rfl
@[simp] theorem State.modChan_views (n : Nat) (f : Chan → Chan) : (s.modChan n f).views = s.views := rfl
@[simp] theorem State.modChan_snaps (n : Nat) (f : Chan → Chan) : (s.modChan n f).snaps = s.snaps := rfl
@[simp] theorem State.modChan_snapView (n : Nat) (f : Chan → Chan) : (s.modChan n f).snapView = s.snapView := rfl
@[simp] theorem State.modChan_hubGrps (n : Nat) (f : Chan → Chan) : (s.modChan n f).hubGrps = s.hubGrps := rfl
@[simp] theorem State.modChan_draws (n : Nat) (f : Chan → Chan) : (s.modChan n f).draws = s.draws := rfl
@[simp] theorem State.modChan_out (n : Nat) (f : Chan → Chan) : (s.modChan n f).out = s.out := rfl
@[simp] theorem State.modChan_freeIdx (n : Nat) (f : Chan → Chan) : (s.modChan n f).freeIdx = s.freeIdx := rfl

/-! ### State.modPort -/

@[simp] theorem State.modPort_ports (n : Nat) (f : Port → Port) : (s.modPort n f).ports = SMap.modify {} s.ports n f := rfl
@[simp] theorem State.modPort_pending (n : Nat) (f : Port → Port) : (s.modPort n f).pending = s.pending := rfl
@[simp] theorem State.modPort_now (n : Nat) (f : Port → Port) : (s.modPort n f).now = s.now := rfl
@[simp] theorem State.modPort_settings (n : Nat) (f : Port → Port) : (s.modPort n f).settings = s.settings := rfl
@[simp] theorem State.modPort_flash (n : Nat) (f : Port → Port) : (s.modPort n f).flash = s.flash := rfl
@[simp] theorem State.modPort_startup (n : Nat) (f : Port → Port) : (s.modPort n f).startup = s.startup := rfl
@[simp] theorem State.modPort_regs (n : Nat) (f : Port → Port) : (s.modPort n f).regs = s.regs := rfl
@[simp] theorem State.modPort_mem (n : Nat) (f : Port → Port) : (s.modPort n f).mem = s.mem := rfl
@[simp] theorem State.modPort_written (n : Nat) (f : Port → Port) : (s.modPort n f).written = s.written := rfl
@[simp] theorem State.modPort_poison (n : Nat) (f : Port → Port) : (s.modPort n f).poison = s.poison := rfl
@[simp] theorem State.modPort_rings (n : Nat) (f : Port → Port) : (s.modPort n f).rings = s.rings := rfl
@[simp] theorem State.modPort_cmds (n : Nat) (f : Port → Port) : (s.modPort n f).cmds = s.cmds := rfl
@[simp] theorem State.modPort_nextCmd (n : Nat) (f : Port → Port) : (s.modPort n f).nextCmd = s.nextCmd := rfl
@[simp] theorem State.modPort_reqs (n : Nat) (f : Port → Port) : (s.modPort n f).reqs = s.reqs := rfl
@[simp] theorem State.modPort_nextReq (n : Nat) (f : Port → Port) : (s.modPort n f).nextReq = s.nextReq := rfl
@[simp] theorem State.modPort_ctxs (n : Nat) (f : Port → Port) : (s.modPort n f).ctxs = s.ctxs := rfl
@[simp] theorem State.modPort_cores (n : Nat) (f : Port → Port) : (s.modPort n f).cores = s.cores := rfl
@[simp] theorem State.modPort_sems (n : Nat) (f : Port → Port) : (s.modPort n f).sems = s.sems := rfl
@[simp] theorem State.modPort_ctrs (n : Nat) (f : Port → Port) : (s.modPort n f).ctrs = s.ctrs := rfl
@[simp] theorem State.modPort_lintels (n : Nat) (f : Port → Port) : (s.modPort n f).lintels = s.lintels := rfl
@[simp] theorem State.modPort_clusters (n : Nat) (f : Port → Port) : (s.modPort n f).clusters = s.clusters := rfl
@[simp] theorem State.modPort_coreDoms (n : Nat) (f : Port → Port) : (s.modPort n f).coreDoms = s.coreDoms := rfl
@[simp] theorem State.modPort_persists (n : Nat) (f : Port → Port) : (s.modPort n f).persists = s.persists := rfl
@[simp] theorem State.modPort_engines (n : Nat) (f : Port → Port) : (s.modPort n f).engines = s.engines := rfl
@[simp] theorem State.modPort_quads (n : Nat) (f : Port → Port) : (s.modPort n f).quads = s.quads := rfl
@[simp] theorem State.modPort_hods (n : Nat) (f : Port → Port) : (s.modPort n f).hods = s.hods := rfl
@[simp] theorem State.modPort_audits (n : Nat) (f : Port → Port) : (s.modPort n f).audits = s.audits := rfl
@[simp] theorem State.modPort_guards (n : Nat) (f : Port → Port) : (s.modPort n f).guards = s.guards := rfl
@[simp] theorem State.modPort_chans (n : Nat) (f : Port → Port) : (s.modPort n f).chans = s.chans := rfl
@[simp] theorem State.modPort_stks (n : Nat) (f : Port → Port) : (s.modPort n f).stks = s.stks := rfl
@[simp] theorem State.modPort_fences (n : Nat) (f : Port → Port) : (s.modPort n f).fences = s.fences := rfl
@[simp] theorem State.modPort_tiers (n : Nat) (f : Port → Port) : (s.modPort n f).tiers = s.tiers := rfl
@[simp] theorem State.modPort_pkgRej (n : Nat) (f : Port → Port) : (s.modPort n f).pkgRej = s.pkgRej := rfl
@[simp] theorem State.modPort_courses (n : Nat) (f : Port → Port) : (s.modPort n f).courses = s.courses := rfl
@[simp] theorem State.modPort_shards (n : Nat) (f : Port → Port) : (s.modPort n f).shards = s.shards := rfl
@[simp] theorem State.modPort_time (n : Nat) (f : Port → Port) : (s.modPort n f).time = s.time := rfl
@[simp] theorem State.modPort_links (n : Nat) (f : Port → Port) : (s.modPort n f).links = s.links := rfl
@[simp] theorem State.modPort_site (n : Nat) (f : Port → Port) : (s.modPort n f).site = s.site := rfl
@[simp] theorem State.modPort_pcie (n : Nat) (f : Port → Port) : (s.modPort n f).pcie = s.pcie := rfl
@[simp] theorem State.modPort_secs (n : Nat) (f : Port → Port) : (s.modPort n f).secs = s.secs := rfl
@[simp] theorem State.modPort_spdm (n : Nat) (f : Port → Port) : (s.modPort n f).spdm = s.spdm := rfl
@[simp] theorem State.modPort_conns (n : Nat) (f : Port → Port) : (s.modPort n f).conns = s.conns := rfl
@[simp] theorem State.modPort_dies (n : Nat) (f : Port → Port) : (s.modPort n f).dies = s.dies := rfl
@[simp] theorem State.modPort_coolant (n : Nat) (f : Port → Port) : (s.modPort n f).coolant = s.coolant := rfl
@[simp] theorem State.modPort_ledgers (n : Nat) (f : Port → Port) : (s.modPort n f).ledgers = s.ledgers := rfl
@[simp] theorem State.modPort_log (n : Nat) (f : Port → Port) : (s.modPort n f).log = s.log := rfl
@[simp] theorem State.modPort_logNext (n : Nat) (f : Port → Port) : (s.modPort n f).logNext = s.logNext := rfl
@[simp] theorem State.modPort_views (n : Nat) (f : Port → Port) : (s.modPort n f).views = s.views := rfl
@[simp] theorem State.modPort_snaps (n : Nat) (f : Port → Port) : (s.modPort n f).snaps = s.snaps := rfl
@[simp] theorem State.modPort_snapView (n : Nat) (f : Port → Port) : (s.modPort n f).snapView = s.snapView := rfl
@[simp] theorem State.modPort_hubGrps (n : Nat) (f : Port → Port) : (s.modPort n f).hubGrps = s.hubGrps := rfl
@[simp] theorem State.modPort_draws (n : Nat) (f : Port → Port) : (s.modPort n f).draws = s.draws := rfl
@[simp] theorem State.modPort_out (n : Nat) (f : Port → Port) : (s.modPort n f).out = s.out := rfl
@[simp] theorem State.modPort_freeIdx (n : Nat) (f : Port → Port) : (s.modPort n f).freeIdx = s.freeIdx := rfl

/-! ### State.modCourse -/

@[simp] theorem State.modCourse_courses (n : Nat) (f : Course → Course) : (s.modCourse n f).courses = SMap.modify {} s.courses n f := rfl
@[simp] theorem State.modCourse_pending (n : Nat) (f : Course → Course) : (s.modCourse n f).pending = s.pending := rfl
@[simp] theorem State.modCourse_now (n : Nat) (f : Course → Course) : (s.modCourse n f).now = s.now := rfl
@[simp] theorem State.modCourse_settings (n : Nat) (f : Course → Course) : (s.modCourse n f).settings = s.settings := rfl
@[simp] theorem State.modCourse_flash (n : Nat) (f : Course → Course) : (s.modCourse n f).flash = s.flash := rfl
@[simp] theorem State.modCourse_startup (n : Nat) (f : Course → Course) : (s.modCourse n f).startup = s.startup := rfl
@[simp] theorem State.modCourse_regs (n : Nat) (f : Course → Course) : (s.modCourse n f).regs = s.regs := rfl
@[simp] theorem State.modCourse_mem (n : Nat) (f : Course → Course) : (s.modCourse n f).mem = s.mem := rfl
@[simp] theorem State.modCourse_written (n : Nat) (f : Course → Course) : (s.modCourse n f).written = s.written := rfl
@[simp] theorem State.modCourse_poison (n : Nat) (f : Course → Course) : (s.modCourse n f).poison = s.poison := rfl
@[simp] theorem State.modCourse_rings (n : Nat) (f : Course → Course) : (s.modCourse n f).rings = s.rings := rfl
@[simp] theorem State.modCourse_cmds (n : Nat) (f : Course → Course) : (s.modCourse n f).cmds = s.cmds := rfl
@[simp] theorem State.modCourse_nextCmd (n : Nat) (f : Course → Course) : (s.modCourse n f).nextCmd = s.nextCmd := rfl
@[simp] theorem State.modCourse_reqs (n : Nat) (f : Course → Course) : (s.modCourse n f).reqs = s.reqs := rfl
@[simp] theorem State.modCourse_nextReq (n : Nat) (f : Course → Course) : (s.modCourse n f).nextReq = s.nextReq := rfl
@[simp] theorem State.modCourse_ctxs (n : Nat) (f : Course → Course) : (s.modCourse n f).ctxs = s.ctxs := rfl
@[simp] theorem State.modCourse_cores (n : Nat) (f : Course → Course) : (s.modCourse n f).cores = s.cores := rfl
@[simp] theorem State.modCourse_sems (n : Nat) (f : Course → Course) : (s.modCourse n f).sems = s.sems := rfl
@[simp] theorem State.modCourse_ctrs (n : Nat) (f : Course → Course) : (s.modCourse n f).ctrs = s.ctrs := rfl
@[simp] theorem State.modCourse_lintels (n : Nat) (f : Course → Course) : (s.modCourse n f).lintels = s.lintels := rfl
@[simp] theorem State.modCourse_clusters (n : Nat) (f : Course → Course) : (s.modCourse n f).clusters = s.clusters := rfl
@[simp] theorem State.modCourse_coreDoms (n : Nat) (f : Course → Course) : (s.modCourse n f).coreDoms = s.coreDoms := rfl
@[simp] theorem State.modCourse_persists (n : Nat) (f : Course → Course) : (s.modCourse n f).persists = s.persists := rfl
@[simp] theorem State.modCourse_engines (n : Nat) (f : Course → Course) : (s.modCourse n f).engines = s.engines := rfl
@[simp] theorem State.modCourse_quads (n : Nat) (f : Course → Course) : (s.modCourse n f).quads = s.quads := rfl
@[simp] theorem State.modCourse_hods (n : Nat) (f : Course → Course) : (s.modCourse n f).hods = s.hods := rfl
@[simp] theorem State.modCourse_audits (n : Nat) (f : Course → Course) : (s.modCourse n f).audits = s.audits := rfl
@[simp] theorem State.modCourse_guards (n : Nat) (f : Course → Course) : (s.modCourse n f).guards = s.guards := rfl
@[simp] theorem State.modCourse_chans (n : Nat) (f : Course → Course) : (s.modCourse n f).chans = s.chans := rfl
@[simp] theorem State.modCourse_stks (n : Nat) (f : Course → Course) : (s.modCourse n f).stks = s.stks := rfl
@[simp] theorem State.modCourse_fences (n : Nat) (f : Course → Course) : (s.modCourse n f).fences = s.fences := rfl
@[simp] theorem State.modCourse_tiers (n : Nat) (f : Course → Course) : (s.modCourse n f).tiers = s.tiers := rfl
@[simp] theorem State.modCourse_pkgRej (n : Nat) (f : Course → Course) : (s.modCourse n f).pkgRej = s.pkgRej := rfl
@[simp] theorem State.modCourse_ports (n : Nat) (f : Course → Course) : (s.modCourse n f).ports = s.ports := rfl
@[simp] theorem State.modCourse_shards (n : Nat) (f : Course → Course) : (s.modCourse n f).shards = s.shards := rfl
@[simp] theorem State.modCourse_time (n : Nat) (f : Course → Course) : (s.modCourse n f).time = s.time := rfl
@[simp] theorem State.modCourse_links (n : Nat) (f : Course → Course) : (s.modCourse n f).links = s.links := rfl
@[simp] theorem State.modCourse_site (n : Nat) (f : Course → Course) : (s.modCourse n f).site = s.site := rfl
@[simp] theorem State.modCourse_pcie (n : Nat) (f : Course → Course) : (s.modCourse n f).pcie = s.pcie := rfl
@[simp] theorem State.modCourse_secs (n : Nat) (f : Course → Course) : (s.modCourse n f).secs = s.secs := rfl
@[simp] theorem State.modCourse_spdm (n : Nat) (f : Course → Course) : (s.modCourse n f).spdm = s.spdm := rfl
@[simp] theorem State.modCourse_conns (n : Nat) (f : Course → Course) : (s.modCourse n f).conns = s.conns := rfl
@[simp] theorem State.modCourse_dies (n : Nat) (f : Course → Course) : (s.modCourse n f).dies = s.dies := rfl
@[simp] theorem State.modCourse_coolant (n : Nat) (f : Course → Course) : (s.modCourse n f).coolant = s.coolant := rfl
@[simp] theorem State.modCourse_ledgers (n : Nat) (f : Course → Course) : (s.modCourse n f).ledgers = s.ledgers := rfl
@[simp] theorem State.modCourse_log (n : Nat) (f : Course → Course) : (s.modCourse n f).log = s.log := rfl
@[simp] theorem State.modCourse_logNext (n : Nat) (f : Course → Course) : (s.modCourse n f).logNext = s.logNext := rfl
@[simp] theorem State.modCourse_views (n : Nat) (f : Course → Course) : (s.modCourse n f).views = s.views := rfl
@[simp] theorem State.modCourse_snaps (n : Nat) (f : Course → Course) : (s.modCourse n f).snaps = s.snaps := rfl
@[simp] theorem State.modCourse_snapView (n : Nat) (f : Course → Course) : (s.modCourse n f).snapView = s.snapView := rfl
@[simp] theorem State.modCourse_hubGrps (n : Nat) (f : Course → Course) : (s.modCourse n f).hubGrps = s.hubGrps := rfl
@[simp] theorem State.modCourse_draws (n : Nat) (f : Course → Course) : (s.modCourse n f).draws = s.draws := rfl
@[simp] theorem State.modCourse_out (n : Nat) (f : Course → Course) : (s.modCourse n f).out = s.out := rfl
@[simp] theorem State.modCourse_freeIdx (n : Nat) (f : Course → Course) : (s.modCourse n f).freeIdx = s.freeIdx := rfl

/-! ### State.modLink -/

@[simp] theorem State.modLink_links (n : Nat) (f : Link → Link) : (s.modLink n f).links = SMap.modify {} s.links n f := rfl
@[simp] theorem State.modLink_pending (n : Nat) (f : Link → Link) : (s.modLink n f).pending = s.pending := rfl
@[simp] theorem State.modLink_now (n : Nat) (f : Link → Link) : (s.modLink n f).now = s.now := rfl
@[simp] theorem State.modLink_settings (n : Nat) (f : Link → Link) : (s.modLink n f).settings = s.settings := rfl
@[simp] theorem State.modLink_flash (n : Nat) (f : Link → Link) : (s.modLink n f).flash = s.flash := rfl
@[simp] theorem State.modLink_startup (n : Nat) (f : Link → Link) : (s.modLink n f).startup = s.startup := rfl
@[simp] theorem State.modLink_regs (n : Nat) (f : Link → Link) : (s.modLink n f).regs = s.regs := rfl
@[simp] theorem State.modLink_mem (n : Nat) (f : Link → Link) : (s.modLink n f).mem = s.mem := rfl
@[simp] theorem State.modLink_written (n : Nat) (f : Link → Link) : (s.modLink n f).written = s.written := rfl
@[simp] theorem State.modLink_poison (n : Nat) (f : Link → Link) : (s.modLink n f).poison = s.poison := rfl
@[simp] theorem State.modLink_rings (n : Nat) (f : Link → Link) : (s.modLink n f).rings = s.rings := rfl
@[simp] theorem State.modLink_cmds (n : Nat) (f : Link → Link) : (s.modLink n f).cmds = s.cmds := rfl
@[simp] theorem State.modLink_nextCmd (n : Nat) (f : Link → Link) : (s.modLink n f).nextCmd = s.nextCmd := rfl
@[simp] theorem State.modLink_reqs (n : Nat) (f : Link → Link) : (s.modLink n f).reqs = s.reqs := rfl
@[simp] theorem State.modLink_nextReq (n : Nat) (f : Link → Link) : (s.modLink n f).nextReq = s.nextReq := rfl
@[simp] theorem State.modLink_ctxs (n : Nat) (f : Link → Link) : (s.modLink n f).ctxs = s.ctxs := rfl
@[simp] theorem State.modLink_cores (n : Nat) (f : Link → Link) : (s.modLink n f).cores = s.cores := rfl
@[simp] theorem State.modLink_sems (n : Nat) (f : Link → Link) : (s.modLink n f).sems = s.sems := rfl
@[simp] theorem State.modLink_ctrs (n : Nat) (f : Link → Link) : (s.modLink n f).ctrs = s.ctrs := rfl
@[simp] theorem State.modLink_lintels (n : Nat) (f : Link → Link) : (s.modLink n f).lintels = s.lintels := rfl
@[simp] theorem State.modLink_clusters (n : Nat) (f : Link → Link) : (s.modLink n f).clusters = s.clusters := rfl
@[simp] theorem State.modLink_coreDoms (n : Nat) (f : Link → Link) : (s.modLink n f).coreDoms = s.coreDoms := rfl
@[simp] theorem State.modLink_persists (n : Nat) (f : Link → Link) : (s.modLink n f).persists = s.persists := rfl
@[simp] theorem State.modLink_engines (n : Nat) (f : Link → Link) : (s.modLink n f).engines = s.engines := rfl
@[simp] theorem State.modLink_quads (n : Nat) (f : Link → Link) : (s.modLink n f).quads = s.quads := rfl
@[simp] theorem State.modLink_hods (n : Nat) (f : Link → Link) : (s.modLink n f).hods = s.hods := rfl
@[simp] theorem State.modLink_audits (n : Nat) (f : Link → Link) : (s.modLink n f).audits = s.audits := rfl
@[simp] theorem State.modLink_guards (n : Nat) (f : Link → Link) : (s.modLink n f).guards = s.guards := rfl
@[simp] theorem State.modLink_chans (n : Nat) (f : Link → Link) : (s.modLink n f).chans = s.chans := rfl
@[simp] theorem State.modLink_stks (n : Nat) (f : Link → Link) : (s.modLink n f).stks = s.stks := rfl
@[simp] theorem State.modLink_fences (n : Nat) (f : Link → Link) : (s.modLink n f).fences = s.fences := rfl
@[simp] theorem State.modLink_tiers (n : Nat) (f : Link → Link) : (s.modLink n f).tiers = s.tiers := rfl
@[simp] theorem State.modLink_pkgRej (n : Nat) (f : Link → Link) : (s.modLink n f).pkgRej = s.pkgRej := rfl
@[simp] theorem State.modLink_ports (n : Nat) (f : Link → Link) : (s.modLink n f).ports = s.ports := rfl
@[simp] theorem State.modLink_courses (n : Nat) (f : Link → Link) : (s.modLink n f).courses = s.courses := rfl
@[simp] theorem State.modLink_shards (n : Nat) (f : Link → Link) : (s.modLink n f).shards = s.shards := rfl
@[simp] theorem State.modLink_time (n : Nat) (f : Link → Link) : (s.modLink n f).time = s.time := rfl
@[simp] theorem State.modLink_site (n : Nat) (f : Link → Link) : (s.modLink n f).site = s.site := rfl
@[simp] theorem State.modLink_pcie (n : Nat) (f : Link → Link) : (s.modLink n f).pcie = s.pcie := rfl
@[simp] theorem State.modLink_secs (n : Nat) (f : Link → Link) : (s.modLink n f).secs = s.secs := rfl
@[simp] theorem State.modLink_spdm (n : Nat) (f : Link → Link) : (s.modLink n f).spdm = s.spdm := rfl
@[simp] theorem State.modLink_conns (n : Nat) (f : Link → Link) : (s.modLink n f).conns = s.conns := rfl
@[simp] theorem State.modLink_dies (n : Nat) (f : Link → Link) : (s.modLink n f).dies = s.dies := rfl
@[simp] theorem State.modLink_coolant (n : Nat) (f : Link → Link) : (s.modLink n f).coolant = s.coolant := rfl
@[simp] theorem State.modLink_ledgers (n : Nat) (f : Link → Link) : (s.modLink n f).ledgers = s.ledgers := rfl
@[simp] theorem State.modLink_log (n : Nat) (f : Link → Link) : (s.modLink n f).log = s.log := rfl
@[simp] theorem State.modLink_logNext (n : Nat) (f : Link → Link) : (s.modLink n f).logNext = s.logNext := rfl
@[simp] theorem State.modLink_views (n : Nat) (f : Link → Link) : (s.modLink n f).views = s.views := rfl
@[simp] theorem State.modLink_snaps (n : Nat) (f : Link → Link) : (s.modLink n f).snaps = s.snaps := rfl
@[simp] theorem State.modLink_snapView (n : Nat) (f : Link → Link) : (s.modLink n f).snapView = s.snapView := rfl
@[simp] theorem State.modLink_hubGrps (n : Nat) (f : Link → Link) : (s.modLink n f).hubGrps = s.hubGrps := rfl
@[simp] theorem State.modLink_draws (n : Nat) (f : Link → Link) : (s.modLink n f).draws = s.draws := rfl
@[simp] theorem State.modLink_out (n : Nat) (f : Link → Link) : (s.modLink n f).out = s.out := rfl
@[simp] theorem State.modLink_freeIdx (n : Nat) (f : Link → Link) : (s.modLink n f).freeIdx = s.freeIdx := rfl

/-! ### State.modRing -/

@[simp] theorem State.modRing_rings (n : Nat) (f : Ring → Ring) : (s.modRing n f).rings = SMap.modify {} s.rings n f := rfl
@[simp] theorem State.modRing_pending (n : Nat) (f : Ring → Ring) : (s.modRing n f).pending = s.pending := rfl
@[simp] theorem State.modRing_now (n : Nat) (f : Ring → Ring) : (s.modRing n f).now = s.now := rfl
@[simp] theorem State.modRing_settings (n : Nat) (f : Ring → Ring) : (s.modRing n f).settings = s.settings := rfl
@[simp] theorem State.modRing_flash (n : Nat) (f : Ring → Ring) : (s.modRing n f).flash = s.flash := rfl
@[simp] theorem State.modRing_startup (n : Nat) (f : Ring → Ring) : (s.modRing n f).startup = s.startup := rfl
@[simp] theorem State.modRing_regs (n : Nat) (f : Ring → Ring) : (s.modRing n f).regs = s.regs := rfl
@[simp] theorem State.modRing_mem (n : Nat) (f : Ring → Ring) : (s.modRing n f).mem = s.mem := rfl
@[simp] theorem State.modRing_written (n : Nat) (f : Ring → Ring) : (s.modRing n f).written = s.written := rfl
@[simp] theorem State.modRing_poison (n : Nat) (f : Ring → Ring) : (s.modRing n f).poison = s.poison := rfl
@[simp] theorem State.modRing_cmds (n : Nat) (f : Ring → Ring) : (s.modRing n f).cmds = s.cmds := rfl
@[simp] theorem State.modRing_nextCmd (n : Nat) (f : Ring → Ring) : (s.modRing n f).nextCmd = s.nextCmd := rfl
@[simp] theorem State.modRing_reqs (n : Nat) (f : Ring → Ring) : (s.modRing n f).reqs = s.reqs := rfl
@[simp] theorem State.modRing_nextReq (n : Nat) (f : Ring → Ring) : (s.modRing n f).nextReq = s.nextReq := rfl
@[simp] theorem State.modRing_ctxs (n : Nat) (f : Ring → Ring) : (s.modRing n f).ctxs = s.ctxs := rfl
@[simp] theorem State.modRing_cores (n : Nat) (f : Ring → Ring) : (s.modRing n f).cores = s.cores := rfl
@[simp] theorem State.modRing_sems (n : Nat) (f : Ring → Ring) : (s.modRing n f).sems = s.sems := rfl
@[simp] theorem State.modRing_ctrs (n : Nat) (f : Ring → Ring) : (s.modRing n f).ctrs = s.ctrs := rfl
@[simp] theorem State.modRing_lintels (n : Nat) (f : Ring → Ring) : (s.modRing n f).lintels = s.lintels := rfl
@[simp] theorem State.modRing_clusters (n : Nat) (f : Ring → Ring) : (s.modRing n f).clusters = s.clusters := rfl
@[simp] theorem State.modRing_coreDoms (n : Nat) (f : Ring → Ring) : (s.modRing n f).coreDoms = s.coreDoms := rfl
@[simp] theorem State.modRing_persists (n : Nat) (f : Ring → Ring) : (s.modRing n f).persists = s.persists := rfl
@[simp] theorem State.modRing_engines (n : Nat) (f : Ring → Ring) : (s.modRing n f).engines = s.engines := rfl
@[simp] theorem State.modRing_quads (n : Nat) (f : Ring → Ring) : (s.modRing n f).quads = s.quads := rfl
@[simp] theorem State.modRing_hods (n : Nat) (f : Ring → Ring) : (s.modRing n f).hods = s.hods := rfl
@[simp] theorem State.modRing_audits (n : Nat) (f : Ring → Ring) : (s.modRing n f).audits = s.audits := rfl
@[simp] theorem State.modRing_guards (n : Nat) (f : Ring → Ring) : (s.modRing n f).guards = s.guards := rfl
@[simp] theorem State.modRing_chans (n : Nat) (f : Ring → Ring) : (s.modRing n f).chans = s.chans := rfl
@[simp] theorem State.modRing_stks (n : Nat) (f : Ring → Ring) : (s.modRing n f).stks = s.stks := rfl
@[simp] theorem State.modRing_fences (n : Nat) (f : Ring → Ring) : (s.modRing n f).fences = s.fences := rfl
@[simp] theorem State.modRing_tiers (n : Nat) (f : Ring → Ring) : (s.modRing n f).tiers = s.tiers := rfl
@[simp] theorem State.modRing_pkgRej (n : Nat) (f : Ring → Ring) : (s.modRing n f).pkgRej = s.pkgRej := rfl
@[simp] theorem State.modRing_ports (n : Nat) (f : Ring → Ring) : (s.modRing n f).ports = s.ports := rfl
@[simp] theorem State.modRing_courses (n : Nat) (f : Ring → Ring) : (s.modRing n f).courses = s.courses := rfl
@[simp] theorem State.modRing_shards (n : Nat) (f : Ring → Ring) : (s.modRing n f).shards = s.shards := rfl
@[simp] theorem State.modRing_time (n : Nat) (f : Ring → Ring) : (s.modRing n f).time = s.time := rfl
@[simp] theorem State.modRing_links (n : Nat) (f : Ring → Ring) : (s.modRing n f).links = s.links := rfl
@[simp] theorem State.modRing_site (n : Nat) (f : Ring → Ring) : (s.modRing n f).site = s.site := rfl
@[simp] theorem State.modRing_pcie (n : Nat) (f : Ring → Ring) : (s.modRing n f).pcie = s.pcie := rfl
@[simp] theorem State.modRing_secs (n : Nat) (f : Ring → Ring) : (s.modRing n f).secs = s.secs := rfl
@[simp] theorem State.modRing_spdm (n : Nat) (f : Ring → Ring) : (s.modRing n f).spdm = s.spdm := rfl
@[simp] theorem State.modRing_conns (n : Nat) (f : Ring → Ring) : (s.modRing n f).conns = s.conns := rfl
@[simp] theorem State.modRing_dies (n : Nat) (f : Ring → Ring) : (s.modRing n f).dies = s.dies := rfl
@[simp] theorem State.modRing_coolant (n : Nat) (f : Ring → Ring) : (s.modRing n f).coolant = s.coolant := rfl
@[simp] theorem State.modRing_ledgers (n : Nat) (f : Ring → Ring) : (s.modRing n f).ledgers = s.ledgers := rfl
@[simp] theorem State.modRing_log (n : Nat) (f : Ring → Ring) : (s.modRing n f).log = s.log := rfl
@[simp] theorem State.modRing_logNext (n : Nat) (f : Ring → Ring) : (s.modRing n f).logNext = s.logNext := rfl
@[simp] theorem State.modRing_views (n : Nat) (f : Ring → Ring) : (s.modRing n f).views = s.views := rfl
@[simp] theorem State.modRing_snaps (n : Nat) (f : Ring → Ring) : (s.modRing n f).snaps = s.snaps := rfl
@[simp] theorem State.modRing_snapView (n : Nat) (f : Ring → Ring) : (s.modRing n f).snapView = s.snapView := rfl
@[simp] theorem State.modRing_hubGrps (n : Nat) (f : Ring → Ring) : (s.modRing n f).hubGrps = s.hubGrps := rfl
@[simp] theorem State.modRing_draws (n : Nat) (f : Ring → Ring) : (s.modRing n f).draws = s.draws := rfl
@[simp] theorem State.modRing_out (n : Nat) (f : Ring → Ring) : (s.modRing n f).out = s.out := rfl
@[simp] theorem State.modRing_freeIdx (n : Nat) (f : Ring → Ring) : (s.modRing n f).freeIdx = s.freeIdx := rfl

/-! ### State.modSec -/

@[simp] theorem State.modSec_secs (n : Nat) (f : Sec → Sec) : (s.modSec n f).secs = SMap.modify {} s.secs n f := rfl
@[simp] theorem State.modSec_pending (n : Nat) (f : Sec → Sec) : (s.modSec n f).pending = s.pending := rfl
@[simp] theorem State.modSec_now (n : Nat) (f : Sec → Sec) : (s.modSec n f).now = s.now := rfl
@[simp] theorem State.modSec_settings (n : Nat) (f : Sec → Sec) : (s.modSec n f).settings = s.settings := rfl
@[simp] theorem State.modSec_flash (n : Nat) (f : Sec → Sec) : (s.modSec n f).flash = s.flash := rfl
@[simp] theorem State.modSec_startup (n : Nat) (f : Sec → Sec) : (s.modSec n f).startup = s.startup := rfl
@[simp] theorem State.modSec_regs (n : Nat) (f : Sec → Sec) : (s.modSec n f).regs = s.regs := rfl
@[simp] theorem State.modSec_mem (n : Nat) (f : Sec → Sec) : (s.modSec n f).mem = s.mem := rfl
@[simp] theorem State.modSec_written (n : Nat) (f : Sec → Sec) : (s.modSec n f).written = s.written := rfl
@[simp] theorem State.modSec_poison (n : Nat) (f : Sec → Sec) : (s.modSec n f).poison = s.poison := rfl
@[simp] theorem State.modSec_rings (n : Nat) (f : Sec → Sec) : (s.modSec n f).rings = s.rings := rfl
@[simp] theorem State.modSec_cmds (n : Nat) (f : Sec → Sec) : (s.modSec n f).cmds = s.cmds := rfl
@[simp] theorem State.modSec_nextCmd (n : Nat) (f : Sec → Sec) : (s.modSec n f).nextCmd = s.nextCmd := rfl
@[simp] theorem State.modSec_reqs (n : Nat) (f : Sec → Sec) : (s.modSec n f).reqs = s.reqs := rfl
@[simp] theorem State.modSec_nextReq (n : Nat) (f : Sec → Sec) : (s.modSec n f).nextReq = s.nextReq := rfl
@[simp] theorem State.modSec_ctxs (n : Nat) (f : Sec → Sec) : (s.modSec n f).ctxs = s.ctxs := rfl
@[simp] theorem State.modSec_cores (n : Nat) (f : Sec → Sec) : (s.modSec n f).cores = s.cores := rfl
@[simp] theorem State.modSec_sems (n : Nat) (f : Sec → Sec) : (s.modSec n f).sems = s.sems := rfl
@[simp] theorem State.modSec_ctrs (n : Nat) (f : Sec → Sec) : (s.modSec n f).ctrs = s.ctrs := rfl
@[simp] theorem State.modSec_lintels (n : Nat) (f : Sec → Sec) : (s.modSec n f).lintels = s.lintels := rfl
@[simp] theorem State.modSec_clusters (n : Nat) (f : Sec → Sec) : (s.modSec n f).clusters = s.clusters := rfl
@[simp] theorem State.modSec_coreDoms (n : Nat) (f : Sec → Sec) : (s.modSec n f).coreDoms = s.coreDoms := rfl
@[simp] theorem State.modSec_persists (n : Nat) (f : Sec → Sec) : (s.modSec n f).persists = s.persists := rfl
@[simp] theorem State.modSec_engines (n : Nat) (f : Sec → Sec) : (s.modSec n f).engines = s.engines := rfl
@[simp] theorem State.modSec_quads (n : Nat) (f : Sec → Sec) : (s.modSec n f).quads = s.quads := rfl
@[simp] theorem State.modSec_hods (n : Nat) (f : Sec → Sec) : (s.modSec n f).hods = s.hods := rfl
@[simp] theorem State.modSec_audits (n : Nat) (f : Sec → Sec) : (s.modSec n f).audits = s.audits := rfl
@[simp] theorem State.modSec_guards (n : Nat) (f : Sec → Sec) : (s.modSec n f).guards = s.guards := rfl
@[simp] theorem State.modSec_chans (n : Nat) (f : Sec → Sec) : (s.modSec n f).chans = s.chans := rfl
@[simp] theorem State.modSec_stks (n : Nat) (f : Sec → Sec) : (s.modSec n f).stks = s.stks := rfl
@[simp] theorem State.modSec_fences (n : Nat) (f : Sec → Sec) : (s.modSec n f).fences = s.fences := rfl
@[simp] theorem State.modSec_tiers (n : Nat) (f : Sec → Sec) : (s.modSec n f).tiers = s.tiers := rfl
@[simp] theorem State.modSec_pkgRej (n : Nat) (f : Sec → Sec) : (s.modSec n f).pkgRej = s.pkgRej := rfl
@[simp] theorem State.modSec_ports (n : Nat) (f : Sec → Sec) : (s.modSec n f).ports = s.ports := rfl
@[simp] theorem State.modSec_courses (n : Nat) (f : Sec → Sec) : (s.modSec n f).courses = s.courses := rfl
@[simp] theorem State.modSec_shards (n : Nat) (f : Sec → Sec) : (s.modSec n f).shards = s.shards := rfl
@[simp] theorem State.modSec_time (n : Nat) (f : Sec → Sec) : (s.modSec n f).time = s.time := rfl
@[simp] theorem State.modSec_links (n : Nat) (f : Sec → Sec) : (s.modSec n f).links = s.links := rfl
@[simp] theorem State.modSec_site (n : Nat) (f : Sec → Sec) : (s.modSec n f).site = s.site := rfl
@[simp] theorem State.modSec_pcie (n : Nat) (f : Sec → Sec) : (s.modSec n f).pcie = s.pcie := rfl
@[simp] theorem State.modSec_spdm (n : Nat) (f : Sec → Sec) : (s.modSec n f).spdm = s.spdm := rfl
@[simp] theorem State.modSec_conns (n : Nat) (f : Sec → Sec) : (s.modSec n f).conns = s.conns := rfl
@[simp] theorem State.modSec_dies (n : Nat) (f : Sec → Sec) : (s.modSec n f).dies = s.dies := rfl
@[simp] theorem State.modSec_coolant (n : Nat) (f : Sec → Sec) : (s.modSec n f).coolant = s.coolant := rfl
@[simp] theorem State.modSec_ledgers (n : Nat) (f : Sec → Sec) : (s.modSec n f).ledgers = s.ledgers := rfl
@[simp] theorem State.modSec_log (n : Nat) (f : Sec → Sec) : (s.modSec n f).log = s.log := rfl
@[simp] theorem State.modSec_logNext (n : Nat) (f : Sec → Sec) : (s.modSec n f).logNext = s.logNext := rfl
@[simp] theorem State.modSec_views (n : Nat) (f : Sec → Sec) : (s.modSec n f).views = s.views := rfl
@[simp] theorem State.modSec_snaps (n : Nat) (f : Sec → Sec) : (s.modSec n f).snaps = s.snaps := rfl
@[simp] theorem State.modSec_snapView (n : Nat) (f : Sec → Sec) : (s.modSec n f).snapView = s.snapView := rfl
@[simp] theorem State.modSec_hubGrps (n : Nat) (f : Sec → Sec) : (s.modSec n f).hubGrps = s.hubGrps := rfl
@[simp] theorem State.modSec_draws (n : Nat) (f : Sec → Sec) : (s.modSec n f).draws = s.draws := rfl
@[simp] theorem State.modSec_out (n : Nat) (f : Sec → Sec) : (s.modSec n f).out = s.out := rfl
@[simp] theorem State.modSec_freeIdx (n : Nat) (f : Sec → Sec) : (s.modSec n f).freeIdx = s.freeIdx := rfl

/-! ### State.modTier -/

@[simp] theorem State.modTier_tiers (n : Nat) (f : Tier → Tier) : (s.modTier n f).tiers = SMap.modify {} s.tiers n f := rfl
@[simp] theorem State.modTier_pending (n : Nat) (f : Tier → Tier) : (s.modTier n f).pending = s.pending := rfl
@[simp] theorem State.modTier_now (n : Nat) (f : Tier → Tier) : (s.modTier n f).now = s.now := rfl
@[simp] theorem State.modTier_settings (n : Nat) (f : Tier → Tier) : (s.modTier n f).settings = s.settings := rfl
@[simp] theorem State.modTier_flash (n : Nat) (f : Tier → Tier) : (s.modTier n f).flash = s.flash := rfl
@[simp] theorem State.modTier_startup (n : Nat) (f : Tier → Tier) : (s.modTier n f).startup = s.startup := rfl
@[simp] theorem State.modTier_regs (n : Nat) (f : Tier → Tier) : (s.modTier n f).regs = s.regs := rfl
@[simp] theorem State.modTier_mem (n : Nat) (f : Tier → Tier) : (s.modTier n f).mem = s.mem := rfl
@[simp] theorem State.modTier_written (n : Nat) (f : Tier → Tier) : (s.modTier n f).written = s.written := rfl
@[simp] theorem State.modTier_poison (n : Nat) (f : Tier → Tier) : (s.modTier n f).poison = s.poison := rfl
@[simp] theorem State.modTier_rings (n : Nat) (f : Tier → Tier) : (s.modTier n f).rings = s.rings := rfl
@[simp] theorem State.modTier_cmds (n : Nat) (f : Tier → Tier) : (s.modTier n f).cmds = s.cmds := rfl
@[simp] theorem State.modTier_nextCmd (n : Nat) (f : Tier → Tier) : (s.modTier n f).nextCmd = s.nextCmd := rfl
@[simp] theorem State.modTier_reqs (n : Nat) (f : Tier → Tier) : (s.modTier n f).reqs = s.reqs := rfl
@[simp] theorem State.modTier_nextReq (n : Nat) (f : Tier → Tier) : (s.modTier n f).nextReq = s.nextReq := rfl
@[simp] theorem State.modTier_ctxs (n : Nat) (f : Tier → Tier) : (s.modTier n f).ctxs = s.ctxs := rfl
@[simp] theorem State.modTier_cores (n : Nat) (f : Tier → Tier) : (s.modTier n f).cores = s.cores := rfl
@[simp] theorem State.modTier_sems (n : Nat) (f : Tier → Tier) : (s.modTier n f).sems = s.sems := rfl
@[simp] theorem State.modTier_ctrs (n : Nat) (f : Tier → Tier) : (s.modTier n f).ctrs = s.ctrs := rfl
@[simp] theorem State.modTier_lintels (n : Nat) (f : Tier → Tier) : (s.modTier n f).lintels = s.lintels := rfl
@[simp] theorem State.modTier_clusters (n : Nat) (f : Tier → Tier) : (s.modTier n f).clusters = s.clusters := rfl
@[simp] theorem State.modTier_coreDoms (n : Nat) (f : Tier → Tier) : (s.modTier n f).coreDoms = s.coreDoms := rfl
@[simp] theorem State.modTier_persists (n : Nat) (f : Tier → Tier) : (s.modTier n f).persists = s.persists := rfl
@[simp] theorem State.modTier_engines (n : Nat) (f : Tier → Tier) : (s.modTier n f).engines = s.engines := rfl
@[simp] theorem State.modTier_quads (n : Nat) (f : Tier → Tier) : (s.modTier n f).quads = s.quads := rfl
@[simp] theorem State.modTier_hods (n : Nat) (f : Tier → Tier) : (s.modTier n f).hods = s.hods := rfl
@[simp] theorem State.modTier_audits (n : Nat) (f : Tier → Tier) : (s.modTier n f).audits = s.audits := rfl
@[simp] theorem State.modTier_guards (n : Nat) (f : Tier → Tier) : (s.modTier n f).guards = s.guards := rfl
@[simp] theorem State.modTier_chans (n : Nat) (f : Tier → Tier) : (s.modTier n f).chans = s.chans := rfl
@[simp] theorem State.modTier_stks (n : Nat) (f : Tier → Tier) : (s.modTier n f).stks = s.stks := rfl
@[simp] theorem State.modTier_fences (n : Nat) (f : Tier → Tier) : (s.modTier n f).fences = s.fences := rfl
@[simp] theorem State.modTier_pkgRej (n : Nat) (f : Tier → Tier) : (s.modTier n f).pkgRej = s.pkgRej := rfl
@[simp] theorem State.modTier_ports (n : Nat) (f : Tier → Tier) : (s.modTier n f).ports = s.ports := rfl
@[simp] theorem State.modTier_courses (n : Nat) (f : Tier → Tier) : (s.modTier n f).courses = s.courses := rfl
@[simp] theorem State.modTier_shards (n : Nat) (f : Tier → Tier) : (s.modTier n f).shards = s.shards := rfl
@[simp] theorem State.modTier_time (n : Nat) (f : Tier → Tier) : (s.modTier n f).time = s.time := rfl
@[simp] theorem State.modTier_links (n : Nat) (f : Tier → Tier) : (s.modTier n f).links = s.links := rfl
@[simp] theorem State.modTier_site (n : Nat) (f : Tier → Tier) : (s.modTier n f).site = s.site := rfl
@[simp] theorem State.modTier_pcie (n : Nat) (f : Tier → Tier) : (s.modTier n f).pcie = s.pcie := rfl
@[simp] theorem State.modTier_secs (n : Nat) (f : Tier → Tier) : (s.modTier n f).secs = s.secs := rfl
@[simp] theorem State.modTier_spdm (n : Nat) (f : Tier → Tier) : (s.modTier n f).spdm = s.spdm := rfl
@[simp] theorem State.modTier_conns (n : Nat) (f : Tier → Tier) : (s.modTier n f).conns = s.conns := rfl
@[simp] theorem State.modTier_dies (n : Nat) (f : Tier → Tier) : (s.modTier n f).dies = s.dies := rfl
@[simp] theorem State.modTier_coolant (n : Nat) (f : Tier → Tier) : (s.modTier n f).coolant = s.coolant := rfl
@[simp] theorem State.modTier_ledgers (n : Nat) (f : Tier → Tier) : (s.modTier n f).ledgers = s.ledgers := rfl
@[simp] theorem State.modTier_log (n : Nat) (f : Tier → Tier) : (s.modTier n f).log = s.log := rfl
@[simp] theorem State.modTier_logNext (n : Nat) (f : Tier → Tier) : (s.modTier n f).logNext = s.logNext := rfl
@[simp] theorem State.modTier_views (n : Nat) (f : Tier → Tier) : (s.modTier n f).views = s.views := rfl
@[simp] theorem State.modTier_snaps (n : Nat) (f : Tier → Tier) : (s.modTier n f).snaps = s.snaps := rfl
@[simp] theorem State.modTier_snapView (n : Nat) (f : Tier → Tier) : (s.modTier n f).snapView = s.snapView := rfl
@[simp] theorem State.modTier_hubGrps (n : Nat) (f : Tier → Tier) : (s.modTier n f).hubGrps = s.hubGrps := rfl
@[simp] theorem State.modTier_draws (n : Nat) (f : Tier → Tier) : (s.modTier n f).draws = s.draws := rfl
@[simp] theorem State.modTier_out (n : Nat) (f : Tier → Tier) : (s.modTier n f).out = s.out := rfl
@[simp] theorem State.modTier_freeIdx (n : Nat) (f : Tier → Tier) : (s.modTier n f).freeIdx = s.freeIdx := rfl

/-! ### State.modLedger -/

@[simp] theorem State.modLedger_ledgers (n : Nat) (f : Ledger → Ledger) : (s.modLedger n f).ledgers = SMap.modify {} s.ledgers n f := rfl
@[simp] theorem State.modLedger_pending (n : Nat) (f : Ledger → Ledger) : (s.modLedger n f).pending = s.pending := rfl
@[simp] theorem State.modLedger_now (n : Nat) (f : Ledger → Ledger) : (s.modLedger n f).now = s.now := rfl
@[simp] theorem State.modLedger_settings (n : Nat) (f : Ledger → Ledger) : (s.modLedger n f).settings = s.settings := rfl
@[simp] theorem State.modLedger_flash (n : Nat) (f : Ledger → Ledger) : (s.modLedger n f).flash = s.flash := rfl
@[simp] theorem State.modLedger_startup (n : Nat) (f : Ledger → Ledger) : (s.modLedger n f).startup = s.startup := rfl
@[simp] theorem State.modLedger_regs (n : Nat) (f : Ledger → Ledger) : (s.modLedger n f).regs = s.regs := rfl
@[simp] theorem State.modLedger_mem (n : Nat) (f : Ledger → Ledger) : (s.modLedger n f).mem = s.mem := rfl
@[simp] theorem State.modLedger_written (n : Nat) (f : Ledger → Ledger) : (s.modLedger n f).written = s.written := rfl
@[simp] theorem State.modLedger_poison (n : Nat) (f : Ledger → Ledger) : (s.modLedger n f).poison = s.poison := rfl
@[simp] theorem State.modLedger_rings (n : Nat) (f : Ledger → Ledger) : (s.modLedger n f).rings = s.rings := rfl
@[simp] theorem State.modLedger_cmds (n : Nat) (f : Ledger → Ledger) : (s.modLedger n f).cmds = s.cmds := rfl
@[simp] theorem State.modLedger_nextCmd (n : Nat) (f : Ledger → Ledger) : (s.modLedger n f).nextCmd = s.nextCmd := rfl
@[simp] theorem State.modLedger_reqs (n : Nat) (f : Ledger → Ledger) : (s.modLedger n f).reqs = s.reqs := rfl
@[simp] theorem State.modLedger_nextReq (n : Nat) (f : Ledger → Ledger) : (s.modLedger n f).nextReq = s.nextReq := rfl
@[simp] theorem State.modLedger_ctxs (n : Nat) (f : Ledger → Ledger) : (s.modLedger n f).ctxs = s.ctxs := rfl
@[simp] theorem State.modLedger_cores (n : Nat) (f : Ledger → Ledger) : (s.modLedger n f).cores = s.cores := rfl
@[simp] theorem State.modLedger_sems (n : Nat) (f : Ledger → Ledger) : (s.modLedger n f).sems = s.sems := rfl
@[simp] theorem State.modLedger_ctrs (n : Nat) (f : Ledger → Ledger) : (s.modLedger n f).ctrs = s.ctrs := rfl
@[simp] theorem State.modLedger_lintels (n : Nat) (f : Ledger → Ledger) : (s.modLedger n f).lintels = s.lintels := rfl
@[simp] theorem State.modLedger_clusters (n : Nat) (f : Ledger → Ledger) : (s.modLedger n f).clusters = s.clusters := rfl
@[simp] theorem State.modLedger_coreDoms (n : Nat) (f : Ledger → Ledger) : (s.modLedger n f).coreDoms = s.coreDoms := rfl
@[simp] theorem State.modLedger_persists (n : Nat) (f : Ledger → Ledger) : (s.modLedger n f).persists = s.persists := rfl
@[simp] theorem State.modLedger_engines (n : Nat) (f : Ledger → Ledger) : (s.modLedger n f).engines = s.engines := rfl
@[simp] theorem State.modLedger_quads (n : Nat) (f : Ledger → Ledger) : (s.modLedger n f).quads = s.quads := rfl
@[simp] theorem State.modLedger_hods (n : Nat) (f : Ledger → Ledger) : (s.modLedger n f).hods = s.hods := rfl
@[simp] theorem State.modLedger_audits (n : Nat) (f : Ledger → Ledger) : (s.modLedger n f).audits = s.audits := rfl
@[simp] theorem State.modLedger_guards (n : Nat) (f : Ledger → Ledger) : (s.modLedger n f).guards = s.guards := rfl
@[simp] theorem State.modLedger_chans (n : Nat) (f : Ledger → Ledger) : (s.modLedger n f).chans = s.chans := rfl
@[simp] theorem State.modLedger_stks (n : Nat) (f : Ledger → Ledger) : (s.modLedger n f).stks = s.stks := rfl
@[simp] theorem State.modLedger_fences (n : Nat) (f : Ledger → Ledger) : (s.modLedger n f).fences = s.fences := rfl
@[simp] theorem State.modLedger_tiers (n : Nat) (f : Ledger → Ledger) : (s.modLedger n f).tiers = s.tiers := rfl
@[simp] theorem State.modLedger_pkgRej (n : Nat) (f : Ledger → Ledger) : (s.modLedger n f).pkgRej = s.pkgRej := rfl
@[simp] theorem State.modLedger_ports (n : Nat) (f : Ledger → Ledger) : (s.modLedger n f).ports = s.ports := rfl
@[simp] theorem State.modLedger_courses (n : Nat) (f : Ledger → Ledger) : (s.modLedger n f).courses = s.courses := rfl
@[simp] theorem State.modLedger_shards (n : Nat) (f : Ledger → Ledger) : (s.modLedger n f).shards = s.shards := rfl
@[simp] theorem State.modLedger_time (n : Nat) (f : Ledger → Ledger) : (s.modLedger n f).time = s.time := rfl
@[simp] theorem State.modLedger_links (n : Nat) (f : Ledger → Ledger) : (s.modLedger n f).links = s.links := rfl
@[simp] theorem State.modLedger_site (n : Nat) (f : Ledger → Ledger) : (s.modLedger n f).site = s.site := rfl
@[simp] theorem State.modLedger_pcie (n : Nat) (f : Ledger → Ledger) : (s.modLedger n f).pcie = s.pcie := rfl
@[simp] theorem State.modLedger_secs (n : Nat) (f : Ledger → Ledger) : (s.modLedger n f).secs = s.secs := rfl
@[simp] theorem State.modLedger_spdm (n : Nat) (f : Ledger → Ledger) : (s.modLedger n f).spdm = s.spdm := rfl
@[simp] theorem State.modLedger_conns (n : Nat) (f : Ledger → Ledger) : (s.modLedger n f).conns = s.conns := rfl
@[simp] theorem State.modLedger_dies (n : Nat) (f : Ledger → Ledger) : (s.modLedger n f).dies = s.dies := rfl
@[simp] theorem State.modLedger_coolant (n : Nat) (f : Ledger → Ledger) : (s.modLedger n f).coolant = s.coolant := rfl
@[simp] theorem State.modLedger_log (n : Nat) (f : Ledger → Ledger) : (s.modLedger n f).log = s.log := rfl
@[simp] theorem State.modLedger_logNext (n : Nat) (f : Ledger → Ledger) : (s.modLedger n f).logNext = s.logNext := rfl
@[simp] theorem State.modLedger_views (n : Nat) (f : Ledger → Ledger) : (s.modLedger n f).views = s.views := rfl
@[simp] theorem State.modLedger_snaps (n : Nat) (f : Ledger → Ledger) : (s.modLedger n f).snaps = s.snaps := rfl
@[simp] theorem State.modLedger_snapView (n : Nat) (f : Ledger → Ledger) : (s.modLedger n f).snapView = s.snapView := rfl
@[simp] theorem State.modLedger_hubGrps (n : Nat) (f : Ledger → Ledger) : (s.modLedger n f).hubGrps = s.hubGrps := rfl
@[simp] theorem State.modLedger_draws (n : Nat) (f : Ledger → Ledger) : (s.modLedger n f).draws = s.draws := rfl
@[simp] theorem State.modLedger_out (n : Nat) (f : Ledger → Ledger) : (s.modLedger n f).out = s.out := rfl
@[simp] theorem State.modLedger_freeIdx (n : Nat) (f : Ledger → Ledger) : (s.modLedger n f).freeIdx = s.freeIdx := rfl

/-! ### State.modCluster -/

@[simp] theorem State.modCluster_clusters (n : Nat) (f : Cluster → Cluster) : (s.modCluster n f).clusters = SMap.modify {} s.clusters n f := rfl
@[simp] theorem State.modCluster_pending (n : Nat) (f : Cluster → Cluster) : (s.modCluster n f).pending = s.pending := rfl
@[simp] theorem State.modCluster_now (n : Nat) (f : Cluster → Cluster) : (s.modCluster n f).now = s.now := rfl
@[simp] theorem State.modCluster_settings (n : Nat) (f : Cluster → Cluster) : (s.modCluster n f).settings = s.settings := rfl
@[simp] theorem State.modCluster_flash (n : Nat) (f : Cluster → Cluster) : (s.modCluster n f).flash = s.flash := rfl
@[simp] theorem State.modCluster_startup (n : Nat) (f : Cluster → Cluster) : (s.modCluster n f).startup = s.startup := rfl
@[simp] theorem State.modCluster_regs (n : Nat) (f : Cluster → Cluster) : (s.modCluster n f).regs = s.regs := rfl
@[simp] theorem State.modCluster_mem (n : Nat) (f : Cluster → Cluster) : (s.modCluster n f).mem = s.mem := rfl
@[simp] theorem State.modCluster_written (n : Nat) (f : Cluster → Cluster) : (s.modCluster n f).written = s.written := rfl
@[simp] theorem State.modCluster_poison (n : Nat) (f : Cluster → Cluster) : (s.modCluster n f).poison = s.poison := rfl
@[simp] theorem State.modCluster_rings (n : Nat) (f : Cluster → Cluster) : (s.modCluster n f).rings = s.rings := rfl
@[simp] theorem State.modCluster_cmds (n : Nat) (f : Cluster → Cluster) : (s.modCluster n f).cmds = s.cmds := rfl
@[simp] theorem State.modCluster_nextCmd (n : Nat) (f : Cluster → Cluster) : (s.modCluster n f).nextCmd = s.nextCmd := rfl
@[simp] theorem State.modCluster_reqs (n : Nat) (f : Cluster → Cluster) : (s.modCluster n f).reqs = s.reqs := rfl
@[simp] theorem State.modCluster_nextReq (n : Nat) (f : Cluster → Cluster) : (s.modCluster n f).nextReq = s.nextReq := rfl
@[simp] theorem State.modCluster_ctxs (n : Nat) (f : Cluster → Cluster) : (s.modCluster n f).ctxs = s.ctxs := rfl
@[simp] theorem State.modCluster_cores (n : Nat) (f : Cluster → Cluster) : (s.modCluster n f).cores = s.cores := rfl
@[simp] theorem State.modCluster_sems (n : Nat) (f : Cluster → Cluster) : (s.modCluster n f).sems = s.sems := rfl
@[simp] theorem State.modCluster_ctrs (n : Nat) (f : Cluster → Cluster) : (s.modCluster n f).ctrs = s.ctrs := rfl
@[simp] theorem State.modCluster_lintels (n : Nat) (f : Cluster → Cluster) : (s.modCluster n f).lintels = s.lintels := rfl
@[simp] theorem State.modCluster_coreDoms (n : Nat) (f : Cluster → Cluster) : (s.modCluster n f).coreDoms = s.coreDoms := rfl
@[simp] theorem State.modCluster_persists (n : Nat) (f : Cluster → Cluster) : (s.modCluster n f).persists = s.persists := rfl
@[simp] theorem State.modCluster_engines (n : Nat) (f : Cluster → Cluster) : (s.modCluster n f).engines = s.engines := rfl
@[simp] theorem State.modCluster_quads (n : Nat) (f : Cluster → Cluster) : (s.modCluster n f).quads = s.quads := rfl
@[simp] theorem State.modCluster_hods (n : Nat) (f : Cluster → Cluster) : (s.modCluster n f).hods = s.hods := rfl
@[simp] theorem State.modCluster_audits (n : Nat) (f : Cluster → Cluster) : (s.modCluster n f).audits = s.audits := rfl
@[simp] theorem State.modCluster_guards (n : Nat) (f : Cluster → Cluster) : (s.modCluster n f).guards = s.guards := rfl
@[simp] theorem State.modCluster_chans (n : Nat) (f : Cluster → Cluster) : (s.modCluster n f).chans = s.chans := rfl
@[simp] theorem State.modCluster_stks (n : Nat) (f : Cluster → Cluster) : (s.modCluster n f).stks = s.stks := rfl
@[simp] theorem State.modCluster_fences (n : Nat) (f : Cluster → Cluster) : (s.modCluster n f).fences = s.fences := rfl
@[simp] theorem State.modCluster_tiers (n : Nat) (f : Cluster → Cluster) : (s.modCluster n f).tiers = s.tiers := rfl
@[simp] theorem State.modCluster_pkgRej (n : Nat) (f : Cluster → Cluster) : (s.modCluster n f).pkgRej = s.pkgRej := rfl
@[simp] theorem State.modCluster_ports (n : Nat) (f : Cluster → Cluster) : (s.modCluster n f).ports = s.ports := rfl
@[simp] theorem State.modCluster_courses (n : Nat) (f : Cluster → Cluster) : (s.modCluster n f).courses = s.courses := rfl
@[simp] theorem State.modCluster_shards (n : Nat) (f : Cluster → Cluster) : (s.modCluster n f).shards = s.shards := rfl
@[simp] theorem State.modCluster_time (n : Nat) (f : Cluster → Cluster) : (s.modCluster n f).time = s.time := rfl
@[simp] theorem State.modCluster_links (n : Nat) (f : Cluster → Cluster) : (s.modCluster n f).links = s.links := rfl
@[simp] theorem State.modCluster_site (n : Nat) (f : Cluster → Cluster) : (s.modCluster n f).site = s.site := rfl
@[simp] theorem State.modCluster_pcie (n : Nat) (f : Cluster → Cluster) : (s.modCluster n f).pcie = s.pcie := rfl
@[simp] theorem State.modCluster_secs (n : Nat) (f : Cluster → Cluster) : (s.modCluster n f).secs = s.secs := rfl
@[simp] theorem State.modCluster_spdm (n : Nat) (f : Cluster → Cluster) : (s.modCluster n f).spdm = s.spdm := rfl
@[simp] theorem State.modCluster_conns (n : Nat) (f : Cluster → Cluster) : (s.modCluster n f).conns = s.conns := rfl
@[simp] theorem State.modCluster_dies (n : Nat) (f : Cluster → Cluster) : (s.modCluster n f).dies = s.dies := rfl
@[simp] theorem State.modCluster_coolant (n : Nat) (f : Cluster → Cluster) : (s.modCluster n f).coolant = s.coolant := rfl
@[simp] theorem State.modCluster_ledgers (n : Nat) (f : Cluster → Cluster) : (s.modCluster n f).ledgers = s.ledgers := rfl
@[simp] theorem State.modCluster_log (n : Nat) (f : Cluster → Cluster) : (s.modCluster n f).log = s.log := rfl
@[simp] theorem State.modCluster_logNext (n : Nat) (f : Cluster → Cluster) : (s.modCluster n f).logNext = s.logNext := rfl
@[simp] theorem State.modCluster_views (n : Nat) (f : Cluster → Cluster) : (s.modCluster n f).views = s.views := rfl
@[simp] theorem State.modCluster_snaps (n : Nat) (f : Cluster → Cluster) : (s.modCluster n f).snaps = s.snaps := rfl
@[simp] theorem State.modCluster_snapView (n : Nat) (f : Cluster → Cluster) : (s.modCluster n f).snapView = s.snapView := rfl
@[simp] theorem State.modCluster_hubGrps (n : Nat) (f : Cluster → Cluster) : (s.modCluster n f).hubGrps = s.hubGrps := rfl
@[simp] theorem State.modCluster_draws (n : Nat) (f : Cluster → Cluster) : (s.modCluster n f).draws = s.draws := rfl
@[simp] theorem State.modCluster_out (n : Nat) (f : Cluster → Cluster) : (s.modCluster n f).out = s.out := rfl
@[simp] theorem State.modCluster_freeIdx (n : Nat) (f : Cluster → Cluster) : (s.modCluster n f).freeIdx = s.freeIdx := rfl

/-! ### State.modCoreDom -/

@[simp] theorem State.modCoreDom_coreDoms (n : Nat) (f : CoreDom → CoreDom) : (s.modCoreDom n f).coreDoms = SMap.modify {} s.coreDoms n f := rfl
@[simp] theorem State.modCoreDom_pending (n : Nat) (f : CoreDom → CoreDom) : (s.modCoreDom n f).pending = s.pending := rfl
@[simp] theorem State.modCoreDom_now (n : Nat) (f : CoreDom → CoreDom) : (s.modCoreDom n f).now = s.now := rfl
@[simp] theorem State.modCoreDom_settings (n : Nat) (f : CoreDom → CoreDom) : (s.modCoreDom n f).settings = s.settings := rfl
@[simp] theorem State.modCoreDom_flash (n : Nat) (f : CoreDom → CoreDom) : (s.modCoreDom n f).flash = s.flash := rfl
@[simp] theorem State.modCoreDom_startup (n : Nat) (f : CoreDom → CoreDom) : (s.modCoreDom n f).startup = s.startup := rfl
@[simp] theorem State.modCoreDom_regs (n : Nat) (f : CoreDom → CoreDom) : (s.modCoreDom n f).regs = s.regs := rfl
@[simp] theorem State.modCoreDom_mem (n : Nat) (f : CoreDom → CoreDom) : (s.modCoreDom n f).mem = s.mem := rfl
@[simp] theorem State.modCoreDom_written (n : Nat) (f : CoreDom → CoreDom) : (s.modCoreDom n f).written = s.written := rfl
@[simp] theorem State.modCoreDom_poison (n : Nat) (f : CoreDom → CoreDom) : (s.modCoreDom n f).poison = s.poison := rfl
@[simp] theorem State.modCoreDom_rings (n : Nat) (f : CoreDom → CoreDom) : (s.modCoreDom n f).rings = s.rings := rfl
@[simp] theorem State.modCoreDom_cmds (n : Nat) (f : CoreDom → CoreDom) : (s.modCoreDom n f).cmds = s.cmds := rfl
@[simp] theorem State.modCoreDom_nextCmd (n : Nat) (f : CoreDom → CoreDom) : (s.modCoreDom n f).nextCmd = s.nextCmd := rfl
@[simp] theorem State.modCoreDom_reqs (n : Nat) (f : CoreDom → CoreDom) : (s.modCoreDom n f).reqs = s.reqs := rfl
@[simp] theorem State.modCoreDom_nextReq (n : Nat) (f : CoreDom → CoreDom) : (s.modCoreDom n f).nextReq = s.nextReq := rfl
@[simp] theorem State.modCoreDom_ctxs (n : Nat) (f : CoreDom → CoreDom) : (s.modCoreDom n f).ctxs = s.ctxs := rfl
@[simp] theorem State.modCoreDom_cores (n : Nat) (f : CoreDom → CoreDom) : (s.modCoreDom n f).cores = s.cores := rfl
@[simp] theorem State.modCoreDom_sems (n : Nat) (f : CoreDom → CoreDom) : (s.modCoreDom n f).sems = s.sems := rfl
@[simp] theorem State.modCoreDom_ctrs (n : Nat) (f : CoreDom → CoreDom) : (s.modCoreDom n f).ctrs = s.ctrs := rfl
@[simp] theorem State.modCoreDom_lintels (n : Nat) (f : CoreDom → CoreDom) : (s.modCoreDom n f).lintels = s.lintels := rfl
@[simp] theorem State.modCoreDom_clusters (n : Nat) (f : CoreDom → CoreDom) : (s.modCoreDom n f).clusters = s.clusters := rfl
@[simp] theorem State.modCoreDom_persists (n : Nat) (f : CoreDom → CoreDom) : (s.modCoreDom n f).persists = s.persists := rfl
@[simp] theorem State.modCoreDom_engines (n : Nat) (f : CoreDom → CoreDom) : (s.modCoreDom n f).engines = s.engines := rfl
@[simp] theorem State.modCoreDom_quads (n : Nat) (f : CoreDom → CoreDom) : (s.modCoreDom n f).quads = s.quads := rfl
@[simp] theorem State.modCoreDom_hods (n : Nat) (f : CoreDom → CoreDom) : (s.modCoreDom n f).hods = s.hods := rfl
@[simp] theorem State.modCoreDom_audits (n : Nat) (f : CoreDom → CoreDom) : (s.modCoreDom n f).audits = s.audits := rfl
@[simp] theorem State.modCoreDom_guards (n : Nat) (f : CoreDom → CoreDom) : (s.modCoreDom n f).guards = s.guards := rfl
@[simp] theorem State.modCoreDom_chans (n : Nat) (f : CoreDom → CoreDom) : (s.modCoreDom n f).chans = s.chans := rfl
@[simp] theorem State.modCoreDom_stks (n : Nat) (f : CoreDom → CoreDom) : (s.modCoreDom n f).stks = s.stks := rfl
@[simp] theorem State.modCoreDom_fences (n : Nat) (f : CoreDom → CoreDom) : (s.modCoreDom n f).fences = s.fences := rfl
@[simp] theorem State.modCoreDom_tiers (n : Nat) (f : CoreDom → CoreDom) : (s.modCoreDom n f).tiers = s.tiers := rfl
@[simp] theorem State.modCoreDom_pkgRej (n : Nat) (f : CoreDom → CoreDom) : (s.modCoreDom n f).pkgRej = s.pkgRej := rfl
@[simp] theorem State.modCoreDom_ports (n : Nat) (f : CoreDom → CoreDom) : (s.modCoreDom n f).ports = s.ports := rfl
@[simp] theorem State.modCoreDom_courses (n : Nat) (f : CoreDom → CoreDom) : (s.modCoreDom n f).courses = s.courses := rfl
@[simp] theorem State.modCoreDom_shards (n : Nat) (f : CoreDom → CoreDom) : (s.modCoreDom n f).shards = s.shards := rfl
@[simp] theorem State.modCoreDom_time (n : Nat) (f : CoreDom → CoreDom) : (s.modCoreDom n f).time = s.time := rfl
@[simp] theorem State.modCoreDom_links (n : Nat) (f : CoreDom → CoreDom) : (s.modCoreDom n f).links = s.links := rfl
@[simp] theorem State.modCoreDom_site (n : Nat) (f : CoreDom → CoreDom) : (s.modCoreDom n f).site = s.site := rfl
@[simp] theorem State.modCoreDom_pcie (n : Nat) (f : CoreDom → CoreDom) : (s.modCoreDom n f).pcie = s.pcie := rfl
@[simp] theorem State.modCoreDom_secs (n : Nat) (f : CoreDom → CoreDom) : (s.modCoreDom n f).secs = s.secs := rfl
@[simp] theorem State.modCoreDom_spdm (n : Nat) (f : CoreDom → CoreDom) : (s.modCoreDom n f).spdm = s.spdm := rfl
@[simp] theorem State.modCoreDom_conns (n : Nat) (f : CoreDom → CoreDom) : (s.modCoreDom n f).conns = s.conns := rfl
@[simp] theorem State.modCoreDom_dies (n : Nat) (f : CoreDom → CoreDom) : (s.modCoreDom n f).dies = s.dies := rfl
@[simp] theorem State.modCoreDom_coolant (n : Nat) (f : CoreDom → CoreDom) : (s.modCoreDom n f).coolant = s.coolant := rfl
@[simp] theorem State.modCoreDom_ledgers (n : Nat) (f : CoreDom → CoreDom) : (s.modCoreDom n f).ledgers = s.ledgers := rfl
@[simp] theorem State.modCoreDom_log (n : Nat) (f : CoreDom → CoreDom) : (s.modCoreDom n f).log = s.log := rfl
@[simp] theorem State.modCoreDom_logNext (n : Nat) (f : CoreDom → CoreDom) : (s.modCoreDom n f).logNext = s.logNext := rfl
@[simp] theorem State.modCoreDom_views (n : Nat) (f : CoreDom → CoreDom) : (s.modCoreDom n f).views = s.views := rfl
@[simp] theorem State.modCoreDom_snaps (n : Nat) (f : CoreDom → CoreDom) : (s.modCoreDom n f).snaps = s.snaps := rfl
@[simp] theorem State.modCoreDom_snapView (n : Nat) (f : CoreDom → CoreDom) : (s.modCoreDom n f).snapView = s.snapView := rfl
@[simp] theorem State.modCoreDom_hubGrps (n : Nat) (f : CoreDom → CoreDom) : (s.modCoreDom n f).hubGrps = s.hubGrps := rfl
@[simp] theorem State.modCoreDom_draws (n : Nat) (f : CoreDom → CoreDom) : (s.modCoreDom n f).draws = s.draws := rfl
@[simp] theorem State.modCoreDom_out (n : Nat) (f : CoreDom → CoreDom) : (s.modCoreDom n f).out = s.out := rfl
@[simp] theorem State.modCoreDom_freeIdx (n : Nat) (f : CoreDom → CoreDom) : (s.modCoreDom n f).freeIdx = s.freeIdx := rfl

/-! ### State.modCmd -/

@[simp] theorem State.modCmd_cmds (i : Nat) (f : Cmd → Cmd) : (s.modCmd i f).cmds = s.cmds.map (fun c => if c.id = i then { f c with id := c.id } else c) := rfl
@[simp] theorem State.modCmd_pending (i : Nat) (f : Cmd → Cmd) : (s.modCmd i f).pending = s.pending := rfl
@[simp] theorem State.modCmd_now (i : Nat) (f : Cmd → Cmd) : (s.modCmd i f).now = s.now := rfl
@[simp] theorem State.modCmd_settings (i : Nat) (f : Cmd → Cmd) : (s.modCmd i f).settings = s.settings := rfl
@[simp] theorem State.modCmd_flash (i : Nat) (f : Cmd → Cmd) : (s.modCmd i f).flash = s.flash := rfl
@[simp] theorem State.modCmd_startup (i : Nat) (f : Cmd → Cmd) : (s.modCmd i f).startup = s.startup := rfl
@[simp] theorem State.modCmd_regs (i : Nat) (f : Cmd → Cmd) : (s.modCmd i f).regs = s.regs := rfl
@[simp] theorem State.modCmd_mem (i : Nat) (f : Cmd → Cmd) : (s.modCmd i f).mem = s.mem := rfl
@[simp] theorem State.modCmd_written (i : Nat) (f : Cmd → Cmd) : (s.modCmd i f).written = s.written := rfl
@[simp] theorem State.modCmd_poison (i : Nat) (f : Cmd → Cmd) : (s.modCmd i f).poison = s.poison := rfl
@[simp] theorem State.modCmd_rings (i : Nat) (f : Cmd → Cmd) : (s.modCmd i f).rings = s.rings := rfl
@[simp] theorem State.modCmd_nextCmd (i : Nat) (f : Cmd → Cmd) : (s.modCmd i f).nextCmd = s.nextCmd := rfl
@[simp] theorem State.modCmd_reqs (i : Nat) (f : Cmd → Cmd) : (s.modCmd i f).reqs = s.reqs := rfl
@[simp] theorem State.modCmd_nextReq (i : Nat) (f : Cmd → Cmd) : (s.modCmd i f).nextReq = s.nextReq := rfl
@[simp] theorem State.modCmd_ctxs (i : Nat) (f : Cmd → Cmd) : (s.modCmd i f).ctxs = s.ctxs := rfl
@[simp] theorem State.modCmd_cores (i : Nat) (f : Cmd → Cmd) : (s.modCmd i f).cores = s.cores := rfl
@[simp] theorem State.modCmd_sems (i : Nat) (f : Cmd → Cmd) : (s.modCmd i f).sems = s.sems := rfl
@[simp] theorem State.modCmd_ctrs (i : Nat) (f : Cmd → Cmd) : (s.modCmd i f).ctrs = s.ctrs := rfl
@[simp] theorem State.modCmd_lintels (i : Nat) (f : Cmd → Cmd) : (s.modCmd i f).lintels = s.lintels := rfl
@[simp] theorem State.modCmd_clusters (i : Nat) (f : Cmd → Cmd) : (s.modCmd i f).clusters = s.clusters := rfl
@[simp] theorem State.modCmd_coreDoms (i : Nat) (f : Cmd → Cmd) : (s.modCmd i f).coreDoms = s.coreDoms := rfl
@[simp] theorem State.modCmd_persists (i : Nat) (f : Cmd → Cmd) : (s.modCmd i f).persists = s.persists := rfl
@[simp] theorem State.modCmd_engines (i : Nat) (f : Cmd → Cmd) : (s.modCmd i f).engines = s.engines := rfl
@[simp] theorem State.modCmd_quads (i : Nat) (f : Cmd → Cmd) : (s.modCmd i f).quads = s.quads := rfl
@[simp] theorem State.modCmd_hods (i : Nat) (f : Cmd → Cmd) : (s.modCmd i f).hods = s.hods := rfl
@[simp] theorem State.modCmd_audits (i : Nat) (f : Cmd → Cmd) : (s.modCmd i f).audits = s.audits := rfl
@[simp] theorem State.modCmd_guards (i : Nat) (f : Cmd → Cmd) : (s.modCmd i f).guards = s.guards := rfl
@[simp] theorem State.modCmd_chans (i : Nat) (f : Cmd → Cmd) : (s.modCmd i f).chans = s.chans := rfl
@[simp] theorem State.modCmd_stks (i : Nat) (f : Cmd → Cmd) : (s.modCmd i f).stks = s.stks := rfl
@[simp] theorem State.modCmd_fences (i : Nat) (f : Cmd → Cmd) : (s.modCmd i f).fences = s.fences := rfl
@[simp] theorem State.modCmd_tiers (i : Nat) (f : Cmd → Cmd) : (s.modCmd i f).tiers = s.tiers := rfl
@[simp] theorem State.modCmd_pkgRej (i : Nat) (f : Cmd → Cmd) : (s.modCmd i f).pkgRej = s.pkgRej := rfl
@[simp] theorem State.modCmd_ports (i : Nat) (f : Cmd → Cmd) : (s.modCmd i f).ports = s.ports := rfl
@[simp] theorem State.modCmd_courses (i : Nat) (f : Cmd → Cmd) : (s.modCmd i f).courses = s.courses := rfl
@[simp] theorem State.modCmd_shards (i : Nat) (f : Cmd → Cmd) : (s.modCmd i f).shards = s.shards := rfl
@[simp] theorem State.modCmd_time (i : Nat) (f : Cmd → Cmd) : (s.modCmd i f).time = s.time := rfl
@[simp] theorem State.modCmd_links (i : Nat) (f : Cmd → Cmd) : (s.modCmd i f).links = s.links := rfl
@[simp] theorem State.modCmd_site (i : Nat) (f : Cmd → Cmd) : (s.modCmd i f).site = s.site := rfl
@[simp] theorem State.modCmd_pcie (i : Nat) (f : Cmd → Cmd) : (s.modCmd i f).pcie = s.pcie := rfl
@[simp] theorem State.modCmd_secs (i : Nat) (f : Cmd → Cmd) : (s.modCmd i f).secs = s.secs := rfl
@[simp] theorem State.modCmd_spdm (i : Nat) (f : Cmd → Cmd) : (s.modCmd i f).spdm = s.spdm := rfl
@[simp] theorem State.modCmd_conns (i : Nat) (f : Cmd → Cmd) : (s.modCmd i f).conns = s.conns := rfl
@[simp] theorem State.modCmd_dies (i : Nat) (f : Cmd → Cmd) : (s.modCmd i f).dies = s.dies := rfl
@[simp] theorem State.modCmd_coolant (i : Nat) (f : Cmd → Cmd) : (s.modCmd i f).coolant = s.coolant := rfl
@[simp] theorem State.modCmd_ledgers (i : Nat) (f : Cmd → Cmd) : (s.modCmd i f).ledgers = s.ledgers := rfl
@[simp] theorem State.modCmd_log (i : Nat) (f : Cmd → Cmd) : (s.modCmd i f).log = s.log := rfl
@[simp] theorem State.modCmd_logNext (i : Nat) (f : Cmd → Cmd) : (s.modCmd i f).logNext = s.logNext := rfl
@[simp] theorem State.modCmd_views (i : Nat) (f : Cmd → Cmd) : (s.modCmd i f).views = s.views := rfl
@[simp] theorem State.modCmd_snaps (i : Nat) (f : Cmd → Cmd) : (s.modCmd i f).snaps = s.snaps := rfl
@[simp] theorem State.modCmd_snapView (i : Nat) (f : Cmd → Cmd) : (s.modCmd i f).snapView = s.snapView := rfl
@[simp] theorem State.modCmd_hubGrps (i : Nat) (f : Cmd → Cmd) : (s.modCmd i f).hubGrps = s.hubGrps := rfl
@[simp] theorem State.modCmd_draws (i : Nat) (f : Cmd → Cmd) : (s.modCmd i f).draws = s.draws := rfl
@[simp] theorem State.modCmd_out (i : Nat) (f : Cmd → Cmd) : (s.modCmd i f).out = s.out := rfl
@[simp] theorem State.modCmd_freeIdx (i : Nat) (f : Cmd → Cmd) : (s.modCmd i f).freeIdx = s.freeIdx := rfl

/-! ### State.at_ -/

@[simp] theorem State.atTime_now (t : Nat) : (s.at_ t).now = Nat.max s.now t := rfl
@[simp] theorem State.atTime_pending (t : Nat) : (s.at_ t).pending = s.pending := rfl
@[simp] theorem State.atTime_settings (t : Nat) : (s.at_ t).settings = s.settings := rfl
@[simp] theorem State.atTime_flash (t : Nat) : (s.at_ t).flash = s.flash := rfl
@[simp] theorem State.atTime_startup (t : Nat) : (s.at_ t).startup = s.startup := rfl
@[simp] theorem State.atTime_regs (t : Nat) : (s.at_ t).regs = s.regs := rfl
@[simp] theorem State.atTime_mem (t : Nat) : (s.at_ t).mem = s.mem := rfl
@[simp] theorem State.atTime_written (t : Nat) : (s.at_ t).written = s.written := rfl
@[simp] theorem State.atTime_poison (t : Nat) : (s.at_ t).poison = s.poison := rfl
@[simp] theorem State.atTime_rings (t : Nat) : (s.at_ t).rings = s.rings := rfl
@[simp] theorem State.atTime_cmds (t : Nat) : (s.at_ t).cmds = s.cmds := rfl
@[simp] theorem State.atTime_nextCmd (t : Nat) : (s.at_ t).nextCmd = s.nextCmd := rfl
@[simp] theorem State.atTime_reqs (t : Nat) : (s.at_ t).reqs = s.reqs := rfl
@[simp] theorem State.atTime_nextReq (t : Nat) : (s.at_ t).nextReq = s.nextReq := rfl
@[simp] theorem State.atTime_ctxs (t : Nat) : (s.at_ t).ctxs = s.ctxs := rfl
@[simp] theorem State.atTime_cores (t : Nat) : (s.at_ t).cores = s.cores := rfl
@[simp] theorem State.atTime_sems (t : Nat) : (s.at_ t).sems = s.sems := rfl
@[simp] theorem State.atTime_ctrs (t : Nat) : (s.at_ t).ctrs = s.ctrs := rfl
@[simp] theorem State.atTime_lintels (t : Nat) : (s.at_ t).lintels = s.lintels := rfl
@[simp] theorem State.atTime_clusters (t : Nat) : (s.at_ t).clusters = s.clusters := rfl
@[simp] theorem State.atTime_coreDoms (t : Nat) : (s.at_ t).coreDoms = s.coreDoms := rfl
@[simp] theorem State.atTime_persists (t : Nat) : (s.at_ t).persists = s.persists := rfl
@[simp] theorem State.atTime_engines (t : Nat) : (s.at_ t).engines = s.engines := rfl
@[simp] theorem State.atTime_quads (t : Nat) : (s.at_ t).quads = s.quads := rfl
@[simp] theorem State.atTime_hods (t : Nat) : (s.at_ t).hods = s.hods := rfl
@[simp] theorem State.atTime_audits (t : Nat) : (s.at_ t).audits = s.audits := rfl
@[simp] theorem State.atTime_guards (t : Nat) : (s.at_ t).guards = s.guards := rfl
@[simp] theorem State.atTime_chans (t : Nat) : (s.at_ t).chans = s.chans := rfl
@[simp] theorem State.atTime_stks (t : Nat) : (s.at_ t).stks = s.stks := rfl
@[simp] theorem State.atTime_fences (t : Nat) : (s.at_ t).fences = s.fences := rfl
@[simp] theorem State.atTime_tiers (t : Nat) : (s.at_ t).tiers = s.tiers := rfl
@[simp] theorem State.atTime_pkgRej (t : Nat) : (s.at_ t).pkgRej = s.pkgRej := rfl
@[simp] theorem State.atTime_ports (t : Nat) : (s.at_ t).ports = s.ports := rfl
@[simp] theorem State.atTime_courses (t : Nat) : (s.at_ t).courses = s.courses := rfl
@[simp] theorem State.atTime_shards (t : Nat) : (s.at_ t).shards = s.shards := rfl
@[simp] theorem State.atTime_time (t : Nat) : (s.at_ t).time = s.time := rfl
@[simp] theorem State.atTime_links (t : Nat) : (s.at_ t).links = s.links := rfl
@[simp] theorem State.atTime_site (t : Nat) : (s.at_ t).site = s.site := rfl
@[simp] theorem State.atTime_pcie (t : Nat) : (s.at_ t).pcie = s.pcie := rfl
@[simp] theorem State.atTime_secs (t : Nat) : (s.at_ t).secs = s.secs := rfl
@[simp] theorem State.atTime_spdm (t : Nat) : (s.at_ t).spdm = s.spdm := rfl
@[simp] theorem State.atTime_conns (t : Nat) : (s.at_ t).conns = s.conns := rfl
@[simp] theorem State.atTime_dies (t : Nat) : (s.at_ t).dies = s.dies := rfl
@[simp] theorem State.atTime_coolant (t : Nat) : (s.at_ t).coolant = s.coolant := rfl
@[simp] theorem State.atTime_ledgers (t : Nat) : (s.at_ t).ledgers = s.ledgers := rfl
@[simp] theorem State.atTime_log (t : Nat) : (s.at_ t).log = s.log := rfl
@[simp] theorem State.atTime_logNext (t : Nat) : (s.at_ t).logNext = s.logNext := rfl
@[simp] theorem State.atTime_views (t : Nat) : (s.at_ t).views = s.views := rfl
@[simp] theorem State.atTime_snaps (t : Nat) : (s.at_ t).snaps = s.snaps := rfl
@[simp] theorem State.atTime_snapView (t : Nat) : (s.at_ t).snapView = s.snapView := rfl
@[simp] theorem State.atTime_hubGrps (t : Nat) : (s.at_ t).hubGrps = s.hubGrps := rfl
@[simp] theorem State.atTime_draws (t : Nat) : (s.at_ t).draws = s.draws := rfl
@[simp] theorem State.atTime_out (t : Nat) : (s.at_ t).out = s.out := rfl
@[simp] theorem State.atTime_freeIdx (t : Nat) : (s.at_ t).freeIdx = s.freeIdx := rfl

end Sys2Proof.Machine
end

