-- ==== Sys2Proof/Tests/Slice0.lean ====
section
/-! SUPPORT. The model's own tests: WellFormed refuses ill-formed commands; for every statement with hypotheses, states that meet
them; and single steps with results from spec/, mostly its worked examples. -/

set_option Elab.async false

namespace Sys2Proof.Tests

open Sys2Proof.Machine

/-! ### Ill-formed and well-formed commands -/

theorem test_wf_refuses_1 : ([
    .registerWrite (.hub 16) 611 511 0 none, .registerWrite .host 612 511 0 none, .registerWrite .host 611 512 0 none,
    .blkIrqEnWrite (.hub 16) 611 0 0, .blkIrqEnWrite .host 612 0 0, .blkIrqStatClear (.hub 16) 611 0 0,
    .blkIrqStatClear .host 612 0 0, .msixTableAccess (.read 0x20001 4), .msixTableAccess (.read 0x20450 4),
    .msixTableAccess (.write 0x21010 8 0), .msixTableAccess (.write 0x20000 2 0), .qgSeedWrite (.hub 16) 611 0,
    .qgSeedWrite .host 612 0, .qgKeyClear (.hub 16) 611 0, .qgKeyClear .host 612 0, .guardConfigWrite 16 131071 [0],
    .guardConfigWrite 15 131072 [0], .guardConfigWrite 15 131071 [], .stepBegin 64 none, .guardHistoryPush 4, .tileAudit 384,
    .matmul 64, .fusedCommand 64, .tileSteal 1536 1535, .tileSteal 1535 1536, .rampUpEnd 1536, .sweepEnd 1536 3,
    .sweepEnd 1535 4, .rampDownEnd 1536, .blockDrainEnd 1536 3, .blockDrainEnd 1535 4, .blockConversionEnd 1536 3,
    .blockConversionEnd 1535 4, .epilogueBlock 0 1536, .quantBlock 0 1536, .bndMcastWrite (.hub 16) 611 511 0,
    .bndMcastWrite .host 612 511 0, .bndMcastWrite .host 611 512 0, .run 64, .runPersist 64, .rearm 64, .release 64,
    .hodReadLanding 0 (.doubleCore 384), .hodCompatWrite (.hub 16) 611 0, .hodCompatWrite .host 612 0,
    .sentinelExpiry 48 0 false, .contextSwitch 384, .contextSwitchEnd 384, .semInit 64, .semAcquire 64, .semTry 64,
    .semRelease 64, .semClearPoison 64, .ctrInit 64, .ctrClaim 64, .ctrUnclaim 64, .ctrPost 64, .ctrTake 64, .lintel 64,
    .retire 64] : List Instr).all (fun i => !i.wf) = true := by decide

theorem test_wf_refuses_2 : ([
    .lintelComplete 4 0, .lintelTimeout 4 0, .pointingPeriodExpiry 48 0, .pointingBarrier 48 0, .rowRemapEnd 256 63 32767 [],
    .rowRemapEnd 255 64 32767 [], .rowRemapEnd 255 63 32768 [], .scrubRead 256 0 .clean, .remapFlashCopy 256,
    .channelMoveEnd 256, .hbmThermalSample 8 [] 0, .pacingWindow 256 0, .add 64, .mul 64, .fma 64, .affine 64, .div 64,
    .max 64, .min 64, .rsqrt 64, .exp 64, .gelu 64, .silu 64, .rmsnorm 64, .layernorm 64, .softmax 64, .quant 64, .dequant 64,
    .adamw 64, .lion 64, .sgdm 64, .plumb 64, .fence 64, .nmuSlotGrant 256 0, .nmuSwitchInEnd 256 0 0 [], .nmuSlotEnd 256 0,
    .nmuSwitchOutEnd 256 0, .granuleCommit 256, .mode 64, .input 64, .trnLedgerCtlWrite (.hub 16) 611 0,
    .trnLedgerCtlWrite .host 612 0, .fetch 64, .flush 64, .evict 64, .drop 64, .alloc 64, .bind 64, .slabFetch 4,
    .slabReady 4 0 [(15, false, 7)], .slabReady 3 0 [(16, false, 0)], .slabReady 3 0 [(0, true, 8)], .writebackDone 4 0,
    .flitReceive 16 15 0, .flitReceive 15 16 0, .wavelengthLockLoss 16 15, .wavelengthLockLoss 15 16, .departedNotice 16,
    .peerLockLoss 16 0, .courseEnable (.hub 16) 7 0] : List Instr).all (fun i => !i.wf) = true := by decide

theorem test_wf_refuses_3 : ([
    .courseEnable .host 8 0, .courseDisable (.hub 16) 7 0 none, .courseDisable .host 8 0 none,
    .walkToken 8 ⟨0, 0, 0, 0, [], false, false, false, []⟩, .walkTimeout 8 0, .reduceScatter 64, .allGather 64, .allReduce 64,
    .broadcast 64, .permute 64, .reshard 64, .abandon 8 0, .copied 8 16383, .copied 7 16384, .flip 8 16383 131071 65535,
    .flip 7 16384 131071 65535, .flip 7 16383 131072 65535, .flip 7 16383 131071 65536, .narShardWrite (.hub 16) 611 0 none,
    .narShardWrite .host 612 0 none, .timingFlit 8 0 0, .linkFrameReceive 30 false 0, .linkLockLoss 30, .windowRead 8 0 0 [],
    .windowWrite 8 0 [], .pcieLinkUp 0 7 4, .pcieLinkUp 0 6 5, .ringEnable (.hub 16) 63 0, .ringEnable .host 64 0,
    .ringClearEnd 64, .ringDisable (.hub 16) 63 0, .ringDisable .host 64 0, .ringDrainEnd 64, .ctxReset (.hub 16) 63,
    .ctxReset .host 64, .doorbell (.hub 16) 63 0, .doorbell .host 64 0, .getVersion 5, .getCapabilities 5,
    .negotiateAlgorithms 5 false, .getDigests 5, .getCertificate 5 255, .getCertificate 4 256, .challenge 5 255 0,
    .challenge 4 256 0, .getMeasurements 5 0 0, .keyExchange 5 0, .finish 5 0 none, .endSession 5 0, .doeDiscovery 5 0,
    .keyPut 5 none 0, .keyClear 5 none 0, .keyOpen 64, .keyStatus 64, .keyCmdClear 64, .steerStart (.hub 16) 3 0,
    .steerStart .host 4 0, .steerStop (.hub 16) 3 0, .steerStop .host 4 0, .steerTrap 16 0] : List Instr).all (fun i => !i.wf) = true := by decide

theorem test_wf_refuses_4 : ([
    .steerEcall 16, .secSealWrite (.hub 16) 3 0, .secSealWrite .host 4 0, .skimEnd 4 0 false, .overwriteEnd 4 0,
    .xannaDisconnect 4, .xannaRead 4 612 511, .xannaRead 3 613 511, .xannaRead 3 612 512, .subscribe 4 0,
    .partitionCount 4 0 0, .tierCacheShare 4 0 0, .fencedPower 4 0 false 0, .powerCaps 4 0 0 0,
    .firmwareImage 4 0 ⟨63, false, true, 0⟩, .firmwareImage 3 0 ⟨64, false, true, 0⟩, .moduleResetRequest 4 0,
    .tenantBind 4 0 3 0 0 false, .tenantBind 3 0 4 0 0 false, .tenantRelease 4 0 3 false, .tenantRelease 3 0 4 false,
    .hostAccessSettings 4 0 (.access 3 2), .hostAccessSettings 3 0 (.access 4 0), .hostAccessSettings 3 0 (.access 0 3),
    .hostAccessSettings 3 0 (.window 8 0), .hostAccessSettings 3 0 (.window 0 4), .moduleIdSettings 4 0 (.moduleId 131071),
    .moduleIdSettings 3 0 (.moduleId 131072), .moduleIdSettings 3 0 (.timeSource 16), .moduleIdSettings 3 0 (.openOwner 4),
    .channelRetireRequest 4 0 255, .channelRetireRequest 3 0 256, .returnToService 4 0 (.channel 255) false,
    .returnToService 3 0 (.channel 256) false, .returnToService 3 0 (.lane 256) false,
    .returnToService 3 0 (.wavelength 16 0) false, .returnToService 3 0 (.wavelength 0 16) false,
    .returnToService 3 0 (.port 16) false, .returnToService 3 0 (.link 30) false, .returnToService 3 0 (.package 16) false,
    .returnToService 3 0 (.core 384) false, .returnToService 3 0 (.cluster 48) false, .spdmRelay 4 0 255 16777216,
    .spdmRelay 3 0 254 16777216, .spdmRelay 3 0 255 16777217, .installRoot 4 0 0, .fastLimitWindow 13 0,
    .dieThermalSample 13 [] 0, .coreSleep 384 0 false, .clusterSleep 48 0 false, .nmuGroupSleep 32 0 false,
    .coreWakeStart 4 0, .domainWakeEnd 468, .diePllLockLoss 13, .powerStageFault 13, .snap 64, .snapCopy 4 0,
    .rasLogCursorWrite (.hub 16) 3 0, .rasLogCursorWrite .host 4 0, .bringUpPhase 0 [.core 384]] : List Instr).all (fun i => !i.wf) = true := by decide

theorem test_wf_refuses_5 : ([
    .scaffoldLinksPhase 0 [.core 384] ⟨true, [32, 24, 16, 0], 1, 60, 64, 0, 0, 0, 0, true⟩,
    .scaffoldLinksPhase 0 [.core 383] ⟨true, [32, 24, 16], 1, 60, 64, 0, 0, 0, 0, true⟩,
    .scaffoldLinksPhase 0 [.core 383] ⟨true, [32, 24, 16, 8], 1, 60, 64, 0, 0, 0, 0, true⟩, .selfTestPhase 0 [.core 384],
    .selfTestPhase 0 [.cluster 48], .selfTestPhase 0 [.chanLanes 256 0], .selfTestPhase 0 [.chanTest 256],
    .selfTestPhase 0 [.link 30], .selfTestPhase 0 [.package 16], .selfTestPhase 0 [.die 13], .selfTestPhase 0 [.stack 8],
    .partitionReset (.hub 16) 3 0, .partitionReset .host 4 0, .partitionResetEnd 4 0 [.core 383],
    .partitionResetEnd 3 0 [.core 384], .portLinkTraining 16 0 131071 15, .portLinkTraining 15 0 131072 15,
    .portLinkTraining 15 0 131071 16, .granuleMoved 256, .registerRead (.hub 16) 611 511, .registerRead .host 612 511,
    .registerRead .host 611 512] : List Instr).all (fun i => !i.wf) = true := by decide

theorem test_wf_accepts_1 : ([
    .registerWrite .host 611 511 0 none, .blkIrqEnWrite .host 611 0 0, .blkIrqStatClear .host 611 0 0,
    .msixTableAccess (.read 0x2044C 4), .qgSeedWrite .host 611 0, .qgKeyClear .host 611 0, .guardConfigWrite 15 131071 [0],
    .stepBegin 63 none, .guardHistoryPush 3, .tileAudit 383, .matmul 63, .fusedCommand 63, .tileSteal 1535 1535,
    .rampUpEnd 1535, .sweepEnd 1535 3, .rampDownEnd 1535, .blockDrainEnd 1535 3, .blockConversionEnd 1535 3,
    .epilogueBlock 0 1535, .quantBlock 0 1535, .bndMcastWrite .host 611 511 0, .run 63, .runPersist 63, .rearm 63,
    .release 63, .hodReadLanding 0 .clean, .hodCompatWrite .host 611 0, .sentinelExpiry 47 0 false, .contextSwitch 383,
    .contextSwitchEnd 383, .semInit 63, .semAcquire 63, .semTry 63, .semRelease 63, .semClearPoison 63, .ctrInit 63,
    .ctrClaim 63, .ctrUnclaim 63, .ctrPost 63, .ctrTake 63, .lintel 63, .retire 63, .lintelComplete 3 0, .lintelTimeout 3 0,
    .pointingPeriodExpiry 47 0, .pointingBarrier 47 0, .rowRemapEnd 255 63 32767 [], .scrubRead 255 0 .clean,
    .remapFlashCopy 255, .channelMoveEnd 255, .hbmThermalSample 7 [] 0, .pacingWindow 255 0, .add 63, .mul 63, .fma 63,
    .affine 63, .div 63, .max 63, .min 63, .rsqrt 63] : List Instr).all (fun i => i.wf) = true := by decide

theorem test_wf_accepts_2 : ([
    .exp 63, .gelu 63, .silu 63, .rmsnorm 63, .layernorm 63, .softmax 63, .quant 63, .dequant 63, .adamw 63, .lion 63,
    .sgdm 63, .plumb 63, .fence 63, .nmuSlotGrant 255 0, .nmuSwitchInEnd 255 0 0 [], .nmuSlotEnd 255 0,
    .nmuSwitchOutEnd 255 0, .granuleCommit 255, .mode 63, .input 63, .trnLedgerCtlWrite .host 611 0, .fetch 63, .flush 63,
    .evict 63, .drop 63, .alloc 63, .bind 63, .slabFetch 3, .slabReady 3 0 [(15, false, 7)], .writebackDone 3 0,
    .flitReceive 15 15 0, .wavelengthLockLoss 15 15, .departedNotice 15, .peerLockLoss 15 0, .courseEnable .host 7 0,
    .courseDisable .host 7 0 none, .walkToken 7 ⟨0, 0, 0, 0, [], false, false, false, []⟩, .walkTimeout 7 0,
    .reduceScatter 63, .allGather 63, .allReduce 63, .broadcast 63, .permute 63, .reshard 63, .abandon 7 0, .copied 7 16383,
    .flip 7 16383 131071 65535, .narShardWrite .host 611 0 none, .timingFlit 7 0 0, .linkFrameReceive 29 false 0,
    .linkLockLoss 29, .windowRead 7 0 0 [], .windowWrite 7 0 [], .pcieLinkUp 0 6 4, .ringEnable .host 63 0, .ringClearEnd 63,
    .ringDisable .host 63 0, .ringDrainEnd 63, .ctxReset .host 63, .doorbell .host 63 0] : List Instr).all (fun i => i.wf) = true := by decide

theorem test_wf_accepts_3 : ([
    .getVersion 4, .getCapabilities 4, .negotiateAlgorithms 4 false, .getDigests 4, .getCertificate 4 255, .challenge 4 255 0,
    .getMeasurements 4 0 0, .keyExchange 4 0, .finish 4 0 none, .endSession 4 0, .doeDiscovery 4 0, .keyPut 4 none 0,
    .keyClear 4 none 0, .keyOpen 63, .keyStatus 63, .keyCmdClear 63, .steerStart .host 3 0, .steerStop .host 3 0,
    .steerTrap 15 0, .steerEcall 15, .secSealWrite .host 3 0, .skimEnd 3 0 false, .overwriteEnd 3 0, .xannaDisconnect 3,
    .xannaRead 3 612 511, .subscribe 3 0, .partitionCount 3 0 0, .tierCacheShare 3 0 0, .fencedPower 3 0 false 0,
    .powerCaps 3 0 0 0, .firmwareImage 3 0 ⟨63, false, true, 0⟩, .moduleResetRequest 3 0, .tenantBind 3 0 3 0 0 false,
    .tenantRelease 3 0 3 false, .hostAccessSettings 3 0 (.access 3 2), .moduleIdSettings 3 0 (.moduleId 131071),
    .channelRetireRequest 3 0 255, .returnToService 3 0 (.channel 255) false, .spdmRelay 3 0 255 16777216, .installRoot 3 0 0,
    .fastLimitWindow 12 0, .dieThermalSample 12 [] 0, .coreSleep 383 0 false, .clusterSleep 47 0 false,
    .nmuGroupSleep 31 0 false, .coreWakeStart 3 0, .domainWakeEnd 467, .diePllLockLoss 12, .powerStageFault 12, .snap 63,
    .snapCopy 3 0, .rasLogCursorWrite .host 3 0, .bringUpPhase 0 [.core 383],
    .scaffoldLinksPhase 0 [.core 383] ⟨true, [32, 24, 16, 0], 1, 60, 64, 0, 0, 0, 0, true⟩, .selfTestPhase 0 [.core 383],
    .partitionReset .host 3 0, .partitionResetEnd 3 0 [.core 383], .portLinkTraining 15 0 131071 15, .granuleMoved 255,
    .registerRead .host 611 511] : List Instr).all (fun i => i.wf) = true := by decide

/-! ### Small states -/

/-- The module after start-up, in one partition, with core 0 and its cluster awake. -/
def on : State :=
  { State.reset with
    startup := { State.reset.startup with phase := 7, part := [0, 0, 0, 0] }
    clusters := [(0, { asleep := false })], coreDoms := [(0, { asleep := false })] }

/-- A command of a class on core 0, with a payload. -/
def bits (cls payload : Nat) : CmdBits := BitVec.ofNat 4096 (cls + 2 ^ 24 + 2 ^ 280 + 2 ^ 288 + 2 ^ 512 * payload)

/-- A number from fields, each at its lowest bit. -/
def word (fs : List (Nat × Nat)) : Nat := fs.foldl (fun a f => a + 2 ^ f.1 * f.2) 0

/-- Command 0 of ring 0, dispatched and not yet started. -/
def cmd0 (b : CmdBits) : Cmd := { bits := b, checked := false }

/-- A state in which one command waits for its start. -/
def waitingC (s : State) (c : Cmd) : State := { s with cmds := [c], nextCmd := 1 }
def waiting (s : State) (b : CmdBits) : State := waitingC s (cmd0 b)

/-- Bytes placed in the HBM of partition 0. -/
def place (s : State) (at_ n v : Nat) : State :=
  { s with
    mem := (leBytes n v).zipIdx.foldl (fun m e => SMap.set 0 m (at_ + e.2) e.1) s.mem
    written := SMap.set false s.written (at_ / 4096) true }

theorem settings_legal : SettingsLegal State.reset.settings := by
  constructor <;> simp [State.reset, shareLegal, capLegal]

/-- What a computation can check of soundness. -/
def ok (s : State) : Bool :=
  s.mem.wf && SMap.wf false s.written && SMap.wf false s.poison && s.log.isEmpty && s.views.isEmpty && s.conns.isEmpty &&
    decide (s.startup.phase ≤ 7) && decide (s.cmds.Pairwise (fun a b => a.id < b.id)) && s.cmds.all (fun c => decide (c.id < s.nextCmd))

theorem sound_of {s : State} (hs : s.settings = State.reset.settings) (h : ok s = true) : Sound s := by
  simp only [ok, Bool.and_eq_true, List.isEmpty_iff, decide_eq_true_eq, List.all_eq_true] at h
  obtain ⟨⟨⟨⟨⟨⟨⟨⟨h1, h2⟩, h3⟩, h4⟩, h5⟩, h6⟩, h7⟩, h8⟩, h9⟩ := h
  exact ⟨h1, h2, h3, by simp [h4], by simp [h5], by simp [h6], hs ▸ settings_legal, h7, h8, h9⟩

theorem on_sound : Sound on := sound_of rfl (by decide +kernel)

/-- When the command starts. -/
theorem waitingC_starts {s : State} {atOnce : Bool} {cls sub : Nat} {need : State → Cmd → List Nat} {check : State → Cmd → Option Nat}
    {c : Cmd} (h : unstartedOf cls sub (waitingC s c) 0 = some c ∧ c.late = none ∧ envClass c.bits = cls ∧ cmdSub c.bits = sub ∧
      need (waitingC s c) c = [] ∧ check (waitingC s c) c = none ∧
      waitsBehind (waitingC s c) c = false ∧ canBind (waitingC s c) c.ring (cmdCores (waitingC s c) c.part c.bits) = true ∧
      heldBack (waitingC s c) c = false ∧ ((waitingC s c).wantClusters (reaches (waitingC s c) c)).2 = false) :
    ∃ u x, Starts atOnce cls sub 0 need check (waitingC s c) u x :=
  ⟨_, _, _, _, .inl ⟨h.1, h.2.1, h.2.2.1, h.2.2.2.1, rfl⟩, h.2.2.2.2.1, h.2.2.2.2.2.1, fun _ => h.2.2.2.2.2.2, rfl, rfl⟩

theorem waiting_starts {s : State} {atOnce : Bool} {cls sub : Nat} {need : State → Cmd → List Nat} {check : State → Cmd → Option Nat}
    {b : CmdBits} (h : unstartedOf cls sub (waiting s b) 0 = some (cmd0 b) ∧ (cmd0 b).late = none ∧ envClass b = cls ∧ cmdSub b = sub ∧
      need (waiting s b) (cmd0 b) = [] ∧ check (waiting s b) (cmd0 b) = none ∧
      waitsBehind (waiting s b) (cmd0 b) = false ∧ canBind (waiting s b) 0 (cmdCores (waiting s b) 0 b) = true ∧
      heldBack (waiting s b) (cmd0 b) = false ∧ ((waiting s b).wantClusters (reaches (waiting s b) (cmd0 b))).2 = false) :
    ∃ u x, Starts atOnce cls sub 0 need check (waiting s b) u x :=
  waitingC_starts h

/-! ### The hypotheses of each statement are met: commands that start -/

theorem met_SnapsAndView : (armed (waiting on (bits 9 1)) 0).length < 4 ∧ Sound (waiting on (bits 9 1)) ∧
    ∃ u x, Starts true 9 1 0 noNeed snapCheck (waiting on (bits 9 1)) u x :=
  ⟨by decide +kernel, sound_of rfl (by decide +kernel), waiting_starts (by decide +kernel)⟩

/-- Semaphore 0 with one unit, held by context 0; pair 0 with 2 available, claimed by context 0. -/
def locked : State := { on with sems := [(0, { cap := 1, holders := 1 })], ctrs := [(0, { issued := 2, claim := some (0, 0) })] }

def sync (op : Nat) (fs : List (Nat × Nat)) : CmdBits := bits 4 (word ((0, op) :: fs))

theorem met_SemaphoresAndCounters : (∀ s b, ok (waiting s b) = true → s.settings = State.reset.settings → Sound (waiting s b)) ∧
    ok (waiting on (sync 1 [(64, 32), (32, 15)])) = true ∧
    (∃ u x, Starts true 4 0x01 0 noNeed syncCheck (waiting on (sync 1 [(64, 32), (32, 15)])) u x) ∧
    (∃ u x, Starts true 4 0x02 0 noNeed syncCheck (waiting { on with sems := [(0, { cap := 1, rank := 1 })] } (sync 2 [])) u x) ∧
    (∃ u x, Starts true 4 0x03 0 noNeed syncCheck (waiting locked (sync 3 [])) u x) ∧
    (∃ u x, Starts true 4 0x04 0 noNeed syncCheck (waiting locked (sync 4 [])) u x) ∧
    (∃ u x, Starts true 4 0x05 0 noNeed syncCheck (waiting locked (sync 5 [])) u x) ∧
    (∃ u x, Starts true 4 0x10 0 noNeed syncCheck (waiting on (sync 0x10 [(16, 511)])) u x) ∧
    (∃ u x, Starts true 4 0x11 0 noNeed syncCheck (waiting on (sync 0x11 [])) u x) ∧
    (∃ u x, Starts true 4 0x12 0 noNeed syncCheck (waiting locked (sync 0x12 [])) u x) ∧
    (∃ u x, Starts true 4 0x13 0 noNeed syncCheck (waiting locked (sync 0x13 [(64, 65535)])) u x) ∧
    (∃ u x, Starts true 4 0x14 0 noNeed syncCheck (waiting on (sync 0x14 [(64, 1)])) u x) :=
  ⟨fun _ _ h hs => sound_of hs h, by decide +kernel, waiting_starts (by decide +kernel), waiting_starts (by decide +kernel),
   waiting_starts (by decide +kernel), waiting_starts (by decide +kernel), waiting_starts (by decide +kernel),
   waiting_starts (by decide +kernel), waiting_starts (by decide +kernel), waiting_starts (by decide +kernel),
   waiting_starts (by decide +kernel), waiting_starts (by decide +kernel)⟩

/-- CLUSTER 48 is outside the module, and cluster 1 retired. -/
theorem met_FencedPairs :
    let s := waiting on (sync 0x11 [(42, 48)])
    Sound s ∧ Arrives 4 0x11 0 s s (cmd0 (sync 0x11 [(42, 48)])) ∧ waitsBehind s (cmd0 (sync 0x11 [(42, 48)])) = false ∧
      syncMalformed (sync 0x11 [(42, 48)]) = false ∧ clustersPer s ≤ syncCluster (sync 0x11 [(42, 48)]) :=
  ⟨sound_of rfl (by decide +kernel), .inl ⟨by decide +kernel, rfl, by decide +kernel, by decide +kernel, rfl⟩, by decide +kernel,
   by decide +kernel, by decide +kernel⟩

theorem met_RetireAndLintelBarriers :
    (∃ u x, Starts true 4 0x30 0 noNeed syncCheck (waiting on (sync 0x30 [])) u x) ∧
    (∃ u x, Starts true 4 0x20 0 noNeed syncCheck
      (waiting { on with lintels := [(0, { mask := some 1 })] } (sync 0x20 [])) u x) ∧
    Sound (waiting on (sync 0x30 [])) :=
  ⟨waiting_starts (by decide +kernel), waiting_starts (by decide +kernel), sound_of rfl (by decide +kernel)⟩

/-- A FETCH, FLUSH, EVICT, DROP, ALLOC and BIND of one slab of the tier-1-homed part. -/
def tierCmd (op : Nat) : CmdBits := bits 6 (word [(0, op), (16, hbmHomed on 0), (64, 1)])

theorem met_TierCommands : Sound (waiting on (tierCmd 1)) ∧
    (∃ u x, Starts true 6 1 0 noNeed tierCheck (waiting on (tierCmd 1)) u x) ∧
    (∃ u x, Starts true 6 2 0 noNeed tierCheck (waiting on (tierCmd 2)) u x) ∧
    (∃ u x, Starts true 6 3 0 noNeed tierCheck (waiting on (tierCmd 3)) u x) ∧
    (∃ u x, Starts true 6 4 0 noNeed tierCheck (waiting on (tierCmd 4)) u x) ∧
    (∃ u x, Starts true 6 5 0 noNeed tierCheck (waiting on (tierCmd 5)) u x) ∧
    (∃ u x, Starts true 6 6 0 noNeed tierCheck (waiting on (tierCmd 6)) u x) :=
  ⟨sound_of rfl (by decide +kernel), waiting_starts (by decide +kernel), waiting_starts (by decide +kernel),
   waiting_starts (by decide +kernel), waiting_starts (by decide +kernel), waiting_starts (by decide +kernel),
   waiting_starts (by decide +kernel)⟩

theorem met_StepBegin : Sound (waiting on (bits 8 1)) ∧ ∃ u x, Starts true 8 1 0 noNeed ledgerCheck (waiting on (bits 8 1)) u x :=
  ⟨sound_of rfl (by decide +kernel), waiting_starts (by decide +kernel)⟩

theorem met_LedgerModeInputAndControl : Sound (waiting on (bits 8 0x302)) ∧
    (∃ u x, Starts true 8 2 0 noNeed ledgerCheck (waiting on (bits 8 0x302)) u x) ∧
    (∃ u x, Starts true 8 3 0 noNeed ledgerCheck (waiting on (bits 8 3)) u x) ∧
    blkOf (Blk.trn.page 0) = .trn ∧ accessOf (waiting on (bits 8 3)) .host (Blk.trn.page 0) true = .ok :=
  ⟨sound_of rfl (by decide +kernel), waiting_starts (by decide +kernel), waiting_starts (by decide +kernel), by decide +kernel,
   by decide +kernel⟩

/-! ### Commands with tables in memory -/

/-- A bond table of one 32 × 32 × 32 tile at 0x1000: its header and its levels K, N and M. -/
def level (pos var bound cStride : Nat) : Nat := word [(0, var), (8, pos), (64, bound), (208, cStride)]
def bonded : State :=
  place on 0x1000 128 (word [(0, 0xB07D), (16, 3), (48, 32), (64, 32), (80, 32), (256, level 0 2 32 0), (512, level 1 1 32 128),
    (768, level 2 0 32 4096)])

/-- A binary32 record of Table HST-4 with rows of 128 bytes. -/
def rec32 (base : Nat) : Nat := word [(0, base), (128 + 24, 1), (128 + 32, 128)]
def records : Nat := word [(128, rec32 0x10000), (384, rec32 0x20000), (640, rec32 0x30000)]
def matmul0 : CmdBits := bits 1 (word [(0, 0x1000), (64, 1)] + records)

/-- A MATMUL stage on engine 0, and a STORE without a list. -/
def fused0 : CmdBits := bits 1 (word [(57, 1), (1024, word [(0, 1), (16, 1), (64, 0x1000)]), (1280, 5)] + records)

/-- Two hod lists of one entry of 64 bytes: the source at 0x2000 and the destination at 0x2040. -/
def hodList (dir base : Nat) : Nat :=
  word [(0, 0x40D1), (16, 1), (32, dir), (112, 8), (256, base), (256 + 64, 64), (256 + 88, 1), (256 + 104, 1)]
def listed : State := place on 0x2000 128 (word [(0, hodList 0 0x10000), (512, hodList 1 0x20000)])
def run0 : CmdBits := bits 2 (word [(0, 1), (64, 0x2000), (128, 0x2040)])
def runPersist0 : Cmd := { cmd0 (bits 2 (word [(0, 0x101), (64, 0x2000)])) with compat := true }

/-- A persistent stream with handle 7, and commands that name it. -/
def stream7 : Persist := { handle := 7, stream := { list := { ents := [{ len := 64, count1 := 1, count2 := 1 }] } } }
def streaming : State := { on with persists := [stream7] }
def rearm0 : CmdBits := bits 2 (word [(0, 2), (16, 1), (64, 7), (512, 0x10000)])
def release0 : CmdBits := bits 2 (word [(0, 3), (64, 7)])

theorem met_MatrixAndHodCommandsStart : Sound (waiting bonded matmul0) ∧ Sound (waiting bonded fused0) ∧
    Sound (waiting listed run0) ∧ Sound (waitingC listed runPersist0) ∧ Sound (waiting streaming rearm0) ∧
    (∃ u x, Starts false 1 0 0 matNeed matCheck (waiting bonded matmul0) u x) ∧
    (∃ u x, Starts false 1 1 0 matNeed matCheck (waiting bonded fused0) u x) ∧
    (∃ u x, Starts false 2 0x01 0 runNeed runCheck (waiting listed run0) u x) ∧
    (∃ u x, Starts false 2 0x101 0 runNeed runCheck (waitingC listed runPersist0) u x) ∧
    (∃ u x, Starts true 2 0x02 0 noNeed rearmCheck (waiting streaming rearm0) u x) ∧
    rearmFull (waiting streaming rearm0) 0 = false ∧
    (∃ u x, Starts true 2 0x03 0 noNeed releaseCheck (waiting streaming release0) u x) :=
  ⟨sound_of rfl (by decide +kernel), sound_of rfl (by decide +kernel), sound_of rfl (by decide +kernel),
   sound_of rfl (by decide +kernel), sound_of rfl (by decide +kernel), waiting_starts (by decide +kernel),
   waiting_starts (by decide +kernel), waiting_starts (by decide +kernel), waitingC_starts (by decide +kernel),
   waiting_starts (by decide +kernel), by decide +kernel, waiting_starts (by decide +kernel)⟩

/-- ADD of one row of 32 binary32 elements in one granule, and FENCE. -/
def add0 : CmdBits :=
  bits 3 (word [(0, 1), (72, 1), (76, 1), (80, 32), (96, 1), (120, 32), (192, 0x40000), (240, 0x40080), (288, 0x40100)])
def fence0 : CmdBits := bits 3 0x30

theorem met_NmuCommandsStart : Sound (waiting on add0) ∧ ringRow (.add 0) = some (3, 1, 0) ∧
    unitsFull 1 (waiting on add0) 0 = false ∧ (∃ u x, Starts true 3 1 0 nmuNeed nmuCheck (waiting on add0) u x) ∧
    (∃ u x, Starts true 3 0x30 0 nmuNeed nmuCheck (waiting on fence0) u x) :=
  ⟨sound_of rfl (by decide +kernel), rfl, by decide +kernel, waiting_starts (by decide +kernel),
   waiting_starts (by decide +kernel)⟩

/-- Course 0 is up with two members, and an ALL_REDUCE of 8,192 bytes on it. -/
def coursed : State := { on.setRegFld (coursePage 0) Reg.narCourse 57 40 2 with courses := [(0, { st := 2 })] }
def allReduce0 : CmdBits :=
  bits 5 (word [(0, 3), (8, 1), (28, 1), (32, 1), (36, 1), (256, 0x10000), (304, 0x20000), (352, 8192)])

theorem met_Collectives : Sound (waiting coursed allReduce0) ∧ ringRow (.allReduce 0) = some (5, 3, 0) ∧
    ∃ u x, Starts true 5 3 0 collNeed collCheck (waiting coursed allReduce0) u x :=
  ⟨sound_of rfl (by decide +kernel), rfl, waiting_starts (by decide +kernel)⟩

/-- A bundle of one chunk of 64 bytes at 0x1000 under KEY_ID 9, loaded in slot 15. -/
def keyed : State :=
  { place on 0x1000 64 (word [(0, 0xB11D), (16, 1), (32, 9), (64, 1), (128, 64)]) with
    secs := [(0, { keys := [(15, { valid := true, keyId := 9 })] })] }
def open0 : CmdBits := bits 7 (word [(0, 1), (8, 15), (64, 0x1000), (112, 0x20000)])

theorem met_KeySlots_commands : Sound (waiting keyed open0) ∧
    (∃ u x, Starts true 7 1 0 openNeed openCheck (waiting keyed open0) u x) ∧
    (∃ u x, Starts true 7 2 0 (rowNeed 7 2) (rowCheck 7 2) (waiting keyed (bits 7 2)) u x) ∧
    (∃ u x, Starts true 7 3 0 (rowNeed 7 3) (rowCheck 7 3) (waiting keyed (bits 7 0xF03)) u x) :=
  ⟨sound_of rfl (by decide +kernel), waiting_starts (by decide +kernel), waiting_starts (by decide +kernel),
   waiting_starts (by decide +kernel)⟩

/-! ### Registers, configuration and rings -/

/-- The module in D3hot, without power, and with partition 0 closed to the host. -/
def asleep : State := { on with pcie := { on.pcie with d3hot := true } }
def dark : State := { on with startup := { on.startup with powered := false } }
def shut : State := { on with settings := { on.settings with hostAccess := [2, 2, 2, 2] } }

/-- Each hypothesis of a statement about a state that no command uses is met in reset or just after start-up. -/
theorem met_EmptyQueueIsOnePilotTick : on.pending = [] ∧ on.startup.powered = true ∧
    dark.startup.powered = false := by decide +kernel

theorem met_QueueFusesAndTimebase : (∃ t, exec .powerInputInRange State.reset = .next t) ∧
    (∃ t, exec (.registerRead .host 0 0) on = .next t) := ⟨⟨_, rfl⟩, ⟨_, rfl⟩⟩

theorem met_EveryStepKeepsSound : ∃ t, Sound State.reset ∧ step State.reset = .next t :=
  ⟨_, sound_of rfl (by decide +kernel), rfl⟩

/-- A plain register at the first and the last page, a ring page whose ENABLE is 1, and one in a page that has a row. -/
theorem met_RegisterWrites : Sound on ∧ 0 < pageCount ∧ plainReg 0 511 = true ∧ accessOf on .host 0 true = .ok ∧
    writeIgnored on .host 0 511 = false ∧ accessOf on .host (pageCount - 1) true = .ok ∧
    accessOf on (.hub 0) (pageCount - 1) true = .ok ∧ writeIgnored on (.hub 0) (pageCount - 1) 0 = false ∧
    plainReg (ringPage 0) Reg.ringBase = true ∧ accessOf on .host (ringPage 0) true = .ok ∧
    writeIgnored (on.setRegFld (ringPage 0) Reg.ringCtl 63 63 1) .host (ringPage 0) Reg.ringBase = true ∧
    plainReg (Blk.qg.page 0) Reg.qgSeed = false ∧ plainReg (ringPage 0) Reg.ringDb = false ∧
    plainReg (Blk.sec.page 0) Reg.secSteerCtl = false :=
  ⟨sound_of rfl (by decide +kernel), by decide +kernel⟩

/-- A write in D3hot, one that the host access setting denies, one to a page not in use, and one by a hub core outside its bounds. -/
theorem met_WritesOutOfBounds : on.settings.partitions ∈ [1, 2, 4] ∧
    regRow (.doorbell .host 0 1) = some (.host, ringPage 0) ∧ ringPage 0 < pageCount ∧
    accessOf asleep .host (ringPage 0) true = .unsupported ∧
    accessOf shut .host (ringPage 0) true = .denied ∧
    regRow (.steerStart .host 1 1) = some (.host, secPage 1) ∧ accessOf on .host (secPage 1) true = .void ∧
    regRow (.steerStart (.hub 4) 1 1) = some (.hub 4, secPage 1) ∧ accessOf on (.hub 4) (secPage 1) true = .trap 0 := by
  decide +kernel

theorem met_RegisterReadShows : dark.startup.powered = false ∧ on.startup.powered = true ∧
    accessOf asleep .host 0 false = .unsupported ∧
    accessOf shut .host (ringPage 0) false = .denied ∧
    accessOf on .host 0 false = .ok ∧ pageUnused on 0 = false ∧ accessOf on .host (secPage 3) false = .ok ∧
    pageUnused on (secPage 3) = true ∧ viewBit { on with snapView := [(ringPage 0 * 32, true)] } .host (ringPage 0) = true ∧
    ownerOf on (ringPage 0) ≠ .module := by decide +kernel

theorem met_InterruptRegisters : blkOf 0 ≠ .site ∧ accessOf on .host 0 true = .ok ∧ (irqMask 0).testBit 0 = true ∧
    (on.reg 0 Reg.irqStat).testBit 0 = false ∧ ((on.setReg 0 Reg.irqEn 1).reg 0 Reg.irqEn).testBit 0 = true := by
  decide +kernel

/-- The first and the last word of the table, and the first offset after it. -/
theorem met_MsixAndConfiguration : Sound on ∧ on.pcie.d3hot = false ∧ inMsixTable 0x20000 = true ∧
    inMsixTable (0x20000 + 16 * 69 - 4) = true ∧ inMsixTable (0x20000 + 16 * 69) = false ∧
    inMsixPba (0x20000 + 16 * 69) = false :=
  ⟨sound_of rfl (by decide +kernel), by decide +kernel⟩

theorem met_D3hotAnswersUnsupported : asleep.pcie.d3hot = true ∧
    on.startup.powered = true ∧ barAccess (.doorbell .host 0 1) = true ∧ barAccess (.windowRead 0 0 4 []) = true := by
  decide +kernel

theorem met_SeedSteeringAndGuardRegisters : blkOf (Blk.qg.page 0) = .qg ∧ accessOf on .host (Blk.qg.page 0) true = .ok ∧
    partOfHubCore on 4 = some 0 ∧ partOfHubCore on 15 = some 0 ∧ ownerOf on (Blk.bnd.page 0) = .part 0 ∧ blkOf (Blk.bnd.page 0) = .bnd ∧
    ownerOf on (Blk.hod.page 0) = .part 0 ∧ blkOf (Blk.hod.page 0) = .hod ∧ on.settings.partitions ∈ [1, 2, 4] ∧
    isConfigByte 0x48 = true ∧ isConfigByte 0x4B = true ∧ isConfigByte 0x4C = false ∧ partOfHubCore on 3 = none := by decide +kernel

/-- Ring 0 runs with one slot published, whose bytes are placed. -/
def ringed (b : CmdBits) : State :=
  { place (on.setReg (ringPage 0) Reg.ringBase 0x8000) 0x8000 512 b.toNat with rings := [(0, { st := 1, tail := 1 })] }

/-- An empty ring; a slot of another row; one with a reserved bit set; and one in a poisoned granule. -/
theorem met_RingsTakeTheNextSlot : Sound (ringed (bits 9 1)) ∧ Sound on ∧ nextOf on 0 = none ∧
    ringRow (.snap 0) = some (9, 1, 0) ∧ ringHeld (ringed (bits 9 1)) (.snap 0) = false ∧
    unstartedOf 9 1 (ringed (bits 9 1)) 0 = none ∧ nextOf (ringed (bits 9 1)) 0 = some (bits 9 1) ∧
    slotPoisoned (ringed (bits 9 1)) 0 0 = false ∧ rowTakes 9 1 (bits 9 1) = true ∧ rowTakes 4 1 (bits 9 1) = false ∧
    envStatus (ringed (bits 9 1)) 0 (bits 9 1) = none ∧
    nextOf (ringed (bits 9 1 ||| 65536)) 0 = some (bits 9 1 ||| 65536) ∧
    (envStatus (ringed (bits 9 1 ||| 65536)) 0 (bits 9 1 ||| 65536)).isSome = true ∧
    slotPoisoned { ringed (bits 9 1) with poison := [(0x8000 / 64, true)] } 0 0 = true :=
  ⟨sound_of rfl (by decide +kernel), sound_of rfl (by decide +kernel), by decide +kernel⟩

/-- SNAP of a page and a register that no selector names, taken off its ring. -/
theorem met_ClassChecksRefuse :
    let b := bits 9 (1 + 256)
    let s := ringed b
    Sound s ∧ ringRow (.snap 0) = some (9, 1, 0) ∧ ringHeld s (.snap 0) = false ∧
      (∃ v c, Arrives 9 1 0 s v c ∧ rowNeed 9 1 v c = [] ∧ rowCheck 9 1 v c = some St.malformed ∧ waitsBehind v c = false) :=
  ⟨sound_of rfl (by decide +kernel), by decide +kernel, by decide +kernel,
   _, _, .inr ⟨by decide +kernel, bits 9 (1 + 256), by decide +kernel, by decide +kernel, by decide +kernel, by decide +kernel,
     by decide +kernel, rfl, rfl⟩, by decide +kernel, by decide +kernel, by decide +kernel⟩

/-- A command whose turn comes in a state in which it has been dispatched. -/
theorem waiting_arrives {s : State} {cls sub : Nat} {b : CmdBits}
    (h : unstartedOf cls sub (waiting s b) 0 = some (cmd0 b) ∧ envClass b = cls ∧ cmdSub b = sub) :
    Arrives cls sub 0 (waiting s b) (waiting s b) (cmd0 b) := .inl ⟨h.1, rfl, h.2.1, h.2.2, rfl⟩

/-- A MATMUL whose bond table is in a stored slab; SNAP behind a command of its context; SNAP with every context of its core taken; and
SNAP on a cluster that sleeps. -/
def farTable : CmdBits := bits 1 (word [(0, hbmHomed on 0), (64, 1)])
def behind : State := { ringed (bits 9 1) with cmds := [{ cmd0 (bits 9 1) with checked := true, wait := .sem }], nextCmd := 1 }
def taken : State := { on with ctxs := (List.range 4).map (fun n => (n, { ring := some (n + 1), st := 1 })) }
def sleeping : State := { on with clusters := [], coreDoms := [] }

theorem met_CommandsWaitForTheirStart : ringRow (.matmul 0) = some (1, 0, 0) ∧ ringHeld (waiting on farTable) (.matmul 0) = false ∧
    Sound (waiting on farTable) ∧ Arrives 1 0 0 (waiting on farTable) (waiting on farTable) (cmd0 farTable) ∧
    rowNeed 1 0 (waiting on farTable) (cmd0 farTable) ≠ [] ∧
    unreachable (waiting on farTable) 0 (hbmHomed on 0 / 65536) = false ∧
    unreachable (waiting { on with flash := { on.flash with retiredPkgs := List.range 64 } } farTable) 0 (hbmHomed on 0 / 65536) = true ∧
    Sound behind ∧ (∃ v c, Arrives 9 1 0 behind v c ∧ rowNeed 9 1 v c = [] ∧ rowAtOnce 9 1 = true ∧ waitsBehind v c = true) ∧
    Arrives 9 1 0 (waiting taken (bits 9 1)) (waiting taken (bits 9 1)) (cmd0 (bits 9 1)) ∧
    rowCheck 9 1 (waiting taken (bits 9 1)) (cmd0 (bits 9 1)) = none ∧
    canBind (waiting taken (bits 9 1)) 0 (cmdCores (waiting taken (bits 9 1)) 0 (bits 9 1)) = false ∧
    Arrives 9 1 0 (waiting sleeping (bits 9 1)) (waiting sleeping (bits 9 1)) (cmd0 (bits 9 1)) ∧
    rowCheck 9 1 (waiting sleeping (bits 9 1)) (cmd0 (bits 9 1)) = none ∧
    ((waiting sleeping (bits 9 1)).wantClusters (reaches (waiting sleeping (bits 9 1)) (cmd0 (bits 9 1)))).2 = true :=
  ⟨rfl, by decide +kernel, sound_of rfl (by decide +kernel), waiting_arrives (by decide +kernel), by decide +kernel,
   by decide +kernel, by decide +kernel, sound_of rfl (by decide +kernel),
   ⟨_, _, .inr ⟨by decide +kernel, bits 9 1, by decide +kernel, by decide +kernel, by decide +kernel, by decide +kernel,
     by decide +kernel, rfl, rfl⟩, by decide +kernel, by decide +kernel, by decide +kernel⟩,
   waiting_arrives (by decide +kernel), by decide +kernel, by decide +kernel, waiting_arrives (by decide +kernel),
   by decide +kernel, by decide +kernel⟩

/-! ### Barriers, contexts, the tier manager and the guard push -/

/-- One LINTEL command has arrived at core 0, the only member, or at core 0 alone of two. -/
def barrier (mask : Nat) : State :=
  { on with
    lintels := [(0, { mask := some (BitVec.ofNat 64 mask), arrived := [(0, 0)], first := some 0 })]
    cmds := [{ cmd0 (sync 0x20 []) with checked := true, wait := .lintel, cores := [0] }], nextCmd := 1 }

theorem met_RetireAndLintelBarriers_ends : Sound (barrier 1) ∧ Sound (barrier 3) ∧ (0 : Nat) < on.settings.partitions ∧
    lintelFull (((barrier 1).at_ 0).lintelArrivals 0) 0 = true ∧ lintelFull (((barrier 3).at_ 0).lintelArrivals 0) 0 = false ∧
    (lintelOf (((barrier 3).at_ 0).lintelArrivals 0) 0).first = some 0 ∧
    0 + 1000000 * (barrier 3).regFld (synHome (barrier 3) 0) Reg.synLintelCtl 13 0 ≤
      (((barrier 3).at_ 1000000000000).lintelArrivals 0).now ∧
    (((barrier 3).at_ 0).lintelArrivals 0).now < 1000000 * (barrier 3).regFld (synHome (barrier 3) 0) Reg.synLintelCtl 13 0 ∧
    (lintelOf ((on.at_ 0).lintelArrivals 0) 0).first = none :=
  ⟨sound_of rfl (by decide +kernel), sound_of rfl (by decide +kernel), by decide +kernel⟩

/-- Cluster 0 with its period of 1 ms elapsed, the pair 0 equal and the pair 1 not. -/
def pointing : State :=
  { on.setRegFld (Blk.syn.page 0) Reg.synPointCtl 19 0 1000 with
    clusters := [(0, { asleep := false, pointPassed := 16, pointDue := true })], now := 2000000
    ctrs := [(0, { issued := 1, retired := 1 }), (1, { issued := 2, retired := 1 })] }

/-- Context 0 runs a command on core 0; context 1 is runnable, of a greater priority. -/
def contested (boundary : Bool) : State :=
  { waiting on (bits 9 1) with
    ctxs := [(0, { ring := some 0, st := 1 }), (1, { ring := some 1, st := 2, prio := 7 })]
    cores := [(0, { running := some 0, boundary := boundary })] }
def contested1 : State := { contested true with cores := [] }

theorem met_PointingAndContextSwitches : Sound pointing ∧
    (cluster pointing 0).pointStart + ((cluster pointing 0).pointPassed + 1) *
      (pointing.regFld (Blk.syn.page 0) Reg.synPointCtl 19 0 * 1000) ≤ (pointing.at_ 17000000).now ∧
    (pointing.at_ 16999999).now < (cluster pointing 0).pointStart + ((cluster pointing 0).pointPassed + 1) *
      (pointing.regFld (Blk.syn.page 0) Reg.synPointCtl 19 0 * 1000) ∧
    pointElapsed (pointing.at_ 17000000) 0 = true ∧ clusterQuiet (pointing.at_ 17000000) 0 = true ∧
    pointElapsed (on.at_ 0) 47 = false ∧
    Sound (contested true) ∧ runnable (contested true) 0 = [1] ∧ ctxBusy (contested true) 0 = true ∧
    ((coreCtx (contested true) 0).running = some 0 ∧ (coreCtx (contested true) 0).boundary = true) ∧
    coreUsable (contested true) 0 = true ∧ (ctx (contested true) 0).prio < (ctx (contested true) 1).prio ∧
    (coreCtx (contested false) 0).boundary = false ∧
    (runnable contested1 0 = [1] ∧ (coreCtx contested1 0).running = none ∧ (coreCtx contested1 0).switchTo = none) ∧
    (runnable on 383 = [] ∧ (coreCtx on 383).switchTo = none) ∧
    (coreCtx { on with cores := [(0, { switchTo := some 1 })] } 0).switchTo = some 1 :=
  ⟨sound_of rfl (by decide +kernel), by decide +kernel, by decide +kernel, by decide +kernel, by decide +kernel,
   by decide +kernel, sound_of rfl (by decide +kernel), by decide +kernel⟩

/-- The first stored slab of partition 0, a job of it, and a frame of it. -/
def slab0 : Nat := hbmHomed on 0 / 65536
def tiered (jobs : List TierJob) (frames : SMap (Option Frame)) (st : Nat) : State :=
  { on with tiers := [(0, { jobs := jobs, frames := frames, slabs := [(slab0, st)] })] }
def fetching : State := tiered [{ slab := slab0, cls := 1 }] [] 1
def writing : State := tiered [{ slab := slab0, cls := 3, wb := true }] [(0, some { slab := slab0, ready := true, dirty := true })] 1
def clean : State := tiered [{ slab := slab0, cls := 3, wb := true }] [(0, some { slab := slab0, ready := true })] 1
def arriving : State := tiered [] [(0, some { slab := slab0 })] 1
def leaving : State := tiered [] [(0, some { slab := slab0, ready := true, dirty := true, wb := true })] 1
def noBridges (s : State) : State := { s with flash := { s.flash with retiredPkgs := List.range 64 } }
def late : State :=
  { on.setRegFld (tirPage on 0) Reg.tirReadyLim 13 0 1 with
    cmds := [{ cmd0 (tierCmd 1) with checked := true, wait := .slabReady 0 }], nextCmd := 1 }

theorem met_TierManager : (Sound fetching ∧ Sound writing ∧ Sound clean ∧ Sound arriving ∧ Sound leaving ∧ Sound late) ∧
    (fetching.sweepFrames 0 = fetching ∧ fetching.startup.part.getD 0 1 = 0 ∧ frameOf fetching 0 slab0 = none ∧
      unreachable fetching 0 slab0 = false ∧ unreachable (noBridges fetching) 0 slab0 = true ∧
      (freeFrame fetching 0 (colourOf fetching (65536 * slab0)) (frameCount fetching 0) (firstRow fetching 0)).isSome = true ∧
      (noBridges fetching).sweepFrames 0 = noBridges fetching) ∧
    (writing.sweepFrames 0 = writing ∧ bridgeFaulted writing (bridgeOf writing 0 slab0) = false) ∧
    (clean.sweepFrames 0 = clean ∧ (frameOf clean 0 slab0).map (fun e => e.2.dirty) = some false) ∧
    ((frameOf arriving 0 slab0).map (fun e => e.2.ready) = some false ∧ frameKey arriving 0 0 + 65536 ≤ 2 ^ 48 ∧
      slabState arriving 0 slab0 = 1 ∧ slabState on 0 slab0 = 0) ∧
    ((frameOf leaving 0 slab0).map (fun e => e.2.wb) = some true ∧
      bridgeFaulted (noBridges leaving) (bridgeOf leaving 0 slab0) = true) ∧
    (let v := (partsAll late).foldl (fun u p => u.ledgerExpire p) (late.at_ 1000001)
     0 + 1000000 * v.regFld (tirPage late 0) Reg.tirReadyLim 13 0 < v.now) ∧
    (let v := (partsAll late).foldl (fun u p => u.ledgerExpire p) (late.at_ 1000000)
     v.now ≤ 0 + 1000000 * v.regFld (tirPage late 0) Reg.tirReadyLim 13 0) :=
  ⟨⟨sound_of rfl (by decide +kernel), sound_of rfl (by decide +kernel), sound_of rfl (by decide +kernel),
    sound_of rfl (by decide +kernel), sound_of rfl (by decide +kernel), sound_of rfl (by decide +kernel)⟩, by decide +kernel⟩

/-- A STEP_BEGIN waits for the guard push: for an unfinished command, and for none. -/
def pushing (ids : List Nat) : State :=
  { on with
    cmds := [{ cmd0 (bits 9 1) with checked := true }, { cmd0 (bits 8 1) with id := 1, checked := true, wait := .guard }]
    nextCmd := 2, ledgers := [(0, { pushWait := some (1, ids) })]
    guards := [(0, { touched := true }), (1023, { config := 0x80000000 })] }

/-- A tile of a MATMUL that waits for its audit on core 0. -/
def audit0 : State := { on with audits := [{ cmd := cmd0 matmul0, vals := [] }] }

theorem met_GuardPushAndAudit : Sound (pushing []) ∧ Sound (pushing [0]) ∧ Sound audit0 ∧
    ((ledger (pushing [0]) 0).pushWait = some (1, [0]) ∧ ∃ c ∈ (pushing [0]).cmds, c.id ∈ [0] ∧ c.status = none) ∧
    (ledger (pushing []) 0).pushWait = some (1, []) ∧ (ledger on 3).pushWait = none ∧
    (audit0.audits.find? (fun b => b.core == 0)).isSome = true ∧ (∀ a ∈ audit0.audits, a.core ≠ 1) :=
  ⟨sound_of rfl (by decide +kernel), sound_of rfl (by decide +kernel), sound_of rfl (by decide +kernel), by decide +kernel⟩

/-- With a record open at the start of the ledger, in HBM. -/
theorem met_StepBegin_record :
    let s := waiting { on with ledgers := [(0, { openAt := some 0 })] } (bits 8 1)
    Sound s ∧ (∃ u x, Starts true 8 1 0 noNeed ledgerCheck s u x) ∧ addrOff (ledgerBase s 0 + 0 % 2 ^ 32) + 64 ≤ hbmHomed s 0 ∧
      poisonedRange s 0 (addrOff (ledgerBase s 0)) 64 = false :=
  ⟨sound_of rfl (by decide +kernel), waiting_starts (by decide +kernel), by decide +kernel, by decide +kernel⟩

/-! ### Tiles, sweeps, conversion and fused stages -/

/-- One tile with one live row, column and K index: length register 0 holds 1. -/
def tiled : Bond :=
  { kSeg := 32, nT := 32, mT := 32
    levels := [{ pos := 0, var := 2, bound := 32, lenMode := 1 }, { pos := 1, var := 1, bound := 32, lenMode := 1 },
      { pos := 2, var := 0, bound := 32, lenMode := 1 }] }

/-- The MATMUL on engines 0 and 1, admitted, with both operands of its tile landed; core 0 runs its context. -/
def matmul1 : CmdBits := bits 1 (word [(0, 0x1000), (64, 3)] + records)
def landed (role base : Nat) : Stream := { role := role, landed := (List.range 4).map (fun i => (base + i, 1)) }
def runner : Cmd :=
  { cmd0 matmul1 with
    checked := true, admitted := true, bond := some tiled, lens := [(0, 1)]
    streams := [landed 0 0x10000, landed 1 0x20000, { role := 2 }] }
def seg0 (started : Bool) : TileSeg := { segOf tiled [(0, 1)] 0 0 0 with started := started }
def engaged (q : Quad) (r : Ramp) : State :=
  { on with
    cmds := [runner], nextCmd := 1, ctxs := [(0, { ring := some 0, st := 1 })], cores := [(0, { running := some 0 })]
    quads := [(0, q)], engines := [(0, { ramp := r })] }

theorem met_TilesReachTheirEngines : Sound (engaged {} .idle) ∧ (engaged {} .idle).cmd? 0 = some runner ∧ runner.pass = 0 ∧
    (hasWalk runner.bits && runner.admitted && runner.status.isNone && !runner.walk.done) = true ∧
    nextStep tiled runner.lens (stepsOf tiled - runner.walk.pos) runner.walk.pos 0 = (0, 0, some (0, 0)) ∧
    (enginePos (engaged {} .idle) runner (matRun runner))[0]? = some (0, 0) ∧
    (quad (engaged {} .idle) 0 0).queue.length < 2 ∧ coreRuns (engaged {} .idle) 0 0 = true ∧
    2 ≤ (quad (engaged { queue := [seg0 true, seg0 false] } .idle) 0 0).queue.length ∧ on.cmd? 0 = none ∧
    (let s := engaged { queue := [seg0 false] } .idle
     (List.range 4).findSome? (fun q => ((quad s 0 q).queue.find? (fun g => !g.started && g.kseg == 0)).map (fun g => (q, g))) =
       some (0, seg0 false) ∧ (enginePos s runner (matRun runner)).findIdx? (fun e => e == (1, 0)) = some 1 ∧
     (∀ i < 4, (quad s 1 i).queue = []) ∧
     (tilesAt runner 1 + 1) * tiled.mT * tiled.nT * wordsPer (matRun runner) *
       (if tiled.chained then 2 else 1) ≤ (if (matRun runner).fracture then 16384 else 65536)) :=
  ⟨sound_of rfl (by decide +kernel), by decide +kernel⟩

/-- A block of the tile in the drain registers, and one for the converter. -/
def drain0 : Drain := { sel := [0], vals := List.replicate 1024 0, last := true }
def conv0 : Conv := {}

theorem met_RampsSweepsAndDrains : (engine (engaged {} (.up 8)) 0).ramp = .up 8 ∧ (engine (engaged {} .down) 0).ramp = .down ∧
    (engine on 0).ramp = .idle ∧ Sound (engaged { queue := [seg0 true] } .active) ∧
    (let s := engaged { queue := [seg0 true] } .active
     (quad s 0 0).queue = [seg0 true] ∧ s.cmd? 0 = some runner ∧ (seg0 true).zero = false ∧
     fillReady ((runner.streams[streamIdx runner 0 0]?).getD {}) 0 (faceOf (matRun runner) runner.lens false 0 0) = true ∧
     fillReady ((runner.streams[streamIdx runner 1 0]?).getD {}) 0 (faceOf (matRun runner) runner.lens true 0 0) = true) ∧
    isComplex (matRun runner).a.fmt = false ∧ Sound (engaged { drains := [drain0] } .active) ∧
    (quad (engaged { drains := [drain0] } .active) 0 0).drains = [drain0] ∧ drain0.sel.Nodup :=
  ⟨by decide +kernel, by decide +kernel, by decide +kernel, sound_of rfl (by decide +kernel), by decide +kernel, by decide +kernel,
   sound_of rfl (by decide +kernel), by decide +kernel, by decide +kernel⟩

/-- A MATMUL, EPILOGUE, QUANT and STORE chain with a block in each slice, and its streams. -/
def stageAt (i kind : Nat) : Nat × Nat := (1024 + 256 * i, word [(0, kind), (16, 1), (64, if kind = 1 then 0x1000 else 0), (198, 4)])
def fused1 : CmdBits := bits 1 (word [(57, 1), stageAt 0 1, stageAt 1 3, stageAt 2 4, stageAt 3 5] + records)
def block0 : SliceBlock := { addr := 0x30000, rows := 1, cols := 1, index := [0], words := List.replicate 1024 0 }
def fuser : Cmd :=
  { cmd0 fused1 with
    checked := true, admitted := true, bond := some tiled, lens := [(0, 1)]
    streams := [landed 0 0x10000, landed 1 0x20000, { role := 2 }]
    slices := [{ blocks := [block0] }, { index := 1, stage := 1, blocks := [block0] }, { index := 2, stage := 2, blocks := [block0] }] }
def fusing : State := { engaged { convs := [conv0] } .active with cmds := [fuser] }

theorem met_ConversionsAndFusedStages : Sound (engaged { convs := [conv0] } .active) ∧
    ((quad (engaged { convs := [conv0] } .active) 0 0).convs = [conv0] ∧ isFused runner.bits = false ∧
      persist? (engaged { convs := [conv0] } .active) 0 = none ∧ convSpan (matRun runner) 0 = some (0, 32)) ∧
    Sound fusing ∧ fusing.cmd? 0 = some fuser ∧ isFused fuser.bits = true ∧ (∀ st ∈ fuser.streams, st.role ≠ 6) ∧
    ((quad fusing 0 0).convs = [conv0] ∧ sliceFree fuser 0 0 = true) ∧
    ((stageKind fuser.bits 3).isSome = true ∧ 0 < stageNo fuser.bits 3 ∧
      (sliceAt fuser 0 (stageNo fuser.bits 3 - 1)).blocks.head? = some block0 ∧
      ∃ x ∈ fuser.slices, x.cluster = 0 ∧ x.stage = stageNo fuser.bits 3) ∧
    ((stageKind fuser.bits 4).isSome = true ∧ (sliceAt fuser 0 (stageNo fuser.bits 4 - 1)).blocks.head? = some block0 ∧
      sliceFree fuser 0 (stageNo fuser.bits 4) = true) ∧
    ((stageKind fuser.bits 5).isSome = true ∧
      (fuser.slices.find? (fun x => x.stage == stageNo fuser.bits 5 - 1 && !x.blocks.isEmpty)).isSome = true) ∧
    (stageKind fuser.bits 3).all (fun st => st.engines.testBit 0 && !st.resid) = true ∧
    (stageKind fuser.bits 5).all (fun st => st.arg0 == 0) = true :=
  ⟨sound_of rfl (by decide +kernel), by decide +kernel, sound_of rfl (by decide +kernel), by decide +kernel⟩

/-! ### Streams, requests and HBM -/

/-- The state after one command. -/
def after (i : Instr) (s : State) : State :=
  match exec i s with
  | .next t => t
  | _ => s

/-- A persistent stream with a pending REARM, one that is to end, and a RUN that waits for admission. -/
def rearming : State :=
  { on with
    persists := [{ stream7 with rearms := [0] }], cmds := [{ cmd0 rearm0 with checked := true }], nextCmd := 1 }
def ending : State := { on with persists := [{ stream7 with ending := true }] }
def asking : State := after (.run 0) (waiting listed run0)

theorem met_StreamsAndAdmission : Sound rearming ∧ Sound ending ∧ Sound (waiting listed run0) ∧
    ((persist? rearming 7).any (fun x => !x.inPass && x.rearms == [0]) && (rearming.cmd? 0).isSome) = true ∧
    ((persist? ending 7).any (fun x => x.ending && !x.inPass && x.rearms.isEmpty)) = true ∧ persist? on 7 = none ∧
    (asking.cmd? 0).any (fun c => c.wait == .admission && c.checked && c.status.isNone && !heldBack asking c && !waitsBehind asking c &&
      canBind asking 0 (cmdCores asking 0 c.bits) && (placeAll asking c (isPersistRun c.bits) (cmdClusters asking 0 c.bits)).isSome &&
      (cmdClusters asking 0 c.bits).all (fun cl => decide (slicesNeeded c.bits ≤ (freeSlices asking cl).length) &&
        !(cluster asking cl).asleep)) = true ∧
    ((waiting listed run0).cmd? 0).any (fun c => c.wait != .admission) = true ∧ isPersistRun run0 = false ∧
    isPersistRun runPersist0.bits = true :=
  ⟨sound_of rfl (by decide +kernel), sound_of rfl (by decide +kernel), sound_of rfl (by decide +kernel), by decide +kernel⟩

/-- A source stream of 64 bytes at an address, of which `issued` have been asked. -/
def source (base issued tags : Nat) : Stream :=
  { role := 3, issued := issued, list := { hdr := { floor := tags }, ents := [{ base := base, len := 64, count1 := 1, count2 := 1 }] } }
def reader (st : Stream) : State :=
  { on with cmds := [{ cmd0 run0 with checked := true, admitted := true, streams := [st] }], nextCmd := 1 }

theorem met_HodRequests : Sound (reader (source 0x10000 0 1)) ∧ persist? on 0 = none ∧
    (wantOf (source 0x10000 64 1) = none ∧
      (wantOf (source 0x10000 0 1)).any (fun w => w.hint.isNone && w.addr == 0x10000 && w.len == 64) = true) ∧
    (0x10000 + 64 ≤ hbmHomed (reader (source 0x10000 0 1)) 0 ∧ tagFor (reader (source 0x10000 0 1)) 0 0 (source 0x10000 0 1) = some false ∧
      tagFor (reader (source 0x10000 0 0)) 0 0 (source 0x10000 0 0) = none) ∧
    (missing (reader (source (65536 * slab0) 0 1)) 0 (65536 * slab0) 64 ≠ [] ∧ isOpen (65536 * slab0) = false ∧
      unreachable (reader (source (65536 * slab0) 0 1)) 0 slab0 = false ∧ unreachable (noBridges on) 0 slab0 = true) ∧
    (isOpen openBase = true ∧ openFenced on 0 openBase = false ∧
      openFenced { on with site := { on.site with siteFenced := true } } 0 openBase = true) ∧
    addWriteHeld { on with cmds := [{ cmd0 run0 with streams := [{ list := { hdr := { dir := 2 } } }] },
      { cmd0 run0 with id := 1, det := true }] } 1 = true :=
  ⟨sound_of rfl (by decide +kernel), by decide +kernel⟩

/-- A request of the MATMUL's first operand, and of its output. -/
def req0 (served bad : Bool) : Req := { len := 4, addr := 0x10000, ent := 1, served := served, bad := bad, data := [1, 2, 3, 4] }
def reply (r : Req) : State := { engaged {} .active with reqs := [r], nextReq := 1 }

theorem met_HodDataArrives : Sound (reply (req0 true false)) ∧
    (∀ r ∈ [req0 false false, req0 true false, req0 true true, { req0 true true with stream := 2, kind := .write }],
      (reply r).reqs.find? (fun q => q.id == r.id) = some r ∧ (reply r).cmd? r.cmd = some runner ∧
        persist? (reply r) r.cmd = none ∧ (runner.streams[r.stream]?).isSome = true) ∧ runner.admitted = true ∧ runner.status = none ∧
    (runner.streams[0]?).any (fun st => st.role == 0) = true ∧ (cluster (reply (req0 true false)) 0).dbe = [] :=
  ⟨sound_of rfl (by decide +kernel), by decide +kernel⟩

/-- A command of cluster 0 without progress, and one in a wait with a limit of its own. -/
def stuck (w : Wait) : State := { engaged {} .active with cmds := [{ runner with wait := w }] }

theorem met_SentinelExpiry : Sound (stuck .none) ∧
    (∃ c ∈ unfinishedIn ((stuck .none).at_ 1000000) 0, c.wait.exempt = false) ∧
    (cluster (stuck .none) 0).sentinel + 1000000 ≤ ((stuck .none).at_ 1000000).now ∧
    ((stuck .none).at_ 999999).now < (cluster (stuck .none) 0).sentinel + 1000000 ∧
    (∀ c ∈ unfinishedIn ((stuck (.slabReady 0)).at_ 1000000) 0, c.wait.exempt = true) :=
  ⟨sound_of rfl (by decide +kernel), by decide +kernel⟩

/-- One access of 64 or 32 bytes at 0x10000, written or fresh, poisoned or not. -/
def access (kind : ReqKind) (n : Nat) (fresh bad : Bool) : State :=
  { reader (source 0 0 0) with
    reqs := [{ addr := 0x10000, len := n, kind := kind, narrow := decide (n < 64), data := List.replicate n 0 }], nextReq := 1
    written := if fresh then [] else [(16, true)], poison := if bad then [(1024, true)] else [] }

theorem met_HbmAccesses : (∀ k ∈ [ReqKind.read, .write, .addWrite], ∀ n ∈ [32, 64], ∀ f b, ok (access k n f b) = true) ∧
    (∀ n ∈ [32, 64], (reqOf (access .read n false false) 0 .read (some (decide (n < 64)))).any (fun r =>
      serveKey (access .read n false false) r 64 == some 0x10000) = true) ∧
    (∀ n ∈ [32, 64], ∀ b, (reqOf (access .write n false b) 0 .write (some (decide (n < 64)))).any (fun r =>
      serveKey (access .write n false b) r 64 == some 0x10000) = true) ∧
    (reqOf (access .addWrite 64 false false) 0 .addWrite none).any (fun r =>
      serveKey (access .addWrite 64 false false) r 128 == some 0x10000) = true ∧
    (streamOf (access .addWrite 64 false false) 0 0).isSome = true ∧ (readElems 1 16 (List.replicate 64 0)).length = 16 ∧
    (isFresh (access .read 64 true false) 0x10000 = true ∧ isLost (access .read 64 true false) 0x10000 = false ∧
      isFresh (access .read 64 false false) 0x10000 = false ∧ isPoisoned (access .read 64 false false) 0x10000 = false ∧
      isPoisoned (access .read 64 false true) 0x10000 = true ∧
      hasMoved (chan (access .read 64 false false) (chanOfKey (access .read 64 false false) 0x10000))
        (chanOff (access .read 64 false false) 0x10000) = false) ∧
    (poisonedRange (access .write 64 false false) 0 0x10000 64 = false ∧ 0x10000 + 64 ≤ hbmHomed (access .write 64 false false) 0) ∧
    reqOf on 0 .read (some false) = none := by decide +kernel

/-- Channel 0 with a fresh or a written scrub access, a row in copy, and while it moves its last granule. -/
def scrubbed : State := { on with written := [(0, true)] }
def channel (c : Chan) : State := { scrubbed with chans := [(0, c)] }

theorem met_SpareRowsAndChannelMoves : Sound scrubbed ∧ Sound (channel { st := 2 }) ∧
    (keyOfChan scrubbed 0 0 = 0 ∧ chanServes scrubbed 0 0 = true ∧ hasMoved (chan scrubbed 0) 0 = false ∧
      isFresh scrubbed 0 = false ∧ wantedBy scrubbed 0 = false ∧ isFresh on 0 = true ∧ (chan scrubbed 0).st = 0 ∧
      isPoisoned scrubbed 0 = false) ∧
    (chan (channel { copying := some (0, 5) }) 0).copying = some (0, 5) ∧
    ((chan (channel { st := 2 }) 0).st = 2 ∧ (chan (channel { st := 2 }) 0).moved < chanGrans ∧
      (stack (channel { st := 2 }) 0).offline = false ∧ isFresh (channel { st := 2 }) (keyOfChan (channel { st := 2 }) 0 0) = false ∧
      isFresh (channel { st := 2, moved := chanGrans - 1 })
        (keyOfChan (channel { st := 2 }) 0 (4096 * (chanGrans - 1))) = true) ∧
    (chan (channel { st := 2, moved := chanGrans }) 0).moved = chanGrans ∧ (chan (channel { st := 2, lost := some 3 }) 0).lost ≠ none :=
  ⟨sound_of rfl (by decide +kernel), sound_of rfl (by decide +kernel), by decide +kernel⟩

/-! ### Heat, near memory and the fabric -/

/-- Stack 0 sampled at level 1; die 0 likewise. -/
def warmed : State := { on with stks := [(0, { sampled := true })], dies := [(0, { sampled := true })] }

theorem met_HeatCoolantAndDieFaults : Sound warmed ∧ warmed.startup.part.length = 4 ∧
    (newBad 0 4 [50, 50, 50, 50] = [] ∧ (stack warmed 0).offline = false ∧ (heatStep 1 none 50 0).1 ≠ 4 ∧ (heatStep 1 none 200 0).1 = 4 ∧
      stackHeld 0 = false ∧ partOfStack warmed 0 < warmed.startup.part.length) ∧
    (sensorsIn 0 [50, 51, 52, 53]).map Prod.snd = [50, 51, 52, 53] ∧
    [0, 3, 12].all (fun n => !(die warmed n).offline && (newBad 0 (dieSensors n) (List.replicate (dieSensors n) 50)).isEmpty) = true ∧
    (on.coolant.tripSince = none ∧ { on with coolant := { on.coolant with tripSince := some 5 } }.coolant.tripSince = some 5) ∧
    [0, 4, 12].all (fun n => decide (n < 13) && decide (3 ≤ on.startup.phase) && on.startup.powered && !(die on n).faulted) = true :=
  ⟨sound_of rfl (by decide +kernel), by decide +kernel⟩

/-- A FENCE that waits for an unfinished command, and for none. -/
def fencing (covers : List Nat) : State :=
  { on with
    cmds := [{ cmd0 add0 with checked := true }, { cmd0 fence0 with id := 1, checked := true, wait := .fence, covers := covers }]
    nextCmd := 2 }

theorem met_NmuCommandsStart_fence : ((fencing [0]).cmd? 1).any (fun c => c.status.isNone && c.wait == .fence) = true ∧
    (∃ d ∈ (fencing [0]).cmds, d.id ∈ [0] ∧ d.status = none) ∧
    unitsFull 1 { waiting on add0 with
      chans := (nmuHomes on 0 (ndOf add0)).map (fun c => (c, { queue := List.replicate 64 {} })) } 0 = true := by decide +kernel

/-- ADD on its home unit, in a mode, with an awake group. -/
def home0 : Nat := (nmuHomes on 0 (ndOf add0)).headD 0
def unit (m : Nat) (since : Nat) (c : List Commit) : State :=
  { on with
    cmds := [{ cmd0 add0 with checked := true, wait := .slotGrant 0, units := [home0] }], nextCmd := 1
    chans := [(home0, { mode := m, slotStart := since, outStart := since, queue := [{}], commits := c })]
    stks := [(home0 / 32, { groupAsleep := [false, false, false, false] })], now := 1000 }

theorem met_NearMemorySlotsAndUnits : Sound (unit 0 0 []) ∧ slotFree ((unit 0 0 []).at_ 1000) home0 = true ∧
    slotFree (on.at_ 0) 255 = false ∧
    ((chan (unit 1 0 []) home0).mode = 1 ∧ (chan (unit 1 0 []) home0).slotStart + 180 ≤ ((unit 1 0 []).at_ 1000).now) ∧
    ((unit 1 900 []).at_ 1000).now < (chan (unit 1 900 []) home0).slotStart + 180 ∧
    ((chan (unit 2 0 []) home0).mode = 2 ∧
      (chan (unit 2 0 []) home0).slotStart + 180 + slotNs (unit 2 0 []) home0 ≤ ((unit 2 0 []).at_ 1000000).now) ∧
    ((chan (unit 3 0 []) home0).mode = 3 ∧ (chan (unit 3 0 []) home0).outStart + 180 ≤ ((unit 3 0 []).at_ 1000).now) ∧
    ((ndOf add0).isEw = true ∧ (nextElem (unit 1 0 []) 0 (ndOf add0) home0 ((ndOf add0).total + 1) 0).isSome = true ∧
      (nextElem (unit 1 0 []) 0 (ndOf add0) home0 ((ndOf add0).total + 1) 0).all (fun e =>
        !chainHeld (unit 1 0 []) 0 0 home0 (granulesOf ((ndOf add0).srcBytes (unit 1 0 []) (accessGroup (ndOf add0) e))) &&
        !srcPoisoned (unit 1 0 []) 0 ((ndOf add0).srcBytes (unit 1 0 []) (accessGroup (ndOf add0) e))) = true) ∧
    ((chan (unit 2 0 [{}]) home0).commits = [{}] ∧ ((unit 2 0 [{}]).cmd? 0).any (fun c => !c.stamps) = true) ∧
    (∃ x ∈ [home0], (chan (unit 0 0 []) x).mode = 0 ∧
      1000000 * (unit 0 0 []).regFld (nmuPage (2 * firstDie (unit 0 0 []) 0)) Reg.nmuGrantLim 13 0 < ((unit 0 0 []).at_ (10 ^ 15)).now) :=
  ⟨sound_of rfl (by decide +kernel), by decide +kernel⟩

/-- An ALL_REDUCE that has taken CSEQ 1 of course 0. -/
def gathering : State :=
  { coursed with
    cmds := [{ cmd0 allReduce0 with checked := true, wait := .coll, coll := { accepted := true, seqs := [(0, 1)] } }], nextCmd := 1
    courses := [(0, { st := 2, cseq := 1 })] }

theorem met_Collectives_timeouts : Sound gathering ∧ (gathering.cmd? 0).any (fun c => c.status.isNone && c.coll.accepted) = true ∧
    0 + collLimit gathering 0 ≤ (gathering.at_ (10 ^ 13)).now ∧ (gathering.at_ 0).now < 0 + collLimit gathering 0 ∧
    (collOf gathering 0 1).isSome = true ∧ (collOf gathering 0 2 = none ∧ isAhead gathering 0 2 = true ∧ 2 ∉ (course gathering 0).abandoned) ∧
    (collOf gathering 0 0 = none ∧ isAhead gathering 0 0 = false) ∧ (course { gathering with courses := [(0, { st := 2, cseq := 65535 })] } 0).cseq = 65535 :=
  ⟨sound_of rfl (by decide +kernel), by decide +kernel⟩

/-- Port 0 up on 16, or on 12, wavelengths; course 0 up over it, which may fall back. -/
def ported (wl : Nat) : State := { coursed with ports := [(0, { st := 1, wl := BitVec.ofNat 16 wl }), (1, { st := 1 })] }
def flitOf (c : Nat) : BitVec 2048 := BitVec.ofNat 2048 (2 ^ 80 + 2 ^ 96 * c)

theorem leBytes_add (n : Nat) : ∀ v w, leBytes n (v + 256 ^ n * w) = leBytes n v := by
  induction n with
  | zero => intro v w; rfl
  | succ n ih =>
    intro v w
    have h : v + 256 ^ (n + 1) * w = v + 256 * (256 ^ n * w) := by rw [Nat.pow_succ, Nat.mul_comm (256 ^ n), Nat.mul_assoc]
    have d : (v + 256 * (256 ^ n * w)) / 256 = v / 256 + 256 ^ n * w := by omega
    have b : BitVec.ofNat 8 (v + 256 * (256 ^ n * w)) = BitVec.ofNat 8 v := by
      apply BitVec.eq_of_toNat_eq
      simp only [BitVec.toNat_ofNat]
      omega
    simp only [leBytes, h, d, b, ih]

theorem flitOf_toNat {c : Nat} (h : c < 2 ^ 32) : (flitOf c).toNat = 2 ^ 80 + 2 ^ 96 * c := by
  simp only [flitOf, BitVec.toNat_ofNat]
  exact Nat.mod_eq_of_lt (Nat.lt_of_lt_of_le (by omega : _ < 2 ^ 129) (Nat.pow_le_pow_right (by omega) (by omega)))

/-- The CRC of a flit does not depend on its CRC field. -/
theorem flitOf_crc {c : Nat} (h : c < 2 ^ 32) : flitCrc (flitOf c) = (crc32 (leBytes 12 (2 ^ 80) ++ leBytes 240 0)).toNat := by
  have e : leBytes 12 (2 ^ 80 + 2 ^ 96 * c) = leBytes 12 (2 ^ 80) := leBytes_add 12 _ _
  simp only [flitCrc, flitOf_toNat h, e]
  have z : (2 ^ 80 + 2 ^ 96 * c) >>> 128 = 0 := by rw [Nat.shiftRight_eq_div_pow]; omega
  rw [z]

theorem flitOf_fld {c : Nat} (h : c < 2 ^ 32) : flitFld (flitOf c) 127 96 = c := by
  simp only [flitFld, flitOf_toNat h, fld, Nat.shiftRight_eq_div_pow]
  omega

/-- A flit with SEQ 1 and its CRC, and one with another CRC. -/
theorem met_FlitsAndPorts_crc : (∃ f, flitCrc f = flitFld f 127 96) ∧ ∃ f, flitCrc f ≠ flitFld f 127 96 := by
  have l (n : Nat) (h : n < 2 ^ 32) := And.intro (flitOf_crc h) (flitOf_fld h)
  refine ⟨⟨_, (l _ (crc32 (leBytes 12 (2 ^ 80) ++ leBytes 240 0)).isLt).1.trans (l _ (BitVec.isLt _)).2.symm⟩,
    ⟨flitOf (((crc32 (leBytes 12 (2 ^ 80) ++ leBytes 240 0)).toNat + 1) % 2 ^ 32), ?_⟩⟩
  rw [(l _ (Nat.mod_lt _ (by decide))).1, (l _ (Nat.mod_lt _ (by decide))).2]
  have := (crc32 (leBytes 12 (2 ^ 80) ++ leBytes 240 0)).isLt
  omega

theorem met_FlitsAndPorts : Sound (ported 0xFFFF) ∧
    ((port (ported 0xFFFF) 0).st = 1 ∧ (port (ported 0xFFFF) 0).wl.getLsbD 15 = true) ∧ (port on 15).st = 0 ∧
    (12 < wlCount 0xFFFF ∧ wlCount 0x0FFF ≤ 12) ∧ (flitFld (flitOf 0) 95 80 + 65536 - (port (ported 0xFFFF) 0).rxSeq) % 65536 = 1 ∧
    ((course (ported 0xFFFF) 0).st = 2 ∧ hasNext (ported 0xFFFF) 0 false = true ∧ mayFallBack (ported 0xFFFF) 0 = false) ∧
    (mayFallBack ((ported 0xFFFF).setRegFld (coursePage 0) Reg.narCourse 61 61 1) 0 = true ∧ hasPeer (ported 0xFFFF) 1 = true) ∧
    4 ≤ on.startup.phase :=
  ⟨sound_of rfl (by decide +kernel), by decide +kernel⟩

/-- Course 0 of two members, enabled or walking, this module with ID 5. -/
def walking (lead : Nat) : State :=
  { (on.setRegFld (coursePage 0) Reg.narCourse 57 40 2).setRegFld (coursePage 0) Reg.narCourse 21 21 lead with
    courses := [(0, { st := 1 })], ports := [(0, { st := 1 }), (1, { st := 1 })] }
def token (ids : List Nat) (back ok : Bool) : WalkTok :=
  { count := ids.length, tag := 0, kind := 0, size := 2, ids := ids, back := back, ok := ok, fallback := false, shards := [] }

theorem met_CourseWalks : Sound (walking 1) ∧ Sound (walking 0) ∧ accessOf on .host (coursePage 0) true = .ok ∧
    (courseOn on 0 = false ∧ courseOn (on.setReg (coursePage 0) Reg.narCourse (courseWord on 0 (BitVec.ofNat 64 (2 ^ 63)))) 0 = true ∧
      courseReg (on.setReg (coursePage 0) Reg.narCourse (courseWord on 0 (BitVec.ofNat 64 (2 ^ 63)))) 0 21 21 = 0) ∧
    (let s := on.setRegFld (coursePage 0) Reg.narCourse 63 63 1
     courseOn s 0 = true ∧ courseOn (s.setReg (coursePage 0) Reg.narCourse (courseWord s 0 0)) 0 = false) ∧
    ((course (walking 1) 0).st = 1 ∧ (course (walking 1) 0).fallback = false ∧ courseReg (walking 1) 0 21 21 = 1) ∧
    (let own := (walking 1).settings.moduleId
     (token [own, own + 1] false false).ids.head? = some own ∧ (token [own, own + 1] false false).count = courseSize (walking 1) 0 ∧
       (courseReg (walking 0) 0 21 21 = 0 ∧ own ∉ (token [own + 1] false false).ids ∧ own ∈ (token [own] false false).ids ∧
        (token [own + 1] false false).count + 1 = courseSize (walking 0) 0)) ∧
    (token [] true true).back = true ∧ (course (walking 1) 0).walkStart + 1000000000 ≤ ((walking 1).at_ 1000000000).now ∧
    ((walking 1).at_ 999999999).now < (course (walking 1) 0).walkStart + 1000000000 :=
  ⟨sound_of rfl (by decide +kernel), sound_of rfl (by decide +kernel), by decide +kernel⟩

theorem met_ShardsAndTime : Sound { on with shards := [(shardKey 0 0, { st := 1, peer := 6 })] } ∧
    ((shard { on with shards := [(shardKey 0 0, { st := 1, peer := 6 })] } 0 0).st = 1 ∧ (shard on 3 16383).st = 0) ∧
    (blkOf (Blk.nar.page 0) = .nar ∧ accessOf on .host (Blk.nar.page 0) true = .ok ∧ blkOf 0 ≠ .nar) ∧
    (shard { on with shards := [(shardKey 0 0, { st := 1, peer := 6 })] } 0 (on.regFld (Blk.nar.page 0) Reg.narShardSel 13 0)).st = 1 ∧
    (on.settings.timeSource ≠ 3 ∧ { on with time := { on.time with locked := true } }.time.lastFlit + 10000000 ≤ (on.at_ 10000000).now) ∧
    (on.at_ 9999999).now < on.time.lastFlit + 10000000 ∧ on.time.lastSend + 1000000 ≤ (on.at_ 1000000).now ∧
    (on.at_ 999999).now < on.time.lastSend + 1000000 :=
  ⟨sound_of rfl (by decide +kernel), by decide +kernel⟩

/-- Every link is up; two requests are outstanding at the open site's module 0: a read and a write of commands. -/
def linked : State :=
  { engaged {} .active with
    links := (List.range 30).map (fun l => (l, { st := 1 }))
    reqs := [{ req0 false false with addr := openBase }, { req0 false false with id := 1, addr := openBase, kind := .write }], nextReq := 2
    site := { on.site with admitted := true, reqs := [{ req := 0 }, { id := 1, req := 1 }] } }

theorem met_LinksAndOpenSite : Sound linked ∧ linked.startup.part.length = 4 ∧ (link linked 29).st = 1 ∧ (link on 0).st ≠ 1 ∧
    (link { linked with links := [(0, { st := 2 })] } 0).st = 2 ∧
    (5 ≤ (link { linked with links := [(0, { st := 1, fails := 4 })] } 0).fails + 1) ∧
    (partOfDie linked (cdEnds 0).1 = partOfDie linked (cdEnds 0).2 ∧
      linked.site.fenced.length = 4 ∧ linked.site.irqStat.length = 4 ∧ linked.site.fenced.getD 3 false = false ∧
      linked.site.siteFenced = false) ∧ linked.flash.variantC = false ∧ on.site.admitted = false ∧
    (linked.site.reqs.find? (fun r => r.id == 0 && r.module == 0)).isSome = true ∧
    linked.site.reqs.find? (fun r => r.id == 0 && r.module == 1) = none ∧
    (linked.reqs.find? (fun q => q.id == 0)).any (fun q => q.kind == .read && q.len == 4) = true ∧
    (linked.reqs.find? (fun q => q.id == 1)).any (fun q => q.kind != .read) = true :=
  ⟨sound_of rfl (by decide +kernel), by decide +kernel⟩

/-! ### The host, tenants and Xanna -/

/-- Window 0 on the start of partition 0, enabled. -/
def windowed : State := on.setRegFld 0 Reg.hstWin 63 63 1

theorem met_WindowAccesses : Sound windowed ∧ windowed.pcie.d3hot = false ∧ winPart windowed 0 = 0 ∧
    (windowed.regFld (Blk.sec.page 0) Reg.secSeal 0 0 ≠ 1 ∧
      (windowed.setRegFld (Blk.sec.page 0) Reg.secSeal 0 0 1).regFld (Blk.sec.page 0) Reg.secSeal 0 0 = 1) ∧
    (winFenced windowed 0 (winAddr windowed 0 64) 8 = false ∧ winFenced on 0 (winAddr on 0 64) 8 = true ∧ winFenced on 7 0 8 = true) ∧
    (winBehind windowed { id := 0, addr := 64, len := 8 } = false ∧
      winBehind { windowed with pcie := { windowed.pcie with accs := [{ addr := 64, len := 8, data := some [] }], nextAcc := 1 } }
        { id := 1, addr := 64, len := 8 } = true) ∧
    (isOpen 64 = false ∧ missing windowed 0 64 8 = [] ∧
      chanServes windowed (chanOfKey windowed (keyAt windowed 0 64)) (chanOff windowed (keyAt windowed 0 64)) = true ∧
      paceRoom (chan windowed (chanOfKey windowed (keyAt windowed 0 64))) (64 * accesses 64 8) = true) ∧
    (isFresh { windowed with written := [(0, true)] } (keyAt windowed 0 64) = false ∧
      poisoned { windowed with written := [(0, true)] } (keyAt windowed 0 64) 8 = false ∧
      poisonedRange windowed 0 64 8 = false ∧ 64 + 8 ≤ hbmHomed windowed 0) ∧
    ((∀ r ∈ windowed.site.reqs, r.id ≠ winReq 0) ∧ isOpen openBase = true) ∧
    ((windowed.at_ 39999999).now < 0 + 40000000 ∧ 0 + 40000000 ≤ (windowed.at_ 40000000).now) :=
  ⟨sound_of rfl (by decide +kernel), by decide +kernel⟩

theorem met_PcieFunction : Sound (ringed (bits 9 1)) ∧ (ring (ringed (bits 9 1)) 0).st ≠ 0 ∧ on.pcie.holdoff = none ∧
    { on with pcie := { on.pcie with holdoff := some 0 } }.pcie.holdoff ≠ none ∧ on.startup.phase = 7 :=
  ⟨sound_of rfl (by decide +kernel), by decide +kernel⟩

/-- A ring with its areas apart, off, on and draining; a command of it that has ended. -/
def areas : State := (on.setReg (ringPage 0) Reg.ringBase 0x8000).setReg (ringPage 0) Reg.ringCpl 0x10000
def ringOn (r : Ring) : State := { areas.setRegFld (ringPage 0) Reg.ringCtl 63 63 1 with rings := [(0, r)] }
def ended : State :=
  { ringOn { st := 1, busy := [0] } with cmds := [{ cmd0 (bits 9 1) with checked := true, status := some 1 }], nextCmd := 1 }

theorem met_RingControl : Sound areas ∧ Sound ended ∧ accessOf areas .host (ringPage 0) true = .ok ∧
    (areas.regFld (ringPage 0) Reg.ringCtl 63 63 ≠ 1 ∧ mayEnable areas (partOfRing areas 0) = true ∧ (ring areas 0).st ≠ 2 ∧
      ringFits areas 0 0 = true ∧ ringFits on 0 0 = false) ∧
    ((ringOn { st := 1 }).regFld (ringPage 0) Reg.ringCtl 63 63 = 1 ∧
      missing (ringOn { st := 1, clearing := true }) 0 (addrOff (ringCpl areas 0)) (32 * ringSize areas 0) = []) ∧
    ((ring (ringOn { st := 2 }) 0).st = 2 ∧ (ringOn { st := 2 }).cmds = []) ∧
    (fld 0 15 0 < ringSize (ringOn { st := 1 }) 0 ∧ ringSize (ringOn { st := 1 }) 0 ≤ fld 65535 15 0) ∧
    ((ended.cmd? 0).any (fun c => c.status == some 1 && !posts c 1 && !c.trace) = true ∧
      (ended.cmd? 0).any (fun c => missing ended 0 (recordAt ended c) 32 == [] &&
        !isPoisoned ended (keyAt ended 0 (recordAt ended c))) = true) ∧ on.cmd? 5 = none :=
  ⟨sound_of rfl (by decide +kernel), sound_of rfl (by decide +kernel), by decide +kernel⟩

/-- Responder 1 with its connection complete and an open session of the bound tenant's root. -/
def attested (y : KeySlot) : State :=
  { on with secs := [(0, { bound := true, root := 5, spdm := { conn := 3, sessions := [{ id := 1, open_ := true, root := some 5 }] },
                            keys := [(1, y)] })] }
def put (op : Nat) : BitVec 320 := BitVec.ofNat 320 (word [(0, op), (8, 1), (32, 9), (64, if op = 1 then 7 else 0)])

theorem met_SpdmRequests : spdmUp dark 0 = false ∧ spdmUp on 0 = true ∧ (spdmOf on 0).conn < 1 ∧ 3 ≤ (spdmOf (attested {}) 1).conn ∧
    spdmUp on 2 = false ∧ sessionOf (attested {}) 1 2 = none ∧ (sessionOf (attested {}) 1 1).any (·.open_) = true ∧
    firmwareUp on = true ∧ measIndices on 0 ≠ [] ∧ 77 ∉ measIndices on 0 := by decide +kernel

theorem met_KeySlots_sessions : Sound (attested {}) ∧ (spdmUp (attested {}) 1 = true ∧ 3 ≤ (spdmOf (attested {}) 1).conn) ∧
    ((sec (attested {}) 0).bound = true ∧ unsettled (attested {}) 0 = false ∧ (sec on 0).bound = false) ∧
    (putBad (put 1) 1 = false ∧ putBad (put 2) 2 = false ∧ putBad (put 2) 1 = true ∧ putBad (put 1) 2 = true) ∧
    ((keySlot (attested { valid := true }) 0 1).valid = true ∧ (keySlot (attested {}) 0 1).valid = false) ∧
    ((spdmOf { on with secs := [(0, { spdm := { conn := 3 } })] } 1).conn = 3) ∧
    (let s := { keyed with cmds := [{ cmd0 open0 with checked := true, header := keyed.range 0 0x1000 64 }], nextCmd := 1 }
     (s.cmd? 0).any (fun c => c.status.isNone && c.wait == .none && decide (c.chunk < hdrChunks c.header) &&
       (chunkNeed s c 0).isEmpty && !poisonedRange s 0 (chunkAt c 0) (chunkLen c.header 0)) = true) :=
  ⟨sound_of rfl (by decide +kernel), by decide +kernel⟩

/-- Partition 0 with a running steering program, in a skim, and in an overwrite. -/
def tenancy (x : Sec) : State := { on with secs := [(0, x)] }
def ctl (kib : Nat) : Word := BitVec.ofNat 64 (word [(0, 1), (32, kib)])

theorem met_SteeringAndTenantSwitches : Sound (tenancy { steer := 1 }) ∧
    (accessOf on .host (secPage 0) true = .ok ∧ steeringOnly on .host (secPage 0) = false ∧
      accessOf on (.hub 4) (secPage 0) true = .ok ∧ steeringOnly on (.hub 4) (secPage 0) = true) ∧
    ((ctl 1).getLsbD 0 = true ∧ (ctl 1).getLsbD 1 = false ∧ fld (ctl 1).toNat 47 32 = 1 ∧ unsettled on 0 = false ∧ 1 ≤ shareKib on ∧
      shareKib on < 65535 ∧ unsettled (tenancy { skim := some {} }) 0 = true ∧ (imageBytes on 0 0 1).isSome = true) ∧
    (steersOn (tenancy { steer := 1 }) 4 = some 0 ∧ steersOn on 4 = none ∧
      inBounds (tenancy { steer := 1 }) 4 (hubPages + 4096 * (Blk.sec.info.2.2.2)) = true ∧ inBounds (tenancy { steer := 1 }) 4 0 = false) ∧
    (on.startup.part.length = 4 ∧ on.startup.recovering.length = 4 ∧ on.startup.phase = 7 ∧ on.startup.part.getD 0 1 = 0) ∧
    ((sec (tenancy { skim := some {} }) 0).queued = none ∧ (sec (tenancy { overwriting := some {} }) 0).overwriting = some {}) :=
  ⟨sound_of rfl (by decide +kernel), by decide +kernel⟩

/-- Connection 0 of the client whose root 7 is in force. -/
def governed : State := { on with conns := [{ cert := 7 }], flash := { on.flash with root := some 7 } }

theorem met_XannaConnections : (firmwareUp governed = true ∧ (conn? governed 0).isSome = true ∧ governed.flash.root = some 7) ∧
    (firmwareUp on = true ∧ on.flash.root = none ∧ conn? on 0 = none) ∧
    (conn? governed 1 = none ∧ ∀ m < 1, (conn? governed m).isSome = true) ∧
    (conn? { on with conns := [{}] } 0).isSome = true ∧ ownerOf on 0 = .module ∧ ownerOf on (ringPage 0) ≠ .module ∧
    (conn? { governed with conns := [{ cert := 8 }] } 0).any (fun c => c.cert != 7) = true := by decide +kernel

theorem met_XannaSettings : (firmwareUp governed = true ∧ (conn? governed 0).isSome = true ∧ governed.flash.root.isSome = true) ∧
    ((4 : Nat) ∈ [1, 2, 4] ∧ (3 : Nat) ∉ [1, 2, 4]) ∧ (shareLegal 256 ∧ ¬shareLegal 257 ∧ ¬shareLegal 4) ∧
    (capLegal 1200 ∧ capLegal 3000 ∧ ¬capLegal 1190 ∧ ¬capLegal 3010) ∧
    (hostSettingOk governed (.access 1 0) = false ∧ hostSettingOk governed (.access 0 2) = true ∧ hostSettingPart (.access 0 2) = some 0 ∧
      hostMode governed 0 ≠ 2 ∧ governed.settings.hostAccess.length = 4 ∧ governed.settings.winPart.length = 8) ∧
    { governed with startup := { governed.startup with part := [1, 1, 1, 1] } }.startup.part.getD 0 1 = 1 := by
  simp only [shareLegal, capLegal]; decide +kernel

theorem met_XannaTenantsAndUnits : Sound on ∧ (sec governed 0).skim = none ∧ governed.startup.phase = 7 ∧
    (sec { governed with secs := [(0, { skim := some {} })] } 0).skim.isSome = true ∧ governed.settings.partitions ≤ 1 ∧
    ((chan governed 255).st ≤ 1 ∧ 255 ∉ governed.flash.retiredChans ∧ retiring governed (partOfChan governed 255) = false ∧
      retiring { governed with chans := [(0, { st := 2 })] } (partOfChan governed 255) = true ∧
      2 ≤ (chan { governed with chans := [(255, { st := 3 })] } 255).st) ∧
    (unitOk (.core 383) = true ∧ unitOk (.core 384) = false ∧ unitOk (.link 29) = true ∧ unitOk (.wavelength 15 15) = true) :=
  ⟨on_sound, by decide +kernel⟩

/-! ### Power, domains, resets and start-up -/

theorem met_PowerLoop : Sound on ∧ (loopRuns on = true ∧ on.startup.lastPeriod < 1000000 * ((on.at_ 1000000).now / 1000000)) ∧
    ¬(on.startup.lastPeriod < 1000000 * ((on.at_ 0).now / 1000000)) ∧
    (on.settings.capPend = none ∧ (999980 : Nat) / 20 < 1000000 / 20 ∧ (1000000 : Nat) / 20 ≤ 1000000 / 20) ∧
    ((loopGroups on [] [] 0 0).map (·.1) = [[0, 1, 2, 3]]) ∧
    (let g := [0, 1, 2, 3].map (fun n => ({ num := n, prev := (die on n).thr, bound := lowBound (die on n), draw := 0, eng := 440000 } : LoopDie))
     ∀ d ∈ g, d.bound ≤ 15 ∧ project g 0 (fun d => Nat.max 15 d.bound) ≤ ((3000000 * loopScale : Nat) : Int)) ∧
    ((0 : Nat) < 4 ∧ dieDown on 0 = false ∧ (die on 0).thr < 8 ∧ (die { on with dies := [(0, { thr := 8 })] } 0).thr = 8) :=
  ⟨on_sound, by decide +kernel⟩

theorem met_SwitchedDomains : Sound on ∧
    ((SMap.get {} on.coreDoms 0 : CoreDom).asleep = false ∧ coreBusy on 0 = false ∧
      (SMap.get {} on.coreDoms 0 : CoreDom).idleSince + on.regFld (Blk.pwr.page 0) Reg.pwrIdle 16 0 ≤ (on.at_ 1000000).now) ∧
    ((cluster on 0).asleep = false ∧ clusterBusy { on with coreDoms := [] } 0 = false ∧ (cluster on 0).idleSince + 10000 ≤ (on.at_ 10000).now) ∧
    (let s := { on with stks := [(0, { groupAsleep := [false, true, true, true], groupWaking := [false, true, false, false] })] }
     (stack s 0).groupAsleep.getD 0 true = false ∧ groupIdleFrom s 0 + 10000 ≤ (s.at_ 10000).now ∧
       (∀ c ∈ groupChans 0, (chan s c).mode = 0 ∧ (chan s c).queue = []) ∧ (stack s 0).groupWaking.getD 1 false = true) ∧
    (SMap.get {} { on with coreDoms := [(383, { waking := true })] }.coreDoms 383 : CoreDom).waking = true ∧
    SMap.get 0 { on with hubGrps := [(3, 1)] }.hubGrps 3 = 1 :=
  ⟨on_sound, by decide +kernel⟩

/-- Five SNAP commands, of which four are armed for time 7. -/
def snapping (n : Nat) : State :=
  { on with
    cmds := (List.range n).map (fun i => { cmd0 (bits 9 (1 + 256 * 7)) with id := i, checked := true, wait := .snap, tsnap := 7 })
    nextCmd := n }

theorem met_SnapsAndView_copy : (4 ≤ (armed (snapping 4) (partOfRing (snapping 4) 0)).length ∧ (dueSnaps ((snapping 1).at_ 7) 0).length = 1) ∧
    dueSnaps ((snapping 1).at_ 6) 0 = [] ∧ accessOf on .host (rasPage 0) true = .ok ∧
    (({ ents := [{ seq := 3 }, { seq := 2 }] } : View).ents.filter (fun e => decide (3 ≤ e.seq))).getLast? = some { seq := 3 } := by
  decide +kernel

theorem met_ModuleResets : Sound on ∧ (on.startup.phase = 7 ∧ on.startup.powered = true) ∧
    (let s := { on with pcie := { on.pcie with holdoff := some 0 } }
     s.pcie.up = false ∧ 0 + 1000000 * s.settings.holdoffMs ≤ (s.at_ (1000000 * s.settings.holdoffMs)).now) ∧
    on.startup.tripped = false ∧ (die on 12).temp < 95 ∧ on.startup.coolantTrip = false ∧
    (on.startup.beat + 100000 ≤ (on.at_ 100000).now ∧ on.startup.beat + 1000000 ≤ (on.at_ 1000000).now ∧ on.startup.beatLost = none) ∧
    { on with startup := { on.startup with beatLost := some 0 } }.startup.beatLost = some 0 ∧ 0 + 10000000 ≤ (on.at_ 10000000).now :=
  ⟨on_sound, by decide +kernel⟩

/-- Partition 0 in recovery, waiting for heat, and its stack 0 hot without power. -/
def recovering : State := { on with startup := { on.startup with part := [1, 0, 0, 0], recovering := [true, false, false, false] } }
def hot : State := { on with stks := [(0, { offline := true, temp := 95 })] }

theorem met_PartitionResets : Sound on ∧ (on.startup.part.length = 4 ∧ on.startup.recovering.length = 4 ∧ on.startup.thermalWait.length = 4 ∧
    on.startup.partCause.length = 4 ∧ on.startup.partResets.length = 4) ∧ accessOf on .host (supPage 0) true = .ok ∧
    (on.startup.phase = 7 ∧ on.startup.part.getD 0 1 = 0 ∧ on.startup.thermalWait.getD 0 false = false ∧ on.startup.tripped = false) ∧
    (tooHot on 0 = false ∧ tooHot hot 0 = true) ∧
    ({ on with startup := { on.startup with thermalWait := [true, false, false, false] } }.startup.thermalWait.getD 0 false = true) ∧
    (recovering.startup.part.getD 0 0 = 1 ∧ recovering.startup.recovering.getD 0 false = true ∧ partBroken recovering 0 = false ∧
      partBroken hot 0 = true) :=
  ⟨on_sound, by decide +kernel⟩

/-- The module in a phase of its start-up; an image that the boot ROM accepts in slot A, B or neither. -/
def phased (n : Nat) : State := { State.reset with startup := { State.reset.startup with phase := n } }
def image (svn : Nat) : FwImage := { svn := svn, signed := true, commit := false, digest := 0 }

theorem met_StartUp : (∀ n ≤ 7, ok (phased n) = true ∧ (phased n).startup.part.length = 4) ∧
    dark.startup.powered = false ∧ (∀ n ≤ 7, (phased n).startup.powered = true ∧ (phased n).startup.held = false ∧
      (phased n).startup.tripped = false ∧ (phased n).startup.dead = false) ∧
    ((image 1).signed = true ∧ State.reset.flash.minSvn ≤ (image 1).svn ∧ (image 1).svn < (image 2).svn ∧
      ({ image 1 with signed := false }).signed ≠ true) ∧ (link on 29).st ≠ 3 ∧ (phased 6).cmds = [] := by decide +kernel

/-! ### Single steps and functions, with results worked out by hand from spec/ -/

/-- Table FMT-2 and IEEE 754: 1.5 + 2.25 = 3.75, and 1 + 2^-24 rounds to the even neighbour 1. -/
theorem test_add32 : add32 0x3FC00000 0x40100000 = ⟨0x40700000, 0⟩ ∧ (add32 0x3F800000 0x33800000).val = 0x3F800000 ∧
    (add32 0x7F800000 0xFF800000).fl = Flags.nv := by decide +kernel

/-- The check values of the three CRCs named in R234, R276 and Table TIR-5, over the digits 1 to 9. -/
theorem test_crcs : crc32 ((List.range 9).map (fun i => BitVec.ofNat 8 (49 + i))) = 0xCBF43926 ∧
    crc64 ((List.range 9).map (fun i => BitVec.ofNat 8 (49 + i))) = 0x6C40DF5F0B497347 ∧
    crc16 ((List.range 9).map (fun i => BitVec.ofNat 8 (49 + i))) = 0x29B1 := by decide +kernel

/-- Table FMT-3: the greatest finite E4M3 is 448, of E5M2 57,344; 500 saturates to 448. -/
theorem test_fp8 : e4m3.decode 0x7E = .fin false 14 5 ∧ e5m2.decode 0x7B = .fin false 7 13 := by decide +kernel

/-- SEM_INIT of CAP 32 and RANK 15 on semaphore 0 (Table SYN-6). -/
theorem test_semInit : sem (after (.semInit 0) (waiting on (sync 1 [(64, 32), (32, 15)]))) 0 = { cap := 32, rank := 15 } := by
  decide +kernel

/-- CTR_POST wraps modulo 2^32 (R157). -/
theorem test_ctrPost_wraps : (ctr (after (.ctrPost 0)
    (waiting { on with ctrs := [(0, { issued := 0xFFFFFFFF, retired := 0xFFFFFFFF, claim := some (0, 0) })] }
      (sync 0x13 [(64, 2)]))) 0).issued = 1 := by decide +kernel

/-- CTR_TAKE waits when fewer are available (R157). -/
theorem test_ctrTake_waits : ((after (.ctrTake 0) (waiting on (sync 0x14 [(64, 1)]))).cmd? 0).any (fun c => c.wait == .ctr) = true := by
  decide +kernel

/-- QG_SEED sets VALID (R67), and CLEAR ends it. -/
theorem test_qgSeed : (after (.qgSeedWrite .host (Blk.qg.page 0) 5) on).regFld (Blk.qg.page 0) Reg.qgKeyStat 0 0 = 1 ∧
    (after (.qgKeyClear .host (Blk.qg.page 0) 2) (after (.qgSeedWrite .host (Blk.qg.page 0) 5) on)).reg (Blk.qg.page 0) Reg.qgSeed = 0 := by
  decide +kernel

/-- A doorbell stores TAIL, and one past the reset size of 256 raises RING_ERR (R344). -/
theorem test_doorbell : (ring (after (.doorbell .host 0 255) (ringOn { st := 1 })) 0).tail = 255 ∧
    ((after (.doorbell .host 0 256) (ringOn { st := 1 })).reg (ringPage 0) Reg.irqStat).testBit 0 = true := by decide +kernel

/-- A window write of four bytes is read back in order (R330, R333). -/
theorem test_window : (after (.windowWrite 0 64 [1, 2, 3, 4]) windowed).byte (keyAt windowed 0 66) = 3 := by decide +kernel

/-- A narrow write of 32 bytes leaves the byte after it (R170, R186). -/
theorem test_narrowWrite : ((after (.hbmNarrowWrite 0 []) { access .write 32 false false with
    reqs := [{ addr := 0x10000, len := 32, kind := .write, narrow := true, data := List.replicate 32 9 }] }).byte 0x1001F,
    (after (.hbmNarrowWrite 0 []) { access .write 32 false false with
      reqs := [{ addr := 0x10000, len := 32, kind := .write, narrow := true, data := List.replicate 32 9 }] }).byte 0x10020) = (9, 0) := by
  decide +kernel

/-- R188: 95 C sets level 1 and 110 C level 4. -/
theorem test_heat : heatReach 94 = 0 ∧ heatReach 95 = 1 ∧ heatReach 109 = 3 ∧ heatReach 110 = 4 := by decide +kernel

/-- R384: the pilot tick is 20 ns. -/
theorem test_tick : (match step on with | .next t => t.now | _ => 0) = 20 := by decide +kernel

/-- A shard COPIED is STABLE with its new owner and the next EPOCH, modulo 65,536 (R301). -/
theorem test_copied : shard (after (.copied 0 0) { on with shards := [(shardKey 0 0, { st := 1, owner := 5, peer := 6, epoch := 65535 })] }) 0 0 =
    { st := 0, owner := 6, epoch := 0, peer := 0 } := by decide +kernel

/-- The fast limit raises the level to 8 above 600 W only (R394). -/
theorem test_fastLimit : (die (after (.fastLimitWindow 0 600001) on) 0).thr = 8 ∧ after (.fastLimitWindow 0 600000) on = on := by
  decide +kernel

/-- The worked example after R42 and that of Table TRN-3: 0x3F804800 with r = 0x3A15 gives 0x3F81, and 0x3F7FF000 with r = 0xF3A0
gives 0x3F7F. -/
theorem test_stochastic : (bf16.convert 0 (.sr 0x3A15) (F32.num 0x3F804800)).val = 0x3F81 ∧
    (bf16.convert 0 (.sr 0xF3A0) (F32.num 0x3F7FF000)).val = 0x3F7F := by decide +kernel

/-- The worked example of delayed scaling: H = 3.1 gives SCALE 128 and H = 4.0 gives 64; 396.8 rounds to 384, and 512 saturates to 448
with SAT. -/
theorem test_guardScale : (guardScale 0x40466666 0 0 0).1 = 0x43000000 ∧ (guardScale 0x40800000 0 0 0).1 = 0x42800000 ∧
    (e4m3.convert 0 .rne (F32.num 0x43C66666)).val = 0x7C ∧ e4m3.convert 0 .rne (F32.num 0x44000000) = ⟨0x7E, Flags.sat⟩ := by
  decide +kernel

/-- The worked example of placement (R168): offset 0x1234567000 lies on channel 0 at 0x12345000, and the next granule on 0x0F. -/
theorem test_placement : Machine.place on 0x1234567000 = (0, 0x12345000) ∧ (Machine.place on 0x1234568000).1 = 0x0F := by
  decide +kernel

/-- The worked example of colours (R251): H is 384 GiB, the slab at 0x7000010000 has colour 0x17, and so has the frame at 0x6000110000. -/
theorem test_colours : hbmHomed on 0 = 0x6000000000 ∧ colourOf on 0x7000010000 = 0x17 ∧ colourOf on 0x6000110000 = 0x17 ∧
    rangeEnd on 0 = 1408 * gib := by decide +kernel

/-- The worked example of PKG_CAP 2,400 W: four dies of 520 W with 400 W of engine part, and 800 W beside them, need level 5; at level 5
the relaxation to 4 exceeds 97% of the cap (R393). -/
theorem test_powerLoop :
    levelNeed ((List.range 4).map (fun n => { num := n, prev := 0, bound := 0, draw := 520000, eng := 400000 })) 800000 2400000 = 5 ∧
    (let ds : List LoopDie := (List.range 4).map (fun n => { num := n, prev := 5, bound := 0, draw := 395000, eng := 275000 })
     mayRelax ds 800000 2400000 (levelNeed ds 800000 2400000) = false) := by decide +kernel

/-- The worked example of the coolant: 44 C and 5 L/min give 2,500 W (R462). -/
theorem test_coolant : (after (.coolantSample 440 50 0) on).coolant.limitPend = some (some 2500000, 0) := by decide +kernel

/-- The worked example of register pages: CHAN 85 is page 421 and HOD 17 page 241 (Table REG-7). -/
theorem test_pages : Blk.chan.page 85 = 421 ∧ Blk.hod.page 17 = 241 ∧ Blk.hbm.page 2 = 322 := by decide +kernel

/-- The worked example of a field: a write of 0x2A0040 to QG_LIMITS sets UFZ_LIM to 42 and SAT_LIM to 64 (R15). -/
theorem test_fields : (after (.registerWrite .host (Blk.qg.page 0) Reg.qgLimits 0x2A0040 none) on).regFld (Blk.qg.page 0) Reg.qgLimits 31 16 = 42 ∧
    (after (.registerWrite .host (Blk.qg.page 0) Reg.qgLimits 0x2A0040 none) on).regFld (Blk.qg.page 0) Reg.qgLimits 15 0 = 64 := by
  decide +kernel

/-- The worked example of a ring: slot 17's record stands at 0x100020220. -/
theorem test_record : recordAt (on.setReg (ringPage 5) Reg.ringCpl 0x100020000) { ring := 5, slot := 17 } = 0x100020220 := by
  decide +kernel

/-- The worked example of the ladder: with a claim of rank 4 held, SEM_ACQUIRE of rank 2 ends with LADDER_VIOLATION (R154). -/
theorem test_ladder : ((after (.semAcquire 0) (waiting { on with
    sems := [(0, { cap := 1, rank := 2 })], ctrs := [(17, { rank := 4, claim := some (0, 0) })] } (sync 2 []))).cmd? 0).any
      (fun c => c.status == some St.ladder) = true := by decide +kernel

/-- The worked example of the pointing barrier: equal counts go to 0, and 17,280 and 17,000 stay with DRIFT (R161). -/
theorem test_pointing :
    let t := after (.pointingBarrier 0 17000000) { pointing with
      ctrs := [(0, { issued := 17280, retired := 17280 }), (1, { issued := 17280, retired := 17000 })] }
    ctr t 0 = {} ∧ (ctr t 1).retired = 17000 ∧ (t.reg (Blk.syn.page 0) Reg.irqStat).testBit 0 = true := by decide +kernel

end Sys2Proof.Tests
end

/-! ## Every command answers a next state (O3)

A meaning is a tree of tests over the state whose leaves are all next states. Each proof below walks that tree in the order of
the meaning's own tests; the theorem about `exec` groups the rows whose trees have the same shape. -/

namespace Sys2Proof.Machine

/-- An answer is a next state: neither a fault nor a refusal. -/
def Answers (a : Answer) : Prop := ∃ t, a = .next t

theorem Answers.next (t : State) : Answers (.next t) := ⟨t, rfl⟩

theorem Answers.ite {c : Prop} [Decidable c] {a b : Answer} (ha : Answers a) (hb : Answers b) :
    Answers (if c then a else b) := by
  split
  · exact ha
  · exact hb

/-! ### Register rows -/

theorem execQgSeedWrite_answers (who : Requester) (page : Nat) (val : Word) (s : State) :
    Answers (execQgSeedWrite who page val s) := .ite (.next _) (.next _)

theorem execQgKeyClear_answers (who : Requester) (page : Nat) (val : Word) (s : State) :
    Answers (execQgKeyClear who page val s) := .ite (.next _) (.next _)

theorem execBndMcastWrite_answers (who : Requester) (page reg : Nat) (val : Word) (s : State) :
    Answers (execBndMcastWrite who page reg val s) := .ite (.next _) (.next _)

theorem execHodCompatWrite_answers (who : Requester) (page : Nat) (val : Word) (s : State) :
    Answers (execHodCompatWrite who page val s) := .ite (.next _) (.next _)

theorem execTrnLedgerCtlWrite_answers (who : Requester) (page : Nat) (val : Word) (s : State) :
    Answers (execTrnLedgerCtlWrite who page val s) := .ite (.next _) (.next _)

theorem execNarShardWrite_answers (who : Requester) (page : Nat) (val : Word) (commit : Option (Nat × Nat)) (s : State) :
    Answers (execNarShardWrite who page val commit s) := .ite (.next _) (.next _)

/-- REGISTER_WRITE answers as the row of its register does, and at once where the register has none. -/
theorem execRegisterWrite_answers (who : Requester) (page reg : Nat) (val : Word) (hw : Option Word) (s : State) :
    Answers (execRegisterWrite who page reg val hw s) := by
  refine .ite (.next _) (.ite (.next _) (.ite (.next _) ?_))
  split
  case h_1 => exact .ite (execQgSeedWrite_answers ..) (.ite (execQgKeyClear_answers ..) (.next _))
  case h_2 => exact .ite (execBndMcastWrite_answers ..) (.next _)
  case h_3 => exact .ite (execHodCompatWrite_answers ..) (.next _)
  case h_4 => exact .ite (execTrnLedgerCtlWrite_answers ..) (.next _)
  case h_5 => exact .ite (execNarShardWrite_answers ..) (.ite (.ite (.next _) (.next _)) (.next _))
  case h_6 => exact .ite (.next _) (.ite (.next _) (.next _))
  case h_7 => exact .ite (.next _) (.ite (.next _) (.ite (.next _) (.next _)))
  case h_8 => exact .ite (.next _) (.next _)
  case h_9 => exact .ite (.next _) (.next _)
  case h_10 => exact .next _

theorem execRegisterRead_answers (who : Requester) (page reg : Nat) (s : State) :
    Answers (execRegisterRead who page reg s) := by
  dsimp only [execRegisterRead]
  refine .ite (.next _) ?_
  split <;> exact .next _

theorem execMsixTableAccess_answers (acc : MsixAccess) (s : State) : Answers (execMsixTableAccess acc s) := by
  refine .ite (.next _) ?_
  cases acc with
  | read off size => exact .ite (.next _) (.next _)
  | write off size val => exact .ite (.next _) (.next _)

/-! ### Other rows -/

theorem execCommandAdmission_answers (cmd : Nat) (s : State) : Answers (execCommandAdmission cmd s) := by
  dsimp only [execCommandAdmission]
  split
  · exact .next _
  refine .ite (.next _) ?_
  split
  · exact .next _
  refine .ite (.next _) (.ite ?_ (.next _))
  split <;> exact .next _

theorem execTileEmit_answers (cmd : Nat) (s : State) : Answers (execTileEmit cmd s) := by
  dsimp only [execTileEmit]
  split
  · exact .next _
  refine .ite (.next _) ?_
  split
  · exact .next _
  split
  · exact .next _
  exact .ite (.ite (.next _) (.next _)) (.ite (.next _) (.next _))

theorem execTileSteal_answers (src dst : Nat) (s : State) : Answers (execTileSteal src dst s) := by
  dsimp only [execTileSteal]
  split
  · exact .next _
  split
  · exact .next _
  split
  · exact .next _
  exact .ite (.next _) (.next _)

theorem execSweepEnd_answers (eng quad : Nat) (s : State) : Answers (execSweepEnd eng quad s) := by
  dsimp only [execSweepEnd]
  split
  · exact .next _
  split
  · exact .next _
  exact .ite (.next _) (.ite (.next _) (.ite (.next _) (.next _)))

theorem execBlockDrainEnd_answers (eng quad : Nat) (s : State) : Answers (execBlockDrainEnd eng quad s) := by
  dsimp only [execBlockDrainEnd]
  split
  · exact .next _
  split <;> exact .next _

theorem execBlockConversionEnd_answers (eng quad : Nat) (s : State) : Answers (execBlockConversionEnd eng quad s) := by
  dsimp only [execBlockConversionEnd]
  split
  · exact .next _
  split
  · exact .next _
  exact .ite (.next _) (.next _)

theorem execEpilogueBlock_answers (cmd eng : Nat) (s : State) : Answers (execEpilogueBlock cmd eng s) := by
  dsimp only [execEpilogueBlock]
  split
  · exact .next _
  split
  · exact .next _
  split
  · exact .next _
  exact .ite (.next _) (.next _)

theorem execQuantBlock_answers (cmd eng : Nat) (s : State) : Answers (execQuantBlock cmd eng s) := by
  dsimp only [execQuantBlock]
  split
  · exact .next _
  split
  · exact .next _
  split
  · exact .next _
  exact .ite (.next _) (.ite (.next _) (.next _))

theorem execStoreBlock_answers (cmd : Nat) (s : State) : Answers (execStoreBlock cmd s) := by
  dsimp only [execStoreBlock]
  split
  · exact .next _
  split
  · exact .next _
  split
  · exact .next _
  split
  · exact .next _
  exact .ite (.next _) (.ite (.next _) (.next _))

theorem execRearmApply_answers (handle : Nat) (s : State) : Answers (execRearmApply handle s) := by
  dsimp only [execRearmApply]
  split
  · split
    · split <;> exact .next _
    · exact .next _
  · exact .next _

theorem execPersistentStreamRelease_answers (handle : Nat) (s : State) : Answers (execPersistentStreamRelease handle s) := by
  dsimp only [execPersistentStreamRelease]
  split
  · refine .ite ?_ (.next _)
    split <;> exact .next _
  · exact .next _

theorem execHodRequestIssue_answers (cmd stream : Nat) (s : State) : Answers (execHodRequestIssue cmd stream s) := by
  dsimp only [execHodRequestIssue]
  split
  · exact .next _
  split
  · exact .next _
  refine .ite (.next _) ?_
  split
  · exact .next _
  exact .ite (.next _) (.next _)

theorem execHodReadLanding_answers (req : Nat) (sram : SramErr) (s : State) : Answers (execHodReadLanding req sram s) := by
  dsimp only [execHodReadLanding]
  split
  · exact .next _
  split
  · exact .next _
  refine .ite (.next _) ?_
  split
  · exact .ite (.next _) (.next _)
  · exact .next _

theorem execSentinelExpiry_answers (cluster t : Nat) (progress : Bool) (s : State) :
    Answers (execSentinelExpiry cluster t progress s) := by
  dsimp only [execSentinelExpiry]
  refine .ite (.next _) (.ite (.next _) ?_)
  split <;> exact .next _

theorem execContextSwitch_answers (core : Nat) (s : State) : Answers (execContextSwitch core s) := by
  dsimp only [execContextSwitch]
  refine .ite (.next _) ?_
  split
  · exact .next _
  split
  · exact .next _
  exact .ite (.next _) (.next _)

theorem execNmuGrantTimeout_answers (cmd t : Nat) (s : State) : Answers (execNmuGrantTimeout cmd t s) := by
  dsimp only [execNmuGrantTimeout]
  split
  · split
    · split <;> exact .next _
    · exact .next _
  · exact .next _

theorem execGranuleCommit_answers (chan : Nat) (s : State) : Answers (execGranuleCommit chan s) := by
  dsimp only [execGranuleCommit]
  split
  · exact .next _
  split
  · exact .next _
  exact .ite (.next _) (.next _)

theorem execReadyTimeout_answers (cmd t : Nat) (s : State) : Answers (execReadyTimeout cmd t s) := by
  dsimp only [execReadyTimeout]
  split
  · split
    · exact .ite (.next _) (.next _)
    · exact .next _
  · exact .next _

theorem execWritebackDone_answers (part slab : Nat) (s : State) : Answers (execWritebackDone part slab s) := by
  dsimp only [execWritebackDone]
  split
  · exact .ite (.next _) (.ite (.next _) (.next _))
  · exact .next _

theorem execRingClearEnd_answers (ring : Nat) (s : State) : Answers (execRingClearEnd ring s) := by
  dsimp only [execRingClearEnd]
  refine .ite (.next _) ?_
  split <;> exact .next _

theorem execSkimEnd_answers (part durationUs : Nat) (dirty : Bool) (s : State) :
    Answers (execSkimEnd part durationUs dirty s) := by
  dsimp only [execSkimEnd]
  split
  · exact .ite (.next _) (.ite (.next _) (.next _))
  · exact .next _

theorem execInstallRoot_answers (conn seq : Nat) (root : BitVec 384) (s : State) :
    Answers (execInstallRoot conn seq root s) := by
  dsimp only [execInstallRoot]
  split
  · exact .next _
  refine .ite (.next _) ?_
  split
  · exact .next _
  exact .ite (.next _) (.next _)

/-- A response of the open die is for a request in flight, for a window access, or for neither. -/
theorem execOpenDieMessage_answers (msg : OpenMsg) (s : State) : Answers (execOpenDieMessage msg s) := by
  cases msg with
  | other m => exact .next _
  | response m req data poisoned =>
    dsimp only [execOpenDieMessage]
    refine .ite (.next _) ?_
    split
    · exact .next _
    split
    · exact .ite (.next _) (.next _)
    · exact .ite (.next _) (.next _)
    · exact .next _

/-! ### The dispatch -/

/-- Every arm of the dispatch is a tree of tests over next states. -/
theorem exec_answers (c : Instr) (s : State) : Answers (exec c s) := by
  cases c with
  | registerWrite => exact execRegisterWrite_answers ..
  | msixTableAccess => exact execMsixTableAccess_answers ..
  | openDieMessage => exact execOpenDieMessage_answers ..
  | commandAdmission => exact execCommandAdmission_answers ..
  | tileEmit => exact execTileEmit_answers ..
  | tileSteal => exact execTileSteal_answers ..
  | sweepEnd => exact execSweepEnd_answers ..
  | blockDrainEnd => exact execBlockDrainEnd_answers ..
  | blockConversionEnd => exact execBlockConversionEnd_answers ..
  | epilogueBlock => exact execEpilogueBlock_answers ..
  | quantBlock => exact execQuantBlock_answers ..
  | storeBlock => exact execStoreBlock_answers ..
  | rearmApply => exact execRearmApply_answers ..
  | persistentStreamRelease => exact execPersistentStreamRelease_answers ..
  | hodRequestIssue => exact execHodRequestIssue_answers ..
  | hodReadLanding => exact execHodReadLanding_answers ..
  | sentinelExpiry => exact execSentinelExpiry_answers ..
  | contextSwitch => exact execContextSwitch_answers ..
  | nmuGrantTimeout => exact execNmuGrantTimeout_answers ..
  | granuleCommit => exact execGranuleCommit_answers ..
  | readyTimeout => exact execReadyTimeout_answers ..
  | writebackDone => exact execWritebackDone_answers ..
  | ringClearEnd => exact execRingClearEnd_answers ..
  | skimEnd => exact execSkimEnd_answers ..
  | installRoot => exact execInstallRoot_answers ..
  | registerRead => exact execRegisterRead_answers ..
  | blkIrqEnWrite | blkIrqStatClear | qgSeedWrite | qgKeyClear | rampDownEnd | bndMcastWrite | rearm | hodCompatWrite
    | lintelComplete | pointingPeriodExpiry | pointingBarrier | scrubRead | hbmThermalSample | nmuSlotGrant | nmuSwitchInEnd
    | nmuSlotEnd | nmuSwitchOutEnd | trnLedgerCtlWrite | slabFetch | walkTimeout | copied | flip | narShardWrite
    | timeLost | openPowerWindow | ringDrainEnd | doeDiscovery | powerLoopPeriod | fastLimitWindow | coreSleep
    | clusterSleep | nmuGroupSleep | heartbeat | heartbeatTimeout | snap | powerInputInRange | powerInputOutOfRange
    | entryToOperational | partitionResetEnd | coolantSample | portLinkTraining | granuleMoved | timingFlitSend =>
    exact .ite (.next _) (.next _)
  | ctrPost | lintelTimeout | nmuFenceComplete | slabReady | collTimeout | openResponseTimeout | windowAccessTimeout
    | holdoffExpiry | steerTrap | overwriteEnd | watchdogExpiry | coolantTrip =>
    dsimp only [exec, execCtrPost, execLintelTimeout, execNmuFenceComplete, execSlabReady, execCollTimeout,
      execOpenResponseTimeout, execWindowAccessTimeout, execHoldoffExpiry, execSteerTrap, execOverwriteEnd,
      execWatchdogExpiry, execCoolantTrip]
    split
    · exact .ite (.next _) (.next _)
    · exact .next _
  | rampUpEnd | contextSwitchEnd | hbmWideRead | hbmNarrowRead | steerEcall | xannaConnect | snapCopy =>
    dsimp only [exec, execRampUpEnd, execContextSwitchEnd, execHbmWideRead, execHbmNarrowRead, execSteerEcall,
      execXannaConnect, execSnapCopy]
    split <;> exact .next _
  | guardConfigWrite | guardHistoryPush | tileAudit | hodWriteAck | abandon =>
    dsimp only [exec, execGuardConfigWrite, execGuardHistoryPush, execTileAudit, execHodWriteAck, execAbandon]
    split
    · exact .next _
    exact .ite (.next _) (.next _)
  | hbmWideWrite | hbmNarrowWrite | addWrite | commandCompletion =>
    dsimp only [exec, execHbmWideWrite, execHbmNarrowWrite, execAddWrite, execCommandCompletion]
    split
    · split <;> exact .next _
    · exact .next _
  | rowRemapEnd | channelMoveEnd | bootRomPhase =>
    dsimp only [exec, execRowRemapEnd, execChannelMoveEnd, execBootRomPhase]
    refine .ite ?_ (.next _)
    split <;> exact .next _
  | bringUpPhase | scaffoldLinksPhase | selfTestPhase =>
    exact .ite (.ite (.next _) (.next _)) (.next _)
  | bar0MissizedAccess | flitReceive =>
    exact .ite (.next _) (.ite (.next _) (.next _))
  | linkFrameReceive =>
    exact .ite (.next _) (.ite (.next _) (.ite (.next _) (.next _)))
  | xannaRead =>
    exact .ite (.next _) (.ite (.next _) (.ite (.next _) (.ite (.next _) (.ite (.next _) (.next _)))))
  | dieThermalSample =>
    exact .ite (.ite (.ite (.next _) (.next _)) (.ite (.next _) (.next _))) (.next _)
  | domainWakeEnd =>
    exact .ite (.ite (.next _) (.next _))
      (.ite (.ite (.next _) (.next _)) (.ite (.ite (.next _) (.next _)) (.ite (.next _) (.next _))))
  | _ => exact .next _

/-- Settles O3: no arm of the dispatch ends in a fault or a refusal (R10). -/
theorem everyCommandCompletes : Obligations.EveryCommandCompletes := exec_answers

end Sys2Proof.Machine

/-! ## The state after reset (O5, O6) -/

namespace Sys2Proof.Machine

/-- The settings that a module leaves the factory with are legal. -/
theorem settingsLegal_default : SettingsLegal {} where
  partitions := by decide
  partPend := by simp
  share := by simp [shareLegal]
  shareNow := by simp [shareLegal]
  cap := by simp [capLegal]
  capPend := by simp
  moduleId := by decide
  timeSource := by decide
  access := by decide
  holdoff := by decide
  windows := rfl
  held := by simp

/-- Settles O5: after reset every list and map is empty, and the settings are the default ones. -/
theorem resetIsSound : Obligations.ResetIsSound where
  mem := rfl
  written := rfl
  poison := rfl
  log := Nat.zero_le _
  views := by simp [State.reset]
  queues := by simp [State.reset]
  settings := settingsLegal_default
  phase := by decide
  cmds := ⟨List.Pairwise.nil, by simp [State.reset]⟩

/-- After reset the register file is empty, so a register reads its Reset column as 64 bits (R14). -/
theorem reset_reg (page reg : Nat) : State.reset.reg page reg = resetReg (blkOf page) reg % 2 ^ 64 :=
  BitVec.toNat_ofNat _ _

/-- After reset no channel has lost a granule to the spare pool. -/
theorem reset_not_lost (k : Nat) : isLost State.reset k = false := by
  have h : (chan State.reset (chanOfKey State.reset k)).lost = none := rfl
  simp [isLost, h]

theorem reset_not_poisoned (k : Nat) : isPoisoned State.reset k = false := by
  have h : SMap.get false State.reset.poison (k / 64) = false := rfl
  simp [isPoisoned, h, reset_not_lost]

/-- Settles O6: every table of the reset state is empty, so each lookup in it gives the default. -/
theorem resetValues : Obligations.ResetValues :=
  ⟨rfl, fun page reg _ => reset_reg page reg, fun k => ⟨rfl, rfl, reset_not_poisoned k⟩, rfl, fun _ => rfl, fun _ => rfl,
    rfl, rfl, rfl, rfl⟩

end Sys2Proof.Machine

/-! ## A row takes its ring's next slot (O15)

All the rows that take a command off their ring make the same of it until the command starts: `TakesNext` says what, once for each
of the two dispatch functions. The rows that look at the command afterwards (LADDER, CTR_OVERRUN, the events of the
near-memory units) find no status there that they act on. -/

namespace Sys2Proof.Machine

/-! ### The slot that a row takes -/

/-- The next slot `b` of a ring ends at once with status `st`: its read is poisoned, or the envelope checks refuse it. -/
def SlotRefused (cls sub k : Nat) (s : State) (b : CmdBits) (st : Nat) : Prop :=
  (slotPoisoned s k (ring s k).head = true ∧ st = St.dataPoisoned) ∨
    (slotPoisoned s k (ring s k).head = false ∧ rowTakes cls sub b = true ∧ envStatus s k b = some st)

/-- What a row makes of `s` while the command is not yet to start. -/
structure TakesNext (cls sub k : Nat) (s t : State) : Prop where
  idle : nextOf s k = none → t = s.wantSlot k
  other : ∀ b, nextOf s k = some b → slotPoisoned s k (ring s k).head = false → rowTakes cls sub b = false → t = s
  refused : ∀ b st, nextOf s k = some b → SlotRefused cls sub k s b st → t = (s.take_ k b).endCmd s.nextCmd st

theorem dispatchRow_takesNext {cls sub k : Nat} {s : State} (hu : unstartedOf cls sub s k = none)
    (check : State → Cmd → Option Nat) (start : State → Cmd → State) :
    TakesNext cls sub k s (dispatchRow cls sub k check start s) where
  idle hn := by simp [dispatchRow, hu, hn]
  other b hn hp hr := by simp [dispatchRow, hu, hn, hp, hr]
  refused b st hn h := by
    rcases h with ⟨hp, rfl⟩ | ⟨hp, hr, he⟩
    · simp [dispatchRow, hu, hn, hp]
    · simp [dispatchRow, hu, hn, hp, hr, he, newCmd]

theorem dispatchRowT_takesNext {cls sub k : Nat} {s : State} (hu : unstartedOf cls sub s k = none) (atOnce : Bool)
    (need : State → Cmd → List Nat) (check : State → Cmd → Option Nat) (start : State → Cmd → State) :
    TakesNext cls sub k s (dispatchRowT atOnce cls sub k need check start s) where
  idle hn := by simp [dispatchRowT, hu, hn]
  other b hn hp hr := by simp [dispatchRowT, hu, hn, hp, hr]
  refused b st hn h := by
    rcases h with ⟨hp, rfl⟩ | ⟨hp, hr, he⟩
    · simp [dispatchRowT, hu, hn, hp]
    · simp [dispatchRowT, hu, hn, hp, hr, he, newCmd]

/-! ### The command of the slot -/

/-- The envelope checks answer MALFORMED or FENCE. -/
theorem envStatus_eq {s : State} {k st : Nat} {b : CmdBits} (h : envStatus s k b = some st) :
    st = St.malformed ∨ st = St.fence := by
  unfold envStatus at h
  dsimp only at h
  split_ifs at h <;> cases h
  · exact .inl rfl
  · exact .inr rfl
  · exact .inl rfl

theorem SlotRefused.status {cls sub k st : Nat} {s : State} {b : CmdBits} (h : SlotRefused cls sub k s b st) :
    st = St.dataPoisoned ∨ st = St.malformed ∨ st = St.fence := by
  rcases h with ⟨-, h⟩ | ⟨-, -, h⟩
  · exact .inl h
  · exact .inr (envStatus_eq h)

/-- A MALFORMED slot is one that the envelope checks refuse. -/
theorem SlotRefused.envStatus_isSome {cls sub k : Nat} {s : State} {b : CmdBits}
    (h : SlotRefused cls sub k s b St.malformed) : (envStatus s k b).isSome = true := by
  rcases h with ⟨-, h⟩ | ⟨-, -, h⟩
  · exact absurd h (by decide)
  · simp [h]

/-- With no command of it still to start, a row serves the next number. -/
theorem servedId_next {cls sub k : Nat} {s : State} (hu : unstartedOf cls sub s k = none) :
    servedId cls sub s k = s.nextCmd := by simp [servedId, hu]

/-- No command in flight has the next number. -/
theorem cmd?_nextCmd {s : State} (hs : Sound s) : s.cmd? s.nextCmd = none := by
  unfold State.cmd?
  rw [List.find?_eq_none]
  intro c hc
  have := hs.cmds.2 c hc
  simp only [beq_iff_eq]
  omega

/-- The command taken off the ring stands under the next number. -/
theorem take_cmd? {s : State} (hs : Sound s) (k : Nat) (b : CmdBits) :
    (s.take_ k b).cmd? s.nextCmd = some (newCmd s k b) := by
  have h := cmd?_nextCmd hs
  unfold State.cmd? at h ⊢
  rw [State.take_cmds, List.find?_append, h]
  simp [newCmd]

/-- The refused command after its end. -/
theorem TakesNext.refused_cmd? {cls sub k st : Nat} {s t : State} {b : CmdBits} (h : TakesNext cls sub k s t) (hs : Sound s)
    (hn : nextOf s k = some b) (hr : SlotRefused cls sub k s b st) :
    ∃ c, t.cmd? s.nextCmd = some c ∧ c.status = some st ∧ c.bits = b := by
  rw [h.refused b st hn hr]
  exact ⟨_, State.endCmd_cmd? _ _ st _ (take_cmd? hs k b) rfl, rfl, rfl⟩

/-! ### Fetching the slab of the next slot -/

theorem queueFetch_rest (s : State) (p n cls : Nat) (c : Option Nat) (x : SMap Tier) :
    { s.queueFetch p n cls c with tiers := x } = { s with tiers := x } := by
  unfold State.queueFetch
  split <;> rfl

/-- A fetch of the next slot's slab touches the tier managers alone. -/
theorem wantSlot_rest (s : State) (k : Nat) : { s.wantSlot k with tiers := s.tiers } = s := by
  unfold State.wantSlot
  dsimp only
  split
  · exact foldl_keep (fun t => { t with tiers := s.tiers }) _ (fun t n => queueFetch_rest t _ _ _ _ _) _ s
  · rfl

theorem wantSlot_cmds (s : State) (k : Nat) : (s.wantSlot k).cmds = s.cmds := by
  have h := congrArg State.cmds (wantSlot_rest s k)
  exact h

/-- A ring that is not enabled, or has no slot to take, wants none. -/
theorem wantSlot_of_empty {s : State} {k : Nat} (h : (ring s k).st ≠ 1 ∨ (ring s k).head = (ring s k).tail) :
    s.wantSlot k = s := by
  rcases h with h | h <;> simp [State.wantSlot, h]

/-! ### What a row does after its dispatch -/

/-- A row that acts afterwards only on a command it has found, and on none that was refused with its slot, takes the slot as the
dispatch does. -/
theorem TakesNext.after {cls sub k : Nat} {s t u : State} {c : Cmd} (h : TakesNext cls sub k s t) (hs : Sound s)
    (hc : t.cmd? s.nextCmd = some c)
    (hr : ∀ st, SlotRefused cls sub k s c.bits st → c.status ≠ some st) : TakesNext cls sub k s u where
  idle hn := by
    rw [h.idle hn, State.cmd?_congr (wantSlot_cmds s k), cmd?_nextCmd hs] at hc
    cases hc
  other b hn hp ho := by
    rw [h.other b hn hp ho, cmd?_nextCmd hs] at hc
    cases hc
  refused b st hn hb := by
    obtain ⟨d, hd, hst, rfl⟩ := h.refused_cmd? hs hn hb
    rw [hc] at hd
    cases hd
    exact absurd hst (hr st hb)

/-- LADDER counts no command that was refused with its slot. -/
theorem countLadder_takesNext {op k : Nat} {s t : State} (h : TakesNext 4 op k s t) (hs : Sound s)
    (hu : unstartedOf 4 op s k = none) : TakesNext 4 op k s (s.countLadder t op k) := by
  unfold State.countLadder
  rw [servedId_next hu]
  split
  · next c hc =>
    split
    · next hl =>
      refine h.after hs hc fun st hr e => ?_
      rw [e] at hl
      rcases hr.status with rfl | rfl | rfl <;> exact absurd hl (by decide)
    · exact h
  · exact h

/-- CTR_OVERRUN is no event of a command that was refused with its slot. -/
theorem execCtrPost_takesNext {k : Nat} {s : State} (hs : Sound s) (hu : unstartedOf 4 0x13 s k = none) :
    ∃ t, execCtrPost k s = .next t ∧ TakesNext 4 0x13 k s t := by
  have h := dispatchRow_takesNext hu syncCheck ctrPostStart
  unfold execCtrPost
  rw [servedId_next hu]
  dsimp only
  split
  · next c hc =>
    split
    · next hl =>
      refine ⟨_, rfl, h.after hs hc fun st hr e => ?_⟩
      simp only [Bool.and_eq_true, beq_iff_eq, Option.isNone_iff_eq_none] at hl
      obtain ⟨⟨⟨⟨⟨hst, -⟩, -⟩, henv⟩, -⟩, -⟩ := hl
      obtain rfl : St.malformed = st := Option.some.inj (hst.symm.trans e)
      have := hr.envStatus_isSome
      rw [henv] at this
      cases this
    · exact ⟨_, rfl, h⟩
  · exact ⟨_, rfl, h⟩

/-- A near-memory command that was refused with its slot raises neither MISPLACED nor SLOT_DENIED. -/
theorem nmuRow_takesNext {op k : Nat} {s : State} (hs : Sound s) (hu : unstartedOf 3 op s k = none)
    (hf : unitsFull op s k = false) : TakesNext 3 op k s (nmuRow op k s) := by
  have h := dispatchRowT_takesNext hu true nmuNeed nmuCheck nmuStart
  unfold nmuRow
  rw [hf, servedId_next hu]
  simp only [Bool.false_eq_true, if_false]
  split
  · next c hc =>
    have hno (x : Nat) (hx : c.status = some x) (h1 : x ≠ St.dataPoisoned) (h2 : x ≠ St.malformed) (h3 : x ≠ St.fence) (u : State) :
        TakesNext 3 op k s u := by
      refine h.after hs hc fun st hr e => ?_
      obtain rfl : x = st := Option.some.inj (hx.symm.trans e)
      rcases hr.status with e | e | e
      · exact h1 e
      · exact h2 e
      · exact h3 e
    split
    · next hm => exact hno _ hm (by decide) (by decide) (by decide) _
    · split
      · next hd => exact hno _ hd (by decide) (by decide) (by decide) _
      · exact h
  · exact h

/-! ### Row by row -/

/-- Every row that takes a command off its ring, unless the ring keeps its command. -/
theorem exec_takesNext {i : Instr} {cls sub k : Nat} {s : State} (hs : Sound s) (hi : ringRow i = some (cls, sub, k))
    (hh : ringHeld s i = false) (hu : unstartedOf cls sub s k = none) :
    ∃ t, exec i s = .next t ∧ TakesNext cls sub k s t := by
  cases i with
  | matmul | fusedCommand | run | runPersist | reduceScatter | allGather | allReduce | broadcast | permute | reshard | keyOpen =>
    cases hi
    exact ⟨_, rfl, dispatchRowT_takesNext hu ..⟩
  | release | semInit | semTry | semRelease | semClearPoison | ctrInit | ctrClaim | ctrUnclaim | retire | fetch | flush | evict
    | drop | alloc | bind | keyStatus | keyCmdClear | stepBegin | mode | input =>
    cases hi
    exact ⟨_, rfl, dispatchRow_takesNext hu ..⟩
  | semAcquire | ctrTake | lintel =>
    cases hi
    exact ⟨_, rfl, countLadder_takesNext (dispatchRow_takesNext hu ..) hs hu⟩
  | ctrPost =>
    cases hi
    exact execCtrPost_takesNext hs hu
  | add | mul | fma | affine | div | max | min | rsqrt | exp | gelu | silu | rmsnorm | layernorm | softmax | quant | dequant
    | adamw | lion | sgdm | plumb | fence =>
    cases hi
    exact ⟨_, rfl, nmuRow_takesNext hs hu hh⟩
  | rearm | snap =>
    cases hi
    exact ⟨_, if_neg (by simpa [ringHeld, ringRow] using hh), dispatchRow_takesNext hu ..⟩
  | _ => cases hi

/-! ### What taking the slot and ending its command leave -/

theorem take_rings (s : State) (k : Nat) (b : CmdBits) :
    (s.take_ k b).rings = SMap.modify {} s.rings k (fun r =>
      { r with head := (r.head + 1) % ringSize s k, seq := (r.seq + 1) % 2 ^ 32, busy := r.busy ++ [r.head] }) := by
  unfold State.take_
  exact foldl_keep State.rings State.progress (fun _ _ => rfl) _ _

theorem take_ledgers (s : State) (k : Nat) (b : CmdBits) :
    (s.take_ k b).ledgers = SMap.modify {} s.ledgers (partOfRing s k) (fun l =>
      if l.openAt.isSome then { l with cmds := l.cmds + 1, hashes := l.hashes ++ [(k, b)] } else l) := by
  unfold State.take_
  dsimp only [State.modLedger]
  rw [foldl_keep State.ledgers State.progress (fun _ _ => rfl)]
  rfl

theorem take_byte (s : State) (k : Nat) (b : CmdBits) (a : Nat) : (s.take_ k b).byte a = s.byte a :=
  congrArg (fun m => Memory.byte m a)
    (State.take_field State.mem (fun _ _ => rfl) (fun _ _ _ => rfl) (fun _ _ _ => rfl) (fun _ _ _ => rfl) s k b)

/-- The end of a command leaves the rings and the ledgers. -/
theorem CmdFrame.rings {u t : State} (h : CmdFrame u t) : t.rings = u.rings := by
  have e := congrArg State.rings h.rest
  exact e

theorem CmdFrame.ledgers {u t : State} (h : CmdFrame u t) : t.ledgers = u.ledgers := by
  have e := congrArg State.ledgers h.rest
  exact e

/-- Settles O15: each row makes of its ring's next slot what `TakesNext` says, and the slot's command ends in the frame of a
command's end. -/
theorem ringsTakeTheNextSlot : Obligations.RingsTakeTheNextSlot := by
  intro s i cls sub k hs hi hh hu
  obtain ⟨t, ht, h⟩ := exec_takesNext hs hi hh hu
  refine ⟨fun hn => ⟨t, ht, ?_, fun he => ?_⟩, fun b hn hp ho => ?_, fun b st hn hr => ⟨t, ht, ?_⟩⟩
  · rw [h.idle hn]
    exact wantSlot_rest s k
  · rw [h.idle hn]
    exact wantSlot_of_empty he
  · rw [ht, h.other b hn hp ho]
  · have hf : CmdFrame (s.take_ k b) t := h.refused b st hn hr ▸ State.endCmd_frame _ _ _
    obtain ⟨c, hc, hst, -⟩ := h.refused_cmd? hs hn hr
    refine ⟨⟨c, hc, hst⟩, hf, ?_, fun j hj => ?_, fun a => (hf.bytes a).trans (take_byte s k b a), ?_⟩
    · rw [ring, hf.rings, take_rings, SMap.get_modify_same]
      rfl
    · rw [ring, hf.rings, take_rings, SMap.get_modify_other _ _ _ hj]
      rfl
    · rw [ledger, hf.ledgers, take_ledgers, SMap.get_modify_same]
      rfl

end Sys2Proof.Machine

/-! ## A plain register write and its notice (O8)

The statement about REGISTER_WRITE says that the notice of a lost update stands in the snag log where every mirror queue has room. It
does not hold in every sound state: a notice 0x0303 is written for each connection for which some connection *of the same number* had
dropped fewer bodies, and soundness does not say that numbers are distinct. With 4,096 such numbers, 4,096 notices follow the
lost update's and push it out of the log, though no queue overflows. -/

namespace Sys2Proof.Machine

/-! ### What a plain write is -/

/-- A register with no row of its own takes a plain write. -/
theorem exec_registerWrite_plain {page reg : Nat} (hp : page < pageCount) (hr : reg < 512) (h : plainReg page reg = true)
    (who : Requester) (val : Word) (hw : Option Word) (s : State) :
    exec (.registerWrite who page reg val hw) s = .next (s.plainWrite who page reg val hw) := by
  show execRegisterWrite who page reg val hw s = _
  unfold plainReg at h
  unfold execRegisterWrite
  simp only [Bool.and_eq_true, Bool.not_eq_true', Bool.or_eq_false_iff, beq_eq_false_iff_ne] at h
  obtain ⟨⟨⟨he, hs⟩, -⟩, hb⟩ := h
  rw [if_neg (by omega), if_neg he, if_neg hs]
  split at hb
  case h_2 =>
    have hb : ¬(Reg.bndMcast ≤ reg ∧ reg < Reg.bndMcast + 96) := by
      simp only [Bool.not_eq_true', Bool.and_eq_false_iff, decide_eq_false_iff_not] at hb
      omega
    simp_all
  all_goals simp_all

/-- A write that its requester may make and that the register takes, where hardware would have stored `v` in the same tick. -/
theorem plainWrite_lost {who : Requester} {page reg : Nat} {s : State} (ha : accessOf s who page true = .ok)
    (ht : reg ≠ Reg.snapTag) (hi : writeIgnored s who page reg = false) (hw : isWritten page reg = true) (val v : Word) :
    s.plainWrite who page reg val (some v) =
      (s.setReg page reg (writeFields (fieldsOf (blkOf page) reg) (s.reg page reg) val.toNat)).lostUpdate page reg v := by
  simp [State.plainWrite, State.onWrite, ha, State.writeReg, ht, hi, hw]

/-! ### The snag log's entries by code and first detail word -/

/-- What an entry keeps when another coalesces into it: its code and DETAIL1. -/
def snagKey (e : Snag) : Nat × Word := (e.code, e.d1)

theorem snagKey_of_sameSnag {a b : Snag} (h : sameSnag a b = true) : snagKey a = snagKey b := by
  simp only [sameSnag, Bool.and_eq_true, beq_iff_eq] at h
  obtain ⟨⟨⟨⟨⟨⟨⟨-, -⟩, hc⟩, -⟩, -⟩, h1⟩, -⟩, -⟩ := h
  simp [snagKey, hc, h1]

/-- Coalescing leaves the keys, and needs an entry of the same key. -/
theorem mergeSnag_keys {n : Nat} {l l' : List Snag} {e y : Snag} (h : mergeSnag n l e = some (l', y)) :
    l'.map snagKey = l.map snagKey ∧ snagKey e ∈ l.map snagKey := by
  induction n generalizing l l' with
  | zero => cases h
  | succ n ih =>
    cases l with
    | nil => cases h
    | cons x xs =>
      simp only [mergeSnag] at h
      split at h
      · next hs =>
        simp only [Bool.and_eq_true] at hs
        cases h
        exact ⟨rfl, by simp [snagKey_of_sameSnag hs.1]⟩
      · obtain ⟨⟨m, z⟩, hm, hr⟩ := Option.map_eq_some_iff.1 h
        cases hr
        obtain ⟨hk, hmem⟩ := ih hm
        exact ⟨by simp [hk], List.mem_cons_of_mem _ hmem⟩

/-- An entry coalesces with one of its key, or comes first of at most 4,096. -/
theorem logFull_keys (s : State) (e : Snag) :
    ((s.logFull e).log.map snagKey = s.log.map snagKey ∧ snagKey e ∈ s.log.map snagKey) ∨
      (s.logFull e).log.map snagKey = (snagKey e :: s.log.map snagKey).take 4096 := by
  unfold State.logFull
  split
  · next l x h => exact .inl (mergeSnag_keys h)
  · exact .inr (by simp [List.map_take, snagKey])

/-! ### What an event leaves -/

/-- A field that no message and no register is leaves an event as it was. -/
theorem setIrq_field {β : Type} (f : State → β) (h1 : ∀ (t : State) o, f (t.emit o) = f t)
    (h2 : ∀ (t : State) p, f { t with pcie := p } = f t) (h3 : ∀ (t : State) g r v, f (t.setReg g r v) = f t)
    (s : State) (g n : Nat) : f (s.setIrq g n) = f s := by
  have hm (t : State) (v : Nat) : f (t.sendMsix v) = f t := by
    unfold State.sendMsix
    split
    · rfl
    · split
      · exact h1 _ _
      · exact h2 _ _
  unfold State.setIrq
  dsimp only
  split
  · rw [hm, h3]
  · rw [h3]

/-- The same of an entry into a view. -/
theorem logView_field {β : Type} (f : State → β) (h1 : ∀ (t : State) o, f (t.emit o) = f t)
    (h2 : ∀ (t : State) p, f { t with pcie := p } = f t) (h3 : ∀ (t : State) g r v, f (t.setReg g r v) = f t)
    (h4 : ∀ (t : State) v, f { t with views := v } = f t) (s : State) (p : Nat) (e : Snag) : f (s.logView p e) = f s := by
  unfold State.logView
  dsimp only
  split
  · exact h4 _ _
  · split
    · rw [setIrq_field f h1 h2 h3, h4]
    · rw [setIrq_field f h1 h2 h3, setIrq_field f h1 h2 h3, h4]

theorem logView_log (s : State) (p : Nat) (e : Snag) : (s.logView p e).log = s.log :=
  logView_field State.log (fun _ _ => rfl) (fun _ _ => rfl) (fun _ _ _ _ => rfl) (fun _ _ => rfl) s p e

theorem logView_conns (s : State) (p : Nat) (e : Snag) : (s.logView p e).conns = s.conns :=
  logView_field State.conns (fun _ _ => rfl) (fun _ _ => rfl) (fun _ _ _ _ => rfl) (fun _ _ => rfl) s p e

/-! ### How notices bury an entry -/

/-- One of the first entries after one more came to the front. -/
theorem mem_take_cons {α : Type} {a k : α} {l : List α} {m n : Nat} (h : k ∈ ((a :: l).take m).take (n + 1)) :
    k = a ∨ k ∈ l.take n := by
  rw [List.take_take] at h
  cases hj : min (n + 1) m with
  | zero => simp [hj] at h
  | succ j =>
    rw [hj, List.take_succ_cons, List.mem_cons] at h
    exact h.imp_right (fun h => List.take_subset_take_left l (by omega) h)

/-- No lost update is among the `n` newest entries, and the overflow notices name connections below `n` alone. -/
structure Buried (n : Nat) (s : State) : Prop where
  len : s.log.length ≤ 4096
  newest : ∀ k ∈ (s.log.map snagKey).take n, k.1 ≠ 0x0305
  below : ∀ k ∈ s.log.map snagKey, k.1 = 0x0303 → k.2.toNat < n

theorem Buried.of_log {n : Nat} {s t : State} (h : Buried n s) (e : t.log = s.log) : Buried n t :=
  ⟨e ▸ h.len, e ▸ h.newest, e ▸ h.below⟩

theorem logFull_len {s : State} (h : s.log.length ≤ 4096) (e : Snag) : (s.logFull e).log.length ≤ 4096 := by
  rw [← List.length_map (f := snagKey)]
  rcases logFull_keys s e with ⟨hk, -⟩ | hk
  · rwa [hk, List.length_map]
  · rw [hk]
    exact List.length_take_le _ _

/-- An entry of another code buries no less. -/
theorem Buried.logFull {n : Nat} {s : State} (h : Buried n s) {e : Snag} (h5 : e.code ≠ 0x0305) (h3 : e.code ≠ 0x0303) :
    Buried n (s.logFull e) := by
  rcases logFull_keys s e with ⟨hk, -⟩ | hk
  · exact ⟨logFull_len h.len e, hk ▸ h.newest, hk ▸ h.below⟩
  · refine ⟨logFull_len h.len e, fun k hm => ?_, fun k hm hc => ?_⟩ <;> rw [hk] at hm
    · rcases mem_take_cons (List.take_subset_take_left _ (Nat.le_succ n) hm) with rfl | hm
      · exact h5
      · exact h.newest k hm
    · rcases List.mem_cons.1 (List.mem_of_mem_take hm) with rfl | hm
      · exact absurd hc h3
      · exact h.below k hm hc

/-- What a partition sees of a module-wide entry buries no less. -/
theorem Buried.moduleSeen {n : Nat} {s : State} (h : Buried n s) (p : Nat) : Buried n (s.moduleSeen p) := by
  unfold State.moduleSeen
  refine Buried.of_log (Buried.logFull (Buried.of_log h ?_) (by simp) (by simp)) (logView_log _ _ _)
  rw [setIrq_field State.log (fun _ _ => rfl) (fun _ _ => rfl) (fun _ _ _ _ => rfl)]
  exact logView_log _ _ _

/-- The overflow notice of the next connection buries one entry more. -/
theorem Buried.overflow {n : Nat} {s : State} (h : Buried n s) (hn : n < 65536) {e : Snag} (hc : e.code = 0x0303)
    (hd : e.d1 = ids16 [n]) (hp : e.part = 0xFF) : Buried (n + 1) (s.logOne e) := by
  have hd : e.d1.toNat = n := by
    rw [hd]
    simp [ids16]
    omega
  have hfull : Buried (n + 1) (s.logFull e) := by
    rcases logFull_keys s e with ⟨-, hm⟩ | hk
    · exact absurd (h.below _ hm hc) (by simp [snagKey, hd])
    · refine ⟨logFull_len h.len e, fun k hm => ?_, fun k hm hk3 => ?_⟩ <;> rw [hk] at hm
      · rcases mem_take_cons hm with rfl | hm
        · simp [snagKey, hc]
        · exact h.newest k hm
      · rcases List.mem_cons.1 (List.mem_of_mem_take hm) with rfl | hm
        · simp [snagKey, hd]
        · exact Nat.lt_succ_of_lt (h.below k hm hk3)
  have hseen (l : List Nat) (t : State) (ht : Buried (n + 1) t) : Buried (n + 1) (l.foldl State.moduleSeen t) := by
    induction l generalizing t with
    | nil => exact ht
    | cons p l ih => exact ih _ (ht.moduleSeen p)
  unfold State.logOne
  simp only [hp]
  exact hseen _ _ hfull

/-! ### The state that refutes it -/

/-- A connection that has dropped a body, and its namesake that has not. -/
def droppedOne (i : Nat) : Conn := { num := i, dropped := 1 }
def droppedNone (i : Nat) : Conn := { num := i }

/-- The reset state with two connections of each number below `n`, of which one has dropped a body. -/
def crowded (n : Nat) : State :=
  { State.reset with conns := (List.range n).map droppedNone ++ (List.range n).map droppedOne }

theorem crowded_cases {n : Nat} {c : Conn} (h : c ∈ (crowded n).conns) : ∃ i < n, c = droppedNone i ∨ c = droppedOne i := by
  rcases List.mem_append.1 h with h | h <;> obtain ⟨i, hi, rfl⟩ := List.mem_map.1 h
  · exact ⟨i, List.mem_range.1 hi, .inl rfl⟩
  · exact ⟨i, List.mem_range.1 hi, .inr rfl⟩

theorem crowded_queue {n : Nat} {c : Conn} (h : c ∈ (crowded n).conns) : c.queue = [] := by
  obtain ⟨i, -, rfl | rfl⟩ := crowded_cases h <;> rfl

theorem crowded_push {n : Nat} {c : Conn} (h : c ∈ (crowded n).conns) (e : Snag) : c.push e = c := by
  obtain ⟨i, -, rfl | rfl⟩ := crowded_cases h <;> rfl

theorem sound_crowded (n : Nat) : Sound (crowded n) :=
  { resetIsSound with queues := fun c h => by simp [crowded_queue h] }

/-- Who may write a register does not depend on the connections. -/
theorem accessOf_crowded (n : Nat) : accessOf (crowded n) .host 156 true = .ok := by
  have h : accessOf (crowded n) .host 156 true = accessOf State.reset .host 156 true := rfl
  rw [h]
  decide

/-- No connection of `crowded` subscribes, so an entry of a partition leaves the connections. -/
theorem logOne_conns_crowded {n : Nat} {s : State} (hs : s.conns = (crowded n).conns) {e : Snag} (he : e.part < 4) :
    (s.logOne e).conns = (crowded n).conns := by
  have hm (x : Snag) : (crowded n).conns.map (fun c => c.push x) = (crowded n).conns :=
    (List.map_congr_left fun c h => crowded_push h x).trans (List.map_id _)
  have hc : (s.logFull e).conns = (crowded n).conns := by
    unfold State.logFull
    split <;> simp only [hs, hm]
  simp only [State.logOne, if_pos he, logView_conns, hc]

/-- Every connection of `crowded` that has dropped a body counts as one whose queue overflowed. -/
theorem crowded_over (n : Nat) :
    (crowded n).conns.filter (fun c => (crowded n).conns.any (fun b => b.num == c.num && decide (b.dropped < c.dropped))) =
      (List.range n).map droppedOne := by
  have hnone : ∀ c ∈ (List.range n).map droppedNone,
      ¬(crowded n).conns.any (fun b => b.num == c.num && decide (b.dropped < c.dropped)) = true := by
    intro c hc
    obtain ⟨i, -, rfl⟩ := List.mem_map.1 hc
    simp [droppedNone]
  have hone : ∀ c ∈ (List.range n).map droppedOne,
      (crowded n).conns.any (fun b => b.num == c.num && decide (b.dropped < c.dropped)) = true := by
    intro c hc
    obtain ⟨i, hi, rfl⟩ := List.mem_map.1 hc
    exact List.any_eq_true.2
      ⟨droppedNone i, List.mem_append_left _ (List.mem_map_of_mem hi), by simp [droppedNone, droppedOne]⟩
  exact (List.filter_append ..).trans
    (by rw [List.filter_eq_nil_iff.2 hnone, List.filter_eq_self.2 hone, List.nil_append])

/-- The notices of the connections below `n` bury the `n` newest entries. -/
theorem buried_overflows (now : Nat) {s : State} (h : Buried 0 s) {n : Nat} (hn : n ≤ 65536) :
    Buried n (((List.range n).map droppedOne).foldl (fun t c => t.logOne
      { tFirst := now, tLast := now, part := 0xFF, cls := 0, code := 0x0303, d1 := ids16 [c.num],
        d2 := vals32 [c.dropped + 1] }) s) := by
  induction n with
  | zero => exact h
  | succ n ih =>
    rw [List.range_succ, List.map_append, List.foldl_append, List.map_singleton, List.foldl_cons, List.foldl_nil]
    refine (ih (by omega)).overflow (by omega) ?_ ?_ ?_ <;> rfl

/-- A first entry of a partition, of a code other than 0x0303, buries nothing and is no overflow notice. -/
theorem buried_first {s : State} (hl : s.log = []) {e : Snag} (he : e.part < 4) (h3 : e.code ≠ 0x0303) :
    Buried 0 (s.logOne e) := by
  have hlog : (s.logOne e).log = (s.logFull e).log := by simp only [State.logOne, if_pos he, logView_log]
  have hk : (s.logFull e).log.map snagKey = [snagKey e] := by simp [State.logFull, hl, mergeSnag, snagKey]
  refine Buried.of_log ⟨logFull_len (by simp [hl]) e, by simp, fun k hm hc => ?_⟩ hlog
  rw [hk, List.mem_singleton] at hm
  subst hm
  exact absurd hc h3

/-- In `crowded` with an empty log, the notices that follow an entry of a partition push every lost update out. -/
theorem log_crowded {n : Nat} (h1 : 4096 ≤ n) (h2 : n ≤ 65536) {s : State} (hs : s.conns = (crowded n).conns)
    (hl : s.log = []) {e : Snag} (he : e.part < 4) (h3 : e.code ≠ 0x0303) {x : Snag} (hx : x ∈ (s.log_ e).log) :
    x.code ≠ 0x0305 := by
  have hb : Buried n (s.log_ e) := by
    unfold State.log_
    simp only [logOne_conns_crowded hs he, hs, crowded_over]
    exact buried_overflows s.now (buried_first hl he h3) h2
  refine hb.newest (snagKey x) ?_
  rw [List.take_of_length_le (by simpa using hb.len.trans h1)]
  exact List.mem_map_of_mem hx

/-- The lost update of a register of page 156, which is QG page 0's and so partition 0's, is one that is pushed out. -/
theorem lostUpdate_crowded {n : Nat} (h1 : 4096 ≤ n) (h2 : n ≤ 65536) {s : State} (hs : s.conns = (crowded n).conns)
    (hl : s.log = []) (hset : s.settings = State.reset.settings) (hf : s.flash = State.reset.flash) {reg : Nat} {v : Word}
    {x : Snag} (hx : x ∈ (s.lostUpdate 156 reg v).log) : x.code ≠ 0x0305 := by
  have hpart : (ownerOf s 156).num < 4 := by
    rw [ownerOf_congr hset hf]
    decide
  exact log_crowded h1 h2 hs hl hpart (by simp [mkSnag]) hx

/-- In `crowded`, where every mirror queue is empty, the host writes QG_LIMITS of partition 0 in a tick in which hardware stores 7
there; the overflow notices push the lost update's notice out of the log. -/
theorem not_registerWrites_of_crowded {n : Nat} (h1 : 4096 ≤ n) (h2 : n ≤ 65536) : ¬ Obligations.RegisterWrites := by
  intro h
  obtain ⟨t, ht, -, -, -, -, hlost⟩ :=
    h.1 .host 156 Reg.qgLimits 0 (some 7) (crowded n) (sound_crowded n) (by decide) (by decide) rfl (accessOf_crowded n) rfl
  rw [exec_registerWrite_plain (by decide) (by decide) rfl, plainWrite_lost (accessOf_crowded n) (by decide) rfl rfl] at ht
  cases ht
  obtain ⟨e, he, hcode, -⟩ := hlost 7 rfl rfl (fun c hc => by simp [crowded_queue hc])
  refine lostUpdate_crowded h1 h2 ?_ ?_ ?_ ?_ he hcode <;> rfl

/-- Refutes O8: with 4,096 numbers that two connections share, the notice of a lost update does not stay in the log. -/
theorem not_registerWrites : ¬ Obligations.RegisterWrites :=
  not_registerWrites_of_crowded (n := 4096) (by omega) (by omega)

end Sys2Proof.Machine

/-! ## Every step keeps a sound state sound (O4)

`Keeps` says of each row what every command keeps; here the rows come together to the dispatch, and the dispatch to a step. -/

namespace Sys2Proof.Machine

/-- Every arm of the dispatch keeps what every command keeps; the timebase alone may start anew, at a cold reset (R457). -/
theorem exec_keeps (c : Instr) (s : State) : KeepsA false s (exec c s) :=
  have h : Keeps false s s := .refl false s
  match c with
  | .registerWrite .. => execRegisterWrite_keeps h _ _ _ _ _
  | .blkIrqEnWrite .. => execBlkIrqEnWrite_keeps h _ _ _ _
  | .blkIrqStatClear .. => execBlkIrqStatClear_keeps h _ _ _ _
  | .msixTableAccess .. => execMsixTableAccess_keeps h _
  | .bar0MissizedAccess .. => execBar0MissizedAccess_keeps h _ _ _
  | .qgSeedWrite .. => execQgSeedWrite_keeps h _ _ _
  | .qgKeyClear .. => execQgKeyClear_keeps h _ _ _
  | .guardConfigWrite .. => execGuardConfigWrite_keeps h _ _ _
  | .stepBegin .. => execStepBegin_keeps h _ _
  | .guardHistoryPush .. => execGuardHistoryPush_keeps h _
  | .tileAudit .. => execTileAudit_keeps h _
  | .matmul .. => execMatmul_keeps h _
  | .fusedCommand .. => execFusedCommand_keeps h _
  | .commandAdmission .. => execCommandAdmission_keeps h _
  | .tileEmit .. => execTileEmit_keeps h _
  | .tileSteal .. => execTileSteal_keeps h _ _
  | .rampUpEnd .. => execRampUpEnd_keeps h _
  | .sweepEnd .. => execSweepEnd_keeps h _ _
  | .rampDownEnd .. => execRampDownEnd_keeps h _
  | .blockDrainEnd .. => execBlockDrainEnd_keeps h _ _
  | .blockConversionEnd .. => execBlockConversionEnd_keeps h _ _
  | .epilogueBlock .. => execEpilogueBlock_keeps h _ _
  | .quantBlock .. => execQuantBlock_keeps h _ _
  | .storeBlock .. => execStoreBlock_keeps h _
  | .bndMcastWrite .. => execBndMcastWrite_keeps h _ _ _ _
  | .run .. => execRun_keeps h _
  | .runPersist .. => execRunPersist_keeps h _
  | .rearm .. => execRearm_keeps h _
  | .rearmApply .. => execRearmApply_keeps h _
  | .release .. => execRelease_keeps h _
  | .persistentStreamRelease .. => execPersistentStreamRelease_keeps h _
  | .hodRequestIssue .. => execHodRequestIssue_keeps h _ _
  | .hodReadLanding .. => execHodReadLanding_keeps h _ _
  | .hodWriteAck .. => execHodWriteAck_keeps h _
  | .hodCompatWrite .. => execHodCompatWrite_keeps h _ _ _
  | .sentinelExpiry .. => execSentinelExpiry_keeps h _ _ _
  | .contextSwitch .. => execContextSwitch_keeps h _
  | .contextSwitchEnd .. => execContextSwitchEnd_keeps h _
  | .semInit .. => execSemInit_keeps h _
  | .semAcquire .. => execSemAcquire_keeps h _
  | .semTry .. => execSemTry_keeps h _
  | .semRelease .. => execSemRelease_keeps h _
  | .semClearPoison .. => execSemClearPoison_keeps h _
  | .ctrInit .. => execCtrInit_keeps h _
  | .ctrClaim .. => execCtrClaim_keeps h _
  | .ctrUnclaim .. => execCtrUnclaim_keeps h _
  | .ctrPost .. => execCtrPost_keeps h _
  | .ctrTake .. => execCtrTake_keeps h _
  | .lintel .. => execLintel_keeps h _
  | .retire .. => execRetire_keeps h _
  | .lintelComplete .. => execLintelComplete_keeps h _ _
  | .lintelTimeout .. => execLintelTimeout_keeps h _ _
  | .pointingPeriodExpiry .. => execPointingPeriodExpiry_keeps h _ _
  | .pointingBarrier .. => execPointingBarrier_keeps h _ _
  | .hbmWideRead .. => execHbmWideRead_keeps h _ _
  | .hbmWideWrite .. => execHbmWideWrite_keeps h _
  | .hbmNarrowRead .. => execHbmNarrowRead_keeps h _ _
  | .hbmNarrowWrite .. => execHbmNarrowWrite_keeps h _ _
  | .addWrite .. => execAddWrite_keeps h _ _
  | .rowRemapEnd .. => execRowRemapEnd_keeps h _ _ _ _
  | .scrubRead .. => execScrubRead_keeps h _ _ _
  | .remapFlashCopy .. => execRemapFlashCopy_keeps h _
  | .channelMoveEnd .. => execChannelMoveEnd_keeps h _
  | .hbmThermalSample .. => execHbmThermalSample_keeps h _ _ _
  | .pacingWindow .. => execPacingWindow_keeps h _ _
  | .add .. => execAdd_keeps h _
  | .mul .. => execMul_keeps h _
  | .fma .. => execFma_keeps h _
  | .affine .. => execAffine_keeps h _
  | .div .. => execDiv_keeps h _
  | .max .. => execMax_keeps h _
  | .min .. => execMin_keeps h _
  | .rsqrt .. => execRsqrt_keeps h _
  | .exp .. => execExp_keeps h _
  | .gelu .. => execGelu_keeps h _
  | .silu .. => execSilu_keeps h _
  | .rmsnorm .. => execRmsnorm_keeps h _
  | .layernorm .. => execLayernorm_keeps h _
  | .softmax .. => execSoftmax_keeps h _
  | .quant .. => execQuant_keeps h _
  | .dequant .. => execDequant_keeps h _
  | .adamw .. => execAdamw_keeps h _
  | .lion .. => execLion_keeps h _
  | .sgdm .. => execSgdm_keeps h _
  | .plumb .. => execPlumb_keeps h _
  | .fence .. => execFence_keeps h _
  | .nmuSlotGrant .. => execNmuSlotGrant_keeps h _ _
  | .nmuSwitchInEnd .. => execNmuSwitchInEnd_keeps h _ _ _ _
  | .nmuSlotEnd .. => execNmuSlotEnd_keeps h _ _
  | .nmuSwitchOutEnd .. => execNmuSwitchOutEnd_keeps h _ _
  | .nmuGrantTimeout .. => execNmuGrantTimeout_keeps h _ _
  | .nmuFenceComplete .. => execNmuFenceComplete_keeps h _
  | .granuleCommit .. => execGranuleCommit_keeps h _
  | .mode .. => execMode_keeps h _
  | .input .. => execInput_keeps h _
  | .trnLedgerCtlWrite .. => execTrnLedgerCtlWrite_keeps h _ _ _
  | .fetch .. => execFetch_keeps h _
  | .flush .. => execFlush_keeps h _
  | .evict .. => execEvict_keeps h _
  | .drop .. => execDrop_keeps h _
  | .alloc .. => execAlloc_keeps h _
  | .bind .. => execBind_keeps h _
  | .slabFetch .. => execSlabFetch_keeps h _
  | .slabReady .. => execSlabReady_keeps h _ _ _
  | .readyTimeout .. => execReadyTimeout_keeps h _ _
  | .writebackDone .. => execWritebackDone_keeps h _ _
  | .flitReceive .. => execFlitReceive_keeps h _ _ _
  | .wavelengthLockLoss .. => execWavelengthLockLoss_keeps h _ _
  | .departedNotice .. => execDepartedNotice_keeps h _
  | .peerLockLoss .. => execPeerLockLoss_keeps h _ _
  | .courseEnable .. => execCourseEnable_keeps h _ _ _
  | .courseDisable .. => execCourseDisable_keeps h _ _ _ _
  | .walkToken .. => execWalkToken_keeps h _ _
  | .walkTimeout .. => execWalkTimeout_keeps h _ _
  | .reduceScatter .. => execReduceScatter_keeps h _
  | .allGather .. => execAllGather_keeps h _
  | .allReduce .. => execAllReduce_keeps h _
  | .broadcast .. => execBroadcast_keeps h _
  | .permute .. => execPermute_keeps h _
  | .reshard .. => execReshard_keeps h _
  | .collTimeout .. => execCollTimeout_keeps h _ _
  | .abandon .. => execAbandon_keeps h _ _
  | .copied .. => execCopied_keeps h _ _
  | .flip .. => execFlip_keeps h _ _ _ _
  | .narShardWrite .. => execNarShardWrite_keeps h _ _ _ _
  | .timingFlit .. => execTimingFlit_keeps h _ _ _ nofun
  | .timeLost .. => execTimeLost_keeps h _
  | .linkFrameReceive .. => execLinkFrameReceive_keeps h _ _ _
  | .linkLockLoss .. => execLinkLockLoss_keeps h _
  | .openDieMessage .. => execOpenDieMessage_keeps h _
  | .openResponseTimeout .. => execOpenResponseTimeout_keeps h _ _
  | .openPowerWindow .. => execOpenPowerWindow_keeps h _
  | .windowRead .. => execWindowRead_keeps h _ _ _ _
  | .windowWrite .. => execWindowWrite_keeps h _ _ _
  | .windowAccessTimeout .. => execWindowAccessTimeout_keeps h _ _
  | .flr => execFlr_keeps h
  | .pmStateChange .. => execPmStateChange_keeps h _
  | .busMasterEnableChange .. => execBusMasterEnableChange_keeps h _
  | .pcieLinkDown .. => execPcieLinkDown_keeps h _ _
  | .pcieLinkUp .. => execPcieLinkUp_keeps h _ _ _
  | .holdoffExpiry .. => execHoldoffExpiry_keeps h _
  | .ringEnable .. => execRingEnable_keeps h _ _ _
  | .ringClearEnd .. => execRingClearEnd_keeps h _
  | .ringDisable .. => execRingDisable_keeps h _ _ _
  | .ringDrainEnd .. => execRingDrainEnd_keeps h _
  | .ctxReset .. => execCtxReset_keeps h _ _
  | .doorbell .. => execDoorbell_keeps h _ _ _
  | .commandCompletion .. => execCommandCompletion_keeps h _
  | .getVersion .. => execGetVersion_keeps h _
  | .getCapabilities .. => execGetCapabilities_keeps h _
  | .negotiateAlgorithms .. => execNegotiateAlgorithms_keeps h _ _
  | .getDigests .. => execGetDigests_keeps h _
  | .getCertificate .. => execGetCertificate_keeps h _ _
  | .challenge .. => execChallenge_keeps h _ _ _
  | .getMeasurements .. => execGetMeasurements_keeps h _ _ _
  | .keyExchange .. => execKeyExchange_keeps h _ _
  | .finish .. => execFinish_keeps h _ _ _
  | .endSession .. => execEndSession_keeps h _ _
  | .doeDiscovery .. => execDoeDiscovery_keeps h _ _
  | .keyPut .. => execKeyPut_keeps h _ _ _
  | .keyClear .. => execKeyClear_keeps h _ _ _
  | .keyOpen .. => execKeyOpen_keeps h _
  | .keyStatus .. => execKeyStatus_keeps h _
  | .keyCmdClear .. => execKeyCmdClear_keeps h _
  | .steerStart .. => execSteerStart_keeps h _ _ _
  | .steerStop .. => execSteerStop_keeps h _ _ _
  | .steerTrap .. => execSteerTrap_keeps h _ _
  | .steerEcall .. => execSteerEcall_keeps h _
  | .secSealWrite .. => execSecSealWrite_keeps h _ _ _
  | .skimEnd .. => execSkimEnd_keeps h _ _ _
  | .overwriteEnd .. => execOverwriteEnd_keeps h _ _
  | .xannaConnect .. => execXannaConnect_keeps h _ _ _
  | .xannaDisconnect .. => execXannaDisconnect_keeps h _
  | .xannaRead .. => execXannaRead_keeps h _ _ _
  | .subscribe .. => execSubscribe_keeps h _ _
  | .partitionCount .. => execPartitionCount_keeps h _ _ _
  | .tierCacheShare .. => execTierCacheShare_keeps h _ _ _
  | .fencedPower .. => execFencedPower_keeps h _ _ _ _
  | .powerCaps .. => execPowerCaps_keeps h _ _ _ _
  | .firmwareImage .. => execFirmwareImage_keeps h _ _ _
  | .moduleResetRequest .. => execModuleResetRequest_keeps h _ _
  | .tenantBind .. => execTenantBind_keeps h _ _ _ _ _ _
  | .tenantRelease .. => execTenantRelease_keeps h _ _ _ _
  | .hostAccessSettings .. => execHostAccessSettings_keeps h _ _ _
  | .moduleIdSettings .. => execModuleIdSettings_keeps h _ _ _
  | .channelRetireRequest .. => execChannelRetireRequest_keeps h _ _ _
  | .returnToService .. => execReturnToService_keeps h _ _ _ _
  | .spdmRelay .. => execSpdmRelay_keeps h _ _ _ _
  | .installRoot .. => execInstallRoot_keeps h _ _ _
  | .powerLoopPeriod .. => execPowerLoopPeriod_keeps h _ _ _ _ _ _ _
  | .fastLimitWindow .. => execFastLimitWindow_keeps h _ _
  | .dieThermalSample .. => execDieThermalSample_keeps h _ _ _
  | .coreSleep .. => execCoreSleep_keeps h _ _ _
  | .clusterSleep .. => execClusterSleep_keeps h _ _ _
  | .nmuGroupSleep .. => execNmuGroupSleep_keeps h _ _ _
  | .coreWakeStart .. => execCoreWakeStart_keeps h _ _
  | .domainWakeEnd .. => execDomainWakeEnd_keeps h _
  | .diePllLockLoss .. => execDiePllLockLoss_keeps h _
  | .powerStageFault .. => execPowerStageFault_keeps h _
  | .heartbeat .. => execHeartbeat_keeps h _
  | .heartbeatTimeout .. => execHeartbeatTimeout_keeps h _
  | .watchdogExpiry .. => execWatchdogExpiry_keeps h _
  | .snap .. => execSnap_keeps h _
  | .snapCopy .. => execSnapCopy_keeps h _ _
  | .rasLogCursorWrite .. => execRasLogCursorWrite_keeps h _ _ _
  | .powerInputInRange => execPowerInputInRange_keeps h
  | .powerInputOutOfRange .. => execPowerInputOutOfRange_keeps h _
  | .bootRomPhase => execBootRomPhase_keeps h
  | .bringUpPhase .. => execBringUpPhase_keeps h _ _
  | .scaffoldLinksPhase .. => execScaffoldLinksPhase_keeps h _ _ _
  | .selfTestPhase .. => execSelfTestPhase_keeps h _ _
  | .entryToOperational .. => execEntryToOperational_keeps h _
  | .partitionReset .. => execPartitionReset_keeps h _ _ _
  | .partitionResetEnd .. => execPartitionResetEnd_keeps h _ _ _
  | .coolantSample .. => execCoolantSample_keeps h _ _ _
  | .coolantTrip .. => execCoolantTrip_keeps h _
  | .portLinkTraining .. => execPortLinkTraining_keeps h _ _ _ _
  | .granuleMoved .. => execGranuleMoved_keeps h _
  | .timingFlitSend .. => execTimingFlitSend_keeps h _
  | .registerRead .. => execRegisterRead_keeps h _ _ _

/-- A step is the front command on the state with the queue's rest, or a pilot tick. -/
theorem step_sound {s t : State} (hs : Sound s) (h : step s = .next t) : Sound t := by
  unfold step at h
  split at h
  case h_1 => cases h; exact (State.pilotTick_keeps (Keeps.refl false s)).sound hs
  case h_2 c rest _ =>
    have hq : Sound { s with pending := rest } := ⟨hs.mem, hs.written, hs.poison, hs.log, hs.views, hs.queues, hs.settings,
      hs.phase, hs.cmds⟩
    exact (exec_keeps c _ t h).sound hq

/-- Settles O4: no clause of `Sound` speaks of the queue, and `exec_keeps` carries each of them through the front command. -/
theorem everyStepKeepsSound : Obligations.EveryStepKeepsSound := fun _ _ => step_sound

end Sys2Proof.Machine

/-! ## Settings from Xanna (O53)

On a live connection of a module with a root a message is its handler's effect and one answer. The handlers of Table SEC-11
check, then make, one change; a host access or window setting also changes a partition's measurements. -/

namespace Sys2Proof.Machine

/-! ### A message on a live connection -/

/-- The firmware takes messages of Table SEC-11 on a connection: it runs, the connection stands, and a root is installed. -/
structure Governs (s : State) (n : Nat) : Prop where
  up : firmwareUp s = true
  conn : (conn? s n).isSome = true
  root : s.flash.root.isSome = true

/-- A time reading does not change that. -/
theorem Governs.at_ {s : State} {n : Nat} (h : Governs s n) (now : Nat) : Governs (s.at_ now) n := ⟨h.up, h.conn, h.root⟩

theorem State.xanna_governs {s : State} {n : Nat} (h : Governs s n) (typ seq : Nat) (f : State → State × Nat) :
    s.xanna n typ seq f = (f s).1.emit (.xanna n typ seq (f s).2 0) := by
  have hc := Option.isSome_iff_ne_none.1 h.conn
  have hr := Option.isSome_iff_ne_none.1 h.root
  simp [State.xanna, h.up, hc, hr]

/-- A setting that its rule allows is made, and answered with the handler's status. -/
theorem State.xanna_allowed {s : State} {n : Nat} (h : Governs s n) (typ seq st : Nat) {ok : State → Bool} (g : State → State)
    (hok : ok s = true) :
    s.xanna n typ seq (fun t => asked (ok t) (g t) st t) = (g s).emit (.xanna n typ seq st 0) := by
  rw [State.xanna_governs h, asked, if_pos hok]

/-- Any other value is answered as malformed and changes nothing. -/
theorem State.xanna_malformed {s : State} {n : Nat} (h : Governs s n) (typ seq st : Nat) {ok : State → Bool} (g : State → State)
    (hok : ok s ≠ true) :
    s.xanna n typ seq (fun t => asked (ok t) (g t) st t) = s.emit (.xanna n typ seq 1 0) := by
  rw [State.xanna_governs h, asked, if_neg hok]
  rfl

/-! ### Measurements -/

/-- Only the registers, the log, the views, the pending messages, the mirrors and the output differ. -/
def OnlyEvents (s t : State) : Prop :=
  { t with
    regs := s.regs, pcie := { t.pcie with pba := s.pcie.pba }, log := s.log, logNext := s.logNext, views := s.views
    conns := s.conns, out := s.out } = s

theorem OnlyEvents.trans {s t u : State} (h : OnlyEvents s t) (k : OnlyEvents t u) : OnlyEvents s u := by
  unfold OnlyEvents at h k
  rw [← k] at h
  exact h

theorem OnlyEvents.foldl {α : Type} {f : State → α → State} (hf : ∀ t x, OnlyEvents t (f t x)) (l : List α) (s : State) :
    OnlyEvents s (l.foldl f s) := by
  induction l generalizing s with
  | nil => exact rfl
  | cons x l ih => exact (hf s x).trans (ih _)

theorem OnlyEvents.settings {s t : State} (h : OnlyEvents s t) : t.settings = s.settings := by
  have e := congrArg State.settings h; exact e
theorem OnlyEvents.secs {s t : State} (h : OnlyEvents s t) : t.secs = s.secs := by
  have e := congrArg State.secs h; exact e

theorem State.setIrq_onlyEvents (s : State) (g n : Nat) : OnlyEvents s (s.setIrq g n) := (s.setIrq_aside g n).rest

theorem State.moduleSeen_onlyEvents (s : State) (p : Nat) : OnlyEvents s (s.moduleSeen p) := by
  have hbump (t : State) : OnlyEvents t (t.bump (Blk.sec.page p) Reg.secObs 31 0 1) := rfl
  have hview (t : State) (e : Snag) : OnlyEvents t (t.logView p e) := (t.logView_aside p e).rest
  exact ((((hview s _).trans (hbump _)).trans (State.setIrq_onlyEvents _ _ 3)).trans (State.logFull_aside _ _).rest).trans
    (hview _ _)

theorem State.logOne_onlyEvents (s : State) (e : Snag) : OnlyEvents s (s.logOne e) := by
  have h : OnlyEvents s (s.logFull e) := (s.logFull_aside e).rest
  unfold State.logOne
  dsimp only
  split
  · exact h.trans (State.logView_aside _ _ _).rest
  · exact h.trans (.foldl State.moduleSeen_onlyEvents _ _)

/-- Whatever the partition count, an event touches nothing else. -/
theorem State.raise_onlyEvents (s : State) (g n : Nat) (d : Det) : OnlyEvents s (s.raise_ g n d) := by
  unfold State.raise_
  dsimp only
  split
  · exact s.setIrq_onlyEvents g n
  · exact (s.setIrq_onlyEvents g n).trans
      ((State.logOne_onlyEvents _ _).trans (.foldl (fun t _ => t.logOne_onlyEvents _) _ _))

theorem State.measured_settings (s : State) (p : Nat) : (s.measured p).settings = s.settings := by
  unfold State.measured
  dsimp only
  split
  · exact (State.raise_onlyEvents _ _ _ _).settings
  · rfl

/-- Key slots and sessions go from the partition whose measurement changes, and from no other. -/
theorem State.sec_measured (s : State) (p q : Nat) :
    sec (s.measured p) q =
      if q = p then { sec s p with keys := [], spdm := { (sec s p).spdm with sessions := [] } } else sec s q := by
  have h : (s.measured p).secs =
      SMap.modify {} s.secs p (fun x => { x with keys := [], spdm := { x.spdm with sessions := [] } }) := by
    unfold State.measured
    dsimp only
    split
    · exact (State.raise_onlyEvents _ _ _ _).secs
    · rfl
  simp only [sec, h, SMap.get_modify]

/-- The partition has no key slot and no session. -/
def NoSecrets (s : State) (p : Nat) : Prop := (sec s p).keys = [] ∧ (sec s p).spdm.sessions = []

theorem State.measured_noSecrets (s : State) (p : Nat) : NoSecrets (s.measured p) p := by
  simp [NoSecrets, State.sec_measured]

theorem NoSecrets.measured {s : State} {q : Nat} (h : NoSecrets s q) (p : Nat) : NoSecrets (s.measured p) q := by
  by_cases e : q = p
  · subst e; exact s.measured_noSecrets q
  · simpa [NoSecrets, State.sec_measured, e] using h

/-! ### Host access and windows -/

/-- What HOST_ACCESS_SETTINGS makes of a setting that its rule does not allow. -/
theorem exec_hostAccess_malformed {s : State} {n seq : Nat} (hg : Governs s n) {h : HostSetting} (hok : hostSettingOk s h = false) :
    exec (.hostAccessSettings n seq h) s = .next (s.emit (.xanna n 0x0030 seq 1 0)) := by
  simp only [exec, execHostAccessSettings, State.xanna_governs hg, hok]
  rfl

/-- A setting of a partition in scaffold mode is held (R429). -/
theorem exec_hostAccess_held {s : State} {n seq : Nat} (hg : Governs s n) {h : HostSetting} (hok : hostSettingOk s h = true) {p : Nat}
    (hp : hostSettingPart h = some p) (h1 : s.startup.part.getD p 1 = 1) :
    exec (.hostAccessSettings n seq h) s = .next (State.emit
      { s with settings := { s.settings with hostPend := s.settings.hostPend ++ [h] } } (.xanna n 0x0030 seq 3 0)) := by
  simp only [exec, execHostAccessSettings, State.xanna_governs hg, hok, hp, Option.any_some, h1]
  rfl

/-- Any other setting takes effect at once, where it is not in force already. -/
theorem exec_hostAccess_now {s : State} {n seq : Nat} (hg : Governs s n) {h : HostSetting} (hok : hostSettingOk s h = true)
    (hp : ∀ p, hostSettingPart h = some p → s.startup.part.getD p 1 ≠ 1) :
    exec (.hostAccessSettings n seq h) s =
      .next (State.emit (if hostSettingSame s h = true then s else s.applyHost h) (.xanna n 0x0030 seq 0 0)) := by
  have hany : (hostSettingPart h).any (fun p => s.startup.part.getD p 1 == 1) = false := by
    cases hh : hostSettingPart h with
    | none => rfl
    | some p => simpa using hp p hh
  simp only [exec, execHostAccessSettings, State.xanna_governs hg, hok, hany, Bool.not_true, Bool.false_eq_true, if_false]
  split <;> rfl

/-- A new host access mode of a partition out of scaffold mode is in force, and the partition's measurements have changed. -/
theorem exec_hostAccess_mode {s : State} {n seq : Nat} (hg : Governs s n) {p m : Nat} (hp : p < s.settings.partitions) (hm : m ≤ 2)
    (h1 : s.startup.part.getD p 1 ≠ 1) (hne : hostMode s p ≠ m) (hl : s.settings.hostAccess.length = 4) (hp4 : p < 4) :
    ∃ t, exec (.hostAccessSettings n seq (.access p m)) s = .next t ∧ hostMode t p = m ∧ (sec t p).keys = [] ∧
      (sec t p).spdm.sessions = [] ∧ { t.settings with hostAccess := s.settings.hostAccess } = s.settings := by
  have hok : hostSettingOk s (.access p m) = true := by simp [hostSettingOk, hp, hm]
  have hsame : hostSettingSame s (.access p m) ≠ true := by simpa [hostSettingSame] using hne
  obtain ⟨hkeys, hsessions⟩ : NoSecrets ((s.applyHost (.access p m)).emit (.xanna n 0x0030 seq 0 0)) p :=
    State.measured_noSecrets _ p
  refine ⟨_, (exec_hostAccess_now hg hok (fun q hq => by cases hq; exact h1)).trans (by rw [if_neg hsame]), ?_, hkeys,
    hsessions, ?_⟩
  · simp [hostMode, State.applyHost, State.measured_settings, hl, hp4]
  · simp [State.applyHost, State.measured_settings]

/-- A window goes to a partition out of scaffold mode; both partitions' measurements have changed. -/
theorem exec_hostAccess_window {s : State} {n seq : Nat} (hg : Governs s n) {w p : Nat} (hw : w < 8) (hp : p < s.settings.partitions)
    (h1 : s.startup.part.getD p 1 ≠ 1) (hl : s.settings.winPart.length = 8) :
    ∃ t, exec (.hostAccessSettings n seq (.window w p)) s = .next t ∧ winPart t w = p ∧
      (winPart s w ≠ p → ∀ q ∈ [winPart s w, p], NoSecrets t q) := by
  have hok : hostSettingOk s (.window w p) = true := by simp [hostSettingOk, hp, hw]
  refine ⟨_, exec_hostAccess_now hg hok (fun q hq => by cases hq; exact h1), ?_⟩
  by_cases hsame : winPart s w = p
  · rw [if_pos (by simpa [hostSettingSame] using hsame)]
    exact ⟨hsame, fun h => absurd hsame h⟩
  · rw [if_neg (by simpa [hostSettingSame] using hsame)]
    simp only [State.applyHost, if_neg hsame]
    refine ⟨by simp [winPart, State.measured_settings, hl, hw], fun _ q hq => ?_⟩
    rcases List.mem_pair.1 hq with rfl | rfl
    · exact (State.measured_noSecrets _ _).measured p
    · exact State.measured_noSecrets _ _

/-! ### The obligation -/

/-- Settles O53: each row is `State.xanna_allowed` or `State.xanna_malformed`, and HOST_ACCESS_SETTINGS one of its three cases. -/
theorem xannaSettings : Obligations.XannaSettings := by
  intro s n seq hup hconn hroot
  have hg : Governs s n := ⟨hup, hconn, hroot⟩
  refine ⟨fun c => ⟨fun h => ?_, fun h => ?_⟩, fun g => ⟨fun h => ?_, fun h => ?_⟩, fun on now => ?_,
    fun w now => ⟨fun h => ?_, fun h => ?_⟩, fun img => ⟨fun h => ?_, fun h => ?_⟩, ?_, fun h => ⟨fun hok => ?_, fun hok hp => ?_⟩,
    fun ms h10 hms => ?_, fun p m => exec_hostAccess_mode hg, fun w p => exec_hostAccess_window hg,
    fun id => ⟨fun h => ?_, fun h => ?_⟩, fun c => ⟨fun h => ?_, fun h8 h15 => ?_⟩, fun p => ⟨fun h => ?_, fun h => ?_⟩⟩
  -- partition count
  · exact congrArg Host.Outcome.next (State.xanna_allowed hg _ _ _ _ (by simpa using h))
  · exact congrArg Host.Outcome.next (State.xanna_malformed hg _ _ _ _ (by simpa using h))
  -- cache share
  · exact congrArg Host.Outcome.next (State.xanna_allowed hg _ _ _ _ (by simpa [shareLegal] using h))
  · exact congrArg Host.Outcome.next (State.xanna_malformed hg _ _ _ _ (by simpa [shareLegal] using h))
  -- fenced power
  · exact congrArg Host.Outcome.next (State.xanna_governs (hg.at_ now) _ _ _)
  -- power cap
  · exact congrArg Host.Outcome.next (State.xanna_allowed (hg.at_ now) _ _ _ _ (by simpa [capLegal, and_assoc] using h))
  · exact congrArg Host.Outcome.next (State.xanna_malformed (hg.at_ now) _ _ _ _ (by simpa [capLegal, and_assoc] using h))
  -- firmware image
  · exact congrArg Host.Outcome.next (State.xanna_allowed hg _ _ _ _ (by simpa [imageOk] using h))
  · exact congrArg Host.Outcome.next (State.xanna_malformed hg _ _ _ _ (by simpa [imageOk] using h))
  -- module reset
  · simp only [exec, execModuleResetRequest, State.xanna_governs hg, hup, hconn, hroot]
    rfl
  -- host access settings
  · exact exec_hostAccess_malformed hg hok
  · obtain ⟨p, hp, h1⟩ := hp
    exact exec_hostAccess_held hg hok hp h1
  · refine (exec_hostAccess_now hg (by simp [hostSettingOk, h10, hms]) (fun _ hq => by cases hq)).trans ?_
    split
    next hsame =>
      obtain rfl : s.settings.holdoffMs = ms := by simpa [hostSettingSame] using hsame
      rfl
    next => rfl
  -- module ID
  · exact congrArg Host.Outcome.next (State.xanna_allowed hg _ _ _ _ (by simpa using h))
  · exact congrArg Host.Outcome.next (State.xanna_malformed hg _ _ _ _ (by simpa using h))
  -- time source
  · exact ⟨_, congrArg Host.Outcome.next (State.xanna_allowed hg _ _ _ _ (by simpa using h)), rfl, rfl, rfl⟩
  · exact congrArg Host.Outcome.next (State.xanna_malformed hg _ _ _ _ (by simp [h15]; omega))
  -- owner of the open site
  · exact congrArg Host.Outcome.next (State.xanna_allowed hg _ _ _ _ (by simpa using h))
  · exact congrArg Host.Outcome.next (State.xanna_malformed hg _ _ _ _ (by simpa using h))

end Sys2Proof.Machine

/-! ## What the end of commands and a tenant switch leave (for O60)

A partition that becomes operational may end commands, complete them, start collectives and begin a skim (R372, R423); a faulted link
ends commands and flushes window accesses (R313). None of that faults a die, moves a link, retires a core or a cluster, draws a
key, changes a setting or clears an operational event. -/

namespace Sys2Proof.Machine

-- One proof after another: in the joined text the proofs here would all wait at once for the kernel, each with a thread and its stack.
set_option Elab.async false

/-- A change of one entry leaves what it does not change of the entries. -/
theorem SMap.get_modify_keep {α β : Type} [DecidableEq α] {d : α} (g : α → β) {f : α → α} (hf : ∀ x, g (f x) = g x) (m : SMap α)
    (n k : Nat) : g (SMap.get d (SMap.modify d m n f) k) = g (SMap.get d m k) := by
  rw [SMap.get_modify]
  split
  next e => rw [e]; exact hf _
  next => rfl

/-- The operational event of a partition in a register file: bit 0 of its SUP page's BLK_IRQ_STAT. -/
def supUp (regs : SMap Word) (p : Nat) : Bool :=
  (SMap.get (BitVec.ofNat 64 (resetReg .sup Reg.irqStat)) regs (regKey (supPage p) Reg.irqStat)).getLsbD 0

theorem supUp_set_other (m : SMap Word) (p : Nat) {r : Nat} (hr : r < 512 ∧ r ≠ Reg.irqStat) (g : Nat) {d : Word} (v : Word) :
    supUp (SMap.set d m (regKey g r) v) p = supUp m p := by
  have hk : regKey (supPage p) Reg.irqStat ≠ regKey g r := by
    have : Reg.irqStat < 512 := by decide
    simp only [regKey]
    omega
  rw [supUp, SMap.get_set_other' _ _ hk, supUp]

/-- An event bit that becomes set, on whatever page, leaves the operational event. -/
theorem supUp_setIrq {s : State} (g n : Nat) {p : Nat} (hp : p < 4) (h : supUp s.regs p = true) :
    supUp (s.setReg g Reg.irqStat (s.reg g Reg.irqStat ||| 2 ^ n)).regs p = true := by
  simp only [State.setReg, supUp] at h ⊢
  by_cases hk : regKey (supPage p) Reg.irqStat = regKey (homePage s g Reg.irqStat) Reg.irqStat
  · have hpage : supPage p = homePage s g Reg.irqStat := by
      simp only [regKey] at hk; omega
    have hb : blkOf g = .sup := by
      rw [← blkOf_homePage s g Reg.irqStat, ← hpage]
      exact blkOf_page .sup (blkOf_all _) p hp
    have hbit : (s.reg g Reg.irqStat).testBit 0 = true := by
      rw [State.reg, hb, ← hk]
      exact h
    rw [hk, hb, SMap.get_set_same, BitVec.getLsbD_ofNat, Nat.testBit_or, hbit]
    rfl
  · rw [SMap.get_set_other' _ _ hk]
    exact h

/-- The components that `Steady` speaks of, against the state before. With `b` start-up and the stacks' power stay as well. -/
structure SteadyC (b : Bool) (s : State) (x : Settings) (st : Startup) (svn : Nat) (regs : SMap Word) (dies : SMap Die)
    (stks : SMap Stack) (secs : SMap Sec) (links : SMap Link) (doms : SMap CoreDom) (cls : SMap Cluster) : Prop where
  settings : x = s.settings
  svn : svn = s.flash.minSvn
  links : links = s.links
  startup : b = true → st = s.startup
  offline : b = true → ∀ n, (SMap.get {} stks n : Stack).offline = (stack s n).offline
  faulted : ∀ n, (SMap.get {} dies n : Die).faulted = (die s n).faulted
  memGen : ∀ p, (SMap.get {} secs p : Sec).memGen = (sec s p).memGen
  coreRetired : ∀ c, (SMap.get {} doms c : CoreDom).retired = coreRetired s c
  clusterRetired : ∀ c, (SMap.get {} cls c : Cluster).retired = clusterRetired s c
  supUp : ∀ p < 4, supUp s.regs p = true → supUp regs p = true

/-- From `s` to `t` what `SteadyC` lists stays. -/
def Steady (b : Bool) (s t : State) : Prop :=
  SteadyC b s t.settings t.startup t.flash.minSvn t.regs t.dies t.stks t.secs t.links t.coreDoms t.clusters

theorem Steady.refl (b : Bool) (s : State) : Steady b s s :=
  ⟨rfl, rfl, rfl, fun _ => rfl, fun _ _ => rfl, fun _ => rfl, fun _ => rfl, fun _ => rfl, fun _ => rfl, fun _ _ h => h⟩

theorem Steady.trans {b : Bool} {s t u : State} (h : Steady b s t) (k : Steady b t u) : Steady b s u where
  settings := k.settings.trans h.settings
  svn := k.svn.trans h.svn
  links := k.links.trans h.links
  startup e := (k.startup e).trans (h.startup e)
  offline e n := (k.offline e n).trans (h.offline e n)
  faulted n := (k.faulted n).trans (h.faulted n)
  memGen p := (k.memGen p).trans (h.memGen p)
  coreRetired c := (k.coreRetired c).trans (h.coreRetired c)
  clusterRetired c := (k.clusterRetired c).trans (h.clusterRetired c)
  supUp p hp e := k.supUp p hp (h.supUp p hp e)

namespace Steady

variable {b : Bool} {s₀ s t : State}

theorem ite {p : Prop} [Decidable p] (h : Steady b s₀ s) (k : Steady b s₀ t) : Steady b s₀ (if p then s else t) := by
  split <;> assumption

theorem ite_fst {α : Type} {p : Prop} [Decidable p] {x y : State × α} (h : Steady b s₀ x.1) (k : Steady b s₀ y.1) :
    Steady b s₀ (if p then x else y).1 := by
  split <;> assumption

theorem foldl {α : Type} {f : State → α → State} {l : List α} (hf : ∀ t x, Steady b s₀ t → Steady b s₀ (f t x))
    (h : Steady b s₀ s) : Steady b s₀ (l.foldl f s) := by
  induction l generalizing s with
  | nil => exact h
  | cons x l ih => exact ih (hf s x h)

theorem foldl_fst {α β : Type} {f : State × β → α → State × β} {l : List α} {p : State × β}
    (hf : ∀ t x, Steady b s₀ t.1 → Steady b s₀ (f t x).1) (h : Steady b s₀ p.1) : Steady b s₀ (l.foldl f p).1 := by
  induction l generalizing p with
  | nil => exact h
  | cons x l ih => exact ih (hf p x h)

/-! ### Changes of a component -/

theorem setFlash (h : Steady b s₀ s) (f : Flash) (hf : f.minSvn = s.flash.minSvn := by rfl) : Steady b s₀ { s with flash := f } :=
  { h with svn := hf.trans h.svn }

theorem modDie (h : Steady b s₀ s) (n : Nat) (f : Die → Die) (hf : ∀ x, (f x).faulted = x.faulted := by exact fun _ => rfl) :
    Steady b s₀ (s.modDie n f) :=
  { h with faulted := fun k => (SMap.get_modify_keep Die.faulted hf _ n k).trans (h.faulted k) }

theorem modStack (h : Steady b s₀ s) (n : Nat) (f : Stack → Stack) (hf : ∀ x, (f x).offline = x.offline := by exact fun _ => rfl) :
    Steady b s₀ (s.modStack n f) :=
  { h with offline := fun e k => (SMap.get_modify_keep Stack.offline hf _ n k).trans (h.offline e k) }

theorem modSec (h : Steady b s₀ s) (n : Nat) (f : Sec → Sec) (hf : ∀ x, (f x).memGen = x.memGen := by exact fun _ => rfl) :
    Steady b s₀ (s.modSec n f) :=
  { h with memGen := fun k => (SMap.get_modify_keep Sec.memGen hf _ n k).trans (h.memGen k) }

theorem modCoreDom (h : Steady b s₀ s) (n : Nat) (f : CoreDom → CoreDom) (hf : ∀ x, (f x).retired = x.retired := by exact fun _ => rfl) :
    Steady b s₀ (s.modCoreDom n f) :=
  { h with coreRetired := fun k => (SMap.get_modify_keep CoreDom.retired hf _ n k).trans (h.coreRetired k) }

theorem modCluster (h : Steady b s₀ s) (n : Nat) (f : Cluster → Cluster) (hf : ∀ x, (f x).retired = x.retired := by exact fun _ => rfl) :
    Steady b s₀ (s.modCluster n f) :=
  { h with clusterRetired := fun k => (SMap.get_modify_keep Cluster.retired hf _ n k).trans (h.clusterRetired k) }

/-- A register other than BLK_IRQ_STAT. -/
theorem setReg (h : Steady b s₀ s) (g v : Nat) {r : Nat} (hr : r < 512 ∧ r ≠ Reg.irqStat := by decide) :
    Steady b s₀ (s.setReg g r v) :=
  { h with supUp := fun p hp e => (supUp_set_other _ _ hr _ _).trans (h.supUp p hp e) }

theorem setRegFld (h : Steady b s₀ s) (g hi lo v : Nat) {r : Nat} (hr : r < 512 ∧ r ≠ Reg.irqStat := by decide) :
    Steady b s₀ (s.setRegFld g r hi lo v) := h.setReg _ _ hr

theorem bump (h : Steady b s₀ s) (g hi lo n : Nat) {r : Nat} (hr : r < 512 ∧ r ≠ Reg.irqStat := by decide) :
    Steady b s₀ (s.bump g r hi lo n) := h.setReg _ _ hr

theorem bumpWrap (h : Steady b s₀ s) (g hi lo n : Nat) {r : Nat} (hr : r < 512 ∧ r ≠ Reg.irqStat := by decide) :
    Steady b s₀ (s.bumpWrap g r hi lo n) := h.setReg _ _ hr

/-! ### Changes that touch no component -/

theorem emit (h : Steady b s₀ s) (o : Out) : Steady b s₀ (s.emit o) := h
theorem modChan (h : Steady b s₀ s) (n : Nat) (f : Chan → Chan) : Steady b s₀ (s.modChan n f) := h
theorem modPort (h : Steady b s₀ s) (n : Nat) (f : Port → Port) : Steady b s₀ (s.modPort n f) := h
theorem modCourse (h : Steady b s₀ s) (n : Nat) (f : Course → Course) : Steady b s₀ (s.modCourse n f) := h
theorem modTier (h : Steady b s₀ s) (p : Nat) (f : Tier → Tier) : Steady b s₀ (s.modTier p f) := h
theorem modLedger (h : Steady b s₀ s) (p : Nat) (f : Ledger → Ledger) : Steady b s₀ (s.modLedger p f) := h
theorem modCore (h : Steady b s₀ s) (n : Nat) (f : Core → Core) : Steady b s₀ (s.modCore n f) := h
theorem modCmd (h : Steady b s₀ s) (id : Nat) (f : Cmd → Cmd) : Steady b s₀ (s.modCmd id f) := h
theorem modColl (h : Steady b s₀ s) (id : Nat) (f : Coll → Coll) : Steady b s₀ (s.modColl id f) := h
theorem unpin (h : Steady b s₀ s) (id : Nat) : Steady b s₀ (s.unpin id) := h
theorem dropWork (h : Steady b s₀ s) (id : Nat) : Steady b s₀ (s.dropWork id) := h
theorem leave (h : Steady b s₀ s) (c : Cmd) : Steady b s₀ (s.leave c) := h
theorem freshen (h : Steady b s₀ s) (p : Nat → Bool) : Steady b s₀ (s.freshen p) := h
theorem poke (h : Steady b s₀ s) (k : Nat) (bs : List Byte) : Steady b s₀ (s.poke k bs) := h
theorem clearFresh (h : Steady b s₀ s) (k : Nat) : Steady b s₀ (s.clearFresh k) := h
theorem setPoison (h : Steady b s₀ s) (k : Nat) (x : Bool) : Steady b s₀ (s.setPoison k x) := h
theorem noteLate (h : Steady b s₀ s) (id st : Nat) : Steady b s₀ (s.noteLate id st) := h
theorem addFlags (h : Steady b s₀ s) (id : Nat) (f : Flags) : Steady b s₀ (s.addFlags id f) := h
theorem collStep (h : Steady b s₀ s) (id : Nat) : Steady b s₀ (s.collStep id) := h
theorem setShard (h : Steady b s₀ s) (p i : Nat) (e : Shard) : Steady b s₀ (s.setShard p i e) := h

/-! ### Events and the snag log -/

theorem sendMsix (h : Steady b s₀ s) (v : Nat) : Steady b s₀ (s.sendMsix v) := .ite h (.ite h h)

/-- An event bit that becomes set clears none. -/
theorem setIrq (h : Steady b s₀ s) (g n : Nat) : Steady b s₀ (s.setIrq g n) :=
  have hset : Steady b s₀ (s.setReg g Reg.irqStat (s.reg g Reg.irqStat ||| 2 ^ n)) :=
    { h with supUp := fun _ hp e => supUp_setIrq g n hp (h.supUp _ hp e) }
  .ite (hset.sendMsix _) hset

theorem logFull (h : Steady b s₀ s) (e : Snag) : Steady b s₀ (s.logFull e) := by
  unfold State.logFull
  split <;> exact h

theorem logView (h : Steady b s₀ s) (p : Nat) (e : Snag) : Steady b s₀ (s.logView p e) := by
  have hv (v : SMap View) : Steady b s₀ { s with views := v } := h
  unfold State.logView
  dsimp only
  split
  · exact h
  · exact .ite ((hv _).setIrq _ _) (((hv _).setIrq _ _).setIrq _ _)

theorem moduleSeen (h : Steady b s₀ s) (p : Nat) : Steady b s₀ (s.moduleSeen p) :=
  ((((h.logView p _).bump _ _ _ _).setIrq _ 3).logFull _).logView p _

theorem logOne (h : Steady b s₀ s) (e : Snag) : Steady b s₀ (s.logOne e) :=
  .ite ((h.logFull e).logView _ e) (.foldl (fun _ p ht => ht.moduleSeen p) (h.logFull e))

theorem log_ (h : Steady b s₀ s) (e : Snag) : Steady b s₀ (s.log_ e) := .foldl (fun _ _ ht => ht.logOne _) (h.logOne e)

theorem raise_ (h : Steady b s₀ s) (g n : Nat) (d : Det) : Steady b s₀ (s.raise_ g n d) :=
  .ite (h.setIrq g n) ((h.setIrq g n).log_ _)

theorem setIrqOpen (h : Steady b s₀ s) (p : Nat) : Steady b s₀ (s.setIrqOpen p) :=
  have hs (x : OpenSite) : Steady b s₀ { s with site := x } := h
  .ite ((hs _).sendMsix _) (hs _)

theorem raiseOpen (h : Steady b s₀ s) (p : Nat) (d : Det) : Steady b s₀ (s.raiseOpen p d) := (h.setIrqOpen p).log_ _

theorem faultEntry (h : Steady b s₀ s) (p i x : Nat) (d : Det) : Steady b s₀ (s.faultEntry p i x d) := h.log_ _
theorem resetEntry (h : Steady b s₀ s) (p i x n : Nat) : Steady b s₀ (s.resetEntry p i x n) := h.log_ _

theorem noteHealth (h : Steady b s₀ t) (s : State) (pages : List Nat) : Steady b s₀ (s.noteHealth t pages) :=
  .foldl (fun _ g ht => .ite ht (ht.raise_ g 0 _)) h

/-! ### Contexts and the end of a command -/

theorem wantCore (h : Steady b s₀ s) (k : Nat) : Steady b s₀ (s.wantCore k) := .ite ((h.modCoreDom k _).modDie _ _) h

theorem wantClusters (h : Steady b s₀ s) (l : List Nat) : Steady b s₀ (s.wantClusters l).1 :=
  .foldl (fun _ c ht => .ite ht ((ht.modCluster c _).modDie _ _)) h

theorem progress (h : Steady b s₀ s) (c : Nat) : Steady b s₀ (s.progress c) := h.modCluster c _
theorem stirCluster (h : Steady b s₀ s) (c : Nat) : Steady b s₀ (s.stirCluster c) := h.modCluster c _
theorem stirGroup (h : Steady b s₀ s) (c : Nat) : Steady b s₀ (s.stirGroup c) := h.modStack _ _
theorem modCtx (h : Steady b s₀ s) (n : Nat) (f : Ctx → Ctx) : Steady b s₀ (s.modCtx n f) := h.modCoreDom (n / 4) _
theorem cmdProgress (h : Steady b s₀ s) (c : Cmd) : Steady b s₀ (s.cmdProgress c) := .foldl (fun _ c ht => ht.progress c) h
theorem modSem (h : Steady b s₀ s) (k : Nat) (f : Sem → Sem) : Steady b s₀ (s.modSem k f) := h.progress (k / 2048)
theorem modCtr (h : Steady b s₀ s) (k : Nat) (f : Ctr → Ctr) : Steady b s₀ (s.modCtr k f) := h.progress (k / 512)

theorem ctxWaits (h : Steady b s₀ s) (n : Nat) : Steady b s₀ (s.ctxWaits n) := .ite ((h.modCtx n _).modCore _ _) (h.modCtx n _)
theorem ctxWakes (h : Steady b s₀ s) (n : Nat) : Steady b s₀ (s.ctxWakes n) := .ite ((h.modCtx n _).wantCore _) h

theorem cmdWaits (h : Steady b s₀ s) (id : Nat) (w : Wait) : Steady b s₀ (s.cmdWaits id w) := by
  unfold State.cmdWaits
  split
  · exact .foldl (fun _ n ht => ht.ctxWaits n) (h.modCmd id _)
  · exact h

theorem settleWait (h : Steady b s₀ s) (p : Nat) : Steady b s₀ (s.settleWait p) := by
  unfold State.settleWait
  split
  · exact .ite h ((h.bump _ _ _ _).modTier p _)
  · exact h

theorem cmdWakes (h : Steady b s₀ s) (id : Nat) : Steady b s₀ (s.cmdWakes id) := by
  unfold State.cmdWakes
  split
  next c _ =>
    have hw (f : Cmd → Cmd) : Steady b s₀ (((cmdCtxs s c).foldl State.ctxWakes (s.modCmd id f)).settleWait c.part) :=
      (foldl (fun _ n ht => ht.ctxWakes n) (h.modCmd id f)).settleWait c.part
    exact .ite (.foldl (fun _ c ht => ht.modCluster c _) (hw _)) (hw _)
  next => exact h

theorem endCmd (h : Steady b s₀ s) (id st : Nat) : Steady b s₀ (s.endCmd id st) := by
  unfold State.endCmd
  split
  next c _ =>
    have ht : Steady b s₀ ((cmdClusters s c.part c.bits).foldl State.stirCluster
        (c.units.foldl State.stirGroup (s.cmdWakes id))) :=
      .foldl (fun _ c ht => ht.stirCluster c) (.foldl (fun _ c ht => ht.stirGroup c) (h.cmdWakes id))
    exact .ite h (modCmd (.ite (ht.unpin id) (ht.dropWork id)) id _)
  next => exact h

theorem endCmds (h : Steady b s₀ s) (ids : List Nat) (st : Nat) : Steady b s₀ (ids.foldl (fun t i => t.endCmd i st) s) :=
  .foldl (fun _ i ht => ht.endCmd i st) h

theorem finishCmd (h : Steady b s₀ s) (id : Nat) : Steady b s₀ (s.finishCmd id) := by
  unfold State.finishCmd
  split
  · exact h.endCmd id _
  · exact h

/-! ### Counter pairs and lintels -/

theorem serveCtr (h : Steady b s₀ s) (k n : Nat) : Steady b s₀ (s.serveCtr k n) := by
  induction n generalizing s with
  | zero => exact h
  | succ n ih =>
    unfold State.serveCtr
    dsimp only
    split
    · exact h
    · exact .ite (ih ((h.modCtr k _).endCmd _ _)) (.ite (ih ((h.modCtr k _).finishCmd _)) h)

theorem post (h : Steady b s₀ s) (k v : Nat) : Steady b s₀ (s.post k v) := (h.modCtr k _).serveCtr k _

theorem makePost (h : Steady b s₀ s) (c : Cmd) : Steady b s₀ (s.makePost c).1 := by
  unfold State.makePost
  dsimp only
  split
  · exact h.post _ _
  · exact .ite_fst (h.raise_ _ 3 _) h

theorem lintelArrivals (h : Steady b s₀ s) (p : Nat) : Steady b s₀ (s.lintelArrivals p) := .ite h h

/-! ### Memory -/

theorem dirtyAt (h : Steady b s₀ s) (p x : Nat) : Steady b s₀ (s.dirtyAt p x) := by
  unfold State.dirtyAt
  split
  · split <;> exact h
  · exact h

theorem useAt (h : Steady b s₀ s) (p x : Nat) : Steady b s₀ (s.useAt p x) := by
  unfold State.useAt
  split
  · split <;> exact h
  · exact h

theorem wide64 (h : Steady b s₀ s) (k : Nat) (bs : List Byte) : Steady b s₀ (s.wide64 k bs).1 :=
  .ite_fst (.ite_fst ((h.poke k bs).setPoison k false) h) (h.poke k bs)

theorem wideAt (h : Steady b s₀ s) (p x : Nat) (bs : List Byte) : Steady b s₀ (s.wideAt p x bs).1 :=
  .foldl_fst (fun _ _ ht => .ite (ht.wide64 _ _) ((ht.wide64 _ _).dirtyAt p _)) h

theorem narrowAt (h : Steady b s₀ s) (p x : Nat) (bs : List Byte) : Steady b s₀ (s.narrowAt p x bs).1 :=
  .ite_fst h ((h.poke _ bs).dirtyAt p x)

theorem countFresh (h : Steady b s₀ s) (k : Nat) : Steady b s₀ (s.countFresh k) := .ite (h.modStack _ _) h

theorem countRead (h : Steady b s₀ s) (p x len : Nat) : Steady b s₀ (s.countRead p x len) :=
  .foldl (fun _ _ ht => ht.countFresh _) h

theorem queueFetch (h : Steady b s₀ s) (p n cls : Nat) (id : Option Nat) : Steady b s₀ (s.queueFetch p n cls id) :=
  .ite h (h.modTier p _)

theorem waitSlabs (h : Steady b s₀ s) (id p : Nat) (l : List Nat) : Steady b s₀ (s.waitSlabs id p l) :=
  .ite (h.endCmd id _) (cmdWaits (modCmd (modTier (foldl (fun _ n ht => ht.queueFetch p n 1 _) h) p _) id _) id _)

theorem noteWrite (h : Steady b s₀ s) (id p x len : Nat) : Steady b s₀ (s.noteWrite id p x len) := by
  unfold State.noteWrite
  split
  · exact .ite h h
  · exact h

theorem cmdWrite (h : Steady b s₀ s) (id p x : Nat) (bs : List Byte) : Steady b s₀ (s.cmdWrite id p x bs) :=
  have hw := (h.wideAt p x bs).noteWrite id p x bs.length
  .ite (hw.noteLate id _) hw

/-! ### Ledger, guard events and counts -/

theorem ledgerAbandon (h : Steady b s₀ s) (p a : Nat) : Steady b s₀ (s.ledgerAbandon p a) := (h.modLedger p _).raise_ _ 3 _

theorem ledgerPut (h : Steady b s₀ s) (p off : Nat) (bs : List Byte) : Steady b s₀ (s.ledgerPut p off bs) :=
  .ite (h.ledgerAbandon p _) (h.wideAt p _ bs)

theorem ledgerWrite (h : Steady b s₀ s) (p off : Nat) (bs : List Byte) : Steady b s₀ (s.ledgerWrite p off bs) :=
  .ite (h.ledgerAbandon p _) (.ite (h.ledgerPut p off bs) (modLedger (foldl (fun _ n ht => ht.queueFetch p n 1 none) h) p _))

theorem ledgerWrap (h : Steady b s₀ s) (p off len : Nat) : Steady b s₀ (s.ledgerWrap p off len) := .ite (h.raise_ _ 2 _) h

theorem ledgerAppend (h : Steady b s₀ s) (p : Nat) (ws : List Nat) : Steady b s₀ (s.ledgerAppend p ws) := by
  unfold State.ledgerAppend
  dsimp only
  split
  · exact h
  · exact ((h.modLedger p _).ledgerWrap p _ 32).ledgerWrite p _ _

theorem ledgerTrace (h : Steady b s₀ s) (c : Cmd) (st : Nat) : Steady b s₀ (s.ledgerTrace c st) := .ite (h.ledgerAppend _ _) h
theorem ledgerColl (h : Steady b s₀ s) (c : Cmd) (k : Nat) : Steady b s₀ (s.ledgerColl c k) := (h.ledgerAppend _ _).modLedger _ _

theorem guardEvent (h : Steady b s₀ s) (p slot bit : Nat) : Steady b s₀ (s.guardEvent p slot bit) :=
  ((h.bump _ _ _ _).setRegFld _ _ _ _).raise_ _ bit _

theorem guardEventIf (h : Steady b s₀ s) (p slot bit : Nat) {c : Prop} [Decidable c] :
    Steady b s₀ (if c then s.guardEvent p slot bit else s) := .ite (h.guardEvent p slot bit) h

theorem endEvents (h : Steady b s₀ s) (c : Cmd) : Steady b s₀ (s.endEvents c) :=
  have hg := foldl (l := c.guards) (fun _ e ht => (ht.guardEventIf c.part e.1 0).guardEventIf c.part e.1 1) h
  .ite hg (hg.raise_ _ 1 _)

theorem countColl (h : Steady b s₀ s) (c : Cmd) (st : Nat) : Steady b s₀ (s.countColl c st) :=
  .ite (.foldl (fun _ _ ht => .ite (ht.bump _ _ _ _) (ht.bump _ _ _ _)) h) h

theorem countRing (h : Steady b s₀ s) (k st : Nat) : Steady b s₀ (s.countRing k st) :=
  .ite (h.bumpWrap _ _ _ _) ((h.bumpWrap _ _ _ _).bump _ _ _ _)

theorem atBoundary (h : Steady b s₀ s) (c : Cmd) : Steady b s₀ (s.atBoundary c) := .foldl (fun _ x ht => ht.modCore x _) h

/-! ### Collectives -/

theorem pumpPort (h : Steady b s₀ s) (q n : Nat) : Steady b s₀ (s.pumpPort q n) := by
  induction n generalizing s with
  | zero => exact h
  | succ n ih =>
    unfold State.pumpPort
    dsimp only
    split
    · exact h
    · exact .ite h (ih ((h.modPort q _).emit _))

theorem sendFlits (h : Steady b s₀ s) (q : Nat) (fs : List FlitOut) : Steady b s₀ (s.sendFlits q fs) :=
  (h.modPort q _).pumpPort q _

theorem sendMsg (h : Steady b s₀ s) (id c : Nat) (next : Bool) (t : ChunkTag) (val : List Byte) (data : Option (List Byte)) :
    Steady b s₀ (s.sendMsg id c next t val data) := by
  unfold State.sendMsg
  split
  · exact h
  · exact .ite h ((h.modColl id _).sendFlits _ _)

theorem sendTo (h : Steady b s₀ s) (id c dest : Nat) (t : ChunkTag) (val : List Byte) (data : Option (List Byte)) :
    Steady b s₀ (s.sendTo id c dest t val data) := h.sendMsg id c _ t val data

theorem failColl (h : Steady b s₀ s) (id st : Nat) : Steady b s₀ (s.failColl id st) := by
  unfold State.failColl
  split
  · exact .ite h (.foldl (fun _ _ ht => ht.emit _) (h.endCmd id st))
  · exact h

theorem clearRead (h : Steady b s₀ s) (cm : Cmd) (d : CollD) (addr len : Nat) : Steady b s₀ (s.clearRead cm d addr len) :=
  .ite (.foldl (fun _ _ ht => (ht.freshen _).dirtyAt _ _) (h.modColl _ _)) h

theorem sendGather (h : Steady b s₀ s) (cm : Cmd) (c : Nat) (t : ChunkTag) (bs : List Byte) : Steady b s₀ (s.sendGather cm c t bs) :=
  .foldl (fun _ w ht => ht.sendMsg cm.id c w t [] _) h

theorem finishSum (h : Steady b s₀ s) (cm : Cmd) (c : Nat) (t : ChunkTag) (sum : List Nat) :
    Steady b s₀ (s.finishSum cm c t sum) :=
  have hw := ((h.addFlags cm.id _).cmdWrite cm.id cm.part _ _).collStep cm.id
  .ite (hw.sendGather cm c _ _) hw

theorem sumWork (h : Steady b s₀ s) (cm : Cmd) (w : CollWork) : Steady b s₀ (s.sumWork cm w) := by
  have hread (t : State) (ht : Steady b s₀ t) (x : Nat × Nat) :
      Steady b s₀ ((t.countRead cm.part (addrOff x.1) x.2).clearRead cm (collD cm.bits) x.1 x.2) :=
    (ht.countRead _ _ _).clearRead _ _ _ _
  unfold State.sumWork
  dsimp only
  split
  · split
    · exact h.modColl _ _
    · exact (((hread _ (h.modColl _ _) _).addFlags _ _).modColl _ _).finishSum _ _ _ _
  · split
    · exact ((hread _ h _).addFlags _ _).finishSum _ _ _ _
    · exact (((hread _ h _).addFlags _ _).sendMsg _ _ _ _ _ _).collStep _

theorem sendTable (h : Steady b s₀ s) (cm : Cmd) (c : Nat) (next : Bool) (dest : Nat) (bs : List Byte) :
    Steady b s₀ (s.sendTable cm c next dest bs) := by
  unfold State.sendTable
  split
  · exact h
  · exact .ite h ((h.modColl _ _).sendMsg _ _ _ _ _ _)

theorem shardArrived (h : Steady b s₀ s) (cm : Cmd) (c : Nat) (e : ShardEnt) : Steady b s₀ (s.shardArrived cm c e) :=
  .ite (((h.setShard _ _ _).modColl _ _).emit _) ((h.setShard _ _ _).emit _)

theorem chunkLanded (h : Steady b s₀ s) (cm : Cmd) (c : Nat) (t : ChunkTag) : Steady b s₀ (s.chunkLanded cm c t) := by
  unfold State.chunkLanded
  split
  · exact .ite (((h.modColl _ _).collStep _).sendTo _ _ _ _ _ _) ((h.modColl _ _).collStep _)
  · exact .ite ((h.modColl _ _).shardArrived _ _ _) (h.modColl _ _)
  · exact h.collStep _

theorem poisonChunk (h : Steady b s₀ s) (cm : Cmd) (x : Nat × Nat) : Steady b s₀ (s.poisonChunk cm x) := by
  unfold State.poisonChunk
  extract_lets t u
  have ht : Steady b s₀ t := .foldl (fun _ _ ht => (ht.clearFresh _).setPoison _ _) h
  have hu : Steady b s₀ u := (ht.dirtyAt _ _).noteLate _ _
  exact (hu.bump _ _ _ _).raise_ _ 1 _

theorem startWith (h : Steady b s₀ s) (cm : Cmd) (w : CollWork) (read : Option (List Byte)) :
    Steady b s₀ (s.startWith cm w read) := by
  unfold State.startWith
  extract_lets d m t pos x local_ u y
  have hu : Steady b s₀ u := h.countRead _ _ _
  split
  · exact h.endCmd _ _
  next bs =>
    extract_lets raw v
    have hv : Steady b s₀ v := (foldl (fun _ n ht => ht.sendTable cm w.course n toAll bs) hu).sendGather _ _ _ _
    clear_value raw
    split
    · split
      · exact (hv.cmdWrite _ _ _ _).collStep _
      · exact hv.endCmd _ _
    · split
      · split
        · exact (hu.cmdWrite _ _ _ _).chunkLanded _ _ _
        · exact hu.endCmd _ _
      · exact (hu.sendTable _ _ _ _ _).sendTo _ _ _ _ _ _

theorem startCopy_ (h : Steady b s₀ s) (cm : Cmd) (w : CollWork) : Steady b s₀ (s.startCopy_ cm w) := h.startWith cm w _

theorem landChunk (h : Steady b s₀ s) (cm : Cmd) (w : CollWork) (bs : List Byte) : Steady b s₀ (s.landChunk cm w bs) := by
  unfold State.landChunk
  extract_lets d t pos x
  split
  · exact (cmdWrite (.ite (h.bump _ _ _ _) h) _ _ _ _).chunkLanded _ _ _
  · exact .ite ((h.poisonChunk _ _).chunkLanded _ _ _) ((h.modColl _ _).sendTo _ _ _ _ _ _)

theorem doWork (h : Steady b s₀ s) (cm : Cmd) (w : CollWork) : Steady b s₀ (s.doWork cm w) := by
  refine .ite (h.endCmd _ _) (.ite (h.sumWork cm w) ?_)
  split
  · exact .ite (h.endCmd _ _) (h.startCopy_ cm w)
  · exact h.landChunk cm w _

theorem checkColl (h : Steady b s₀ s) (id : Nat) : Steady b s₀ (s.checkColl id) := by
  unfold State.checkColl
  split
  · exact .ite (h.finishCmd id) h
  · exact h

theorem pumpColl (h : Steady b s₀ s) (id : Nat) : Steady b s₀ (s.pumpColl id) := by
  unfold State.pumpColl
  split
  · exact h
  next cm _ =>
    refine .ite h ?_
    extract_lets r t
    have hr : Steady b s₀ r.1 := .foldl_fst (fun a w ha => by
      split
      · exact ha
      · split
        · exact ha
        · split
          · exact ha.doWork _ w
          · exact ha) (h.modColl id _)
    have ht : Steady b s₀ t := hr.modColl id _
    split
    · refine checkColl ?_ id
      split
      · exact .ite ((ht.unpin id).cmdWaits id _) (ht.unpin id)
      · exact ht.unpin id
    · exact ht.waitSlabs id _ _

theorem ctlArrived (h : Steady b s₀ s) (cm : Cmd) (q : Nat) (bs : List Byte) : Steady b s₀ (s.ctlArrived cm q bs) := by
  unfold State.ctlArrived
  extract_lets c next t pos val on u
  have hu : Steady b s₀ u := .ite (h.modColl _ _) h
  refine .ite h (.ite (.ite h (h.failColl _ _)) (.ite (h.modColl _ _) (.ite (.ite (hu.sendMsg _ _ _ _ _ _) hu)
    (.ite (h.sendMsg _ _ _ _ _ _) (.ite (.ite h (h.failColl _ _)) (.ite (((h.modColl _ _).collStep _).checkColl _)
      (.ite ((h.modColl _ _).pumpColl _) h)))))))

theorem chunkArrived (h : Steady b s₀ s) (cm : Cmd) (q : Nat) (t : ChunkTag) (bs : List Byte) :
    Steady b s₀ (s.chunkArrived cm q t bs) :=
  .ite (h.sendMsg _ _ _ _ _ _) ((modColl (.ite (h.sendMsg _ _ _ _ _ _) h) _ _).pumpColl _)

theorem collFlit (h : Steady b s₀ s) (q : Nat) (o : FlitOut) : Steady b s₀ (s.collFlit q o) := by
  unfold State.collFlit
  extract_lets c hold
  have hhold : Steady b s₀ hold := h.modCourse c _
  split
  · exact .ite hhold h
  next cm _ =>
    refine .ite (.ite (h.ctlArrived cm q _) hhold) (.ite (h.ctlArrived cm q _) ?_)
    split
    · exact h
    · exact .ite ((h.modColl _ _).chunkArrived _ _ _ _) (h.modColl _ _)

theorem numberOn (h : Steady b s₀ s) (id c : Nat) : Steady b s₀ (s.numberOn id c) := by
  unfold State.numberOn
  extract_lets n t
  have ht : Steady b s₀ t := (h.modCourse c _).modColl id _
  refine .ite (ht.endCmd id _) ?_
  split
  · exact ht
  · exact .foldl (fun _ e hu => hu.ctlArrived _ e.1 _) ht

theorem numberColl (h : Steady b s₀ s) (cm : Cmd) : Steady b s₀ (s.numberColl cm) :=
  .foldl (fun t c ht => by
    split
    · exact ht
    · exact .ite ht (.ite (ht.numberOn _ c) (ht.endCmd _ _))) h

theorem noteStart (h : Steady b s₀ s) (cm : Cmd) : Steady b s₀ (s.noteStart cm) :=
  .foldl (fun _ _ ht => ht.ledgerColl cm _) (.foldl (fun _ _ ht => (ht.bumpWrap _ _ _ _).setRegFld _ _ _ _) h)

theorem sendGreetings (h : Steady b s₀ s) (cm : Cmd) : Steady b s₀ (s.sendGreetings cm) :=
  have ht := foldl (l := cm.coll.seqs) (fun _ _ ht => (ht.sendMsg _ _ true _ _ none).sendMsg _ _ false _ _ none) h
  .ite (.foldl (fun _ _ ht => .foldl (fun _ _ hu => .ite hu (hu.sendTo _ _ _ _ _ _)) ht) ht) ht

theorem markOut (h : Steady b s₀ s) (cm : Cmd) : Steady b s₀ (s.markOut cm) :=
  .ite (.foldl (fun _ _ ht => .ite (ht.setShard _ _ _) ht) h) h

theorem startColl (h : Steady b s₀ s) (id : Nat) : Steady b s₀ (s.startColl id) := by
  unfold State.startColl
  split
  · exact h
  next cm _ =>
    split
    · exact h.endCmd id _
    · extract_lets t u
      have hu : Steady b s₀ u := ((((h.modColl id _).noteStart cm).sendGreetings cm).markOut cm).pumpColl id
      exact .foldl (fun _ e hv => .foldl (fun _ f hw => hw.collFlit f.1 f.2) (hv.modCourse _ _)) hu

theorem tryColls (h : Steady b s₀ s) (p : Nat) : Steady b s₀ (s.tryColls p) :=
  .foldl (fun u id hu => by
    split
    · exact .ite (hu.startColl id) hu
    · exact hu) (.foldl (fun _ cm ht => ht.numberColl cm) h)

/-! ### Completion -/

theorem complete (h : Steady b s₀ s) (c : Cmd) (st : Nat) : Steady b s₀ (s.complete c st) := by
  unfold State.complete
  extract_lets st' x gone w r t u v m
  have hr : Steady b s₀ r.1 := .ite_fst (h.makePost c) h
  have ht : Steady b s₀ t := .ite (hr.narrowAt _ _ _) hr
  have hu : Steady b s₀ u := (((ht.endEvents c).ledgerTrace c _).countRing _ _).countColl c _
  have hv : Steady b s₀ v := ((hu.cmdProgress c).atBoundary c).leave c
  have hm : Steady b s₀ m := .ite (hv.sendMsix _) hv
  exact .ite (.ite_fst (h.wantClusters _) h) (.ite (.foldl (fun _ n ht => ht.queueFetch _ n 1 none) h)
    ((hm.lintelArrivals _).tryColls _))

theorem completeAll (h : Steady b s₀ s) (p : Nat) : Steady b s₀ (s.completeAll p) :=
  .foldl (fun t c ht => by
    split
    · split
      · exact ht.complete _ _
      · exact ht
    · exact ht) h

/-! ### A partition stops, and its tenant switch -/

theorem abortPart (h : Steady b s₀ s) (p : Nat) : Steady b s₀ (s.abortPart p) := h.endCmds _ _

theorem departPorts (h : Steady b s₀ s) (l : List Nat) : Steady b s₀ (s.departPorts l) := .foldl (fun _ _ ht => ht.emit _) h

theorem dropPersists (h : Steady b s₀ s) (p : Persist → Bool) : Steady b s₀ (s.dropPersists p) := by
  unfold State.dropPersists
  extract_lets gone ids t
  have ht : Steady b s₀ t := endCmds (foldl (fun _ c ht => ht.stirCluster c) h) _ _
  exact ht

theorem stopSteer (h : Steady b s₀ s) (p st : Nat) : Steady b s₀ (s.stopSteer p st) := by
  unfold State.stopSteer
  extract_lets t
  have ht : Steady b s₀ t := h.modSec p _
  exact ht

theorem fenceWin (h : Steady b s₀ s) (w : Nat) (read : Option Nat) : Steady b s₀ (s.fenceWin w read) := by
  unfold State.fenceWin
  extract_lets t
  have ht : Steady b s₀ t := ((h.bump _ _ _ _).setRegFld _ _ _ _).raise_ 0 1 _
  split <;> exact ht

theorem fenceWins (h : Steady b s₀ s) (p : Nat) : Steady b s₀ (s.fenceWins p) :=
  .foldl (fun _ a hu => hu.fenceWin a.win _) h

theorem haltPart (h : Steady b s₀ s) (p : Nat) : Steady b s₀ (s.haltPart p) :=
  ((((h.abortPart p).dropPersists _).stopSteer p 0).modSec p _).fenceWins p

theorem stopPart (h : Steady b s₀ s) (p : Nat) : Steady b s₀ (s.stopPart p).1 := (h.departPorts _).haltPart p

theorem wakeAll (h : Steady b s₀ s) (p : Nat) : Steady b s₀ (s.wakeAll p) :=
  .foldl (fun _ n ht => ht.modDie n _) (.foldl (fun _ n ht => ht.modStack n _)
    (.foldl (fun _ c ht => .ite ht (.foldl (fun _ _ hu => .ite hu (hu.modCoreDom _ _)) (ht.modCluster c _))) h))

theorem startSkim (h : Steady b s₀ s) (p : Nat) (x : Binding) : Steady b s₀ (s.startSkim p x) :=
  (((h.stopPart p).completeAll p).wakeAll p).modSec p _

theorem measured (h : Steady b s₀ s) (p : Nat) : Steady b s₀ (s.measured p) := .ite ((h.modSec p _).raise_ _ 1 _) (h.modSec p _)

theorem applyBinding (h : Steady b s₀ s) (p : Nat) (x : Binding) : Steady b s₀ (s.applyBinding p x) := by
  unfold State.applyBinding
  extract_lets t u
  have ht : Steady b s₀ t := h.modSec p _ (fun x => by split <;> rfl)
  have hu : Steady b s₀ u := (ht.measured p).raise_ _ 0 _
  split
  · exact hu.startSkim p _
  · exact hu

theorem finishSkim (h : Steady b s₀ s) (p : Nat) (x : Binding) : Steady b s₀ (s.finishSkim p x) := by
  unfold State.finishSkim
  split
  · extract_lets t
    have ht : Steady b s₀ t := h.modSec p _
    exact (ht.setFlash _).raise_ _ 0 _
  · exact h.applyBinding p x

theorem resumeSwitch (h : Steady b s₀ s) (p : Nat) : Steady b s₀ (s.resumeSwitch p) := by
  unfold State.resumeSwitch
  split
  · exact (h.modSec p _).finishSkim p _
  · split
    · exact h.startSkim p _
    · exact h

/-! ### Channels and window accesses -/

theorem countFault (h : Steady b s₀ s) (g : Nat) : Steady b s₀ (s.countFault g) := h.bump g _ _ _
theorem countUpset (h : Steady b s₀ s) (g : Nat) : Steady b s₀ (s.countUpset g) := h.bump g _ _ _

theorem denyUnit (h : Steady b s₀ s) (ch id : Nat) : Steady b s₀ (s.denyUnit ch id) := by
  unfold State.denyUnit
  extract_lets t u d3 det v
  have hv : Steady b s₀ v := ((((h.modChan ch _).stirGroup ch).noteLate id _).modCmd id _).raise_ _ 0 _
  split
  · exact .ite (hv.finishCmd id) hv
  · exact hv

theorem startMove (h : Steady b s₀ s) (ch : Nat) : Steady b s₀ (s.startMove ch) := by
  unfold State.startMove
  extract_lets p work t u
  have hu : Steady b s₀ u := .foldl (fun _ i ht => ht.denyUnit ch i) ((h.modChan ch _).modTier p _)
  exact ((hu.raise_ _ 3 _).countFault _).noteHealth s _

theorem retireChan (h : Steady b s₀ s) (ch : Nat) : Steady b s₀ (s.retireChan ch) :=
  .ite h (.ite (h.setFlash _) ((h.setFlash _).startMove ch))

theorem startCopy (h : Steady b s₀ s) (ch bank row : Nat) : Steady b s₀ (s.startCopy ch bank row) :=
  .ite h (.ite (h.retireChan ch) (.ite ((h.modChan ch _).raise_ _ 5 _) (h.modChan ch _)))

theorem countRow (h : Steady b s₀ s) (ch bank row : Nat) : Steady b s₀ (s.countRow ch bank row) :=
  .ite (((h.modChan ch _).startCopy ch bank row).countFault _) (h.modChan ch _)

theorem laneFault (h : Steady b s₀ s) (ch sym : Nat) : Steady b s₀ (s.laneFault ch sym) :=
  .ite (h.retireChan ch) ((((h.modChan ch _).countFault _).raise_ _ 2 _).noteHealth s _)

theorem corrected (h : Steady b s₀ s) (ch co sym : Nat) : Steady b s₀ (s.corrected ch co sym) :=
  have ht := (h.modChan ch _).countUpset (chanPage ch)
  .ite ht (countRow (.ite ((ht.modChan ch _).laneFault ch sym) (ht.modChan ch _)) ch _ _)

theorem uncorrectable (h : Steady b s₀ s) (ch co : Nat) : Steady b s₀ (s.uncorrectable ch co) :=
  ((((h.modChan ch _).modChan ch _).setPoison _ true).countFault _).raise_ _ 0 _

theorem checkAccess (h : Steady b s₀ s) (ch co : Nat) (e : Ecc) : Steady b s₀ (s.checkAccess ch co e) := by
  cases e with
  | clean => exact h
  | corrected sym => exact .ite (h.uncorrectable ch co) (h.corrected ch co sym)
  | uncorrectable => exact h.uncorrectable ch co

theorem checkReads (h : Steady b s₀ s) (ch n co : Nat) (eccs : List Ecc) : Steady b s₀ (s.checkReads ch n co eccs) := by
  induction n generalizing s co eccs with
  | zero => exact h
  | succ n ih => exact ih (.ite h (h.checkAccess ch co _)) _ _

theorem readKey (h : Steady b s₀ s) (k len : Nat) (eccs : List Ecc) : Steady b s₀ (s.readKey k len eccs).1 :=
  .ite_fst (h.countFresh k) (.ite h (h.checkReads _ _ _ eccs))

theorem winReadKey (h : Steady b s₀ s) (a : WinAcc) (k : Nat) (eccs : List Ecc) : Steady b s₀ (s.winReadKey a k eccs) :=
  emit (.ite ((h.readKey k a.len eccs).raise_ _ 0 _) (h.readKey k a.len eccs)) _

theorem winWriteKey (h : Steady b s₀ s) (a : WinAcc) (k : Nat) (bs : List Byte) : Steady b s₀ (s.winWriteKey a k bs) :=
  .ite ((h.wideAt _ _ bs).raise_ _ 0 _) (h.wideAt _ _ bs)

theorem pace (h : Steady b s₀ s) (k n : Nat) : Steady b s₀ (s.pace k n) := .ite h (h.modChan _ _)

theorem serveWin (h : Steady b s₀ s) (a : WinAcc) (eccs : List Ecc) : Steady b s₀ (s.serveWin a eccs).1 := by
  refine .ite_fst h (.ite_fst (.ite_fst h (.ite_fst h h)) ?_)
  split
  · exact .foldl (fun _ n ht => ht.queueFetch _ n 1 none) h
  · refine .ite_fst ?_ h
    split
    · exact ((h.pace _ _).useAt _ _).winReadKey a _ eccs
    · exact ((h.pace _ _).useAt _ _).winWriteKey a _ _

theorem flushWins (h : Steady b s₀ s) : Steady b s₀ s.flushWins :=
  .foldl (fun _ a ht => .ite (ht.serveWin a []) (ht.serveWin a [])) h

/-! ### Faults of links and of partitions -/

theorem setStartup (h : Steady false s₀ s) (x : Startup) : Steady false s₀ { s with startup := x } := { h with startup := nofun }

theorem faultPart (h : Steady false s₀ s) (p : Nat) : Steady false s₀ (s.faultPart p) :=
  .ite h (((((h.abortPart p).departPorts _).setStartup _).raise_ _ 1 _).resetEntry p 6 _ _)

theorem tripStack (h : Steady false s₀ s) (n : Nat) : Steady false s₀ (s.tripStack n) := by
  unfold State.tripStack
  extract_lets t u
  have ht : Steady false s₀ t := { h with offline := nofun }
  have hu : Steady false s₀ u := .foldl (fun _ _ ht => ht.modChan _ _) ht
  exact (hu.faultPart _).noteHealth s _

theorem dropCourse (h : Steady b s₀ s) (c st : Nat) : Steady b s₀ (s.dropCourse c st) :=
  (raise_ (foldl (fun _ k ht => ht.endCmd k.id _) (h.modCourse c _)) _ 2 _).tryColls _

theorem loseEngine (h : Steady b s₀ s) (n : Nat) : Steady b s₀ (s.loseEngine n) := by
  unfold State.loseEngine
  extract_lets ports t
  have ht : Steady b s₀ t := noteHealth (foldl (fun _ q ht => ht.modPort q _) (h.departPorts ports)) _ _
  exact .foldl (fun _ c hu => .ite (hu.dropCourse c 4) hu) ht

theorem freeFrameOf (h : Steady b s₀ s) (p n : Nat) : Steady b s₀ (s.freeFrameOf p n) := by
  unfold State.freeFrameOf
  split
  · exact (h.freshen _).modTier p _
  · exact h

theorem bridgeDown (h : Steady b s₀ s) (n : Nat) : Steady b s₀ (s.bridgeDown n) := by
  refine .foldl (fun t p ht => ?_) h
  extract_lets ids u part_ v
  have hv : Steady b s₀ v := .foldl (fun _ n hw => hw.freeFrameOf p n) (ht.endCmds ids _)
  split
  · exact .ite (hv.ledgerAbandon p _) hv
  · exact hv

theorem failPersist (h : Steady b s₀ s) (k st : Nat) : Steady b s₀ (s.failPersist k st) := h.endCmds _ st

theorem raiseFence (h : Steady b s₀ s) (l : List Nat) (d : Det) : Steady b s₀ (s.raiseFence l d) :=
  .foldl (fun _ p ht => ht.raiseOpen p d) h

theorem endOpenReqs (h : Steady b s₀ s) (hit : OpenReq → Bool) : Steady b s₀ (s.endOpenReqs hit) := by
  unfold State.endOpenReqs
  refine .foldl (fun u r hu => ?_) h
  split
  · exact .ite (hu.failPersist _ _) (hu.endCmd _ _)
  · split
    · exact hu.fenceWin _ _
    · exact hu

theorem fenceSite (h : Steady b s₀ s) (power : Bool) : Steady b s₀ (s.fenceSite power) := by
  have hs (x : OpenSite) : Steady b s₀ { s with site := x } := h
  exact .ite h (((hs _).endOpenReqs _).raiseFence _ _).flushWins

theorem fenceModule (h : Steady b s₀ s) (m : Nat) : Steady b s₀ (s.fenceModule m) := by
  have hs (x : OpenSite) : Steady b s₀ { s with site := x } := h
  exact .ite (h.fenceSite false) (.ite h (((hs _).endOpenReqs _).raiseFence _ _).flushWins)

end Steady

end Sys2Proof.Machine

/-! ## Supply and the phases of start-up (O60) -/

namespace Sys2Proof.Machine

-- One proof after another: in the joined text the proofs here would all wait at once for the kernel, each with a thread and its stack.
set_option Elab.async false

/-! ### A cold reset -/

/-- A map over the first numbers reads as its function there. -/
theorem SMap.get_mapOf {α : Type} [DecidableEq α] (d : α) (f : Nat → α) {n i : Nat} (hi : i < n) :
    SMap.get d (mapOf d n f) i = f i := by
  induction n with
  | zero => omega
  | succ n ih =>
    have hstep : mapOf d (n + 1) f = SMap.set d (mapOf d n f) n (f n) := by
      simp only [mapOf, List.range_succ, List.foldl_append, List.foldl_cons, List.foldl_nil]
    rw [hstep, SMap.get_set]
    split
    next e => rw [e]
    next e => exact ih (by omega)

/-- `t` holds what flash and fuses of `s` hold, the module's ID, and nothing else (R14, R433, Table SUP-4). -/
def ColdOf (s t : State) : Prop :=
  t.flash = s.flash ∧ t.settings = { moduleId := s.settings.moduleId } ∧ t.now = 0 ∧
    t.cmds = [] ∧ t.log = [] ∧ t.startup.part = [1, 1, 1, 1] ∧ (∀ k, isFresh t k = true ∧ t.byte k = 0) ∧
    (∀ c < 384, coreRetired t c = s.flash.retiredCores.contains c) ∧
    (∀ c < 48, clusterRetired t c = s.flash.retiredClusters.contains c) ∧
    (∀ c < 256, ((chan t c).st = 3 ↔ c ∈ s.flash.retiredChans)) ∧ (∀ l < 30, ((link t l).st = 2 ↔ l ∈ s.flash.faultedLinks))

theorem State.coreRetired_cold (s : State) {c : Nat} (hc : c < 384) : coreRetired s.cold c = s.flash.retiredCores.contains c := by
  simp only [coreRetired, State.cold, SMap.get_mapOf _ _ hc]

theorem State.clusterRetired_cold (s : State) {c : Nat} (hc : c < 48) :
    clusterRetired s.cold c = s.flash.retiredClusters.contains c := by
  simp only [clusterRetired, State.cold, SMap.get_mapOf _ _ hc]

theorem State.chan_cold (s : State) {c : Nat} (hc : c < 256) : chan s.cold c = flashChan s.flash c := by
  simp only [chan, State.cold, SMap.get_mapOf _ _ hc]

theorem State.link_cold (s : State) {l : Nat} (hl : l < 30) :
    link s.cold l = { st := if s.flash.faultedLinks.contains l then 2 else 0 } := by
  simp only [link, State.cold, SMap.get_mapOf _ _ hl]

theorem State.coldOf_cold (s : State) : ColdOf s s.cold := by
  refine ⟨rfl, rfl, rfl, rfl, rfl, rfl, fun _ => ⟨rfl, rfl⟩, fun c hc => s.coreRetired_cold hc,
    fun c hc => s.clusterRetired_cold hc, fun c hc => ?_, fun l hl => ?_⟩
  · simp [s.chan_cold hc, flashChan]
  · simp [s.link_cold hl]

/-- What a cold reset finds depends neither on the outputs before it nor on the supply after it. -/
theorem ColdOf.of_cold {s t : State} {x : Startup} {out : List Out} (h : ColdOf s t) (hx : x.part = t.startup.part) :
    ColdOf s { t with startup := x, out := out } := by
  obtain ⟨hf, hs, hn, hc, hl, hp, rest⟩ := h
  exact ⟨hf, hs, hn, hc, hl, hx.trans hp, rest⟩

/-- Departed notices are all that a departure sends. -/
theorem State.departPorts_eq (s : State) (l : List Nat) :
    s.departPorts l = { s with out := s.out ++ (l.filter (fun q => (port s q).st == 1)).map Out.departed } := by
  have h (m : List Nat) (t : State) : m.foldl (fun t q => t.emit (.departed q)) t = { t with out := t.out ++ m.map Out.departed } := by
    induction m generalizing t with
    | nil => simp
    | cons q m ih => rw [List.foldl_cons, ih]; simp [State.emit]
  exact h _ s

/-- The input in range (R457). -/
theorem exec_powerInputInRange {s : State} (h : s.startup.powered = false) :
    ∃ t, exec .powerInputInRange s = .next t ∧ ColdOf s t ∧ t.startup.phase = 1 ∧ t.startup.powered = true ∧ t.out = s.out :=
  ⟨s.cold, if_neg (by simp [h]), s.coldOf_cold, rfl, rfl, rfl⟩

/-- The input out of range (R458). -/
theorem exec_powerInputOutOfRange {s : State} (over60V : Bool) (h : s.startup.powered = true) :
    ∃ t, exec (.powerInputOutOfRange over60V) s = .next t ∧ ColdOf s t ∧ t.startup.phase = 0 ∧ t.startup.powered = false ∧
      t.out = s.out ++ (if s.startup.phase = 7 ∧ over60V = false then
        ((List.range 16).filter (fun q => (port s q).st == 1)).map Out.departed else []) := by
  have hcold (a : State) (ha : { a with out := s.out } = s) : ColdOf s { a.cold with
      startup := { a.cold.startup with powered := false, phase := 0 } } := by
    have := s.coldOf_cold.of_cold (x := { a.cold.startup with powered := false, phase := 0 }) (out := a.out) rfl
    rw [← ha] at this ⊢
    exact this
  refine ⟨_, if_pos h, hcold _ ?_, rfl, rfl, ?_⟩
  · split
    · rw [State.departPorts_eq]
    · rfl
  · by_cases hn : s.startup.phase = 7 ∧ over60V = false
    · rw [if_pos hn, if_pos (by simpa using hn), State.departPorts_eq]
      rfl
    · rw [if_neg hn, if_neg (by simpa using hn), List.append_nil]
      rfl

/-! ### The order of the phases -/

theorem phaseIs_iff (s : State) (n : Nat) : phaseIs s n = true ↔
    s.startup.phase = n ∧ s.startup.powered = true ∧ s.startup.held = false ∧ s.startup.tripped = false := by
  simp [phaseIs, and_assoc]

/-! ### The boot ROM (R426, R428) -/

theorem imageOk_iff (f : Flash) (i : FwImage) : imageOk f i = true ↔ i.signed = true ∧ f.minSvn ≤ i.svn := by simp [imageOk]

/-- Slot A boots where its image is accepted and B's is not accepted with a higher SVN. -/
theorem bootSlot_eq_A {f : Flash} (ha : imageOk f f.slotA = true) (hb : imageOk f f.slotB = true → f.slotB.svn ≤ f.slotA.svn) :
    bootSlot f = some false := by
  by_cases hlt : f.slotA.svn < f.slotB.svn
  · have hbad : imageOk f f.slotB ≠ true := fun h => absurd (hb h) (by omega)
    simp [bootSlot, hlt, ha, hbad]
  · simp [bootSlot, hlt, ha]

/-- Slot B boots where its image is accepted and A's is not accepted with the same or a higher SVN. -/
theorem bootSlot_eq_B {f : Flash} (hb : imageOk f f.slotB = true) (ha : imageOk f f.slotA = true → f.slotA.svn < f.slotB.svn) :
    bootSlot f = some true := by
  by_cases hlt : f.slotA.svn < f.slotB.svn
  · simp [bootSlot, hlt, hb]
  · have hbad : imageOk f f.slotA ≠ true := fun h => hlt (ha h)
    simp [bootSlot, hlt, hb, hbad]

theorem bootSlot_eq_none {f : Flash} (ha : imageOk f f.slotA ≠ true) (hb : imageOk f f.slotB ≠ true) : bootSlot f = none := by
  by_cases hlt : f.slotA.svn < f.slotB.svn <;> simp [bootSlot, hlt, ha, hb]

theorem exec_bootRom_boots {s : State} (hp : phaseIs s 1 = true ∨ phaseIs s 2 = true) {b : Bool} (hb : bootSlot s.flash = some b) :
    exec .bootRomPhase s = .next { s with startup := { s.startup with
      phase := 3, slotB := b, svn := (if b then s.flash.slotB else s.flash.slotA).svn
      cdi := Config.cdi (if b then s.flash.slotB else s.flash.slotA).digest } } := by
  simp [exec, execBootRomPhase, hp, hb]

theorem exec_bootRom_holds {s : State} (hp : phaseIs s 1 = true ∨ phaseIs s 2 = true) (hb : bootSlot s.flash = none) :
    exec .bootRomPhase s = .next { s with startup := { s.startup with phase := 2, held := true } } := by
  simp [exec, execBootRomPhase, hp, hb, State.hold]

/-! ### Units that fail (R430) -/

theorem State.coreRetired_failUnit (s : State) (c : Nat) : coreRetired (s.failUnit (.core c)) c = true := by
  show coreRetired (s.retireCore c) c = true
  unfold State.retireCore
  split
  next h => exact h
  next =>
    refine ((((((Steady.refl true _).setFlash _).faultEntry _ 2 _ _).setIrq _ 2).noteHealth s _).coreRetired c).trans ?_
    simp [coreRetired, State.modCoreDom]

theorem State.clusterRetired_failUnit (s : State) (c : Nat) : clusterRetired (s.failUnit (.cluster c)) c = true := by
  show clusterRetired (s.retireCluster c) c = true
  unfold State.retireCluster
  split
  next h => exact h
  next =>
    extract_lets cores t u
    have hu : Steady true t u := (Steady.refl true t).dropPersists _
    clear_value u
    refine (((((hu.setFlash _).faultEntry _ 3 _ _).setIrq _ 2).noteHealth s _).clusterRetired c).trans ?_
    simp [t, clusterRetired, State.modCluster]

theorem State.faulted_failUnit (s : State) (n : Nat) : (die (s.failUnit (.die n)) n).faulted = true := by
  show (die (s.faultDie n) n).faulted = true
  unfold State.faultDie
  split
  next h => exact h
  next =>
    have hv (l : List Nat) (page : Nat) (d : Det) := ((Steady.refl false
      (s.modDie n (fun d => { d with faulted := true }))).faultEntry (ownerOf s page).num 4 page d).noteHealth s l
    refine ((Steady.ite ((hv _ _ _).faultPart _) (.ite ((hv _ _ _).faultPart _) ((hv _ _ _).setStartup _))).faulted n).trans ?_
    simp [die, State.modDie]

theorem Steady.link_eq {b : Bool} {s t : State} (h : Steady b s t) (l : Nat) : link t l = link s l := by
  rw [link, h.links, link]

theorem State.link_failUnit {s : State} {l : Nat} (h3 : (link s l).st ≠ 3) : (link (s.failUnit (.link l)) l).st = 2 := by
  show (link (s.faultLink l) l).st = 2
  unfold State.faultLink
  split
  next h => simpa [h3] using h
  next =>
    extract_lets t
    have hv (x : List Nat) (d : Det) := (((Steady.refl false t).setFlash { t.flash with faultedLinks := x }).raise_ 1 0 d).noteHealth
      s (linkHealthPages l)
    refine (congrArg Link.st (Steady.link_eq (b := false) (s := t) ?_ l)).trans ?_
    · refine .ite (.ite ((hv _ _).faultPart _) (hv _ _)) (.ite ((hv _ _).tripStack _)
        (.ite ((hv _ _).loseEngine _) (.ite ((hv _ _).faultPart _)
          (.ite ((hv _ _).bridgeDown _) ((hv _ _).fenceModule _)))))
    · simp [t, link, State.modLink]

/-! ### What events leave -/

theorem OnlyEvents.chans {s t : State} (h : OnlyEvents s t) : t.chans = s.chans := by
  have e := congrArg State.chans h; exact e
theorem OnlyEvents.flash {s t : State} (h : OnlyEvents s t) : t.flash = s.flash := by
  have e := congrArg State.flash h; exact e
theorem OnlyEvents.startup {s t : State} (h : OnlyEvents s t) : t.startup = s.startup := by
  have e := congrArg State.startup h; exact e
theorem OnlyEvents.links {s t : State} (h : OnlyEvents s t) : t.links = s.links := by
  have e := congrArg State.links h; exact e
theorem OnlyEvents.site {s t : State} (h : OnlyEvents s t) : t.site = s.site := by
  have e := congrArg State.site h; exact e
theorem OnlyEvents.mem {s t : State} (h : OnlyEvents s t) : t.mem = s.mem := by
  have e := congrArg State.mem h; exact e
theorem OnlyEvents.cmds {s t : State} (h : OnlyEvents s t) : t.cmds = s.cmds := by
  have e := congrArg State.cmds h; exact e
theorem OnlyEvents.written {s t : State} (h : OnlyEvents s t) : t.written = s.written := by
  have e := congrArg State.written h; exact e

/-- An entry of the snag log. -/
theorem State.log_onlyEvents (s : State) (e : Snag) : OnlyEvents s (s.log_ e) :=
  (s.logOne_onlyEvents e).trans (.foldl (fun t _ => t.logOne_onlyEvents _) _ _)

/-- A change of HEALTH raises events and touches nothing else (R447). -/
theorem State.noteHealth_onlyEvents (s t : State) (pages : List Nat) : OnlyEvents t (s.noteHealth t pages) :=
  .foldl (fun u g => by
    split
    · exact rfl
    · exact u.raise_onlyEvents g 0 _) pages t

/-- `s` with other channels, and other lists of retired channels and used lanes in flash. -/
def State.withChans (s : State) (m : SMap Chan) (retired : List Nat) (lanes : SMap Nat) : State :=
  { s with chans := m, flash := { s.flash with retiredChans := retired, lanesUsed := lanes } }

/-- From `s` to `t` the channels have become `m`, as flash notes and events tell. -/
def Trained (s : State) (m : SMap Chan) (t : State) : Prop := ∃ r u, OnlyEvents (s.withChans m r u) t

theorem Trained.trans {s t u : State} {m n : SMap Chan} (h : Trained s m t) (k : Trained t n u) : Trained s n u := by
  obtain ⟨r, l, h⟩ := h
  obtain ⟨r', l', k⟩ := k
  have hw : OnlyEvents (s.withChans n r' l') (t.withChans n r' l') := congrArg (fun x : State => x.withChans n r' l') h
  exact ⟨r', l', hw.trans k⟩

theorem OnlyEvents.raise_ {s t : State} (h : OnlyEvents s t) (g n : Nat) (d : Det) : OnlyEvents s (t.raise_ g n d) :=
  h.trans (t.raise_onlyEvents g n d)

theorem State.setReg_onlyEvents (s : State) (g r v : Nat) : OnlyEvents s (s.setReg g r v) := rfl
theorem State.bump_onlyEvents (s : State) (g r hi lo n : Nat) : OnlyEvents s (s.bump g r hi lo n) := s.setReg_onlyEvents _ _ _
theorem State.countFault_onlyEvents (s : State) (g : Nat) : OnlyEvents s (s.countFault g) := s.bump_onlyEvents _ _ _ _ _

theorem OnlyEvents.countFault {s t : State} (h : OnlyEvents s t) (g : Nat) : OnlyEvents s (t.countFault g) :=
  h.trans (t.countFault_onlyEvents g)

theorem OnlyEvents.noteHealth {s t : State} (h : OnlyEvents s t) (was : State) (pages : List Nat) :
    OnlyEvents s (was.noteHealth t pages) := h.trans (was.noteHealth_onlyEvents t pages)

theorem Trained.chan {s t : State} {m : SMap Chan} (h : Trained s m t) (c : Nat) : chan t c = SMap.get {} m c := by
  obtain ⟨r, u, h⟩ := h
  exact congrArg (fun m => SMap.get {} m c) h.chans

/-- A channel as it is retired at a reset: no granule is left to move (R183, R184). -/
def Chan.retired (c : Chan) : Chan := { c with st := 3, moved := chanGrans }

/-- A channel that fails at a reset is retired, unless it was so already. -/
theorem State.retireAtReset_cases (s : State) (ch : Nat) :
    (s.retireAtReset ch = s ∧ (chan s ch).st = 3) ∨ Trained s (SMap.modify {} s.chans ch Chan.retired) (s.retireAtReset ch) := by
  unfold State.retireAtReset
  split
  next h => exact .inl ⟨rfl, by simpa using (Bool.and_eq_true_iff.1 h).2⟩
  next =>
    extract_lets t f src u
    have hu : OnlyEvents (s.withChans (SMap.modify {} s.chans ch Chan.retired) f s.flash.lanesUsed) u := rfl
    exact .inr ⟨f, s.flash.lanesUsed, (((hu.raise_ _ 3 _).raise_ _ 3 _).countFault _).noteHealth s _⟩

theorem State.chan_failUnit (s : State) (c : Nat) : (chan (s.failUnit (.chanTest c)) c).st = 3 := by
  show (chan (s.retireAtReset c) c).st = 3
  rcases s.retireAtReset_cases c with ⟨h, h3⟩ | h
  · rw [h, h3]
  · rw [h.chan, SMap.get_modify_same, Chan.retired]

/-- Training ends with the channel up or retired (R181–R183). -/
theorem State.trainChan_trained {s : State} {ch : Nat} (h : (chan s ch).st ≠ 3) (more : Nat) :
    ∃ f : Chan → Chan, (∀ c, (f c).st ≠ 1) ∧ Trained s (SMap.modify {} s.chans ch f) (s.trainChan ch more) := by
  unfold State.trainChan
  extract_lets c used
  clear_value used
  rw [if_neg h]
  split
  · exact ⟨Chan.retired, fun _ => (by decide : 3 ≠ 1), (s.retireAtReset_cases ch).resolve_left (fun hc => h hc.2)⟩
  · refine ⟨fun c => { c with st := 0, lanesUsed := used, badSymbol := none, symErr := [] }, fun _ => Nat.zero_ne_one,
      s.flash.retiredChans, SMap.set 0 s.flash.lanesUsed ch used, .noteHealth ?_ s _⟩
    exact rfl


/-! ### The links phase (R181, R313, R317) -/

theorem Trained.refl (s : State) : Trained s s.chans s := ⟨s.flash.retiredChans, s.flash.lanesUsed, rfl⟩

section

variable {s t : State} {m : SMap Chan}

theorem Trained.settings (h : Trained s m t) : t.settings = s.settings := by obtain ⟨r, u, h⟩ := h; exact h.settings
theorem Trained.startup (h : Trained s m t) : t.startup = s.startup := by obtain ⟨r, u, h⟩ := h; exact h.startup
theorem Trained.links (h : Trained s m t) : t.links = s.links := by obtain ⟨r, u, h⟩ := h; exact h.links
theorem Trained.site (h : Trained s m t) : t.site = s.site := by obtain ⟨r, u, h⟩ := h; exact h.site
theorem Trained.mem (h : Trained s m t) : t.mem = s.mem := by obtain ⟨r, u, h⟩ := h; exact h.mem

theorem Trained.variantC (h : Trained s m t) : t.flash.variantC = s.flash.variantC := by
  obtain ⟨r, u, h⟩ := h; rw [h.flash]; rfl

theorem Trained.worrunVid (h : Trained s m t) : t.flash.worrunVid = s.flash.worrunVid := by
  obtain ⟨r, u, h⟩ := h; rw [h.flash]; rfl

end

/-- DEGRADED channels of the first `n` train (R181). -/
def State.trainChans (s : State) (n : Nat) : State :=
  (List.range n).foldl (fun u ch => if (chan u ch).st = 1 then u.trainChan ch 0 else u) s

/-- None of them stays DEGRADED. -/
theorem State.trainChans_trained (s : State) (n : Nat) :
    ∃ m, Trained s m (s.trainChans n) ∧ ∀ c < n, (SMap.get {} m c).st ≠ 1 := by
  induction n with
  | zero => exact ⟨_, .refl s, by simp⟩
  | succ n ih =>
    obtain ⟨m, hm, hst⟩ := ih
    have hstep : s.trainChans (n + 1) =
        if (chan (s.trainChans n) n).st = 1 then (s.trainChans n).trainChan n 0 else s.trainChans n := by
      rw [State.trainChans, List.range_succ, List.foldl_append]
      rfl
    rw [hstep]
    split
    next h1 =>
      obtain ⟨f, hf, ht⟩ := State.trainChan_trained (s := s.trainChans n) (ch := n) (by rw [h1]; decide) 0
      refine ⟨_, hm.trans ht, fun c hc => ?_⟩
      rw [SMap.get_modify]
      split
      · exact hf _
      · exact (congrArg Chan.st (hm.chan c)).trans_ne (hst c (by omega))
    next h1 =>
      refine ⟨m, hm, fun c hc => ?_⟩
      by_cases e : c = n
      · rw [e, ← hm.chan]; exact h1
      · exact hst c (by omega)

/-- Changes of consecutive links. -/
theorem State.foldl_modLink (s : State) (o : Nat) (f : Nat → Link → Link) (n : Nat) :
    ∃ m, (List.range n).foldl (fun u k => u.modLink (o + k) (f k)) s = { s with links := m } ∧
      ∀ l, SMap.get {} m l = if o ≤ l ∧ l < o + n then f (l - o) (link s l) else link s l := by
  induction n with
  | zero => exact ⟨s.links, rfl, fun l => by rw [if_neg (by omega), link]⟩
  | succ n ih =>
    obtain ⟨m, hm, hl⟩ := ih
    refine ⟨SMap.modify {} m (o + n) (f n), ?_, fun l => ?_⟩
    · rw [List.range_succ, List.foldl_append, hm]
      rfl
    · rw [SMap.get_modify, hl, hl]
      by_cases e : l = o + n
      · subst e
        simp
      · rw [if_neg e]
        congr 1
        simp only [eq_iff_iff]
        omega

/-- Links that train come up (R313). -/
theorem State.trainLinks_eq (s : State) : ∃ m, s.trainLinks = { s with links := m } ∧
    ∀ l < 26, (SMap.get {} m l : Link).st = if (link s l).st = 2 then 2 else 1 := by
  obtain ⟨m, hm, hl⟩ := s.foldl_modLink 0 (fun _ x => { x with st := if x.st = 2 then 2 else 1 }) 26
  simp only [Nat.zero_add] at hm hl
  exact ⟨m, hm, fun l h => by rw [hl, if_pos ⟨l.zero_le, h⟩]⟩

/-- A fence raises events on the open site's pages. -/
theorem State.raiseFence_onlyEvents (s : State) (l : List Nat) (d : Det) :
    ∃ q, OnlyEvents { s with site := { s.site with irqStat := q } } (s.raiseFence l d) := by
  induction l generalizing s with
  | nil => exact ⟨s.site.irqStat, rfl⟩
  | cons p l ih =>
    obtain ⟨q, hq⟩ := ih (s.raiseOpen p d)
    have hp : OnlyEvents { s with site := { s.site with irqStat := s.site.irqStat.set p true } } (s.raiseOpen p d) :=
      .trans (s.setIrqOpen_rest p).rest (State.log_onlyEvents _ _)
    have hw : OnlyEvents { s with site := { s.site with irqStat := q } }
        { s.raiseOpen p d with site := { (s.raiseOpen p d).site with irqStat := q } } := by
      rw [hp.site]
      exact congrArg (fun x : State => { x with site := { s.site with irqStat := q } }) hp
    exact ⟨q, hw.trans hq⟩

/-- Admission changes the site and the modules' links (R317). -/
theorem State.admitSite_onlyEvents (s : State) (d : OpenDie) :
    ∃ m x, OnlyEvents { s with links := m, site := x } (s.admitSite d) ∧ (∀ l < 26, SMap.get {} m l = link s l) ∧
      x.admitted = siteFits s d ∧ x.siteFenced = (!siteFits s d || s.site.powerFence) := by
  unfold State.admitSite
  extract_lets ok power used src t u
  obtain ⟨m, hm, hl⟩ := t.foldl_modLink 26 (fun m x =>
      { x with st := if x.st = 2 then 2 else if !used.contains m then 3 else if trained d m then 1 else 2,
               rate := if used.contains m && trained d m then d.rates.getD m 0 else 0 }) 4
  have hu : u = { t with links := m } := hm
  have hlow (l : Nat) (h : l < 26) : SMap.get {} m l = link s l := by
    rw [hl, if_neg (by omega)]; rfl
  rw [hu]
  split
  · exact ⟨m, t.site, rfl, hlow, rfl, rfl⟩
  · obtain ⟨q, hq⟩ := State.raiseFence_onlyEvents { t with links := m } (sitePartitions s) {}
    exact ⟨m, _, hq, hlow, rfl, rfl⟩

theorem siteFits_congr {s t : State} (hs : t.settings = s.settings) (hv : t.flash.variantC = s.flash.variantC)
    (hw : t.flash.worrunVid = s.flash.worrunVid) (d : OpenDie) : siteFits t d = siteFits s d := by
  simp only [siteFits, siteModules, hs, hv, hw]

/-- `s` when links and channels have trained and the open die has been seen, in a start-up in which no unit failed. -/
def State.linksEnd (s : State) (d : OpenDie) : State :=
  s.noteHealth ((s.trainLinks.trainChans 256).admitSite d) (hdrPages.filter (fun g => blkOf g == .link))

/-- There links have trained, no channel is DEGRADED, and the open die is admitted where it may be. -/
structure LinksReady (s : State) (d : OpenDie) (t : State) : Prop where
  startup : t.startup = s.startup
  links : ∀ l < 26, (link t l).st = if (link s l).st = 2 then 2 else 1
  chans : ∀ c < 256, (chan t c).st ≠ 1
  admitted : t.site.admitted = siteFits s d
  fenced : t.site.siteFenced = (!siteFits s d || s.site.powerFence)
  mem : t.mem = s.mem

theorem State.linksEnd_ready (s : State) (d : OpenDie) : LinksReady s d (s.linksEnd d) := by
  obtain ⟨m, ha, hlink⟩ := s.trainLinks_eq
  obtain ⟨k, hb, hchan⟩ := s.trainLinks.trainChans_trained 256
  obtain ⟨m', x, hc, hkeep, hadm, hfen⟩ := (s.trainLinks.trainChans 256).admitSite_onlyEvents d
  have ht : OnlyEvents _ (s.linksEnd d) := hc.trans (s.noteHealth_onlyEvents _ _)
  generalize s.linksEnd d = t at ht
  generalize s.trainLinks.trainChans 256 = b at hb hc hkeep hadm hfen ht
  rw [ha] at hb
  have hfits : siteFits b d = siteFits s d := siteFits_congr hb.settings hb.variantC hb.worrunVid d
  exact {
    startup := ht.startup.trans hb.startup
    links := fun l hl => by
      rw [link, ht.links]
      exact (congrArg Link.st ((hkeep l hl).trans (by rw [link, hb.links]))).trans (hlink l hl)
    chans := fun c hc => by
      rw [chan, ht.chans]
      exact (congrArg Chan.st (hb.chan c)).trans_ne (hchan c hc)
    admitted := (congrArg OpenSite.admitted ht.site).trans (hadm.trans hfits)
    fenced := (congrArg OpenSite.siteFenced ht.site).trans (by rw [hfen, hfits, hb.site])
    mem := ht.mem.trans hb.mem }

/-- The links phase in which no unit fails. -/
theorem exec_scaffoldLinks {s : State} (now : Nat) (d : OpenDie) (h4 : phaseIs s 4 = true) (hd : s.startup.dead = false) :
    exec (.scaffoldLinksPhase now [] d) s = .next { (s.at_ now).linksEnd d with
      startup := { ((s.at_ now).linksEnd d).startup with phase := 5 } } := by
  have hdead : ((s.at_ now).linksEnd d).startup.dead = false :=
    (congrArg Startup.dead ((s.at_ now).linksEnd_ready d).startup).trans hd
  have h4' : phaseIs (s.at_ now) 4 = true := h4
  unfold State.linksEnd State.trainChans at hdead ⊢
  simp only [exec, execScaffoldLinksPhase, h4', if_true, List.foldl_nil, hdead, Bool.false_eq_true, if_false]

/-! ### Pending and held settings, and new keys (R22, R24, R370, R423) -/

/-- From `s` to `t` only held settings took effect and partitions' secrets changed; `l` are the partitions whose memory key was
drawn, once for each time. -/
structure Rekeyed (l : List Nat) (s t : State) : Prop where
  startup : t.startup = s.startup
  flash : t.flash = s.flash
  cmds : t.cmds = s.cmds
  written : t.written = s.written
  settings : { t.settings with
    hostAccess := s.settings.hostAccess, winPart := s.settings.winPart, holdoffMs := s.settings.holdoffMs
    hostPend := s.settings.hostPend } = s.settings
  memGen : ∀ q, (sec t q).memGen = (· + 1)^[l.count q] (sec s q).memGen

theorem Rekeyed.refl (s : State) : Rekeyed [] s s := ⟨rfl, rfl, rfl, rfl, rfl, fun _ => rfl⟩

theorem Rekeyed.trans {l m : List Nat} {s t u : State} (h : Rekeyed l s t) (k : Rekeyed m t u) : Rekeyed (l ++ m) s u where
  startup := k.startup.trans h.startup
  flash := k.flash.trans h.flash
  cmds := k.cmds.trans h.cmds
  written := k.written.trans h.written
  settings := by
    have hs := h.settings
    rw [← k.settings] at hs
    exact hs
  memGen q := by rw [k.memGen, h.memGen, List.count_append, Nat.add_comm, Function.iterate_add_apply]

/-- A change of a held setting's value. -/
theorem Rekeyed.setHeld (s : State) (access : List Nat) (win : List (Option Nat)) (holdoff : Nat) (pend : List HostSetting) :
    Rekeyed [] s { s with settings := { s.settings with
      hostAccess := access, winPart := win, holdoffMs := holdoff, hostPend := pend } } :=
  ⟨rfl, rfl, rfl, rfl, rfl, fun _ => rfl⟩

/-- A partition's measurements change: its key slots and sessions go, as an event tells (R362). -/
theorem State.measured_onlyEvents (s : State) (p : Nat) :
    OnlyEvents (s.modSec p (fun x => { x with keys := [], spdm := { x.spdm with sessions := [] } })) (s.measured p) := by
  unfold State.measured
  dsimp only
  split
  · exact State.raise_onlyEvents _ _ 1 _
  · exact rfl

theorem Rekeyed.measured {l : List Nat} {s t : State} (h : Rekeyed l s t) (p : Nat) : Rekeyed l s (t.measured p) where
  startup := (t.measured_onlyEvents p).startup.trans h.startup
  flash := (t.measured_onlyEvents p).flash.trans h.flash
  cmds := (t.measured_onlyEvents p).cmds.trans h.cmds
  written := (t.measured_onlyEvents p).written.trans h.written
  settings := by
    rw [t.measured_settings p]
    exact h.settings
  memGen q := by
    rw [t.sec_measured p q, ← h.memGen]
    split
    next e => rw [e]
    next => rfl

theorem State.applyHost_rekeyed (s : State) (h : HostSetting) : Rekeyed [] s (s.applyHost h) := by
  cases h with
  | access p m => exact (Rekeyed.setHeld s _ s.settings.winPart s.settings.holdoffMs s.settings.hostPend).measured p
  | window w p =>
    have ht := Rekeyed.setHeld s s.settings.hostAccess (s.settings.winPart.set w (some p)) s.settings.holdoffMs s.settings.hostPend
    simp only [State.applyHost]
    split
    · exact ht
    · exact (ht.measured _).measured p
  | holdoff ms => exact .setHeld s s.settings.hostAccess s.settings.winPart ms s.settings.hostPend

theorem State.applyHeld_rekeyed (s : State) (p : Nat) : Rekeyed [] s (s.applyHeld p) := by
  have hfold (l : List HostSetting) (t : State) (ht : Rekeyed [] s t) : Rekeyed [] s (l.foldl State.applyHost t) := by
    induction l generalizing t with
    | nil => exact ht
    | cons h l ih => exact ih _ (ht.trans (t.applyHost_rekeyed h))
  exact hfold _ _ (.setHeld s s.settings.hostAccess s.settings.winPart s.settings.holdoffMs _)

theorem State.drawKeys_rekeyed (s : State) (p : Nat) : Rekeyed [p] s (s.drawKeys p) := by
  refine ⟨rfl, rfl, rfl, rfl, rfl, fun q => ?_⟩
  simp only [sec, State.drawKeys, State.modSec, SMap.get_modify, List.count_singleton, beq_iff_eq]
  split
  next e => rw [if_pos e.symm, e]; rfl
  next e => rw [if_neg (Ne.symm e)]; rfl

/-- The partitions of a list get new keys, and their held settings. -/
def State.rekey (s : State) (l : List Nat) : State := l.foldl (fun u p => (u.drawKeys p).applyHeld p) s

theorem State.rekey_rekeyed (s : State) (l : List Nat) : Rekeyed l s (s.rekey l) := by
  induction l generalizing s with
  | nil => exact .refl s
  | cons p l ih => exact ((s.drawKeys_rekeyed p).trans ((s.drawKeys p).applyHeld_rekeyed p)).trans (ih _)

/-! ### Nothing in flight and all memory fresh -/

/-- No command is in flight and no memory has been written. -/
def Idle (s : State) : Prop := s.cmds = [] ∧ s.written = []

theorem Idle.isFresh {s : State} (h : Idle s) (k : Nat) : isFresh s k = true := by
  rw [Machine.isFresh, h.2]; rfl

theorem Idle.congr {s t : State} (h : Idle s) (hc : t.cmds = s.cmds) (hw : t.written = s.written) : Idle t :=
  ⟨hc.trans h.1, hw.trans h.2⟩

theorem Idle.events {s t : State} (h : Idle s) (k : OnlyEvents s t) : Idle t := h.congr k.cmds k.written

theorem Idle.foldl {α : Type} {f : State → α → State} (hf : ∀ t x, Idle t → Idle (f t x)) {s : State} (h : Idle s)
    (l : List α) : Idle (l.foldl f s) := by
  induction l generalizing s with
  | nil => exact h
  | cons x l ih => exact ih (hf s x h)

namespace Idle

variable {s : State}

theorem modSec (h : Idle s) (p : Nat) (f : Sec → Sec) : Idle (s.modSec p f) := h

theorem endCmd (h : Idle s) (id st : Nat) : Idle (s.endCmd id st) := by
  have : s.cmd? id = none := by simp [State.cmd?, h.1]
  rw [State.endCmd, this]
  exact h

theorem departPorts (h : Idle s) (l : List Nat) : Idle (s.departPorts l) := by
  rw [State.departPorts_eq]
  exact h

theorem abortPart (h : Idle s) (p : Nat) : Idle (s.abortPart p) := h.foldl (fun _ _ ht => ht.endCmd _ _) _

theorem stirCluster (h : Idle s) (c : Nat) : Idle (s.stirCluster c) := h

theorem dropPersists (h : Idle s) (p : Persist → Bool) : Idle (s.dropPersists p) := by
  unfold State.dropPersists
  extract_lets gone ids t
  exact foldl (fun _ i ht => ht.endCmd i _) (foldl (fun _ c ht => ht.stirCluster c) h _) ids

theorem stopSteer (h : Idle s) (p st : Nat) : Idle (s.stopSteer p st) := h

theorem fenceWin (h : Idle s) (w : Nat) (read : Option Nat) : Idle (s.fenceWin w read) := by
  unfold State.fenceWin
  extract_lets t
  have ht : Idle t := h.events (((State.bump_onlyEvents _ _ _ _ _ _).trans (State.setReg_onlyEvents _ _ _ _)).trans
    (State.raise_onlyEvents _ 0 1 _))
  split <;> exact ht

theorem fenceWins (h : Idle s) (p : Nat) : Idle (s.fenceWins p) := foldl (fun _ a ht => ht.fenceWin a.win _) (by exact h) _

theorem stopPart (h : Idle s) (p : Nat) : Idle (s.stopPart p).1 :=
  (((((h.departPorts _).abortPart p).dropPersists _).stopSteer p 0).modSec p _).fenceWins p

theorem completeAll (h : Idle s) (p : Nat) : Idle (s.completeAll p) := by
  rw [State.completeAll, h.1]
  exact h

theorem modCluster (h : Idle s) (c : Nat) (f : Cluster → Cluster) : Idle (s.modCluster c f) := h
theorem modCoreDom (h : Idle s) (c : Nat) (f : CoreDom → CoreDom) : Idle (s.modCoreDom c f) := h
theorem modStack (h : Idle s) (n : Nat) (f : Stack → Stack) : Idle (s.modStack n f) := h
theorem modDie (h : Idle s) (n : Nat) (f : Die → Die) : Idle (s.modDie n f) := h

theorem wakeAll (h : Idle s) (p : Nat) : Idle (s.wakeAll p) := by
  unfold State.wakeAll
  refine foldl (fun _ n ht => ht.modDie n _) (foldl (fun _ n ht => ht.modStack n _) (foldl (fun t c ht => ?_) h _) _) _
  split
  · exact ht
  · refine foldl (fun u k hu => ?_) (ht.modCluster c _) _
    split
    · exact hu
    · exact hu.modCoreDom _ _

theorem startSkim (h : Idle s) (p : Nat) (x : Binding) : Idle (s.startSkim p x) := ((h.stopPart p).completeAll p).wakeAll p

theorem applyBinding (h : Idle s) (p : Nat) (x : Binding) : Idle (s.applyBinding p x) := by
  unfold State.applyBinding
  extract_lets t u
  have hm : Idle (t.measured p) := events ((show Idle t from h).modSec p _) (t.measured_onlyEvents p)
  have hu : Idle u := hm.events (State.raise_onlyEvents _ _ 0 _)
  split
  · exact hu.startSkim p _
  · exact hu

theorem finishSkim (h : Idle s) (p : Nat) (x : Binding) : Idle (s.finishSkim p x) := by
  unfold State.finishSkim
  split
  · exact events (by exact h) (State.raise_onlyEvents _ _ 0 _)
  · exact h.applyBinding p x

theorem resumeSwitch (h : Idle s) (p : Nat) : Idle (s.resumeSwitch p) := by
  unfold State.resumeSwitch
  split
  · exact (h.modSec p _).finishSkim p _
  · split
    · exact h.startSkim p _
    · exact h

theorem openPart (h : Idle s) (p : Nat) : Idle (s.openPart p) := by
  unfold State.openPart
  dsimp only
  split
  · split
    · exact h
    · exact events (by exact h) (State.raise_onlyEvents _ _ 1 _)
  · exact (events (by exact h) (State.raise_onlyEvents _ _ 0 _)).resumeSwitch p

end Idle

/-! ### Partitions open -/

/-- Whether a partition is broken depends on the settings, the links, the dies and the stacks alone. -/
theorem Steady.partBroken {s t : State} (h : Steady true s t) (p : Nat) : partBroken t p = partBroken s p := by
  have hoff (n : Nat) : (stack t n).offline = (stack s n).offline := h.offline rfl n
  have hdie (n : Nat) : (die t n).faulted = (die s n).faulted := h.faulted n
  have hlink (l : Nat) : link t l = link s l := h.link_eq l
  simp only [Machine.partBroken, hoff, hdie, hlink, diesOf, stacksOf, partOfDie, diesPer, firstDie, h.settings]

/-- `s` with other partition states. -/
def State.withParts (s : State) (x : List Nat) : State := { s with startup := { s.startup with part := x } }

theorem Steady.withParts {s t : State} (h : Steady true s t) (x : List Nat) : Steady true (s.withParts x) (t.withParts x) :=
  { h with startup := fun e => by rw [State.withParts, h.startup e]; rfl }

/-- The state that a partition opens in (R430). -/
def openState (s : State) (p : Nat) : Nat := if partBroken s p = true then 2 else 0

theorem State.openPart_steady (s : State) (p : Nat) :
    Steady true (s.withParts (s.startup.part.set p (openState s p))) (s.openPart p) := by
  unfold State.openPart openState
  dsimp only
  split
  · exact .ite (.refl true _) ((Steady.refl true _).raise_ _ 1 _)
  · exact ((Steady.refl true _).raise_ _ 0 _).resumeSwitch p

theorem supUp_iff (s : State) {p : Nat} (hp : p < 4) : supUp s.regs p = (s.reg (supPage p) Reg.irqStat).testBit 0 := by
  have hb : blkOf (supPage p) = .sup := blkOf_page .sup (blkOf_all _) p hp
  have hh : homePage s (supPage p) Reg.irqStat = supPage p := by rw [homePage, hb]; rfl
  rw [State.reg, hb, hh, supUp]
  rfl

/-- BLK_IRQ_STAT with one more bit shows the operational event where that is the bit. -/
theorem State.supUp_setBit (s : State) {p : Nat} (hp : p < 4) :
    supUp (s.setReg (supPage p) Reg.irqStat (s.reg (supPage p) Reg.irqStat ||| 2 ^ 0)).regs p = true := by
  rw [supUp_iff _ hp, reg_setReg _ _ _ _ _ _ (by decide) (by decide), if_pos ⟨rfl, rfl⟩, Nat.testBit_mod_two_pow]
  simp

theorem State.supUp_raise (s : State) {p : Nat} (hp : p < 4) (d : Det) : supUp (s.raise_ (supPage p) 0 d).regs p = true := by
  refine SteadyC.supUp (b := true) (?_ : Steady true (s.setReg (supPage p) Reg.irqStat _) _) p hp (s.supUp_setBit hp)
  have hset := Steady.refl true (s.setReg (supPage p) Reg.irqStat (s.reg (supPage p) Reg.irqStat ||| 2 ^ 0))
  have hirq : Steady true _ (s.setIrq (supPage p) 0) := .ite (hset.sendMsix _) hset
  exact .ite hirq (hirq.log_ _)

theorem State.supUp_openPart {s : State} {p : Nat} (hp : p < 4) (h : partBroken s p = false) : supUp (s.openPart p).regs p = true := by
  unfold State.openPart
  simp only [h, Bool.false_eq_true, if_false]
  exact ((Steady.refl true _).resumeSwitch p).supUp p hp (State.supUp_raise _ hp _)

/-- Partitions open one by one; none makes another broken. -/
theorem State.openParts_steady (s : State) (l : List Nat) :
    Steady true (s.withParts (l.foldl (fun x p => x.set p (openState s p)) s.startup.part)) (l.foldl State.openPart s) ∧
      ∀ p ∈ l, p < 4 → partBroken s p = false → supUp (l.foldl State.openPart s).regs p = true := by
  induction l generalizing s with
  | nil => exact ⟨.refl true s, by simp⟩
  | cons q l ih =>
    obtain ⟨hst, hup⟩ := ih (s.openPart q)
    have hq := s.openPart_steady q
    have hbroken (p : Nat) : partBroken (s.openPart q) p = partBroken s p := hq.partBroken p
    have hopen : openState (s.openPart q) = openState s := by
      funext p; rw [openState, hbroken, openState]
    rw [List.foldl_cons, List.foldl_cons]
    rw [hq.startup rfl, hopen] at hst
    refine ⟨(hq.withParts _).trans hst, fun p hp h4 hb => ?_⟩
    rcases List.mem_cons.1 hp with rfl | hp
    · exact hst.supUp p h4 (State.supUp_openPart h4 hb)
    · exact hup p hp h4 ((hbroken p).trans hb)

/-- The state of each of the first partitions. -/
theorem getD_foldl_set (x : List Nat) (f : Nat → Nat) (n p d : Nat) :
    ((List.range n).foldl (fun x p => x.set p (f p)) x).getD p d = if p < n ∧ p < x.length then f p else x.getD p d := by
  have hlen (m : Nat) : ((List.range m).foldl (fun x p => x.set p (f p)) x).length = x.length := by
    induction m with
    | zero => rfl
    | succ m ih => rw [List.range_succ, List.foldl_append]; simpa using ih
  induction n with
  | zero => simp
  | succ n ih =>
    rw [List.range_succ, List.foldl_append, List.foldl_cons, List.foldl_nil]
    rw [List.getD_eq_getElem?_getD, List.getElem?_set, hlen]
    by_cases e : n = p
    · subst e
      by_cases hx : n < x.length <;> simp [hx]
    · rw [if_neg e, ← List.getD_eq_getElem?_getD, ih]
      exact if_congr (by omega) rfl rfl

/-- The reset's entry and the watchdog's. -/
theorem State.logStart_steady (s : State) :
    ∃ x, Steady true { s with startup := { s.startup with latched := x } } s.logStart := by
  have ht (item n : Nat) : Steady true s (s.resetEntry 0xFF item 0x3FF n) := (Steady.refl true s).resetEntry _ _ _ _
  unfold State.logStart
  dsimp only
  split
  · refine ⟨none, .faultEntry ?_ _ _ _ _⟩
    exact { ht _ _ with startup := fun e => by rw [(ht _ _).startup e] }
  · exact ⟨s.startup.latched, ht _ _⟩

theorem Idle.logStart {s : State} (h : Idle s) : Idle s.logStart := by
  have hlog (t : State) (ht : Idle t) (e : Snag) : Idle (t.log_ e) := ht.events (t.log_onlyEvents e)
  unfold State.logStart
  dsimp only
  split
  · refine hlog _ ?_ _
    exact hlog s h _
  · exact hlog s h _

/-- `s` once the reset's entry is written and every partition has opened. -/
def State.opened (s : State) : State := (partsAll s).foldl State.openPart s.logStart

/-- Opening partitions changes the states of the partitions and clears what the watchdog latched, besides what `Steady` leaves open. -/
theorem State.opened_steady (s : State) : ∃ x y,
    Steady true ({ s with startup := { s.startup with latched := x } }.withParts y) s.opened ∧
      (s.startup.part.length = 4 → ∀ p < s.settings.partitions, p < 4 → y.getD p 1 = openState s.opened p ∧
        (partBroken s.opened p = false → (s.opened.reg (supPage p) Reg.irqStat).testBit 0 = true)) := by
  obtain ⟨x, hx⟩ := s.logStart_steady
  obtain ⟨hopen, hup⟩ := s.logStart.openParts_steady (partsAll s)
  have hbroken (p : Nat) : partBroken s.opened p = partBroken s.logStart p := hopen.partBroken p
  refine ⟨x, _, (hx.withParts _).trans hopen, fun h4 p hp hp4 => ⟨?_, fun hb => ?_⟩⟩
  · rw [hx.startup rfl, partsAll, getD_foldl_set, if_pos ⟨hp, by rw [h4]; exact hp4⟩, openState, openState, hbroken]
  · rw [← supUp_iff _ hp4]
    exact hup p (List.mem_range.2 hp) hp4 ((hbroken p).symm.trans hb)

theorem Idle.opened {s : State} (h : Idle s) : Idle s.opened := h.logStart.foldl (fun _ p ht => ht.openPart p) _

/-! ### Entry to operational (R423, R426) -/

/-- `s` once pending and held settings apply, memory is fresh and keys are drawn. -/
def State.renewed (s : State) : State :=
  { s.applyPending.freshen (fun _ => true) with tiers := [] }.rekey (partsAll s.applyPending)

/-- `s` on entry to operational, before the reset's entry is written and partitions open. -/
def State.entered (s : State) : State :=
  let b := s.renewed
  let img := if b.startup.slotB then b.flash.slotB else b.flash.slotA
  { b with
    flash := { b.flash with minSvn := if img.commit then Nat.max b.flash.minSvn img.svn else b.flash.minSvn }
    startup := { b.startup with
      phase := 7, bootMs := (s.now - s.startup.t0) / 1000000, beat := s.now, lastPeriod := 1000000 * (s.now / 1000000)
      part := (List.range 4).map (fun p =>
        if b.settings.partitions == s.settings.partitions &&
          ((partsAll s).filter (fun p => s.startup.part.getD p 1 == 2)).contains p then 2 else 1) } }

theorem exec_entryToOperational {s : State} (now : Nat) (h6 : phaseIs s 6 = true) :
    exec (.entryToOperational now) s = .next (s.at_ now).entered.opened := by
  have h6' : phaseIs (s.at_ now) 6 = true := h6
  simp only [exec, execEntryToOperational, h6', if_true]
  rfl

theorem State.renewed_rekeyed (s : State) : Rekeyed (partsAll s.applyPending)
    { s.applyPending.freshen (fun _ => true) with tiers := [] } s.renewed := State.rekey_rekeyed _ _

theorem State.renewed_idle {s : State} (h : s.cmds = []) : Idle s.renewed :=
  have hr := s.renewed_rekeyed
  ⟨hr.cmds.trans h, hr.written.trans (List.filter_eq_nil_iff.2 (by simp))⟩

theorem State.memGen_renewed (s : State) {p : Nat} (hp : p < s.applyPending.settings.partitions) :
    (sec s.renewed p).memGen = (sec s p).memGen + 1 := by
  rw [s.renewed_rekeyed.memGen, partsAll, List.count_eq_one_of_mem List.nodup_range (List.mem_range.2 hp)]
  rfl

/-- What entry to operational from `s` settles of `t` (R22, R24, R318, R390, R423, R426). -/
structure Operational (s t : State) : Prop where
  phase : t.startup.phase = 7
  bootMs : t.startup.bootMs = (s.now - s.startup.t0) / 1000000
  settings : { t.settings with
    hostAccess := s.settings.hostAccess, winPart := s.settings.winPart, holdoffMs := s.settings.holdoffMs
    hostPend := s.settings.hostPend } = s.applyPending.settings
  fresh : s.cmds = [] → ∀ k, isFresh t k = true
  minSvn : t.flash.minSvn = (let img := if s.startup.slotB = true then s.flash.slotB else s.flash.slotA;
    if img.commit = true then Nat.max s.flash.minSvn img.svn else s.flash.minSvn)
  parts : ∀ p < s.applyPending.settings.partitions, p < 4 → (sec t p).memGen = (sec s p).memGen + 1 ∧
    t.startup.part.getD p 1 = openState t p ∧
    (partBroken t p = false → (t.reg (supPage p) Reg.irqStat).testBit 0 = true)

theorem State.entered_operational (s : State) : Operational s s.entered.opened := by
  have hr := s.renewed_rekeyed
  obtain ⟨x, y, hst, hparts⟩ := s.entered.opened_steady
  have hset : s.entered.opened.settings = s.renewed.settings := hst.settings
  exact {
    phase := congrArg Startup.phase (hst.startup rfl)
    bootMs := congrArg Startup.bootMs (hst.startup rfl)
    settings := by rw [hset]; exact hr.settings
    fresh := fun h => (show Idle s.entered from State.renewed_idle h).opened.isFresh
    minSvn := hst.svn.trans (by simp only [State.withParts, State.entered, hr.flash, hr.startup]; rfl)
    parts := fun p hp h4 => by
      have hp' : p < s.entered.settings.partitions := lt_of_lt_of_eq hp (congrArg Settings.partitions hr.settings).symm
      obtain ⟨hpart, hup⟩ := hparts (by simp [State.entered]) p hp' h4
      refine ⟨(hst.memGen p).trans (s.memGen_renewed hp), ?_, hup⟩
      rw [hst.startup rfl]
      exact hpart }

/-! ### The obligation -/

theorem sound_partitions_le {s : State} (h : Sound s) : s.applyPending.settings.partitions ≤ 4 := by
  have hle (n : Nat) (hn : n ∈ [1, 2, 4]) : n ≤ 4 := by simp at hn; omega
  show s.settings.partPend.getD s.settings.partitions ≤ 4
  cases hp : s.settings.partPend with
  | none => exact hle _ h.settings.partitions
  | some n => exact hle n (h.settings.partPend n hp)

/-- A setting that entry to operational settles. -/
theorem Operational.setting {s t : State} (h : Operational s t) {α : Type} (f : Settings → α)
    (hf : ∀ x : Settings, f { x with
      hostAccess := s.settings.hostAccess, winPart := s.settings.winPart, holdoffMs := s.settings.holdoffMs
      hostPend := s.settings.hostPend } = f x := by exact fun _ => rfl) : f t.settings = f s.applyPending.settings :=
  (hf _).symm.trans (congrArg f h.settings)

/-- Settles O60: a rule for each command; the order of the phases is `phaseIs_iff`. -/
theorem startUp : Obligations.StartUp := by
  intro s hs _ off held cold
  have hoff (n : Nat) : off n ↔ ¬phaseIs s n = true := not_congr (phaseIs_iff s n).symm
  simp only [hoff, not_not]
  refine ⟨fun h => if_pos h, exec_powerInputInRange, fun b => ⟨fun h => if_neg (by simp [h]), exec_powerInputOutOfRange b⟩,
    fun h1 h2 => if_neg (by simp [h1, h2]), fun hp => ?_, s.coreRetired_failUnit, s.clusterRetired_failUnit, s.chan_failUnit,
    s.faulted_failUnit, fun l => State.link_failUnit, rfl,
    fun now fails => ⟨fun h => if_neg h, fun h => (if_pos h).trans (apply_ite Host.Outcome.next _ _ _).symm, fun h => if_neg h,
      fun h => (if_pos h).trans (apply_ite Host.Outcome.next _ _ _).symm, fun d h => if_neg h⟩,
    fun now d h4 hd => ?_, fun now => ⟨fun h => if_neg h, fun h => ?_⟩⟩
  · simp only [← imageOk_iff]
    exact ⟨fun ha hb => exec_bootRom_boots hp (bootSlot_eq_A ha hb), fun hb ha => exec_bootRom_boots hp (bootSlot_eq_B hb ha),
      fun ha hb => exec_bootRom_holds hp (bootSlot_eq_none ha hb)⟩
  · have hr := (s.at_ now).linksEnd_ready d
    exact ⟨_, exec_scaffoldLinks now d h4 hd, rfl, hr.links, hr.chans, hr.admitted, hr.fenced, fun a => by
      rw [State.byte, hr.mem]; rfl⟩
  · have ho := (s.at_ now).entered_operational
    refine ⟨_, exec_entryToOperational now h, ho.phase, ho.bootMs, ho.setting Settings.partitions, ho.setting Settings.partPend,
      ho.setting Settings.openOwner, ho.setting Settings.ownerPend, ho.setting Settings.shareNow, ho.setting Settings.fenced,
      ho.setting Settings.capW, ho.fresh, ho.minSvn, fun p hp => ?_⟩
    rw [ho.setting Settings.partitions] at hp
    exact ho.parts p hp (hp.trans_le (sound_partitions_le (s := s) hs))

end Sys2Proof.Machine

/-! ## Near-memory commands start and fence (O39)

A start is a chain of four small operations: the slabs are pinned, the command takes its samples, each home unit takes a segment, and
the wait begins. Each is said once: what it leaves of the commands and of the channels, and that it stays within `CmdFrame`. -/

namespace Sys2Proof.Machine

/-! ### The rows and the command that they serve -/

/-- A row that serves a command once it has arrived serves it under its number. -/
theorem Starts.servedId {a : Bool} {cls sub k : Nat} {need : State → Cmd → List Nat} {check : State → Cmd → Option Nat}
    {s u : State} {x : Cmd} (h : Starts a cls sub k need check s u x) : servedId cls sub s k = x.id := by
  obtain ⟨v, c, ha, -, -, -, rfl, -⟩ := h
  rcases ha with ⟨h, -, -, -, -⟩ | ⟨h, b, -, -, -, -, -, -, rfl⟩
  · simp [Machine.servedId, h]
  · simp [Machine.servedId, h, newCmd]

/-- Every near-memory operation is the one row. -/
theorem exec_nmuRow {i : Instr} {op k : Nat} (h : ringRow i = some (3, op, k)) (s : State) : exec i s = .next (nmuRow op k s) := by
  cases i with
  | add | mul | fma | affine | div | max | min | rsqrt | exp | gelu | silu | rmsnorm | layernorm | softmax | quant | dequant
    | adamw | lion | sgdm | plumb | fence =>
    cases h
    rfl
  | _ => cases h

theorem nmuRow_of_full {op k : Nat} {s : State} (h : unitsFull op s k = true) : nmuRow op k s = s := if_pos h

/-- A command that starts and has not ended raises no event of a refusal. -/
theorem nmuRow_of_starts {op k : Nat} {s u : State} {x c : Cmd} (hf : unitsFull op s k = false)
    (h : Starts true 3 op k nmuNeed nmuCheck s u x) (hc : (nmuStart u x).cmd? x.id = some c) (hs : c.status = none) :
    nmuRow op k s = nmuStart u x := by
  simp [nmuRow, hf, h.servedId, dispatchRowT_starts h, hc, hs]

/-- The operation that a near-memory command names is its row's. -/
theorem ndOf_op {b : CmdBits} {op : Nat} (h3 : envClass b = 3) (h : cmdSub b = op) : (ndOf b).op = op := by
  rw [← h, cmdSub, h3]
  rfl

/-! ### Pins -/

theorem State.modFrame_frame (s : State) (p slab : Nat) (g : Frame → Frame) : CmdFrame s (s.modFrame p slab g) := by
  unfold State.modFrame
  split
  · exact s.modTier_frame p _
  · exact .refl s

theorem State.modFrame_rest (s : State) (p slab : Nat) (g : Frame → Frame) (x : SMap Tier) :
    { s.modFrame p slab g with tiers := x } = { s with tiers := x } := by
  unfold State.modFrame
  split <;> rfl

theorem State.pin_frame (s : State) (id p : Nat) (slabs : List Nat) : CmdFrame s (s.pin id p slabs) :=
  .foldl _ (fun t k => t.modFrame_frame p k _) slabs s

theorem State.pin_rest (s : State) (id p : Nat) (slabs : List Nat) : { s.pin id p slabs with tiers := s.tiers } = s :=
  foldl_keep (fun t => { t with tiers := s.tiers }) _ (fun t k => t.modFrame_rest p k _ _) slabs s

theorem State.pin_cmds (s : State) (id p : Nat) (slabs : List Nat) : (s.pin id p slabs).cmds = s.cmds := by
  have h := congrArg State.cmds (s.pin_rest id p slabs)
  exact h

theorem State.pin_chans (s : State) (id p : Nat) (slabs : List Nat) : (s.pin id p slabs).chans = s.chans := by
  have h := congrArg State.chans (s.pin_rest id p slabs)
  exact h

/-! ### Segments -/

theorem chan_congr {s t : State} (h : t.chans = s.chans) (n : Nat) : chan t n = chan s n := by rw [chan, h, chan]

theorem State.modChan_frame (s : State) (n : Nat) (f : Chan → Chan) : CmdFrame s (s.modChan n f) := .of_same rfl rfl rfl

theorem State.wakeGroup_frame (s : State) (ch : Nat) : CmdFrame s (s.wakeGroup ch) :=
  .ite (s.modStack_frame _ _) (.refl s)

theorem State.addSeg_frame (s : State) (ch : Nat) (g : Seg) : CmdFrame s (s.addSeg ch g) :=
  (s.modChan_frame ch _).trans (State.wakeGroup_frame _ ch)

theorem State.addSeg_cmds (s : State) (ch : Nat) (g : Seg) : (s.addSeg ch g).cmds = s.cmds := by
  unfold State.addSeg State.wakeGroup
  dsimp only
  split <;> rfl

theorem State.addSeg_chans (s : State) (ch : Nat) (g : Seg) : (s.addSeg ch g).chans = SMap.modify {} s.chans ch (fun c =>
    { c with queue := c.queue ++ [g], workSince := if c.queue.isEmpty then s.now else c.workSince }) := by
  unfold State.addSeg State.wakeGroup
  dsimp only
  split <;> rfl

theorem queue_addSeg_same (s : State) (ch : Nat) (g : Seg) : (chan (s.addSeg ch g) ch).queue = (chan s ch).queue ++ [g] := by
  rw [chan, s.addSeg_chans, SMap.get_modify_same]
  rfl

theorem chan_addSeg_other (s : State) {ch n : Nat} (g : Seg) (h : n ≠ ch) : chan (s.addSeg ch g) n = chan s n := by
  rw [chan, s.addSeg_chans, SMap.get_modify_other _ _ _ h]
  rfl

/-- Distinct units each take one segment at the end of their queues, and no other unit does. -/
theorem chan_addSegs (g : Seg) {l : List Nat} (hl : l.Nodup) (s : State) :
    (∀ ch ∈ l, (chan (l.foldl (fun t ch => t.addSeg ch g) s) ch).queue = (chan s ch).queue ++ [g]) ∧
      ∀ ch, ch ∉ l → chan (l.foldl (fun t ch => t.addSeg ch g) s) ch = chan s ch := by
  induction l generalizing s with
  | nil => exact ⟨fun _ h => absurd h List.not_mem_nil, fun _ _ => rfl⟩
  | cons n l ih =>
    obtain ⟨hn, hl⟩ := List.nodup_cons.1 hl
    obtain ⟨hin, hout⟩ := ih hl (s.addSeg n g)
    refine ⟨fun ch h => ?_, fun ch h => ?_⟩
    · rcases List.mem_cons.1 h with rfl | h
      · exact (congrArg Chan.queue (hout _ hn)).trans (queue_addSeg_same s _ g)
      · exact (hin ch h).trans (by rw [chan_addSeg_other s g (ne_of_mem_of_not_mem h hn)])
    · obtain ⟨h1, h2⟩ := not_or.1 (mt List.mem_cons.2 h)
      exact (hout ch h2).trans (chan_addSeg_other s g h1)

/-! ### The start -/

theorem State.cmdWaits_chans (s : State) (id : Nat) (w : Wait) : (s.cmdWaits id w).chans = s.chans := by
  unfold State.cmdWaits
  split
  · exact foldl_keep State.chans _ (fun t n => by unfold State.ctxWaits; dsimp only; split <;> rfl) _ _
  · rfl

theorem chan_cmdWaits (s : State) (id : Nat) (w : Wait) (ch : Nat) : chan (s.cmdWaits id w) ch = chan s ch :=
  chan_congr (s.cmdWaits_chans id w) ch

/-- The command of a number after a change of it and the beginning of its wait. -/
theorem State.cmd?_cmdWaits {s : State} {id : Nat} {c : Cmd} (h : s.cmd? id = some c) (w : Wait) :
    (s.cmdWaits id w).cmd? id = some { c with wait := w } := by
  rw [State.cmd?_congr (s.cmdWaits_cmds id w c h), State.cmd?_modCmd, h]
  simp [(State.cmd?_mem h).2]

theorem State.cmd?_modCmd_same {s : State} {id : Nat} {c : Cmd} (h : s.cmd? id = some c) (f : Cmd → Cmd) :
    (s.modCmd id f).cmd? id = some { f c with id := id } := by
  rw [State.cmd?_modCmd, h]
  simp [(State.cmd?_mem h).2]

/-- The command once it waits on its slots, with what its start samples from `u`. -/
def nmuQueued (u : State) (x : Cmd) : Cmd :=
  let n := ndOf x.bits
  { x with
    units := nmuHomes u x.part n, slabs := nmuSlabs u x.part n, stamps := n.isOpt && stampsOn u x.part
    scales := if n.guardEn then sampleScales u x.part [n.guard] else []
    hp := if n.isOpt then hpSet u x.part n.guard else []
    wait := .slotGrant u.now }

/-- The segment that a command's start gives each of its home units. -/
def firstSeg (u : State) (x : Cmd) : Seg :=
  let n := ndOf x.bits
  { cmd := x.id, pass := if n.op = 0x18 ∧ n.guardEn = true ∧ (guard u x.part n.guard).count = 0 then 1 else 2 }

theorem nodup_nmuHomes (s : State) (p : Nat) (n : Nd) : (nmuHomes s p n).Nodup := by
  unfold nmuHomes
  split
  · exact List.nodup_nil
  · exact List.nodup_dedup _

/-- What the start of a command other than FENCE makes of the state. -/
theorem nmuStart_queued {u : State} {x : Cmd} (h : (ndOf x.bits).op ≠ 0x30) (hx : u.cmd? x.id = some x) :
    CmdFrame u (nmuStart u x) ∧ (nmuStart u x).cmd? x.id = some (nmuQueued u x) ∧
      (∀ ch ∈ nmuHomes u x.part (ndOf x.bits), (chan (nmuStart u x) ch).queue = (chan u ch).queue ++ [firstSeg u x]) ∧
      ∀ ch, ch ∉ nmuHomes u x.part (ndOf x.bits) → chan (nmuStart u x) ch = chan u ch := by
  have hpass : (if (decide ((ndOf x.bits).op = 0x18) && (ndOf x.bits).guardEn &&
      (guard u x.part (ndOf x.bits).guard).count == 0) = true then 1 else 2) = (firstSeg u x).pass := by
    simp [firstSeg, and_assoc]
  unfold nmuStart
  rw [if_neg h]
  extract_lets homes slabs first t
  have htx : t.cmd? x.id = some { nmuQueued u x with wait := x.wait } :=
    State.cmd?_modCmd_same ((State.cmd?_congr (u.pin_cmds _ _ _) _).trans hx) _
  have hcmds (g : Seg) : (homes.foldl (fun t ch => t.addSeg ch g) t).cmds = t.cmds :=
    foldl_keep State.cmds _ (fun t ch => t.addSeg_cmds ch g) _ _
  have hchan (ch : Nat) : chan t ch = chan u ch := chan_congr (u.pin_chans x.id x.part slabs) ch
  obtain ⟨hin, hout⟩ := chan_addSegs (firstSeg u x) (nodup_nmuHomes u x.part (ndOf x.bits)) t
  have hseg : ({ cmd := x.id, pass := if first then 1 else 2 } : Seg) = firstSeg u x := by
    rw [show (if first then 1 else 2) = (firstSeg u x).pass from hpass]
    rfl
  rw [hseg]
  refine ⟨?_, ?_, fun ch hc => ?_, fun ch hc => ?_⟩
  · exact (((u.pin_frame _ _ _).trans (State.modCmd_frame _ _ _)).trans
      (.foldl _ (fun t ch => t.addSeg_frame ch _) _ _)).trans (State.cmdWaits_frame _ _ _)
  · exact State.cmd?_cmdWaits ((State.cmd?_congr (hcmds _) _).trans htx) _
  · rw [chan_cmdWaits, hin ch hc, hchan]
  · rw [chan_cmdWaits, hout ch hc, hchan]

/-! ### FENCE -/

/-- The commands that a FENCE covers: the unfinished near-memory commands of its ring. -/
def fenced (u : State) (x : Cmd) : List Nat :=
  (u.cmds.filter (fun d => d.ring == x.ring && d.id != x.id && d.status.isNone && envClass d.bits == 3)).map (·.id)

theorem mem_fenced {u : State} {x : Cmd} {j : Nat} : j ∈ fenced u x ↔
    ∃ d ∈ u.cmds, d.id = j ∧ d.id ≠ x.id ∧ d.ring = x.ring ∧ d.status = none ∧ envClass d.bits = 3 := by
  simp only [fenced, List.mem_map, List.mem_filter, Bool.and_eq_true, beq_iff_eq, bne_iff_ne, Option.isNone_iff_eq_none]
  constructor
  · rintro ⟨d, ⟨hd, ⟨⟨hr, hi⟩, hs⟩, hc⟩, rfl⟩
    exact ⟨d, hd, rfl, hi, hr, hs, hc⟩
  · rintro ⟨d, hd, rfl, hi, hr, hs, hc⟩
    exact ⟨d, ⟨hd, ⟨⟨hr, hi⟩, hs⟩, hc⟩, rfl⟩

/-- What the start of a FENCE makes of the state. -/
theorem nmuStart_fence {u : State} {x : Cmd} (h : (ndOf x.bits).op = 0x30) (hx : u.cmd? x.id = some x) :
    CmdFrame u (nmuStart u x) ∧ (nmuStart u x).cmd? x.id = some { x with covers := fenced u x, wait := .fence } ∧
      (nmuStart u x).chans = u.chans := by
  have hs : nmuStart u x = (u.modCmd x.id (fun d => { d with covers := fenced u x })).cmdWaits x.id .fence := if_pos h
  rw [hs]
  exact ⟨(u.modCmd_frame _ _).trans (State.cmdWaits_frame _ _ _), State.cmd?_cmdWaits (State.cmd?_modCmd_same hx _) _,
    State.cmdWaits_chans _ _ _⟩

/-- The end of a command leaves the fences. -/
theorem CmdFrame.fences {u t : State} (h : CmdFrame u t) : t.fences = u.fences := by
  have e := congrArg State.fences h.rest
  exact e

theorem State.finishCmd_ended {s : State} {id : Nat} {c : Cmd} (h : s.cmd? id = some c) (hs : c.status = none) :
    EndedWith (s.finishCmd id) id (c.late.getD St.done) := by
  unfold State.finishCmd
  rw [h]
  exact s.endCmd_ended _ _ c h hs

/-- NMU_FENCE_COMPLETE of a waiting FENCE, by whether a command that it covers is unfinished. -/
theorem exec_nmuFenceComplete {s : State} {id : Nat} {c : Cmd} (h : s.cmd? id = some c) (hw : c.wait = .fence) :
    exec (.nmuFenceComplete id) s = .next (if s.cmds.any (fun d => c.covers.contains d.id && d.status.isNone) then s
      else { s with fences := SMap.modify 0 s.fences c.ring (· + 1) }.finishCmd id) := by
  simp only [exec, execNmuFenceComplete, h, hw]
  split <;> simp_all

/-- Settles O39: the two starts of `nmuStart`, and the end of a FENCE. -/
theorem nmuCommandsStart : Obligations.NmuCommandsStart := by
  intro s u i op k x hs hi n
  rw [exec_nmuRow hi]
  refine ⟨fun hf => by rw [nmuRow_of_full hf], fun hop hf h => ?_, fun hop hf h => ?_, fun id c hc hst hw => ?_⟩
  · obtain ⟨hx, hst, -, h3, hsub⟩ := h.cmd? hs
    have hn : n.op = op := ndOf_op h3 hsub
    obtain ⟨hframe, hcmd, hin, hout⟩ := nmuStart_queued (fun e => hop (hn.symm.trans e)) hx
    rw [nmuRow_of_starts hf h hcmd hst]
    refine ⟨_, _, rfl, hframe, hcmd, hst, rfl, rfl, rfl, rfl, rfl, rfl, fun ch hch => ?_, hout⟩
    rw [← hn]
    exact hin ch hch
  · obtain ⟨hx, hst, -, h3, hsub⟩ := h.cmd? hs
    obtain ⟨hframe, hcmd, hchans⟩ := nmuStart_fence ((ndOf_op h3 hsub).trans hop) hx
    rw [nmuRow_of_starts hf h hcmd hst]
    exact ⟨_, _, rfl, hframe, hcmd, hst, rfl, hchans, fun j => mem_fenced⟩
  · rw [exec_nmuFenceComplete hc hw]
    refine ⟨fun ⟨d, hd, hcov, hds⟩ => ?_, fun hall => ?_⟩
    · rw [if_pos (List.any_eq_true.2 ⟨d, hd, by simp [hcov, hds]⟩)]
    · rw [if_neg]
      · have hf := State.finishCmd_frame { s with fences := SMap.modify 0 s.fences c.ring (· + 1) } id
        refine ⟨_, rfl, State.finishCmd_ended hc hst, ?_, hf.bytes⟩
        rw [hf.fences, SMap.get_modify_same]
      · simp only [List.any_eq_true, Bool.and_eq_true, List.contains_iff_mem, Option.isNone_iff_eq_none, not_exists, not_and]
        intro d hd hcov hds
        simpa [hds] using hall d hd hcov

end Sys2Proof.Machine

/-! ## Persistent streams and admission (O32)

A persistent stream is found by its handle, so each operation on the list of them is said as what `persist?` answers after it.
Admission rests on one fact about contexts: where every core has a context bound to the ring or free, binding the cores one after
another binds them all, since no binding takes a context from the ring or from another core (R126, R144). -/

namespace Sys2Proof.Machine

/-! ### Fields of registers -/

/-- A field put back reads as what was put, cut to its width. -/
theorem fld_setFld (w v : Nat) {hi lo : Nat} : fld (setFld w hi lo v) hi lo = v % 2 ^ (hi + 1 - lo) := by
  simp only [fld, setFld, Nat.shiftRight_eq_div_pow, Nat.shiftLeft_eq]
  generalize 2 ^ (hi + 1 - lo) = m
  have hL : 0 < 2 ^ lo := Nat.two_pow_pos lo
  generalize 2 ^ lo = L at hL
  have hq : (w / L % m) * L ≤ w := (Nat.mul_le_mul_right L (Nat.mod_le _ _)).trans (Nat.div_mul_le_self w L)
  have hsplit : w - (w / L % m) * L = m * (w / L / m) * L + w % L := by
    have h1 := Nat.div_add_mod' w L
    have h2 : w / L * L = m * (w / L / m) * L + (w / L % m) * L := by rw [← Nat.add_mul, Nat.div_add_mod]
    omega
  have hdiv : (w - (w / L % m) * L + v % m * L) / L = m * (w / L / m) + v % m := by
    rw [hsplit, show m * (w / L / m) * L + w % L + v % m * L = w % L + (m * (w / L / m) + v % m) * L by ring,
      Nat.add_mul_div_right _ _ hL, Nat.div_eq_of_lt (Nat.mod_lt _ hL), Nat.zero_add]
  rw [hdiv, Nat.mul_add_mod, Nat.mod_mod]

/-- A field below bit 64 does not see what lies above. -/
theorem fld_mod_word (w lo : Nat) {hi : Nat} (h : hi < 64) : fld (w % 2 ^ 64) hi lo = fld w hi lo := by
  refine Nat.eq_of_testBit_eq fun i => ?_
  simp only [fld, Nat.testBit_mod_two_pow, Nat.testBit_shiftRight]
  by_cases hi : i < hi + 1 - lo
  · simp [hi, show lo + i < 64 by omega]
  · simp [hi]

/-- A counter field after a saturating count. -/
theorem regFld_bump (s : State) (page n : Nat) {reg hi lo : Nat} (hr : reg < 512) (hh : hi < 64) :
    (s.bump page reg hi lo n).regFld page reg hi lo = Nat.min (2 ^ (hi + 1 - lo) - 1) (s.regFld page reg hi lo + n) := by
  have hlt : satAdd (hi + 1 - lo) (s.regFld page reg hi lo) n < 2 ^ (hi + 1 - lo) :=
    (Nat.min_le_left _ _).trans_lt (Nat.sub_lt (Nat.two_pow_pos _) Nat.one_pos)
  rw [State.bump, State.setRegFld, State.regFld, reg_setReg_same _ _ _ _ hr, fld_mod_word _ _ hh, fld_setFld,
    Nat.mod_eq_of_lt hlt]
  rfl

theorem bump_rest (s : State) (page reg hi lo n : Nat) (x : SMap Word) :
    { s.bump page reg hi lo n with regs := x } = { s with regs := x } := rfl

/-! ### Finding a persistent stream -/

theorem handle_of_persist? {s : State} {h : Nat} {x : Persist} (hx : persist? s h = some x) : x.handle = h := by
  simpa using List.find?_some hx

/-- A change of streams that leaves their handles. -/
theorem persist?_map {s t : State} {f : Persist → Persist} (ht : t.persists = s.persists.map f) (hf : ∀ x, (f x).handle = x.handle)
    (j : Nat) : persist? t j = (persist? s j).map f := by
  simp only [persist?, ht, List.find?_map, Function.comp_def, hf]

theorem persist?_congr {s t : State} (h : t.persists = s.persists) (j : Nat) : persist? t j = persist? s j := by
  rw [persist?, h, persist?]

theorem persist?_bump (s : State) (page reg hi lo n j : Nat) : persist? (s.bump page reg hi lo n) j = persist? s j := rfl

theorem persist?_modPersist_same {s : State} {h : Nat} {x : Persist} (hx : persist? s h = some x) {f : Persist → Persist}
    (hf : ∀ x, (f x).handle = x.handle) : persist? (s.modPersist h f) h = some (f x) := by
  rw [persist?_map (f := fun x => if x.handle = h then f x else x) rfl (fun x => by split <;> simp [hf]), hx]
  simp [handle_of_persist? hx]

theorem persist?_modPersist_other (s : State) {h j : Nat} (hj : j ≠ h) {f : Persist → Persist} (hf : ∀ x, (f x).handle = x.handle) :
    persist? (s.modPersist h f) j = persist? s j := by
  rw [persist?_map (f := fun x => if x.handle = h then f x else x) rfl (fun x => by split <;> simp [hf])]
  cases hx : persist? s j with
  | none => rfl
  | some x => simp [handle_of_persist? hx, hj]

/-- A stream once a command that ended is no REARM of it any more. -/
def Persist.without (id : Nat) (x : Persist) : Persist :=
  { x with rearms := x.rearms.filter (· != id), current := if x.current = some id then none else x.current }

/-- The end of a command leaves the streams, but that a failed REARM no longer waits there. -/
theorem persist?_endCmd (s : State) (id st j : Nat) :
    persist? (s.endCmd id st) j = persist? s j ∨ persist? (s.endCmd id st) j = (persist? s j).map (Persist.without id) := by
  rcases State.endCmd_field State.persists (fun _ _ _ => rfl) (fun _ _ _ => rfl) (fun _ _ _ => rfl) (fun _ _ _ => rfl)
    (fun _ _ _ => rfl) (fun _ _ _ => rfl) (fun _ _ _ => rfl) (fun _ _ _ => rfl) (fun _ _ => rfl) s id st with h | ⟨-, t, ht, -, -, -, h⟩
  · exact .inl (persist?_congr h j)
  · refine .inr (persist?_map (f := Persist.without id) (h.trans ?_) (fun _ => rfl) j)
    rw [← ht]
    rfl

/-- The end that a command's work has come to is an end, if the command is there. -/
theorem State.finishCmd_cases (s : State) (id : Nat) : s.finishCmd id = s ∨ ∃ st, s.finishCmd id = s.endCmd id st := by
  unfold State.finishCmd
  split
  · exact .inr ⟨_, rfl⟩
  · exact .inl rfl

theorem persist?_finishCmd (s : State) (id j : Nat) :
    persist? (s.finishCmd id) j = persist? s j ∨ persist? (s.finishCmd id) j = (persist? s j).map (Persist.without id) := by
  rcases s.finishCmd_cases id with h | ⟨st, h⟩ <;> rw [h]
  · exact .inl rfl
  · exact persist?_endCmd s id st j

/-! ### REARM_APPLY -/

/-- A stream as the pass of REARM `r`, command `c`, begins (R136). -/
def Persist.rearmed (s : State) (r : Nat) (rs : List Nat) (c : Cmd) (x : Persist) : Persist :=
  { x with
    rearms := rs, current := some r, inPass := true, pass := persistPass s x, amax := [], seed := c.seed, step := c.step
    scales := sampleScales s x.part [x.stream.list.hdr.guard]
    stream := x.stream.restart (rebase x.stream.list (rearmPairs c.bits)) }

/-- `s` once the pass of REARM `r`, command `c`, of stream `x` has begun, and counts (Table HOD-13). -/
def State.beginPass (s : State) (h r : Nat) (rs : List Nat) (c : Cmd) (x : Persist) : State :=
  (s.modPersist h (Persist.rearmed s r rs c)).bump (Blk.hod.page x.stream.cluster) Reg.hodCluster 63 48 1

theorem exec_rearmApply {s : State} {h r : Nat} {x : Persist} {rs : List Nat} {c : Cmd} (hx : persist? s h = some x)
    (hp : x.inPass = false) (hr : x.rearms = r :: rs) (hc : s.cmd? r = some c) :
    exec (.rearmApply h) s = .next (s.beginPass h r rs c x) := by
  simp only [exec, execRearmApply, hx, hp, hr, hc]
  rfl

section
variable {s : State} {h : Nat} {x : Persist} (r : Nat) (rs : List Nat) (c : Cmd)

theorem persist?_beginPass_same (hx : persist? s h = some x) : persist? (s.beginPass h r rs c x) h = some (x.rearmed s r rs c) := by
  have hf (y : Persist) : (y.rearmed s r rs c).handle = y.handle := rfl
  rw [State.beginPass, persist?_bump, persist?_modPersist_same hx hf]

theorem persist?_beginPass_other {j : Nat} (hj : j ≠ h) : persist? (s.beginPass h r rs c x) j = persist? s j := by
  have hf (y : Persist) : (y.rearmed s r rs c).handle = y.handle := rfl
  rw [State.beginPass, persist?_bump, persist?_modPersist_other s hj hf]

theorem regFld_beginPass : (s.beginPass h r rs c x).regFld (Blk.hod.page x.stream.cluster) Reg.hodCluster 63 48 =
    Nat.min 65535 (s.regFld (Blk.hod.page x.stream.cluster) Reg.hodCluster 63 48 + 1) :=
  regFld_bump (s.modPersist h _) _ 1 (by decide) (by decide)

theorem beginPass_rest : { s.beginPass h r rs c x with persists := s.persists, regs := s.regs } = s := by
  have hb := bump_rest (s.modPersist h (Persist.rearmed s r rs c)) (Blk.hod.page x.stream.cluster) Reg.hodCluster 63 48 1 s.regs
  exact congrArg (fun t : State => { t with persists := s.persists }) hb

end

theorem exec_rearmApply_idle {s : State} {h : Nat} (hx : ∀ x, persist? s h = some x → x.inPass = true ∨ x.rearms = []) :
    exec (.rearmApply h) s = .next s := by
  simp only [exec, execRearmApply]
  split
  next x e =>
    rcases hx x e with hp | hr
    · simp [hp]
    · cases hp : x.inPass <;> simp [hr]
  next => rfl

/-! ### PERSISTENT_STREAM_RELEASE -/

/-- `s` without stream `x` of handle `h`, whose cluster has been at work. -/
def State.dropStream (s : State) (h : Nat) (x : Persist) : State :=
  ({ s with persists := s.persists.filter (fun y => y.handle != h) } : State).stirCluster x.stream.cluster

theorem persist?_dropStream_same (s : State) (h : Nat) (x : Persist) : persist? (s.dropStream h x) h = none :=
  List.find?_eq_none.2 fun y hy => by
    have := (List.mem_filter.1 hy).2
    simpa using this

theorem persist?_dropStream_other (s : State) {h j : Nat} (hj : j ≠ h) (x : Persist) :
    persist? (s.dropStream h x) j = persist? s j := by
  show (s.persists.filter (fun y => y.handle != h)).find? (fun y => y.handle == j) = _
  rw [List.find?_filter, persist?]
  congr 1
  funext y
  by_cases e : y.handle = j <;> simp [e, hj]

theorem exec_persistentStreamRelease {s : State} {h : Nat} {x : Persist} (hx : persist? s h = some x) :
    exec (.persistentStreamRelease h) s = .next (if x.ending = true ∧ x.inPass = false ∧ x.rearms = [] then
      x.releaseCmd.elim (s.dropStream h x) (s.dropStream h x).finishCmd else s) := by
  simp only [exec, execPersistentStreamRelease, hx, Bool.and_eq_true, Bool.not_eq_true', List.isEmpty_iff, and_assoc]
  split
  · cases x.releaseCmd <;> rfl
  · rfl

theorem exec_persistentStreamRelease_idle {s : State} {h : Nat}
    (hx : ∀ x, persist? s h = some x → x.ending = false ∨ x.inPass = true ∨ x.rearms ≠ []) :
    exec (.persistentStreamRelease h) s = .next s := by
  cases e : persist? s h with
  | none => simp only [exec, execPersistentStreamRelease, e]
  | some x =>
    rw [exec_persistentStreamRelease e, if_neg]
    rintro ⟨he, hp, hr⟩
    simpa [he, hp, hr] using hx x e

/-! ### Contexts bound to a ring -/

theorem ctx_wantCore (s : State) (k n : Nat) : ctx (s.wantCore k) n = ctx s n := by
  unfold State.wantCore
  dsimp only
  split <;> rfl

theorem ctx_modCtx (s : State) (m n : Nat) (f : Ctx → Ctx) : ctx (s.modCtx m f) n = if n = m then f (ctx s m) else ctx s n :=
  SMap.get_modify _ _ _ _ _

/-- Binding one core gives its context the ring, and leaves every other context's. -/
theorem ring_bind_one (s : State) (k prio core n : Nat) :
    (ctx (s.bind_ k prio [core]) n).ring = if ctxFor s k core = some n then some k else (ctx s n).ring := by
  simp only [State.bind_, List.foldl_cons, List.foldl_nil]
  cases h : ctxFor s k core with
  | none => simp
  | some m =>
    simp only [ctx_wantCore, ctx_modCtx, Option.some.injEq]
    by_cases e : n = m
    · subst e
      simp only [if_true]
      split <;> rfl
    · simp [e, Ne.symm e]

theorem boundCtx_isSome {s : State} {k core : Nat} :
    (boundCtx s k core).isSome = true ↔ ∃ n ∈ ctxNums core, (ctx s n).ring = some k := by
  simp [boundCtx, List.find?_isSome]

theorem ctxFor_isSome {s : State} {k core : Nat} : (ctxFor s k core).isSome = true ↔
    ∃ n ∈ ctxNums core, (ctx s n).ring = some k ∨ (ctx s n).ring = none := by
  unfold ctxFor
  split
  next n h =>
    have hn := boundCtx_isSome.1 (Option.isSome_of_eq_some h)
    simpa using hn.imp fun m hm => ⟨hm.1, .inl hm.2⟩
  next h =>
    have hn : ¬∃ n ∈ ctxNums core, (ctx s n).ring = some k := fun e => by
      simpa [h] using boundCtx_isSome.2 e
    simp only [List.find?_isSome, Option.isNone_iff_eq_none]
    exact exists_congr fun m => and_congr_right fun hm => ⟨.inr, fun e => e.resolve_left fun e => hn ⟨m, hm, e⟩⟩

/-- The context that a core gives a ring is one of its own. -/
theorem ctxFor_mem {s : State} {k core n : Nat} (h : ctxFor s k core = some n) : n ∈ ctxNums core := by
  unfold ctxFor at h
  split at h
  next m e =>
    cases h
    exact List.mem_of_find?_eq_some e
  next => exact List.mem_of_find?_eq_some h

/-- A bound context stays bound. -/
theorem ring_bind (s : State) (k prio : Nat) (cores : List Nat) {n : Nat} (h : (ctx s n).ring = some k) :
    (ctx (s.bind_ k prio cores) n).ring = some k := by
  induction cores generalizing s with
  | nil => exact h
  | cons core cores ih =>
    refine ih (s.bind_ k prio [core]) ?_
    rw [ring_bind_one]
    split
    · rfl
    · exact h

/-- A core that can be bound can be bound after another is. -/
theorem ctxFor_bind_one {s : State} {k core : Nat} (prio other : Nat) (h : (ctxFor s k core).isSome = true) :
    (ctxFor (s.bind_ k prio [other]) k core).isSome = true := by
  obtain ⟨n, hn, hr⟩ := ctxFor_isSome.1 h
  refine ctxFor_isSome.2 ⟨n, hn, ?_⟩
  rw [ring_bind_one]
  split
  · exact .inl rfl
  · exact hr

/-- Where every core can be bound, binding them binds them all (R126). -/
theorem boundCtx_bind {s : State} {k : Nat} (prio : Nat) {cores : List Nat} (h : canBind s k cores = true) :
    ∀ core ∈ cores, (boundCtx (s.bind_ k prio cores) k core).isSome = true := by
  induction cores generalizing s with
  | nil => exact fun _ h => absurd h List.not_mem_nil
  | cons c cores ih =>
    simp only [canBind, List.all_cons, Bool.and_eq_true, List.all_eq_true] at h
    obtain ⟨hc, hcs⟩ := h
    intro core hm
    rcases List.mem_cons.1 hm with rfl | hm
    · obtain ⟨n, hn⟩ := Option.isSome_iff_exists.1 hc
      refine boundCtx_isSome.2 ⟨n, ctxFor_mem hn, ring_bind (s.bind_ k prio [core]) k prio cores ?_⟩
      rw [ring_bind_one, if_pos hn]
    · exact ih (List.all_eq_true.2 fun c' hc' => ctxFor_bind_one prio c (hcs c' hc')) core hm

/-- The end of a command leaves the rings that contexts are bound to. -/
theorem ring_endCmd (s : State) (id st n : Nat) : (ctx (s.endCmd id st) n).ring = (ctx s n).ring := by
  have hwake (t : State) (m : Nat) : (ctx (t.ctxWakes m) n).ring = (ctx t n).ring := by
    unfold State.ctxWakes
    split
    · rw [ctx_wantCore, ctx_modCtx]
      split
      next e => rw [e]
      next => rfl
    · rfl
  have hsettle (t : State) (p : Nat) : (ctx (t.settleWait p) n).ring = (ctx t n).ring := by
    unfold State.settleWait
    split
    · split <;> rfl
    · rfl
  have hwakes : (ctx (s.cmdWakes id) n).ring = (ctx s n).ring := by
    unfold State.cmdWakes
    split
    next c _ =>
      have h : (ctx (((cmdCtxs s c).foldl State.ctxWakes (s.modCmd id (fun c => { c with wait := .none }))).settleWait c.part) n).ring =
          (ctx s n).ring :=
        (hsettle _ _).trans (foldl_keep (fun t => (ctx t n).ring) State.ctxWakes hwake _ _)
      dsimp only
      split
      · exact (foldl_keep (fun t => (ctx t n).ring) _ (fun _ _ => by rfl) _ _).trans h
      · exact h
    next => rfl
  unfold State.endCmd
  split
  next c _ =>
    split
    · rfl
    · have h : (ctx ((cmdClusters s c.part c.bits).foldl State.stirCluster (c.units.foldl State.stirGroup (s.cmdWakes id))) n).ring =
          (ctx s n).ring :=
        ((foldl_keep (fun t => (ctx t n).ring) State.stirCluster (fun _ _ => by rfl) _ _).trans
          (foldl_keep (fun t => (ctx t n).ring) State.stirGroup (fun _ _ => by rfl) _ _)).trans hwakes
      dsimp only
      split <;> exact h
  next => rfl

theorem boundCtx_congr {s t : State} (h : ∀ n, (ctx t n).ring = (ctx s n).ring) (k core : Nat) :
    boundCtx t k core = boundCtx s k core := by simp only [boundCtx, h]

theorem boundCtx_finishCmd (s : State) (id k core : Nat) : boundCtx (s.finishCmd id) k core = boundCtx s k core := by
  rcases s.finishCmd_cases id with h | ⟨st, h⟩ <;> rw [h]
  exact boundCtx_congr (ring_endCmd s id st) k core

/-! ### Sleeping clusters -/

theorem wantClusters_asleep (s : State) (l : List Nat) :
    (s.wantClusters l).2 = true ↔ ∃ c ∈ l, (cluster s c).asleep = true := by
  simp only [State.wantClusters, Bool.not_eq_true', ← Bool.not_eq_true, List.isEmpty_iff, List.filter_eq_nil_iff]
  push Not
  rfl

theorem wantClusters_awake {s : State} {l : List Nat} (h : ∀ c ∈ l, (cluster s c).asleep = false) : (s.wantClusters l).2 = false := by
  rw [← Bool.not_eq_true, wantClusters_asleep]
  rintro ⟨c, hc, ha⟩
  simp [h c hc] at ha

/-- One cluster begins to wake. -/
theorem waking_of_wake (t : State) (d c : Nat) (h : c = d ∨ (cluster t c).waking = true) :
    (cluster (if (cluster t d).waking then t
      else (t.modCluster d (fun x => { x with waking := true })).modDie (d / 12) (fun x =>
        { x with clusterWakes := satAdd 32 x.clusterWakes 1 })) c).waking = true := by
  split
  next hd => exact h.elim (fun e => e ▸ hd) id
  next =>
    refine (congrArg Cluster.waking (SMap.get_modify {} t.clusters d c (fun x => { x with waking := true }))).trans ?_
    split
    · rfl
    next e => exact h.resolve_left e

/-- The sleeping clusters that are reached begin to wake (R388). -/
theorem waking_wantClusters (s : State) {l : List Nat} {c : Nat} (hc : c ∈ l) (ha : (cluster s c).asleep = true) :
    (cluster (s.wantClusters l).1 c).waking = true := by
  have hfold (l : List Nat) (t : State) (h : c ∈ l ∨ (cluster t c).waking = true) :
      (cluster (l.foldl (fun t d => if (cluster t d).waking then t
        else (t.modCluster d (fun x => { x with waking := true })).modDie (d / 12) (fun x =>
          { x with clusterWakes := satAdd 32 x.clusterWakes 1 })) t) c).waking = true := by
    induction l generalizing t with
    | nil => exact h.resolve_left List.not_mem_nil
    | cons d l ih =>
      refine ih _ ?_
      by_cases hl : c ∈ l
      · exact .inl hl
      · exact .inr (waking_of_wake t d c (h.imp_left fun h => (List.mem_cons.1 h).resolve_right hl))
  exact hfold _ s (.inl (List.mem_filter.2 ⟨hc, ha⟩))

/-! ### COMMAND_ADMISSION -/

/-- Nothing that R126 asks for but hods is lacking. -/
def Admissible (s : State) (c : Cmd) : Prop :=
  c.wait = .admission ∧ c.checked = true ∧ c.status = none ∧ heldBack s c = false ∧ waitsBehind s c = false ∧
    canBind s c.ring (cmdCores s c.part c.bits) = true ∧
    ∀ cl ∈ cmdClusters s c.part c.bits, slicesNeeded c.bits ≤ (freeSlices s cl).length

/-- `s` with command `c` admitted: it has its streams and slices, and its ring is bound. -/
def State.seat (s : State) (c : Cmd) (streams : List Stream) : State :=
  (s.modCmd c.id (fun c' => { c' with
    admitted := true, wait := .none, streams := streams
    slices := (cmdClusters s c.part c.bits).flatMap (slicesIn s c'.bits) })).bind_ c.ring (envPrio c.bits) (cmdCores s c.part c.bits)

theorem exec_commandAdmission_kept {s : State} {id : Nat} {c : Cmd} (h : s.cmd? id = some c) (hn : ¬Admissible s c) :
    exec (.commandAdmission id) s = .next s := by
  simp only [exec, execCommandAdmission, h]
  refine if_pos (by_contra fun hc => hn ?_)
  simpa [Admissible, and_assoc] using hc

/-- The stream that an admitted RUN_PERSIST makes (R135). -/
def Persist.made (id : Nat) (c : Cmd) (st : Stream) : Persist :=
  { handle := id, part := c.part, stream := st, seed := c.seed, step := c.step, scales := c.scales, inPass := true, pass := c.pass }

/-- `s` with a stream made under handle `id`, which is the result of the command that made it. -/
def State.makeStream (s : State) (id : Nat) (x : Persist) : State :=
  { s with persists := s.persists ++ [x] }.setResult id (BitVec.ofNat 64 id)

/-- What COMMAND_ADMISSION makes of `s` where each stream has found its hod. -/
def State.admission (s : State) (c : Cmd) (streams : List Stream) : State :=
  if (s.wantClusters (cmdClusters s c.part c.bits)).2 then (s.wantClusters (cmdClusters s c.part c.bits)).1
  else if isPersistRun c.bits then
    match streams with
    | st :: _ => ((s.seat c streams).makeStream c.id (Persist.made c.id c st)).finishCmd c.id
    | [] => s.seat c streams
  else (s.seat c streams).checkEnd c.id

theorem exec_commandAdmission {s : State} {c : Cmd} (h : s.cmd? c.id = some c) (ha : Admissible s c) :
    exec (.commandAdmission c.id) s =
      .next ((placeAll s c (isPersistRun c.bits) (cmdClusters s c.part c.bits)).elim s (s.admission c)) := by
  obtain ⟨hw, hk, hst, hb, hwb, hcb, hfs⟩ := ha
  have hcond : ¬(c.wait != .admission || !c.checked || c.status.isSome || heldBack s c || waitsBehind s c ||
      !canBind s c.ring (cmdCores s c.part c.bits) ||
      (cmdClusters s c.part c.bits).any (fun cl => decide ((freeSlices s cl).length < slicesNeeded c.bits))) = true := by
    simpa [hw, hk, hst, hb, hwb, hcb] using hfs
  simp only [exec, execCommandAdmission, h]
  rw [if_neg hcond]
  split
  next e => rw [e]; rfl
  next streams e =>
    rw [e, Option.elim_some]
    unfold State.admission
    split
    · rfl
    · split
      · cases streams <;> rfl
      · rfl

theorem admission_asleep {s : State} {c : Cmd} (h : (s.wantClusters (cmdClusters s c.part c.bits)).2 = true) (streams : List Stream) :
    s.admission c streams = (s.wantClusters (cmdClusters s c.part c.bits)).1 := if_pos h

theorem admission_run {s : State} {c : Cmd} (h : (s.wantClusters (cmdClusters s c.part c.bits)).2 = false)
    (hp : isPersistRun c.bits = false) (streams : List Stream) : s.admission c streams = (s.seat c streams).checkEnd c.id := by
  unfold State.admission
  rw [h, hp]
  rfl

theorem admission_persist {s : State} {c : Cmd} (h : (s.wantClusters (cmdClusters s c.part c.bits)).2 = false)
    (hp : isPersistRun c.bits = true) (st : Stream) (sts : List Stream) :
    s.admission c (st :: sts) = ((s.seat c (st :: sts)).makeStream c.id (Persist.made c.id c st)).finishCmd c.id := by
  unfold State.admission
  rw [h, hp]
  rfl

theorem seat_frame (s : State) (c : Cmd) (streams : List Stream) : CmdFrame s (s.seat c streams) :=
  (s.modCmd_frame _ _).trans (State.bind_frame _ _ _ _)

/-- The command with what its admission gives it. -/
def Cmd.given (s : State) (c : Cmd) (streams : List Stream) : Cmd :=
  { c with
    admitted := true, wait := .none, streams := streams
    slices := (cmdClusters s c.part c.bits).flatMap (slicesIn s c.bits) }

theorem cmd?_seat {s : State} {c : Cmd} (h : s.cmd? c.id = some c) (streams : List Stream) :
    (s.seat c streams).cmd? c.id = some (c.given s streams) := by
  rw [State.seat, State.cmd?_congr (State.bind_cmds _ _ _ _), State.cmd?_modCmd_same h]
  rfl

/-- Every core of an admitted command has a context for its ring. -/
theorem boundCtx_seat {s : State} {c : Cmd} (h : canBind s c.ring (cmdCores s c.part c.bits) = true) (streams : List Stream) :
    ∀ core ∈ cmdCores s c.part c.bits, (boundCtx (s.seat c streams) c.ring core).isSome = true :=
  boundCtx_bind (s := s.modCmd c.id _) _ h

/-- The command of an admitted RUN_PERSIST ends with the handle as its result (R135). -/
theorem cmd?_makeStream_finish {s : State} {c : Cmd} (h : s.cmd? c.id = some c) (hst : c.status = none)
    (hp : isPersistRun c.bits = true) (streams : List Stream) (x : Persist) :
    (((s.seat c streams).makeStream c.id x).finishCmd c.id).cmd? c.id = some { c.given s streams with
      status := some (c.late.getD St.done), result := BitVec.ofNat 64 c.id } := by
  have hm : ((s.seat c streams).makeStream c.id x).cmd? c.id = some { c.given s streams with result := BitVec.ofNat 64 c.id } :=
    State.cmd?_modCmd_same (cmd?_seat h streams) _
  have h2 : envClass c.bits = 2 := by
    simp only [isPersistRun, Bool.and_eq_true, beq_iff_eq] at hp
    exact hp.1
  unfold State.finishCmd
  rw [hm]
  dsimp only
  rw [State.endCmd_cmd? _ _ _ _ hm hst]
  simp [Cmd.given, h2]

theorem seat_persists (s : State) (c : Cmd) (streams : List Stream) : (s.seat c streams).persists = s.persists := by
  unfold State.seat State.bind_
  refine (foldl_keep State.persists _ (fun t core => ?_) _ _).trans rfl
  split
  · exact State.wantCore_field State.persists (fun _ _ _ => rfl) (fun _ _ _ => rfl) _ _
  · rfl

/-- The stream made stands under its handle, and the end of its command leaves it. -/
theorem persist?_makeStream_finish {s : State} {c : Cmd} (h : persist? s c.id = none) (streams : List Stream) (st : Stream) :
    ∃ f : Persist → Persist, (f = id ∨ f = Persist.without c.id) ∧
      persist? (((s.seat c streams).makeStream c.id (Persist.made c.id c st)).finishCmd c.id) c.id =
        some (f (Persist.made c.id c st)) := by
  have hm : persist? ((s.seat c streams).makeStream c.id (Persist.made c.id c st)) c.id = some (Persist.made c.id c st) := by
    show ((s.seat c streams).persists ++ [Persist.made c.id c st]).find? _ = _
    rw [seat_persists, List.find?_append]
    simp only [persist?] at h
    simp [h, Persist.made]
  rcases persist?_finishCmd ((s.seat c streams).makeStream c.id (Persist.made c.id c st)) c.id c.id with e | e <;> rw [e, hm]
  · exact ⟨id, .inl rfl, rfl⟩
  · exact ⟨_, .inr rfl, rfl⟩

/-! ### The obligation -/

/-- Settles O32: one case for each answer of REARM_APPLY, PERSISTENT_STREAM_RELEASE and COMMAND_ADMISSION. -/
theorem streamsAndAdmission : Obligations.StreamsAndAdmission := by
  refine ⟨fun s h _ => ⟨fun x r rs c hx hp hr hc => ?_, exec_rearmApply_idle, fun x hx he hp hr => ?_,
    exec_persistentStreamRelease_idle⟩, fun s id c _ h => ?_⟩
  · exact ⟨_, _, exec_rearmApply hx hp hr hc, persist?_beginPass_same r rs c hx, rfl, rfl, rfl, rfl, rfl, rfl, rfl, rfl,
      fun _ => persist?_beginPass_other r rs c, regFld_beginPass r rs c, beginPass_rest r rs c⟩
  · rw [exec_persistentStreamRelease hx, if_pos ⟨he, hp, hr⟩]
    cases hi : x.releaseCmd with
    | none =>
      exact ⟨_, rfl, persist?_dropStream_same s h x, fun _ => rfl, fun _ _ e => absurd e.symm (Option.some_ne_none _),
        fun _ j hj => persist?_dropStream_other s hj x⟩
    | some i =>
      refine ⟨_, rfl, ?_, ((s.dropStream h x).finishCmd_frame i).bytes, fun j c e hc hs => ?_, nofun⟩
      · rcases persist?_finishCmd (s.dropStream h x) i h with e | e <;> simp [e, persist?_dropStream_same]
      · cases e
        exact State.finishCmd_ended (s := s.dropStream h x) hc hs
  obtain rfl := (State.cmd?_mem h).2
  intro cls cores able taken
  refine ⟨exec_commandAdmission_kept h, fun ha hp => ?_, fun ha streams hp =>
    ⟨fun hsl => ?_, fun haw hrun => ?_, fun haw hrun st sts hss => ?_⟩⟩
  · rw [exec_commandAdmission h ha, hp, Option.elim_none]
  all_goals rw [exec_commandAdmission h ha, hp, Option.elim_some]
  · rw [admission_asleep ((wantClusters_asleep s cls).2 hsl)]
    exact ⟨_, rfl, s.wantClusters_frame cls, s.wantClusters_cmds cls, fun cl hcl has => waking_wantClusters s hcl has⟩
  · rw [admission_run (wantClusters_awake haw) hrun]
    obtain ⟨-, -, -, -, -, hbind, -⟩ := ha
    exact ⟨s.seat c streams, rfl, ⟨⟨_, cmd?_seat h streams, rfl, rfl, rfl, rfl⟩, boundCtx_seat hbind streams⟩,
      seat_frame s c streams⟩
  · subst hss
    rw [admission_persist (wantClusters_awake haw) hrun]
    obtain ⟨-, -, hst, -, -, hbind, -⟩ := ha
    have hcmd := cmd?_makeStream_finish h hst hrun (st :: sts) (Persist.made c.id c st)
    have hf := State.finishCmd_frame ((s.seat c (st :: sts)).makeStream c.id (Persist.made c.id c st)) c.id
    refine ⟨_, rfl, ⟨⟨_, hcmd, rfl, rfl, rfl, rfl⟩, fun core hc => ?_⟩, ⟨_, hcmd, rfl⟩, ⟨_, hcmd, rfl⟩, fun hnone => ?_,
      fun a => (hf.bytes a).trans ((seat_frame s c (st :: sts)).bytes a)⟩
    · rw [boundCtx_finishCmd]
      exact boundCtx_seat hbind (st :: sts) core hc
    · obtain ⟨f, hf, hp⟩ := persist?_makeStream_finish hnone (st :: sts) st
      refine ⟨_, hp, ?_⟩
      rcases hf with rfl | rfl <;> exact ⟨rfl, rfl, rfl, rfl, rfl, rfl⟩

end Sys2Proof.Machine

/-! ## The guard push and the precision audit (O25)

Both operations go over guard slots. A push gives a slot what `Guard.push` makes of it and may raise an event, which leaves every
slot; so the fold over the partition's slots pushes each slot once. A slot that the partition has not stored holds the reset value,
which a push leaves as it is. -/

namespace Sys2Proof.Machine

/-! ### Guard slots and their events -/

theorem guardKey_inj {p i j : Nat} (h : guardKey p i = guardKey p j) : i = j := by
  simp only [guardKey] at h; omega

/-- Slots below 1,024 of two partitions lie apart. -/
theorem guardKey_eq_iff {p q i j : Nat} (hi : i < 1024) (hj : j < 1024) : guardKey q j = guardKey p i ↔ q = p ∧ j = i := by
  simp only [guardKey]; omega

theorem guard_congr {s t : State} (h : t.guards = s.guards) (p i : Nat) : guard t p i = guard s p i := by
  rw [guard, guard, h]

theorem guard_modGuard (s : State) (p i q j : Nat) (f : Guard → Guard) :
    guard (s.modGuard p i f) q j = if guardKey q j = guardKey p i then f (guard s p i) else guard s q j := by
  rw [guard, State.modGuard, SMap.get_modify]
  rfl

theorem qgPage_congr {s t : State} (h : t.settings = s.settings) (p : Nat) : qgPage t p = qgPage s p := by
  simp only [qgPage, firstDie, diesPer, h]

theorem OnlyEvents.guards {s t : State} (h : OnlyEvents s t) : t.guards = s.guards := by
  have e := congrArg State.guards h; exact e

theorem OnlyEvents.audits {s t : State} (h : OnlyEvents s t) : t.audits = s.audits := by
  have e := congrArg State.audits h; exact e

theorem OnlyEvents.ledgers {s t : State} (h : OnlyEvents s t) : t.ledgers = s.ledgers := by
  have e := congrArg State.ledgers h; exact e

/-- A quantisation event as it is counted, before it is raised (Table FMT-18). -/
def State.guardCount (s : State) (p i : Nat) : State :=
  (s.bump (qgPage s p) Reg.qgEvt 31 0 1).setRegFld (qgPage s p) Reg.qgEvt 41 32 i

theorem guardEvent_eq (s : State) (p i n : Nat) :
    s.guardEvent p i n = (s.guardCount p i).raise_ (qgPage s p) n { d1 := ids16 [i] } := rfl

theorem State.guardCount_onlyEvents (s : State) (p i : Nat) : OnlyEvents s (s.guardCount p i) :=
  (s.bump_onlyEvents _ _ _ _ _).trans (State.setReg_onlyEvents _ _ _ _)

theorem State.guardEvent_onlyEvents (s : State) (p i n : Nat) : OnlyEvents s (s.guardEvent p i n) :=
  (s.guardCount_onlyEvents p i).raise_ _ _ _

/-- Counting a quantisation event changes no event bit. -/
theorem guardCount_irq (s : State) (p i g : Nat) : (s.guardCount p i).reg g Reg.irqStat = s.reg g Reg.irqStat := by
  rw [State.guardCount, State.setRegFld, reg_setReg_place _ _ _ _ _ _ (by decide) (by decide) (by decide), State.bump,
    State.setRegFld, reg_setReg_place _ _ _ _ _ _ (by decide) (by decide) (by decide)]

/-- `s` with other guard slots. -/
def State.withGuards (s : State) (g : SMap Guard) : State := { s with guards := g }

/-- From `s` to `t` guard slots change and events are raised; no event bit goes. -/
structure GuardsMove (s t : State) : Prop where
  rest : OnlyEvents (s.withGuards t.guards) t
  irq : ∀ g n, (s.reg g Reg.irqStat).testBit n = true → (t.reg g Reg.irqStat).testBit n = true

theorem GuardsMove.refl (s : State) : GuardsMove s s := ⟨rfl, fun _ _ h => h⟩

theorem GuardsMove.trans {s t u : State} (h : GuardsMove s t) (k : GuardsMove t u) : GuardsMove s u := by
  have e : OnlyEvents (s.withGuards u.guards) (t.withGuards u.guards) :=
    congrArg (fun x : State => x.withGuards u.guards) h.rest
  exact ⟨e.trans k.rest, fun g n e => k.irq g n (h.irq g n e)⟩

theorem GuardsMove.settings {s t : State} (h : GuardsMove s t) : t.settings = s.settings := h.rest.settings

theorem State.modGuard_move (s : State) (p i : Nat) (f : Guard → Guard) : GuardsMove s (s.modGuard p i f) :=
  ⟨rfl, fun _ _ h => h⟩

theorem GuardsMove.of_onlyEvents {s t : State} (h : OnlyEvents s t)
    (hi : ∀ g n, (s.reg g Reg.irqStat).testBit n = true → (t.reg g Reg.irqStat).testBit n = true) : GuardsMove s t :=
  ⟨by rw [h.guards]; exact h, hi⟩

theorem State.guardEvent_move (s : State) (p i n : Nat) (hs : s.settings.partitions ≤ 4) : GuardsMove s (s.guardEvent p i n) := by
  refine .of_onlyEvents (s.guardEvent_onlyEvents p i n) fun g m h => ?_
  rw [guardEvent_eq]
  exact ((s.guardCount p i).raise_aside _ _ _ hs).irq g m (by rw [guardCount_irq]; exact h)

theorem State.guardEvent_bit (s : State) (p i : Nat) {n : Nat} (hn : n < 64) (hs : s.settings.partitions ≤ 4) :
    ((s.guardEvent p i n).reg (qgPage s p) Reg.irqStat).testBit n = true :=
  (s.guardCount p i).raise_bit (qgPage s p) n _ hn hs

/-! ### One slot at the push (R60, R61) -/

/-- One slot takes its push, and the event when its SCALE cannot be formed. -/
def State.pushSlot (s : State) (p i : Nat) : State :=
  if (guard s p i).push.2 then (s.modGuard p i (fun _ => (guard s p i).push.1)).guardEvent p i 3
  else s.modGuard p i (fun _ => (guard s p i).push.1)

theorem guard_pushSlot (s : State) (p i q j : Nat) :
    guard (s.pushSlot p i) q j = if guardKey q j = guardKey p i then (guard s p i).push.1 else guard s q j := by
  unfold State.pushSlot
  split
  · rw [guard_congr (State.guardEvent_onlyEvents _ _ _ _).guards, guard_modGuard]
  · rw [guard_modGuard]

theorem State.pushSlot_move (s : State) (p i : Nat) (hs : s.settings.partitions ≤ 4) : GuardsMove s (s.pushSlot p i) := by
  unfold State.pushSlot
  split
  · exact (s.modGuard_move p i _).trans (State.guardEvent_move _ _ _ _ hs)
  · exact s.modGuard_move p i _

theorem State.pushSlot_bit {s : State} {p i : Nat} (hs : s.settings.partitions ≤ 4) (h : (guard s p i).push.2 = true) :
    ((s.pushSlot p i).reg (qgPage s p) Reg.irqStat).testBit 3 = true := by
  rw [State.pushSlot, if_pos h]
  exact State.guardEvent_bit _ _ _ (by decide) hs

/-- A slot that nothing has written takes a push without effect. -/
theorem push_default : ({} : Guard).push = ({}, false) := by decide

/-- A slot with CONFIG in force: RESET clears, and takes the history and the counts with it. -/
def Guard.opened (g : Guard) : Guard :=
  if g.config.getLsbD 31 then
    { amax := g.amax, touched := g.touched, margin := fld g.config.toNat 7 5, format := fld g.config.toNat 3 0,
      config := g.config &&& 0x7FFFFFFF }
  else { g with margin := fld g.config.toNat 7 5, format := fld g.config.toNat 3 0, config := g.config &&& 0x7FFFFFFF }

/-- A slot with the amax of its step pushed into its history. -/
def Guard.pushed (g : Guard) : Guard :=
  { g with hist := g.hist.set g.head g.amax, head := (g.head + 1) % 16, count := Nat.min 16 (g.count + 1), amax := 0, touched := false }

theorem push_eq (g : Guard) : g.push =
    if g.touched then
      ({ g.opened.pushed with scale := (guardScale (guardH g.opened.pushed) g.opened.margin g.opened.format g.opened.scale).1 },
        (guardScale (guardH g.opened.pushed) g.opened.margin g.opened.format g.opened.scale).2)
    else (g.opened, false) := rfl

theorem opened_reset {g : Guard} (h : g.config.getLsbD 31 = true) : g.opened =
    { amax := g.amax, touched := g.touched, margin := fld g.config.toNat 7 5, format := fld g.config.toNat 3 0,
      config := g.config &&& 0x7FFFFFFF } := if_pos h

theorem opened_keep {g : Guard} (h : g.config.getLsbD 31 = false) : g.opened =
    { g with margin := fld g.config.toNat 7 5, format := fld g.config.toNat 3 0, config := g.config &&& 0x7FFFFFFF } :=
  if_neg (Bool.eq_false_iff.1 h)

theorem opened_config (g : Guard) : g.opened.config = g.config &&& 0x7FFFFFFF := by
  unfold Guard.opened; split <;> rfl

theorem opened_margin (g : Guard) : g.opened.margin = fld g.config.toNat 7 5 := by
  unfold Guard.opened; split <;> rfl

theorem opened_format (g : Guard) : g.opened.format = fld g.config.toNat 3 0 := by
  unfold Guard.opened; split <;> rfl

theorem opened_scale (g : Guard) : g.opened.scale = if g.config.getLsbD 31 then 0x3F800000 else g.scale := by
  unfold Guard.opened; split <;> rfl

theorem opened_touched (g : Guard) : g.opened.touched = g.touched := by
  unfold Guard.opened; split <;> rfl

theorem push_of_touched {g : Guard} (h : g.touched = true) : g.push =
    ({ g.opened.pushed with scale := (guardScale (guardH g.opened.pushed) g.opened.margin g.opened.format g.opened.scale).1 },
      (guardScale (guardH g.opened.pushed) g.opened.margin g.opened.format g.opened.scale).2) := by rw [push_eq, if_pos h]

theorem push_of_untouched {g : Guard} (h : g.touched = false) : g.push = (g.opened, false) := by
  rw [push_eq, if_neg (Bool.eq_false_iff.1 h)]

/-- A slot written in the step or not, CONFIG comes into force, and the next step starts unwritten. -/
theorem push_inForce (g : Guard) : g.push.1.config = g.config &&& 0x7FFFFFFF ∧ g.push.1.margin = fld g.config.toNat 7 5 ∧
    g.push.1.format = fld g.config.toNat 3 0 ∧ g.push.1.touched = false := by
  cases h : g.touched with
  | false => rw [push_of_untouched h]; exact ⟨opened_config g, opened_margin g, opened_format g, (opened_touched g).trans h⟩
  | true => rw [push_of_touched h]; exact ⟨opened_config g, opened_margin g, opened_format g, rfl⟩

/-- A slot that the step did not write keeps all but CONFIG's values. -/
theorem push_keep {g : Guard} (ht : g.touched = false) (hr : g.config.getLsbD 31 = false) :
    g.push.1 = { g with config := g.push.1.config, margin := g.push.1.margin, format := g.push.1.format } := by
  rw [push_of_untouched ht, opened_keep hr]

theorem push_reset {g : Guard} (ht : g.touched = false) (hr : g.config.getLsbD 31 = true) :
    g.push.1 = { amax := g.amax, config := g.push.1.config, margin := g.push.1.margin, format := g.push.1.format } := by
  rw [push_of_untouched ht, opened_reset hr, ht]

theorem push_amax {g : Guard} (ht : g.touched = true) : g.push.1.amax = 0 := by rw [push_of_touched ht]; rfl

theorem push_hist {g : Guard} (ht : g.touched = true) (hr : g.config.getLsbD 31 = false) :
    g.push.1.hist = g.hist.set g.head g.amax ∧ g.push.1.head = (g.head + 1) % 16 ∧ g.push.1.count = Nat.min 16 (g.count + 1) := by
  rw [push_of_touched ht, opened_keep hr]
  exact ⟨rfl, rfl, rfl⟩

/-- R61: the SCALE of a pushed slot, and its event. H is formed from the history, not from SCALE. -/
theorem push_scale {g : Guard} (ht : g.touched = true) :
    g.push.1.scale = (guardScale (guardH g.push.1) g.push.1.margin g.push.1.format
      (if g.config.getLsbD 31 then 0x3F800000 else g.scale)).1 ∧
    g.push.2 = (guardScale (guardH g.push.1) g.push.1.margin g.push.1.format
      (if g.config.getLsbD 31 then 0x3F800000 else g.scale)).2 := by
  rw [push_of_touched ht, ← opened_scale]
  exact ⟨rfl, rfl⟩

/-- Whether SCALE can be formed does not depend on the one in force. -/
theorem guardScale_event (h : F32) (margin format : Nat) (a b : F32) :
    (guardScale h margin format a).2 = (guardScale h margin format b).2 := by
  unfold guardScale
  split
  · rfl
  · cases h.num <;> rfl

/-! ### The push of a partition (R60) -/

/-- Every slot of a list takes its push. -/
def State.pushSlots (s : State) (p : Nat) (l : List Nat) : State := l.foldr (fun i t => t.pushSlot p i) s

theorem State.pushSlots_move (s : State) (p : Nat) (l : List Nat) (hs : s.settings.partitions ≤ 4) :
    GuardsMove s (s.pushSlots p l) := by
  induction l with
  | nil => exact .refl s
  | cons i l ih => exact ih.trans (State.pushSlot_move _ p i (by rw [ih.settings]; exact hs))

theorem guard_pushSlots (s : State) {p : Nat} {l : List Nat} (hl : l.Nodup) (hb : ∀ i ∈ l, i < 1024) :
    ∀ q, ∀ j < 1024, guard (s.pushSlots p l) q j = if q = p ∧ j ∈ l then (guard s q j).push.1 else guard s q j := by
  induction l with
  | nil => intro q j _; simp [State.pushSlots]
  | cons i l ih =>
    intro q j hj
    obtain ⟨hi, hl'⟩ := List.nodup_cons.1 hl
    obtain ⟨hib, hb'⟩ := List.forall_mem_cons.1 hb
    have hstep : guard (s.pushSlots p (i :: l)) q j =
        if guardKey q j = guardKey p i then (guard (s.pushSlots p l) p i).push.1 else guard (s.pushSlots p l) q j :=
      guard_pushSlot _ p i q j
    by_cases e : q = p ∧ j = i
    · obtain ⟨rfl, rfl⟩ := e
      rw [hstep, if_pos rfl, ih hl' hb' q j hj, if_neg (fun e => hi e.2), if_pos ⟨rfl, List.mem_cons_self ..⟩]
    · rw [hstep, if_neg (mt (guardKey_eq_iff hib hj).1 e), ih hl' hb' q j hj]
      refine if_congr (and_congr_right fun hq => ?_) rfl rfl
      simp [show j ≠ i from fun h => e ⟨hq, h⟩]

/-- A SCALE that cannot be formed has raised its event. -/
theorem pushSlots_bit {s : State} {p : Nat} {l : List Nat} (hs : s.settings.partitions ≤ 4) (hl : l.Nodup)
    (hb : ∀ i ∈ l, i < 1024) {i : Nat} (hi : i ∈ l) (h : (guard s p i).push.2 = true) :
    ((s.pushSlots p l).reg (qgPage s p) Reg.irqStat).testBit 3 = true := by
  induction l with
  | nil => simp at hi
  | cons k l ih =>
    obtain ⟨hk, hl'⟩ := List.nodup_cons.1 hl
    obtain ⟨hkb, hb'⟩ := List.forall_mem_cons.1 hb
    have hm := s.pushSlots_move p l hs
    have hs' : (s.pushSlots p l).settings.partitions ≤ 4 := by rw [hm.settings]; exact hs
    rcases List.mem_cons.1 hi with rfl | hi
    · have hg : guard (s.pushSlots p l) p i = guard s p i := by
        rw [guard_pushSlots s hl' hb' p i hkb, if_neg (fun e => hk e.2)]
      rw [← qgPage_congr hm.settings p]
      exact State.pushSlot_bit hs' (hg ▸ h)
    · exact (State.pushSlot_move _ p k hs').irq _ _ (ih hl' hb' hi)

/-- The slots of a partition that something has written. -/
def storedSlots (s : State) (p : Nat) : List Nat :=
  ((s.guards.filter (fun e => e.1 / 1024 == p)).map (fun e => e.1 % 1024)).dedup

theorem storedSlots_lt {s : State} {p : Nat} : ∀ i ∈ storedSlots s p, i < 1024 := by
  intro i hi
  obtain ⟨e, -, rfl⟩ := List.mem_map.1 (List.mem_dedup.1 hi)
  exact Nat.mod_lt _ (by decide)

/-- A map reads as the default where it has no entry. -/
theorem get_of_no_key {α : Type} (d : α) {k : Nat} : ∀ {m : SMap α}, (∀ e ∈ m, e.1 ≠ k) → SMap.get d m k = d
  | [], _ => rfl
  | (_, _) :: _, h => by
    obtain ⟨h1, h2⟩ := List.forall_mem_cons.1 h
    rw [SMap.get, if_neg (fun e => h1 e.symm), get_of_no_key d h2]

theorem guard_of_not_stored {s : State} {p i : Nat} (hi : i < 1024) (h : i ∉ storedSlots s p) : guard s p i = {} := by
  refine get_of_no_key _ fun e he hk => h (List.mem_dedup.2 (List.mem_map.2 ⟨e, List.mem_filter.2 ⟨he, ?_⟩, ?_⟩)) <;>
    simp only [guardKey, beq_iff_eq] at hk ⊢ <;> omega

/-- Every slot of the partition takes its push, stored or not, and no slot of another. -/
theorem guard_pushStored (s : State) (p q i : Nat) (hi : i < 1024) :
    guard (s.pushSlots p (storedSlots s p)) q i = if q = p then (guard s q i).push.1 else guard s q i := by
  rw [guard_pushSlots (l := storedSlots s p) s (List.nodup_dedup _) storedSlots_lt q i hi]
  by_cases hm : i ∈ storedSlots s p
  · simp only [hm, and_true]
  · rw [if_neg (fun e => hm e.2)]
    split
    · rename_i hq
      rw [hq, guard_of_not_stored hi hm, push_default]
    · rfl

theorem pushStored_bit {s : State} {p i : Nat} (hs : s.settings.partitions ≤ 4) (hi : i < 1024) (h : (guard s p i).push.2 = true) :
    ((s.pushSlots p (storedSlots s p)).reg (qgPage s p) Reg.irqStat).testBit 3 = true := by
  refine pushSlots_bit hs (List.nodup_dedup _) storedSlots_lt ?_ h
  by_contra hm
  rw [guard_of_not_stored hi hm, push_default] at h
  exact Bool.false_ne_true h

/-! ### GUARD_HISTORY_PUSH -/

/-- The push of a partition, with its STEP_BEGIN waiting for nothing more. -/
def State.pushStored (s : State) (p : Nat) : State :=
  (s.pushSlots p (storedSlots s p)).modLedger p (fun l => { l with pushWait := none })

theorem exec_guardPush_idle {s : State} {p : Nat} (h : (ledger s p).pushWait = none) :
    exec (.guardHistoryPush p) s = .next s := by
  simp only [exec, execGuardHistoryPush, h]

/-- While a command that STEP_BEGIN waits for is unfinished nothing happens, and then the slots take their push. -/
theorem exec_guardPush {s : State} {p id : Nat} {ids : List Nat} (hw : (ledger s p).pushWait = some (id, ids)) :
    exec (.guardHistoryPush p) s =
      .next (if s.cmds.any (fun c => ids.contains c.id && c.status.isNone) then s else (s.pushStored p).finishCmd id) := by
  simp only [exec, execGuardHistoryPush, hw]
  split <;> rfl

theorem CmdFrame.guards {s t : State} (h : CmdFrame s t) : t.guards = s.guards := by
  have e := congrArg State.guards h.rest; exact e

theorem OnlyEvents.byte {s t : State} (h : OnlyEvents s t) (a : Nat) : t.byte a = s.byte a := by
  rw [State.byte, State.byte, h.mem]

section
variable {s : State} {p : Nat} (hs : s.settings.partitions ≤ 4)
include hs

theorem pushStored_byte (a : Nat) : (s.pushStored p).byte a = s.byte a := (s.pushSlots_move p _ hs).rest.byte a

theorem pushStored_cmd? (id : Nat) : (s.pushStored p).cmd? id = s.cmd? id :=
  State.cmd?_congr (show (s.pushStored p).cmds = s.cmds from (s.pushSlots_move p _ hs).rest.cmds) id

end

theorem ledger_pushStored (s : State) (p : Nat) : (ledger (s.pushStored p) p).pushWait = none := by
  rw [ledger, State.pushStored, State.modLedger, SMap.get_modify_same]

theorem guard_finishedPush (s : State) (p id q i : Nat) (hi : i < 1024) :
    guard ((s.pushStored p).finishCmd id) q i = if q = p then (guard s q i).push.1 else guard s q i :=
  (guard_congr (State.finishCmd_frame _ id).guards q i).trans (guard_pushStored s p q i hi)

/-- The event bits survive the end of STEP_BEGIN. -/
theorem finishedPush_bit {s : State} {p id i : Nat} (hs : s.settings.partitions ≤ 4) (hi : i < 1024)
    (h : (guard s p i).push.2 = true) :
    (((s.pushStored p).finishCmd id).reg (qgPage s p) Reg.irqStat).testBit 3 = true := by
  rw [(State.finishCmd_frame _ id).regs _ _ (by decide) (by decide) (by decide)]
  exact pushStored_bit hs hi h

/-- What the push makes of one slot (R60, R61). -/
structure SlotPushed (g h : Guard) (event : Prop) : Prop where
  config : h.config = g.config &&& 0x7FFFFFFF
  margin : h.margin = fld g.config.toNat 7 5
  format : h.format = fld g.config.toNat 3 0
  touched : h.touched = false
  keep : g.touched = false → g.config.getLsbD 31 = false →
    h = { g with config := h.config, margin := h.margin, format := h.format }
  reset : g.touched = false → g.config.getLsbD 31 = true →
    h = { amax := g.amax, config := h.config, margin := h.margin, format := h.format }
  written : g.touched = true →
    h.amax = 0 ∧
    (g.config.getLsbD 31 = false → h.hist = g.hist.set g.head g.amax ∧ h.head = (g.head + 1) % 16 ∧
      h.count = Nat.min 16 (g.count + 1)) ∧
    h.scale = (guardScale (guardH h) h.margin h.format (if g.config.getLsbD 31 then 0x3F800000 else g.scale)).1 ∧
    ((guardScale (guardH h) h.margin h.format 0).2 = true → event)

theorem slotPushed {g : Guard} {event : Prop} (h : g.push.2 = true → event) : SlotPushed g g.push.1 event := by
  obtain ⟨hc, hm, hf, ht⟩ := push_inForce g
  refine ⟨hc, hm, hf, ht, push_keep, push_reset, fun hw => ⟨push_amax hw, push_hist hw, (push_scale hw).1, fun he => h ?_⟩⟩
  rw [(push_scale hw).2, guardScale_event _ _ _ _ 0]
  exact he

/-! ### TILE_AUDIT (R64, R65) -/

/-- What a sample of the audit makes of a slot. -/
def Guard.sampled (d : F32) (bad : Bool) (x : Guard) : Guard :=
  { x with samples := satAdd 32 x.samples 1, fails := if bad then satAdd 32 x.fails 1 else x.fails, worst := amaxOf x.worst d }

/-- Every slot of a list counts a sample. -/
def State.sampleSlots (s : State) (p : Nat) (d : F32) (bad : Bool) (l : List Nat) : State :=
  l.foldl (fun t g => t.modGuard p g (Guard.sampled d bad)) s

/-- Every slot of a list raises the audit event. -/
def State.auditEvents (s : State) (p : Nat) (l : List Nat) : State := l.foldl (fun t g => t.guardEvent p g 2) s

theorem sampleSlots_rest (s : State) (p : Nat) (d : F32) (bad : Bool) (l : List Nat) (g : SMap Guard) :
    (s.sampleSlots p d bad l).withGuards g = s.withGuards g :=
  foldl_keep (fun t => t.withGuards g) (fun t i => t.modGuard p i (Guard.sampled d bad)) (fun _ _ => rfl) l s

theorem guard_sampleSlots (p : Nat) (d : F32) (bad : Bool) {l : List Nat} : ∀ (s : State), l.Nodup →
    (∀ g ∈ l, guard (s.sampleSlots p d bad l) p g = (guard s p g).sampled d bad) ∧
    ∀ q i, (∀ g ∈ l, guardKey q i ≠ guardKey p g) → guard (s.sampleSlots p d bad l) q i = guard s q i := by
  induction l with
  | nil => exact fun _ _ => ⟨by simp, fun _ _ _ => rfl⟩
  | cons k l ih =>
    intro s hl
    obtain ⟨hk, hl⟩ := List.nodup_cons.1 hl
    obtain ⟨hin, hout⟩ := ih (s.modGuard p k (Guard.sampled d bad)) hl
    have hkey {g : Nat} (hg : g ∈ l) : guardKey p k ≠ guardKey p g := fun e => hk (guardKey_inj e ▸ hg)
    refine ⟨fun g hg => ?_, fun q i h => ?_⟩
    · rcases List.mem_cons.1 hg with rfl | hg
      · refine (hout p g fun _ => hkey).trans ?_
        rw [guard_modGuard, if_pos rfl]
      · refine (hin g hg).trans ?_
        rw [guard_modGuard, if_neg (hkey hg).symm]
    · obtain ⟨h1, h2⟩ := List.forall_mem_cons.1 h
      refine (hout q i h2).trans ?_
      rw [guard_modGuard, if_neg h1]

theorem State.auditEvents_onlyEvents (s : State) (p : Nat) (l : List Nat) : OnlyEvents s (s.auditEvents p l) :=
  .foldl (fun t g => t.guardEvent_onlyEvents p g 2) l s

theorem auditEvents_irq {p : Nat} (l : List Nat) : ∀ {s : State}, s.settings.partitions ≤ 4 → ∀ g n,
    (s.reg g Reg.irqStat).testBit n = true → ((s.auditEvents p l).reg g Reg.irqStat).testBit n = true := by
  induction l with
  | nil => exact fun _ _ _ h => h
  | cons k l ih =>
    intro s hs g n h
    have hm := s.guardEvent_move p k 2 hs
    exact ih (by rw [hm.settings]; exact hs) g n (hm.irq g n h)

theorem auditEvents_bit {s : State} {p : Nat} {l : List Nat} (hs : s.settings.partitions ≤ 4) (hl : l ≠ []) :
    ((s.auditEvents p l).reg (qgPage s p) Reg.irqStat).testBit 2 = true := by
  obtain ⟨k, l, rfl⟩ := List.exists_cons_of_ne_nil hl
  exact auditEvents_irq l (by rw [(s.guardEvent_move p k 2 hs).settings]; exact hs) _ _ (s.guardEvent_bit p k (by decide) hs)

theorem exec_tileAudit_idle {s : State} {core : Nat} (h : ∀ a ∈ s.audits, a.core ≠ core) : exec (.tileAudit core) s = .next s := by
  have hn : s.audits.find? (fun b => b.core == core) = none := by simpa using h
  simp only [exec, execTileAudit, hn]

/-- The slots of an audited tile's on-the-fly operands. -/
def auditSlots (m : Mat) : List Nat := (([m.listA, m.listB].filter onFly).filterMap (fun l => l.map (·.hdr.guard))).dedup

/-- The difference that the audit of a tile finds (R65). -/
def auditD (s : State) (a : Audit) : F32 := auditDiff a.vals (refVals s a.cmd (matRun a.cmd) a.tile)

/-- The audit of a tile fails: d exceeds QG_AUDIT_LIM. -/
def auditBad (s : State) (a : Audit) : Bool :=
  auditFails (BitVec.ofNat 32 (s.regFld (qgPage s a.cmd.part) Reg.qgAuditLim 31 0)) (auditD s a)

/-- `s` with a tile audited: it is off the list, and its slots count the sample. -/
def State.audited (s : State) (a : Audit) : State :=
  State.sampleSlots { s with audits := s.audits.erase a } a.cmd.part (auditD s a) (auditBad s a) (auditSlots (matRun a.cmd))

theorem exec_tileAudit {s : State} {core : Nat} {a : Audit} (h : s.audits.find? (fun b => b.core == core) = some a) :
    exec (.tileAudit core) s = .next (if auditBad s a then
      (s.audited a).auditEvents a.cmd.part (auditSlots (matRun a.cmd)).reverse else s.audited a) := by
  simp only [exec, execTileAudit, h]
  exact (apply_ite Host.Outcome.next _ _ _).symm

theorem audited_rest (s : State) (a : Audit) (g : SMap Guard) :
    (s.audited a).withGuards g = { s with audits := s.audits.erase a }.withGuards g := sampleSlots_rest _ _ _ _ _ g

theorem audited_fields (s : State) (a : Audit) : (s.audited a).audits = s.audits.erase a ∧ (s.audited a).mem = s.mem ∧
    (s.audited a).cmds = s.cmds ∧ (s.audited a).settings = s.settings := by
  have h := audited_rest s a []
  have h1 := congrArg State.audits h
  have h2 := congrArg State.mem h
  have h3 := congrArg State.cmds h
  have h4 := congrArg State.settings h
  exact ⟨h1, h2, h3, h4⟩

theorem audit_guards (s : State) (a : Audit) :
    (∀ g ∈ auditSlots (matRun a.cmd), guard (s.audited a) a.cmd.part g = (guard s a.cmd.part g).sampled (auditD s a) (auditBad s a)) ∧
    ∀ q i, (∀ g ∈ auditSlots (matRun a.cmd), guardKey q i ≠ guardKey a.cmd.part g) →
      guard (s.audited a) q i = guard s q i := guard_sampleSlots _ _ _ { s with audits := s.audits.erase a } (List.nodup_dedup _)

theorem sound_partitions {s : State} (h : Sound s) : s.settings.partitions ≤ 4 := by
  have hp := h.settings.partitions
  simp at hp
  omega

/-- What TILE_AUDIT leaves of the state (R65). -/
structure Audited (s : State) (a : Audit) (t : State) : Prop where
  audits : t.audits = s.audits.erase a
  byte : ∀ b, t.byte b = s.byte b
  cmds : t.cmds = s.cmds
  guards : t.guards = (s.audited a).guards
  event : auditBad s a = true → auditSlots (matRun a.cmd) ≠ [] →
    (t.reg (qgPage s a.cmd.part) Reg.irqStat).testBit 2 = true
  rest : auditBad s a = false ∨ auditSlots (matRun a.cmd) = [] → { t with audits := s.audits, guards := s.guards } = s

theorem exec_tileAudit_audited {s : State} {core : Nat} {a : Audit} (hs : s.settings.partitions ≤ 4)
    (h : s.audits.find? (fun b => b.core == core) = some a) : ∃ t, exec (.tileAudit core) s = .next t ∧ Audited s a t := by
  obtain ⟨haud, hmem, hcmds, hset⟩ := audited_fields s a
  have hrest : { s.audited a with audits := s.audits, guards := s.guards } = s :=
    congrArg (fun t : State => { t with audits := s.audits }) (audited_rest s a s.guards)
  have hbyte (b : Nat) : (s.audited a).byte b = s.byte b := by rw [State.byte, State.byte, hmem]
  rw [exec_tileAudit h]
  refine ⟨_, rfl, ?_⟩
  cases hb : auditBad s a with
  | false =>
    rw [if_neg Bool.false_ne_true]
    exact ⟨haud, hbyte, hcmds, rfl, fun e => absurd (hb.symm.trans e) Bool.false_ne_true, fun _ => hrest⟩
  | true =>
    rw [if_pos rfl]
    have he := (s.audited a).auditEvents_onlyEvents a.cmd.part (auditSlots (matRun a.cmd)).reverse
    refine ⟨he.audits.trans haud, fun b => (he.byte b).trans (hbyte b), he.cmds.trans hcmds, he.guards, fun _ hne => ?_, fun hn => ?_⟩
    · rw [← qgPage_congr hset]
      exact auditEvents_bit (by rw [hset]; exact hs) (by simpa using hne)
    · rcases hn with hn | hn
      · exact absurd (hn.symm.trans hb) Bool.false_ne_true
      · rw [hn]
        exact hrest

/-- Settles O25: the partition's stored slots take their push, and the audited tile's slots their sample. -/
theorem guardPushAndAudit : Obligations.GuardPushAndAudit := by
  refine ⟨fun s p h => ⟨exec_guardPush_idle, fun id ids hw ⟨c, hc, hi, hn⟩ => ?_, fun id ids hw hall => ?_⟩,
    fun s core h => ⟨exec_tileAudit_idle, fun a ha => ?_⟩⟩
  all_goals have hs : s.settings.partitions ≤ 4 := sound_partitions h
  · rw [exec_guardPush hw, if_pos (List.any_eq_true.2 ⟨c, hc, by simp [hi, hn]⟩)]
  · have hdone : ¬(s.cmds.any (fun c => ids.contains c.id && c.status.isNone)) = true := by
      simp only [List.any_eq_true, Bool.and_eq_true, List.contains_iff_mem, Option.isNone_iff_eq_none, not_exists, not_and]
      exact fun c hc hi => hall c hc hi
    have hf := State.finishCmd_frame (s.pushStored p) id
    rw [exec_guardPush hw, if_neg hdone]
    refine ⟨_, rfl, ?_, fun a => (hf.bytes a).trans (pushStored_byte hs a),
      fun c hc hn => State.finishCmd_ended ((pushStored_cmd? hs id).trans hc) hn,
      fun q i hq hi => (guard_finishedPush s p id q i hi).trans (if_neg hq), fun i hi => ?_⟩
    · rw [ledger, hf.ledgers]
      exact ledger_pushStored s p
    · obtain ⟨h1, h2, h3, h4, h5, h6, h7⟩ := slotPushed (finishedPush_bit (s := s) (p := p) (id := id) hs hi)
      rw [guard_finishedPush s p id p i hi, if_pos rfl]
      exact ⟨h1, h2, h3, h4, h5, h6, h7⟩
  · obtain ⟨t, ht, haud, hbyte, hcmds, hg, hevent, hrest⟩ := exec_tileAudit_audited hs ha
    obtain ⟨hin, hout⟩ := audit_guards s a
    exact ⟨t, ht, haud, hbyte, hcmds, fun g hm => (guard_congr hg _ g).trans (hin g hm),
      fun q i hq => (guard_congr hg q i).trans (hout q i hq), hevent, hrest⟩

end Sys2Proof.Machine

/-! ## STEP_BEGIN (O24)

A ledger record lies in HBM, where an extent is one run of keys. A wide write there puts its bytes run after run, access by access;
nothing drops a piece when no access is poisoned. Everything else that STEP_BEGIN does is to the ledger, to QG_STEP and to the log. -/

namespace Sys2Proof.Machine

/-! ### Where an HBM offset lies -/

theorem hbmHomed_le (s : State) (p : Nat) : hbmHomed s p ≤ openBase := by
  have h1 : diesPer s ≤ 4 := Nat.div_le_self 4 s.settings.partitions
  have h2 : 128 * gib - gib * shareOf s p / 4 ≤ 128 * gib := Nat.sub_le _ _
  calc hbmHomed s p ≤ 4 * (128 * gib) := Nat.mul_le_mul h1 h2
    _ ≤ openBase := by decide

theorem isTier1_hbm {s : State} {p x : Nat} (h : x < hbmHomed s p) : isTier1 s p x = false := by
  rw [isTier1, decide_eq_false (Nat.not_le.2 h), Bool.false_and]

theorem locate_hbm {s : State} {p x : Nat} (h : x < hbmHomed s p) : locate s p x = .mem (key 0 p x) := by
  have ho : isOpen x = false := decide_eq_false (Nat.not_le.2 (h.trans_le (hbmHomed_le s p)))
  simp [locate, ho, isTier1_hbm h]

theorem keyAt_hbm {s : State} {p x : Nat} (h : x < hbmHomed s p) : keyAt s p x = key 0 p x := by
  simp only [keyAt, locate_hbm h]

/-- An extent of the HBM part misses no slab. -/
theorem missing_hbm {s : State} {p x len : Nat} (h : x + len ≤ hbmHomed s p) : missing s p x len = [] := by
  unfold missing
  split
  · rfl
  · rename_i h0
    refine List.filter_eq_nil_iff.2 fun n hn => ?_
    obtain ⟨i, hi, rfl⟩ := List.mem_map.1 hn
    have hi := List.mem_range.1 hi
    rw [locate_hbm (by omega)]
    exact Bool.false_ne_true

theorem dirtyAt_hbm {s : State} {p x : Nat} (h : x < hbmHomed s p) : s.dirtyAt p x = s := by
  rw [State.dirtyAt, isTier1_hbm h, if_neg Bool.false_ne_true]

/-! ### Poison by access -/

/-- Whether a granule is lost is the same for every key of one access. -/
theorem isLost_access (s : State) {j k : Nat} (h : j / 64 = k / 64) : isLost s j = isLost s k := by
  have hd : keyDom j = keyDom k := by simp only [keyDom]; omega
  have hp : keyPart j = keyPart k := by simp only [keyPart]; omega
  have ho : keyOff j / 4096 = keyOff k / 4096 := by simp only [keyOff]; omega
  have hg : keyOff j >>> 12 = keyOff k >>> 12 := by rw [Nat.shiftRight_eq_div_pow, Nat.shiftRight_eq_div_pow]; exact ho
  have hc : chanOfKey s j = chanOfKey s k := by simp only [chanOfKey, place, hp, hg]
  have hl : chanOff s j / 4096 = chanOff s k / 4096 := by
    simp only [chanOff, place, hg, Nat.shiftLeft_eq]
    omega
  simp only [isLost, hd, hc, hl]

theorem isPoisoned_access (s : State) {j k : Nat} (h : j / 64 = k / 64) : isPoisoned s j = isPoisoned s k := by
  rw [isPoisoned, isPoisoned, h, isLost_access s h]

/-- No byte of an HBM extent without a poisoned access is poisoned. -/
theorem isPoisoned_of_range {s : State} {p x len i : Nat} (hb : x + len ≤ hbmHomed s p) (h : poisonedRange s p x len = false)
    (h1 : x ≤ i) (h2 : i < x + len) : isPoisoned s (key 0 p i) = false := by
  have hall := List.any_eq_false.1 h (i / 64 - x / 64) (List.mem_range.2 (by omega))
  have hx : x / 64 * 64 + 64 * (i / 64 - x / 64) = i / 64 * 64 := by
    have := Nat.div_le_div_right (c := 64) h1
    omega
  rw [hx, keyAt_hbm (by omega)] at hall
  rw [isPoisoned_access s (k := key 0 p (i / 64 * 64)) (by simp only [key]; omega)]
  exact Bool.eq_false_iff.2 hall

/-! ### Wide writes to HBM -/

theorem Memory.puts_append (m : Memory) (k : Nat) (a b : List Byte) :
    m.puts k (a ++ b) = (m.puts k a).puts (k + a.length) b := by
  induction a generalizing m k with
  | nil => rfl
  | cons v a ih =>
    rw [List.cons_append, Memory.puts, Memory.puts, ih, List.length_cons, Nat.add_assoc, Nat.add_comm 1]

/-- `s` with bytes put under keys, and other fresh bits. -/
def State.putBytes (s : State) (k : Nat) (bs : List Byte) (w : SMap Bool) : State :=
  { s with mem := s.mem.puts k bs, written := w }

theorem key_add (d p x n : Nat) : key d p (x + n) = key d p x + n := (Nat.add_assoc _ x n).symm

/-- One piece of a wide write: what the fold in `State.wideAt` does with it. -/
def widePiece (p x : Nat) (bs : List Byte) (st : State × Bool) (c : Nat × Nat) : State × Bool :=
  let r := st.1.wide64 (keyAt st.1 p c.1) ((bs.drop (c.1 - x)).take c.2)
  (if r.2 then r.1 else r.1.dirtyAt p c.1, st.2 || r.2)

theorem wideAt_eq (s : State) (p x : Nat) (bs : List Byte) :
    s.wideAt p x bs = (cutsOf 64 x bs.length).foldl (widePiece p x bs) (s, false) := rfl

theorem widePiece_hbm {t : State} {p x y n : Nat} {bs : List Byte} (hb : y < hbmHomed t p)
    (hp : isPoisoned t (key 0 p y) = false) :
    ∃ w, widePiece p x bs (t, false) (y, n) = (t.putBytes (key 0 p y) ((bs.drop (y - x)).take n) w, false) := by
  simp only [widePiece, keyAt_hbm hb, State.wide64, hp, Bool.false_eq_true, if_false]
  refine ⟨SMap.set false t.written (key 0 p y / 4096) true, ?_⟩
  rw [dirtyAt_hbm (show y < hbmHomed (t.poke (key 0 p y) ((bs.drop (y - x)).take n)) p from hb)]
  rfl

/-- The pieces of an extent from `y` on put the rest of the bytes in one run. -/
theorem foldl_widePiece {p x : Nat} {bs : List Byte} : ∀ (fuel : Nat) (t : State) (y len : Nat), x ≤ y →
    y + len = x + bs.length → (len = 0 ∨ y % 64 + len ≤ 64 * fuel) → y + len ≤ hbmHomed t p →
    (∀ i, y ≤ i → i < y + len → isPoisoned t (key 0 p i) = false) →
    ∃ w, (cuts fuel 64 y len).foldl (widePiece p x bs) (t, false) = (t.putBytes (key 0 p y) (bs.drop (y - x)) w, false) := by
  intro fuel
  induction fuel with
  | zero =>
    intro t y len hx he hf hb hp
    refine ⟨t.written, ?_⟩
    rw [List.drop_eq_nil_of_le (by omega)]
    rfl
  | succ fuel ih =>
    intro t y len hx he hf hb hp
    by_cases h0 : len = 0
    · refine ⟨t.written, ?_⟩
      rw [cuts, if_pos h0, List.drop_eq_nil_of_le (by omega)]
      rfl
    · have hm : Nat.min len (64 - y % 64) = min len (64 - y % 64) := rfl
      rw [cuts, if_neg h0, hm]
      generalize hn : min len (64 - y % 64) = n
      dsimp only
      rw [List.foldl_cons]
      obtain ⟨w, hw⟩ := widePiece_hbm (x := x) (n := n) (bs := bs) (by omega : y < hbmHomed t p) (hp y (Nat.le_refl y) (by omega))
      obtain ⟨w', hw'⟩ := ih (t.putBytes (key 0 p y) ((bs.drop (y - x)).take n) w) (y + n) (len - n) (by omega) (by omega)
        (by omega) (by show y + n + (len - n) ≤ hbmHomed t p; omega) (fun i h1 h2 => hp i (by omega) (by omega))
      refine ⟨w', ?_⟩
      rw [hw, hw']
      have hlen : ((bs.drop (y - x)).take n).length = n := by rw [List.length_take, List.length_drop]; omega
      have hdrop : bs.drop (y + n - x) = (bs.drop (y - x)).drop n := by rw [List.drop_drop]; congr 1; omega
      have hmem := Memory.puts_append t.mem (key 0 p y) ((bs.drop (y - x)).take n) ((bs.drop (y - x)).drop n)
      rw [List.take_append_drop, hlen] at hmem
      simp only [State.putBytes, hdrop, hmem, key_add]

/-- A wide write to HBM with no poisoned access puts all its bytes (R171, R176). -/
theorem wideAt_hbm {s : State} {p x : Nat} {bs : List Byte} (hb : x + bs.length ≤ hbmHomed s p)
    (hp : poisonedRange s p x bs.length = false) :
    ∃ w, s.wideAt p x bs = (s.putBytes (key 0 p x) bs w, false) := by
  obtain ⟨w, hw⟩ := foldl_widePiece (bs := bs) (bs.length / 64 + 2) s x bs.length (Nat.le_refl x) rfl (.inr (by omega)) hb
    (fun i => isPoisoned_of_range hb hp)
  refine ⟨w, ?_⟩
  rw [wideAt_eq, cutsOf, hw, Nat.sub_self, List.drop_zero]

theorem bytes_putBytes (s : State) (k : Nat) (bs : List Byte) (w : SMap Bool) : (s.putBytes k bs w).bytes k bs.length = bs := by
  refine List.ext_getElem (by simp [State.bytes]) fun i h1 h2 => ?_
  have hb : (s.putBytes k bs w).byte (k + i) = bs.getD i 0 := by
    refine (Memory.byte_puts s.mem k (k + i) bs).trans ?_
    rw [if_pos (by omega), Nat.add_sub_cancel_left]
  simp [State.bytes, hb, h2]

theorem byte_putBytes (s : State) {k a : Nat} {bs : List Byte} {w : SMap Bool} (h : a < k ∨ k + bs.length ≤ a) :
    (s.putBytes k bs w).byte a = s.byte a := by
  refine (Memory.byte_puts s.mem k a bs).trans (if_neg ?_)
  omega

theorem length_leBytes (n v : Nat) : (leBytes n v).length = n := by
  induction n generalizing v with
  | zero => rfl
  | succ n ih => rw [leBytes, List.length_cons, ih]

/-! ### What ledger work leaves -/

/-- From `s` to `t` the ledger and memory may change and events be raised: commands, settings and all other registers stay. -/
structure LedgerMove (s t : State) : Prop where
  settings : t.settings = s.settings
  cmds : t.cmds = s.cmds
  regs : ∀ g r, r < 512 → r ≠ Reg.irqStat → r ≠ Reg.secObs → t.reg g r = s.reg g r

theorem LedgerMove.refl (s : State) : LedgerMove s s := ⟨rfl, rfl, fun _ _ _ _ _ => rfl⟩

theorem LedgerMove.trans {s t u : State} (h : LedgerMove s t) (k : LedgerMove t u) : LedgerMove s u :=
  ⟨k.settings.trans h.settings, k.cmds.trans h.cmds, fun g r h1 h2 h3 => (k.regs g r h1 h2 h3).trans (h.regs g r h1 h2 h3)⟩

theorem LedgerMove.of_aside {s t : State} (h : AsideFromEvents s t) : LedgerMove s t :=
  ⟨h.settings, OnlyEvents.cmds h.rest, fun g r h1 h2 h3 => h.regs g r h1 h2 (fun e => h3 e.2)⟩

/-- `s` without what ledger work touches beside events: memory, queued fetches and the ledger. -/
def State.bare (s : State) : State := { s with mem := [], written := [], poison := [], tiers := [], ledgers := [] }

theorem LedgerMove.of_bare {s t : State} (h : t.bare = s.bare) : LedgerMove s t := by
  have hs : t.settings = s.settings := by have e := congrArg State.settings h; exact e
  have hc : t.cmds = s.cmds := by have e := congrArg State.cmds h; exact e
  have hr : t.regs = s.regs := by have e := congrArg State.regs h; exact e
  have hf : t.flash = s.flash := by have e := congrArg State.flash h; exact e
  exact ⟨hs, hc, fun g r _ _ _ => reg_congr hr hs hf g r⟩

theorem dirtyAt_bare (s : State) (p x : Nat) : (s.dirtyAt p x).bare = s.bare := by
  unfold State.dirtyAt
  split
  · split <;> rfl
  · rfl

theorem wide64_bare (s : State) (k : Nat) (bs : List Byte) : (s.wide64 k bs).1.bare = s.bare := by
  unfold State.wide64
  split
  · split <;> rfl
  · rfl

theorem widePiece_bare (p x : Nat) (bs : List Byte) (st : State × Bool) (c : Nat × Nat) :
    (widePiece p x bs st c).1.bare = st.1.bare := by
  unfold widePiece
  dsimp only
  split
  · exact wide64_bare _ _ _
  · exact (dirtyAt_bare _ _ _).trans (wide64_bare _ _ _)

theorem wideAt_bare (s : State) (p x : Nat) (bs : List Byte) : (s.wideAt p x bs).1.bare = s.bare := by
  rw [wideAt_eq]
  suffices h : ∀ (l : List (Nat × Nat)) (st : State × Bool), (l.foldl (widePiece p x bs) st).1.bare = st.1.bare from h _ _
  intro l
  induction l with
  | nil => exact fun _ => rfl
  | cons c l ih => exact fun st => (ih _).trans (widePiece_bare p x bs st c)

theorem queueFetch_bare (s : State) (p n cls : Nat) (c : Option Nat) : (s.queueFetch p n cls c).bare = s.bare :=
  have h := congrArg State.bare (queueFetch_rest s p n cls c [])
  h

section
variable {s : State} (hs : s.settings.partitions ≤ 4)
include hs

theorem ledgerAbandon_move (p a : Nat) : LedgerMove s (s.ledgerAbandon p a) :=
  .trans (t := s.modLedger p (fun l => { l with openAt := none, late := [] })) (.of_bare rfl)
    (.of_aside (State.raise_aside _ _ _ _ hs))

theorem ledgerPut_move (p off : Nat) (bs : List Byte) : LedgerMove s (s.ledgerPut p off bs) := by
  unfold State.ledgerPut
  dsimp only
  split
  · exact ledgerAbandon_move hs p _
  · exact .of_bare (wideAt_bare s p _ bs)

theorem ledgerWrite_move (p off : Nat) (bs : List Byte) : LedgerMove s (s.ledgerWrite p off bs) := by
  unfold State.ledgerWrite
  dsimp only
  split
  · exact ledgerAbandon_move hs p _
  · split
    · exact ledgerPut_move hs p off bs
    · refine .of_bare ?_
      exact foldl_keep State.bare (fun t n => t.queueFetch p n 1 none) (fun t n => queueFetch_bare t p n 1 none) _ s

theorem ledgerWrap_move (p off len : Nat) : LedgerMove s (s.ledgerWrap p off len) := by
  unfold State.ledgerWrap
  split
  · exact .of_aside (State.raise_aside _ _ _ _ hs)
  · exact .refl s

theorem ledgerClose_move (p : Nat) : LedgerMove s (s.ledgerClose p) := by
  unfold State.ledgerClose
  dsimp only
  split
  · exact .refl s
  · split
    · exact ledgerWrite_move hs p _ _
    · exact (ledgerWrite_move hs p _ _).trans (.of_bare rfl)

end

theorem ledgerWrap_onlyEvents (s : State) (p off len : Nat) : OnlyEvents s (s.ledgerWrap p off len) := by
  unfold State.ledgerWrap
  split
  · exact s.raise_onlyEvents _ _ _
  · exact rfl

theorem ledgerOpen_move {s : State} (hs : s.settings.partitions ≤ 4) (p : Nat) : LedgerMove s (s.ledgerOpen p) := by
  unfold State.ledgerOpen
  split
  · refine LedgerMove.trans ?_ (ledgerWrap_move ?_ p _ 64)
    · exact .of_bare rfl
    · exact hs
  · exact .refl s

theorem ledger_modLedger (s : State) (p : Nat) (f : Ledger → Ledger) : ledger (s.modLedger p f) p = f (ledger s p) := by
  rw [ledger, State.modLedger, SMap.get_modify_same, ledger]

/-! ### A record opens and closes (R238, R241) -/

/-- A record opens where the ring's head stands. -/
theorem ledgerOpen_ledger (s : State) (p : Nat) :
    (ledger (s.ledgerOpen p) p).openAt = (if ledgerOn s p then some (ledger s p).head else (ledger s p).openAt) ∧
    (ledger (s.ledgerOpen p) p).head = (ledger s p).head ∧ (ledger (s.ledgerOpen p) p).records = (ledger s p).records ∧
    (s.ledgerOpen p).mem = s.mem := by
  unfold State.ledgerOpen
  split
  · have h := ledgerWrap_onlyEvents (s.modLedger p (fun l => { l with
      openAt := some l.head, units := 2, step := stepOf s p, seed := seedOf s p, tBegin := s.now, det := l.detOn
      trace := l.traceOn, cmds := 0, inputs := 0, colls := 0, hashes := [], collCmds := [] })) p (ledger s p).head 64
    have hl := congrArg (fun m => SMap.get {} m p) h.ledgers
    simp only [State.modLedger, SMap.get_modify_same] at hl
    refine ⟨(congrArg Ledger.openAt hl).trans ?_, (congrArg Ledger.head hl).trans ?_, (congrArg Ledger.records hl).trans ?_, h.mem⟩
    all_goals rfl
  · exact ⟨rfl, rfl, rfl, rfl⟩

/-- The 64-byte header of a record, as 8 words (Table TRN-8). -/
def ledgerHeader (s : State) (p : Nat) : List Nat :=
  let l := ledger s p
  [(l.units <<< 32) ||| ((bitIf l.det 0 + bitIf l.trace 1 + bitIf l.seed.isSome 2) <<< 24) ||| (1 <<< 16) ||| 0x1ED9,
    l.step.toNat, (l.seed.getD 0).toNat, (cmdHash s p).toNat, (collHash s p).toNat, l.tBegin, s.now,
    (Nat.min 65535 l.colls <<< 48) ||| (Nat.min 65535 l.inputs <<< 32) ||| Nat.min (2 ^ 32 - 1) l.cmds]

theorem length_ledgerHeader (s : State) (p : Nat) : ((ledgerHeader s p).flatMap (leBytes 8)).length = 64 := by
  simp [ledgerHeader, length_leBytes]

theorem ledgerClose_none {s : State} {p : Nat} (h : (ledger s p).openAt = none) : s.ledgerClose p = s := by
  simp only [State.ledgerClose, h]

/-- A ledger write to HBM that nothing waits before and no poison meets. -/
theorem ledgerWrite_hbm {s : State} {p off : Nat} {bs : List Byte} (hl : (ledger s p).late = [])
    (hb : addrOff (ledgerBase s p + off % 2 ^ 32) + bs.length ≤ hbmHomed s p)
    (hp : poisonedRange s p (addrOff (ledgerBase s p + off % 2 ^ 32)) bs.length = false) :
    ∃ w, s.ledgerWrite p off bs = s.putBytes (key 0 p (addrOff (ledgerBase s p + off % 2 ^ 32))) bs w := by
  obtain ⟨w, hw⟩ := wideAt_hbm hb hp
  refine ⟨w, ?_⟩
  simp only [State.ledgerWrite, State.ledgerPut, missing_hbm hb, hl, hp, hw, List.any_nil, List.isEmpty_nil, Bool.and_self,
    if_true, Bool.false_eq_true, if_false]

/-- The close of a record whose start lies in HBM: its header is written, it counts, and the next starts behind it. -/
theorem ledgerClose_hbm {s : State} {p a : Nat} (h : (ledger s p).openAt = some a) (hl : (ledger s p).late = [])
    (hb : addrOff (ledgerBase s p + a % 2 ^ 32) + 64 ≤ hbmHomed s p)
    (hp : poisonedRange s p (addrOff (ledgerBase s p + a % 2 ^ 32)) 64 = false) :
    ∃ w, s.ledgerClose p =
      (s.putBytes (key 0 p (addrOff (ledgerBase s p + a % 2 ^ 32))) ((ledgerHeader s p).flatMap (leBytes 8)) w).modLedger p
        (fun x => { x with openAt := none, head := (a + 32 * (ledger s p).units) % 2 ^ 32, records := (x.records + 1) % 2 ^ 32 }) := by
  have hlen := length_ledgerHeader s p
  obtain ⟨w, hw⟩ := ledgerWrite_hbm (bs := (ledgerHeader s p).flatMap (leBytes 8)) hl (hlen ▸ hb) (hlen ▸ hp)
  refine ⟨w, ?_⟩
  have hopen : (ledger (s.ledgerWrite p a ((ledgerHeader s p).flatMap (leBytes 8))) p).openAt = some a := by rw [hw]; exact h
  unfold State.ledgerClose
  simp only [h]
  change (if (ledger (s.ledgerWrite p a ((ledgerHeader s p).flatMap (leBytes 8))) p).openAt.isNone then _ else
    (s.ledgerWrite p a ((ledgerHeader s p).flatMap (leBytes 8))).modLedger p _) = _
  rw [hopen, hw]
  exact if_neg Bool.false_ne_true

/-! ### The step counts (Table FMT-12) -/

/-- QG_STEP counts, or keeps what software wrote in the same tick. -/
def State.countStep (s : State) (clash : Option Word) (c : Cmd) : State :=
  match clash with
  | some v => (s.setReg (qgPage s c.part) Reg.qgStep v.toNat).notice c.part 1 (qgPage s c.part) (tagDet c)
  | none => s.setReg (qgPage s c.part) Reg.qgStep (s.reg (qgPage s c.part) Reg.qgStep + 1)

/-- QG_STEP as it counts. -/
def stepAfter (s : State) (clash : Option Word) (p : Nat) : Nat := (clash.map BitVec.toNat).getD (s.reg (qgPage s p) Reg.qgStep + 1)

/-- Counting the step is one write of QG_STEP and, on a clash, an entry of the log. -/
theorem countStep_aside {s : State} (hs : s.settings.partitions ≤ 4) (clash : Option Word) (c : Cmd) :
    AsideFromEvents (s.setReg (qgPage s c.part) Reg.qgStep (stepAfter s clash c.part)) (s.countStep clash c) := by
  cases clash with
  | none => exact .refl _
  | some v => exact State.notice_aside _ _ _ _ _ hs

theorem countStep_onlyEvents {s : State} (hs : s.settings.partitions ≤ 4) (clash : Option Word) (c : Cmd) :
    OnlyEvents s (s.countStep clash c) := (s.setReg_onlyEvents _ _ _).trans (countStep_aside hs clash c).rest

theorem stepOf_countStep {s : State} (hs : s.settings.partitions ≤ 4) (clash : Option Word) (c : Cmd) :
    stepOf (s.countStep clash c) c.part = clash.getD (stepOf s c.part + 1) := by
  have h := countStep_aside hs clash c
  have hp : qgPage (s.countStep clash c) c.part = qgPage s c.part := qgPage_congr h.settings c.part
  have hr : (s.countStep clash c).reg (qgPage s c.part) Reg.qgStep = stepAfter s clash c.part % 2 ^ 64 :=
    (h.regs _ _ (by decide) (by decide) (fun e => absurd e.2 (by decide))).trans (reg_setReg_same _ _ _ _ (by decide))
  change BitVec.ofNat 64 ((s.countStep clash c).reg (qgPage (s.countStep clash c) c.part) Reg.qgStep) = _
  rw [hp, hr]
  cases clash with
  | none => exact BitVec.eq_of_toNat_eq (by simp [stepAfter, stepOf, qgPage])
  | some v => exact BitVec.eq_of_toNat_eq (by simp [stepAfter, Nat.mod_eq_of_lt v.isLt])

/-- The guard and the training page of a die stand eight pages apart, and no block that shares its register 33 is so wide. -/
theorem blkOf_eight : ∀ g < 612, isAlias (blkOf g) 33 = true → blkOf (g + 8) ≠ blkOf g := by decide +kernel

theorem blkOf_none {g : Nat} (h : 612 ≤ g) : blkOf g = .hst := by
  have hn : Blk.all.find? (fun b => decide (b.info.1 ≤ g) && decide (g < b.info.1 + b.info.2.1)) = none := by
    refine List.find?_eq_none.2 fun b _ => ?_
    have e : b.info.1 + b.info.2.1 ≤ 612 := by cases b <;> decide
    simp only [Bool.and_eq_true, decide_eq_true_eq, not_and, not_lt]
    omega
  rw [blkOf, hn]
  rfl

theorem homePage_eight (s : State) (g : Nat) : homePage s (g + 8) 33 ≠ homePage s g 33 := by
  intro e
  have hb : blkOf (g + 8) = blkOf g := by rw [← blkOf_homePage s (g + 8) 33, e, blkOf_homePage]
  cases ha : isAlias (blkOf g) 33 with
  | true =>
    by_cases hg : g < 612
    · exact blkOf_eight g hg ha hb
    · rw [blkOf_none (Nat.not_lt.1 hg)] at ha
      exact Bool.false_ne_true ha
  | false =>
    rw [homePage, homePage, hb, ha, if_neg Bool.false_ne_true, if_neg Bool.false_ne_true] at e
    omega

theorem trnPage_congr {s t : State} (h : t.settings = s.settings) (p : Nat) : trnPage t p = trnPage s p := by
  simp only [trnPage, firstDie, diesPer, h]

theorem ledgerOn_congr {s t : State} (h : t.settings = s.settings) {p : Nat}
    (hr : t.reg (trnPage s p) Reg.trnLedgerCtl = s.reg (trnPage s p) Reg.trnLedgerCtl) : ledgerOn t p = ledgerOn s p := by
  rw [ledgerOn, ledgerOn, State.regFld, State.regFld, trnPage_congr h, hr]

/-- QG_STEP and TRN_LEDGER_CTL stand at one place of pages eight apart. -/
theorem ledgerOn_countStep {s : State} (hs : s.settings.partitions ≤ 4) (clash : Option Word) (c : Cmd) :
    ledgerOn (s.countStep clash c) c.part = ledgerOn s c.part := by
  have h := countStep_aside hs clash c
  refine ledgerOn_congr (s := s) h.settings ((h.regs _ _ (by decide) (by decide) (fun e => absurd e.2 (by decide))).trans ?_)
  rw [reg_setReg _ _ _ _ _ _ (by decide) (by decide)]
  refine if_neg fun e => homePage_eight s (qgPage s c.part) ?_
  have ht : trnPage s c.part = qgPage s c.part + 8 := by simp only [trnPage, qgPage, Blk.page, Blk.info]; omega
  rw [← ht]
  exact e.1

theorem ledgerOn_move {s t : State} (h : LedgerMove s t) (p : Nat) : ledgerOn t p = ledgerOn s p :=
  ledgerOn_congr h.settings (h.regs _ _ (by decide) (by decide) (by decide))

theorem stepOf_move {s t : State} (h : LedgerMove s t) (p : Nat) : stepOf t p = stepOf s p := by
  change BitVec.ofNat 64 (t.reg (qgPage t p) Reg.qgStep) = BitVec.ofNat 64 (s.reg (qgPage s p) Reg.qgStep)
  rw [qgPage_congr h.settings, h.regs _ _ (by decide) (by decide) (by decide)]

/-! ### The start of STEP_BEGIN -/

/-- The earlier commands that the push waits for (R60). -/
def pushIds (s : State) (c : Cmd) : List Nat :=
  (s.cmds.filter (fun d => d.part == c.part && d.id != c.id && d.status.isNone && namesGuard d)).map (·.id)

/-- `s` with its record closed, the step counted and the next record open. -/
def State.nextRecord (s : State) (clash : Option Word) (c : Cmd) : State :=
  ((s.ledgerClose c.part).countStep clash c).ledgerOpen c.part

/-- The page of QG_STEP is the same before and after the close. -/
theorem stepStart_eq {s : State} (hs : s.settings.partitions ≤ 4) (clash : Option Word) (c : Cmd) : stepStart clash s c =
    ((s.nextRecord clash c).modLedger c.part
      (fun l => { l with pushWait := some (c.id, pushIds ((s.ledgerClose c.part).countStep clash c) c) })).modCmd c.id
        (fun c => { c with wait := .guard }) := by
  have hp : qgPage (s.ledgerClose c.part) c.part = qgPage s c.part := qgPage_congr (ledgerClose_move hs c.part).settings c.part
  cases clash <;> simp only [stepStart, State.nextRecord, State.countStep, hp, pushIds]

theorem stepStart_ledger {s : State} (hs : s.settings.partitions ≤ 4) (clash : Option Word) (c : Cmd) :
    ledger (stepStart clash s c) c.part =
    { ledger (s.nextRecord clash c) c.part with
      pushWait := some (c.id, pushIds ((s.ledgerClose c.part).countStep clash c) c) } := by
  rw [stepStart_eq hs]
  exact ledger_modLedger (s.nextRecord clash c) c.part
    (fun l => { l with pushWait := some (c.id, pushIds ((s.ledgerClose c.part).countStep clash c) c) })

theorem mem_pushIds {s : State} {c d : Cmd} (hd : d ∈ s.cmds) (hp : d.part = c.part) (hi : d.id ≠ c.id) (hs : d.status = none)
    (hg : namesGuard d = true) : d.id ∈ pushIds s c :=
  List.mem_map.2 ⟨d, List.mem_filter.2 ⟨hd, by simp [hp, hi, hs, hg]⟩, rfl⟩

section
variable {s : State} (hs : s.settings.partitions ≤ 4) (clash : Option Word) (c : Cmd)
include hs

theorem countedClose_cmds : ((s.ledgerClose c.part).countStep clash c).cmds = s.cmds := by
  have hm := ledgerClose_move hs c.part
  exact (countStep_onlyEvents (by rw [hm.settings]; exact hs) clash c).cmds.trans hm.cmds

theorem nextRecord_cmds : (s.nextRecord clash c).cmds = s.cmds := by
  have hm := ledgerClose_move hs c.part
  have hs' : (s.ledgerClose c.part).settings.partitions ≤ 4 := by rw [hm.settings]; exact hs
  have hc := countStep_onlyEvents hs' clash c
  exact (ledgerOpen_move (by rw [hc.settings]; exact hs') c.part).cmds.trans (countedClose_cmds hs clash c)

theorem nextRecord_step : stepOf (s.nextRecord clash c) c.part = clash.getD (stepOf s c.part + 1) := by
  have hm := ledgerClose_move hs c.part
  have hs' : (s.ledgerClose c.part).settings.partitions ≤ 4 := by rw [hm.settings]; exact hs
  have hc := countStep_onlyEvents hs' clash c
  rw [State.nextRecord, stepOf_move (ledgerOpen_move (by rw [hc.settings]; exact hs') c.part), stepOf_countStep hs',
    stepOf_move hm]

/-- The next record opens at the head that the close left. -/
theorem nextRecord_ledger :
    (ledger (s.nextRecord clash c) c.part).openAt =
      (if ledgerOn s c.part then some (ledger (s.ledgerClose c.part) c.part).head else
        (ledger (s.ledgerClose c.part) c.part).openAt) ∧
    (ledger (s.nextRecord clash c) c.part).head = (ledger (s.ledgerClose c.part) c.part).head ∧
    (ledger (s.nextRecord clash c) c.part).records = (ledger (s.ledgerClose c.part) c.part).records ∧
    (s.nextRecord clash c).mem = (s.ledgerClose c.part).mem := by
  have hm := ledgerClose_move hs c.part
  have hs' : (s.ledgerClose c.part).settings.partitions ≤ 4 := by rw [hm.settings]; exact hs
  have hc := countStep_onlyEvents hs' clash c
  have hl : ledger ((s.ledgerClose c.part).countStep clash c) c.part = ledger (s.ledgerClose c.part) c.part := by
    rw [ledger, hc.ledgers, ledger]
  obtain ⟨ho, hh, hr, hmem⟩ := ledgerOpen_ledger ((s.ledgerClose c.part).countStep clash c) c.part
  rw [ledgerOn_countStep hs', ledgerOn_move hm, hl] at ho
  exact ⟨ho, hh.trans (congrArg Ledger.head hl), hr.trans (congrArg Ledger.records hl), hmem.trans hc.mem⟩

end

/-- What no dispatch changes of a partition's ledger and HBM. -/
theorem Starts.ledgerPlace {cls sub k : Nat} {check : State → Cmd → Option Nat} {s u : State} {x : Cmd}
    (h : Starts true cls sub k noNeed check s u x) (p y : Nat) :
    ledgerBase u p = ledgerBase s p ∧ ledgerOn u p = ledgerOn s p ∧ hbmHomed u p = hbmHomed s p ∧
      poisonedRange u p y 64 = poisonedRange s p y 64 ∧ u.now = s.now ∧ stepOf u p = stepOf s p := by
  refine ⟨Starts.field (ledgerBase · p) h ?_ ?_ ?_ ?_ ?_ ?_ ?_, Starts.field (ledgerOn · p) h ?_ ?_ ?_ ?_ ?_ ?_ ?_,
    Starts.field (hbmHomed · p) h ?_ ?_ ?_ ?_ ?_ ?_ ?_, Starts.field (poisonedRange · p y 64) h ?_ ?_ ?_ ?_ ?_ ?_ ?_,
    Starts.field State.now h ?_ ?_ ?_ ?_ ?_ ?_ ?_, Starts.field (stepOf · p) h ?_ ?_ ?_ ?_ ?_ ?_ ?_⟩ <;> exact fun _ _ _ => rfl

/-- Settles O24: what the start leaves by what the close of the open record leaves. -/
theorem stepBegin : Obligations.StepBegin := by
  intro s u k clash x hsound h
  obtain ⟨hx, hst, -, -, -⟩ := h.cmd? hsound
  obtain ⟨-, -, -, hset, -, -, hmem⟩ := h.rest
  have hs : u.settings.partitions ≤ 4 := by rw [hset]; exact sound_partitions hsound
  have hon : ledgerOn u x.part = ledgerOn s x.part := (h.ledgerPlace x.part 0).2.1
  have hstep : stepOf u x.part = stepOf s x.part := (h.ledgerPlace x.part 0).2.2.2.2.2
  obtain ⟨hopen, hhead, hrec, hkeep⟩ := nextRecord_ledger hs clash x
  have hbyte (a : Nat) : (stepStart clash u x).byte a = (u.ledgerClose x.part).byte a := by
    rw [stepStart_eq hs]
    exact congrArg (·.byte a) hkeep
  refine ⟨stepStart clash u x, congrArg _ (dispatchRow_starts h _), ?_, ?_, ?_, fun hn a => ?_, fun hn => ?_,
    fun a ha hl hb hp => ?_⟩
  · rw [stepStart_eq hs]
    exact ⟨_, State.cmd?_modCmd_same ((State.cmd?_congr (nextRecord_cmds hs clash x) _).trans hx) _, hst, rfl⟩
  · rw [← hstep, ← nextRecord_step hs clash x, stepStart_eq hs]
    rfl
  · rw [stepStart_ledger hs]
    exact ⟨_, rfl, fun d hd hp hi hn hg => mem_pushIds (by rw [countedClose_cmds hs]; exact hd) hp hi hn hg⟩
  · rw [hbyte, ledgerClose_none hn, State.byte, hmem]
    rfl
  · rw [stepStart_ledger hs]
    refine hopen.trans ?_
    rw [hon, ledgerClose_none hn, hn]
  · obtain ⟨hbase, -, hhbm, hpois, hnow, -⟩ := h.ledgerPlace x.part (addrOff (ledgerBase s x.part + a % 2 ^ 32))
    rw [← hbase] at hb hp hpois ⊢
    obtain ⟨w, hw⟩ := ledgerClose_hbm ha hl (hhbm ▸ hb) (hpois.trans hp)
    have hlen := length_ledgerHeader u x.part
    have hput (b : Nat) : (u.ledgerClose x.part).byte b =
        (u.putBytes (key 0 x.part (addrOff (ledgerBase u x.part + a % 2 ^ 32)))
          ((ledgerHeader u x.part).flatMap (leBytes 8)) w).byte b := by
      rw [hw]
      rfl
    have hclosed : ledger (u.ledgerClose x.part) x.part = { ledger u x.part with
        openAt := none, head := (a + 32 * (ledger u x.part).units) % 2 ^ 32
        records := ((ledger u x.part).records + 1) % 2 ^ 32 } := by
      rw [hw]
      exact ledger_modLedger _ _ _
    rw [hclosed] at hopen hhead hrec
    rw [stepStart_ledger hs, ← hnow]
    refine ⟨?_, fun b hb => ?_, hhead, hrec, hopen.trans (by rw [hon])⟩
    · have hbytes := bytes_putBytes u (key 0 x.part (addrOff (ledgerBase u x.part + a % 2 ^ 32)))
        ((ledgerHeader u x.part).flatMap (leBytes 8)) w
      rw [hlen] at hbytes
      refine Eq.trans ?_ hbytes
      simp only [State.bytes, hbyte, hput]
    · rw [hbyte, hput, byte_putBytes u (by rw [hlen]; exact hb), State.byte, hmem]
      rfl

end Sys2Proof.Machine

/-! ## Ramps, sweeps and block drains (O30)

Each of the five operations changes quadrants and engines one at a time, so each is read off what `modQuad` and `modEngine` do.
Two steps take more: the heads of an engine's four queues start in a fold over the queues, and a drain puts its words one after
another, which reads as one map because a block's words have keys of their own. -/

namespace Sys2Proof.Machine

/-! ### Quadrants and engines -/

theorem quadKey_inj {eng q r : Nat} (h : quadKey eng q = quadKey eng r) : q = r := by
  simp only [quadKey] at h; omega

theorem quad_modQuad_same (s : State) (eng q : Nat) (f : Quad → Quad) : quad (s.modQuad eng q f) eng q = f (quad s eng q) :=
  SMap.get_modify_same ({} : Quad) s.quads (quadKey eng q) f

theorem quad_modQuad_other (s : State) (eng : Nat) {q r : Nat} (f : Quad → Quad) (h : r ≠ q) :
    quad (s.modQuad eng q f) eng r = quad s eng r :=
  SMap.get_modify_other ({} : Quad) s.quads f (fun e => h (quadKey_inj e))

theorem engine_modEngine_same (s : State) (eng : Nat) (f : Engine → Engine) : engine (s.modEngine eng f) eng = f (engine s eng) :=
  SMap.get_modify_same ({} : Engine) s.engines eng f

theorem engine_modEngine_other (s : State) {eng e : Nat} (f : Engine → Engine) (h : e ≠ eng) :
    engine (s.modEngine eng f) e = engine s e := SMap.get_modify_other ({} : Engine) s.engines f h

theorem engine_congr {s t : State} (h : t.engines = s.engines) (e : Nat) : engine t e = engine s e := by
  rw [engine, engine, h]

/-! ### The heads of an engine's queues start (R85) -/

/-- A queue with its head in progress. -/
def startHead : List TileSeg → List TileSeg
  | x :: xs => { x with started := true } :: xs
  | [] => []

/-- A quadrant with the head of its queue in progress. -/
def Quad.headStarted (u : Quad) : Quad := { u with queue := startHead u.queue }

theorem length_startHead (l : List TileSeg) : (startHead l).length = l.length := by
  cases l <;> rfl

/-- The heads of some of an engine's queues start. -/
def State.startQueues (s : State) (eng : Nat) (l : List Nat) : State := l.foldl (fun t q => t.modQuad eng q Quad.headStarted) s

theorem startHeads_eq (s : State) (eng : Nat) :
    s.startHeads eng = if (engine s eng).ramp = .active then s.startQueues eng (List.range 4) else s := rfl

theorem quad_startQueues (eng : Nat) {l : List Nat} : ∀ (s : State), l.Nodup → ∀ q,
    quad (s.startQueues eng l) eng q = if q ∈ l then (quad s eng q).headStarted else quad s eng q := by
  induction l with
  | nil => exact fun s _ q => (if_neg List.not_mem_nil).symm
  | cons r l ih =>
    intro s hl q
    obtain ⟨hr, hl⟩ := List.nodup_cons.1 hl
    refine (ih (s.modQuad eng r Quad.headStarted) hl q).trans ?_
    by_cases hq : q = r
    · subst hq
      rw [if_neg hr, if_pos (List.mem_cons_self ..), quad_modQuad_same]
    · rw [quad_modQuad_other s eng _ hq]
      exact if_congr (by simp [hq]) rfl rfl

theorem startQueues_rest (s : State) (eng : Nat) (l : List Nat) (x : SMap Quad) (y : SMap CoreDom) :
    { s.startQueues eng l with quads := x, coreDoms := y } = { s with quads := x, coreDoms := y } :=
  foldl_keep (fun t => { t with quads := x, coreDoms := y }) (fun t q => t.modQuad eng q Quad.headStarted) (fun _ _ => rfl) l s

theorem quad_startHeads {s : State} {eng q : Nat} (ha : (engine s eng).ramp = .active) (hq : q < 4) :
    quad (s.startHeads eng) eng q = (quad s eng q).headStarted := by
  rw [startHeads_eq, if_pos ha, quad_startQueues eng s List.nodup_range, if_pos (List.mem_range.2 hq)]

theorem startHeads_rest (s : State) (eng : Nat) (x : SMap Quad) (y : SMap CoreDom) :
    { s.startHeads eng with quads := x, coreDoms := y } = { s with quads := x, coreDoms := y } := by
  rw [startHeads_eq]
  split
  · exact startQueues_rest s eng _ x y
  · rfl

/-! ### Ramps (R85, R86) -/

theorem exec_rampUpEnd {s : State} {eng n : Nat} (h : (engine s eng).ramp = .up n) :
    exec (.rampUpEnd eng) s = .next ((s.modEngine eng (fun e => { e with ramp := .active })).startHeads eng) := by
  simp only [exec, execRampUpEnd, h]

theorem exec_rampUpEnd_idle {s : State} {eng : Nat} (h : ∀ n, (engine s eng).ramp ≠ .up n) : exec (.rampUpEnd eng) s = .next s := by
  simp only [exec, execRampUpEnd]

/-- An engine whose ramp up ends is active, with the head of each of its queues in progress. -/
theorem exec_rampUpEnd_ramped (s : State) (eng n : Nat) (h : (engine s eng).ramp = .up n) :
    ∃ t, exec (.rampUpEnd eng) s = .next t ∧
      engine t eng = { engine s eng with ramp := .active } ∧ (∀ e, e ≠ eng → engine t e = engine s e) ∧
      (∀ q < 4, ∀ g gs, (quad s eng q).queue = g :: gs →
        quad t eng q = { quad s eng q with queue := { g with started := true } :: gs }) ∧
      { t with engines := s.engines, quads := s.quads, coreDoms := s.coreDoms } = s := by
  have hrest := startHeads_rest (s.modEngine eng (fun e => { e with ramp := .active })) eng s.quads s.coreDoms
  have heng : ((s.modEngine eng (fun e => { e with ramp := .active })).startHeads eng).engines =
      (s.modEngine eng (fun e => { e with ramp := .active })).engines := by have e := congrArg State.engines hrest; exact e
  refine ⟨_, exec_rampUpEnd h, (engine_congr heng eng).trans (engine_modEngine_same s eng _),
    fun e he => (engine_congr heng e).trans (engine_modEngine_other s _ he), fun q hq g gs hg => ?_,
    congrArg (fun t : State => { t with engines := s.engines }) hrest⟩
  rw [quad_startHeads (by rw [engine_modEngine_same]) hq]
  change { quad s eng q with queue := startHead (quad s eng q).queue } = _
  rw [hg, startHead]

theorem exec_rampDownEnd {s : State} {eng : Nat} (h : (engine s eng).ramp = .down) :
    exec (.rampDownEnd eng) s = .next
      (s.modEngine eng (fun e => { e with ramp := .idle, downs := satAdd 32 e.downs 1, fractured := false })) := by
  simp only [exec, execRampDownEnd, h, if_true]

theorem exec_rampDownEnd_idle {s : State} {eng : Nat} (h : (engine s eng).ramp ≠ .down) : exec (.rampDownEnd eng) s = .next s := by
  simp only [exec, execRampDownEnd, h, if_false]

/-! ### The head segment leaves its queue (R86) -/

/-- A quadrant whose head segment has left. -/
def Quad.popped (u : Quad) : Quad := { u with queue := u.queue.drop 1, sweep := 0 }

/-- `s` with the head segment of a queue gone, and its fills with it. -/
def State.dropHead (s : State) (eng q : Nat) (g : TileSeg) : State :=
  if g.zero then s.modQuad eng q Quad.popped else (s.modQuad eng q Quad.popped).dropFills g.cmd [g.fillA, g.fillB]

theorem popSeg_eq (s : State) (eng q : Nat) (g : TileSeg) : s.popSeg eng q g =
    if (List.range 4).all (fun i => (quad (s.dropHead eng q g) eng i).queue.isEmpty) then
      (s.dropHead eng q g).modEngine eng (fun e => { e with ramp := .down })
    else (s.dropHead eng q g).startHeads eng := rfl

theorem dropHead_rest (s : State) (eng q : Nat) (g : TileSeg) :
    (s.dropHead eng q g).quads = (s.modQuad eng q Quad.popped).quads ∧ (s.dropHead eng q g).mem = s.mem := by
  unfold State.dropHead
  split <;> exact ⟨rfl, rfl⟩

theorem popSeg_mem (s : State) (eng q : Nat) (g : TileSeg) : (s.popSeg eng q g).mem = s.mem := by
  rw [popSeg_eq]
  split
  · exact (dropHead_rest s eng q g).2
  · have e := congrArg State.mem (startHeads_rest (s.dropHead eng q g) eng [] [])
    exact Eq.trans e (dropHead_rest s eng q g).2

/-- The quadrant without its head segment, whose next segment begins when the engine goes on. -/
theorem quad_popSeg (s : State) {eng q : Nat} (g : TileSeg) (hq : q < 4) :
    quad (s.popSeg eng q g) eng q = (quad s eng q).popped ∨ quad (s.popSeg eng q g) eng q = (quad s eng q).popped.headStarted := by
  have hd : quad (s.dropHead eng q g) eng q = (quad s eng q).popped := by
    rw [quad, (dropHead_rest s eng q g).1]
    exact quad_modQuad_same s eng q _
  rw [popSeg_eq]
  split
  · exact .inl hd
  · by_cases ha : (engine (s.dropHead eng q g) eng).ramp = .active
    · exact .inr (by rw [quad_startHeads ha hq, hd])
    · exact .inl (by rw [startHeads_eq, if_neg ha, hd])

/-- What the leaving of a head segment shows of its quadrant. -/
theorem quad_popSeg_fields (s : State) {eng q : Nat} (g : TileSeg) (hq : q < 4) :
    (quad (s.popSeg eng q g) eng q).convs = (quad s eng q).convs ∧ (quad (s.popSeg eng q g) eng q).drains = (quad s eng q).drains ∧
    (quad (s.popSeg eng q g) eng q).acc = (quad s eng q).acc ∧ (quad (s.popSeg eng q g) eng q).sweep = 0 ∧
    (quad (s.popSeg eng q g) eng q).queue.length = ((quad s eng q).queue.drop 1).length := by
  rcases quad_popSeg s g hq with h | h <;> rw [h]
  · exact ⟨rfl, rfl, rfl, rfl, rfl⟩
  · exact ⟨rfl, rfl, rfl, rfl, length_startHead _⟩

/-! ### SWEEP_END (R71) -/

/-- Blocks of a tile, and of one row of them. -/
def blockCols (c : Cmd) : Nat := (matRun c).bond.bond.nT / side (matRun c)
def blockCount (c : Cmd) : Nat := (matRun c).bond.bond.mT / side (matRun c) * blockCols c

/-- Everything that a segment's operands need has landed. -/
def sweepReady (c : Cmd) (g : TileSeg) (eng : Nat) : Bool :=
  fillReady ((c.streams[streamIdx c 0 (eng / 32)]?).getD {}) g.fillA (faceOf (matRun c) c.lens false g.tile g.kseg) &&
    fillReady ((c.streams[streamIdx c 1 (eng / 32)]?).getD {}) g.fillB (faceOf (matRun c) c.lens true g.tile g.kseg)

/-- The block that the next sweep ends still drains. -/
def sweepBusy (u : Quad) (c : Cmd) (g : TileSeg) : Bool :=
  u.drains.any (fun d => d.cmd == g.cmd && d.tile == g.tile && d.bi == u.sweep / blockCols c && d.bj == u.sweep % blockCols c)

/-- Results of the block that a sweep ends, output by output and by word set. -/
def sweepResults (s : State) (c : Cmd) (g : TileSeg) (eng : Nat) (u : Quad) : List (List (Res Word)) :=
  ((List.range (side (matRun c) * side (matRun c))).map (fun x =>
    (u.sweep / blockCols c * side (matRun c) + x / side (matRun c), u.sweep % blockCols c * side (matRun c) + x % side (matRun c)))).map
      (fun e => sweepCell s c (matRun c) g (eng / 32) u.acc e.1 e.2)

/-- The block as it enters the drain registers. -/
def sweepDrain (s : State) (c : Cmd) (g : TileSeg) (eng : Nat) (u : Quad) : Drain :=
  { cmd := g.cmd, tile := g.tile, bi := u.sweep / blockCols c, bj := u.sweep % blockCols c
    sel := (List.range (if isComplex (matRun c).a.fmt then 2 else 1)).map (fun i =>
      if g.last || !(matRun c).bond.bond.chained then i else i + 2)
    add := g.last && g.addChain
    vals := (List.range (if isComplex (matRun c).a.fmt then 2 else 1)).flatMap (fun i =>
      (sweepResults s c g eng u).map (fun r => ((r[i]?).map (·.val)).getD 0))
    last := g.final }

/-- The blocks of a zero tile (R102). -/
def zeroBlocks (c : Cmd) (g : TileSeg) : List Conv :=
  (List.range (blockCount c)).map (fun n => { cmd := g.cmd, tile := g.tile, bi := n / blockCols c, bj := n % blockCols c })

/-- A sweep's block has entered the drain registers; flags, busy cycles and progress have been noted. -/
structure SweepNoted (s : State) (eng q : Nat) (d : Drain) (t : State) : Prop where
  block : quad t eng q = { quad s eng q with drains := (quad s eng q).drains ++ [d], sweep := (quad s eng q).sweep + 1 }
  mem : t.mem = s.mem

theorem sweepNoted (s : State) (eng q : Nat) (d : Drain) (id : Nat) (fl : Flags) (f : Engine → Engine) (cl : Nat) :
    SweepNoted s eng q d ((((s.addFlags id fl).modQuad eng q
      (fun u => { u with drains := u.drains ++ [d], sweep := (quad s eng q).sweep + 1 })).modEngine eng f).progress cl) :=
  ⟨quad_modQuad_same (s.addFlags id fl) eng q
    (fun u => { u with drains := u.drains ++ [d], sweep := (quad s eng q).sweep + 1 }), rfl⟩

section
variable {s : State} {eng q : Nat} {g : TileSeg} {gs : List TileSeg} {c : Cmd} (hq : (quad s eng q).queue = g :: gs)
  (hc : s.cmd? g.cmd = some c)
include hq hc

theorem exec_sweepEnd_hold (h : (engine s eng).ramp ≠ .active ∨ g.started = false ∨
      (g.zero = false ∧ (sweepReady c g eng = false ∨ sweepBusy (quad s eng q) c g = true))) :
    exec (.sweepEnd eng q) s = .next s := by
  simp only [exec, execSweepEnd, hq, hc]
  by_cases hr : ((engine s eng).ramp != .active || !g.started) = true
  · rw [if_pos hr]
  · rw [if_neg hr]
    obtain ⟨hz, hb⟩ : g.zero = false ∧ (sweepReady c g eng = false ∨ sweepBusy (quad s eng q) c g = true) := by
      rcases h with h | h | h
      · simp [h] at hr
      · simp [h] at hr
      · exact h
    rw [hz, if_neg Bool.false_ne_true]
    refine if_pos ?_
    change (!sweepReady c g eng || sweepBusy (quad s eng q) c g) = true
    rcases hb with hb | hb <;> simp [hb]

theorem exec_sweepEnd_zero (ha : (engine s eng).ramp = .active) (hst : g.started = true) (hz : g.zero = true) :
    exec (.sweepEnd eng q) s = .next
      ((s.modQuad eng q (fun u => { u with convs := u.convs ++ zeroBlocks c g })).popSeg eng q g) := by
  simp only [exec, execSweepEnd, hq, hc, ha, hst, hz]
  rfl

theorem exec_sweepEnd_sweep (ha : (engine s eng).ramp = .active) (hst : g.started = true) (hz : g.zero = false)
    (hr : sweepReady c g eng = true) (hb : sweepBusy (quad s eng q) c g = false) :
    ∃ u, SweepNoted s eng q (sweepDrain s c g eng (quad s eng q)) u ∧ exec (.sweepEnd eng q) s =
      .next (if (quad s eng q).sweep + 1 = blockCount c then u.popSeg eng q g else u) := by
  have hgo : (!sweepReady c g eng || sweepBusy (quad s eng q) c g) ≠ true := by simp [hr, hb]
  simp only [exec, execSweepEnd, hq, hc, ha, hst, hz]
  refine ⟨_, ?_, if_neg hgo⟩
  exact sweepNoted s eng q _ g.cmd _ _ _

end

/-- A sweep of real outputs gives one word an output. -/
theorem sweepCell_singleton (s : State) {c : Cmd} {m : Mat} (h : isComplex m.a.fmt = false) (g : TileSeg) (cl : Nat) (acc : SMap Word)
    (i j : Nat) : ∃ r, sweepCell s c m g cl acc i j = [r] := by
  unfold sweepCell
  dsimp only
  rw [h, if_neg Bool.false_ne_true]
  split
  · exact ⟨_, rfl⟩
  · split
    · exact ⟨_, rfl⟩
    · split <;> exact ⟨_, rfl⟩

/-- The words of a block of real outputs. -/
theorem sweepDrain_vals (s : State) {c : Cmd} (h : isComplex (matRun c).a.fmt = false) (g : TileSeg) (eng : Nat) (u : Quad) {n : Nat}
    (hn : n < side (matRun c) * side (matRun c)) : (sweepDrain s c g eng u).vals[n]? =
      ((sweepCell s c (matRun c) g (eng / 32) u.acc (u.sweep / blockCols c * side (matRun c) + n / side (matRun c))
        (u.sweep % blockCols c * side (matRun c) + n % side (matRun c)))[0]?).map (·.val) := by
  obtain ⟨r, hr⟩ := sweepCell_singleton s (c := c) h g (eng / 32) u.acc (u.sweep / blockCols c * side (matRun c) + n / side (matRun c))
    (u.sweep % blockCols c * side (matRun c) + n % side (matRun c))
  simp [sweepDrain, sweepResults, h, hn, hr]

/-- One sweep of a block: its results drain, and the sweep counts or ends the segment. -/
structure Swept (s : State) (eng q : Nat) (d : Drain) (total : Nat) (gs : List TileSeg) (t : State) : Prop where
  drains : (quad t eng q).drains = (quad s eng q).drains ++ [d]
  acc : (quad t eng q).acc = (quad s eng q).acc
  next : (quad s eng q).sweep + 1 ≠ total →
    (quad t eng q).sweep = (quad s eng q).sweep + 1 ∧ (quad t eng q).queue = (quad s eng q).queue
  done : (quad s eng q).sweep + 1 = total → (quad t eng q).sweep = 0 ∧ (quad t eng q).queue.length = gs.length
  mem : t.mem = s.mem

theorem SweepNoted.swept {s u : State} {eng q total : Nat} {d : Drain} {g : TileSeg} {gs : List TileSeg}
    (h : SweepNoted s eng q d u) (hg : (quad s eng q).queue = g :: gs) (hq : q < 4) :
    Swept s eng q d total gs (if (quad s eng q).sweep + 1 = total then u.popSeg eng q g else u) := by
  by_cases he : (quad s eng q).sweep + 1 = total
  · rw [if_pos he]
    obtain ⟨-, hd, ha, hs, hl⟩ := quad_popSeg_fields u g hq
    rw [h.block] at hd ha hl
    exact ⟨hd, ha, fun hn => absurd he hn, fun _ => ⟨hs, hl.trans (by rw [hg]; rfl)⟩, (popSeg_mem u eng q g).trans h.mem⟩
  · rw [if_neg he]
    exact ⟨by rw [h.block], by rw [h.block], fun _ => by rw [h.block]; exact ⟨rfl, rfl⟩, fun hn => absurd hn he, h.mem⟩

/-! ### BLOCK_DRAIN_END (R72, R77, R105) -/

/-- A word of a draining block: its word set, its row and column in the tile, and its value. -/
abbrev DrainWord := Nat × Nat × Nat × Word

/-- The accumulator word that a draining word goes to. -/
def drainKey (d : Drain) (w : DrainWord) : Nat := accKey d.cmd d.tile w.1 w.2.1 w.2.2.1

/-- What a draining word makes of the word there. -/
def drainTo (d : Drain) (m : Mat) (w : DrainWord) (old : Word) : Word := if d.add then (addWord m old w.2.2.2).val else w.2.2.2

/-- A word of the block, by word set and output. -/
def drainWord (d : Drain) (sd : Nat) (se : Nat × Nat) (x : Nat) : DrainWord :=
  (se.1, d.bi * sd + x / sd, d.bj * sd + x % sd, d.vals.getD (se.2 * (sd * sd) + x) 0)

/-- The words of a block, in the order in which they drain. -/
def drainWords (d : Drain) (sd : Nat) : List DrainWord :=
  d.sel.zipIdx.flatMap (fun se => (List.range (sd * sd)).map (drainWord d sd se))

/-- One word drains: the accumulator memory, and the flags of an addition. -/
def drainStep (d : Drain) (m : Mat) (rows cols : Nat) (a : SMap Word × Flags) (w : DrainWord) : SMap Word × Flags :=
  if d.add then
    (SMap.set 0 a.1 (drainKey d w) (addWord m (SMap.get 0 a.1 (drainKey d w)) w.2.2.2).val,
      if w.2.1 < rows && w.2.2.1 < cols then a.2 ||| (addWord m (SMap.get 0 a.1 (drainKey d w)) w.2.2.2).fl else a.2)
  else (SMap.set 0 a.1 (drainKey d w) w.2.2.2, a.2)

theorem drainStep_acc (d : Drain) (m : Mat) (rows cols : Nat) (a : SMap Word × Flags) (w : DrainWord) :
    (drainStep d m rows cols a w).1 = SMap.set 0 a.1 (drainKey d w) (drainTo d m w (SMap.get 0 a.1 (drainKey d w))) := by
  unfold drainStep drainTo
  split <;> rfl

/-- The accumulator memory and the flags once a block has drained. -/
def drained (d : Drain) (c : Cmd) (acc : SMap Word) : SMap Word × Flags :=
  (drainWords d (side (matRun c))).foldl
    (drainStep d (matRun c) (rowsOf (matRun c).bond.bond c.lens d.tile) (colsOf (matRun c).bond.bond c.lens d.tile)) (acc, .none)

/-- Words with keys of their own drain each into the word that stood there before, and into no other. -/
theorem foldl_drainStep (d : Drain) (m : Mat) (rows cols : Nat) {l : List DrainWord} : ∀ a : SMap Word × Flags,
    (l.map (drainKey d)).Nodup →
    (∀ w ∈ l, SMap.get 0 (l.foldl (drainStep d m rows cols) a).1 (drainKey d w) = drainTo d m w (SMap.get 0 a.1 (drainKey d w))) ∧
    ∀ k, (∀ w ∈ l, k ≠ drainKey d w) → SMap.get 0 (l.foldl (drainStep d m rows cols) a).1 k = SMap.get 0 a.1 k := by
  induction l with
  | nil => exact fun _ _ => ⟨by simp, fun _ _ => rfl⟩
  | cons v l ih =>
    intro a hl
    rw [List.map_cons, List.nodup_cons] at hl
    obtain ⟨hv, hl⟩ := hl
    obtain ⟨hin, hout⟩ := ih (drainStep d m rows cols a v) hl
    have hother {k : Nat} (h : k ≠ drainKey d v) : SMap.get 0 (drainStep d m rows cols a v).1 k = SMap.get 0 a.1 k := by
      rw [drainStep_acc, SMap.get_set_other _ _ _ h]
    refine ⟨fun w hw => ?_, fun k hk => ?_⟩
    · rw [List.foldl_cons]
      rcases List.mem_cons.1 hw with rfl | hw
      · rw [hout _ (fun w' hw' e => hv (List.mem_map.2 ⟨w', hw', e.symm⟩)), drainStep_acc, SMap.get_set_same]
      · rw [hin w hw, hother (fun e => hv (List.mem_map.2 ⟨w, hw, e⟩))]
    · obtain ⟨hk1, hk2⟩ := List.forall_mem_cons.1 hk
      exact (hout k hk2).trans (hother hk1)

/-- A drain without ADD raises no flag. -/
theorem foldl_drainStep_flags {d : Drain} (h : d.add = false) (m : Mat) (rows cols : Nat) (l : List DrainWord) :
    ∀ a : SMap Word × Flags, (l.foldl (drainStep d m rows cols) a).2 = a.2 := by
  induction l with
  | nil => exact fun _ => rfl
  | cons w l ih =>
    intro a
    refine (ih _).trans ?_
    rw [drainStep, h, if_neg Bool.false_ne_true]

theorem side_le (m : Mat) : side m ≤ 32 := by
  unfold side
  split <;> omega

/-- Within a block, the key of an accumulator word tells its word set, its row and its column. -/
theorem accKey_inj {cmd tile e f i j a b a' b' : Nat} (ha : a < 32) (ha' : a' < 32) (hb : b < 32) (hb' : b' < 32)
    (h : accKey cmd tile e (i + a) (j + b) = accKey cmd tile f (i + a') (j + b')) : e = f ∧ a = a' ∧ b = b' := by
  simp only [accKey] at h
  have h1 : 4294967296 * e + (65536 * a + b) = 4294967296 * f + (65536 * a' + b') := by omega
  have hef : e = f := by omega
  omega

/-- Two outputs of a block, of the same or of two word sets, have keys of their own. -/
theorem drainKey_inj {d : Drain} {sd : Nat} (hsd : sd ≤ 32) {e f : Nat × Nat} {x y : Nat} (hx : x < sd * sd) (hy : y < sd * sd)
    (h : drainKey d (drainWord d sd e x) = drainKey d (drainWord d sd f y)) : e.1 = f.1 ∧ x = y := by
  have hpos : 0 < sd := Nat.pos_of_ne_zero (by rintro rfl; omega)
  have hx1 : x / sd < sd := Nat.div_lt_of_lt_mul hx
  have hy1 : y / sd < sd := Nat.div_lt_of_lt_mul hy
  have hx2 := Nat.mod_lt x hpos
  have hy2 := Nat.mod_lt y hpos
  obtain ⟨h1, h2, h3⟩ := accKey_inj (hx1.trans_le hsd) (hy1.trans_le hsd) (hx2.trans_le hsd) (hy2.trans_le hsd) h
  exact ⟨h1, by rw [← Nat.div_add_mod x sd, ← Nat.div_add_mod y sd, h2, h3]⟩

theorem nodup_drainKeys {d : Drain} {sd : Nat} (hsd : sd ≤ 32) (h : d.sel.Nodup) : ((drainWords d sd).map (drainKey d)).Nodup := by
  rw [drainWords, List.map_flatMap, List.nodup_flatMap]
  refine ⟨fun e _ => ?_, ?_⟩
  · rw [List.map_map]
    exact List.nodup_range.map_on fun x hx y hy he =>
      (drainKey_inj hsd (List.mem_range.1 hx) (List.mem_range.1 hy) he).2
  · have hp : d.sel.zipIdx.Pairwise (fun e f => e.1 ≠ f.1) := by
      rw [← List.pairwise_map (f := Prod.fst) (R := (· ≠ ·)), List.zipIdx_map_fst]
      exact h
    refine hp.imp fun {e f} hne k hk hk' => ?_
    simp only [List.map_map, List.mem_map, List.mem_range, Function.comp] at hk hk'
    obtain ⟨x, hx, rfl⟩ := hk
    obtain ⟨y, hy, he⟩ := hk'
    exact hne (drainKey_inj hsd hx hy he.symm).1

theorem mem_drainWords {d : Drain} {sd : Nat} {w : DrainWord} :
    w ∈ drainWords d sd ↔ ∃ i < d.sel.length, ∃ x < sd * sd, w = drainWord d sd (d.sel.getD i 0, i) x := by
  simp only [drainWords, List.mem_flatMap, List.mem_map, List.mem_range, List.mem_zipIdx_iff_getElem?, Prod.exists]
  constructor
  · rintro ⟨e, i, he, x, hx, rfl⟩
    obtain ⟨hi, rfl⟩ := List.getElem?_eq_some_iff.1 he
    exact ⟨i, hi, x, hx, by rw [List.getD_eq_getElem _ _ hi]⟩
  · rintro ⟨i, hi, x, hx, rfl⟩
    exact ⟨_, i, by rw [List.getD_eq_getElem _ _ hi]; exact List.getElem?_eq_getElem hi, x, hx, rfl⟩

theorem exec_blockDrainEnd {s : State} {eng q : Nat} {d : Drain} {ds : List Drain} {c : Cmd} (hd : (quad s eng q).drains = d :: ds)
    (hc : s.cmd? d.cmd = some c) : exec (.blockDrainEnd eng q) s = .next
      ((s.addFlags d.cmd (drained d c (quad s eng q).acc).2).modQuad eng q (fun u =>
        { u with drains := ds, acc := (drained d c (quad s eng q).acc).1
                 convs := u.convs ++ (if d.last then [{ cmd := d.cmd, tile := d.tile, bi := d.bi, bj := d.bj }] else []) })) := by
  simp only [exec, execBlockDrainEnd, hd, hc]
  rfl

theorem addFlags_none (s : State) (id : Nat) : (s.addFlags id .none).cmds = s.cmds := by
  refine (List.map_congr_left fun c _ => ?_).trans (List.map_id s.cmds)
  have h : c.flags ||| Flags.none = c.flags := BitVec.or_zero
  split
  · exact congrArg (fun f : Flags => { c with flags := f }) h
  · rfl

/-! ### The obligation -/

theorem exec_blockDrainEnd_idle {s : State} {eng q : Nat} (h : (quad s eng q).drains = []) :
    exec (.blockDrainEnd eng q) s = .next s := by
  simp only [exec, execBlockDrainEnd, h]

theorem exec_sweepEnd_idle {s : State} {eng q : Nat} (h : (quad s eng q).queue = []) : exec (.sweepEnd eng q) s = .next s := by
  simp only [exec, execSweepEnd, h]

theorem byte_congr {s t : State} (h : t.mem = s.mem) (a : Nat) : t.byte a = s.byte a := by
  rw [State.byte, State.byte, h]

/-- A drained block, word by word. -/
theorem drained_acc {d : Drain} (h : d.sel.Nodup) (c : Cmd) (acc : SMap Word) :
    (∀ i < d.sel.length, ∀ x < side (matRun c) * side (matRun c),
      SMap.get 0 (drained d c acc).1 (drainKey d (drainWord d (side (matRun c)) (d.sel.getD i 0, i) x)) =
        drainTo d (matRun c) (drainWord d (side (matRun c)) (d.sel.getD i 0, i) x)
          (SMap.get 0 acc (drainKey d (drainWord d (side (matRun c)) (d.sel.getD i 0, i) x)))) ∧
    ∀ k, (∀ i < d.sel.length, ∀ x < side (matRun c) * side (matRun c),
      k ≠ drainKey d (drainWord d (side (matRun c)) (d.sel.getD i 0, i) x)) →
      SMap.get 0 (drained d c acc).1 k = SMap.get 0 acc k := by
  obtain ⟨hin, hout⟩ := foldl_drainStep d (matRun c) (rowsOf (matRun c).bond.bond c.lens d.tile)
    (colsOf (matRun c).bond.bond c.lens d.tile) (acc, .none) (nodup_drainKeys (side_le (matRun c)) h)
  refine ⟨fun i hi x hx => hin _ (mem_drainWords.2 ⟨i, hi, x, hx, rfl⟩), fun k hk => hout k fun w hw => ?_⟩
  obtain ⟨i, hi, x, hx, rfl⟩ := mem_drainWords.1 hw
  exact hk i hi x hx

/-- Settles O30: each operation by the quadrant and the engine that it changes. -/
theorem rampsSweepsAndDrains : Obligations.RampsSweepsAndDrains := by
  refine ⟨fun s eng => ⟨exec_rampUpEnd_ramped s eng, exec_rampUpEnd_idle, fun h => ?_, exec_rampDownEnd_idle⟩,
    fun s eng q _ hq => ⟨fun g gs c hg hc => ⟨exec_sweepEnd_hold hg hc, fun ha hst hz => ?_, fun ha hst hz hr hb => ?_⟩,
      exec_sweepEnd_idle, fun d ds c hd hc hsel => ?_, exec_blockDrainEnd_idle⟩⟩
  · exact ⟨_, exec_rampDownEnd h, engine_modEngine_same s eng _, fun e he => engine_modEngine_other s _ he, rfl⟩
  · obtain ⟨hconv, -, -, -, hlen⟩ := quad_popSeg_fields (s.modQuad eng q (fun u => { u with convs := u.convs ++ zeroBlocks c g })) g hq
    rw [quad_modQuad_same] at hconv hlen
    exact ⟨_, exec_sweepEnd_zero hg hc ha hst hz, hconv, hlen.trans (by rw [hg]; rfl), byte_congr (popSeg_mem _ eng q g)⟩
  · obtain ⟨u, hu, he⟩ := exec_sweepEnd_sweep hg hc ha hst hz hr hb
    obtain ⟨hdr, hacc, hnext, hdone, hmem⟩ := hu.swept (total := blockCount c) hg hq
    exact ⟨_, _, he, hdr, rfl, rfl, rfl, rfl, rfl, rfl, fun hcx n hn => sweepDrain_vals s hcx g eng _ hn, hacc, hnext, hdone,
      byte_congr hmem⟩
  · obtain ⟨hin, hout⟩ := drained_acc hsel c (quad s eng q).acc
    have hquad := quad_modQuad_same (s.addFlags d.cmd (drained d c (quad s eng q).acc).2) eng q (fun u =>
        { u with drains := ds, acc := (drained d c (quad s eng q).acc).1
                 convs := u.convs ++ (if d.last then [{ cmd := d.cmd, tile := d.tile, bi := d.bi, bj := d.bj }] else []) })
    refine ⟨_, exec_blockDrainEnd hd hc, congrArg Quad.drains hquad, fun a => rfl, congrArg Quad.convs hquad, fun i hi x hx => ?_,
      fun k hk => ?_, fun hadd => ?_⟩
    · rw [hquad]
      exact hin i hi x hx
    · rw [hquad]
      exact hout k hk
    · have hfl : (drained d c (quad s eng q).acc).2 = .none := foldl_drainStep_flags hadd _ _ _ _ _
      rw [hfl]
      exact addFlags_none s d.cmd

end Sys2Proof.Machine

/-! ## The ramp disturbs no result (O29)

Both ramp commands only change an engine's ramp state and put the heads of its queues in progress. The fields that a result is
read from are the same under each of these two steps, for every number of a quadrant: a number past 3 names a quadrant of another
engine, so a field is followed through every key of the map and not through the four queues of one engine. -/

namespace Sys2Proof.Machine

/-- `t` has the commands, the registers, the memory, the accumulators and drain registers, and the busy cycles of `s` (R87). -/
structure SameResults (s t : State) : Prop where
  cmds : t.cmds = s.cmds
  regs : t.regs = s.regs
  mem : t.mem = s.mem
  acc : ∀ e q, (quad t e q).acc = (quad s e q).acc
  drains : ∀ e q, (quad t e q).drains = (quad s e q).drains
  busy : ∀ e, (engine t e).busy = (engine s e).busy

theorem SameResults.refl (s : State) : SameResults s s := ⟨rfl, rfl, rfl, fun _ _ => rfl, fun _ _ => rfl, fun _ => rfl⟩

theorem SameResults.trans {s t u : State} (h : SameResults s t) (k : SameResults t u) : SameResults s u :=
  ⟨k.cmds.trans h.cmds, k.regs.trans h.regs, k.mem.trans h.mem, fun e q => (k.acc e q).trans (h.acc e q),
    fun e q => (k.drains e q).trans (h.drains e q), fun e => (k.busy e).trans (h.busy e)⟩

/-- A part of the values that `f` keeps is the same at every key after `f` at one of them. -/
theorem SMap.get_modify_field {α β : Type} [DecidableEq α] (field : α → β) {f : α → α} (hf : ∀ v, field (f v) = field v)
    (d : α) (m : SMap α) (k a : Nat) : field (SMap.get d (SMap.modify d m k f) a) = field (SMap.get d m a) := by
  rw [SMap.get_modify]
  split
  case isTrue h => rw [h, hf]
  case isFalse => rfl

theorem sameResults_modEngine (s : State) (eng : Nat) {f : Engine → Engine} (hf : ∀ e, (f e).busy = e.busy) :
    SameResults s (s.modEngine eng f) :=
  ⟨rfl, rfl, rfl, fun _ _ => rfl, fun _ _ => rfl, SMap.get_modify_field Engine.busy hf {} s.engines eng⟩

theorem sameResults_modQuad (s : State) (eng q : Nat) {f : Quad → Quad} (ha : ∀ u, (f u).acc = u.acc)
    (hd : ∀ u, (f u).drains = u.drains) : SameResults s (s.modQuad eng q f) :=
  ⟨rfl, rfl, rfl, fun e r => SMap.get_modify_field Quad.acc ha {} s.quads (quadKey eng q) (quadKey e r),
    fun e r => SMap.get_modify_field Quad.drains hd {} s.quads (quadKey eng q) (quadKey e r), fun _ => rfl⟩

theorem sameResults_startQueues (eng : Nat) (l : List Nat) : ∀ s : State, SameResults s (s.startQueues eng l) := by
  induction l with
  | nil => exact SameResults.refl
  | cons q l ih =>
    intro s
    have hhead : SameResults s (s.modQuad eng q Quad.headStarted) :=
      sameResults_modQuad s eng q (fun _ => rfl) (fun _ => rfl)
    exact hhead.trans (ih _)

theorem sameResults_startHeads (s : State) (eng : Nat) : SameResults s (s.startHeads eng) := by
  rw [startHeads_eq]
  split
  · exact sameResults_startQueues eng _ s
  · exact SameResults.refl s

theorem exec_rampUpEnd_sameResults (s : State) (eng : Nat) : ∃ t, exec (.rampUpEnd eng) s = .next t ∧ SameResults s t := by
  by_cases h : ∃ n, (engine s eng).ramp = .up n
  · obtain ⟨n, hn⟩ := h
    have hramp : SameResults s (s.modEngine eng (fun e => { e with ramp := .active })) :=
      sameResults_modEngine s eng fun _ => rfl
    exact ⟨_, exec_rampUpEnd hn, hramp.trans (sameResults_startHeads _ eng)⟩
  · exact ⟨s, exec_rampUpEnd_idle (not_exists.1 h), .refl s⟩

theorem exec_rampDownEnd_sameResults (s : State) (eng : Nat) :
    ∃ t, exec (.rampDownEnd eng) s = .next t ∧ SameResults s t := by
  by_cases h : (engine s eng).ramp = .down
  · exact ⟨_, exec_rampDownEnd h, sameResults_modEngine s eng fun _ => rfl⟩
  · exact ⟨s, exec_rampDownEnd_idle h, .refl s⟩

/-- Settles O29: each ramp command answers a state with the same results. -/
theorem rampSetsNoFlag : Obligations.RampSetsNoFlag := by
  intro s eng c hc
  have hsame : ∃ t, exec c s = .next t ∧ SameResults s t := by
    rcases List.mem_pair.1 hc with rfl | rfl
    · exact exec_rampUpEnd_sameResults s eng
    · exact exec_rampDownEnd_sameResults s eng
  obtain ⟨t, he, ht⟩ := hsame
  exact ⟨t, he, ht.cmds, ht.regs, ht.mem, fun e q => ⟨ht.acc e q, ht.drains e q⟩, ht.busy⟩

end Sys2Proof.Machine

/-! ## Register writes out of bounds (O9)

Every row of `regRow` is one `State.onWrite` at its page, so what a refused write does is what `onWrite` does with each answer of
`accessOf`. -/

namespace Sys2Proof.Machine

/-! ### Each row is one access to its page -/

/-- A row that writes a register acts on its page by `onWrite`, whatever the write then does. -/
theorem exec_regRow {c : Instr} {who : Requester} {page : Nat} (h : regRow c = some (who, page)) (hp : page < pageCount) (s : State) :
    ∃ f, exec c s = .next (s.onWrite who page f) := by
  cases c with
  | registerWrite w g reg val hw =>
    obtain ⟨⟨hr, hpl⟩, he⟩ := Option.ite_none_right_eq_some.1 h
    cases he
    exact ⟨_, exec_registerWrite_plain hp hr hpl _ _ _ s⟩
  | blkIrqEnWrite | blkIrqStatClear =>
    cases h
    exact ⟨_, if_pos hp⟩
  | qgSeedWrite | qgKeyClear | trnLedgerCtlWrite | narShardWrite =>
    obtain ⟨hb, he⟩ := Option.ite_none_right_eq_some.1 h
    cases he
    exact ⟨_, if_pos hb⟩
  | courseEnable | courseDisable | ringEnable | ringDisable | ctxReset | doorbell | steerStart | steerStop | secSealWrite
    | rasLogCursorWrite | partitionReset =>
    cases h
    exact ⟨_, rfl⟩
  | _ => cases h

/-! ### A denied write (R329) -/

/-- A field below the one that is put back stays. -/
theorem fld_setFld_below (w v : Nat) {hi lo hi' : Nat} (h : hi' < lo) (lo' : Nat) :
    fld (setFld w hi lo v) hi' lo' = fld w hi' lo' := by
  have hmod : setFld w hi lo v % 2 ^ lo = w % 2 ^ lo := by
    have hle : 2 ^ lo * fld w hi lo ≤ w := by
      rw [fld, Nat.shiftRight_eq_div_pow]
      exact (Nat.mul_le_mul_left _ (Nat.mod_le _ _)).trans (Nat.mul_div_le _ _)
    rw [setFld, Nat.shiftLeft_eq, Nat.shiftLeft_eq, Nat.add_mul_mod_self_right, Nat.mul_comm (fld w hi lo), Nat.sub_mul_mod hle]
  refine Nat.eq_of_testBit_eq fun i => ?_
  simp only [fld, Nat.testBit_mod_two_pow, Nat.testBit_shiftRight]
  by_cases hi : i < hi' + 1 - lo'
  · have hbit := congrArg (fun n => n.testBit (lo' + i)) hmod
    simpa [Nat.testBit_mod_two_pow, hi, show lo' + i < lo by omega] using hbit
  · simp [hi]

/-- A field below a counter does not count. -/
theorem regFld_bump_below (s : State) (page n : Nat) {reg hi lo hi' : Nat} (hr : reg < 512) (h : hi' < lo) (hh : hi' < 64) (lo' : Nat) :
    (s.bump page reg hi lo n).regFld page reg hi' lo' = s.regFld page reg hi' lo' := by
  rw [State.bump, State.setRegFld, State.regFld, reg_setReg_same _ _ _ _ hr, fld_mod_word _ _ hh, fld_setFld_below _ _ h]
  rfl

/-- HST_ERR stands on the HST page alone. -/
theorem homePage_hst {s : State} {g r : Nat} (h : homePage s g r = 0) : g = 0 := by
  have hb : blkOf g = .hst := by
    rw [← blkOf_homePage s g r, h]
    rfl
  rwa [homePage, hb, if_neg (by simp [isAlias])] at h

/-- A denied write counts in HST_ERR and leaves every other register. -/
theorem denied_reg (s : State) {g r : Nat} (hr : r < 512) (h : g ≠ 0 ∨ r ≠ Reg.hstErr) : s.denied.reg g r = s.reg g r := by
  refine (reg_setReg s 0 Reg.hstErr _ g r (by decide) hr).trans (if_neg ?_)
  rintro ⟨hg, rfl⟩
  exact h.elim (fun h => h (homePage_hst hg)) (fun h => h rfl)

theorem denied_counts (s : State) :
    s.denied.regFld 0 Reg.hstErr 31 16 = Nat.min 65535 (s.regFld 0 Reg.hstErr 31 16 + 1) ∧
      s.denied.regFld 0 Reg.hstErr 15 0 = s.regFld 0 Reg.hstErr 15 0 :=
  ⟨regFld_bump s 0 1 (by decide) (by decide), regFld_bump_below s 0 1 (by decide) (by decide) (by decide) 0⟩

/-! ### A write outside a steering program's bounds (R357) -/

/-- The hub cores of a partition once they have stopped. -/
theorem stopSteer_stopped (s : State) (p st : Nat) : (sec (s.stopSteer p st) p).steer = st ∧ (sec (s.stopSteer p st) p).imageKib = 0 ∧
    SMap.get 0 (s.stopSteer p st).hubGrps (steerGroup s p) = 0 := by
  have hsec : sec (s.stopSteer p st) p =
      { sec s p with steer := st, imageKib := 0, meas4 := if st = 2 then (sec s p).meas4 else 0 } :=
    SMap.get_modify_same ({} : Sec) s.secs p
      (fun x => { x with steer := st, imageKib := 0, meas4 := if st = 2 then x.meas4 else 0 })
  rw [hsec]
  exact ⟨rfl, rfl, SMap.get_set_same 0 s.hubGrps _ 0⟩

/-- The trap is an event of the state in which the cores have stopped. -/
theorem steerTrap_aside {s : State} (hs : s.settings.partitions ≤ 4) (p : Nat) : AsideFromEvents (s.stopSteer p 2) (s.steerTrap p) :=
  State.raise_aside _ _ _ _ hs

theorem AsideFromEvents.secs {s t : State} (h : AsideFromEvents s t) : t.secs = s.secs := by
  have e := congrArg State.secs h.rest; exact e

theorem AsideFromEvents.hubGrps {s t : State} (h : AsideFromEvents s t) : t.hubGrps = s.hubGrps := by
  have e := congrArg State.hubGrps h.rest; exact e

/-- Settles O9: each answer of `accessOf` but `ok` decides what `onWrite` does, whatever was to be written. -/
theorem writesOutOfBounds : Obligations.WritesOutOfBounds := by
  intro c who page s hs hc hp
  obtain ⟨f, hf⟩ := exec_regRow hc hp s
  have hs : s.settings.partitions ≤ 4 := by
    simp only [List.mem_cons, List.not_mem_nil, or_false] at hs
    omega
  rw [hf]
  unfold State.onWrite
  refine ⟨fun h => by rw [h], fun h => ?_, fun h => by rw [h], fun p h => ?_⟩ <;> rw [h]
  · obtain ⟨hcount, hbelow⟩ := denied_counts s
    exact ⟨s.denied, rfl, bump_rest s _ _ _ _ _ _, hcount, hbelow, fun g r hr hg => denied_reg s hr hg⟩
  · have ha := steerTrap_aside hs p
    obtain ⟨hsteer, himage, hgroup⟩ := stopSteer_stopped s p 2
    refine ⟨_, rfl, ha, ?_, ?_, ?_, State.raise_bit _ _ _ _ (by decide) hs⟩
    · rw [sec, ha.secs]
      exact hsteer
    · rw [sec, ha.secs]
      exact himage
    · rw [ha.hubGrps]
      exact hgroup

end Sys2Proof.Machine

/-! ## Commands that wait for their start (O17)

Every row that takes a command off its ring answers an arrived one in the same way: it waits for the slabs of its tables, or goes to
`checkAndStart`. What some rows do after that (the LADDER count, CTR_OVERRUN, the events of the near-memory units) is for commands that
ended with a status of a class check, which one that waits, or whose slab cannot be fetched, does not have. -/

namespace Sys2Proof.Machine

/-! ### The command that has arrived -/

/-- A row that takes a command up serves it under its number. -/
theorem Arrives.servedId {cls sub k : Nat} {s v : State} {c : Cmd} (h : Arrives cls sub k s v c) : servedId cls sub s k = c.id := by
  rcases h with ⟨h, -⟩ | ⟨h, b, -, -, -, -, -, -, rfl⟩
  · simp [Machine.servedId, h]
  · simp [Machine.servedId, h, newCmd]

/-- It stands among the commands and has not ended. -/
theorem Arrives.cmd? {cls sub k : Nat} {s v : State} {c : Cmd} (h : Arrives cls sub k s v c) (hs : Sound s) :
    v.cmd? c.id = some c ∧ c.status = none := by
  rcases h with ⟨h, -, -, -, rfl⟩ | ⟨-, b, -, -, -, -, -, rfl, rfl⟩
  · have hp := List.find?_some h
    simp only [Bool.and_eq_true, Option.isNone_iff_eq_none] at hp
    obtain ⟨⟨⟨-, hst⟩, -⟩, -⟩ := hp
    exact ⟨State.cmd?_of_mem hs.cmds.1 (List.mem_of_find?_eq_some h), hst⟩
  · exact ⟨take_cmd? hs k b, rfl⟩

/-! ### What a row answers to it -/

/-- The command as it stands while it is still to start. -/
def Cmd.unstarted (c : Cmd) : Cmd := { c with checked := false }

/-- An arrived command waits for the slabs of its tables, or goes on to its checks and its start. -/
def served (cls sub : Nat) (start : State → Cmd → State) (v : State) (c : Cmd) : State :=
  if (rowNeed cls sub v c).isEmpty then checkAndStart (rowAtOnce cls sub) (rowCheck cls sub) start v c
  else (v.modCmd c.id Cmd.unstarted).waitSlabs c.id c.part (rowNeed cls sub v c)

/-- The command of a number has not ended, or its slab cannot be fetched. -/
def StillWaits (t : State) (id : Nat) : Prop := ∀ d, t.cmd? id = some d → d.status = none ∨ d.status = some St.tierUnreachable

/-- Such a command has no status of a class check. -/
theorem StillWaits.ne {t : State} {id : Nat} (h : StillWaits t id) {d : Cmd} (hd : t.cmd? id = some d) {st : Nat}
    (hst : st ≠ St.tierUnreachable) : d.status ≠ some st := by
  intro e
  rcases h d hd with h | h <;> rw [e] at h <;> cases h
  exact hst rfl

section
variable {cls sub k : Nat} {s v : State} {c : Cmd} (ha : Arrives cls sub k s v c)
include ha

theorem dispatchRowT_served (start : State → Cmd → State) :
    dispatchRowT (rowAtOnce cls sub) cls sub k (rowNeed cls sub) (rowCheck cls sub) start s = served cls sub start v c := by
  rcases ha with ⟨h, -, -, -, rfl⟩ | ⟨h, b, hx, hp, hc, hs, he, rfl, rfl⟩
  · simp only [dispatchRowT, h]
    rfl
  · simp only [dispatchRowT, h, hx, hp, rowTakes_own hc hs, he]
    rfl

/-- A row whose operation reads no tables. -/
theorem dispatchRow_served (hn : rowNeed cls sub = noNeed) (h1 : rowAtOnce cls sub = true) (start : State → Cmd → State) :
    dispatchRow cls sub k (rowCheck cls sub) start s = served cls sub start v c := by
  rw [dispatchRow_arrives ha, served, hn, h1]
  rfl

end

/-- LADDER counts no command that still waits. -/
theorem countLadder_waits {op k : Nat} {s t : State} (h : StillWaits t (servedId 4 op s k)) : s.countLadder t op k = t := by
  unfold State.countLadder
  split
  · next c hc => exact if_neg (by simpa using h.ne hc (st := St.ladder) (by decide))
  · rfl

theorem countLadder_served {op k : Nat} {s v : State} {c : Cmd} (ha : Arrives 4 op k s v c) (start : State → Cmd → State)
    (h : StillWaits (served 4 op start v c) c.id) :
    s.countLadder (dispatchRow 4 op k syncCheck start s) op k = served 4 op start v c := by
  have hrow : dispatchRow 4 op k syncCheck start s = served 4 op start v c := dispatchRow_served ha rfl rfl start
  rw [hrow]
  exact countLadder_waits (by rwa [ha.servedId])

/-- CTR_OVERRUN is no event of a command that still waits. -/
theorem execCtrPost_waits {k : Nat} {s : State} (h : StillWaits (dispatchRow 4 0x13 k syncCheck ctrPostStart s) (servedId 4 0x13 s k)) :
    execCtrPost k s = .next (dispatchRow 4 0x13 k syncCheck ctrPostStart s) := by
  unfold execCtrPost
  dsimp only
  split
  · next c hc =>
    have hst := h.ne hc (st := St.malformed) (by decide)
    exact if_neg (by simp [hst])
  · rfl

/-- A near-memory command that still waits raises no event of a refusal. -/
theorem nmuRow_waits {op k : Nat} {s : State} (hf : unitsFull op s k = false)
    (h : StillWaits (dispatchRowT true 3 op k nmuNeed nmuCheck nmuStart s) (servedId 3 op s k)) :
    nmuRow op k s = dispatchRowT true 3 op k nmuNeed nmuCheck nmuStart s := by
  unfold nmuRow
  rw [hf, if_neg Bool.false_ne_true]
  dsimp only
  split
  · next c hc => rw [if_neg (h.ne hc (by decide)), if_neg (h.ne hc (by decide))]
  · rfl

/-- Every row that takes a command off its ring answers an arrived one as `served` says, where that leaves it waiting. -/
theorem exec_served {i : Instr} {cls sub k : Nat} {s v : State} {c : Cmd} (hi : ringRow i = some (cls, sub, k))
    (hh : ringHeld s i = false) (ha : Arrives cls sub k s v c) :
    ∃ start, StillWaits (served cls sub start v c) c.id → exec i s = .next (served cls sub start v c) := by
  cases i with
  | matmul | fusedCommand | run | runPersist | reduceScatter | allGather | allReduce | broadcast | permute | reshard | keyOpen =>
    cases hi
    exact ⟨_, fun _ => congrArg Host.Outcome.next (dispatchRowT_served ha _)⟩
  | release | semInit | semTry | semRelease | semClearPoison | ctrInit | ctrClaim | ctrUnclaim | retire | fetch | flush | evict
    | drop | alloc | bind | keyStatus | keyCmdClear | stepBegin | mode | input =>
    cases hi
    exact ⟨_, fun _ => congrArg Host.Outcome.next (dispatchRow_served ha rfl rfl _)⟩
  | semAcquire | ctrTake | lintel =>
    cases hi
    exact ⟨_, fun h => congrArg Host.Outcome.next (countLadder_served ha _ h)⟩
  | ctrPost =>
    cases hi
    refine ⟨ctrPostStart, fun h => ?_⟩
    rw [← dispatchRow_served ha rfl rfl, ← ha.servedId] at h
    exact (execCtrPost_waits h).trans (congrArg Host.Outcome.next (dispatchRow_served ha rfl rfl _))
  | add | mul | fma | affine | div | max | min | rsqrt | exp | gelu | silu | rmsnorm | layernorm | softmax | quant | dequant
    | adamw | lion | sgdm | plumb | fence =>
    cases hi
    refine ⟨nmuStart, fun h => ?_⟩
    rw [← dispatchRowT_served ha, ← ha.servedId] at h
    exact congrArg Host.Outcome.next ((nmuRow_waits hh h).trans (dispatchRowT_served ha _))
  | rearm | snap =>
    cases hi
    refine ⟨_, fun _ => (if_neg ?_).trans (congrArg Host.Outcome.next (dispatchRow_served ha rfl rfl _))⟩
    simpa [ringHeld, ringRow] using hh
  | _ => cases hi

/-! ### The slabs of its tables (R99, R253, R254) -/

/-- A fetch of the slab is queued or under way. -/
def Fetching (s : State) (p n : Nat) : Prop := ∃ j ∈ (tier s p).jobs, j.slab = n ∧ j.wb = false

theorem Fetching.congr {s t : State} {p n : Nat} (h : Fetching s p n) (ht : (tier t p).jobs = (tier s p).jobs) : Fetching t p n := by
  rwa [Fetching, ht]

theorem tier_modTier_same (s : State) (p : Nat) (f : Tier → Tier) : tier (s.modTier p f) p = f (tier s p) :=
  SMap.get_modify_same ({} : Tier) s.tiers p f

theorem frameOf_congr {s t : State} {p : Nat} (h : (tier t p).frames = (tier s p).frames) (n : Nat) : frameOf t p n = frameOf s p n := by
  rw [frameOf, h, frameOf]

/-- The jobs of a tier manager once a fetch is queued for a slab without a frame. -/
def fetchJobs (n cls : Nat) (id : Option Nat) (l : List TierJob) : List TierJob :=
  if l.any (fun j => j.slab == n && !j.wb) then
    l.map (fun j => if j.slab = n && !j.wb then { j with cls := Nat.min j.cls cls, cmd := j.cmd.orElse (fun _ => id) } else j)
  else l ++ [{ slab := n, cls := cls, wb := false, cmd := id }]

theorem tier_queueFetch (s : State) (p n cls : Nat) (id : Option Nat) : tier (s.queueFetch p n cls id) p =
    if (frameOf s p n).isSome then tier s p else { tier s p with jobs := fetchJobs n cls id (tier s p).jobs } := by
  unfold State.queueFetch
  split
  · rfl
  · rw [tier_modTier_same, fetchJobs]
    split <;> rfl

/-- Every fetch that was there is still there. -/
theorem mem_fetchJobs {n cls : Nat} {id : Option Nat} {l : List TierJob} {j : TierJob} (h : j ∈ l) :
    ∃ x ∈ fetchJobs n cls id l, x.slab = j.slab ∧ x.wb = j.wb := by
  unfold fetchJobs
  split
  · refine ⟨_, List.mem_map_of_mem h, ?_, ?_⟩ <;> split <;> rfl
  · exact ⟨j, List.mem_append_left _ h, rfl, rfl⟩

/-- A fetch of the slab is among them. -/
theorem fetchJobs_fetches (n cls : Nat) (id : Option Nat) (l : List TierJob) : ∃ j ∈ fetchJobs n cls id l, j.slab = n ∧ j.wb = false := by
  by_cases h : l.any (fun j => j.slab == n && !j.wb) = true
  · obtain ⟨j, hj, hn⟩ := List.any_eq_true.1 h
    simp only [Bool.and_eq_true, beq_iff_eq, Bool.not_eq_true'] at hn
    obtain ⟨x, hx, hs, hw⟩ := mem_fetchJobs (n := n) (cls := cls) (id := id) hj
    exact ⟨x, hx, hs.trans hn.1, hw.trans hn.2⟩
  · rw [fetchJobs, if_neg h]
    exact ⟨_, List.mem_append_right _ (List.mem_singleton_self _), rfl, rfl⟩

/-- Queueing a fetch takes no frame, keeps the other fetches, and fetches a slab without a frame. -/
theorem queueFetch_fetches (s : State) (p n cls : Nat) (id : Option Nat) :
    (∀ m, frameOf (s.queueFetch p n cls id) p m = frameOf s p m) ∧
      (∀ m, Fetching s p m → Fetching (s.queueFetch p n cls id) p m) ∧
      (frameOf s p n = none → Fetching (s.queueFetch p n cls id) p n) := by
  have ht := tier_queueFetch s p n cls id
  cases hf : frameOf s p n with
  | some f =>
    rw [hf, if_pos Option.isSome_some] at ht
    exact ⟨frameOf_congr (by rw [ht]), fun m hm => hm.congr (congrArg Tier.jobs ht), fun h => nomatch h⟩
  | none =>
    rw [hf, if_neg (by simp)] at ht
    have hj := congrArg Tier.jobs ht
    refine ⟨frameOf_congr (by rw [ht]), fun m ⟨j, hj', hs, hw⟩ => ?_, fun _ => ?_⟩
    · obtain ⟨x, hx, hxs, hxw⟩ := mem_fetchJobs (n := n) (cls := cls) (id := id) hj'
      exact ⟨x, by rw [hj]; exact hx, hxs.trans hs, hxw.trans hw⟩
    · obtain ⟨x, hx, hxs, hxw⟩ := fetchJobs_fetches n cls id (tier s p).jobs
      exact ⟨x, by rw [hj]; exact hx, hxs, hxw⟩

theorem queueFetches_fetches (p cls : Nat) (id : Option Nat) (l : List Nat) : ∀ s : State,
    (∀ m, frameOf (l.foldl (fun t n => t.queueFetch p n cls id) s) p m = frameOf s p m) ∧
      (∀ m, Fetching s p m → Fetching (l.foldl (fun t n => t.queueFetch p n cls id) s) p m) ∧
      ∀ n ∈ l, frameOf s p n = none → Fetching (l.foldl (fun t n => t.queueFetch p n cls id) s) p n := by
  induction l with
  | nil => exact fun s => ⟨fun _ => rfl, fun _ h => h, fun _ h => absurd h List.not_mem_nil⟩
  | cons n l ih =>
    intro s
    obtain ⟨hframe, hkeep, hnew⟩ := queueFetch_fetches s p n cls id
    obtain ⟨hframes, hkeeps, hnews⟩ := ih (s.queueFetch p n cls id)
    refine ⟨fun m => (hframes m).trans (hframe m), fun m h => hkeeps m (hkeep m h), fun m hm h => ?_⟩
    rcases List.mem_cons.1 hm with rfl | hm
    · exact hkeeps m (hnew h)
    · exact hnews m hm ((hframe m).trans h)

theorem State.queueFetch_frame (s : State) (p n cls : Nat) (id : Option Nat) : CmdFrame s (s.queueFetch p n cls id) :=
  .ite (.refl s) (s.modTier_frame p _)

theorem State.queueFetches_cmds (p cls : Nat) (id : Option Nat) (l : List Nat) (s : State) :
    (l.foldl (fun t n => t.queueFetch p n cls id) s).cmds = s.cmds := by
  have h := congrArg State.cmds (foldl_keep (fun t => { t with tiers := s.tiers }) _ (fun t n => queueFetch_rest t p n cls id s.tiers) l s)
  exact h

theorem State.cmdWaits_tiers (s : State) (id : Nat) (w : Wait) : (s.cmdWaits id w).tiers = s.tiers := by
  unfold State.cmdWaits
  split
  · exact foldl_keep State.tiers _ (fun t n => by unfold State.ctxWaits; dsimp only; split <;> rfl) _ _
  · rfl

/-- Waiting for slabs is within what a command's wait and end may touch. -/
theorem State.waitSlabs_frame (s : State) (id p : Nat) (slabs : List Nat) : CmdFrame s (s.waitSlabs id p slabs) := by
  unfold State.waitSlabs
  dsimp only
  refine .ite (s.endCmd_frame id _) ?_
  exact (((CmdFrame.foldl _ (fun t n => t.queueFetch_frame p n 1 (some id)) slabs s).trans (State.modTier_frame _ p _)).trans
    (State.modCmd_frame _ id _)).trans (State.cmdWaits_frame _ id _)

theorem waitSlabs_unreachable {s : State} {p : Nat} {slabs : List Nat} (h : ∃ n ∈ slabs, unreachable s p n = true) (id : Nat) :
    s.waitSlabs id p slabs = s.endCmd id St.tierUnreachable := if_pos (List.any_eq_true.2 h)

/-- Slabs that can all be fetched are fetched, and the command waits on slab-ready. -/
theorem waitSlabs_waits {s : State} {id p : Nat} {slabs : List Nat} {c : Cmd} (hc : s.cmd? id = some c)
    (h : ∀ n ∈ slabs, unreachable s p n = false) :
    (∃ (w : Nat) (d : Cmd), (s.waitSlabs id p slabs).cmd? id = some d ∧ d.status = c.status ∧ d.wait = .slabReady w) ∧
      ∀ n ∈ slabs, (frameOf s p n).isSome = true ∨ Fetching (s.waitSlabs id p slabs) p n := by
  have hno : ¬slabs.any (unreachable s p) = true := by simpa using h
  unfold State.waitSlabs
  dsimp only
  rw [if_neg hno]
  have hq (x : Tier → Tier) : ((slabs.foldl (fun t n => t.queueFetch p n 1 (some id)) s).modTier p x).cmd? id = some c :=
    (State.cmd?_congr (State.queueFetches_cmds p 1 (some id) slabs s) id).trans hc
  refine ⟨⟨_, _, State.cmd?_cmdWaits (State.cmd?_modCmd_same (hq _) _) _, rfl, rfl⟩, fun n hn => ?_⟩
  cases hf : frameOf s p n with
  | some f => exact .inl rfl
  | none =>
    obtain ⟨-, -, hnew⟩ := queueFetches_fetches p 1 (some id) slabs s
    refine .inr ((hnew n hn hf).congr ?_)
    rw [tier, State.cmdWaits_tiers]
    have htier := tier_modTier_same (slabs.foldl (fun t n => t.queueFetch p n 1 (some id)) s) p
      (fun x => { x with waitFrom := some (x.waitFrom.getD s.now) })
    have hjobs := congrArg Tier.jobs htier
    exact hjobs

/-! ### The three waits of a command without tables to fetch (R126, R144, R146, R388) -/

section
variable {cls sub k : Nat} {v : State} {c : Cmd} (start : State → Cmd → State) (hn : rowNeed cls sub v c = []) (h1 : rowAtOnce cls sub = true)
include hn h1

/-- Behind earlier work of its contexts. -/
theorem served_behind (hw : waitsBehind v c = true) : served cls sub start v c = v.modCmd c.id Cmd.unstarted := by
  rw [served, hn, h1]
  exact if_pos (by simpa using hw)

/-- With no free context, or behind a command that waits for admission. -/
theorem served_heldBack (hw : waitsBehind v c = false) (hc : rowCheck cls sub v c = none)
    (hb : canBind v c.ring (cmdCores v c.part c.bits) = false ∨ heldBack v c = true) : served cls sub start v c =
      (v.wantClusters (reaches v c)).1.modCmd c.id (fun x => { x.unstarted with wait := .admission }) := by
  have hfree : (canBind v c.ring (cmdCores v c.part c.bits) && !heldBack v c) = false := by
    rcases hb with hb | hb <;> simp [hb]
  simp [served, hn, h1, checkAndStart, hw, hc, hfree, Cmd.unstarted]

/-- While a cluster that it needs is asleep. -/
theorem served_waking (hw : waitsBehind v c = false) (hc : rowCheck cls sub v c = none)
    (hb : canBind v c.ring (cmdCores v c.part c.bits) = true) (hh : heldBack v c = false)
    (ha : (v.wantClusters (reaches v c)).2 = true) : served cls sub start v c =
      (v.wantClusters (reaches v c)).1.modCmd c.id (fun x => { x.unstarted with wait := .none }) := by
  simp [served, hn, h1, checkAndStart, hw, hc, hb, hh, ha, Cmd.unstarted]

end

theorem served_fetches {cls sub : Nat} {v : State} {c : Cmd} (hn : rowNeed cls sub v c ≠ []) (start : State → Cmd → State) :
    served cls sub start v c = (v.modCmd c.id Cmd.unstarted).waitSlabs c.id c.part (rowNeed cls sub v c) :=
  if_neg (by simpa using hn)

/-- Settles O17: the row's answer is `served`, which leaves the command waiting in each of the four ways. -/
theorem commandsWaitForTheirStart : Obligations.CommandsWaitForTheirStart := by
  intro s v i cls sub k c hs hi hh ha need waking
  obtain ⟨start, hexec⟩ := exec_served hi hh ha
  obtain ⟨hc, hst⟩ := ha.cmd? hs
  have hmod (f : Cmd → Cmd) : ((v.wantClusters (reaches v c)).1.modCmd c.id f).cmd? c.id = some { f c with id := c.id } :=
    State.cmd?_modCmd_same ((State.cmd?_congr (v.wantClusters_cmds _) c.id).trans hc) f
  have hframe (f : Cmd → Cmd) : CmdFrame v ((v.wantClusters (reaches v c)).1.modCmd c.id f) :=
    (v.wantClusters_frame _).trans (State.modCmd_frame _ _ _)
  have hanswer {t : State} {d : Cmd} (ht : served cls sub start v c = t) (hd : t.cmd? c.id = some d)
      (hds : d.status = none ∨ d.status = some St.tierUnreachable) : exec i s = .next t := by
    rw [ht] at hexec
    refine hexec fun x hx => ?_
    rw [hd] at hx
    cases hx
    exact hds
  refine ⟨fun hn => ?_, fun hn h1 hw => ?_, fun hn h1 hw hchk hb => ?_, fun hn h1 hw hchk hb hheld hwake => ?_⟩
  · have hu : (v.modCmd c.id Cmd.unstarted).cmd? c.id = some c.unstarted := State.cmd?_modCmd_same hc _
    by_cases hun : ∃ n ∈ need, unreachable v c.part n = true
    · have ht := (served_fetches hn start).trans (waitSlabs_unreachable (s := v.modCmd c.id Cmd.unstarted) hun c.id)
      have hd := State.endCmd_cmd? _ c.id St.tierUnreachable _ hu hst
      refine ⟨_, hanswer ht hd (.inr rfl), ?_, fun _ => ⟨_, hd, rfl⟩, fun h => ?_⟩
      · exact (v.modCmd_frame c.id _).trans (State.endCmd_frame _ _ _)
      · obtain ⟨n, hm, hb⟩ := hun
        rw [h n hm] at hb
        cases hb
    · have hall : ∀ n ∈ need, unreachable v c.part n = false := by simpa using hun
      obtain ⟨⟨w, d, hd, hds, hdw⟩, hfetch⟩ := waitSlabs_waits (s := v.modCmd c.id Cmd.unstarted) hu hall
      have hfr := (v.modCmd_frame c.id Cmd.unstarted).trans (State.waitSlabs_frame _ c.id c.part need)
      exact ⟨_, hanswer (served_fetches hn start) hd (.inl (hds.trans hst)), hfr, fun h => absurd h hun,
        fun _ => ⟨⟨w, d, hd, hds.trans hst, hdw⟩, hfetch⟩⟩
  · have hd : (v.modCmd c.id Cmd.unstarted).cmd? c.id = some c.unstarted := State.cmd?_modCmd_same hc _
    exact ⟨_, _, hanswer (served_behind start hn h1 hw) hd (.inl hst), v.modCmd_frame _ _, hd, hst, rfl⟩
  · exact ⟨_, hanswer (served_heldBack start hn h1 hw hchk hb) (hmod _) (.inl hst), hframe _, _, hmod _, hst, rfl⟩
  · exact ⟨_, _, hanswer (served_waking start hn h1 hw hchk hb hheld hwake) (hmod _) (.inl hst), hframe _, hmod _, hst, rfl, rfl⟩

end Sys2Proof.Machine

/-! ## Tiles reach their engines (O28)

Both operations end alike: segments enter the queue of a quadrant, its engine wakes, and the heads of an active engine's queues start.
Starting changes no queue but for the mark on its head, so a queue is compared without these marks. What TILE_EMIT does before, placing
the tile and asking for its operands, leaves queues, engines and memory and moves the walk once. -/

namespace Sys2Proof.Machine

/-! ### Queues without their marks of progress -/

/-- Segments without the mark that they are in progress. -/
def bareSegs (l : List TileSeg) : List TileSeg := l.map (fun g => { g with started := false })

theorem bareSegs_append (l m : List TileSeg) : bareSegs (l ++ m) = bareSegs l ++ bareSegs m := List.map_append

theorem bareSegs_startHead (l : List TileSeg) : bareSegs (startHead l) = bareSegs l := by
  cases l <;> rfl

theorem bareSegs_startQueues (eng : Nat) (l : List Nat) (e r : Nat) : ∀ s : State,
    bareSegs (quad (s.startQueues eng l) e r).queue = bareSegs (quad s e r).queue := by
  induction l with
  | nil => exact fun _ => rfl
  | cons q l ih =>
    intro s
    exact (ih (s.modQuad eng q Quad.headStarted)).trans
      (SMap.get_modify_field (fun u : Quad => bareSegs u.queue) (fun u => bareSegs_startHead u.queue) {} s.quads _ (quadKey e r))

theorem bareSegs_startHeads (s : State) (eng e r : Nat) :
    bareSegs (quad (s.startHeads eng) e r).queue = bareSegs (quad s e r).queue := by
  rw [startHeads_eq]
  split
  · exact bareSegs_startQueues eng _ e r s
  · rfl

/-! ### Quadrants of two engines -/

theorem quadKey_ne {e eng q r : Nat} (hr : r < 4) (hq : q < 4) (h : e ≠ eng ∨ r ≠ q) : quadKey e r ≠ quadKey eng q := by
  simp only [quadKey]
  omega

theorem quad_congr {s t : State} (h : t.quads = s.quads) (e r : Nat) : quad t e r = quad s e r := by
  rw [quad, h, quad]

theorem quad_modQuad_elsewhere (s : State) {e eng q r : Nat} (f : Quad → Quad) (h : quadKey e r ≠ quadKey eng q) :
    quad (s.modQuad eng q f) e r = quad s e r := SMap.get_modify_other ({} : Quad) s.quads f h

theorem quad_startQueues_elsewhere {eng e r : Nat} (he : e ≠ eng) (hr : r < 4) {l : List Nat} : ∀ s : State, (∀ q ∈ l, q < 4) →
    quad (s.startQueues eng l) e r = quad s e r := by
  induction l with
  | nil => exact fun _ _ => rfl
  | cons q l ih =>
    intro s hl
    obtain ⟨hq, hl⟩ := List.forall_mem_cons.1 hl
    exact (ih (s.modQuad eng q Quad.headStarted) hl).trans (quad_modQuad_elsewhere s _ (quadKey_ne hr hq (.inl he)))

/-! ### An engine wakes for the segments that it was given (R85) -/

/-- The engine of a tile that has entered a queue wakes, and the heads of an active engine's queues start. -/
def State.rouse (s : State) (eng : Nat) (fractured : Bool) : State := (s.wakeEngine eng fractured).startHeads eng

/-- Waking touches engines, quadrants and the idle times of cores. -/
theorem rouse_rest (s : State) (eng : Nat) (fractured : Bool) :
    { s.rouse eng fractured with engines := s.engines, quads := s.quads, coreDoms := s.coreDoms } = s := by
  have h := startHeads_rest (s.wakeEngine eng fractured) eng s.quads s.coreDoms
  exact congrArg (fun t : State => { t with engines := s.engines }) h

theorem rouse_mem (s : State) (eng : Nat) (fractured : Bool) : (s.rouse eng fractured).mem = s.mem := by
  have h := congrArg State.mem (rouse_rest s eng fractured)
  exact h

theorem rouse_cmds (s : State) (eng : Nat) (fractured : Bool) : (s.rouse eng fractured).cmds = s.cmds := by
  have h := congrArg State.cmds (rouse_rest s eng fractured)
  exact h

theorem rouse_reg (s : State) (eng : Nat) (fractured : Bool) (g r : Nat) : (s.rouse eng fractured).reg g r = s.reg g r := by
  have hr := congrArg State.regs (rouse_rest s eng fractured)
  have hs := congrArg State.settings (rouse_rest s eng fractured)
  have hf := congrArg State.flash (rouse_rest s eng fractured)
  exact reg_congr hr hs hf g r

theorem rouse_queue (s : State) (eng : Nat) (fractured : Bool) (e r : Nat) :
    bareSegs (quad (s.rouse eng fractured) e r).queue = bareSegs (quad s e r).queue := bareSegs_startHeads _ eng e r

theorem quad_rouse_elsewhere (s : State) {eng e r : Nat} (fractured : Bool) (he : e ≠ eng) (hr : r < 4) :
    quad (s.rouse eng fractured) e r = quad s e r := by
  rw [State.rouse, startHeads_eq]
  split
  · exact quad_startQueues_elsewhere he hr _ (fun q hq => List.mem_range.1 hq)
  · rfl

/-- An idle engine begins to ramp up, and an active one stays active. -/
theorem rouse_ramp (s : State) (eng : Nat) (fractured : Bool) :
    ((engine s eng).ramp = .idle → (engine (s.rouse eng fractured) eng).ramp = .up 8) ∧
      ((engine s eng).ramp = .active → (engine (s.rouse eng fractured) eng).ramp = .active) := by
  have heng : engine (s.rouse eng fractured) eng = engine (s.wakeEngine eng fractured) eng := by
    have h := congrArg State.engines (startHeads_rest (s.wakeEngine eng fractured) eng [] [])
    exact engine_congr h eng
  rw [heng, State.wakeEngine, engine_modEngine_same]
  exact ⟨fun h => by simp only [h], fun h => by simp only [h]⟩

/-! ### What asking for operands leaves (R110, R112) -/

/-- Queues, engines and memory stay, and so do the walk's position, its end and the status of a command. -/
structure WalkKept (id : Nat) (s t : State) : Prop where
  quads : t.quads = s.quads
  engines : t.engines = s.engines
  mem : t.mem = s.mem
  cmd : ∀ c, s.cmd? id = some c →
    ∃ d, t.cmd? id = some d ∧ d.walk.pos = c.walk.pos ∧ d.walk.done = c.walk.done ∧ d.status = c.status

theorem WalkKept.refl (id : Nat) (s : State) : WalkKept id s s := ⟨rfl, rfl, rfl, fun c h => ⟨c, h, rfl, rfl, rfl⟩⟩

theorem WalkKept.trans {id : Nat} {s t u : State} (h : WalkKept id s t) (k : WalkKept id t u) : WalkKept id s u where
  quads := k.quads.trans h.quads
  engines := k.engines.trans h.engines
  mem := k.mem.trans h.mem
  cmd c hc := by
    obtain ⟨d, hd, hp, hw, hst⟩ := h.cmd c hc
    obtain ⟨e, he, hp', hw', hst'⟩ := k.cmd d hd
    exact ⟨e, he, hp'.trans hp, hw'.trans hw, hst'.trans hst⟩

theorem WalkKept.ite {id : Nat} {s t u : State} {p : Prop} [Decidable p] (h : WalkKept id s t) (k : WalkKept id s u) :
    WalkKept id s (if p then t else u) := by
  split <;> assumption

theorem walkKept_bump (id : Nat) (s : State) (page reg hi lo n : Nat) : WalkKept id s (s.bump page reg hi lo n) :=
  ⟨rfl, rfl, rfl, fun c h => ⟨c, h, rfl, rfl, rfl⟩⟩

theorem walkKept_modCmd (id : Nat) (s : State) {f : Cmd → Cmd}
    (hf : ∀ c, (f c).walk.pos = c.walk.pos ∧ (f c).walk.done = c.walk.done ∧ (f c).status = c.status) :
    WalkKept id s (s.modCmd id f) :=
  ⟨rfl, rfl, rfl, fun c h => ⟨_, State.cmd?_modCmd_same h f, hf c⟩⟩

theorem walkKept_modStream (id : Nat) (s : State) (i : Nat) (f : Stream → Stream) : WalkKept id s (s.modStream id i f) := by
  unfold State.modStream
  split
  · exact ⟨rfl, rfl, rfl, fun c h => ⟨c, h, rfl, rfl, rfl⟩⟩
  · exact walkKept_modCmd id s fun _ => ⟨rfl, rfl, rfl⟩

theorem walkKept_fillOperand (s : State) (id cl core : Nat) (isB : Bool) (t k : Nat) :
    WalkKept id s (s.fillOperand id cl core isB t k).1 := by
  unfold State.fillOperand
  split
  · exact .refl id s
  · dsimp only
    split
    · exact .refl id s
    · split
      · exact walkKept_bump ..
      · refine .trans ?_ (walkKept_modCmd id _ fun _ => ⟨rfl, rfl, rfl⟩)
        refine .trans ?_ (walkKept_modStream id _ _ _)
        refine .trans (.trans ?_ (walkKept_bump ..)) (walkKept_bump ..)
        split
        · exact (walkKept_bump ..).trans (walkKept_bump ..)
        · exact .refl id s

/-- Ask for one operand of a segment; a zero tile needs none. -/
def State.ask (s : State) (id eng : Nat) (isB : Bool) (g : TileSeg) : State × Nat :=
  if g.zero then (s, 0) else s.fillOperand id (eng / 32) (eng / 4 % 8) isB g.tile g.kseg

/-- Ask for both operands of a segment, which then names their fills. -/
def State.askBoth (s : State) (id eng : Nat) (g : TileSeg) : State × TileSeg :=
  (((s.ask id eng false g).1.ask id eng true g).1,
    { g with fillA := (s.ask id eng false g).2, fillB := ((s.ask id eng false g).1.ask id eng true g).2 })

theorem walkKept_ask (s : State) (id eng : Nat) (isB : Bool) (g : TileSeg) : WalkKept id s (s.ask id eng isB g).1 := by
  unfold State.ask
  split
  · exact .refl id s
  · exact walkKept_fillOperand ..

theorem walkKept_askBoth (s : State) (id eng : Nat) (g : TileSeg) : WalkKept id s (s.askBoth id eng g).1 :=
  (walkKept_ask ..).trans (walkKept_ask ..)

/-! ### TILE_EMIT (R101, R102) -/

/-- A place is an engine and one of its four quadrants. -/
theorem enginePos_quadrant {s : State} {c : Cmd} {m : Mat} {e : Nat × Nat} (h : e ∈ enginePos s c m) : e.2 < 4 := by
  simp only [enginePos, List.mem_flatMap, List.mem_map, List.mem_range] at h
  obtain ⟨-, -, -, -, q, hq, rfl⟩ := h
  refine hq.trans_le ?_
  split <;> decide

/-- The command has steps of its walk to emit. -/
def walking (c : Cmd) : Bool := hasWalk c.bits && c.admitted && c.status.isNone && !c.walk.done

theorem walking_status {c : Cmd} (h : walking c = true) : c.status = none := by
  simp only [walking, Bool.and_eq_true, Option.isNone_iff_eq_none] at h
  obtain ⟨⟨-, hst⟩, -⟩ := h
  exact hst

/-- The engine position of a tile: the one it has, or the next in order (R101). -/
def tilePlace (s : State) (c : Cmd) (t : Nat) : Nat :=
  (SMap.get none c.walk.engines t).getD (c.walk.ordinal % (enginePos s c (matRun c)).length)

theorem exec_tileEmit_idle {s : State} {id : Nat} (h : ∀ c, s.cmd? id = some c → walking c = false) :
    exec (.tileEmit id) s = .next s := by
  simp only [exec, execTileEmit]
  split
  · rfl
  · next c hc => exact if_pos (by rw [Bool.not_eq_true']; exact h c hc)

/-- The walk moves past the step, with the tiles that it skipped counted. -/
def State.stepped (s : State) (c : Cmd) (id pos sk : Nat) : State :=
  (s.bump (Blk.bnd.page (lowDie s c)) Reg.bndTiles 63 32 sk).walkTo id (pos + 1)

/-- A tile without a place takes the one that it is given, and counts. -/
def State.placeTile (s : State) (c : Cmd) (id t place eng : Nat) : State :=
  if (SMap.get none c.walk.engines t).isSome then s
  else
    ((s.modCmd id (fun x =>
      { x with walk := { x.walk with ordinal := x.walk.ordinal + 1, engines := SMap.set none x.walk.engines t (some place) } })).bump
        (Blk.bnd.page (eng / 32 / 12)) Reg.bndTiles 31 0 1).bump
          (Blk.bnd.page (eng / 32 / 12)) Reg.bndPad 31 0 (if padded (matRun c).bond.bond c.lens t then 1 else 0)

/-- Segments enter the queue of a quadrant. -/
def State.enqueue (s : State) (eng q : Nat) (l : List TileSeg) : State := s.modQuad eng q (fun u => { u with queue := u.queue ++ l })

/-- The segment of a walk step with its fills, and the state that has asked for them. -/
def State.emitting (s : State) (c : Cmd) (id pos sk t k eng : Nat) : State × TileSeg :=
  ((s.stepped c id pos sk).placeTile c id t (tilePlace s c t) eng).askBoth id eng (segOf (matRun c).bond.bond c.lens id t k)

/-- The segment of a walk step stands in its queue. -/
def State.emitted (s : State) (c : Cmd) (id pos sk t k eng q : Nat) : State :=
  (s.emitting c id pos sk t k eng).1.enqueue eng q [(s.emitting c id pos sk t k eng).2]

/-! ### What an enqueued segment shows -/

theorem quad_enqueue_same (s : State) (eng q : Nat) (l : List TileSeg) :
    (quad (s.enqueue eng q l) eng q).queue = (quad s eng q).queue ++ l :=
  congrArg Quad.queue (quad_modQuad_same s eng q (fun u => { u with queue := u.queue ++ l }))

theorem cmd?_bump (s : State) (page reg hi lo n id : Nat) : (s.bump page reg hi lo n).cmd? id = s.cmd? id := rfl

theorem rouse_enqueue_cmd? (s : State) (eng q : Nat) (l : List TileSeg) (fractured : Bool) (id : Nat) :
    ((s.enqueue eng q l).rouse eng fractured).cmd? id = s.cmd? id :=
  State.cmd?_congr (s := s) (rouse_cmds (s.enqueue eng q l) eng fractured) id

theorem State.stepped_quads (s : State) (c : Cmd) (id pos sk : Nat) : (s.stepped c id pos sk).quads = s.quads :=
  (State.modCmd_quads _ id _).trans (walkKept_bump id s _ _ _ _ sk).quads

theorem State.stepped_engines (s : State) (c : Cmd) (id pos sk : Nat) : (s.stepped c id pos sk).engines = s.engines :=
  (State.modCmd_engines _ id _).trans (walkKept_bump id s _ _ _ _ sk).engines

theorem State.stepped_mem (s : State) (c : Cmd) (id pos sk : Nat) : (s.stepped c id pos sk).mem = s.mem :=
  (State.modCmd_mem _ id _).trans (walkKept_bump id s _ _ _ _ sk).mem

theorem walkKept_placeTile (s : State) (c : Cmd) (id t place eng : Nat) : WalkKept id s (s.placeTile c id t place eng) := by
  refine .ite (.refl id s) (.trans (.trans (walkKept_modCmd id s ?_) (walkKept_bump ..)) (walkKept_bump ..))
  exact fun _ => ⟨rfl, rfl, rfl⟩

theorem walkKept_emitting (s : State) (c : Cmd) (id pos sk t k eng : Nat) :
    WalkKept id (s.stepped c id pos sk) (s.emitting c id pos sk t k eng).1 :=
  (walkKept_placeTile ..).trans (walkKept_askBoth ..)

/-- The segment that is emitted is the step's, but for its fills. -/
theorem emitting_segment (s : State) (c : Cmd) (id pos sk t k eng : Nat) : ∃ fa fb,
    (s.emitting c id pos sk t k eng).2 = { segOf (matRun c).bond.bond c.lens id t k with fillA := fa, fillB := fb } := ⟨_, _, rfl⟩

section
variable {s u : State} {c : Cmd} {id pos sk : Nat} (hu : WalkKept id (s.stepped c id pos sk) u)
include hu

/-- The walk stands past the step, and is done where that was its last. -/
theorem WalkKept.stepped_walk (hc : s.cmd? id = some c) : ∃ d, u.cmd? id = some d ∧ d.walk.pos = pos + 1 ∧
    d.walk.done = decide (stepsOf (matRun c).bond.bond ≤ pos + 1) ∧ d.status = c.status := by
  have hcount : (s.bump (Blk.bnd.page (lowDie s c)) Reg.bndTiles 63 32 sk).cmd? id = some c := (cmd?_bump ..).trans hc
  exact hu.cmd _ (State.cmd?_modCmd_same hcount _)

theorem WalkKept.stepped_quad (e r : Nat) : quad u e r = quad s e r := quad_congr (hu.quads.trans (s.stepped_quads ..)) e r

/-- A segment that has entered a queue stands at its end, and nothing else has entered any queue. -/
theorem WalkKept.enqueue_queue {eng q : Nat} (hq : q < 4) (x : TileSeg) (fractured : Bool) :
    (bareSegs (quad ((u.enqueue eng q [x]).rouse eng fractured) eng q).queue = bareSegs (quad s eng q).queue ++ bareSegs [x]) ∧
    ∀ e r, r < 4 → (e ≠ eng ∨ r ≠ q) →
      bareSegs (quad ((u.enqueue eng q [x]).rouse eng fractured) e r).queue = bareSegs (quad s e r).queue := by
  refine ⟨?_, fun e r hr h => ?_⟩
  · rw [rouse_queue, quad_enqueue_same, bareSegs_append, hu.stepped_quad]
  · rw [rouse_queue, State.enqueue, quad_modQuad_elsewhere _ _ (quadKey_ne hr hq h), hu.stepped_quad]

/-- The engine wakes as it was before the segment came. -/
theorem WalkKept.enqueue_ramp (eng q : Nat) (l : List TileSeg) (fractured : Bool) :
    ((engine s eng).ramp = .idle → (engine ((u.enqueue eng q l).rouse eng fractured) eng).ramp = .up 8) ∧
    ((engine s eng).ramp = .active → (engine ((u.enqueue eng q l).rouse eng fractured) eng).ramp = .active) := by
  have heng : engine (u.enqueue eng q l) eng = engine s eng := engine_congr (hu.engines.trans (s.stepped_engines ..)) eng
  have h := rouse_ramp (u.enqueue eng q l) eng fractured
  rwa [heng] at h

theorem WalkKept.enqueue_mem (eng q : Nat) (l : List TileSeg) (fractured : Bool) :
    ((u.enqueue eng q l).rouse eng fractured).mem = s.mem := (rouse_mem _ eng fractured).trans (hu.mem.trans (s.stepped_mem ..))

end

/-! ### The row of TILE_EMIT -/

section
variable {s : State} {id : Nat} {c : Cmd} (hc : s.cmd? id = some c) (hp : c.pass = 0) (hw : walking c = true)
  {pos sk t k eng q : Nat}
  (hn : nextStep (matRun c).bond.bond c.lens (stepsOf (matRun c).bond.bond - c.walk.pos) c.walk.pos 0 = (pos, sk, some (t, k)))
  (hpl : (enginePos s c (matRun c))[tilePlace s c t]? = some (eng, q))
include hc hp hw hn hpl

/-- A full queue, or a core that runs another context, holds the segment. -/
theorem exec_tileEmit_hold (h : 2 ≤ (quad s eng q).queue.length ∨ coreRuns s c.ring (eng / 4) = false) :
    exec (.tileEmit id) s = .next s := by
  rw [walking] at hw
  rw [tilePlace] at hpl
  have hheld : (decide (2 ≤ (quad s eng q).queue.length) || !coreRuns s c.ring (eng / 4)) = true := by
    rcases h with h | h <;> simp [h]
  simp only [exec, execTileEmit, hc, hw, hn, hpl, hp, hheld]
  rfl

/-- Otherwise the tile is placed, its operands are asked for, and the segment enters its queue. -/
theorem exec_tileEmit_emits (hq : (quad s eng q).queue.length < 2) (hr : coreRuns s c.ring (eng / 4) = true) :
    exec (.tileEmit id) s = .next ((s.emitted c id pos sk t k eng q).rouse eng (matRun c).fracture) := by
  rw [walking] at hw
  rw [tilePlace] at hpl
  have hroom : (decide (2 ≤ (quad s eng q).queue.length) || !coreRuns s c.ring (eng / 4)) = false := by simp [hr, hq]
  simp only [exec, execTileEmit, hc, hw, hn, hpl, hp, hroom]
  rfl

/-- What an emitted segment shows. -/
theorem exec_tileEmit_shows (hq : (quad s eng q).queue.length < 2) (hr : coreRuns s c.ring (eng / 4) = true) :
    ∃ v d fa fb, exec (.tileEmit id) s = .next v ∧ v.cmd? id = some d ∧ d.walk.pos = pos + 1 ∧ d.status = none ∧
      d.walk.done = decide (stepsOf (matRun c).bond.bond ≤ pos + 1) ∧
      bareSegs (quad v eng q).queue = bareSegs (quad s eng q).queue ++
        [{ segOf (matRun c).bond.bond c.lens id t k with fillA := fa, fillB := fb }] ∧
      (∀ e r, r < 4 → (e ≠ eng ∨ r ≠ q) → bareSegs (quad v e r).queue = bareSegs (quad s e r).queue) ∧
      ((engine s eng).ramp = .idle → (engine v eng).ramp = .up 8) ∧
      ((engine s eng).ramp = .active → (engine v eng).ramp = .active) ∧ ∀ a, v.byte a = s.byte a := by
  have hexec := exec_tileEmit_emits hc hp hw hn hpl hq hr
  have hu := walkKept_emitting s c id pos sk t k eng
  obtain ⟨fa, fb, hseg⟩ := emitting_segment s c id pos sk t k eng
  rw [State.emitted, hseg] at hexec
  generalize (s.emitting c id pos sk t k eng).1 = u at hexec hu
  obtain ⟨d, hd, hpos, hdone, hst⟩ := hu.stepped_walk hc
  have hquad : q < 4 := enginePos_quadrant (List.mem_of_getElem? hpl)
  obtain ⟨hin, hout⟩ := hu.enqueue_queue hquad _ (matRun c).fracture
  obtain ⟨hidle, hactive⟩ := hu.enqueue_ramp eng q _ (matRun c).fracture
  exact ⟨_, d, fa, fb, hexec, (rouse_enqueue_cmd? ..).trans hd, hpos, hst.trans (walking_status hw), hdone, hin, hout, hidle, hactive,
    byte_congr (hu.enqueue_mem ..)⟩

end

/-! ### TILE_STEAL (R103) -/

/-- The first segment of a tile that an engine has not started, with its quadrant. -/
def stealable (s : State) (src : Nat) : Option (Nat × TileSeg) :=
  (List.range 4).findSome? (fun q => ((quad s src q).queue.find? (fun g => !g.started && g.kseg == 0)).map (fun g => (q, g)))

theorem stealable_quadrant {s : State} {src q : Nat} {g : TileSeg} (h : stealable s src = some (q, g)) : q < 4 := by
  obtain ⟨r, hr, h⟩ := List.exists_of_findSome?_eq_some h
  obtain ⟨x, -, hx⟩ := Option.map_eq_some_iff.1 h
  cases hx
  exact List.mem_range.1 hr

/-- A segment of the same tile. -/
def sameTile (g x : TileSeg) : Bool := x.cmd == g.cmd && x.tile == g.tile

/-- A core has room for one more tile of the command at an engine position (R103). -/
def tileFits (c : Cmd) (place : Nat) : Bool :=
  decide ((tilesAt c place + 1) * (matRun c).bond.bond.mT * (matRun c).bond.bond.nT * wordsPer (matRun c) *
    (if (matRun c).bond.bond.chained then 2 else 1) ≤ (if (matRun c).fracture then 16384 else 65536))

/-- The segments of a tile leave one engine's queue for the same quadrant of another. -/
def State.moveTile (s : State) (src dst q : Nat) (g : TileSeg) : State :=
  (s.modQuad src q (fun u => { u with queue := u.queue.filter (fun x => !sameTile g x) })).enqueue dst q
    ((quad s src q).queue.filter (sameTile g))

/-- The command's tile stands at its new position, and the steal counts. -/
def State.stolen (s : State) (src dst q : Nat) (g : TileSeg) (place : Nat) : State :=
  ((s.moveTile src dst q g).modCmd g.cmd (fun c =>
    { c with walk := { c.walk with engines := SMap.set none c.walk.engines g.tile (some place) } })).bump
      (Blk.bnd.page (dst / 32 / 12)) Reg.bndSteal 63 0 1

section
variable {s : State} {src dst q : Nat} {g : TileSeg} (hf : stealable s src = some (q, g)) {c : Cmd} (hc : s.cmd? g.cmd = some c)
  {place : Nat} (hp : (enginePos s c (matRun c)).findIdx? (fun e => e == (dst, q)) = some place)
include hf hc hp

/-- In deterministic mode a tile stays with its engine. -/
theorem exec_tileSteal_det (hd : c.det = true) : exec (.tileSteal src dst) s = .next s := by
  rw [stealable] at hf
  simp only [exec, execTileSteal, hf, hc, hp, hd]
  rfl

/-- An idle engine of the same core takes the tile. -/
theorem exec_tileSteal_steals (hd : c.det = false) (hcore : src / 4 = dst / 4) (hne : src ≠ dst)
    (hidle : ∀ i < 4, (quad s dst i).queue = []) (hfit : tileFits c place = true) :
    exec (.tileSteal src dst) s = .next ((s.stolen src dst q g place).rouse dst (matRun c).fracture) := by
  rw [stealable] at hf
  have hempty : (List.range 4).all (fun i => (quad s dst i).queue.isEmpty) = true :=
    List.all_eq_true.2 fun i hi => by rw [hidle i (List.mem_range.1 hi)]; rfl
  have hgo : (c.det || src / 4 != dst / 4 || src == dst || !(List.range 4).all (fun i => (quad s dst i).queue.isEmpty) ||
      !tileFits c place) = false := by
    simp [hd, hcore, hne, hempty, hfit]
  rw [tileFits] at hgo
  simp only [exec, execTileSteal, hf, hc, hp, hgo]
  rfl

end

theorem moveTile_rest (s : State) (src dst q : Nat) (g : TileSeg) : (s.moveTile src dst q g).engines = s.engines ∧
    (s.moveTile src dst q g).mem = s.mem ∧ (s.moveTile src dst q g).cmds = s.cmds ∧ (s.moveTile src dst q g).regs = s.regs ∧
    (s.moveTile src dst q g).settings = s.settings ∧ (s.moveTile src dst q g).flash = s.flash := ⟨rfl, rfl, rfl, rfl, rfl, rfl⟩

/-- What a steal leaves of queues, engines and memory: the tile has moved, and no more. -/
theorem stolen_rest (s : State) (src dst q : Nat) (g : TileSeg) (place : Nat) :
    (s.stolen src dst q g place).quads = (s.moveTile src dst q g).quads ∧ (s.stolen src dst q g place).engines = s.engines ∧
      (s.stolen src dst q g place).mem = s.mem := by
  obtain ⟨he, hm, -⟩ := moveTile_rest s src dst q g
  have hb := walkKept_bump g.cmd ((s.moveTile src dst q g).modCmd g.cmd (fun c =>
    { c with walk := { c.walk with engines := SMap.set none c.walk.engines g.tile (some place) } }))
      (Blk.bnd.page (dst / 32 / 12)) Reg.bndSteal 63 0 1
  exact ⟨hb.quads, hb.engines.trans he, hb.mem.trans hm⟩

/-- The tile's segments stand with the engine that took them, and the others with the one that had them. -/
theorem stolen_queues {s : State} {src dst q : Nat} (hq : q < 4) (hne : src ≠ dst) (hempty : (quad s dst q).queue = [])
    (g : TileSeg) (place : Nat) (fractured : Bool) :
    bareSegs (quad ((s.stolen src dst q g place).rouse dst fractured) dst q).queue =
      bareSegs ((quad s src q).queue.filter (sameTile g)) ∧
    (quad ((s.stolen src dst q g place).rouse dst fractured) src q).queue =
      (quad s src q).queue.filter (fun x => !sameTile g x) := by
  obtain ⟨hquads, -⟩ := stolen_rest s src dst q g place
  have hkey : quadKey dst q ≠ quadKey src q := quadKey_ne hq hq (.inl hne.symm)
  refine ⟨?_, ?_⟩
  · rw [rouse_queue, quad_congr hquads, State.moveTile, quad_enqueue_same, quad_modQuad_elsewhere _ _ hkey, hempty, List.nil_append]
  · rw [quad_rouse_elsewhere _ _ hne hq, quad_congr hquads, State.moveTile, State.enqueue,
      quad_modQuad_elsewhere _ _ hkey.symm, quad_modQuad_same]

/-- The command knows the tile's new position. -/
theorem stolen_place {s : State} {g : TileSeg} {c : Cmd} (hc : s.cmd? g.cmd = some c) (src dst q place : Nat) (fractured : Bool) :
    ∃ d, ((s.stolen src dst q g place).rouse dst fractured).cmd? g.cmd = some d ∧
      SMap.get none d.walk.engines g.tile = some place := by
  obtain ⟨-, -, hcmds, -⟩ := moveTile_rest s src dst q g
  have hmoved : (s.moveTile src dst q g).cmd? g.cmd = some c := (State.cmd?_congr hcmds g.cmd).trans hc
  rw [State.cmd?_congr (rouse_cmds _ dst fractured), State.stolen, cmd?_bump, State.cmd?_modCmd_same hmoved]
  exact ⟨_, rfl, SMap.get_set_same none c.walk.engines g.tile (some place)⟩

/-- The steal counts. -/
theorem stolen_counts (s : State) (src dst q : Nat) (g : TileSeg) (place : Nat) (fractured : Bool) :
    ((s.stolen src dst q g place).rouse dst fractured).regFld (Blk.bnd.page (dst / 32 / 12)) Reg.bndSteal 63 0 =
      Nat.min (2 ^ 64 - 1) (s.regFld (Blk.bnd.page (dst / 32 / 12)) Reg.bndSteal 63 0 + 1) := by
  obtain ⟨-, -, -, hregs, hset, hflash⟩ := moveTile_rest s src dst q g
  have hmoved (f : Cmd → Cmd) (r : Nat) : ((s.moveTile src dst q g).modCmd g.cmd f).reg (Blk.bnd.page (dst / 32 / 12)) r =
      s.reg (Blk.bnd.page (dst / 32 / 12)) r := reg_congr hregs hset hflash _ r
  rw [State.regFld, rouse_reg, ← State.regFld, State.stolen, regFld_bump _ _ _ (by decide) (by decide), State.regFld, hmoved, State.regFld]

theorem stolen_ramp {s : State} {src dst q : Nat} {g : TileSeg} {place : Nat} (fractured : Bool) (h : (engine s dst).ramp = .idle) :
    (engine ((s.stolen src dst q g place).rouse dst fractured) dst).ramp = .up 8 := by
  obtain ⟨-, heng, -⟩ := stolen_rest s src dst q g place
  obtain ⟨hidle, -⟩ := rouse_ramp (s.stolen src dst q g place) dst fractured
  exact hidle (by rwa [engine_congr heng])

/-- Settles O28: an emitted segment and a stolen tile, by what each state shows of queues, walk, engine and memory. -/
theorem tilesReachTheirEngines : Obligations.TilesReachTheirEngines := by
  intro s _ bare
  refine ⟨fun id c hc hp => ?_, fun id h => exec_tileEmit_idle h, fun src dst q g c place hf hc hpl =>
    ⟨exec_tileSteal_det hf hc hpl, fun hd hcore hne hidle hfit => ?_⟩⟩
  · intro m b hw pos sk t k eng q hn hpl
    exact ⟨exec_tileEmit_hold hc hp hw hn hpl, exec_tileEmit_shows hc hp hw hn hpl⟩
  · have hq := stealable_quadrant hf
    obtain ⟨hdst, hsrc⟩ := stolen_queues hq hne (hidle q hq) g place (matRun c).fracture
    obtain ⟨-, -, hmem⟩ := stolen_rest s src dst q g place
    exact ⟨_, exec_tileSteal_steals hf hc hpl hd hcore hne hidle (decide_eq_true hfit), hdst, hsrc, stolen_place hc src dst q place _,
      stolen_counts s src dst q g place _, stolen_ramp _, byte_congr ((rouse_mem ..).trans hmem)⟩

end Sys2Proof.Machine

/-! ## The stall sentinel (O35)

The command that the sentinel ends is the last one of its list in the order of R126, which is a total order on commands of different
numbers. Its end comes first; what counts and raises the event after it leaves the commands, the clusters and memory. -/

namespace Sys2Proof.Machine

/-! ### The order of commands (R126, R141) -/

theorem before_trans {a b c : Cmd} (h : before a b = true) (k : before b c = true) : before a c = true := by
  simp only [before, Bool.or_eq_true, Bool.and_eq_true, decide_eq_true_eq, beq_iff_eq] at h k ⊢
  omega

theorem before_of_not_before {a b : Cmd} (hid : a.id ≠ b.id) (h : ¬before a b = true) : before b a = true := by
  simp only [before, Bool.or_eq_true, Bool.and_eq_true, decide_eq_true_eq, beq_iff_eq] at h ⊢
  omega

/-- Some command of a list that is not empty is the victim. -/
theorem victim_cons (c : Cmd) (cs : List Cmd) : ∃ v, victim (c :: cs) = some v := by
  cases hv : victim cs with
  | none => exact ⟨c, by simp only [victim, hv]⟩
  | some d => exact ⟨if before c d then d else c, by simp only [victim, hv]; split <;> rfl⟩

/-- The victim is a command of the list, and every other one comes before it (R141). -/
theorem victim_last {l : List Cmd} (hl : l.Pairwise (fun a b => a.id < b.id)) {v : Cmd} (hv : victim l = some v) :
    v ∈ l ∧ ∀ d ∈ l, d = v ∨ before d v = true := by
  induction l generalizing v with
  | nil => cases hv
  | cons c cs ih =>
    obtain ⟨hc, hcs⟩ := List.pairwise_cons.1 hl
    cases cs with
    | nil =>
      cases hv
      exact ⟨List.mem_singleton_self c, fun d hd => .inl (List.mem_singleton.1 hd)⟩
    | cons b bs =>
      obtain ⟨w, hw⟩ := victim_cons b bs
      obtain ⟨hmem, hlast⟩ := ih hcs hw
      rw [victim, hw] at hv
      by_cases hb : before c w = true
      · obtain rfl : w = v := by simpa [hb] using hv
        exact ⟨List.mem_cons_of_mem c hmem, List.forall_mem_cons.2 ⟨.inr hb, hlast⟩⟩
      · obtain rfl : c = v := by simpa [hb] using hv
        have hwc : before w c = true := before_of_not_before (hc w hmem).ne hb
        refine ⟨List.mem_cons_self, List.forall_mem_cons.2 ⟨.inl rfl, fun d hd => .inr ?_⟩⟩
        rcases hlast d hd with rfl | hdw
        · exact hwc
        · exact before_trans hdw hwc

/-! ### The clusters that an event leaves -/

theorem OnlyEvents.clusters {s t : State} (h : OnlyEvents s t) : t.clusters = s.clusters := by
  have e := congrArg State.clusters h; exact e

theorem cluster_congr {s t : State} (h : t.clusters = s.clusters) (c : Nat) : cluster t c = cluster s c := by
  rw [cluster, h, cluster]

theorem cluster_modCluster_same (s : State) (c : Nat) (f : Cluster → Cluster) : cluster (s.modCluster c f) c = f (cluster s c) :=
  SMap.get_modify_same ..

theorem CmdFrame.settings {s t : State} (h : CmdFrame s t) : t.settings = s.settings := by
  have e := congrArg State.settings h.rest; exact e

/-! ### SENTINEL_EXPIRY -/

section
variable {s : State} {cl now : Nat}

/-- An unfinished command of a cluster is found by its number. -/
theorem cmd?_of_unfinishedIn {c : Cmd} (hs : s.cmds.Pairwise (fun a b => a.id < b.id)) (hc : c ∈ unfinishedIn s cl) :
    s.cmd? c.id = some c ∧ c.status = none := by
  obtain ⟨hmem, hp⟩ := List.mem_filter.1 hc
  obtain ⟨hst, -⟩ := Bool.and_eq_true_iff.1 hp
  exact ⟨State.cmd?_of_mem hs hmem, Option.isNone_iff_eq_none.1 hst⟩

theorem exec_sentinelExpiry_progress : exec (.sentinelExpiry cl now true) s = .next ((s.at_ now).progress cl) := by
  simp only [exec, execSentinelExpiry, if_true]

theorem exec_sentinelExpiry_rests (h : (∀ c ∈ unfinishedIn (s.at_ now) cl, c.wait.exempt = true) ∨
    (s.at_ now).now < (cluster (s.at_ now) cl).sentinel + 1000000) :
    exec (.sentinelExpiry cl now false) s = .next (s.at_ now) := by
  have hrest : ((unfinishedIn (s.at_ now) cl).all (fun c => c.wait.exempt) ||
      decide ((s.at_ now).now < (cluster (s.at_ now) cl).sentinel + 1000000)) = true := by
    simpa [List.all_eq_true] using h
  simp only [exec, execSentinelExpiry, hrest, Bool.false_eq_true, if_false, if_true]

/-- The victim's end; the measure of its cluster starts again. -/
def State.stallEnd (v : State) (cl : Nat) (c : Cmd) : State :=
  (v.endCmd c.id St.stallAborted).modCluster cl (fun x => { x with sentinel := v.now })

/-- The end of the victim with its count and its event (R140). -/
def State.stallAbort (v : State) (cl : Nat) (c : Cmd) : State :=
  ((v.stallEnd cl c).bump (Blk.hod.page cl) Reg.hodSentinel 63 32 1).raise_ (Blk.hod.page cl) 0 (tagDet c)

theorem exec_sentinelExpiry_aborts {c : Cmd} (hex : ∃ c ∈ unfinishedIn (s.at_ now) cl, c.wait.exempt = false)
    (hms : (cluster (s.at_ now) cl).sentinel + 1000000 ≤ (s.at_ now).now) (hv : victim (unfinishedIn (s.at_ now) cl) = some c) :
    exec (.sentinelExpiry cl now false) s = .next ((s.at_ now).stallAbort cl c) := by
  have hrest : ((unfinishedIn (s.at_ now) cl).all (fun c => c.wait.exempt) ||
      decide ((s.at_ now).now < (cluster (s.at_ now) cl).sentinel + 1000000)) = false :=
    Bool.or_eq_false_iff.2 ⟨by simpa using hex, decide_eq_false (Nat.not_lt.2 hms)⟩
  simp only [exec, execSentinelExpiry, hrest, hv, Bool.false_eq_true, if_false]
  rfl

theorem stallEnd_frame (v : State) (cl : Nat) (c : Cmd) : CmdFrame v (v.stallEnd cl c) :=
  (v.endCmd_frame _ _).trans (State.modCluster_frame _ _ _)

theorem stallAbort_onlyEvents (v : State) (cl : Nat) (c : Cmd) : OnlyEvents (v.stallEnd cl c) (v.stallAbort cl c) :=
  (State.bump_onlyEvents _ _ _ _ _ _).raise_ _ _ _

theorem stallAbort_ended (v : State) (cl : Nat) {c : Cmd} (hc : v.cmd? c.id = some c) (hst : c.status = none) :
    EndedWith (v.stallAbort cl c) c.id St.stallAborted := by
  obtain ⟨d, hd, hds⟩ := v.endCmd_ended c.id St.stallAborted c hc hst
  exact ⟨d, (State.cmd?_congr (stallAbort_onlyEvents v cl c).cmds c.id).trans hd, hds⟩

theorem stallAbort_sentinel (v : State) (cl : Nat) (c : Cmd) : (cluster (v.stallAbort cl c) cl).sentinel = v.now := by
  rw [cluster_congr (stallAbort_onlyEvents v cl c).clusters, State.stallEnd, cluster_modCluster_same]

theorem stallAbort_byte (v : State) (cl : Nat) (c : Cmd) (a : Nat) : (v.stallAbort cl c).byte a = v.byte a :=
  ((stallAbort_onlyEvents v cl c).byte a).trans ((stallEnd_frame v cl c).bytes a)

/-- The abort counts, and its event is raised. -/
theorem stallAbort_counts (v : State) (hv : v.settings.partitions ≤ 4) (cl : Nat) (c : Cmd) :
    (v.stallAbort cl c).regFld (Blk.hod.page cl) Reg.hodSentinel 63 32 =
        Nat.min (2 ^ 32 - 1) ((v.stallEnd cl c).regFld (Blk.hod.page cl) Reg.hodSentinel 63 32 + 1) ∧
      ((v.stallAbort cl c).reg (Blk.hod.page cl) Reg.irqStat).testBit 0 = true := by
  have hp : ((v.stallEnd cl c).bump (Blk.hod.page cl) Reg.hodSentinel 63 32 1).settings.partitions ≤ 4 := by
    have hset : (v.stallEnd cl c).settings = v.settings := (stallEnd_frame v cl c).settings
    exact hset ▸ hv
  have hkept := (State.raise_aside _ (Blk.hod.page cl) 0 (tagDet c) hp).regs (Blk.hod.page cl) Reg.hodSentinel (by decide)
    (by decide) (fun h => absurd h.2 (by decide))
  refine ⟨?_, State.raise_bit _ _ 0 _ (by decide) hp⟩
  rw [State.stallAbort, State.regFld, hkept, ← State.regFld, regFld_bump _ _ _ (by decide) (by decide)]

end

/-- Settles O35: progress, rest, or the end of the last command in the order of R126. -/
theorem sentinelExpiry : Obligations.SentinelExpiry := by
  intro s cl now hs
  refine ⟨⟨_, exec_sentinelExpiry_progress, rfl, ?_, ?_⟩, exec_sentinelExpiry_rests, fun hex hms => ?_⟩
  · rw [State.progress, cluster_modCluster_same]
  · rw [State.progress, cluster_modCluster_same]
  · have hids : (s.at_ now).cmds.Pairwise (fun a b => a.id < b.id) := hs.cmds.1
    obtain ⟨c, hv⟩ : ∃ c, victim (unfinishedIn (s.at_ now) cl) = some c := by
      cases hl : unfinishedIn (s.at_ now) cl with
      | nil => simp [hl] at hex
      | cons b bs => exact victim_cons b bs
    obtain ⟨hmem, hlast⟩ := victim_last (hids.filter _) hv
    obtain ⟨hc, hst⟩ := cmd?_of_unfinishedIn hids hmem
    have hparts := sound_partitions hs
    obtain ⟨hcount, hbit⟩ := stallAbort_counts (s.at_ now) hparts cl c
    exact ⟨_, _, c, exec_sentinelExpiry_aborts hex hms hv, hmem,
      fun d hd hne => (hlast d hd).resolve_left fun e => hne (congrArg Cmd.id e), stallAbort_ended _ cl hc hst,
      stallEnd_frame _ cl c, stallAbort_sentinel _ cl c, hcount, hbit, stallAbort_byte (s.at_ now) cl c⟩

end Sys2Proof.Machine

/-! ## Data arrives at the hods (O34)

A tag returns in the same way from a read and from a write: the request goes, the hod counts its bytes and its cluster has made
progress. What follows is either the end of the command or a change of its stream, and neither touches memory. -/

namespace Sys2Proof.Machine

/-! ### The stream of a command -/

theorem streamOf_cmd {s : State} {id k : Nat} {c : Cmd} {st : Stream} (hp : persist? s id = none) (hc : s.cmd? id = some c)
    (ha : c.admitted = true) (hn : c.status = none) (hk : c.streams[k]? = some st) : streamOf s id k = some (c.settings, st) := by
  simp only [streamOf, hp, hc, ha, hn, hk, Option.isNone_none, Bool.and_self, if_true, Option.map_some]

theorem getElem?_setNth {α : Type} (f : α → α) (l : List α) (n : Nat) : (setNth f l n)[n]? = (l[n]?).map f := by
  induction l generalizing n with
  | nil => rfl
  | cons x xs ih => cases n with
    | zero => rfl
    | succ n => exact ih n

theorem modStream_cmd {s : State} {id : Nat} (hp : persist? s id = none) (k : Nat) (f : Stream → Stream) :
    s.modStream id k f = s.modCmd id (fun c => { c with streams := setNth f c.streams k }) := by
  simp only [State.modStream, hp]

/-- A command's stream after a change of it. -/
theorem cmd?_modStream {s : State} {id k : Nat} {c : Cmd} {st : Stream} (hp : persist? s id = none) (hc : s.cmd? id = some c)
    (hk : c.streams[k]? = some st) (f : Stream → Stream) :
    ∃ d, (s.modStream id k f).cmd? id = some d ∧ d.streams[k]? = some (f st) := by
  rw [modStream_cmd hp]
  refine ⟨_, State.cmd?_modCmd_same hc _, ?_⟩
  rw [getElem?_setNth, hk, Option.map_some]

/-! ### The landing buffer (R118) -/

/-- What places from `pos` on hold once `n` of them are set. -/
theorem get_foldl_set {α : Type} [DecidableEq α] (dflt : α) (m : SMap α) (pos : Nat) (v : Nat → α) {n i : Nat} (hi : i < n) :
    SMap.get dflt ((List.range n).foldl (fun m i => SMap.set dflt m (pos + i) (v i)) m) (pos + i) = v i := by
  induction n with
  | zero => exact absurd hi (Nat.not_lt_zero i)
  | succ n ih =>
    rw [List.range_succ, List.foldl_append, List.foldl_cons, List.foldl_nil]
    rcases Nat.lt_succ_iff_lt_or_eq.1 hi with h | rfl
    · rw [SMap.get_set_other _ _ _ (by omega), ih h]
    · exact SMap.get_set_same ..

/-- A byte that has landed stands at its place, one above its value. -/
theorem landed_land (st : Stream) (pos : Nat) {len i : Nat} {bs : List Byte} (hi : i < len) (hb : i < bs.length) :
    SMap.get 0 (st.land pos len bs).landed (pos + i) = (bs.getD i 0).toNat + 1 := by
  rw [Stream.land, get_foldl_set 0 st.landed pos _ hi]
  simp [hb]

/-! ### What feeding counts leaves (R59, R62, R63) -/

/-- Only the commands, the guard slots and the persistent streams differ, and a command's streams stay. -/
structure StreamsKept (s t : State) : Prop where
  rest : { t with cmds := s.cmds, guards := s.guards, persists := s.persists } = s
  streams : ∀ id c, s.cmd? id = some c → ∃ d, t.cmd? id = some d ∧ d.streams = c.streams

theorem StreamsKept.refl (s : State) : StreamsKept s s := ⟨rfl, fun _ c h => ⟨c, h, rfl⟩⟩

theorem StreamsKept.modCmd (s : State) (i : Nat) {f : Cmd → Cmd} (hf : ∀ c, (f c).streams = c.streams) :
    StreamsKept s (s.modCmd i f) := by
  refine ⟨rfl, fun id c hc => ?_⟩
  rw [State.cmd?_modCmd, hc]
  refine ⟨_, rfl, ?_⟩
  dsimp only
  split
  · exact hf c
  · rfl

theorem StreamsKept.modPersist {s t : State} (h : StreamsKept s t) (i : Nat) (f : Persist → Persist) :
    StreamsKept s (t.modPersist i f) := ⟨h.rest, h.streams⟩

theorem StreamsKept.guardFeed {s t : State} (h : StreamsKept s t) (p i : Nat) (l : List Num) (n : GuardCnt) :
    StreamsKept s (t.guardFeed p i l n) := ⟨h.rest, h.streams⟩

theorem StreamsKept.trans {s t u : State} (h : StreamsKept s t) (k : StreamsKept t u) : StreamsKept s u where
  rest := by
    have a := h.rest
    rw [← k.rest] at a
    exact a
  streams id c hc := by
    obtain ⟨d, hd, hds⟩ := h.streams id c hc
    obtain ⟨e, he, hes⟩ := k.streams id d hd
    exact ⟨e, he, hes.trans hds⟩

theorem StreamsKept.fields {s t : State} (h : StreamsKept s t) :
    t.reqs = s.reqs ∧ t.mem = s.mem ∧ t.hods = s.hods ∧ t.clusters = s.clusters :=
  ⟨by have e := congrArg State.reqs h.rest; exact e, by have e := congrArg State.mem h.rest; exact e,
    by have e := congrArg State.hods h.rest; exact e, by have e := congrArg State.clusters h.rest; exact e⟩

theorem feed_streamsKept (s : State) (id : Nat) (cfg : Settings_) (h : HodHeader) (d : Handed) :
    StreamsKept s (s.feed id cfg h d) := by
  have hflags : StreamsKept s (s.addFlags id d.fl) := .modCmd s id fun _ => rfl
  unfold State.feed
  dsimp only
  split
  · split
    · refine .modPersist (.modCmd s id ?_) id _
      exact fun _ => rfl
    · exact .refl s
  · split
    · refine .guardFeed (hflags.trans (.modCmd _ id ?_)) _ _ _ _
      exact fun _ => rfl
    · exact hflags

theorem feedOperand_streamsKept (s : State) (id : Nat) (cfg : Settings_) (st : Stream) (base : Nat) (r : Req) :
    StreamsKept s (s.feedOperand id cfg st base r) := by
  unfold State.feedOperand
  dsimp only
  split
  · exact .refl s
  · exact feed_streamsKept ..

/-! ### A tag returns (R122, R125, R139) -/

/-- The request goes, `n` bytes count and the cluster has made progress. -/
def State.returnTag (s : State) (r : Req) (n : Nat) : State :=
  (({ s with reqs := s.reqs.filter (fun x => x.id != r.id) } : State).modHod r.cluster r.hod
    (fun h => { h with bytes := satAdd 64 h.bytes n })).progress r.cluster

theorem hod_congr {s t : State} (h : t.hods = s.hods) (cl i : Nat) : hod t cl i = hod s cl i := by rw [hod, h, hod]

theorem hod_modHod_same (s : State) (cl i : Nat) (f : Hod → Hod) : hod (s.modHod cl i f) cl i = f (hod s cl i) :=
  SMap.get_modify_same ..

theorem returnTag_bytes (s : State) (r : Req) (n : Nat) :
    (hod (s.returnTag r n) r.cluster r.hod).bytes = Nat.min (2 ^ 64 - 1) ((hod s r.cluster r.hod).bytes + n) := by
  have h := hod_modHod_same s r.cluster r.hod (fun h => { h with bytes := satAdd 64 h.bytes n })
  exact congrArg Hod.bytes h

theorem returnTag_cluster (s : State) (r : Req) (n : Nat) :
    cluster (s.returnTag r n) r.cluster = { cluster s r.cluster with progress := s.now, sentinel := s.now } :=
  cluster_modCluster_same ..

/-! ### An error of the landing buffer (R403) -/

/-- The first double error in a cluster poisons the word and only counts and is logged. -/
theorem sramError_double {s : State} {cl : Nat} (h : (cluster s cl).dbe = []) :
    (s.sramError cl .doubleCluster).2 = true ∧ (s.sramError cl .doubleCluster).1.cmds = s.cmds ∧
      (s.sramError cl .doubleCluster).1.mem = s.mem := by
  have hlog (p : Nat) : OnlyEvents s (((s.bump (rasPage p) Reg.rasSram 63 32 1).countFault (Blk.hod.page cl)).faultEntry p 1
      (Blk.hod.page cl)) :=
    ((State.bump_onlyEvents _ _ _ _ _ _).countFault _).trans (State.log_onlyEvents _ _)
  have hdbe (p : Nat) := (congrArg Cluster.dbe (cluster_congr (hlog p).clusters cl)).trans h
  unfold State.sramError
  simp only [hdbe, List.filter_nil, List.nil_append, List.length_singleton, Nat.reduceLeDiff, if_false]
  exact ⟨trivial, (hlog _).cmds, (hlog _).mem⟩

/-! ### An operand lands (R118) -/

/-- The tag has returned and the bytes stand in the stream's landing buffer. -/
def State.landRead (s : State) (r : Req) (st : Stream) : State :=
  (s.returnTag r r.len).modStream r.cmd r.stream (fun x =>
    x.land (if st.role = 0 || st.role = 1 then fillKey r.ent r.addr else r.pos) r.len r.data)

theorem landRead_fields {s : State} {r : Req} (hp : persist? s r.cmd = none) (st : Stream) :
    (s.landRead r st).reqs = s.reqs.filter (fun q => q.id != r.id) ∧ (s.landRead r st).mem = s.mem ∧
      (s.landRead r st).hods = (s.returnTag r r.len).hods ∧ (s.landRead r st).clusters = (s.returnTag r r.len).clusters ∧
      (s.landRead r st).persists = s.persists := by
  rw [State.landRead, modStream_cmd (s := s.returnTag r r.len) hp]
  exact ⟨rfl, rfl, rfl, rfl, rfl⟩

/-- What landed bytes of a MATMUL operand set in motion: they count. -/
theorem afterLanding_operand {s : State} {id : Nat} {c : Cmd} {st : Stream} (hp : persist? s id = none) (hc : s.cmd? id = some c)
    (hrole : st.role = 0 ∨ st.role = 1) (k cl : Nat) (cfg : Settings_) (r : Req) :
    s.afterLanding id k cl cfg st r = s.feedOperand id cfg st (recOf c.bits st.role).base r := by
  simp only [State.afterLanding, hp, hc, Bool.or_eq_true, decide_eq_true_eq, hrole, if_true]

/-- What a landed operand shows once it has been counted. -/
structure OperandLanded (s : State) (r : Req) (t : State) : Prop where
  reqs : t.reqs = s.reqs.filter (fun q => q.id != r.id)
  mem : t.mem = s.mem
  stream : ∃ (d : Cmd) (x : Stream), t.cmd? r.cmd = some d ∧ d.streams[r.stream]? = some x ∧
    ∀ i < r.len, i < r.data.length → SMap.get 0 x.landed (fillKey r.ent (r.addr + i)) = (r.data.getD i 0).toNat + 1
  bytes : (hod t r.cluster r.hod).bytes = Nat.min (2 ^ 64 - 1) ((hod s r.cluster r.hod).bytes + r.len)
  progress : (cluster t r.cluster).progress = s.now

theorem afterLanding_landed {s : State} {r : Req} {c : Cmd} {st : Stream} (hp : persist? s r.cmd = none)
    (hc : s.cmd? r.cmd = some c) (hk : c.streams[r.stream]? = some st) (hrole : st.role = 0 ∨ st.role = 1) (cfg : Settings_) :
    OperandLanded s r ((s.landRead r st).afterLanding r.cmd r.stream r.cluster cfg st r) := by
  obtain ⟨hreqs, hmem, hhods, hclusters, hpersists⟩ := landRead_fields hp st
  obtain ⟨d, hd, hx⟩ := cmd?_modStream (s := s.returnTag r r.len) hp hc hk (fun x =>
    x.land (if st.role = 0 || st.role = 1 then fillKey r.ent r.addr else r.pos) r.len r.data)
  rw [afterLanding_operand ((persist?_congr hpersists r.cmd).trans hp) hd hrole]
  have hkept := feedOperand_streamsKept (s.landRead r st) r.cmd cfg st (recOf d.bits st.role).base r
  obtain ⟨hreqs', hmem', hhods', hclusters'⟩ := hkept.fields
  obtain ⟨e, he, hes⟩ := hkept.streams r.cmd d hd
  exact {
    reqs := hreqs'.trans hreqs
    mem := hmem'.trans hmem
    stream := by
      refine ⟨e, _, he, (congrArg (fun l : List Stream => l[r.stream]?) hes).trans hx, fun i hi hb => ?_⟩
      rw [if_pos (by simpa using hrole), show fillKey r.ent (r.addr + i) = fillKey r.ent r.addr + i from (Nat.add_assoc ..).symm]
      exact landed_land st (fillKey r.ent r.addr) hi hb
    bytes := (congrArg Hod.bytes (hod_congr (hhods'.trans hhods) _ _)).trans (returnTag_bytes s r r.len)
    progress := congrArg Cluster.progress ((cluster_congr (hclusters'.trans hclusters) _).trans (returnTag_cluster s r r.len)) }

/-! ### A write is acknowledged (R122, R176) -/

/-- The tag has returned, and a dropped part has left its status. -/
def State.acknowledge (s : State) (r : Req) : State :=
  if r.bad then (s.returnTag r r.data.length).noteLate r.cmd r.badStatus else s.returnTag r r.data.length

theorem acknowledge_fields (s : State) (r : Req) : (s.acknowledge r).reqs = s.reqs.filter (fun q => q.id != r.id) ∧
    (s.acknowledge r).mem = s.mem ∧ (s.acknowledge r).hods = (s.returnTag r r.data.length).hods := by
  unfold State.acknowledge
  split <;> exact ⟨rfl, rfl, rfl⟩

theorem acknowledge_late {s : State} {r : Req} {c : Cmd} (hc : s.cmd? r.cmd = some c) : ∃ d, (s.acknowledge r).cmd? r.cmd = some d ∧
    d.late = if r.bad then some (c.late.getD r.badStatus) else c.late := by
  unfold State.acknowledge
  split
  · exact ⟨_, State.cmd?_modCmd_same (s := s.returnTag r r.data.length) hc _, rfl⟩
  · exact ⟨c, hc, rfl⟩

/-! ### The two commands -/

section
variable {s : State} {r : Req} {c : Cmd} {st : Stream} {cfg : Settings_} (hr : s.reqs.find? (fun q => q.id == r.id) = some r)
include hr

theorem exec_hodWriteAck_unserved (hs : r.served = false) : exec (.hodWriteAck r.id) s = .next s := by
  simp only [exec, execHodWriteAck, hr, hs, Bool.not_false, Bool.or_true, if_true]

theorem exec_hodWriteAck (hk : r.kind ≠ .read) (hs : r.served = true) :
    exec (.hodWriteAck r.id) s = .next ((s.acknowledge r).checkEnd r.cmd) := by
  simp only [exec, execHodWriteAck, hr, hs, hk, decide_false, Bool.not_true, Bool.or_self, Bool.false_eq_true, if_false]
  rfl

variable (hst : streamOf s r.cmd r.stream = some (cfg, st))
include hst

theorem exec_hodReadLanding_unserved (hs : r.served = false) (e : SramErr) : exec (.hodReadLanding r.id e) s = .next s := by
  simp only [exec, execHodReadLanding, hr, hst, hs, Bool.not_false, Bool.or_true, if_true]

variable (hp : persist? s r.cmd = none) (hk : r.kind = .read) (hs : r.served = true)
include hk hs

theorem exec_hodReadLanding_clean (hb : r.bad = false) : exec (.hodReadLanding r.id .clean) s =
    .next (((s.landRead r st).afterLanding r.cmd r.stream r.cluster cfg st r).checkEnd r.cmd) := by
  simp only [exec, execHodReadLanding, hr, hst, hk, hs, hb, State.sramError]
  rfl

include hp

/-- A read that met poison or a damaged block. -/
theorem exec_hodReadLanding_bad (hb : r.bad = true) : exec (.hodReadLanding r.id .clean) s =
    .next ((s.returnTag r r.len).endCmd r.cmd r.badStatus) := by
  simp only [exec, execHodReadLanding, hr, hst, hk, hs, hb, hp, State.sramError]
  rfl

theorem exec_hodReadLanding_poisoned {e : SramErr} (hb : r.bad = false)
    (he : ((s.returnTag r r.len).sramError r.cluster e).2 = true) : exec (.hodReadLanding r.id e) s =
    .next (((s.returnTag r r.len).sramError r.cluster e).1.endCmd r.cmd St.dataPoisoned) := by
  unfold State.returnTag at he ⊢
  simp only [exec, execHodReadLanding, hr, hst, hk, hs, hb, hp, he]
  rfl

end

/-- Settles O34: each answer by what the returned tag, the landed bytes and the command's end show. -/
theorem hodDataArrives : Obligations.HodDataArrives := by
  intro s r c st _ hr hc hp ha hn hk returned
  have hst := streamOf_cmd hp hc ha hn hk
  have hrc : (s.returnTag r r.len).cmd? r.cmd = some c := hc
  refine ⟨fun hs => ⟨exec_hodReadLanding_unserved hr hst hs, exec_hodWriteAck_unserved hr hs⟩, fun hkind hs hb hrole => ?_,
    fun hkind hs hb => ?_, fun hkind hs hb hdbe => ?_, fun hkind hs => ?_⟩
  · have hland := afterLanding_landed hp hc hk hrole c.settings
    obtain ⟨d, x, hd, hx, hbytes⟩ := hland.stream
    exact ⟨_, d, x, exec_hodReadLanding_clean hr hst hkind hs hb, ⟨hland.reqs, byte_congr hland.mem⟩, hd, hx, hbytes, hland.bytes,
      hland.progress⟩
  · exact ⟨_, exec_hodReadLanding_bad hr hst hp hkind hs hb, State.endCmd_ended _ _ _ c hrc hn,
      fun a => (State.endCmd_frame ..).bytes a⟩
  · have hdbe' : (cluster (s.returnTag r r.len) r.cluster).dbe = [] := by rw [returnTag_cluster]; exact hdbe
    obtain ⟨hbad, hcmds, hmem⟩ := sramError_double hdbe'
    exact ⟨_, exec_hodReadLanding_poisoned hr hst hp hkind hs hb hbad,
      State.endCmd_ended _ _ _ c ((State.cmd?_congr hcmds r.cmd).trans hrc) hn,
      fun a => ((State.endCmd_frame ..).bytes a).trans (byte_congr (s := s) hmem a)⟩
  · obtain ⟨hreqs, hmem, hhods⟩ := acknowledge_fields s r
    obtain ⟨d, hd, hlate⟩ := acknowledge_late hc
    exact ⟨_, d, exec_hodWriteAck hr hkind hs, ⟨hreqs, byte_congr hmem⟩, hd, hlate,
      (congrArg Hod.bytes (hod_congr hhods _ _)).trans (returnTag_bytes s r r.data.length)⟩

end Sys2Proof.Machine

/-! ## Requests of a command's stream (O33)

What a stream asks for next decides the request but for its tag, its number and the time, so each way that issuing can go is one
equation for `State.issueReq`. Under a free tag the place of the bytes decides: HBM, a slab without a ready copy, the open window. -/

namespace Sys2Proof.Machine

/-! ### The request that a stream would issue -/

/-- Bytes of data that the next request needs from its stream. -/
def dataNeed (st : Stream) (w : Want) : Nat := if st.list.hdr.dir = 0 then 0 else wantData st w

/-- The bytes that the stream has for it. -/
def dataHeld (st : Stream) (w : Want) : List Byte :=
  if st.list.hdr.dir = 0 then [] else match st.todo with
    | r :: _ => r.data.take (dataNeed st w)
    | [] => st.outQ.take (dataNeed st w)

/-- The request of a stream under a tag. -/
def nextRequest (id k : Nat) (st : Stream) (w : Want) (pool : Bool) : Req :=
  { cmd := id, stream := k, cluster := st.cluster, hod := st.hod
    kind := if st.list.hdr.dir = 0 then .read else if st.list.hdr.dir = 1 then .write else .addWrite
    addr := w.addr, len := w.len, pos := w.pos, ent := w.ent, pool := pool, narrow := isNarrow w.addr w.len, data := dataHeld st w }

/-- The request of a read of a fresh granule in the open window: served at once, with zeros (R319). -/
def freshRead (id k : Nat) (st : Stream) (w : Want) (pool : Bool) : Req :=
  { nextRequest id k st w pool with served := true, data := List.replicate w.len 0 }

/-- The stream's data or its turn among add-writes is still to come (R211). -/
def notReady (s : State) (id : Nat) (st : Stream) (w : Want) : Bool :=
  (dataHeld st w).length < dataNeed st w || (st.list.hdr.dir == 2 && addWriteHeld s id)

/-- The request under its number, and its stream moved on. -/
def State.issue (s : State) (id k : Nat) (st : Stream) (w : Want) (r : Req) : State :=
  (s.addReq r).modStream id k (fun u => u.asked w (dataNeed st w))

theorem dataHeld_empty {st : Stream} {w : Want} (ht : st.todo = []) (hq : st.outQ = []) : dataHeld st w = [] := by
  simp [dataHeld, ht, hq]

theorem nextRequest_read {id k : Nat} {st : Stream} {w : Want} {pool : Bool} :
    (nextRequest id k st w pool).kind = .read ↔ st.list.hdr.dir = 0 := by
  unfold nextRequest
  dsimp only
  split
  · simp [*]
  · split <;> simp [*]

/-! ### HOD_REQUEST_ISSUE of a command's stream -/

section
variable {s : State} {id k : Nat} {c : Cmd} {st : Stream} {cfg : Settings_} {w : Want}

theorem exec_hodRequestIssue_nothing (hst : streamOf s id k = some (cfg, st)) (hp : persist? s id = none) (hh : st.handle = none)
    (hw : wantOf st = none) : exec (.hodRequestIssue id k) s = .next s := by
  simp only [exec, execHodRequestIssue, hst, hh, hp, hw, Option.any_none, Bool.false_eq_true, if_false]

theorem exec_hodRequestIssue_absent (h : streamOf s id k = none) : exec (.hodRequestIssue id k) s = .next s := by
  simp only [exec, execHodRequestIssue, h]

/-- A stream whose last bytes are not held back asks for what it wants. -/
theorem exec_hodRequestIssue (hst : streamOf s id k = some (cfg, st)) (hp : persist? s id = none) (hh : st.handle = none)
    (hw : wantOf st = some w) (hfull : st.todo = [] → st.list.hdr.dir = 1 → st.outQ = [] ∨ w.len ≤ st.outQ.length) :
    exec (.hodRequestIssue id k) s = .next (s.issueReq id k cfg st w) := by
  have hshort (b : Bool) : (st.todo.isEmpty && st.list.hdr.dir == 1 && !st.outQ.isEmpty && decide (st.outQ.length < w.len) && b) =
      false := by
    by_cases ht : st.todo = []
    · by_cases hd : st.list.hdr.dir = 1
      · rcases hfull ht hd with h | h
        · simp [h]
        · simp [Nat.not_lt.2 h]
      · simp [hd]
    · simp [ht]
  simp only [exec, execHodRequestIssue, hst, hh, hp, hw, hshort, Option.any_none, Option.isSome_none, Bool.false_and,
    Bool.false_eq_true, if_false]

/-! ### What issuing does -/

theorem issueReq_notReady (h : notReady s id st w = true) : s.issueReq id k cfg st w = s := by
  unfold State.issueReq
  exact if_pos h

theorem notReady_dataless (h : (dataHeld st w).length < dataNeed st w) : notReady s id st w = true := by
  simp only [notReady, h, decide_true, Bool.true_or]

theorem notReady_held (hd : st.list.hdr.dir = 2) (h : addWriteHeld s id = true) : notReady s id st w = true := by
  simp only [notReady, hd, h, beq_self_eq_true, Bool.and_self, Bool.or_true]

theorem ready_of_data (hlen : (dataHeld st w).length = dataNeed st w) (hheld : st.list.hdr.dir = 2 → addWriteHeld s id = false) :
    ¬notReady s id st w = true := by
  simpa [notReady, hlen] using hheld

variable (hready : ¬notReady s id st w = true)
include hready

theorem issueReq_noTag (ht : tagFor s id k st = none) :
    s.issueReq id k cfg st w = s.modHod st.cluster st.hod (fun h => { h with tagWait := satAdd 64 h.tagWait 1 }) := by
  unfold State.issueReq
  refine (if_neg hready).trans ?_
  simp only [ht]

variable {pool : Bool} (ht : tagFor s id k st = some pool) (hhint : w.hint = none)
include ht hhint

/-- Into HBM the request goes as it is (R122). -/
theorem issueReq_hbm (hx : 0 < w.len) (hb : addrOff w.addr + w.len ≤ hbmHomed s cfg.part) :
    s.issueReq id k cfg st w = s.issue id k st w (nextRequest id k st w pool) := by
  have hlt : addrOff w.addr < hbmHomed s cfg.part := by omega
  have ho : isOpen (addrOff w.addr) = false := decide_eq_false (Nat.not_le.2 (hlt.trans_le (hbmHomed_le s cfg.part)))
  unfold State.issueReq
  refine (if_neg hready).trans ?_
  simp only [ht, hhint, ho, missing_hbm hb, isTier1_hbm hlt, State.useAt, Bool.false_and, Bool.false_eq_true, if_false]
  rfl

/-- Slabs without a ready copy make the command wait (R253, R254). -/
theorem issueReq_missing (hm : missing s cfg.part (addrOff w.addr) w.len ≠ []) (ho : isOpen (addrOff w.addr) = false)
    (hc : w.codec = 0) : s.issueReq id k cfg st w = s.waitSlabs id cfg.part (missing s cfg.part (addrOff w.addr) w.len) := by
  unfold State.issueReq
  refine (if_neg hready).trans ?_
  cases hl : missing s cfg.part (addrOff w.addr) w.len with
  | nil => exact absurd hl hm
  | cons n l => simp [ht, hhint, ho, hc]

/-- In the open window a request meets a fence, reads fresh zeros, or goes to the open site (R319, R320). -/
theorem issueReq_open (ho : isOpen (addrOff w.addr) = true) : s.issueReq id k cfg st w =
    if openFenced s cfg.part (addrOff w.addr) then s.endCmd id St.openFenced
    else if st.list.hdr.dir = 0 ∧ isFresh s (keyAt s cfg.part (addrOff w.addr)) = true then
      s.issue id k st w (freshRead id k st w pool)
    else (s.issue id k st w (nextRequest id k st w pool)).sendOpen cfg.part (addrOff w.addr) s.nextReq := by
  have hread := nextRequest_read (id := id) (k := k) (st := st) (w := w) (pool := pool)
  unfold nextRequest at hread
  unfold State.issueReq
  refine (if_neg hready).trans ?_
  simp only [ht, hhint, ho, if_true, Bool.and_eq_true, decide_eq_true_eq, hread]
  rfl

end

/-! ### What an issued request shows -/

/-- Requests, the stream and the hod's peak change, and nothing else. -/
structure Issued (s : State) (id k : Nat) (st : Stream) (w : Want) (r : Req) (t : State) : Prop where
  reqs : t.reqs = s.reqs ++ [{ r with id := s.nextReq, born := s.now }]
  next : t.nextReq = s.nextReq + 1
  stream : ∃ d, t.cmd? id = some d ∧ d.streams[k]? = some (st.asked w (dataNeed st w))
  rest : { t with reqs := s.reqs, nextReq := s.nextReq, hods := s.hods, cmds := s.cmds } = s

theorem issued {s : State} {id k : Nat} {c : Cmd} {st : Stream} (hp : persist? s id = none) (hc : s.cmd? id = some c)
    (hk : c.streams[k]? = some st) (w : Want) (r : Req) : Issued s id k st w r (s.issue id k st w r) := by
  have hcmd := modStream_cmd (s := s.addReq r) hp k (fun u => u.asked w (dataNeed st w))
  refine { reqs := ?_, next := ?_, stream := cmd?_modStream (s := s.addReq r) hp hc hk _, rest := ?_ } <;>
  · rw [State.issue, hcmd]
    rfl

theorem Issued.out {s t : State} {id k : Nat} {st : Stream} {w : Want} {r : Req} (h : Issued s id k st w r t) : t.out = s.out := by
  have e := congrArg State.out h.rest; exact e

theorem Issued.mem {s t : State} {id k : Nat} {st : Stream} {w : Want} {r : Req} (h : Issued s id k st w r t) : t.mem = s.mem := by
  have e := congrArg State.mem h.rest; exact e

theorem streamOf_absent {s : State} {id : Nat} {c : Cmd} (hp : persist? s id = none) (hc : s.cmd? id = some c) :
    streamOf s id c.streams.length = none := by
  simp [streamOf, hp, hc]

/-- Settles O33: whatever a command's stream asks for, by the cases in which a request is held, waits, ends the command or goes. -/
theorem hodRequests : Obligations.HodRequests := by
  intro s id k c st hs hc hp ha hn hk hh
  have hst := streamOf_cmd hp hc ha hn hk
  refine ⟨exec_hodRequestIssue_nothing hst hp hh, fun w hw hhint => ?_, exec_hodRequestIssue_absent (streamOf_absent hp hc)⟩
  intro x dir n data inHbm
  refine ⟨fun hpos hd ht hq => ?_, fun hd hheld => ?_, fun hlen hfull hheld => ?_⟩
  · have hnone : (dataHeld st w).length < dataNeed st w := by rw [dataHeld_empty ht hq]; exact hpos
    rw [exec_hodRequestIssue hst hp hh hw fun _ _ => .inl hq, issueReq_notReady (notReady_dataless hnone)]
  · rw [exec_hodRequestIssue hst hp hh hw fun _ h1 => absurd (hd.symm.trans h1) (by decide),
      issueReq_notReady (notReady_held hd hheld)]
  · have hready := ready_of_data (s := s) (id := id) (w := w) hlen hheld
    rw [exec_hodRequestIssue hst hp hh hw fun ht hd => .inr (hfull ht (by rw [show dir = 1 from hd]; decide))]
    refine ⟨fun htag => ?_, fun pool htag => ⟨fun ⟨hx, hb⟩ => ?_, fun hm ho hcodec => ?_, fun ho hf => ?_, fun ho hf => ?_⟩⟩
    · refine ⟨_, congrArg _ (issueReq_noTag hready htag), ?_, rfl⟩
      rw [hod_modHod_same]
      rfl
    · have h := issued hp hc hk w (nextRequest id k st w pool)
      exact ⟨_, congrArg _ (issueReq_hbm hready htag hhint hx hb), h.reqs, h.next, h.stream, h.rest⟩
    · refine ⟨_, congrArg _ (issueReq_missing hready htag hhint hm ho hcodec), State.waitSlabs_frame .., fun hun => ?_,
        fun hall => ?_⟩
      · have hend := State.endCmd_ended s id St.tierUnreachable c hc hn
        rw [← waitSlabs_unreachable hun] at hend
        exact hend
      · obtain ⟨⟨f, d, hd, hds, hdw⟩, -⟩ := waitSlabs_waits hc hall
        exact ⟨f, d, hd, hds.trans hn, hdw⟩
    · exact ⟨_, congrArg _ ((issueReq_open hready htag hhint ho).trans (if_pos hf)), State.endCmd_ended _ _ _ c hc hn,
        State.endCmd_frame ..⟩
    · have hopen := (issueReq_open (cfg := c.settings) hready htag hhint ho).trans (if_neg (ne_true_of_eq_false hf))
      refine ⟨fun hd hfresh => ?_, fun hnot => ?_⟩
      · have h := issued hp hc hk w (freshRead id k st w pool)
        exact ⟨_, _, congrArg _ (hopen.trans (if_pos ⟨hd, hfresh⟩)), h.reqs, rfl, rfl, rfl, h.out, h.mem⟩
      · have h := issued hp hc hk w (nextRequest id k st w pool)
        exact ⟨_, _, congrArg _ (hopen.trans (if_neg hnot)), h.reqs, rfl, rfl, rfl, rfl,
          congrArg (· ++ [Out.openReq s.nextReq]) h.out, h.mem⟩

end Sys2Proof.Machine

/-! ## Semaphores and counter pairs (O18)

An operation changes the semaphore or pair that it names and ends its command or lets it wait; a release and a post then serve waiters,
each of which leaves the line and ends. `SyncFrame` is what all of these leave alone, and `serveSem_induct` and `serveCtr_induct` carry
a property of the state along the line. -/

namespace Sys2Proof.Machine

/-! ### Reading a semaphore or a pair -/

/-- A semaphore but for its waiters. -/
def Sem.bare (m : Sem) : Sem := { m with waiters := [] }

/-- A pair but for its waiters. -/
def Ctr.bare (m : Ctr) : Ctr := { m with waiters := [] }

theorem sem_congr {s t : State} (h : t.sems = s.sems) (i : Nat) : sem t i = sem s i := by rw [sem, h, sem]

theorem ctr_congr {s t : State} (h : t.ctrs = s.ctrs) (i : Nat) : ctr t i = ctr s i := by rw [ctr, h, ctr]

@[simp] theorem sem_modSem_same (s : State) (k : Nat) (f : Sem → Sem) : sem (s.modSem k f) k = f (sem s k) :=
  SMap.get_modify_same ({} : Sem) s.sems k f

theorem sem_modSem_other (s : State) {i k : Nat} (h : i ≠ k) (f : Sem → Sem) : sem (s.modSem k f) i = sem s i :=
  SMap.get_modify_other ({} : Sem) s.sems f h

@[simp] theorem ctr_modCtr_same (s : State) (k : Nat) (f : Ctr → Ctr) : ctr (s.modCtr k f) k = f (ctr s k) :=
  SMap.get_modify_same ({} : Ctr) s.ctrs k f

theorem ctr_modCtr_other (s : State) {i k : Nat} (h : i ≠ k) (f : Ctr → Ctr) : ctr (s.modCtr k f) i = ctr s i :=
  SMap.get_modify_other ({} : Ctr) s.ctrs f h

@[simp] theorem sem_endCmd_done (s : State) (id i : Nat) : sem (s.endCmd id St.done) i = sem s i :=
  sem_congr (s.endCmd_done_sync id).1 i

@[simp] theorem ctr_endCmd_done (s : State) (id i : Nat) : ctr (s.endCmd id St.done) i = ctr s i :=
  ctr_congr (s.endCmd_done_sync id).2 i

theorem sem_endCmd_bare (s : State) (id st i : Nat) : (sem (s.endCmd id st) i).bare = (sem s i).bare := (s.endCmd_bare id st i).1

theorem ctr_endCmd_bare (s : State) (id st i : Nat) : (ctr (s.endCmd id st) i).bare = (ctr s i).bare := (s.endCmd_bare id st i).2

/-- The end of a command lets no one into a line. -/
theorem sem_endCmd_waiters (s : State) (id st i : Nat) : (sem (s.endCmd id st) i).waiters.Sublist (sem s i).waiters := by
  rcases s.endCmd_sem id st with h | ⟨-, h⟩
  · rw [sem_congr h]
  · rw [sem, h, SMap.get_mapVals _ _ rfl]
    exact List.filter_sublist

theorem ctr_endCmd_waiters (s : State) (id st i : Nat) : (ctr (s.endCmd id st) i).waiters.Sublist (ctr s i).waiters := by
  rcases s.endCmd_ctr id st with h | ⟨-, h⟩
  · rw [ctr_congr h]
  · rw [ctr, h, SMap.get_mapVals _ _ rfl]
    exact List.filter_sublist

theorem State.cmdWaits_sync (s : State) (id : Nat) (w : Wait) :
    (s.cmdWaits id w).sems = s.sems ∧ (s.cmdWaits id w).ctrs = s.ctrs := by
  unfold State.cmdWaits
  split
  · exact ⟨foldl_keep State.sems _ (fun t n => by unfold State.ctxWaits; dsimp only; split <;> rfl) _ _,
      foldl_keep State.ctrs _ (fun t n => by unfold State.ctxWaits; dsimp only; split <;> rfl) _ _⟩
  · exact ⟨rfl, rfl⟩

@[simp] theorem sem_cmdWaits (s : State) (id : Nat) (w : Wait) (i : Nat) : sem (s.cmdWaits id w) i = sem s i :=
  sem_congr (s.cmdWaits_sync id w).1 i

@[simp] theorem ctr_cmdWaits (s : State) (id : Nat) (w : Wait) (i : Nat) : ctr (s.cmdWaits id w) i = ctr s i :=
  ctr_congr (s.cmdWaits_sync id w).2 i

/-! ### The other commands at the end of one -/

theorem State.cmd?_modCmd_other (s : State) {i j : Nat} (h : j ≠ i) (f : Cmd → Cmd) : (s.modCmd i f).cmd? j = s.cmd? j := by
  rw [State.cmd?_modCmd]
  cases hc : s.cmd? j with
  | none => rfl
  | some c => simp [(State.cmd?_mem hc).2, h]

theorem State.cmd?_endCmd_other (s : State) {id j : Nat} (h : j ≠ id) (st : Nat) : (s.endCmd id st).cmd? j = s.cmd? j := by
  unfold State.endCmd
  split
  next c hc =>
    split
    · rfl
    · have hstir : ((cmdClusters s c.part c.bits).foldl State.stirCluster
          (c.units.foldl State.stirGroup (s.cmdWakes id))).cmds = (s.cmdWakes id).cmds :=
        (foldl_keep State.cmds State.stirCluster (fun t a => by rfl) _ _).trans
          (foldl_keep State.cmds State.stirGroup (fun t a => by rfl) _ _)
      have hwakes := (State.cmd?_congr (hstir.trans (s.cmdWakes_cmds id c hc)) j).trans (s.cmd?_modCmd_other h _)
      dsimp only
      rw [State.cmd?_modCmd_other _ h]
      split <;> exact hwakes
  next => rfl

/-- A command that has ended with a status; its result stays. -/
def Cmd.endedWith (c : Cmd) (st : Nat) : Cmd := { c with status := some st, wait := .none }

/-- The end of a SYNC command, whose result no status takes away. -/
theorem cmd?_endCmd_sync {s : State} {id : Nat} {c : Cmd} (hc : s.cmd? id = some c) (hst : c.status = none)
    (h4 : envClass c.bits = 4) (st : Nat) : (s.endCmd id st).cmd? id = some (c.endedWith st) := by
  rw [s.endCmd_cmd? id st c hc hst]
  simp [Cmd.endedWith, h4]

/-- A command that has ended keeps its status at every end (R352). -/
theorem EndedWith.endCmd {s : State} {j st : Nat} (h : EndedWith s j st) (id st' : Nat) : EndedWith (s.endCmd id st') j st := by
  obtain ⟨c, hc, hst⟩ := h
  by_cases hj : j = id
  · have hsame : s.endCmd id st' = s := by simp [State.endCmd, ← hj, hc, hst]
    exact ⟨c, by rw [hsame, hc], hst⟩
  · exact ⟨c, (s.cmd?_endCmd_other hj st').trans hc, hst⟩

/-! ### What a SYNC operation leaves -/

/-- `t` is `u` but for what a command's start, wait and end touch, and has the semaphores outside `S` and the pairs outside `C` of `s`,
waiters aside. -/
structure SyncFrame (S C : Set Nat) (s u t : State) : Prop where
  cmd : CmdFrame u t
  sems : ∀ i, i ∉ S → (sem t i).bare = (sem s i).bare
  ctrs : ∀ i, i ∉ C → (ctr t i).bare = (ctr s i).bare

namespace SyncFrame

variable {S C : Set Nat} {s u t : State}

theorem modSem (h : SyncFrame S C s u t) {k : Nat} (hk : k ∈ S) (f : Sem → Sem) : SyncFrame S C s u (t.modSem k f) where
  cmd := h.cmd.trans (t.modSem_frame k f)
  sems i hi := by rw [sem_modSem_other t (ne_of_mem_of_not_mem hk hi).symm, h.sems i hi]
  ctrs := h.ctrs

theorem modCtr (h : SyncFrame S C s u t) {k : Nat} (hk : k ∈ C) (f : Ctr → Ctr) : SyncFrame S C s u (t.modCtr k f) where
  cmd := h.cmd.trans (t.modCtr_frame k f)
  sems := h.sems
  ctrs i hi := by rw [ctr_modCtr_other t (ne_of_mem_of_not_mem hk hi).symm, h.ctrs i hi]

theorem modCmd (h : SyncFrame S C s u t) (id : Nat) (f : Cmd → Cmd) : SyncFrame S C s u (t.modCmd id f) where
  cmd := h.cmd.trans (t.modCmd_frame id f)
  sems := h.sems
  ctrs := h.ctrs

theorem cmdWaits (h : SyncFrame S C s u t) (id : Nat) (w : Wait) : SyncFrame S C s u (t.cmdWaits id w) where
  cmd := h.cmd.trans (t.cmdWaits_frame id w)
  sems i hi := by rw [sem_cmdWaits, h.sems i hi]
  ctrs i hi := by rw [ctr_cmdWaits, h.ctrs i hi]

theorem endCmd (h : SyncFrame S C s u t) (id st : Nat) : SyncFrame S C s u (t.endCmd id st) where
  cmd := h.cmd.trans (t.endCmd_frame id st)
  sems i hi := (sem_endCmd_bare t id st i).trans (h.sems i hi)
  ctrs i hi := (ctr_endCmd_bare t id st i).trans (h.ctrs i hi)

theorem takeUnit (h : SyncFrame S C s u t) {k : Nat} (hk : k ∈ S) (n id : Nat) : SyncFrame S C s u (t.takeUnit k n id) :=
  (h.modSem hk _).endCmd id _

/-- An operation on one semaphore leaves the other semaphores and every pair. -/
theorem onlySem {j : Nat} (h : SyncFrame {j} ∅ s u t) :
    CmdFrame u t ∧ (∀ i, i ≠ j → (sem t i).bare = (sem s i).bare) ∧ ∀ i, (ctr t i).bare = (ctr s i).bare :=
  ⟨h.cmd, h.sems, fun i => h.ctrs i (Set.notMem_empty i)⟩

/-- An operation on one pair leaves the other pairs and every semaphore. -/
theorem onlyCtr {j : Nat} (h : SyncFrame ∅ {j} s u t) :
    CmdFrame u t ∧ (∀ i, i ≠ j → (ctr t i).bare = (ctr s i).bare) ∧ ∀ i, (sem t i).bare = (sem s i).bare :=
  ⟨h.cmd, h.ctrs, fun i => h.sems i (Set.notMem_empty i)⟩

end SyncFrame

/-! ### Serving the waiters of a semaphore (R153, R156) -/

/-- The first waiter of a semaphore leaves the line and takes a unit. -/
def State.grantUnit (s : State) (k : Nat) (w : Nat × Nat) (ws : List (Nat × Nat)) : State :=
  (s.modSem k (fun m => { m with waiters := ws })).takeUnit k w.1 w.2

theorem serveSem_cons {s : State} {k : Nat} {w : Nat × Nat} {ws : List (Nat × Nat)} (hw : (sem s k).waiters = w :: ws)
    (hf : (sem s k).free = true) (n : Nat) : s.serveSem k (n + 1) = (s.grantUnit k w ws).serveSem k n := by
  simp only [State.serveSem, hw, hf, if_true]
  rfl

/-- What every grant to the first waiter keeps, serving keeps. -/
theorem serveSem_induct {k : Nat} {P : State → Prop}
    (hgrant : ∀ t w ws, P t → (sem t k).waiters = w :: ws → P (t.grantUnit k w ws)) (n : Nat) :
    ∀ {s : State}, P s → P (s.serveSem k n) := by
  induction n with
  | zero => exact fun h => h
  | succ n ih =>
    intro s h
    cases hw : (sem s k).waiters with
    | nil => simpa only [State.serveSem, hw] using h
    | cons w ws =>
      cases hf : (sem s k).free with
      | true =>
        rw [serveSem_cons hw hf]
        exact ih (hgrant s w ws h hw)
      | false => simpa [State.serveSem, hw, hf] using h

/-- The status with which a unit or a claim is given (R156, R157). -/
def givenStatus (poison : Bool) : Nat := if poison then St.lockPoisoned else St.done

theorem givenStatus_ne_ladder (poison : Bool) : givenStatus poison ≠ St.ladder := by cases poison <;> decide

/-- The command that takes a unit ends. -/
theorem cmd?_takeUnit {s : State} {id : Nat} {c : Cmd} (hc : s.cmd? id = some c) (hst : c.status = none)
    (h4 : envClass c.bits = 4) (k n : Nat) :
    (s.takeUnit k n id).cmd? id = some (c.endedWith (givenStatus (sem s k).poison)) :=
  cmd?_endCmd_sync (s := s.modSem k _) hc hst h4 _

theorem sem_takeUnit_bare (s : State) (k n id : Nat) :
    (sem (s.takeUnit k n id) k).bare = { sem s k with holders := (sem s k).holders ||| ((1 : BitVec 32) <<< n) }.bare :=
  (sem_endCmd_bare _ id _ k).trans (congrArg Sem.bare (sem_modSem_same s k _))

theorem sem_takeUnit_holders (s : State) (k n id : Nat) :
    (sem (s.takeUnit k n id) k).holders = (sem s k).holders ||| ((1 : BitVec 32) <<< n) := by
  have h := congrArg Sem.holders (sem_takeUnit_bare s k n id); exact h

theorem sem_takeUnit_waiters (s : State) (k n id : Nat) : (sem (s.takeUnit k n id) k).waiters.Sublist (sem s k).waiters := by
  have h := sem_endCmd_waiters (s.modSem k (fun m => { m with holders := m.holders ||| ((1 : BitVec 32) <<< n) })) id
    (if (sem s k).poison then St.lockPoisoned else St.done) k
  rwa [sem_modSem_same] at h

theorem sem_grantUnit (s : State) (k : Nat) (w : Nat × Nat) (ws : List (Nat × Nat)) :
    (sem (s.grantUnit k w ws) k).holders = (sem s k).holders ||| ((1 : BitVec 32) <<< w.1) ∧
      (sem (s.grantUnit k w ws) k).waiters.Sublist ws := by
  have hh := sem_takeUnit_holders (s.modSem k (fun m => { m with waiters := ws })) k w.1 w.2
  have hw := sem_takeUnit_waiters (s.modSem k (fun m => { m with waiters := ws })) k w.1 w.2
  rw [sem_modSem_same] at hh hw
  exact ⟨hh, hw⟩

/-- The bit of a context that has just taken a unit. -/
theorem getLsbD_holder (h : BitVec 32) {n : Nat} (hn : n < 32) : (h ||| ((1 : BitVec 32) <<< n)).getLsbD n = true := by
  simp [hn]

/-- Serving takes no unit back and lets no one else into the line. -/
theorem serveSem_holds {s : State} {k c : Nat} {l : List (Nat × Nat)} (n : Nat) (hc : (sem s k).holders.getLsbD c = true)
    (hl : (sem s k).waiters.Sublist l) :
    (sem (s.serveSem k n) k).holders.getLsbD c = true ∧ (sem (s.serveSem k n) k).waiters.Sublist l := by
  refine serveSem_induct (P := fun t => (sem t k).holders.getLsbD c = true ∧ (sem t k).waiters.Sublist l)
    (fun t w ws h hw => ?_) n ⟨hc, hl⟩
  obtain ⟨hhold, hwait⟩ := sem_grantUnit t k w ws
  refine ⟨by simp [hhold, h.1], hwait.trans ((List.sublist_cons_self w ws).trans ?_)⟩
  rw [← hw]
  exact h.2

theorem EndedWith.modSem {s : State} {id st : Nat} (h : EndedWith s id st) (k : Nat) (f : Sem → Sem) :
    EndedWith (s.modSem k f) id st := h

theorem EndedWith.serveSem {s : State} {id st : Nat} (h : EndedWith s id st) (k n : Nat) : EndedWith (s.serveSem k n) id st :=
  serveSem_induct (P := fun t => EndedWith t id st) (fun _ w _ ht _ => ((ht.modSem k _).modSem k _).endCmd w.2 _) n h

theorem SyncFrame.serveSem {S C : Set Nat} {s u t : State} (h : SyncFrame S C s u t) {k : Nat} (hk : k ∈ S) (n : Nat) :
    SyncFrame S C s u (t.serveSem k n) :=
  serveSem_induct (fun _ _ _ hv _ => (hv.modSem hk _).takeUnit hk _ _) n h

/-! ### Serving the waiting takes of a pair (R153, R157) -/

/-- The first waiting take of a pair leaves the line, and the retired count is `r`. -/
def State.settleTake (s : State) (k : Nat) (ws : List (Nat × Nat × Nat)) (r : BitVec 32) : State :=
  s.modCtr k (fun m => { m with waiters := ws, retired := r })

theorem serveCtr_cons {s : State} {k : Nat} {w : Nat × Nat × Nat} {ws : List (Nat × Nat × Nat)}
    (hw : (ctr s k).waiters = w :: ws) (hp : (ctr s k).poison = false) (hv : w.2.2 ≤ (ctr s k).avail) (n : Nat) :
    s.serveCtr k (n + 1) =
      ((s.settleTake k ws ((ctr s k).retired + BitVec.ofNat 32 w.2.2)).finishCmd w.2.1).serveCtr k n := by
  simp only [State.serveCtr, hw, hp, hv, Bool.false_eq_true, if_false, if_true]
  rfl

/-- The take that has left the line has ended, if its command is there. -/
def TakeEnded (s : State) (id : Nat) (t : State) : Prop := t = s ∨ ∃ st, t = s.endCmd id st

/-- What the end of the first waiting take keeps, serving keeps. -/
theorem serveCtr_induct {k : Nat} {P : State → Prop}
    (hend : ∀ t w ws r v, P t → (ctr t k).waiters = w :: ws → TakeEnded (t.settleTake k ws r) w.2.1 v → P v) (n : Nat) :
    ∀ {s : State}, P s → P (s.serveCtr k n) := by
  induction n with
  | zero => exact fun h => h
  | succ n ih =>
    intro s h
    cases hw : (ctr s k).waiters with
    | nil => simpa only [State.serveCtr, hw] using h
    | cons w ws =>
      cases hp : (ctr s k).poison with
      | true =>
        have hstep : s.serveCtr k (n + 1) =
            ((s.settleTake k ws (ctr s k).retired).endCmd w.2.1 St.lockPoisoned).serveCtr k n := by
          simp only [State.serveCtr, hw, hp, if_true]
          rfl
        rw [hstep]
        exact ih (hend s w ws _ _ h hw (.inr ⟨_, rfl⟩))
      | false =>
        by_cases hv : w.2.2 ≤ (ctr s k).avail
        · rw [serveCtr_cons hw hp hv]
          exact ih (hend s w ws _ _ h hw (State.finishCmd_cases _ _))
        · simpa only [State.serveCtr, hw, hp, hv, Bool.false_eq_true, if_false] using h

/-- What a take that leaves the line shows of its pair. -/
theorem TakeEnded.shows {s t : State} {k id : Nat} {ws : List (Nat × Nat × Nat)} {r : BitVec 32}
    (h : TakeEnded (s.settleTake k ws r) id t) : (ctr t k).issued = (ctr s k).issued ∧ (ctr t k).claim = (ctr s k).claim ∧
      (ctr t k).waiters.Sublist ws := by
  have hs : ctr (s.settleTake k ws r) k = { ctr s k with waiters := ws, retired := r } := ctr_modCtr_same s k _
  rcases h with rfl | ⟨st, rfl⟩
  · rw [hs]
    exact ⟨rfl, rfl, List.Sublist.refl _⟩
  · have hb := ctr_endCmd_bare (s.settleTake k ws r) id st k
    have hw := ctr_endCmd_waiters (s.settleTake k ws r) id st k
    rw [hs] at hb hw
    have hissued := congrArg Ctr.issued hb
    have hclaim := congrArg Ctr.claim hb
    exact ⟨hissued, hclaim, hw⟩

/-- Serving keeps the issued count and the claim, and lets no one else into the line. -/
theorem serveCtr_ctr {s : State} {k : Nat} {l : List (Nat × Nat × Nat)} (n : Nat) (hl : (ctr s k).waiters.Sublist l) :
    (ctr (s.serveCtr k n) k).issued = (ctr s k).issued ∧ (ctr (s.serveCtr k n) k).claim = (ctr s k).claim ∧
      (ctr (s.serveCtr k n) k).waiters.Sublist l := by
  refine serveCtr_induct (P := fun t => (ctr t k).issued = (ctr s k).issued ∧ (ctr t k).claim = (ctr s k).claim ∧
    (ctr t k).waiters.Sublist l) (fun t w ws r v h hw he => ?_) n ⟨rfl, rfl, hl⟩
  obtain ⟨hi, hc, hwait⟩ := he.shows
  obtain ⟨hti, htc, htl⟩ := h
  rw [hw] at htl
  exact ⟨hi.trans hti, hc.trans htc, hwait.trans ((List.sublist_cons_self w ws).trans htl)⟩

/-- A command that does not wait in the line stays as it is while the line is served. -/
theorem cmd?_serveCtr {s : State} {k id : Nat} (h : ∀ w ∈ (ctr s k).waiters, w.2.1 ≠ id) (n : Nat) :
    (s.serveCtr k n).cmd? id = s.cmd? id := by
  refine (serveCtr_induct (P := fun t => t.cmd? id = s.cmd? id ∧ ∀ w ∈ (ctr t k).waiters, w.2.1 ≠ id)
    (fun t w ws r v ⟨ht, hout⟩ hw he => ?_) n ⟨rfl, h⟩).1
  obtain ⟨-, -, hsub⟩ := he.shows
  rw [hw] at hout
  refine ⟨?_, fun y hy => hout y (List.mem_cons_of_mem _ (hsub.subset hy))⟩
  rcases he with rfl | ⟨st, rfl⟩
  · exact ht
  · exact (State.cmd?_endCmd_other _ (hout w List.mem_cons_self).symm st).trans ht

theorem SyncFrame.serveCtr {S C : Set Nat} {s u t : State} (h : SyncFrame S C s u t) {k : Nat} (hk : k ∈ C) (n : Nat) :
    SyncFrame S C s u (t.serveCtr k n) := by
  refine serveCtr_induct (fun v w ws r v' hv _ he => ?_) n h
  rcases he with rfl | ⟨st, rfl⟩
  · exact hv.modCtr hk _
  · exact (hv.modCtr hk _).endCmd _ st

/-! ### Posting (R150, R153) -/

/-- The pair with its post, before the line is served. -/
def State.posted (s : State) (k v : Nat) : State := s.modCtr k (fun m => { m with issued := m.issued + BitVec.ofNat 32 v })

theorem post_eq (s : State) (k v : Nat) : s.post k v = (s.posted k v).serveCtr k (ctr s k).waiters.length := rfl

theorem ctr_posted (s : State) (k v : Nat) :
    ctr (s.posted k v) k = { ctr s k with issued := (ctr s k).issued + BitVec.ofNat 32 v } := ctr_modCtr_same s k _

/-- What a post shows of its pair, whoever is served. -/
theorem ctr_post (s : State) (k v : Nat) : (ctr (s.post k v) k).issued = (ctr s k).issued + BitVec.ofNat 32 v ∧
    (ctr (s.post k v) k).claim = (ctr s k).claim := by
  obtain ⟨hissued, hclaim, -⟩ := serveCtr_ctr (s := s.posted k v) (ctr s k).waiters.length (List.Sublist.refl _)
  rw [← post_eq, ctr_posted] at hissued hclaim
  exact ⟨hissued, hclaim⟩

/-- A post to a pair for which nobody waits. -/
theorem ctr_post_idle {s : State} {k : Nat} (hw : (ctr s k).waiters = []) (v : Nat) :
    ctr (s.post k v) k = { ctr s k with issued := (ctr s k).issued + BitVec.ofNat 32 v } := by
  rw [post_eq, hw]
  exact ctr_posted s k v

/-- A post that satisfies the first waiting take serves it. -/
theorem ctr_post_serves {s : State} {k v : Nat} {w : Nat × Nat × Nat} {ws : List (Nat × Nat × Nat)}
    (hw : (ctr s k).waiters = w :: ws) (hp : (ctr s k).poison = false)
    (hv : w.2.2 ≤ ((ctr s k).issued + BitVec.ofNat 32 v - (ctr s k).retired).toNat) :
    (ctr (s.post k v) k).waiters.Sublist ws := by
  have hc := ctr_posted s k v
  rw [post_eq, hw, List.length_cons, serveCtr_cons (w := w) (ws := ws) (by rw [hc, hw]) (by rw [hc, hp])
    (by rw [hc]; exact hv)]
  obtain ⟨-, -, hsub⟩ := TakeEnded.shows (State.finishCmd_cases ((s.posted k v).settleTake k ws _) w.2.1)
  exact (serveCtr_ctr ws.length hsub).2.2

/-- The posting command stays as it is while its post is served, unless it waits there itself. -/
theorem cmd?_post {s : State} {k id : Nat} (h : ∀ w ∈ (ctr s k).waiters, w.2.1 ≠ id) (v : Nat) :
    (s.post k v).cmd? id = s.cmd? id :=
  cmd?_serveCtr (s := s.posted k v) (by rw [ctr_posted]; exact h) _

/-! ### The command that starts -/

/-- A SYNC command in the state in which it starts. -/
structure SyncStart (s u : State) (x : Cmd) : Prop where
  cmd : u.cmd? x.id = some x
  status : x.status = none
  late : x.late = none
  cls : envClass x.bits = 4
  sems : u.sems = s.sems
  ctrs : u.ctrs = s.ctrs
  settings : u.settings = s.settings

theorem Starts.sync {op k : Nat} {s u : State} {x : Cmd} (h : Starts true 4 op k noNeed syncCheck s u x) (hs : Sound s) :
    SyncStart s u x := by
  obtain ⟨hx, hst, hl, hc, -⟩ := h.cmd? hs
  obtain ⟨hsems, hctrs, -, hset, -⟩ := h.rest
  exact ⟨hx, hst, hl, hc, hsems, hctrs, hset⟩

theorem cmdHome_congr {s t : State} (h : t.settings = s.settings) (c : Cmd) : cmdHome t c = cmdHome s c := by
  unfold cmdHome cmdClusters clusterAt firstCluster firstDie diesPer
  rw [h]

theorem clusterAt_congr {s t : State} (h : t.settings = s.settings) (p n : Nat) : clusterAt t p n = clusterAt s p n := by
  unfold clusterAt firstCluster firstDie diesPer
  rw [h]

theorem claimOf_congr {s t : State} (h : t.settings = s.settings) (n : Nat) : claimOf t n = claimOf s n := by
  unfold claimOf localCluster partOfCluster partOfDie firstCluster firstDie diesPer
  rw [h]

namespace SyncStart

variable {s u : State} {x : Cmd} (h : SyncStart s u x)
include h

theorem sem_eq (i : Nat) : sem u i = sem s i := sem_congr h.sems i
theorem ctr_eq (i : Nat) : ctr u i = ctr s i := ctr_congr h.ctrs i
theorem semOf_eq : semOf u x = semOf s x := by rw [semOf, cmdHome_congr h.settings, semOf]
theorem ownCtrOf_eq : ownCtrOf u x = ownCtrOf s x := by rw [ownCtrOf, cmdHome_congr h.settings, ownCtrOf]
theorem farCtrOf_eq : farCtrOf u x = farCtrOf s x := by rw [farCtrOf, clusterAt_congr h.settings, farCtrOf]

theorem frame (S C : Set Nat) : SyncFrame S C s u u :=
  ⟨.refl u, fun i _ => congrArg Sem.bare (h.sem_eq i), fun i _ => congrArg Ctr.bare (h.ctr_eq i)⟩

theorem ended {t : State} (ht : t.cmd? x.id = some x) (st : Nat) : EndedWith (t.endCmd x.id st) x.id st :=
  t.endCmd_ended _ _ x ht h.status

/-- No late status was noted, so the command ends with DONE. -/
theorem finish {t : State} (ht : t.cmd? x.id = some x) : t.finishCmd x.id = t.endCmd x.id St.done :=
  State.finishCmd_eq t x.id x ht h.late

/-- An operation that changes its semaphore and is done. -/
theorem modSem_done (j : Nat) (f : Sem → Sem) : EndedWith ((u.modSem j f).finishCmd x.id) x.id St.done ∧
    sem ((u.modSem j f).finishCmd x.id) j = f (sem s j) ∧
    SyncFrame {j} ∅ s u ((u.modSem j f).finishCmd x.id) := by
  rw [h.finish (t := u.modSem j f) h.cmd, sem_endCmd_done, sem_modSem_same, h.sem_eq]
  exact ⟨h.ended (t := u.modSem j f) h.cmd _, rfl, ((h.frame _ _).modSem (Set.mem_singleton j) f).endCmd _ _⟩

/-- An operation that changes its pair and is done. -/
theorem modCtr_done (j : Nat) (f : Ctr → Ctr) : EndedWith ((u.modCtr j f).finishCmd x.id) x.id St.done ∧
    ctr ((u.modCtr j f).finishCmd x.id) j = f (ctr s j) ∧
    SyncFrame ∅ {j} s u ((u.modCtr j f).finishCmd x.id) := by
  rw [h.finish (t := u.modCtr j f) h.cmd, ctr_endCmd_done, ctr_modCtr_same, h.ctr_eq]
  exact ⟨h.ended (t := u.modCtr j f) h.cmd _, rfl, ((h.frame _ _).modCtr (Set.mem_singleton j) f).endCmd _ _⟩

/-! ### Semaphore operations (R150, R153, R156) -/

theorem semInit : EndedWith (semInitStart u x) x.id St.done ∧
    sem (semInitStart u x) (semOf s x) =
      { sem s (semOf s x) with cap := syncValue x.bits, rank := syncRank x.bits, poison := false } ∧
    SyncFrame {semOf s x} ∅ s u (semInitStart u x) := by
  rw [semInitStart, h.semOf_eq]
  exact h.modSem_done _ _

theorem semClearPoison : EndedWith (semClearPoisonStart u x) x.id St.done ∧
    sem (semClearPoisonStart u x) (semOf s x) = { sem s (semOf s x) with poison := false } ∧
    SyncFrame {semOf s x} ∅ s u (semClearPoisonStart u x) := by
  rw [semClearPoisonStart, h.semOf_eq]
  exact h.modSem_done _ _

/-- SEM_ACQUIRE where a unit is free and nobody waits. -/
theorem semAcquire_takes (hf : (sem s (semOf s x)).free = true ∧ (sem s (semOf s x)).waiters = []) :
    EndedWith (semAcquireStart u x) x.id (givenStatus (sem s (semOf s x)).poison) ∧
    (sem (semAcquireStart u x) (semOf s x)).bare = { sem s (semOf s x) with
      holders := (sem s (semOf s x)).holders ||| ((1 : BitVec 32) <<< ctxInCluster (cmdCtx u x)) }.bare ∧
    SyncFrame {semOf s x} ∅ s u (semAcquireStart u x) := by
  have hstart : semAcquireStart u x = u.takeUnit (semOf s x) (ctxInCluster (cmdCtx u x)) x.id := by
    simp [semAcquireStart, h.semOf_eq, h.sem_eq, hf]
  rw [hstart, sem_takeUnit_bare, ← h.sem_eq]
  exact ⟨⟨_, cmd?_takeUnit h.cmd h.status h.cls _ _, rfl⟩, rfl, (h.frame _ _).takeUnit (Set.mem_singleton _) _ _⟩

/-- SEM_ACQUIRE where it waits. -/
theorem semAcquire_waits (hn : ¬((sem s (semOf s x)).free = true ∧ (sem s (semOf s x)).waiters = [])) :
    Waits (semAcquireStart u x) x.id .sem ∧
    sem (semAcquireStart u x) (semOf s x) = { sem s (semOf s x) with
      waiters := (sem s (semOf s x)).waiters ++ [(ctxInCluster (cmdCtx u x), x.id)] } ∧
    SyncFrame {semOf s x} ∅ s u (semAcquireStart u x) := by
  have hstart : semAcquireStart u x = (u.modSem (semOf s x) (fun m =>
      { m with waiters := m.waiters ++ [(ctxInCluster (cmdCtx u x), x.id)] })).cmdWaits x.id .sem := by
    simp [semAcquireStart, h.semOf_eq, h.sem_eq, hn]
  rw [hstart, sem_cmdWaits, sem_modSem_same, h.sem_eq]
  exact ⟨⟨_, State.cmd?_cmdWaits (s := u.modSem _ _) h.cmd _, h.status, rfl⟩, rfl,
    ((h.frame _ _).modSem (Set.mem_singleton _) _).cmdWaits _ _⟩

/-- SEM_TRY where it takes a unit. -/
theorem semTry_takes (hf : (sem s (semOf s x)).free = true ∧ (sem s (semOf s x)).waiters = [] ∧
      (sem s (semOf s x)).holds (ctxInCluster (cmdCtx u x)) = false) :
    (semTryStart u x).cmd? x.id = some ({ x with result := 1 }.endedWith (givenStatus (sem s (semOf s x)).poison)) ∧
    (sem (semTryStart u x) (semOf s x)).bare = { sem s (semOf s x) with
      holders := (sem s (semOf s x)).holders ||| ((1 : BitVec 32) <<< ctxInCluster (cmdCtx u x)) }.bare ∧
    SyncFrame {semOf s x} ∅ s u (semTryStart u x) := by
  have hstart : semTryStart u x = (u.setResult x.id 1).takeUnit (semOf s x) (ctxInCluster (cmdCtx u x)) x.id := by
    simp [semTryStart, h.semOf_eq, h.sem_eq, hf]
  have hc : (u.setResult x.id 1).cmd? x.id = some { x with result := 1 } := State.cmd?_modCmd_same h.cmd _
  have hsem : sem (u.setResult x.id 1) (semOf s x) = sem s (semOf s x) := h.sem_eq _
  rw [hstart, sem_takeUnit_bare, ← hsem]
  exact ⟨cmd?_takeUnit hc h.status h.cls _ _, rfl,
    ((h.frame _ _).modCmd x.id fun c => { c with result := 1 }).takeUnit (Set.mem_singleton _) _ _⟩

/-- SEM_TRY where it takes none. -/
theorem semTry_done (hn : ¬((sem s (semOf s x)).free = true ∧ (sem s (semOf s x)).waiters = [] ∧
      (sem s (semOf s x)).holds (ctxInCluster (cmdCtx u x)) = false)) :
    (semTryStart u x).cmd? x.id = some (x.endedWith St.done) ∧ sem (semTryStart u x) (semOf s x) = sem s (semOf s x) ∧
    SyncFrame {semOf s x} ∅ s u (semTryStart u x) := by
  have hstart : semTryStart u x = u.finishCmd x.id :=
    if_neg (by simpa [h.semOf_eq, h.sem_eq, and_assoc] using hn)
  rw [hstart, h.finish h.cmd, sem_endCmd_done, h.sem_eq]
  exact ⟨cmd?_endCmd_sync h.cmd h.status h.cls _, rfl, (h.frame _ _).endCmd _ _⟩

/-- SEM_RELEASE: the unit is back and the command has ended before the line is served. -/
theorem semRelease : EndedWith (semReleaseStart u x) x.id St.done ∧ SyncFrame {semOf s x} ∅ s u (semReleaseStart u x) ∧
    ∃ v, semReleaseStart u x = v.serveSem (semOf s x) (sem s (semOf s x)).waiters.length ∧
      sem v (semOf s x) = { sem s (semOf s x) with
        holders := (sem s (semOf s x)).holders &&& ~~~((1 : BitVec 32) <<< ctxInCluster (cmdCtx u x)) } := by
  obtain ⟨hend, hsem, hframe⟩ := h.modSem_done (semOf s x) (fun m =>
    { m with holders := m.holders &&& ~~~((1 : BitVec 32) <<< ctxInCluster (cmdCtx u x)) })
  rw [semReleaseStart, h.semOf_eq, h.sem_eq]
  exact ⟨hend.serveSem _ _, hframe.serveSem (Set.mem_singleton _) _, _, rfl, hsem⟩

/-! ### Pair operations (R150, R153, R157) -/

theorem ctrInit : EndedWith (ctrInitStart u x) x.id St.done ∧
    ctr (ctrInitStart u x) (ownCtrOf s x) =
      { ctr s (ownCtrOf s x) with issued := 0, retired := 0, rank := syncRank x.bits, poison := false } ∧
    SyncFrame ∅ {ownCtrOf s x} s u (ctrInitStart u x) := by
  rw [ctrInitStart, h.ownCtrOf_eq]
  exact h.modCtr_done _ _

theorem ctrUnclaim : EndedWith (ctrUnclaimStart u x) x.id St.done ∧
    ctr (ctrUnclaimStart u x) (farCtrOf s x) = { ctr s (farCtrOf s x) with claim := none } ∧
    SyncFrame ∅ {farCtrOf s x} s u (ctrUnclaimStart u x) := by
  rw [ctrUnclaimStart, h.farCtrOf_eq]
  exact h.modCtr_done _ _

theorem ctrClaim : EndedWith (ctrClaimStart u x) x.id (givenStatus (ctr s (farCtrOf s x)).poison) ∧
    (ctr (ctrClaimStart u x) (farCtrOf s x)).bare =
      { ctr s (farCtrOf s x) with claim := some (claimOf s (cmdCtx u x)) }.bare ∧
    SyncFrame ∅ {farCtrOf s x} s u (ctrClaimStart u x) := by
  rw [ctrClaimStart, h.farCtrOf_eq, h.ctr_eq, claimOf_congr h.settings, ctr_endCmd_bare, ctr_modCtr_same, h.ctr_eq]
  exact ⟨h.ended (t := u.modCtr _ _) h.cmd _, rfl, ((h.frame _ _).modCtr (Set.mem_singleton _) _).endCmd _ _⟩

theorem ctrTake_poisoned (hp : (ctr s (ownCtrOf s x)).poison = true) :
    EndedWith (ctrTakeStart u x) x.id St.lockPoisoned ∧
    (ctr (ctrTakeStart u x) (ownCtrOf s x)).bare = (ctr s (ownCtrOf s x)).bare ∧
    SyncFrame ∅ {ownCtrOf s x} s u (ctrTakeStart u x) := by
  have hstart : ctrTakeStart u x = u.endCmd x.id St.lockPoisoned := by simp [ctrTakeStart, h.ownCtrOf_eq, h.ctr_eq, hp]
  rw [hstart, ctr_endCmd_bare, h.ctr_eq]
  exact ⟨h.ended h.cmd _, rfl, (h.frame _ _).endCmd _ _⟩

theorem ctrTake_takes (hp : (ctr s (ownCtrOf s x)).poison = false)
    (hv : (ctr s (ownCtrOf s x)).waiters = [] ∧ syncValue x.bits ≤ (ctr s (ownCtrOf s x)).avail) :
    EndedWith (ctrTakeStart u x) x.id St.done ∧
    ctr (ctrTakeStart u x) (ownCtrOf s x) = { ctr s (ownCtrOf s x) with
      retired := (ctr s (ownCtrOf s x)).retired + BitVec.ofNat 32 (syncValue x.bits) } ∧
    SyncFrame ∅ {ownCtrOf s x} s u (ctrTakeStart u x) := by
  have hstart : ctrTakeStart u x = (u.modCtr (ownCtrOf s x) (fun m =>
      { m with retired := m.retired + BitVec.ofNat 32 (syncValue x.bits) })).finishCmd x.id := by
    simp [ctrTakeStart, h.ownCtrOf_eq, h.ctr_eq, hp, hv]
  rw [hstart]
  exact h.modCtr_done _ _

theorem ctrTake_waits (hp : (ctr s (ownCtrOf s x)).poison = false)
    (hn : ¬((ctr s (ownCtrOf s x)).waiters = [] ∧ syncValue x.bits ≤ (ctr s (ownCtrOf s x)).avail)) :
    Waits (ctrTakeStart u x) x.id .ctr ∧
    ctr (ctrTakeStart u x) (ownCtrOf s x) = { ctr s (ownCtrOf s x) with
      waiters := (ctr s (ownCtrOf s x)).waiters ++ [(ctxInCluster (cmdCtx u x), x.id, syncValue x.bits)] } ∧
    SyncFrame ∅ {ownCtrOf s x} s u (ctrTakeStart u x) := by
  have hstart : ctrTakeStart u x = (u.modCtr (ownCtrOf s x) (fun m =>
      { m with waiters := m.waiters ++ [(ctxInCluster (cmdCtx u x), x.id, syncValue x.bits)] })).cmdWaits x.id .ctr := by
    simp [ctrTakeStart, h.ownCtrOf_eq, h.ctr_eq, hp, hn]
  rw [hstart, ctr_cmdWaits, ctr_modCtr_same, h.ctr_eq]
  exact ⟨⟨_, State.cmd?_cmdWaits (s := u.modCtr _ _) h.cmd _, h.status, rfl⟩, rfl,
    ((h.frame _ _).modCtr (Set.mem_singleton _) _).cmdWaits _ _⟩

/-- CTR_POST: the command ends once the line has been served, unless it waits there itself. -/
theorem ctrPost (hout : ∀ w ∈ (ctr s (farCtrOf s x)).waiters, w.2.1 ≠ x.id) :
    EndedWith (ctrPostStart u x) x.id St.done ∧
    ctr (ctrPostStart u x) (farCtrOf s x) = ctr (u.post (farCtrOf s x) (syncValue x.bits)) (farCtrOf s x) ∧
    SyncFrame ∅ {farCtrOf s x} s u (ctrPostStart u x) := by
  have hc : (u.post (farCtrOf s x) (syncValue x.bits)).cmd? x.id = some x :=
    (cmd?_post (by rwa [h.ctr_eq]) _).trans h.cmd
  have hframe : SyncFrame ∅ {farCtrOf s x} s u (u.post (farCtrOf s x) (syncValue x.bits)) :=
    ((h.frame _ _).modCtr (Set.mem_singleton _) _).serveCtr (Set.mem_singleton _) _
  rw [ctrPostStart, h.farCtrOf_eq, h.finish hc, ctr_endCmd_done]
  exact ⟨h.ended hc _, rfl, hframe.endCmd _ _⟩

end SyncStart

/-! ### What the rows answer -/

/-- LADDER counts no command that starts and does not end with its status. -/
theorem countLadder_starts {op k : Nat} {s u : State} {x c : Cmd} (h : Starts true 4 op k noNeed syncCheck s u x)
    {start : State → Cmd → State} (hc : (start u x).cmd? x.id = some c) (hne : c.status ≠ some St.ladder) :
    s.countLadder (dispatchRow 4 op k syncCheck start s) op k = start u x := by
  simp [State.countLadder, dispatchRow_starts h, h.servedId, hc, hne]

theorem countLadder_ended {op k st : Nat} {s u : State} {x : Cmd} (h : Starts true 4 op k noNeed syncCheck s u x)
    {start : State → Cmd → State} (hend : EndedWith (start u x) x.id st) (hne : st ≠ St.ladder) :
    s.countLadder (dispatchRow 4 op k syncCheck start s) op k = start u x := by
  obtain ⟨c, hc, hst⟩ := hend
  exact countLadder_starts h hc (by simpa [hst] using hne)

theorem countLadder_waiting {op k : Nat} {w : Wait} {s u : State} {x : Cmd} (h : Starts true 4 op k noNeed syncCheck s u x)
    {start : State → Cmd → State} (hw : Waits (start u x) x.id w) :
    s.countLadder (dispatchRow 4 op k syncCheck start s) op k = start u x := by
  obtain ⟨c, hc, hst, -⟩ := hw
  exact countLadder_starts h hc (by simp [hst])

/-- CTR_OVERRUN is an event of a malformed post only. -/
theorem execCtrPost_of_ended {k id st : Nat} {s t : State} (ht : dispatchRow 4 0x13 k syncCheck ctrPostStart s = t)
    (hid : servedId 4 0x13 s k = id) (hend : EndedWith t id st) (hne : st ≠ St.malformed) : execCtrPost k s = .next t := by
  obtain ⟨c, hc, hst⟩ := hend
  simp [execCtrPost, ht, hid, hc, hst, hne]

/-- Settles O18: each operation by what its start leaves of the semaphore or pair, and by what serving the line keeps. -/
theorem semaphoresAndCounters : Obligations.SemaphoresAndCounters := by
  constructor
  · intro s u k x hs j n bare others
    refine ⟨fun h => ?init, fun h => ?acquire, fun h => ?tryTake, fun h _ => ?release, fun h => ?clearPoison⟩ <;>
      have hx := h.sync hs
    case init =>
      obtain ⟨hend, hsem, hframe⟩ := hx.semInit
      exact ⟨_, congrArg Host.Outcome.next (dispatchRow_starts h _), hend, hsem, hframe.onlySem⟩
    case acquire =>
      by_cases hfree : (sem s j).free = true ∧ (sem s j).waiters = []
      · obtain ⟨hend, hsem, hframe⟩ := hx.semAcquire_takes hfree
        exact ⟨_, congrArg Host.Outcome.next (countLadder_ended h hend (givenStatus_ne_ladder _)), hframe.onlySem,
          fun _ => ⟨hend, hsem⟩, fun hn => absurd hfree hn⟩
      · obtain ⟨hwait, hsem, hframe⟩ := hx.semAcquire_waits hfree
        have ⟨c, hc, hst, hw⟩ := hwait
        exact ⟨_, congrArg Host.Outcome.next (countLadder_waiting h hwait), hframe.onlySem,
          fun hf => absurd hf hfree, fun _ => ⟨⟨c, hc, hw, hst⟩, hsem⟩⟩
    case tryTake =>
      by_cases hfree : (sem s j).free = true ∧ (sem s j).waiters = [] ∧ (sem s j).holds n = false
      · obtain ⟨hc, hsem, hframe⟩ := hx.semTry_takes hfree
        exact ⟨_, _, congrArg Host.Outcome.next (dispatchRow_starts h _), hc, hframe.onlySem, fun _ => ⟨rfl, rfl, hsem⟩,
          fun hn => absurd hfree hn⟩
      · obtain ⟨hc, hsem, hframe⟩ := hx.semTry_done hfree
        exact ⟨_, _, congrArg Host.Outcome.next (dispatchRow_starts h _), hc, hframe.onlySem, fun hf => absurd hf hfree,
          fun _ => ⟨rfl, rfl, hsem⟩⟩
    case release =>
      obtain ⟨hend, hframe, v, hserve, hsem⟩ := hx.semRelease
      refine ⟨_, congrArg Host.Outcome.next (dispatchRow_starts h _), hend, hframe.onlySem, fun hw => ?_,
        fun w ws hw hfree hn => ?_⟩ <;> rw [hserve, hw]
      · exact hsem
      · rw [List.length_cons, serveSem_cons (by rw [hsem]; exact hw) (by rw [hsem]; exact decide_eq_true hfree)]
        obtain ⟨hholders, hwaiters⟩ := sem_grantUnit v j w ws
        exact serveSem_holds _ (by rw [hholders]; exact getLsbD_holder _ hn) hwaiters
    case clearPoison =>
      obtain ⟨hend, hsem, hframe⟩ := hx.semClearPoison
      exact ⟨_, congrArg Host.Outcome.next (dispatchRow_starts h _), hend, hsem, hframe.onlySem⟩
  · intro s u k x hs own far v bare others
    refine ⟨fun h => ?init, fun h => ?claim, fun h => ?unclaim, fun h hout => ?post, fun h => ?take⟩ <;> have hx := h.sync hs
    case init =>
      obtain ⟨hend, hctr, hframe⟩ := hx.ctrInit
      exact ⟨_, congrArg Host.Outcome.next (dispatchRow_starts h _), hend, hctr, hframe.onlyCtr⟩
    case claim =>
      obtain ⟨hend, hctr, hframe⟩ := hx.ctrClaim
      exact ⟨_, congrArg Host.Outcome.next (dispatchRow_starts h _), hend, hctr, hframe.onlyCtr⟩
    case unclaim =>
      obtain ⟨hend, hctr, hframe⟩ := hx.ctrUnclaim
      exact ⟨_, congrArg Host.Outcome.next (dispatchRow_starts h _), hend, hctr, hframe.onlyCtr⟩
    case post =>
      obtain ⟨hend, hctr, hframe⟩ := hx.ctrPost hout
      obtain ⟨hissued, hclaim⟩ := ctr_post u far v
      have hexec := execCtrPost_of_ended (dispatchRow_starts h _) h.servedId hend (by decide)
      refine ⟨_, hexec, hend, hframe.onlyCtr, ?_, ?_, fun hw => ?_, fun w ws hw hp hv => ?_⟩ <;> rw [hctr]
      · rw [hissued, hx.ctr_eq]
      · rw [hclaim, hx.ctr_eq]
      · rw [ctr_post_idle (by rw [hx.ctr_eq]; exact hw), hx.ctr_eq]
      · rw [← hx.ctr_eq] at hw hp hv
        exact ctr_post_serves hw hp hv
    case take =>
      cases hp : (ctr s own).poison with
      | true =>
        obtain ⟨hend, hctr, hframe⟩ := hx.ctrTake_poisoned hp
        exact ⟨_, congrArg Host.Outcome.next (countLadder_ended h hend (by decide)), hframe.onlyCtr, fun _ => ⟨hend, hctr⟩,
          nofun, nofun⟩
      | false =>
        by_cases hv : (ctr s own).waiters = [] ∧ v ≤ (ctr s own).avail
        · obtain ⟨hend, hctr, hframe⟩ := hx.ctrTake_takes hp hv
          exact ⟨_, congrArg Host.Outcome.next (countLadder_ended h hend (by decide)), hframe.onlyCtr, nofun,
            fun _ _ _ => ⟨hend, hctr⟩, fun _ hn => absurd hv hn⟩
        · obtain ⟨hwait, hctr, hframe⟩ := hx.ctrTake_waits hp hv
          have ⟨c, hc, hst, hw⟩ := hwait
          exact ⟨_, congrArg Host.Outcome.next (countLadder_waiting h hwait), hframe.onlyCtr, nofun,
            fun _ hw hle => absurd ⟨hw, hle⟩ hv, fun _ _ => ⟨⟨c, hc, hw, hst⟩, hctr⟩⟩

end Sys2Proof.Machine

/-! ## Pairs outside the partition (O19) -/

namespace Sys2Proof.Machine

theorem ctrKey_div {cl i : Nat} (h : i < 512) : ctrKey cl i / 512 = cl := by
  unfold ctrKey
  omega

/-- A well-formed pair operation names one of the cluster's 512 pairs (R150, R151). -/
theorem syncIndex_lt {b : CmdBits} (hlo : 0x10 ≤ syncOp b) (hhi : syncOp b ≤ 0x14) (hm : syncMalformed b = false) :
    syncIndex b < 512 := by
  by_contra hn
  have hbad : (decide (0x10 ≤ syncOp b) && decide (syncOp b ≤ 0x14) && decide (512 ≤ syncIndex b)) = true := by
    simp [hlo, hhi, Nat.not_lt.1 hn]
  simp [syncMalformed, hbad] at hm

/-- The class check refuses a claim or post whose CLUSTER lies outside the partition or is retired (R152, R404). -/
theorem syncCheck_fenced {v : State} {c : Cmd} (hop : syncOp c.bits = 0x11 ∨ syncOp c.bits = 0x12 ∨ syncOp c.bits = 0x13)
    (hm : syncMalformed c.bits = false)
    (hf : clustersPer v ≤ syncCluster c.bits ∨ clusterRetired v (clusterAt v c.part (syncCluster c.bits)) = true) :
    syncCheck v c = some St.fence := by
  have hfar : farCtrOf v c / 512 = clusterAt v c.part (syncCluster c.bits) :=
    ctrKey_div (syncIndex_lt (by omega) (by omega) hm)
  have hout : (decide (clustersPer v ≤ syncCluster c.bits) || clusterRetired v (farCtrOf v c / 512)) = true := by
    simpa [hfar] using hf
  rcases hop with h | h | h
  · simp [syncCheck, hm, h, hout, firstOf]
  · simp [syncCheck, hm, h, hout, firstOf]
  · rw [hfar] at hout
    simp [syncCheck, hm, h, postCheck, hout]

theorem Arrives.ctrs {cls sub k : Nat} {s v : State} {c : Cmd} (h : Arrives cls sub k s v c) : v.ctrs = s.ctrs := by
  rcases h with ⟨-, -, -, -, rfl⟩ | ⟨-, b, -, -, -, -, -, rfl, -⟩
  · rfl
  · exact State.take_field State.ctrs (fun _ _ => rfl) (fun _ _ _ => rfl) (fun _ _ _ => rfl) (fun _ _ _ => rfl) s k b

/-- Settles O19: the class check refuses the command, and its end leaves every pair as it was. -/
theorem fencedPairs : Obligations.FencedPairs := by
  intro s v k op c hs hop ha hsync hbehind hm hf
  simp only [List.mem_cons, List.not_mem_nil, or_false] at hop
  obtain ⟨hc, hst⟩ := ha.cmd? hs
  have hcheck := syncCheck_fenced (by rwa [hsync]) hm hf
  have hrow (start : State → Cmd → State) := dispatchRow_refuses ha hbehind hcheck start
  have hend : EndedWith ((v.modCmd c.id (fun c => { c with checked := true })).endCmd c.id St.fence) c.id St.fence :=
    State.endCmd_ended _ _ _ _ (State.cmd?_modCmd_same hc _) hst
  refine ⟨_, ?_, hend, (v.modCmd_frame _ _).trans (State.endCmd_frame _ _ _), fun i =>
    (ctr_endCmd_bare _ _ _ i).trans (congrArg Ctr.bare (ctr_congr ha.ctrs i))⟩
  rcases hop with rfl | rfl | rfl
  · exact congrArg Host.Outcome.next (hrow _)
  · exact congrArg Host.Outcome.next (hrow _)
  · exact execCtrPost_of_ended (hrow _) ha.servedId hend (by decide)

end Sys2Proof.Machine

/-! ## Accesses of HBM (O36)

A channel that serves a request counts it for pacing and, where it is narrow, at its stack; what decides where bytes lie, which
granules are fresh and which accesses are poisoned stays. -/

namespace Sys2Proof.Machine

/-! ### One component after its change -/

theorem chan_modChan (s : State) (n j : Nat) (f : Chan → Chan) :
    chan (s.modChan n f) j = if j = n then f (chan s n) else chan s j := SMap.get_modify ({} : Chan) s.chans n j f

theorem stack_modStack (s : State) (n j : Nat) (f : Stack → Stack) :
    stack (s.modStack n f) j = if j = n then f (stack s n) else stack s j := SMap.get_modify ({} : Stack) s.stks n j f

/-! ### The request and its key -/

theorem reqOf_some {s : State} {id : Nat} {kind : ReqKind} {o : Option Bool} {r : Req} (h : reqOf s id kind o = some r) :
    r.id = id ∧ ∀ n, o = some n → r.narrow = n := by
  have hp := List.find?_some h
  simp only [Bool.and_eq_true, beq_iff_eq] at hp
  obtain ⟨⟨hid, -⟩, hn⟩ := hp
  refine ⟨hid, ?_⟩
  rintro n rfl
  exact (eq_of_beq hn).symm

/-- A request that can be served lies in HBM memory. -/
theorem serveKey_some {s : State} {r : Req} {per k : Nat} (h : serveKey s r per = some k) :
    locate s (addrPart r.addr) (addrOff r.addr) = .mem k ∧ keyDom k = 0 := by
  have hk : reqKey s r = some k := by
    unfold serveKey at h
    split at h
    next q hq =>
      dsimp only at h
      split at h
      · cases h
      · split at h
        · rw [hq, Option.some.inj h]
        · split at h
          · rw [hq, Option.some.inj h]
          · cases h
    next => cases h
  unfold reqKey at hk
  split at hk
  next q hq =>
    split at hk
    next h0 => cases hk; exact ⟨hq, h0⟩
    next => cases hk
  next => cases hk

theorem keyAt_of_locate {s : State} {p x k : Nat} (h : locate s p x = .mem k) : keyAt s p x = k := by
  simp only [keyAt, h]

/-! ### States that agree on where bytes lie and on what is poisoned -/

theorem chanOfKey_congr {s t : State} (h : t.settings = s.settings) (k : Nat) : chanOfKey t k = chanOfKey s k := by
  simp only [chanOfKey, moduleChan, firstDie, place, chanBits, diesPer, h]

theorem chanOff_congr {s t : State} (h : t.settings = s.settings) (k : Nat) : chanOff t k = chanOff s k := by
  simp only [chanOff, place, chanBits, diesPer, h]

theorem hbmHomed_congr {s t : State} (h : t.settings = s.settings) (p : Nat) : hbmHomed t p = hbmHomed s p := by
  simp only [hbmHomed, shareOf, diesPer, h]

theorem isTier1_congr {s t : State} (h : t.settings = s.settings) (p x : Nat) : isTier1 t p x = isTier1 s p x := by
  have hd : diesPer t = diesPer s := by simp only [diesPer, h]
  rw [isTier1, isTier1, rangeEnd, rangeEnd, hbmHomed_congr h, hd]

theorem locate_congr {s t : State} (hs : t.settings = s.settings) (ht : t.tiers = s.tiers) (p x : Nat) :
    locate t p x = locate s p x := by
  simp only [locate, isTier1_congr hs, frameOf, tier, ht, frameKey, hbmHomed_congr hs]

theorem keyAt_congr {s t : State} (hs : t.settings = s.settings) (ht : t.tiers = s.tiers) (p x : Nat) :
    keyAt t p x = keyAt s p x := by
  simp only [keyAt, locate_congr hs ht, hbmHomed_congr hs]

theorem isFresh_congr {s t : State} (h : t.written = s.written) (k : Nat) : isFresh t k = isFresh s k := by
  simp only [isFresh, h]

/-- The two states place keys alike, and the same accesses are fresh and poisoned. -/
structure SameAccesses (s t : State) : Prop where
  settings : t.settings = s.settings
  tiers : t.tiers = s.tiers
  mem : t.mem = s.mem
  written : t.written = s.written
  poison : t.poison = s.poison
  lost : ∀ n, (chan t n).lost = (chan s n).lost

namespace SameAccesses

variable {s t : State} (h : SameAccesses s t)
include h

theorem isLost (k : Nat) : isLost t k = isLost s k := by
  simp only [Machine.isLost, chanOfKey_congr h.settings, chanOff_congr h.settings, h.lost]

theorem isPoisoned (k : Nat) : isPoisoned t k = isPoisoned s k := by
  simp only [Machine.isPoisoned, h.poison, h.isLost]

theorem poisoned (k len : Nat) : poisoned t k len = poisoned s k len := by
  simp only [Machine.poisoned, h.isPoisoned]

theorem poisonedRange (p x len : Nat) : poisonedRange t p x len = poisonedRange s p x len := by
  simp only [Machine.poisonedRange, h.isPoisoned, keyAt_congr h.settings h.tiers]

theorem bytes (k len : Nat) : t.bytes k len = s.bytes k len := by
  simp only [State.bytes, State.byte, h.mem]

end SameAccesses

/-! ### Pacing and the count of narrow accesses -/

/-- A request is counted for pacing, and at its stack where it is narrow. -/
def State.paid (s : State) (r : Req) (k n : Nat) : State := (s.pace k n).countNarrow r k

/-- Pacing changes the window of one channel. -/
theorem pace_chan (s : State) (k n j : Nat) : chan (s.pace k n) j = { chan s j with window := (chan (s.pace k n) j).window } := by
  unfold State.pace
  dsimp only
  split
  · rfl
  · rw [chan_modChan]
    split
    next e => rw [e]
    next => rfl

theorem pace_rest (s : State) (k n : Nat) : { s.pace k n with chans := s.chans } = s := by
  unfold State.pace
  dsimp only
  split <;> rfl

theorem pace_sameAccesses (s : State) (k n : Nat) : SameAccesses s (s.pace k n) := by
  have h := pace_rest s k n
  refine ⟨?_, ?_, ?_, ?_, ?_, fun j => by rw [pace_chan]⟩
  · have e := congrArg State.settings h; exact e
  · have e := congrArg State.tiers h; exact e
  · have e := congrArg State.mem h; exact e
  · have e := congrArg State.written h; exact e
  · have e := congrArg State.poison h; exact e

theorem pace_reqs (s : State) (k n : Nat) : (s.pace k n).reqs = s.reqs := by
  have h := congrArg State.reqs (pace_rest s k n)
  exact h

theorem pace_stks (s : State) (k n : Nat) : (s.pace k n).stks = s.stks := by
  have h := congrArg State.stks (pace_rest s k n)
  exact h

theorem countNarrow_rest (s : State) (r : Req) (k : Nat) : { s.countNarrow r k with stks := s.stks } = s := by
  unfold State.countNarrow
  split <;> rfl

theorem countNarrow_chans (s : State) (r : Req) (k : Nat) : (s.countNarrow r k).chans = s.chans := by
  have h := congrArg State.chans (countNarrow_rest s r k)
  exact h

section
variable (s : State) (r : Req) (k n : Nat)

theorem paid_rest : { s.paid r k n with chans := s.chans, stks := s.stks } = s := by
  have h := congrArg (fun t : State => { t with chans := s.chans, stks := s.stks }) (countNarrow_rest (s.pace k n) r k)
  have hp := congrArg (fun t : State => { t with stks := s.stks }) (pace_rest s k n)
  exact h.trans hp

theorem paid_chan (j : Nat) : chan (s.paid r k n) j = { chan s j with window := (chan (s.paid r k n) j).window } := by
  rw [State.paid, chan_congr (countNarrow_chans (s.pace k n) r k)]
  exact pace_chan s k n j

theorem paid_reqs : (s.paid r k n).reqs = s.reqs := by
  have h := congrArg State.reqs (paid_rest s r k n)
  exact h

theorem paid_sameAccesses : SameAccesses s (s.paid r k n) := by
  have h := pace_sameAccesses s k n
  unfold State.paid State.countNarrow
  split
  · exact ⟨h.settings, h.tiers, h.mem, h.written, h.poison, h.lost⟩
  · exact h

theorem paid_stack (m : Nat) : stack (s.paid r k n) m =
    if m = chanOfKey s k / 32 ∧ r.narrow = true then { stack s m with narrow := satAdd 64 (stack s m).narrow 1 } else stack s m := by
  have hs : (s.pace k n).settings = s.settings := by
    have h := congrArg State.settings (pace_rest s k n)
    exact h
  have hk (m : Nat) : stack (s.pace k n) m = stack s m := by rw [stack, pace_stks, stack]
  unfold State.paid State.countNarrow
  by_cases hn : r.narrow = true
  · rw [if_pos hn, chanOfKey_congr hs, stack_modStack, hk, hk]
    by_cases hm : m = chanOfKey s k / 32
    · rw [if_pos hm, if_pos ⟨hm, hn⟩, hm]
    · rw [if_neg hm, if_neg (fun e => hm e.1)]
  · rw [if_neg hn, if_neg (fun e => hn e.2), hk]

end

/-! ### Where an access lies on its channel (R168) -/

/-- The fold of an offset's upper bits stays below the channel count. -/
theorem foldXor_lt (n c x : Nat) : foldXor n c x < 2 ^ c := by
  induction n generalizing x with
  | zero => exact Nat.two_pow_pos c
  | succ n ih =>
    rw [foldXor]
    split
    · exact Nat.two_pow_pos c
    · exact Nat.xor_lt_two_pow (Nat.mod_lt _ (Nat.two_pow_pos c)) (ih _)

/-- A sound module has 4, 2 or 1 compute dies to a partition, and as many times 64 channels. -/
theorem two_pow_chanBits {s : State} (h : s.settings.partitions ∈ [1, 2, 4]) : 0 < diesPer s ∧ 2 ^ chanBits s = 64 * diesPer s := by
  simp only [List.mem_cons, List.not_mem_nil, or_false] at h
  rcases h with h | h | h <;> simp only [chanBits, diesPer, h] <;> decide

theorem chanOff_mod (s : State) (k : Nat) : chanOff s k % 64 = k % 64 := by
  simp only [chanOff, place, Nat.shiftLeft_eq, keyOff]
  omega

/-- Removing the placement gives the offset back, access by access. -/
theorem unplace_place {s : State} (off : Nat) :
    unplace s (place s off).1 ((place s off).2 / 64 * 64) = off / 64 * 64 := by
  have hco : (place s off).2 / 64 * 64 = ((off >>> 12 >>> chanBits s) <<< 12) + off % 4096 / 64 * 64 := by
    simp only [place, Nat.shiftLeft_eq]
    omega
  have hl : ((off >>> 12 >>> chanBits s) <<< 12 + off % 4096 / 64 * 64) >>> 12 = off >>> 12 >>> chanBits s := by
    rw [Nat.shiftRight_eq_div_pow _ 12, Nat.shiftLeft_eq]
    omega
  have hm : ((off >>> 12 >>> chanBits s) <<< 12 + off % 4096 / 64 * 64) % 4096 = off % 4096 / 64 * 64 := by
    rw [Nat.shiftLeft_eq]
    omega
  have hg : ((off >>> 12 >>> chanBits s) <<< chanBits s) + off >>> 12 % 2 ^ chanBits s = off >>> 12 := by
    rw [Nat.shiftRight_eq_div_pow _ (chanBits s), Nat.shiftLeft_eq]
    exact Nat.div_add_mod' _ _
  rw [hco]
  simp only [unplace, hl, hm]
  simp only [place, Nat.xor_assoc, Nat.xor_self, Nat.xor_zero, hg]
  simp only [Nat.shiftRight_eq_div_pow, Nat.shiftLeft_eq]
  omega

/-- The channel and the channel offset of an access of HBM name that access (R168). -/
theorem keyOfChan_chanOff {s : State} (hs : s.settings.partitions ∈ [1, 2, 4]) {k : Nat} (h0 : keyDom k = 0) :
    keyOfChan s (chanOfKey s k) (chanOff s k / 64 * 64) = k / 64 * 64 := by
  obtain ⟨hd, hc⟩ := two_pow_chanBits hs
  have hpc : (place s (keyOff k)).1 < 64 * diesPer s := by
    rw [← hc]
    exact Nat.xor_lt_two_pow (Nat.mod_lt _ (Nat.two_pow_pos _)) (foldXor_lt _ _ _)
  have hp : partOfChan s (chanOfKey s k) = keyPart k := by
    have hch : chanOfKey s k = (place s (keyOff k)).1 + 64 * diesPer s * keyPart k := by
      simp only [chanOfKey, moduleChan, firstDie]
      ring
    simp only [partOfChan, partOfStack, partOfDie, Nat.div_div_eq_div_mul]
    rw [hch, Nat.add_mul_div_left _ _ (by omega), Nat.div_eq_of_lt (by omega), Nat.zero_add]
  have hsub : chanOfKey s k - 64 * firstDie s (keyPart k) = (place s (keyOff k)).1 := Nat.add_sub_cancel_left ..
  have hoff : chanOff s k = (place s (keyOff k)).2 := rfl
  rw [keyOfChan, hp, hsub, hoff, unplace_place]
  simp only [key, keyPart, keyOff, keyDom] at h0 ⊢
  omega

/-! ### What an uncorrectable error leaves (R175) -/

theorem OnlyEvents.poison {s t : State} (h : OnlyEvents s t) : t.poison = s.poison := by
  have e := congrArg State.poison h; exact e
theorem OnlyEvents.reqs {s t : State} (h : OnlyEvents s t) : t.reqs = s.reqs := by
  have e := congrArg State.reqs h; exact e
theorem OnlyEvents.tiers {s t : State} (h : OnlyEvents s t) : t.tiers = s.tiers := by
  have e := congrArg State.tiers h; exact e

theorem OnlyEvents.sameAccesses {s t : State} (h : OnlyEvents s t) : SameAccesses s t :=
  ⟨h.settings, h.tiers, h.mem, h.written, h.poison, fun n => congrArg Chan.lost (chan_congr h.chans n)⟩

theorem State.setPoison_chans (s : State) (k : Nat) (b : Bool) : (s.setPoison k b).chans = s.chans := rfl

/-- A row that is added to the pending list for an uncorrectable error is marked there. -/
theorem exists_addPend (l : List PendRow) (bank row : Nat) :
    ∃ x ∈ addPend l bank row true, x.bank = bank ∧ x.row = row ∧ x.ue = true := by
  unfold addPend
  split
  next h =>
    obtain ⟨y, hy, he⟩ := List.any_eq_true.1 h
    simp only [Bool.and_eq_true, beq_iff_eq] at he
    exact ⟨_, List.mem_map.2 ⟨y, hy, rfl⟩, by simp [he]⟩
  next => exact ⟨{ bank := bank, row := row, ue := true }, by simp, rfl, rfl, rfl⟩

/-- The channel after an uncorrectable error at an offset. -/
def Chan.withError (c : Chan) (co : Nat) : Chan :=
  { c with pend := addPend c.pend (bankOf co) (rowOf co) true, ue := satAdd 32 c.ue 1 }

structure Uncorrected (s : State) (ch co : Nat) (t : State) : Prop where
  settings : t.settings = s.settings
  mem : t.mem = s.mem
  reqs : t.reqs = s.reqs
  chan : chan t ch = (chan s ch).withError co
  poisoned : isPoisoned t (keyOfChan s ch (co / 64 * 64)) = true
  event : (t.reg (hbmPage (ch / 32)) Reg.irqStat).testBit 0 = true

/-- The state with an error noted on its channel and the access poisoned, before its event. -/
def State.marked (s : State) (ch co : Nat) : State :=
  ((s.modChan ch (fun c => { c with pend := addPend c.pend (bankOf co) (rowOf co) true })).modChan ch
    (fun c => { c with ue := satAdd 32 c.ue 1 })).setPoison (keyOfChan s ch (co / 64 * 64)) true

theorem marked_chan (s : State) (ch co : Nat) : chan (s.marked ch co) ch = (chan s ch).withError co := by
  rw [State.marked, chan_congr (State.setPoison_chans _ _ _), chan_modChan, if_pos rfl, chan_modChan, if_pos rfl]
  rfl

theorem marked_rest (s : State) (ch co : Nat) :
    (s.marked ch co).settings = s.settings ∧ (s.marked ch co).mem = s.mem ∧ (s.marked ch co).reqs = s.reqs := by
  simp only [State.marked, State.setPoison, State.modChan_settings, State.modChan_mem, State.modChan_reqs, and_self]

theorem marked_poisoned (s : State) (ch co : Nat) : isPoisoned (s.marked ch co) (keyOfChan s ch (co / 64 * 64)) = true := by
  rw [State.marked]
  exact State.isPoisoned_setPoison_same _ _ _

theorem uncorrectable_eq (s : State) (ch co : Nat) : s.uncorrectable ch co =
    ((s.marked ch co).countFault (chanPage ch)).raise_ (hbmPage (ch / 32)) 0
      { (chanDet ch [bankOf co, rowOf co]) with d0 := BitVec.ofNat 64 (co / 64 * 64) } := rfl

theorem uncorrectable_uncorrected {s : State} (hs : s.settings.partitions ≤ 4) (ch co : Nat) :
    Uncorrected s ch co (s.uncorrectable ch co) := by
  have hu : OnlyEvents (s.marked ch co) (s.uncorrectable ch co) := by
    rw [uncorrectable_eq]
    exact ((s.marked ch co).countFault_onlyEvents (chanPage ch)).raise_ _ _ _
  have hb : ((s.uncorrectable ch co).reg (hbmPage (ch / 32)) Reg.irqStat).testBit 0 = true := by
    rw [uncorrectable_eq]
    exact State.raise_bit _ _ _ _ (by decide) hs
  obtain ⟨h1, h2, h3⟩ := marked_rest s ch co
  exact ⟨hu.settings.trans h1, hu.mem.trans h2, hu.reqs.trans h3, (chan_congr hu.chans ch).trans (marked_chan s ch co),
    (hu.sameAccesses.isPoisoned _).trans (marked_poisoned s ch co), hb⟩

/-! ### Reads under a key (R174–R176, R185) -/

theorem checkReads_nil (s : State) (ch n co : Nat) : s.checkReads ch n co [] = s := by
  induction n generalizing co with
  | zero => rfl
  | succ n ih =>
    have hc : s.checkAccess ch co .clean = s := rfl
    simp only [State.checkReads, List.headD_nil, List.tail_nil, hc, ite_self, ih]

theorem readKey_fresh {s : State} {k : Nat} (hf : isFresh s k = true) (hl : isLost s k = false) (len : Nat) (e : List Ecc) :
    s.readKey k len e = (s.countFresh k, List.replicate len 0, false) := by
  simp only [State.readKey, hf, hl, Bool.not_false, Bool.and_self, if_true]

theorem readKey_clean {s : State} {k : Nat} (hf : isFresh s k = false) (len : Nat) :
    s.readKey k len [] = (s, s.bytes k len, poisoned s k len) := by
  simp only [State.readKey, hf, Bool.false_and, Bool.false_eq_true, if_false, checkReads_nil, ite_self]

/-- An extent within one access touches that access. -/
theorem accesses_one {x len : Nat} (h0 : 0 < len) (h : x % 64 + len ≤ 64) : accesses x len = 1 := by
  unfold accesses
  omega

theorem poisoned_one {s : State} {k len : Nat} (h0 : 0 < len) (h : k % 64 + len ≤ 64) : poisoned s k len = isPoisoned s k := by
  have h1 : (k % 64 + len + 63) / 64 = 1 := accesses_one h0 h
  rw [poisoned, h1]
  simp only [List.range_one, List.any_cons, List.any_nil, Bool.or_false]
  exact isPoisoned_access s (by omega)

theorem readKey_error {s : State} (hs : s.settings.partitions ∈ [1, 2, 4]) {k len : Nat} (h0 : keyDom k = 0)
    (hf : isFresh s k = false) (hm : hasMoved (chan s (chanOfKey s k)) (chanOff s k) = false) (hp : isPoisoned s k = false)
    (hl : 0 < len) (hk : k % 64 + len ≤ 64) : s.readKey k len [.uncorrectable] =
      (s.uncorrectable (chanOfKey s k) (chanOff s k), (s.uncorrectable (chanOfKey s k) (chanOff s k)).bytes k len,
        poisoned (s.uncorrectable (chanOfKey s k) (chanOff s k)) k len) := by
  have ha : accesses (chanOff s k) len = 1 := accesses_one hl (by rw [chanOff_mod]; exact hk)
  have hp' : isPoisoned s (keyOfChan s (chanOfKey s k) (chanOff s k / 64 * 64)) = false := by
    rw [keyOfChan_chanOff hs h0, ← hp]
    exact isPoisoned_access s (by omega)
  have hc : s.checkReads (chanOfKey s k) 1 (chanOff s k) [.uncorrectable] = s.uncorrectable (chanOfKey s k) (chanOff s k) := by
    simp only [State.checkReads, hp', Bool.false_eq_true, if_false]
    rfl
  simp only [State.readKey, hf, Bool.false_and, Bool.false_eq_true, if_false, hm, ha, hc]

theorem countFresh_rest (s : State) (k : Nat) : { s.countFresh k with stks := s.stks } = s := by
  unfold State.countFresh
  split <;> rfl

theorem countFresh_stack {s : State} {k : Nat} (h0 : keyDom k = 0) (hf : isFresh s k = true) (m : Nat) :
    stack (s.countFresh k) m =
      if m = chanOfKey s k / 32 then { stack s m with freshRd := satAdd 64 (stack s m).freshRd 1 } else stack s m := by
  have hc : (decide (keyDom k = 0) && isFresh s k) = true := by rw [hf, h0]; rfl
  rw [State.countFresh, if_pos hc, stack_modStack]
  split
  next e => rw [e]
  next => rfl

/-! ### HBM_WIDE_READ and HBM_NARROW_READ -/

/-- The requests with one of them served. -/
def State.withServed (s : State) (r : Req) (d : List Byte) (bad : Bool) : State :=
  s.modReq r.id (fun q => { q with served := true, data := d, bad := bad })

section
variable {s : State} {id : Nat} {narrow : Bool} (e : List Ecc)

theorem exec_hbmRead {r : Req} {k : Nat} (h : reqOf s id .read (some narrow) = some r) (hk : serveKey s r 64 = some k) :
    exec (if narrow then .hbmNarrowRead id e else .hbmWideRead id e) s =
      .next (((s.paid r k (64 * accesses r.addr r.len)).readKey k r.len e).1.withServed r
        ((s.paid r k (64 * accesses r.addr r.len)).readKey k r.len e).2.1
        ((s.paid r k (64 * accesses r.addr r.len)).readKey k r.len e).2.2) := by
  have hr : s.serveRead r e = ((s.paid r k (64 * accesses r.addr r.len)).readKey k r.len e).1.withServed r
      ((s.paid r k (64 * accesses r.addr r.len)).readKey k r.len e).2.1
      ((s.paid r k (64 * accesses r.addr r.len)).readKey k r.len e).2.2 := by
    rw [State.serveRead, hk]
    rfl
  rw [← hr]
  cases narrow
  · show execHbmWideRead id e s = _
    rw [execHbmWideRead, h]
  · show execHbmNarrowRead id e s = _
    rw [execHbmNarrowRead, h]

theorem exec_hbmRead_idle (h : ∀ r, reqOf s id .read (some narrow) = some r → serveKey s r 64 = none) :
    exec (if narrow then .hbmNarrowRead id e else .hbmWideRead id e) s = .next s := by
  have hr (r : Req) (hr : reqOf s id .read (some narrow) = some r) : s.serveRead r e = s := by
    rw [State.serveRead, h r hr]
  cases narrow
  · show execHbmWideRead id e s = _
    unfold execHbmWideRead
    split
    next r e => rw [hr r e]
    next => rfl
  · show execHbmNarrowRead id e s = _
    unfold execHbmNarrowRead
    split
    next r e => rw [hr r e]
    next => rfl

/-- What a served read leaves but for the requests and the counts of channels and stacks. -/
theorem served_rest {u s : State} (h : { u with chans := s.chans, stks := s.stks } = s) (r : Req) (d : List Byte) (bad : Bool) :
    { u.withServed r d bad with reqs := s.reqs, chans := s.chans, stks := s.stks } = s :=
  congrArg (fun t : State => { t with reqs := s.reqs }) h

/-- A request of a fresh granule reads zeros, unchecked and counted (R185). -/
theorem hbmRead_fresh {r : Req} {k : Nat} (h : reqOf s id .read (some narrow) = some r) (hk : serveKey s r 64 = some k)
    (hf : isFresh s k = true) (hl : isLost s k = false) :
    ∃ t, exec (if narrow then .hbmNarrowRead id e else .hbmWideRead id e) s = .next t ∧
      t.reqs = (s.withServed r (List.replicate r.len 0) false).reqs ∧
      (stack t (chanOfKey s k / 32)).freshRd = satAdd 64 (stack s (chanOfKey s k / 32)).freshRd 1 ∧
      (narrow = true → (stack t (chanOfKey s k / 32)).narrow = satAdd 64 (stack s (chanOfKey s k / 32)).narrow 1) ∧
      { t with reqs := s.reqs, chans := s.chans, stks := s.stks } = s := by
  obtain ⟨-, h0⟩ := serveKey_some hk
  obtain ⟨-, hn⟩ := reqOf_some h
  let u := s.paid r k (64 * accesses r.addr r.len)
  have hu : SameAccesses s u := paid_sameAccesses s r k _
  have huf : isFresh u k = true := (isFresh_congr hu.written k).trans hf
  have hr : u.readKey k r.len e = (u.countFresh k, List.replicate r.len 0, false) := readKey_fresh huf ((hu.isLost k).trans hl) _ _
  have hst : stack ((u.countFresh k).withServed r (List.replicate r.len 0) false) (chanOfKey s k / 32) =
      { stack u (chanOfKey s k / 32) with freshRd := satAdd 64 (stack u (chanOfKey s k / 32)).freshRd 1 } := by
    have := countFresh_stack h0 huf (chanOfKey s k / 32)
    rw [chanOfKey_congr hu.settings, if_pos rfl] at this
    exact this
  have hrest : { u.countFresh k with chans := s.chans, stks := s.stks } = s :=
    (congrArg (fun t : State => { t with chans := s.chans, stks := s.stks }) (countFresh_rest u k)).trans
      (paid_rest s r k _)
  have hreqs := congrArg State.reqs hrest
  refine ⟨(u.countFresh k).withServed r (List.replicate r.len 0) false, ?_, ?_, ?_, ?_, served_rest hrest _ _ _⟩
  · exact (exec_hbmRead e h hk).trans (by rw [hr])
  · exact congrArg (List.map (fun q : Req => if q.id = r.id then
      { q with served := true, data := List.replicate r.len 0, bad := false } else q)) hreqs
  · rw [hst, paid_stack]
    split <;> rfl
  · intro e
    rw [hst, paid_stack, if_pos ⟨rfl, (hn _ rfl).trans e⟩]

/-- A request without an error reads the bytes under its key (R174, R176). -/
theorem hbmRead_clean {r : Req} {k : Nat} (h : reqOf s id .read (some narrow) = some r) (hk : serveKey s r 64 = some k)
    (hf : isFresh s k = false) :
    ∃ t, exec (if narrow then .hbmNarrowRead id [] else .hbmWideRead id []) s = .next t ∧
      t.reqs = (s.withServed r (s.bytes k r.len) (poisoned s k r.len)).reqs ∧
      (narrow = true → (stack t (chanOfKey s k / 32)).narrow = satAdd 64 (stack s (chanOfKey s k / 32)).narrow 1) ∧
      { t with reqs := s.reqs, chans := s.chans, stks := s.stks } = s := by
  obtain ⟨-, hn⟩ := reqOf_some h
  have hu := paid_sameAccesses s r k (64 * accesses r.addr r.len)
  have hrest := paid_rest s r k (64 * accesses r.addr r.len)
  have hreqs := paid_reqs s r k (64 * accesses r.addr r.len)
  have hst := paid_stack s r k (64 * accesses r.addr r.len) (chanOfKey s k / 32)
  have he := exec_hbmRead [] h hk
  generalize s.paid r k (64 * accesses r.addr r.len) = u at hu hrest hreqs hst he
  rw [readKey_clean ((isFresh_congr hu.written k).trans hf), hu.bytes, hu.poisoned] at he
  refine ⟨_, he, congrArg (List.map _) hreqs, fun e => ?_, served_rest hrest _ _ _⟩
  have hs : stack (u.withServed r (s.bytes k r.len) (poisoned s k r.len)) (chanOfKey s k / 32) = stack u (chanOfKey s k / 32) := rfl
  rw [hs, hst, if_pos ⟨rfl, (hn _ rfl).trans e⟩]

/-- An uncorrectable error poisons the access that a request reads (R175). -/
theorem hbmRead_error (hs : s.settings.partitions ∈ [1, 2, 4]) {r : Req} {k : Nat} (h : reqOf s id .read (some narrow) = some r)
    (hk : serveKey s r 64 = some k) (hf : isFresh s k = false) (hl : 0 < r.len) (hw : k % 64 + r.len ≤ 64)
    (hm : hasMoved (chan s (chanOfKey s k)) (chanOff s k) = false) (hp : isPoisoned s k = false) :
    ∃ t, exec (if narrow then .hbmNarrowRead id [.uncorrectable] else .hbmWideRead id [.uncorrectable]) s = .next t ∧
      t.reqs = (s.withServed r (s.bytes k r.len) true).reqs ∧ isPoisoned t k = true ∧
      (chan t (chanOfKey s k)).ue = satAdd 32 (chan s (chanOfKey s k)).ue 1 ∧
      (∃ x ∈ (chan t (chanOfKey s k)).pend, x.bank = bankOf (chanOff s k) ∧ x.row = rowOf (chanOff s k) ∧ x.ue = true) ∧
      (t.reg (hbmPage (chanOfKey s k / 32)) Reg.irqStat).testBit 0 = true ∧ ∀ a, t.byte a = s.byte a := by
  obtain ⟨-, h0⟩ := serveKey_some hk
  have hu := paid_sameAccesses s r k (64 * accesses r.addr r.len)
  have hreqs := paid_reqs s r k (64 * accesses r.addr r.len)
  have hch := paid_chan s r k (64 * accesses r.addr r.len) (chanOfKey s k)
  have he := exec_hbmRead [.uncorrectable] h hk
  generalize s.paid r k (64 * accesses r.addr r.len) = u at hu hreqs hch he
  have hsu : u.settings.partitions ∈ [1, 2, 4] := by rw [hu.settings]; exact hs
  have hmu : hasMoved (chan u (chanOfKey u k)) (chanOff u k) = false := by
    rw [chanOfKey_congr hu.settings, chanOff_congr hu.settings, hch]
    exact hm
  rw [readKey_error hsu h0 ((isFresh_congr hu.written k).trans hf) hmu ((hu.isPoisoned k).trans hp) hl hw,
    chanOfKey_congr hu.settings, chanOff_congr hu.settings] at he
  have hle : u.settings.partitions ≤ 4 := by
    simp only [List.mem_cons, List.not_mem_nil, or_false] at hsu
    omega
  have hv := uncorrectable_uncorrected hle (chanOfKey s k) (chanOff s k)
  generalize u.uncorrectable (chanOfKey s k) (chanOff s k) = v at hv he
  have hpv : isPoisoned v k = true := by
    rw [isPoisoned_access v (k := keyOfChan u (chanOfKey s k) (chanOff s k / 64 * 64))]
    · exact hv.poisoned
    · rw [← chanOfKey_congr hu.settings, ← chanOff_congr hu.settings, keyOfChan_chanOff hsu h0]
      omega
  have hmem (a : Nat) : v.byte a = s.byte a := byte_congr (hv.mem.trans hu.mem) a
  rw [poisoned_one hl hw, hpv, State.bytes] at he
  simp only [hmem] at he
  refine ⟨_, he, congrArg (List.map _) (hv.reqs.trans hreqs), hpv, ?_, ?_, hv.event, hmem⟩
  · have hc := congrArg Chan.ue hv.chan
    rw [hch] at hc
    exact hc
  · have hc := congrArg Chan.pend hv.chan
    have hx := exists_addPend (chan u (chanOfKey s k)).pend (bankOf (chanOff s k)) (rowOf (chanOff s k))
    exact hc ▸ hx

end

/-! ### Writes of one access, and fresh bits (R176, R186) -/

theorem dirtyAt_rest (s : State) (p x : Nat) : { s.dirtyAt p x with tiers := s.tiers } = s := by
  unfold State.dirtyAt
  split
  · split <;> rfl
  · rfl

theorem dirtyAt_mem (s : State) (p x : Nat) : (s.dirtyAt p x).mem = s.mem := by
  have h := congrArg State.mem (dirtyAt_rest s p x)
  exact h

theorem dirtyAt_written (s : State) (p x : Nat) : (s.dirtyAt p x).written = s.written := by
  have h := congrArg State.written (dirtyAt_rest s p x)
  exact h

theorem dirtyAt_isPoisoned (s : State) (p x k : Nat) : isPoisoned (s.dirtyAt p x) k = isPoisoned s k := by
  have h := congrArg (fun t => isPoisoned t k) (dirtyAt_rest s p x)
  exact h

theorem isFresh_poke (s : State) (k a : Nat) (bs : List Byte) :
    isFresh (s.poke k bs) a = (isFresh s a && decide (a / 4096 ≠ k / 4096)) := isFresh_clearFresh { s with mem := s.mem.puts k bs } k a

/-- A written granule stays written. -/
theorem isFresh_wide64 {s : State} {a : Nat} (h : isFresh s a = false) (k : Nat) (bs : List Byte) :
    isFresh (s.wide64 k bs).1 a = false := by
  have hp : isFresh (s.poke k bs) a = false := by rw [isFresh_poke, h, Bool.false_and]
  unfold State.wide64
  split
  · split
    · exact hp
    · exact h
  · exact hp

theorem isFresh_widePiece {p x a : Nat} {bs : List Byte} {st : State × Bool} (h : isFresh st.1 a = false) (c : Nat × Nat) :
    isFresh (widePiece p x bs st c).1 a = false := by
  have hw := isFresh_wide64 h (keyAt st.1 p c.1) ((bs.drop (c.1 - x)).take c.2)
  unfold widePiece
  dsimp only
  split
  · exact hw
  · rw [isFresh_congr (dirtyAt_written _ _ _)]
    exact hw

theorem isFresh_foldl_widePiece {p x a : Nat} {bs : List Byte} (l : List (Nat × Nat)) :
    ∀ st : State × Bool, isFresh st.1 a = false → isFresh (l.foldl (widePiece p x bs) st).1 a = false := by
  induction l with
  | nil => exact fun _ h => h
  | cons c l ih => exact fun st h => ih _ (isFresh_widePiece h c)

theorem widePiece_poke {t : State} {p x y n : Nat} {bs : List Byte} (hb : y < hbmHomed t p)
    (hp : isPoisoned t (key 0 p y) = false) :
    widePiece p x bs (t, false) (y, n) = (t.poke (key 0 p y) ((bs.drop (y - x)).take n), false) := by
  simp only [widePiece, keyAt_hbm hb, State.wide64, hp, Bool.false_eq_true, if_false]
  rw [dirtyAt_hbm (show y < hbmHomed (t.poke (key 0 p y) ((bs.drop (y - x)).take n)) p from hb)]
  rfl

/-- The pieces of an extent of HBM clear the fresh bit of every granule of it. -/
theorem foldl_widePiece_fresh {p x : Nat} {bs : List Byte} : ∀ (fuel : Nat) (t : State) (y len : Nat),
    (len = 0 ∨ y % 64 + len ≤ 64 * fuel) → y + len ≤ hbmHomed t p →
    (∀ i, y ≤ i → i < y + len → isPoisoned t (key 0 p i) = false) → ∀ i, y ≤ i → i < y + len →
      isFresh ((cuts fuel 64 y len).foldl (widePiece p x bs) (t, false)).1 (key 0 p i) = false := by
  intro fuel
  induction fuel with
  | zero =>
    intro t y len hf hb hp i h1 h2
    omega
  | succ fuel ih =>
    intro t y len hf hb hp i h1 h2
    have h0 : len ≠ 0 := by omega
    have hm : Nat.min len (64 - y % 64) = min len (64 - y % 64) := rfl
    rw [cuts, if_neg h0, hm]
    generalize hn : min len (64 - y % 64) = n
    dsimp only
    rw [List.foldl_cons, widePiece_poke (by omega) (hp y (Nat.le_refl y) (by omega))]
    by_cases hi : i < y + n
    · refine isFresh_foldl_widePiece _ _ ?_
      have hg : key 0 p i / 4096 = key 0 p y / 4096 := by
        simp only [key]
        omega
      rw [isFresh_poke, hg]
      simp
    · exact ih (t.poke (key 0 p y) ((bs.drop (y - x)).take n)) (y + n) (len - n) (by omega)
        (by show y + n + (len - n) ≤ hbmHomed t p; omega) (fun j h3 h4 => hp j (by omega) (by omega)) i (by omega) (by omega)

theorem wideAt_hbm_fresh {s : State} {p x : Nat} {bs : List Byte} (hb : x + bs.length ≤ hbmHomed s p)
    (hp : poisonedRange s p x bs.length = false) {i : Nat} (h1 : x ≤ i) (h2 : i < x + bs.length) :
    isFresh (s.wideAt p x bs).1 (key 0 p i) = false := by
  rw [wideAt_eq, cutsOf]
  exact foldl_widePiece_fresh _ s x bs.length (.inr (by omega)) hb (fun j => isPoisoned_of_range hb hp) i h1 h2

/-- An extent within one access is one piece. -/
theorem cutsOf_one {x n : Nat} (h0 : 0 < n) (h : x % 64 + n ≤ 64) : cutsOf 64 x n = [(x, n)] := by
  have hm : Nat.min n (64 - x % 64) = n := Nat.min_eq_left (by omega)
  rw [cutsOf, cuts, if_neg (by omega)]
  dsimp only
  rw [hm, Nat.sub_self, cuts, if_pos rfl]

theorem wideAt_one (s : State) {p x : Nat} {bs : List Byte} (h0 : 0 < bs.length) (h : x % 64 + bs.length ≤ 64) :
    s.wideAt p x bs = (if (s.wide64 (keyAt s p x) bs).2 then (s.wide64 (keyAt s p x) bs).1
      else (s.wide64 (keyAt s p x) bs).1.dirtyAt p x, (s.wide64 (keyAt s p x) bs).2) := by
  rw [wideAt_eq, cutsOf_one h0 h, List.foldl_cons, List.foldl_nil, widePiece]
  simp only [Nat.sub_self, List.drop_zero, List.take_length, Bool.false_or]

/-- A write of part of a poisoned access is dropped (R176). -/
theorem wideAt_dropped {s : State} {p x : Nat} {bs : List Byte} (h0 : 0 < bs.length) (h64 : bs.length ≠ 64)
    (h : x % 64 + bs.length ≤ 64) (hp : isPoisoned s (keyAt s p x) = true) : s.wideAt p x bs = (s, true) := by
  have hw : s.wide64 (keyAt s p x) bs = (s, true) := by rw [State.wide64, if_pos hp, if_neg h64]
  rw [wideAt_one s h0 h, hw, if_pos rfl]

/-- A write of a whole poisoned access ends the poison (R176). -/
theorem wideAt_healed {s : State} {p x : Nat} {bs : List Byte} (h64 : bs.length = 64) (h : x % 64 = 0)
    (hp : isPoisoned s (keyAt s p x) = true) :
    s.wideAt p x bs = (((s.poke (keyAt s p x) bs).setPoison (keyAt s p x) false).dirtyAt p x, false) := by
  have hw : s.wide64 (keyAt s p x) bs = ((s.poke (keyAt s p x) bs).setPoison (keyAt s p x) false, false) := by
    rw [State.wide64, if_pos hp, if_pos h64]
  rw [wideAt_one s (by omega) (by omega), hw, if_neg Bool.false_ne_true]

/-! ### HBM_WIDE_WRITE and HBM_NARROW_WRITE -/

theorem noteWrite_rest (s : State) (id p x len : Nat) : { s.noteWrite id p x len with cmds := s.cmds } = s := by
  unfold State.noteWrite
  split
  · split <;> rfl
  · rfl

/-- The requests with one of them answered, and its command's digest. -/
def State.answered (s : State) (r : Req) (len : Nat) (bad : Bool) : State :=
  (s.noteWrite r.cmd (addrPart r.addr) (addrOff r.addr) len).modReq r.id (fun q => { q with served := true, bad := bad })

/-- The requests with one of them marked as answered. -/
def answeredReqs (l : List Req) (id : Nat) (bad : Bool) : List Req :=
  l.map (fun q => if q.id = id then { q with served := true, bad := bad } else q)

theorem answered_rest (s : State) (r : Req) (len : Nat) (bad : Bool) :
    { s.answered r len bad with reqs := s.reqs, cmds := s.cmds } = s :=
  congrArg (fun t : State => { t with reqs := s.reqs }) (noteWrite_rest s r.cmd (addrPart r.addr) (addrOff r.addr) len)

theorem answered_reqs (s : State) (r : Req) (len : Nat) (bad : Bool) :
    (s.answered r len bad).reqs = answeredReqs s.reqs r.id bad := by
  have h := congrArg State.reqs (noteWrite_rest s r.cmd (addrPart r.addr) (addrOff r.addr) len)
  exact congrArg (fun l => answeredReqs l r.id bad) h

section
variable (s : State) (r : Req) (len : Nat) (bad : Bool)

theorem answered_byte (a : Nat) : (s.answered r len bad).byte a = s.byte a := by
  have h := congrArg (fun t => t.byte a) (answered_rest s r len bad)
  exact h

theorem answered_isFresh (a : Nat) : isFresh (s.answered r len bad) a = isFresh s a := by
  have h := congrArg (fun t => isFresh t a) (answered_rest s r len bad)
  exact h

theorem answered_isPoisoned (a : Nat) : isPoisoned (s.answered r len bad) a = isPoisoned s a := by
  have h := congrArg (fun t => isPoisoned t a) (answered_rest s r len bad)
  exact h

theorem answered_stack (n : Nat) : stack (s.answered r len bad) n = stack s n := by
  have h := congrArg (fun t => stack t n) (answered_rest s r len bad)
  exact h

end

section
variable {s : State} {id : Nat} {r : Req} {k : Nat}

theorem exec_hbmWideWrite (h : reqOf s id .write (some false) = some r) (hk : serveKey s r 64 = some k) :
    exec (.hbmWideWrite id) s =
      .next (((s.pace k (64 * accesses r.addr r.len)).wideAt (addrPart r.addr) (addrOff r.addr) r.data).1.answered r
        r.data.length ((s.pace k (64 * accesses r.addr r.len)).wideAt (addrPart r.addr) (addrOff r.addr) r.data).2) := by
  obtain ⟨rfl, -⟩ := reqOf_some h
  show execHbmWideWrite r.id s = _
  rw [execHbmWideWrite, h]
  dsimp only
  rw [hk]
  rfl

theorem checkRmw_nil (s : State) (k len : Nat) : s.checkRmw k len [] = s := by
  simp only [State.checkRmw, checkReads_nil, ite_self]

theorem exec_hbmNarrowWrite (h : reqOf s id .write (some true) = some r) (hk : serveKey s r 64 = some k) :
    exec (.hbmNarrowWrite id []) s =
      .next (((s.paid r k 64).narrowAt (addrPart r.addr) (addrOff r.addr) r.data).1.answered r
        r.data.length ((s.paid r k 64).narrowAt (addrPart r.addr) (addrOff r.addr) r.data).2) := by
  obtain ⟨rfl, -⟩ := reqOf_some h
  show execHbmNarrowWrite r.id [] s = _
  rw [execHbmNarrowWrite, h]
  dsimp only
  rw [hk]
  dsimp only
  rw [checkRmw_nil]
  rfl

theorem exec_hbmWrite_idle {narrow : Bool} (h : ∀ r, reqOf s id .write (some narrow) = some r → serveKey s r 64 = none) :
    exec (if narrow then .hbmNarrowWrite id [] else .hbmWideWrite id) s = .next s := by
  cases narrow
  · show execHbmWideWrite id s = _
    unfold execHbmWideWrite
    split
    next r e => rw [h r e]
    next => rfl
  · show execHbmNarrowWrite id [] s = _
    unfold execHbmNarrowWrite
    split
    next r e => rw [h r e]
    next => rfl

/-- The bytes under the key are those of the request; every other byte is as before. -/
def BytesPut (s t : State) (k : Nat) (bs : List Byte) : Prop :=
  ∀ a, t.byte a = if k ≤ a ∧ a < k + bs.length then bs.getD (a - k) 0 else s.byte a

theorem SameAccesses.bytesPut {u t : State} (h : SameAccesses s u) {bs : List Byte} (hs : BytesPut u t k bs) : BytesPut s t k bs := by
  intro a
  rw [hs a, byte_congr h.mem]

theorem bytesPut_putBytes (s : State) (k : Nat) (bs : List Byte) (w : SMap Bool) : BytesPut s (s.putBytes k bs w) k bs :=
  fun a => Memory.byte_puts s.mem k a bs

theorem bytesPut_poke (s : State) (k : Nat) (bs : List Byte) : BytesPut s (s.poke k bs) k bs :=
  fun a => State.byte_poke s k a bs

theorem BytesPut.answered {t : State} {bs : List Byte} (h : BytesPut s t k bs) (r : Req) (len : Nat) (bad : Bool) :
    BytesPut s (t.answered r len bad) k bs := fun a => (answered_byte t r len bad a).trans (h a)

/-- A write to HBM memory without a poisoned access stores its bytes and clears the fresh bits there (R186). -/
theorem hbmWideWrite_stores (h : reqOf s id .write (some false) = some r) (hk : serveKey s r 64 = some k) (hl : 0 < r.data.length)
    (hb : addrOff r.addr + r.data.length ≤ hbmHomed s (addrPart r.addr))
    (hp : poisonedRange s (addrPart r.addr) (addrOff r.addr) r.data.length = false) :
    ∃ t, exec (.hbmWideWrite id) s = .next t ∧ t.reqs = answeredReqs s.reqs r.id false ∧ BytesPut s t k r.data ∧
      (∀ i < r.data.length, isFresh t (k + i) = false) ∧
      { t with reqs := s.reqs, chans := s.chans, cmds := s.cmds, mem := s.mem, written := s.written } = s := by
  have he := exec_hbmWideWrite h hk
  have hu := pace_sameAccesses s k (64 * accesses r.addr r.len)
  have hrest := pace_rest s k (64 * accesses r.addr r.len)
  have hreqs := pace_reqs s k (64 * accesses r.addr r.len)
  generalize s.pace k (64 * accesses r.addr r.len) = u at he hu hrest hreqs
  have hkey : k = key 0 (addrPart r.addr) (addrOff r.addr) := by
    obtain ⟨hk, -⟩ := serveKey_some hk
    rw [locate_hbm (by omega)] at hk
    exact (Place.mem.inj hk).symm
  have hbu : addrOff r.addr + r.data.length ≤ hbmHomed u (addrPart r.addr) := by rw [hbmHomed_congr hu.settings]; exact hb
  have hpu := (hu.poisonedRange (addrPart r.addr) (addrOff r.addr) r.data.length).trans hp
  have hfresh (i : Nat) (hi : i < r.data.length) := wideAt_hbm_fresh hbu hpu (Nat.le_add_right _ i) (Nat.add_lt_add_left hi _)
  obtain ⟨w, hw⟩ := wideAt_hbm hbu hpu
  rw [hw] at he hfresh
  rw [← hkey] at he hfresh
  refine ⟨_, he, (answered_reqs _ r _ _).trans (congrArg (answeredReqs · r.id false) hreqs),
    (hu.bytesPut (bytesPut_putBytes u k r.data w)).answered r _ _, fun i hi => ?_, ?_⟩
  · rw [answered_isFresh, hkey, ← key_add, ← hkey]
    exact hfresh i hi
  · have ha := congrArg (fun t : State => { t with chans := s.chans, mem := s.mem, written := s.written, reqs := s.reqs, cmds := s.cmds })
      (answered_rest (u.putBytes k r.data w) r r.data.length false)
    exact ha.trans (congrArg (fun t : State => { t with mem := s.mem, written := s.written, reqs := s.reqs, cmds := s.cmds }) hrest)

theorem hbmWideWrite_dropped (h : reqOf s id .write (some false) = some r) (hk : serveKey s r 64 = some k) (hl : 0 < r.data.length)
    (h64 : r.data.length < 64) (hb : addrOff r.addr % 64 + r.data.length ≤ 64) (hp : isPoisoned s k = true) :
    ∃ t, exec (.hbmWideWrite id) s = .next t ∧ t.reqs = answeredReqs s.reqs r.id true ∧ ∀ a, t.byte a = s.byte a := by
  have he := exec_hbmWideWrite h hk
  have hu := pace_sameAccesses s k (64 * accesses r.addr r.len)
  have hreqs := pace_reqs s k (64 * accesses r.addr r.len)
  generalize s.pace k (64 * accesses r.addr r.len) = u at he hu hreqs
  have hkey := (keyAt_congr hu.settings hu.tiers _ _).trans (keyAt_of_locate (serveKey_some hk).1)
  rw [wideAt_dropped hl (by omega) hb (by rw [hkey, hu.isPoisoned]; exact hp)] at he
  exact ⟨_, he, (answered_reqs _ r _ _).trans (congrArg (answeredReqs · r.id true) hreqs),
    fun a => (answered_byte u r _ _ a).trans (byte_congr hu.mem a)⟩

theorem hbmWideWrite_heals (h : reqOf s id .write (some false) = some r) (hk : serveKey s r 64 = some k)
    (h64 : r.data.length = 64) (hb : addrOff r.addr % 64 = 0) (hp : isPoisoned s k = true) :
    ∃ t, exec (.hbmWideWrite id) s = .next t ∧ t.reqs = answeredReqs s.reqs r.id false ∧ BytesPut s t k r.data ∧
      isPoisoned t k = false := by
  have he := exec_hbmWideWrite h hk
  have hu := pace_sameAccesses s k (64 * accesses r.addr r.len)
  have hreqs := pace_reqs s k (64 * accesses r.addr r.len)
  generalize s.pace k (64 * accesses r.addr r.len) = u at he hu hreqs
  have hkey := (keyAt_congr hu.settings hu.tiers _ _).trans (keyAt_of_locate (serveKey_some hk).1)
  rw [wideAt_healed h64 hb (by rw [hkey, hu.isPoisoned]; exact hp), hkey] at he
  refine ⟨_, he, ?_, ?_, ?_⟩
  · have hd := congrArg State.reqs (dirtyAt_rest ((u.poke k r.data).setPoison k false) (addrPart r.addr) (addrOff r.addr))
    exact (answered_reqs _ r _ _).trans (congrArg (answeredReqs · r.id false) (hd.trans hreqs))
  · refine hu.bytesPut (BytesPut.answered (fun a => ?_) r _ _)
    rw [byte_congr (dirtyAt_mem _ _ _)]
    exact bytesPut_poke u k r.data a
  · rw [answered_isPoisoned, dirtyAt_isPoisoned]
    exact State.isPoisoned_setPoison_same _ _ _

/-- A narrow write stores its bytes in one access, and counts (R170, R171). -/
theorem hbmNarrowWrite_stores (h : reqOf s id .write (some true) = some r) (hk : serveKey s r 64 = some k)
    (hp : isPoisoned s k = false) :
    ∃ t, exec (.hbmNarrowWrite id []) s = .next t ∧ t.reqs = answeredReqs s.reqs r.id false ∧ BytesPut s t k r.data ∧
      isFresh t k = false ∧
      (stack t (chanOfKey s k / 32)).narrow = satAdd 64 (stack s (chanOfKey s k / 32)).narrow 1 := by
  have he := exec_hbmNarrowWrite h hk
  obtain ⟨-, hn⟩ := reqOf_some h
  have hu := paid_sameAccesses s r k 64
  have hreqs := paid_reqs s r k 64
  have hst := paid_stack s r k 64 (chanOfKey s k / 32)
  generalize s.paid r k 64 = u at he hu hreqs hst
  have hkey := (keyAt_congr hu.settings hu.tiers _ _).trans (keyAt_of_locate (serveKey_some hk).1)
  have hw : u.narrowAt (addrPart r.addr) (addrOff r.addr) r.data =
      ((u.poke k r.data).dirtyAt (addrPart r.addr) (addrOff r.addr), false) := by
    simp only [State.narrowAt, hkey, hu.isPoisoned, hp, Bool.false_eq_true, if_false]
  rw [hw] at he
  have hd := dirtyAt_rest (u.poke k r.data) (addrPart r.addr) (addrOff r.addr)
  refine ⟨_, he, ?_, ?_, ?_, ?_⟩
  · have e := congrArg State.reqs hd
    exact (answered_reqs _ r _ _).trans (congrArg (answeredReqs · r.id false) (e.trans hreqs))
  · refine hu.bytesPut (BytesPut.answered (fun a => ?_) r _ _)
    rw [byte_congr (dirtyAt_mem _ _ _)]
    exact bytesPut_poke u k r.data a
  · rw [answered_isFresh, isFresh_congr (dirtyAt_written _ _ _), isFresh_poke]
    simp
  · have e := congrArg (fun t => stack t (chanOfKey s k / 32)) hd
    rw [answered_stack]
    refine (congrArg Stack.narrow (e.trans hst)).trans ?_
    rw [if_pos ⟨rfl, hn _ rfl⟩]

theorem hbmNarrowWrite_dropped (h : reqOf s id .write (some true) = some r) (hk : serveKey s r 64 = some k)
    (hp : isPoisoned s k = true) :
    ∃ t, exec (.hbmNarrowWrite id []) s = .next t ∧ t.reqs = answeredReqs s.reqs r.id true ∧ ∀ a, t.byte a = s.byte a := by
  have he := exec_hbmNarrowWrite h hk
  have hu := paid_sameAccesses s r k 64
  have hreqs := paid_reqs s r k 64
  generalize s.paid r k 64 = u at he hu hreqs
  have hkey := (keyAt_congr hu.settings hu.tiers _ _).trans (keyAt_of_locate (serveKey_some hk).1)
  have hw : u.narrowAt (addrPart r.addr) (addrOff r.addr) r.data = (u, true) := by
    simp only [State.narrowAt, hkey, hu.isPoisoned, hp, if_true]
  rw [hw] at he
  exact ⟨_, he, (answered_reqs _ r _ _).trans (congrArg (answeredReqs · r.id true) hreqs),
    fun a => (answered_byte u r _ _ a).trans (byte_congr hu.mem a)⟩

end

/-! ### Sums over destination bytes (R210, Table FMT-9) -/

theorem leNat_leBytes (n v : Nat) : leNat (leBytes n v) = v % 256 ^ n := by
  induction n generalizing v with
  | zero => rw [pow_zero, Nat.mod_one]; rfl
  | succ n ih =>
    rw [leBytes, leNat, ih, BitVec.toNat_ofNat, show 256 ^ (n + 1) = 256 * 256 ^ n from Nat.pow_succ']
    exact Nat.mod_mul.symm

theorem length_addWords (old : List Byte) (vals : List (Res Num)) : (addWords old vals).1.length = 4 * vals.length := by
  induction vals generalizing old with
  | nil => rfl
  | cons v vals ih =>
    simp only [addWords, List.length_append, length_leBytes, ih, List.length_cons]
    omega

theorem addWords_append (old : List Byte) (a b : List (Res Num)) :
    (addWords old (a ++ b)).1 = (addWords old a).1 ++ (addWords (old.drop (4 * a.length)) b).1 := by
  induction a generalizing old with
  | nil => rfl
  | cons v a ih =>
    have hd : (old.drop 4).drop (4 * a.length) = old.drop (4 * (v :: a).length) := by
      rw [List.drop_drop, List.length_cons]
      congr 1
      omega
    simp only [List.cons_append, addWords, ih, hd, List.append_assoc]

/-- The sums look at the bytes under them alone. -/
theorem addWords_take (old : List Byte) (vals : List (Res Num)) {n : Nat} (h : 4 * vals.length ≤ n) :
    addWords (old.take n) vals = addWords old vals := by
  induction vals generalizing old n with
  | nil => rfl
  | cons v vals ih =>
    rw [List.length_cons] at h
    have ht : (old.take n).take 4 = old.take 4 := by rw [List.take_take, Nat.min_eq_left (by omega)]
    have hd : (old.take n).drop 4 = (old.drop 4).take (n - 4) := List.drop_take ..
    simp only [addWords, ht, hd, ih (old.drop 4) (n := n - 4) (by omega)]

/-- The sum of a word of memory and an element, both taken as binary32. -/
def sumWord (old : List Byte) (v : Res Num) : Nat :=
  (add32 (BitVec.ofNat 32 (leNat old)) (round32 v.val).val).val.toNat

theorem addWords_word (old : List Byte) {vals : List (Res Num)} {i : Nat} {v : Res Num} (h : vals[i]? = some v) :
    ((addWords old vals).1.drop (4 * i)).take 4 = leBytes 4 (sumWord ((old.drop (4 * i)).take 4) v) := by
  induction vals generalizing old i with
  | nil => cases h
  | cons w vals ih =>
    have hl (x : Nat) : (leBytes 4 x).length = 4 := length_leBytes 4 x
    cases i with
    | zero =>
      cases h
      simp only [addWords, Nat.mul_zero, List.drop_zero, List.take_append_of_le_length (Nat.le_of_eq (hl _).symm)]
      rw [List.take_of_length_le (Nat.le_of_eq (hl _))]
      rfl
    | succ i =>
      have hd : (old.drop 4).drop (4 * i) = old.drop (4 * (i + 1)) := by
        rw [List.drop_drop]
        congr 1
        omega
      have hi : 4 * (i + 1) = 4 + 4 * i := by omega
      rw [← hd, ← ih (old.drop 4) h, addWords, hi, ← List.drop_drop]
      dsimp only
      rw [List.drop_append_of_le_length (Nat.le_of_eq (hl _).symm), List.drop_of_length_le (Nat.le_of_eq (hl _)), List.nil_append]

/-! ### ADD_WRITE (R210) -/

/-- One piece of an add-write: what the fold in `State.addAll` does with it. -/
def addPiece (p x : Nat) (vals : List (Res Num)) (a : State × Flags × Bool) (c : Nat × Nat) : State × Flags × Bool :=
  let r := a.1.addPart p c.1 ((vals.drop ((c.1 - x) / 4)).take (c.2 / 4))
  (r.1, a.2.1 ||| r.2.1, a.2.2 || r.2.2)

theorem addAll_eq (s : State) (p x : Nat) (vals : List (Res Num)) :
    s.addAll p x vals = (cutsOf 64 x (4 * vals.length)).foldl (addPiece p x vals) (s, 0, false) := rfl

theorem addPart_hbm {s : State} {p y : Nat} (hb : y < hbmHomed s p) (hp : isPoisoned s (key 0 p y) = false)
    (vals : List (Res Num)) : ∃ w fl, s.addPart p y vals =
      (s.putBytes (key 0 p y) (addWords (s.bytes (key 0 p y) (4 * vals.length)) vals).1 w, fl, false) := by
  refine ⟨SMap.set false s.written (key 0 p y / 4096) true, (addWords (s.bytes (key 0 p y) (4 * vals.length)) vals).2, ?_⟩
  simp only [State.addPart, keyAt_hbm hb, hp, Bool.false_eq_true, if_false]
  rw [dirtyAt_hbm (show y < hbmHomed (s.poke (key 0 p y) _) p from hb)]
  rfl

theorem bytes_drop (s : State) (k n m : Nat) : (s.bytes k m).drop n = s.bytes (k + n) (m - n) := by
  refine List.ext_getElem (by simp [State.bytes]) fun i h1 h2 => ?_
  simp only [State.bytes, List.getElem_drop, List.getElem_map, List.getElem_range, Nat.add_assoc]

theorem bytes_take (s : State) (k n m : Nat) : (s.bytes k m).take n = s.bytes k (Nat.min n m) := by
  refine List.ext_getElem (by simp [State.bytes]) fun i h1 h2 => ?_
  simp only [State.bytes, List.getElem_take, List.getElem_map, List.getElem_range]

theorem length_bytes (s : State) (k n : Nat) : (s.bytes k n).length = n := by simp [State.bytes]

/-- Bytes beside a run that was put are as before. -/
theorem bytes_putBytes_beyond (s : State) {k a n : Nat} {bs : List Byte} (w : SMap Bool) (h : k + bs.length ≤ a) :
    (s.putBytes k bs w).bytes a n = s.bytes a n := by
  unfold State.bytes
  exact List.map_congr_left fun i _ => byte_putBytes s (.inr (by omega))

/-- The sums of the words of an extent, in two runs. -/
theorem sums_split (s : State) (k : Nat) {n len : Nat} {vals : List (Res Num)} (hn : n % 4 = 0) (hl : n ≤ len)
    (hv : len = 4 * vals.length) :
    (addWords (s.bytes k len) vals).1 = (addWords (s.bytes k n) (vals.take (n / 4))).1 ++
      (addWords (s.bytes (k + n) (len - n)) (vals.drop (n / 4))).1 := by
  have ht : (vals.take (n / 4)).length = n / 4 := by rw [List.length_take]; omega
  have h4 : 4 * (n / 4) = n := by omega
  have h := addWords_append (s.bytes k len) (vals.take (n / 4)) (vals.drop (n / 4))
  rw [List.take_append_drop, ht, h4, bytes_drop] at h
  have hm : Nat.min n len = n := Nat.min_eq_left hl
  rw [h, ← addWords_take (s.bytes k len) (vals.take (n / 4)) (n := n) (by omega), bytes_take, hm]

/-- The pieces of an extent of HBM from `y` on put the rest of the sums in one run. -/
theorem foldl_addPiece {p x : Nat} {vals : List (Res Num)} : ∀ (fuel : Nat) (t : State) (fl : Flags) (y len : Nat), x ≤ y →
    (y - x) % 4 = 0 → y % 4 = 0 → y + len = x + 4 * vals.length → (len = 0 ∨ y % 64 + len ≤ 64 * fuel) →
    y + len ≤ hbmHomed t p → (∀ i, y ≤ i → i < y + len → isPoisoned t (key 0 p i) = false) →
    ∃ w fl', (cuts fuel 64 y len).foldl (addPiece p x vals) (t, fl, false) =
      (t.putBytes (key 0 p y) (addWords (t.bytes (key 0 p y) len) (vals.drop ((y - x) / 4))).1 w, fl', false) := by
  intro fuel
  induction fuel with
  | zero =>
    intro t fl y len hx _ _ he hf hb hp
    refine ⟨t.written, fl, ?_⟩
    rw [List.drop_eq_nil_of_le (by omega)]
    rfl
  | succ fuel ih =>
    intro t fl y len hx hd hy he hf hb hp
    by_cases h0 : len = 0
    · refine ⟨t.written, fl, ?_⟩
      rw [cuts, if_pos h0, List.drop_eq_nil_of_le (by omega)]
      rfl
    · have hm : Nat.min len (64 - y % 64) = min len (64 - y % 64) := rfl
      rw [cuts, if_neg h0, hm]
      generalize hn : min len (64 - y % 64) = n
      have hn4 : n % 4 = 0 := by omega
      dsimp only
      rw [List.foldl_cons]
      generalize hv : vals.drop ((y - x) / 4) = rest
      have hlen : len = 4 * rest.length := by rw [← hv, List.length_drop]; omega
      have htake : 4 * (rest.take (n / 4)).length = n := by rw [List.length_take]; omega
      have hrest : vals.drop ((y + n - x) / 4) = rest.drop (n / 4) := by
        rw [← hv, List.drop_drop]
        congr 1
        omega
      obtain ⟨w, gl, hw⟩ := addPart_hbm (by omega : y < hbmHomed t p) (hp y (Nat.le_refl y) (by omega)) (rest.take (n / 4))
      rw [htake] at hw
      have hpiece : addPiece p x vals (t, fl, false) (y, n) =
          (t.putBytes (key 0 p y) (addWords (t.bytes (key 0 p y) n) (rest.take (n / 4))).1 w, fl ||| gl, false) := by
        simp only [addPiece, hv, hw, Bool.or_self]
      have hsum := length_addWords (t.bytes (key 0 p y) n) (rest.take (n / 4))
      rw [htake] at hsum
      rw [hpiece, sums_split t (key 0 p y) hn4 (by omega) hlen]
      generalize (addWords (t.bytes (key 0 p y) n) (rest.take (n / 4))).1 = d at hsum
      obtain ⟨w', gl', hw'⟩ := ih (t.putBytes (key 0 p y) d w) (fl ||| gl) (y + n) (len - n) (by omega) (by omega) (by omega)
        (by omega) (by omega) (by show y + n + (len - n) ≤ hbmHomed t p; omega) (fun i h1 h2 => hp i (by omega) (by omega))
      refine ⟨w', gl', ?_⟩
      rw [hw', hrest, key_add, bytes_putBytes_beyond t w (by omega)]
      have hmem := Memory.puts_append t.mem (key 0 p y) d
        (addWords (t.bytes (key 0 p y + n) (len - n)) (rest.drop (n / 4))).1
      rw [hsum] at hmem
      simp only [State.putBytes, hmem]

/-- An add-write to HBM with no poisoned access puts every sum (R210). -/
theorem addAll_hbm {s : State} {p x : Nat} {vals : List (Res Num)} (h4 : x % 4 = 0) (hb : x + 4 * vals.length ≤ hbmHomed s p)
    (hp : poisonedRange s p x (4 * vals.length) = false) : ∃ w fl, s.addAll p x vals =
      (s.putBytes (key 0 p x) (addWords (s.bytes (key 0 p x) (4 * vals.length)) vals).1 w, fl, false) := by
  obtain ⟨w, fl, hw⟩ := foldl_addPiece (vals := vals) (4 * vals.length / 64 + 2) s 0 x (4 * vals.length) (Nat.le_refl x)
    (by omega) h4 rfl (.inr (by omega)) hb (fun i => isPoisoned_of_range hb hp)
  refine ⟨w, fl, ?_⟩
  rw [addAll_eq, cutsOf, hw, Nat.sub_self, Nat.zero_div, List.drop_zero]

/-- An add-write to a poisoned access stores nothing (R176). -/
theorem addAll_dropped {s : State} {p x : Nat} {vals : List (Res Num)} (h0 : 0 < vals.length) (h : x % 64 + 4 * vals.length ≤ 64)
    (hp : isPoisoned s (keyAt s p x) = true) : s.addAll p x vals = (s, 0, true) := by
  rw [addAll_eq, cutsOf_one (by omega) h, List.foldl_cons, List.foldl_nil, addPiece]
  simp only [State.addPart, hp, if_true, Bool.or_true]
  rfl

section
variable {s : State} {id : Nat} {r : Req} {k : Nat}

/-- The add-write of a request answered, its flags with its command. -/
theorem exec_addWrite {cfg : Settings_} {st : Stream} (h : reqOf s id .addWrite none = some r) (hk : serveKey s r 128 = some k)
    (hst : streamOf s r.cmd r.stream = some (cfg, st)) {u : State} {fl : Flags} {bad : Bool}
    (hd : (s.paid r k (128 * accesses r.addr r.len)).addAll (addrPart r.addr) (addrOff r.addr)
      (readElems st.list.hdr.srcFmt (r.len / 4) r.data) = (u, fl, bad)) :
    exec (.addWrite id []) s = .next ((u.addFlags r.cmd fl).answered r r.len bad) := by
  obtain ⟨rfl, -⟩ := reqOf_some h
  have hd' : (((s.pace k (128 * accesses r.addr r.len)).countNarrow r k).checkRmw k r.len []).addAll (addrPart r.addr)
      (addrOff r.addr) (readElems st.list.hdr.srcFmt (r.len / 4) r.data) = (u, fl, bad) := by
    rw [checkRmw_nil]
    exact hd
  show execAddWrite r.id [] s = _
  rw [execAddWrite, h]
  dsimp only
  rw [hk, hst]
  dsimp only
  rw [hd']
  rfl

theorem exec_addWrite_idle (h : ∀ r, reqOf s id .addWrite none = some r → serveKey s r 128 = none) :
    exec (.addWrite id []) s = .next s := by
  show execAddWrite id [] s = _
  unfold execAddWrite
  split
  next r e => rw [h r e]
  next => rfl

theorem bytes_putBytes_part (s : State) (k : Nat) {off n : Nat} {bs : List Byte} (w : SMap Bool) (h : off + n ≤ bs.length) :
    (s.putBytes k bs w).bytes (k + off) n = (bs.drop off).take n := by
  have hl : ((bs.drop off).take n).length = n := by rw [List.length_take, List.length_drop]; omega
  refine List.ext_getElem (by rw [length_bytes, hl]) fun i h1 h2 => ?_
  rw [length_bytes] at h1
  simp only [State.bytes, List.getElem_map, List.getElem_range, List.getElem_take, List.getElem_drop]
  rw [bytesPut_putBytes s k bs w, if_pos (by omega), List.getD_eq_getElem _ _ (by omega)]
  congr 1
  omega

/-- Each word of the sums that are put is the sum of the word that was there and its element. -/
theorem word_putSums (s : State) (k : Nat) {vals : List (Res Num)} (w : SMap Bool) {i : Nat} {v : Res Num} (h : vals[i]? = some v) :
    leNat ((s.putBytes k (addWords (s.bytes k (4 * vals.length)) vals).1 w).bytes (k + 4 * i) 4) =
      sumWord (s.bytes (k + 4 * i) 4) v := by
  have hi := (List.getElem?_eq_some_iff.1 h).1
  have h4 : Nat.min 4 (4 * vals.length - 4 * i) = 4 := Nat.min_eq_left (by omega)
  have hlt : sumWord (s.bytes (k + 4 * i) 4) v < 256 ^ 4 := BitVec.isLt _
  rw [bytes_putBytes_part s k w (by rw [length_addWords]; omega), addWords_word _ h, bytes_drop, bytes_take, h4, leNat_leBytes,
    Nat.mod_eq_of_lt hlt]

/-- An add-write to HBM memory adds to each word of its extent, and to nothing else (R210). -/
theorem hbmAddWrite_adds {cfg : Settings_} {st : Stream} (h : reqOf s id .addWrite none = some r)
    (hk : serveKey s r 128 = some k) (hst : streamOf s r.cmd r.stream = some (cfg, st)) (h4 : addrOff r.addr % 4 = 0)
    (hl : 4 * (readElems st.list.hdr.srcFmt (r.len / 4) r.data).length = r.len) (h0 : 0 < r.len)
    (hb : addrOff r.addr + r.len ≤ hbmHomed s (addrPart r.addr))
    (hp : poisonedRange s (addrPart r.addr) (addrOff r.addr) r.len = false) :
    ∃ t, exec (.addWrite id []) s = .next t ∧ t.reqs = answeredReqs s.reqs r.id false ∧
      (∀ i v, (readElems st.list.hdr.srcFmt (r.len / 4) r.data)[i]? = some v →
        leNat (t.bytes (k + 4 * i) 4) = sumWord (s.bytes (k + 4 * i) 4) v) ∧
      ∀ a, (a < k ∨ k + r.len ≤ a) → t.byte a = s.byte a := by
  have hu := paid_sameAccesses s r k (128 * accesses r.addr r.len)
  have hreqs := paid_reqs s r k (128 * accesses r.addr r.len)
  have he := fun {u fl bad} => exec_addWrite (u := u) (fl := fl) (bad := bad) h hk hst
  generalize s.paid r k (128 * accesses r.addr r.len) = u at hu hreqs he
  generalize readElems st.list.hdr.srcFmt (r.len / 4) r.data = vals at hl he ⊢
  have hkey : key 0 (addrPart r.addr) (addrOff r.addr) = k := by
    obtain ⟨hk, -⟩ := serveKey_some hk
    rw [locate_hbm (by omega)] at hk
    exact Place.mem.inj hk
  obtain ⟨w, fl, hw⟩ := addAll_hbm (vals := vals) (s := u) h4 (by rw [hl, hbmHomed_congr hu.settings]; exact hb)
    (by rw [hl, hu.poisonedRange]; exact hp)
  rw [hkey] at hw
  have hsum := length_addWords (u.bytes k (4 * vals.length)) vals
  have hbyte (a : Nat) : (((u.putBytes k (addWords (u.bytes k (4 * vals.length)) vals).1 w).addFlags r.cmd fl).answered r
      r.len false).byte a = (u.putBytes k (addWords (u.bytes k (4 * vals.length)) vals).1 w).byte a := answered_byte _ r _ _ a
  refine ⟨_, he hw, (answered_reqs _ r _ _).trans (congrArg (answeredReqs · r.id false) hreqs), fun i v hv => ?_, fun a ha => ?_⟩
  · rw [← hu.bytes, ← word_putSums u k w hv, State.bytes]
    simp only [hbyte]
    rfl
  · rw [hbyte, ← byte_congr hu.mem a]
    exact byte_putBytes u (by omega)

theorem hbmAddWrite_dropped {cfg : Settings_} {st : Stream} (h : reqOf s id .addWrite none = some r)
    (hk : serveKey s r 128 = some k) (hst : streamOf s r.cmd r.stream = some (cfg, st))
    (hl : 4 * (readElems st.list.hdr.srcFmt (r.len / 4) r.data).length = r.len) (h0 : 0 < r.len)
    (hb : addrOff r.addr % 64 + r.len ≤ 64) (hp : isPoisoned s k = true) :
    ∃ t, exec (.addWrite id []) s = .next t ∧ t.reqs = answeredReqs s.reqs r.id true ∧ ∀ a, t.byte a = s.byte a := by
  have hu := paid_sameAccesses s r k (128 * accesses r.addr r.len)
  have hreqs := paid_reqs s r k (128 * accesses r.addr r.len)
  have he := fun {u fl bad} => exec_addWrite (u := u) (fl := fl) (bad := bad) h hk hst
  generalize s.paid r k (128 * accesses r.addr r.len) = u at hu hreqs he
  have hkey := (keyAt_congr hu.settings hu.tiers _ _).trans (keyAt_of_locate (serveKey_some hk).1)
  have hd := addAll_dropped (s := u) (p := addrPart r.addr) (x := addrOff r.addr)
    (vals := readElems st.list.hdr.srcFmt (r.len / 4) r.data) (by omega) (by omega) (by rw [hkey, hu.isPoisoned]; exact hp)
  exact ⟨_, he hd, (answered_reqs _ r _ _).trans (congrArg (answeredReqs · r.id true) hreqs),
    fun a => (answered_byte _ r _ _ a).trans (byte_congr hu.mem a)⟩

end

/-- Settles O36: each request goes to one of the cases above. -/
theorem hbmAccesses : Obligations.HbmAccesses := by
  refine ⟨fun s id narrow e hs => ⟨fun r k h hk => ⟨?_, ?_, ?_⟩, exec_hbmRead_idle e⟩,
    fun s id narrow hs => ⟨fun r k h hk => ⟨?_, ?_, ?_, ?_, ?_⟩, exec_hbmWrite_idle⟩,
    fun s id hs => ⟨fun r k cfg st h hk hst h4 hl4 h0 hb hl => ⟨?_, ?_⟩, exec_addWrite_idle⟩⟩
  · exact hbmRead_fresh e h hk
  · rintro hf rfl
    obtain ⟨t, ht, hr, hn, hrest⟩ := hbmRead_clean h hk hf
    refine ⟨t, ht, hr, fun hw => ?_, hrest⟩
    rw [if_pos hw]
    exact hn hw
  · rintro hf rfl - hl hw hm hp
    exact hbmRead_error hs.settings.partitions h hk hf hl hw hm hp
  · rintro rfl
    exact hbmWideWrite_stores h hk
  · rintro rfl
    exact hbmWideWrite_dropped h hk
  · rintro rfl
    exact hbmWideWrite_heals h hk
  · rintro rfl
    exact hbmNarrowWrite_stores h hk
  · rintro rfl
    exact hbmNarrowWrite_dropped h hk
  · intro hp
    obtain ⟨t, ht, hr, hsum, hbyte⟩ := hbmAddWrite_adds h hk hst h4 (by omega) h0 hb hp
    exact ⟨t, ht, hr, fun i _ v hv => hsum i v hv, hbyte⟩
  · exact hbmAddWrite_dropped h hk hst (by omega) h0

end Sys2Proof.Machine

/-! ## Window accesses (O46)

An access that is served reads or writes the bytes under its key as HBM requests do: pacing and the use of a slab leave bytes
and poison, and a key without poisoned accesses reads as its bytes. -/

namespace Sys2Proof.Machine

/-! ### Fields of one register -/

/-- A field above the one that is put back stays. -/
theorem fld_setFld_above (w v hi' : Nat) {hi lo lo' : Nat} (hl : lo ≤ hi) (h : hi < lo') :
    fld (setFld w hi lo v) hi' lo' = fld w hi' lo' := by
  have hdiv : setFld w hi lo v / 2 ^ (hi + 1) = w / 2 ^ (hi + 1) := by
    have hpow : 2 ^ (hi + 1) = 2 ^ lo * 2 ^ (hi + 1 - lo) := by rw [← pow_add]; congr 1; omega
    rw [hpow, ← Nat.div_div_eq_div_mul, ← Nat.div_div_eq_div_mul]
    simp only [fld, setFld, Nat.shiftRight_eq_div_pow, Nat.shiftLeft_eq]
    have hm : 0 < 2 ^ (hi + 1 - lo) := Nat.two_pow_pos _
    generalize 2 ^ (hi + 1 - lo) = m at hm
    have hL : 0 < 2 ^ lo := Nat.two_pow_pos lo
    generalize 2 ^ lo = L at hL
    have hq : w / L - w / L % m + v % m = v % m + m * (w / L / m) := by
      have := Nat.mod_add_div (w / L) m
      omega
    rw [Nat.add_mul_div_right _ _ hL, Nat.mul_comm _ L, Nat.sub_mul_div, hq, Nat.add_mul_div_left _ _ hm,
      Nat.div_eq_of_lt (Nat.mod_lt _ hm), Nat.zero_add]
  refine Nat.eq_of_testBit_eq fun i => ?_
  simp only [fld, Nat.testBit_mod_two_pow, Nat.testBit_shiftRight]
  have hbit := congrArg (fun n => n.testBit (lo' + i - (hi + 1))) hdiv
  simp only [Nat.testBit_div_two_pow, show lo' + i - (hi + 1) + (hi + 1) = lo' + i by omega] at hbit
  rw [hbit]

/-! ### A fenced access (R331) -/

/-- Counting a fenced access and raising its event, and the answer of a read. -/
structure FencedFrom (v t : State) (win l : Nat) (read : Bool) (u a : State) : Prop where
  rest : { u with regs := v.regs } = v
  count : u.regFld 0 Reg.hstErr 63 40 = Nat.min (2 ^ 24 - 1) (v.regFld 0 Reg.hstErr 63 40 + 1)
  last : u.regFld 0 Reg.hstErr 39 37 = win
  aside : AsideFromEvents u a
  event : (a.reg 0 Reg.irqStat).testBit 1 = true
  answer : t = { a with out := a.out ++ if read then [.winData win (List.replicate l 255)] else [] }

/-- The count of fenced accesses, and the window of the last one. -/
def State.winCounted (v : State) (win : Nat) : State := (v.bump 0 Reg.hstErr 63 40 1).setRegFld 0 Reg.hstErr 39 37 win

theorem winCounted_settings (v : State) (win : Nat) : (v.winCounted win).settings = v.settings :=
  ((v.bump_onlyEvents _ _ _ _ _).trans (State.setReg_onlyEvents _ _ _ _)).settings

theorem setReg_rest (s : State) (page reg val : Nat) (x : SMap Word) : { s.setReg page reg val with regs := x } = { s with regs := x } :=
  rfl

theorem winCounted_rest (v : State) (win : Nat) : { v.winCounted win with regs := v.regs } = v :=
  (setReg_rest (v.bump 0 Reg.hstErr 63 40 1) 0 Reg.hstErr _ v.regs).trans (bump_rest v 0 Reg.hstErr 63 40 1 v.regs)

theorem winCounted_fld (v : State) (win lo : Nat) {hi : Nat} (hh : hi < 64) : (v.winCounted win).regFld 0 Reg.hstErr hi lo =
    fld (setFld ((v.bump 0 Reg.hstErr 63 40 1).reg 0 Reg.hstErr) 39 37 win) hi lo := by
  rw [State.winCounted, State.setRegFld, State.regFld, reg_setReg_same _ _ _ _ (by decide), fld_mod_word _ _ hh]

theorem winCounted_count (v : State) (win : Nat) : (v.winCounted win).regFld 0 Reg.hstErr 63 40 =
    Nat.min (2 ^ 24 - 1) (v.regFld 0 Reg.hstErr 63 40 + 1) := by
  rw [winCounted_fld _ _ _ (by decide), fld_setFld_above _ _ _ (by decide) (by decide)]
  exact regFld_bump v 0 1 (reg := Reg.hstErr) (by decide) (by decide)

theorem winCounted_last (v : State) {win : Nat} (hw : win < 8) : (v.winCounted win).regFld 0 Reg.hstErr 39 37 = win := by
  rw [winCounted_fld _ _ _ (by decide), fld_setFld]
  exact Nat.mod_eq_of_lt hw

theorem fenceWin_fenced {v : State} (hs : v.settings.partitions ≤ 4) {win : Nat} (hw : win < 8) (l : Nat) (read : Bool) :
    ∃ u a, FencedFrom v (v.fenceWin win (if read then some l else none)) win l read u a := by
  have hp : (v.winCounted win).settings.partitions ≤ 4 := by rw [winCounted_settings]; exact hs
  have ha := (v.winCounted win).raise_aside 0 1 { d1 := ids16 [win] } hp
  have he := (v.winCounted win).raise_bit 0 1 { d1 := ids16 [win] } (by decide) hp
  have hrest := winCounted_rest v win
  have hcount := winCounted_count v win
  have hlast := winCounted_last v hw
  rw [State.fenceWin.eq_def, ← State.winCounted]
  dsimp only
  generalize v.winCounted win = u at ha he hrest hcount hlast
  refine ⟨u, _, hrest, hcount, hlast, ha, he, ?_⟩
  cases read
  · rw [if_neg Bool.false_ne_true, if_neg Bool.false_ne_true, List.append_nil]
  · rfl

/-! ### An access that is served -/

theorem useAt_rest (s : State) (p x : Nat) : { s.useAt p x with tiers := s.tiers } = s := by
  unfold State.useAt
  split
  · split <;> rfl
  · rfl

theorem useAt_hbm {s : State} {p x : Nat} (h : x < hbmHomed s p) : s.useAt p x = s := by
  rw [State.useAt, isTier1_hbm h, if_neg Bool.false_ne_true]

/-- A window access is counted for pacing, and its slab used. -/
def State.winServed (s : State) (a : WinAcc) : State :=
  (s.pace (keyAt s (addrPart a.addr) (addrOff a.addr)) (64 * accesses (addrOff a.addr) a.len)).useAt (addrPart a.addr) (addrOff a.addr)

theorem winServed_rest (s : State) (a : WinAcc) : { s.winServed a with chans := s.chans, tiers := s.tiers } = s := by
  have hp := congrArg (fun t : State => { t with tiers := s.tiers })
    (pace_rest s (keyAt s (addrPart a.addr) (addrOff a.addr)) (64 * accesses (addrOff a.addr) a.len))
  have hu := congrArg (fun t : State => { t with chans := s.chans, tiers := s.tiers })
    (useAt_rest (s.pace (keyAt s (addrPart a.addr) (addrOff a.addr)) (64 * accesses (addrOff a.addr) a.len)) (addrPart a.addr)
      (addrOff a.addr))
  exact hu.trans hp

theorem winServed_isFresh (s : State) (a : WinAcc) (k : Nat) : isFresh (s.winServed a) k = isFresh s k := by
  have h := congrArg (fun t => isFresh t k) (winServed_rest s a)
  exact h

theorem winServed_bytes (s : State) (a : WinAcc) (k len : Nat) : (s.winServed a).bytes k len = s.bytes k len := by
  have h := congrArg (fun t => t.bytes k len) (winServed_rest s a)
  exact h

theorem winServed_poisoned (s : State) (a : WinAcc) (k len : Nat) : poisoned (s.winServed a) k len = poisoned s k len := by
  have h := congrArg (fun t => poisoned t k len) (useAt_rest (s.pace (keyAt s (addrPart a.addr) (addrOff a.addr))
    (64 * accesses (addrOff a.addr) a.len)) (addrPart a.addr) (addrOff a.addr))
  exact h.trans ((pace_sameAccesses s _ _).poisoned k len)

theorem winServed_out (s : State) (a : WinAcc) : (s.winServed a).out = s.out := by
  have h := congrArg State.out (winServed_rest s a)
  exact h

theorem winServed_pcie (s : State) (a : WinAcc) : (s.winServed a).pcie = s.pcie := by
  have h := congrArg State.pcie (winServed_rest s a)
  exact h

theorem winServed_byte (s : State) (a : WinAcc) (b : Nat) : (s.winServed a).byte b = s.byte b := by
  have h := congrArg (fun t => t.byte b) (winServed_rest s a)
  exact h

/-- A key that no access of is poisoned has no poisoned byte. -/
theorem isPoisoned_of_poisoned {s : State} {k len i : Nat} (h : poisoned s k len = false) (hi : i < len) :
    isPoisoned s (k + i) = false := by
  have hall := List.any_eq_false.1 h ((k + i) / 64 - k / 64) (List.mem_range.2 (by omega))
  rw [isPoisoned_access s (k := k / 64 * 64 + 64 * ((k + i) / 64 - k / 64)) (by omega)]
  exact Bool.eq_false_iff.2 hall

theorem winReadKey_clean {s : State} {a : WinAcc} {k : Nat} (hf : isFresh s k = false) (hp : poisoned s k a.len = false) :
    s.winReadKey a k [] = s.emit (.winData a.win (s.bytes k a.len)) := by
  have hb : (s.bytes k a.len).zipIdx.map (fun e => if isPoisoned s (k + e.2) then (255 : Byte) else e.1) = s.bytes k a.len := by
    have hl := length_bytes s k a.len
    refine List.ext_getElem (by simp) fun i h1 h2 => ?_
    simp [isPoisoned_of_poisoned hp (by omega : i < a.len)]
  simp only [State.winReadKey, readKey_clean hf, hp, hb, Bool.false_eq_true, if_false]

section
variable {s : State} {a : WinAcc}

/-- The access goes to memory now: no write is before it, its slabs are there, and its channel can serve it. -/
structure WinReady (s : State) (a : WinAcc) : Prop where
  first : winBehind s a = false
  homed : isOpen (addrOff a.addr) = false
  present : missing s (addrPart a.addr) (addrOff a.addr) a.len = []
  room : let k := keyAt s (addrPart a.addr) (addrOff a.addr)
    hasMoved (chan s (chanOfKey s k)) (chanOff s k) = true ∨ (chanServes s (chanOfKey s k) (chanOff s k) = true ∧
      paceRoom (chan s (chanOfKey s k)) (64 * accesses (addrOff a.addr) a.len) = true)

theorem serveWin_read (h : WinReady s a) (hd : a.data = none) (e : List Ecc) :
    s.serveWin a e = ((s.winServed a).winReadKey a (keyAt s (addrPart a.addr) (addrOff a.addr)) e, true) := by
  have hr := h.room
  simp only [← Bool.and_eq_true, ← Bool.or_eq_true] at hr
  simp only [State.serveWin, h.first, h.homed, h.present, hd, Bool.false_eq_true, if_false]
  rw [if_pos hr]
  rfl

theorem serveWin_write (h : WinReady s a) {bs : List Byte} (hd : a.data = some bs) (e : List Ecc) :
    s.serveWin a e = ((s.winServed a).winWriteKey a (keyAt s (addrPart a.addr) (addrOff a.addr)) bs, true) := by
  have hr := h.room
  simp only [← Bool.and_eq_true, ← Bool.or_eq_true] at hr
  simp only [State.serveWin, h.first, h.homed, h.present, hd, Bool.false_eq_true, if_false]
  rw [if_pos hr]
  rfl

theorem serveWin_behind (h : winBehind s a = true) (e : List Ecc) : s.serveWin a e = (s, false) := by
  rw [State.serveWin, if_pos h]

/-- An access to the open window that is not there yet is sent (R319). -/
theorem serveWin_open (hb : winBehind s a = false) (ho : isOpen (addrOff a.addr) = true)
    (hf : a.data = none → isFresh s (keyAt s (addrPart a.addr) (addrOff a.addr)) = false)
    (hn : ∀ r ∈ s.site.reqs, r.id ≠ winReq a.id) (e : List Ecc) :
    s.serveWin a e = (s.sendOpen (addrPart a.addr) (addrOff a.addr) (winReq a.id), false) := by
  have h1 : (a.data.isNone && isFresh s (keyAt s (addrPart a.addr) (addrOff a.addr))) = false := by
    cases hd : a.data with
    | none => exact hf hd
    | some bs => rfl
  have h2 : s.site.reqs.any (fun r => r.id == winReq a.id) = false :=
    List.any_eq_false.2 fun r hr he => hn r hr (eq_of_beq he)
  simp only [State.serveWin, hb, ho, h1, h2, Bool.false_eq_true, if_false, if_true]

/-- A served read answers with the bytes under its key. -/
theorem serveWin_reads (h : WinReady s a) (hd : a.data = none) (hf : isFresh s (keyAt s (addrPart a.addr) (addrOff a.addr)) = false)
    (hp : poisoned s (keyAt s (addrPart a.addr) (addrOff a.addr)) a.len = false) :
    ∃ t, s.serveWin a [] = (t, true) ∧
      t.out = s.out ++ [.winData a.win (s.bytes (keyAt s (addrPart a.addr) (addrOff a.addr)) a.len)] ∧
      (∀ b, t.byte b = s.byte b) ∧ t.pcie = s.pcie := by
  rw [serveWin_read h hd, winReadKey_clean ((winServed_isFresh s a _).trans hf) ((winServed_poisoned s a _ _).trans hp),
    winServed_bytes]
  exact ⟨_, rfl, congrArg (· ++ _) (winServed_out s a), winServed_byte s a, winServed_pcie s a⟩

theorem wideAt_bytesPut {s : State} {p x : Nat} {bs : List Byte} (hb : x + bs.length ≤ hbmHomed s p)
    (hp : poisonedRange s p x bs.length = false) : BytesPut s (s.wideAt p x bs).1 (key 0 p x) bs := by
  obtain ⟨w, hw⟩ := wideAt_hbm hb hp
  rw [hw]
  exact bytesPut_putBytes s (key 0 p x) bs w

/-- A served write to HBM memory stores its bytes. -/
theorem serveWin_stores (h : WinReady s a) {bs : List Byte} (hd : a.data = some bs)
    (hb : addrOff a.addr + bs.length ≤ hbmHomed s (addrPart a.addr))
    (hp : poisonedRange s (addrPart a.addr) (addrOff a.addr) bs.length = false) (e : List Ecc) :
    ∃ t, s.serveWin a e = (t, true) ∧ t.out = s.out ∧
      BytesPut s t (key 0 (addrPart a.addr) (addrOff a.addr)) bs ∧ t.pcie = s.pcie := by
  rw [serveWin_write h hd]
  by_cases h0 : bs.length = 0
  · obtain rfl := List.length_eq_zero_iff.1 h0
    refine ⟨_, rfl, winServed_out s a, fun b => (winServed_byte s a b).trans (if_neg ?_).symm, winServed_pcie s a⟩
    exact fun h => absurd h.2 (Nat.not_lt.2 h.1)
  · have hu : SameAccesses s (s.winServed a) := by
      rw [State.winServed, useAt_hbm (by rw [hbmHomed_congr (pace_sameAccesses s _ _).settings]; omega)]
      exact pace_sameAccesses s _ _
    obtain ⟨w, hw⟩ := wideAt_hbm (s := s.winServed a) (by rw [hbmHomed_congr hu.settings]; exact hb)
      ((hu.poisonedRange _ _ _).trans hp)
    have hk : (s.winServed a).winWriteKey a (keyAt s (addrPart a.addr) (addrOff a.addr)) bs =
        (s.winServed a).putBytes (key 0 (addrPart a.addr) (addrOff a.addr)) bs w := by
      simp only [State.winWriteKey, hw, Bool.false_eq_true, if_false]
    rw [hk]
    exact ⟨_, rfl, winServed_out s a, hu.bytesPut (bytesPut_putBytes (s.winServed a) _ bs w), winServed_pcie s a⟩

end

/-! ### WINDOW_READ, WINDOW_WRITE and WINDOW_ACCESS_TIMEOUT -/

/-- What becomes of an access that is not fenced: it is done, or waits as the newest. -/
def State.arrived (r : State × Bool) (a : WinAcc) : State :=
  if r.2 then r.1 else { r.1 with pcie := { r.1.pcie with accs := r.1.pcie.accs ++ [a] } }

/-- An arriving access takes the next number. -/
def State.numbered (s : State) : State := { s with pcie := { s.pcie with nextAcc := s.pcie.nextAcc + 1 } }

/-- The access that arrives at a window. -/
def newAcc (s : State) (w off len : Nat) (data : Option (List Byte)) : WinAcc :=
  { id := s.pcie.nextAcc, win := w, addr := winAddr s w off, len := len, data := data, since := s.now }

theorem sendOpen_rest (s : State) (p x req : Nat) : { s.sendOpen p x req with out := s.out, site := s.site } = s := rfl

theorem arrived_rest {s u : State} (h : { u with out := s.out, site := s.site } = s.numbered) (a : WinAcc) :
    { State.arrived (u, false) a with out := s.out, pcie := s.pcie, site := s.site } = s :=
  congrArg (fun t : State => { t with pcie := s.pcie }) h

section
variable {s : State} {w off len : Nat} {data : Option (List Byte)} (hd3 : s.pcie.d3hot = false)
include hd3

theorem windowAccess_sealed (h : s.regFld (Blk.sec.page (winPart s w)) Reg.secSeal 0 0 = 1) (e : List Ecc) :
    s.windowAccess w off len none e = (s.bump (Blk.sec.page (winPart s w)) Reg.secDenied 31 0 1).fenceWin w (some len) := by
  simp only [State.windowAccess, hd3, h, Option.isNone_none, beq_self_eq_true, Bool.and_self, Bool.false_eq_true, if_false, if_true]

theorem windowAccess_fenced (h : ¬(data = none ∧ s.regFld (Blk.sec.page (winPart s w)) Reg.secSeal 0 0 = 1))
    (hf : winFenced s w (winAddr s w off) len = true) (e : List Ecc) :
    s.windowAccess w off len data e = s.fenceWin w (if data.isNone then some len else none) := by
  have hs : ¬(data.isNone && s.regFld (Blk.sec.page (winPart s w)) Reg.secSeal 0 0 == 1) = true := by
    simpa only [Bool.and_eq_true, Option.isNone_iff_eq_none, beq_iff_eq] using h
  rw [State.windowAccess, hd3]
  dsimp only
  rw [if_neg Bool.false_ne_true, if_neg hs, if_pos hf]

theorem windowAccess_tried (h : ¬(data = none ∧ s.regFld (Blk.sec.page (winPart s w)) Reg.secSeal 0 0 = 1))
    (hf : winFenced s w (winAddr s w off) len = false) (e : List Ecc) :
    s.windowAccess w off len data e =
      .arrived (s.numbered.serveWin (newAcc s w off len data) e) (newAcc s w off len data) := by
  have hs : ¬(data.isNone && s.regFld (Blk.sec.page (winPart s w)) Reg.secSeal 0 0 == 1) = true := by
    simpa only [Bool.and_eq_true, Option.isNone_iff_eq_none, beq_iff_eq] using h
  rw [State.windowAccess, hd3]
  dsimp only
  rw [if_neg Bool.false_ne_true, if_neg hs, if_neg (by rw [hf]; exact Bool.false_ne_true)]
  rfl

end

/-- The access is gone from the waiting ones, and from the site's. -/
def State.dropAcc (s : State) (id : Nat) : State :=
  { s with
    pcie := { s.pcie with accs := s.pcie.accs.filter (fun b => b.id != id) }
    site := { s.site with reqs := s.site.reqs.filter (fun r => r.id != winReq id) } }

section
variable {s : State} {id now : Nat}

theorem exec_windowTimeout_none (h : s.pcie.accs.find? (fun a => a.id == id) = none) :
    exec (.windowAccessTimeout id now) s = .next (s.at_ now) := by
  show execWindowAccessTimeout id now s = _
  unfold execWindowAccessTimeout
  dsimp only
  rw [show (s.at_ now).pcie.accs.find? (fun a => a.id == id) = none from h]

theorem exec_windowTimeout {a : WinAcc} (h : s.pcie.accs.find? (fun a => a.id == id) = some a) :
    exec (.windowAccessTimeout id now) s = .next (if a.since + 40000000 ≤ (s.at_ now).now then
      (((s.at_ now).dropAcc id).fenceWin a.win (if a.data.isNone then some a.len else none)).flushWins else s.at_ now) := by
  show execWindowAccessTimeout id now s = _
  unfold execWindowAccessTimeout
  dsimp only
  rw [show (s.at_ now).pcie.accs.find? (fun a => a.id == id) = some a from h]
  dsimp only
  split <;> rfl

end

/-- Settles O46: an access is fenced, served, sent or left to wait as the lemmas above say. -/
theorem windowAccesses : Obligations.WindowAccesses := by
  intro s w off len data hs hw hd3 hlen row addr p x k pg isSealed fencedFrom acc v
  have hle := sound_partitions hs
  have hrow : exec row s = .next (s.windowAccess w off len data []) := by
    cases data with
    | none => rfl
    | some bs => rw [hlen bs rfl]; rfl
  have hfence {v : State} (hv : v.settings.partitions ≤ 4) {win : Nat} (hwin : win < 8) (l : Nat) (read : Bool) :
      fencedFrom v (v.fenceWin win (if read then some l else none)) win l read := by
    obtain ⟨u, a, h⟩ := fenceWin_fenced hv hwin l read
    exact ⟨u, a, h.rest, h.count, h.last, h.aside, h.event, h.answer⟩
  refine ⟨fun hns hf => ?_, ?_, fun hns hf => ⟨fun hb => ?_, fun hb ho hm hroom => ⟨?_, ?_⟩, fun hb ho hfr hn => ?_⟩,
    fun id now => ⟨exec_windowTimeout_none, fun a ha => ⟨fun ht => ?_, fun ht hwin => ?_⟩⟩⟩
  · exact ⟨_, hrow.trans (congrArg _ (windowAccess_fenced hd3 hns hf [])), hfence hle hw len data.isNone⟩
  · rintro ⟨rfl, hseal⟩
    have hrest : { s.bump pg Reg.secDenied 31 0 1 with regs := s.regs } = s := bump_rest s pg Reg.secDenied 31 0 1 s.regs
    have hz := hfence (v := s.bump pg Reg.secDenied 31 0 1) (by rw [(s.bump_onlyEvents _ _ _ _ _).settings]; exact hle) hw len true
    rw [if_pos rfl] at hz
    exact ⟨s.bump pg Reg.secDenied 31 0 1, _, hrow.trans (congrArg _ (windowAccess_sealed hd3 hseal [])), hrest,
      regFld_bump s pg 1 (by decide) (by decide), hz⟩
  · rw [hrow, windowAccess_tried hd3 hns hf, serveWin_behind (show winBehind s.numbered (newAcc s w off len data) = true from hb)]
    rfl
  · rintro rfl hfr hp
    have hr : WinReady s.numbered (newAcc s w off len none) := ⟨hb, ho, hm, hroom⟩
    obtain ⟨t, ht, hout, hbyte, hpcie⟩ := serveWin_reads hr rfl hfr hp
    rw [hrow, windowAccess_tried hd3 hns hf, ht]
    exact ⟨t, rfl, hout, hbyte, hpcie⟩
  · rintro bs rfl hin hp
    have hr : WinReady s.numbered (newAcc s w off len (some bs)) := ⟨hb, ho, hm, hroom⟩
    obtain rfl := hlen bs rfl
    obtain ⟨t, ht, hout, hbyte, hpcie⟩ := serveWin_stores hr rfl hin hp []
    rw [hrow, windowAccess_tried hd3 hns hf, ht]
    exact ⟨t, rfl, hout, fun a => (hbyte a).trans (wideAt_bytesPut hin hp a).symm, hpcie⟩
  · rw [hrow, windowAccess_tried hd3 hns hf, serveWin_open (s := s.numbered) (a := newAcc s w off len data) hb ho hfr hn]
    refine ⟨_, rfl, ?_, ?_, ?_, ?_⟩
    · rfl
    · rfl
    · rfl
    · exact arrived_rest (sendOpen_rest s.numbered (addrPart (winAddr s w off)) (addrOff (winAddr s w off)) (winReq s.pcie.nextAcc)) _
  · rw [exec_windowTimeout ha, if_neg (Nat.not_le.2 ht)]
  · rw [exec_windowTimeout ha, if_pos ht]
    exact ⟨_, rfl, hfence (v := (s.at_ now).dropAcc id) hle hwin a.len a.data.isNone⟩

end Sys2Proof.Machine

/-! ## What the end and the completion of commands leave (for O38, O45 and O54)

Like `Steady`, for what the statements on heat, links and tenants speak of: the flash record, the levels of dies, the states of channels
and courses, the fences of the open site and the event of a faulted link stay; commands, persistent streams and waiting
window accesses only become fewer. -/

namespace Sys2Proof.Machine

-- One proof after another: in the joined text the proofs here would all wait at once for the kernel, each with a thread and its stack.
set_option Elab.async false

/-- A list of commands after some of them have ended or left. -/
structure FewerCmds (l m : List Cmd) : Prop where
  ids : (m.map Cmd.id).Sublist (l.map Cmd.id)
  origin : ∀ c ∈ m, ∃ d ∈ l, d.id = c.id ∧ d.part = c.part ∧ (d.status.isSome = true → c.status.isSome = true)

theorem FewerCmds.refl (l : List Cmd) : FewerCmds l l := ⟨.refl _, fun c hc => ⟨c, hc, rfl, rfl, id⟩⟩

theorem FewerCmds.trans {k l m : List Cmd} (h : FewerCmds k l) (g : FewerCmds l m) : FewerCmds k m := by
  refine ⟨g.ids.trans h.ids, fun c hc => ?_⟩
  obtain ⟨d, hd, hid, hp, hst⟩ := g.origin c hc
  obtain ⟨e, he, hid', hp', hst'⟩ := h.origin d hd
  exact ⟨e, he, hid'.trans hid, hp'.trans hp, fun x => hst (hst' x)⟩

theorem FewerCmds.filter (l : List Cmd) (p : Cmd → Bool) : FewerCmds l (l.filter p) :=
  ⟨List.filter_sublist.map _, fun c hc => ⟨c, (List.mem_filter.1 hc).1, rfl, rfl, id⟩⟩

theorem FewerCmds.map (l : List Cmd) {f : Cmd → Cmd} (hid : ∀ c, (f c).id = c.id) (hp : ∀ c, (f c).part = c.part)
    (hst : ∀ c, c.status.isSome = true → (f c).status.isSome = true) : FewerCmds l (l.map f) := by
  constructor
  · rw [List.map_map, show Cmd.id ∘ f = Cmd.id from funext hid]
  · intro c hc
    obtain ⟨d, hd, rfl⟩ := List.mem_map.1 hc
    exact ⟨d, hd, (hid d).symm, (hp d).symm, hst d⟩

/-- What of a die the work of commands leaves: all but the wakes. -/
def Die.unwoken (d : Die) : Die := { d with wakeQ := [], clusterWakes := 0 }

/-- What of a channel the work of commands leaves: its state, and the row that it copies. -/
def Chan.duty (c : Chan) : Nat × Option (Nat × Nat) := (c.st, c.copying)

/-- The event of a faulted link in a register file: bit 0 of BLK_IRQ_STAT of page 1. -/
def linkUp (regs : SMap Word) : Bool :=
  (SMap.get (BitVec.ofNat 64 (resetReg (blkOf 1) Reg.irqStat)) regs (regKey 1 Reg.irqStat)).getLsbD 0

theorem linkUp_iff (s : State) : linkUp s.regs = (s.reg 1 Reg.irqStat).testBit 0 := rfl

theorem linkUp_setIrq {s : State} (g n : Nat) (h : linkUp s.regs = true) :
    linkUp (s.setReg g Reg.irqStat (s.reg g Reg.irqStat ||| 2 ^ n)).regs = true := by
  rw [linkUp_iff] at h ⊢
  exact (AsideFromEvents.of_setReg s g Reg.irqStat _ (.inl rfl)
    (fun _ i hi => by rw [Nat.testBit_or, hi, Bool.true_or])).irq 1 0 h

theorem linkUp_set_other (m : SMap Word) {r : Nat} (hr : r < 512 ∧ r ≠ Reg.irqStat) (g : Nat) {d : Word} (v : Word) :
    linkUp (SMap.set d m (regKey g r) v) = linkUp m := by
  have hk : regKey 1 Reg.irqStat ≠ regKey g r := by
    have : Reg.irqStat < 512 := by decide
    simp only [regKey]
    omega
  rw [linkUp, SMap.get_set_other' _ _ hk, linkUp]

/-- The components that `Calm` speaks of, against the state before. -/
structure CalmC (s : State) (fl : Flash) (regs : SMap Word) (dies : SMap Die) (stks : SMap Stack) (chans : SMap Chan)
    (secs : SMap Sec) (courses : SMap Course) (persists : List Persist) (accs : List WinAcc) (cmds : List Cmd) (fenced : List Bool)
    (siteFenced powerFence : Bool) : Prop where
  flash : fl = s.flash
  linkUp : linkUp s.regs = true → linkUp regs = true
  dies : ∀ n, (SMap.get {} dies n : Die).unwoken = (die s n).unwoken
  offline : ∀ n, (SMap.get {} stks n : Stack).offline = (stack s n).offline
  chans : ∀ n, (SMap.get {} chans n : Chan).duty = (chan s n).duty
  secs : secs = s.secs
  courses : ∀ n, (SMap.get {} courses n : Course).st = (course s n).st
  persists : ∀ x ∈ persists, ∃ y ∈ s.persists, y.part = x.part
  accs : accs ⊆ s.pcie.accs
  cmds : FewerCmds s.cmds cmds
  fenced : fenced = s.site.fenced
  siteFenced : siteFenced = s.site.siteFenced
  powerFence : powerFence = s.site.powerFence

/-- From `s` to `t` what `CalmC` lists stays, or becomes fewer. -/
def Calm (s t : State) : Prop :=
  CalmC s t.flash t.regs t.dies t.stks t.chans t.secs t.courses t.persists t.pcie.accs t.cmds t.site.fenced t.site.siteFenced
    t.site.powerFence

theorem Calm.refl (s : State) : Calm s s :=
  ⟨rfl, id, fun _ => rfl, fun _ => rfl, fun _ => rfl, rfl, fun _ => rfl, fun x hx => ⟨x, hx, rfl⟩, List.Subset.refl _,
    .refl _, rfl, rfl, rfl⟩

namespace Calm

variable {s₀ s t : State}

theorem ite {p : Prop} [Decidable p] (h : Calm s₀ s) (k : Calm s₀ t) : Calm s₀ (if p then s else t) := by
  split <;> assumption

theorem ite_fst {α : Type} {p : Prop} [Decidable p] {x y : State × α} (h : Calm s₀ x.1) (k : Calm s₀ y.1) :
    Calm s₀ (if p then x else y).1 := by
  split <;> assumption

theorem foldl {α : Type} {f : State → α → State} {l : List α} (hf : ∀ t x, Calm s₀ t → Calm s₀ (f t x))
    (h : Calm s₀ s) : Calm s₀ (l.foldl f s) := by
  induction l generalizing s with
  | nil => exact h
  | cons x l ih => exact ih (hf s x h)

theorem foldl_fst {α β : Type} {f : State × β → α → State × β} {l : List α} {p : State × β}
    (hf : ∀ t x, Calm s₀ t.1 → Calm s₀ (f t x).1) (h : Calm s₀ p.1) : Calm s₀ (l.foldl f p).1 := by
  induction l generalizing p with
  | nil => exact h
  | cons x l ih => exact ih (hf p x h)

/-! ### Changes of a component -/

theorem modDie (h : Calm s₀ s) (n : Nat) (f : Die → Die) (hf : ∀ x, (f x).unwoken = x.unwoken := by exact fun _ => rfl) :
    Calm s₀ (s.modDie n f) :=
  { h with dies := fun k => (SMap.get_modify_keep Die.unwoken hf _ n k).trans (h.dies k) }

theorem modStack (h : Calm s₀ s) (n : Nat) (f : Stack → Stack) (hf : ∀ x, (f x).offline = x.offline := by exact fun _ => rfl) :
    Calm s₀ (s.modStack n f) :=
  { h with offline := fun k => (SMap.get_modify_keep Stack.offline hf _ n k).trans (h.offline k) }

theorem modChan (h : Calm s₀ s) (n : Nat) (f : Chan → Chan) (hf : ∀ x, (f x).duty = x.duty := by exact fun _ => rfl) :
    Calm s₀ (s.modChan n f) :=
  { h with chans := fun k => (SMap.get_modify_keep Chan.duty hf _ n k).trans (h.chans k) }

theorem modCourse (h : Calm s₀ s) (n : Nat) (f : Course → Course) (hf : ∀ x, (f x).st = x.st := by exact fun _ => rfl) :
    Calm s₀ (s.modCourse n f) :=
  { h with courses := fun k => (SMap.get_modify_keep Course.st hf _ n k).trans (h.courses k) }

theorem modCmd (h : Calm s₀ s) (id : Nat) (f : Cmd → Cmd) (hp : ∀ c, (f c).part = c.part := by exact fun _ => rfl)
    (hst : ∀ c, c.status.isSome = true → (f c).status.isSome = true := by exact fun _ h => h) : Calm s₀ (s.modCmd id f) :=
  { h with cmds := h.cmds.trans (.map _ (fun c => by split <;> rfl) (fun c => by split <;> simp [hp])
      (fun c hc => by split <;> simp [hst, hc])) }

theorem setCmds (h : Calm s₀ s) (l : List Cmd) (hl : FewerCmds s.cmds l) : Calm s₀ { s with cmds := l } :=
  { h with cmds := h.cmds.trans hl }

theorem setPersists (h : Calm s₀ s) (l : List Persist) (hl : ∀ x ∈ l, ∃ y ∈ s.persists, y.part = x.part) :
    Calm s₀ { s with persists := l } :=
  { h with
    persists := fun x hx => by
      obtain ⟨y, hy, hp⟩ := hl x hx
      obtain ⟨z, hz, hq⟩ := h.persists y hy
      exact ⟨z, hz, hq.trans hp⟩ }

theorem filterAccs (h : Calm s₀ s) (p : WinAcc → Bool) : Calm s₀ { s with pcie := { s.pcie with accs := s.pcie.accs.filter p } } :=
  { h with accs := fun _ ha => h.accs (List.mem_filter.1 ha).1 }

theorem setSite (h : Calm s₀ s) (x : OpenSite) (h1 : x.fenced = s.site.fenced := by rfl)
    (h2 : x.siteFenced = s.site.siteFenced := by rfl) (h3 : x.powerFence = s.site.powerFence := by rfl) :
    Calm s₀ { s with site := x } :=
  { h with fenced := h1.trans h.fenced, siteFenced := h2.trans h.siteFenced, powerFence := h3.trans h.powerFence }

/-- A register other than BLK_IRQ_STAT. -/
theorem setReg (h : Calm s₀ s) (g v : Nat) {r : Nat} (hr : r < 512 ∧ r ≠ Reg.irqStat := by decide) :
    Calm s₀ (s.setReg g r v) :=
  { h with linkUp := fun e => (linkUp_set_other _ hr _ _).trans (h.linkUp e) }

theorem setRegFld (h : Calm s₀ s) (g hi lo v : Nat) {r : Nat} (hr : r < 512 ∧ r ≠ Reg.irqStat := by decide) :
    Calm s₀ (s.setRegFld g r hi lo v) := h.setReg _ _ hr

theorem bump (h : Calm s₀ s) (g hi lo n : Nat) {r : Nat} (hr : r < 512 ∧ r ≠ Reg.irqStat := by decide) :
    Calm s₀ (s.bump g r hi lo n) := h.setReg _ _ hr

theorem bumpWrap (h : Calm s₀ s) (g hi lo n : Nat) {r : Nat} (hr : r < 512 ∧ r ≠ Reg.irqStat := by decide) :
    Calm s₀ (s.bumpWrap g r hi lo n) := h.setReg _ _ hr

/-! ### Changes that touch no component -/

theorem emit (h : Calm s₀ s) (o : Out) : Calm s₀ (s.emit o) := h
theorem modPort (h : Calm s₀ s) (n : Nat) (f : Port → Port) : Calm s₀ (s.modPort n f) := h
theorem modCoreDom (h : Calm s₀ s) (n : Nat) (f : CoreDom → CoreDom) : Calm s₀ (s.modCoreDom n f) := h
theorem modCluster (h : Calm s₀ s) (n : Nat) (f : Cluster → Cluster) : Calm s₀ (s.modCluster n f) := h
theorem modTier (h : Calm s₀ s) (p : Nat) (f : Tier → Tier) : Calm s₀ (s.modTier p f) := h
theorem modLedger (h : Calm s₀ s) (p : Nat) (f : Ledger → Ledger) : Calm s₀ (s.modLedger p f) := h
theorem modCore (h : Calm s₀ s) (n : Nat) (f : Core → Core) : Calm s₀ (s.modCore n f) := h
theorem unpin (h : Calm s₀ s) (id : Nat) : Calm s₀ (s.unpin id) := h
theorem freshen (h : Calm s₀ s) (p : Nat → Bool) : Calm s₀ (s.freshen p) := h
theorem poke (h : Calm s₀ s) (k : Nat) (bs : List Byte) : Calm s₀ (s.poke k bs) := h
theorem clearFresh (h : Calm s₀ s) (k : Nat) : Calm s₀ (s.clearFresh k) := h
theorem setPoison (h : Calm s₀ s) (k : Nat) (x : Bool) : Calm s₀ (s.setPoison k x) := h
theorem setShard (h : Calm s₀ s) (p i : Nat) (e : Shard) : Calm s₀ (s.setShard p i e) := h

/-! ### Commands, their parts and their work -/

theorem modColl (h : Calm s₀ s) (id : Nat) (f : Coll → Coll) : Calm s₀ (s.modColl id f) := h.modCmd id _
theorem noteLate (h : Calm s₀ s) (id st : Nat) : Calm s₀ (s.noteLate id st) := h.modCmd id _
theorem addFlags (h : Calm s₀ s) (id : Nat) (f : Flags) : Calm s₀ (s.addFlags id f) := h.modCmd id _
theorem collStep (h : Calm s₀ s) (id : Nat) : Calm s₀ (s.collStep id) := h.modColl id _

theorem leave (h : Calm s₀ s) (c : Cmd) : Calm s₀ (s.leave c) := by
  have hc : Calm s₀ { s with cmds := s.cmds.filter (fun d => d.id != c.id) } := h.setCmds _ (.filter _ _)
  exact hc

theorem dropWork (h : Calm s₀ s) (id : Nat) : Calm s₀ (s.dropWork id) :=
  { h with
    chans := fun n => (congrArg Chan.duty (SMap.get_mapVals _ _ rfl s.chans n)).trans (h.chans n)
    persists := fun x hx => by
      obtain ⟨y, hy, rfl⟩ := List.mem_map.1 hx
      exact h.persists y hy }

/-! ### Events and the snag log -/

theorem sendMsix (h : Calm s₀ s) (v : Nat) : Calm s₀ (s.sendMsix v) := .ite h (.ite h h)

/-- An event bit that becomes set clears none. -/
theorem setIrq (h : Calm s₀ s) (g n : Nat) : Calm s₀ (s.setIrq g n) :=
  have hset : Calm s₀ (s.setReg g Reg.irqStat (s.reg g Reg.irqStat ||| 2 ^ n)) :=
    { h with linkUp := fun e => linkUp_setIrq g n (h.linkUp e) }
  .ite (hset.sendMsix _) hset

theorem logFull (h : Calm s₀ s) (e : Snag) : Calm s₀ (s.logFull e) := by
  unfold State.logFull
  split <;> exact h

theorem logView (h : Calm s₀ s) (p : Nat) (e : Snag) : Calm s₀ (s.logView p e) := by
  have hv (v : SMap View) : Calm s₀ { s with views := v } := h
  unfold State.logView
  dsimp only
  split
  · exact h
  · exact .ite ((hv _).setIrq _ _) (((hv _).setIrq _ _).setIrq _ _)

theorem moduleSeen (h : Calm s₀ s) (p : Nat) : Calm s₀ (s.moduleSeen p) :=
  ((((h.logView p _).bump _ _ _ _).setIrq _ 3).logFull _).logView p _

theorem logOne (h : Calm s₀ s) (e : Snag) : Calm s₀ (s.logOne e) :=
  .ite ((h.logFull e).logView _ e) (.foldl (fun _ p ht => ht.moduleSeen p) (h.logFull e))

theorem log_ (h : Calm s₀ s) (e : Snag) : Calm s₀ (s.log_ e) := .foldl (fun _ _ ht => ht.logOne _) (h.logOne e)

theorem raise_ (h : Calm s₀ s) (g n : Nat) (d : Det) : Calm s₀ (s.raise_ g n d) :=
  .ite (h.setIrq g n) ((h.setIrq g n).log_ _)

theorem setIrqOpen (h : Calm s₀ s) (p : Nat) : Calm s₀ (s.setIrqOpen p) :=
  .ite ((h.setSite _).sendMsix _) (h.setSite _)

theorem raiseOpen (h : Calm s₀ s) (p : Nat) (d : Det) : Calm s₀ (s.raiseOpen p d) := (h.setIrqOpen p).log_ _

theorem resetEntry (h : Calm s₀ s) (p i x n : Nat) : Calm s₀ (s.resetEntry p i x n) := h.log_ _

theorem noteHealth (h : Calm s₀ t) (s : State) (pages : List Nat) : Calm s₀ (s.noteHealth t pages) :=
  .foldl (fun _ g ht => .ite ht (ht.raise_ g 0 _)) h

/-! ### Contexts and the end of a command -/

theorem wantCore (h : Calm s₀ s) (k : Nat) : Calm s₀ (s.wantCore k) := .ite ((h.modCoreDom k _).modDie _ _) h

theorem wantClusters (h : Calm s₀ s) (l : List Nat) : Calm s₀ (s.wantClusters l).1 :=
  .foldl (fun _ c ht => .ite ht ((ht.modCluster c _).modDie _ _)) h

theorem progress (h : Calm s₀ s) (c : Nat) : Calm s₀ (s.progress c) := h.modCluster c _
theorem stirCluster (h : Calm s₀ s) (c : Nat) : Calm s₀ (s.stirCluster c) := h.modCluster c _
theorem stirGroup (h : Calm s₀ s) (c : Nat) : Calm s₀ (s.stirGroup c) := h.modStack _ _
theorem modCtx (h : Calm s₀ s) (n : Nat) (f : Ctx → Ctx) : Calm s₀ (s.modCtx n f) := h
theorem cmdProgress (h : Calm s₀ s) (c : Cmd) : Calm s₀ (s.cmdProgress c) := .foldl (fun _ c ht => ht.progress c) h
theorem modCtr (h : Calm s₀ s) (k : Nat) (f : Ctr → Ctr) : Calm s₀ (s.modCtr k f) := h.progress (k / 512)

theorem ctxWaits (h : Calm s₀ s) (n : Nat) : Calm s₀ (s.ctxWaits n) := .ite ((h.modCtx n _).modCore _ _) (h.modCtx n _)
theorem ctxWakes (h : Calm s₀ s) (n : Nat) : Calm s₀ (s.ctxWakes n) := .ite ((h.modCtx n _).wantCore _) h

theorem cmdWaits (h : Calm s₀ s) (id : Nat) (w : Wait) : Calm s₀ (s.cmdWaits id w) := by
  unfold State.cmdWaits
  split
  · exact .foldl (fun _ n ht => ht.ctxWaits n) (h.modCmd id _)
  · exact h

theorem settleWait (h : Calm s₀ s) (p : Nat) : Calm s₀ (s.settleWait p) := by
  unfold State.settleWait
  split
  · exact .ite h ((h.bump _ _ _ _).modTier p _)
  · exact h

theorem cmdWakes (h : Calm s₀ s) (id : Nat) : Calm s₀ (s.cmdWakes id) := by
  unfold State.cmdWakes
  split
  next c _ =>
    have hw : Calm s₀ (((cmdCtxs s c).foldl State.ctxWakes (s.modCmd id (fun c => { c with wait := .none }))).settleWait c.part) :=
      (foldl (fun _ n ht => ht.ctxWakes n) (h.modCmd id _)).settleWait c.part
    exact .ite (.foldl (fun _ c ht => ht.modCluster c _) hw) hw
  next => exact h

theorem endCmd (h : Calm s₀ s) (id st : Nat) : Calm s₀ (s.endCmd id st) := by
  unfold State.endCmd
  split
  next c _ =>
    have ht : Calm s₀ ((cmdClusters s c.part c.bits).foldl State.stirCluster
        (c.units.foldl State.stirGroup (s.cmdWakes id))) :=
      .foldl (fun _ c ht => ht.stirCluster c) (.foldl (fun _ c ht => ht.stirGroup c) (h.cmdWakes id))
    exact .ite h (modCmd (.ite (ht.unpin id) (ht.dropWork id)) id _ (hst := fun _ _ => rfl))
  next => exact h

theorem endCmds (h : Calm s₀ s) (ids : List Nat) (st : Nat) : Calm s₀ (ids.foldl (fun t i => t.endCmd i st) s) :=
  .foldl (fun _ i ht => ht.endCmd i st) h

theorem finishCmd (h : Calm s₀ s) (id : Nat) : Calm s₀ (s.finishCmd id) := by
  unfold State.finishCmd
  split
  · exact h.endCmd id _
  · exact h

/-! ### Counter pairs and lintels -/

theorem serveCtr (h : Calm s₀ s) (k n : Nat) : Calm s₀ (s.serveCtr k n) := by
  induction n generalizing s with
  | zero => exact h
  | succ n ih =>
    unfold State.serveCtr
    dsimp only
    split
    · exact h
    · exact .ite (ih ((h.modCtr k _).endCmd _ _)) (.ite (ih ((h.modCtr k _).finishCmd _)) h)

theorem post (h : Calm s₀ s) (k v : Nat) : Calm s₀ (s.post k v) := (h.modCtr k _).serveCtr k _

theorem makePost (h : Calm s₀ s) (c : Cmd) : Calm s₀ (s.makePost c).1 := by
  unfold State.makePost
  dsimp only
  split
  · exact h.post _ _
  · exact .ite_fst (h.raise_ _ 3 _) h

theorem lintelArrivals (h : Calm s₀ s) (p : Nat) : Calm s₀ (s.lintelArrivals p) := .ite h h

/-! ### Memory -/

theorem dirtyAt (h : Calm s₀ s) (p x : Nat) : Calm s₀ (s.dirtyAt p x) := by
  unfold State.dirtyAt
  split
  · split <;> exact h
  · exact h

theorem useAt (h : Calm s₀ s) (p x : Nat) : Calm s₀ (s.useAt p x) := by
  unfold State.useAt
  split
  · split <;> exact h
  · exact h

theorem wide64 (h : Calm s₀ s) (k : Nat) (bs : List Byte) : Calm s₀ (s.wide64 k bs).1 :=
  .ite_fst (.ite_fst ((h.poke k bs).setPoison k false) h) (h.poke k bs)

theorem wideAt (h : Calm s₀ s) (p x : Nat) (bs : List Byte) : Calm s₀ (s.wideAt p x bs).1 :=
  .foldl_fst (fun _ _ ht => .ite (ht.wide64 _ _) ((ht.wide64 _ _).dirtyAt p _)) h

theorem narrowAt (h : Calm s₀ s) (p x : Nat) (bs : List Byte) : Calm s₀ (s.narrowAt p x bs).1 :=
  .ite_fst h ((h.poke _ bs).dirtyAt p x)

theorem countFresh (h : Calm s₀ s) (k : Nat) : Calm s₀ (s.countFresh k) := .ite (h.modStack _ _) h

theorem countRead (h : Calm s₀ s) (p x len : Nat) : Calm s₀ (s.countRead p x len) :=
  .foldl (fun _ _ ht => ht.countFresh _) h

theorem queueFetch (h : Calm s₀ s) (p n cls : Nat) (id : Option Nat) : Calm s₀ (s.queueFetch p n cls id) :=
  .ite h (h.modTier p _)

theorem waitSlabs (h : Calm s₀ s) (id p : Nat) (l : List Nat) : Calm s₀ (s.waitSlabs id p l) :=
  .ite (h.endCmd id _) (cmdWaits (modCmd (modTier (foldl (fun _ n ht => ht.queueFetch p n 1 _) h) p _) id _) id _)

theorem noteWrite (h : Calm s₀ s) (id p x len : Nat) : Calm s₀ (s.noteWrite id p x len) := by
  unfold State.noteWrite
  split
  · exact .ite (h.modCmd id _) h
  · exact h

theorem cmdWrite (h : Calm s₀ s) (id p x : Nat) (bs : List Byte) : Calm s₀ (s.cmdWrite id p x bs) :=
  have hw := (h.wideAt p x bs).noteWrite id p x bs.length
  .ite (hw.noteLate id _) hw

/-! ### Ledger, guard events and counts -/

theorem ledgerAbandon (h : Calm s₀ s) (p a : Nat) : Calm s₀ (s.ledgerAbandon p a) := (h.modLedger p _).raise_ _ 3 _

theorem ledgerPut (h : Calm s₀ s) (p off : Nat) (bs : List Byte) : Calm s₀ (s.ledgerPut p off bs) :=
  .ite (h.ledgerAbandon p _) (h.wideAt p _ bs)

theorem ledgerWrite (h : Calm s₀ s) (p off : Nat) (bs : List Byte) : Calm s₀ (s.ledgerWrite p off bs) :=
  .ite (h.ledgerAbandon p _) (.ite (h.ledgerPut p off bs) (modLedger (foldl (fun _ n ht => ht.queueFetch p n 1 none) h) p _))

theorem ledgerWrap (h : Calm s₀ s) (p off len : Nat) : Calm s₀ (s.ledgerWrap p off len) := .ite (h.raise_ _ 2 _) h

theorem ledgerAppend (h : Calm s₀ s) (p : Nat) (ws : List Nat) : Calm s₀ (s.ledgerAppend p ws) := by
  unfold State.ledgerAppend
  dsimp only
  split
  · exact h
  · exact ((h.modLedger p _).ledgerWrap p _ 32).ledgerWrite p _ _

theorem ledgerTrace (h : Calm s₀ s) (c : Cmd) (st : Nat) : Calm s₀ (s.ledgerTrace c st) := .ite (h.ledgerAppend _ _) h
theorem ledgerColl (h : Calm s₀ s) (c : Cmd) (k : Nat) : Calm s₀ (s.ledgerColl c k) := (h.ledgerAppend _ _).modLedger _ _

theorem guardEvent (h : Calm s₀ s) (p slot bit : Nat) : Calm s₀ (s.guardEvent p slot bit) :=
  ((h.bump _ _ _ _).setRegFld _ _ _ _).raise_ _ bit _

theorem guardEventIf (h : Calm s₀ s) (p slot bit : Nat) {c : Prop} [Decidable c] :
    Calm s₀ (if c then s.guardEvent p slot bit else s) := .ite (h.guardEvent p slot bit) h

theorem endEvents (h : Calm s₀ s) (c : Cmd) : Calm s₀ (s.endEvents c) :=
  have hg := foldl (l := c.guards) (fun _ e ht => (ht.guardEventIf c.part e.1 0).guardEventIf c.part e.1 1) h
  .ite hg (hg.raise_ _ 1 _)

theorem countColl (h : Calm s₀ s) (c : Cmd) (st : Nat) : Calm s₀ (s.countColl c st) :=
  .ite (.foldl (fun _ _ ht => .ite (ht.bump _ _ _ _) (ht.bump _ _ _ _)) h) h

theorem countRing (h : Calm s₀ s) (k st : Nat) : Calm s₀ (s.countRing k st) :=
  .ite (h.bumpWrap _ _ _ _) ((h.bumpWrap _ _ _ _).bump _ _ _ _)

theorem atBoundary (h : Calm s₀ s) (c : Cmd) : Calm s₀ (s.atBoundary c) := .foldl (fun _ x ht => ht.modCore x _) h

/-! ### Collectives -/

theorem pumpPort (h : Calm s₀ s) (q n : Nat) : Calm s₀ (s.pumpPort q n) := by
  induction n generalizing s with
  | zero => exact h
  | succ n ih =>
    unfold State.pumpPort
    dsimp only
    split
    · exact h
    · exact .ite h (ih ((h.modPort q _).emit _))

theorem sendFlits (h : Calm s₀ s) (q : Nat) (fs : List FlitOut) : Calm s₀ (s.sendFlits q fs) :=
  (h.modPort q _).pumpPort q _

theorem sendMsg (h : Calm s₀ s) (id c : Nat) (next : Bool) (t : ChunkTag) (val : List Byte) (data : Option (List Byte)) :
    Calm s₀ (s.sendMsg id c next t val data) := by
  unfold State.sendMsg
  split
  · exact h
  · exact .ite h ((h.modColl id _).sendFlits _ _)

theorem sendTo (h : Calm s₀ s) (id c dest : Nat) (t : ChunkTag) (val : List Byte) (data : Option (List Byte)) :
    Calm s₀ (s.sendTo id c dest t val data) := h.sendMsg id c _ t val data

theorem failColl (h : Calm s₀ s) (id st : Nat) : Calm s₀ (s.failColl id st) := by
  unfold State.failColl
  split
  · exact .ite h (.foldl (fun _ _ ht => ht.emit _) (h.endCmd id st))
  · exact h

theorem clearRead (h : Calm s₀ s) (cm : Cmd) (d : CollD) (addr len : Nat) : Calm s₀ (s.clearRead cm d addr len) :=
  .ite (.foldl (fun _ _ ht => (ht.freshen _).dirtyAt _ _) (h.modColl _ _)) h

theorem sendGather (h : Calm s₀ s) (cm : Cmd) (c : Nat) (t : ChunkTag) (bs : List Byte) : Calm s₀ (s.sendGather cm c t bs) :=
  .foldl (fun _ w ht => ht.sendMsg cm.id c w t [] _) h

theorem finishSum (h : Calm s₀ s) (cm : Cmd) (c : Nat) (t : ChunkTag) (sum : List Nat) :
    Calm s₀ (s.finishSum cm c t sum) :=
  have hw := ((h.addFlags cm.id _).cmdWrite cm.id cm.part _ _).collStep cm.id
  .ite (hw.sendGather cm c _ _) hw

theorem sumWork (h : Calm s₀ s) (cm : Cmd) (w : CollWork) : Calm s₀ (s.sumWork cm w) := by
  have hread (t : State) (ht : Calm s₀ t) (x : Nat × Nat) :
      Calm s₀ ((t.countRead cm.part (addrOff x.1) x.2).clearRead cm (collD cm.bits) x.1 x.2) :=
    (ht.countRead _ _ _).clearRead _ _ _ _
  unfold State.sumWork
  dsimp only
  split
  · split
    · exact h.modColl _ _
    · exact (((hread _ (h.modColl _ _) _).addFlags _ _).modColl _ _).finishSum _ _ _ _
  · split
    · exact ((hread _ h _).addFlags _ _).finishSum _ _ _ _
    · exact (((hread _ h _).addFlags _ _).sendMsg _ _ _ _ _ _).collStep _

theorem sendTable (h : Calm s₀ s) (cm : Cmd) (c : Nat) (next : Bool) (dest : Nat) (bs : List Byte) :
    Calm s₀ (s.sendTable cm c next dest bs) := by
  unfold State.sendTable
  split
  · exact h
  · exact .ite h ((h.modColl _ _).sendMsg _ _ _ _ _ _)

theorem shardArrived (h : Calm s₀ s) (cm : Cmd) (c : Nat) (e : ShardEnt) : Calm s₀ (s.shardArrived cm c e) :=
  .ite (((h.setShard _ _ _).modColl _ _).emit _) ((h.setShard _ _ _).emit _)

theorem chunkLanded (h : Calm s₀ s) (cm : Cmd) (c : Nat) (t : ChunkTag) : Calm s₀ (s.chunkLanded cm c t) := by
  unfold State.chunkLanded
  split
  · exact .ite (((h.modColl _ _).collStep _).sendTo _ _ _ _ _ _) ((h.modColl _ _).collStep _)
  · exact .ite ((h.modColl _ _).shardArrived _ _ _) (h.modColl _ _)
  · exact h.collStep _

theorem poisonChunk (h : Calm s₀ s) (cm : Cmd) (x : Nat × Nat) : Calm s₀ (s.poisonChunk cm x) := by
  unfold State.poisonChunk
  extract_lets t u
  have ht : Calm s₀ t := .foldl (fun _ _ ht => (ht.clearFresh _).setPoison _ _) h
  have hu : Calm s₀ u := (ht.dirtyAt _ _).noteLate _ _
  exact (hu.bump _ _ _ _).raise_ _ 1 _

theorem startWith (h : Calm s₀ s) (cm : Cmd) (w : CollWork) (read : Option (List Byte)) :
    Calm s₀ (s.startWith cm w read) := by
  unfold State.startWith
  extract_lets d m t pos x local_ u y
  have hu : Calm s₀ u := h.countRead _ _ _
  split
  · exact h.endCmd _ _
  next bs =>
    extract_lets raw v
    have hv : Calm s₀ v := (foldl (fun _ n ht => ht.sendTable cm w.course n toAll bs) hu).sendGather _ _ _ _
    clear_value raw
    split
    · split
      · exact (hv.cmdWrite _ _ _ _).collStep _
      · exact hv.endCmd _ _
    · split
      · split
        · exact (hu.cmdWrite _ _ _ _).chunkLanded _ _ _
        · exact hu.endCmd _ _
      · exact (hu.sendTable _ _ _ _ _).sendTo _ _ _ _ _ _

theorem startCopy_ (h : Calm s₀ s) (cm : Cmd) (w : CollWork) : Calm s₀ (s.startCopy_ cm w) := h.startWith cm w _

theorem landChunk (h : Calm s₀ s) (cm : Cmd) (w : CollWork) (bs : List Byte) : Calm s₀ (s.landChunk cm w bs) := by
  unfold State.landChunk
  extract_lets d t pos x
  split
  · exact (cmdWrite (.ite (h.bump _ _ _ _) h) _ _ _ _).chunkLanded _ _ _
  · exact .ite ((h.poisonChunk _ _).chunkLanded _ _ _) ((h.modColl _ _).sendTo _ _ _ _ _ _)

theorem doWork (h : Calm s₀ s) (cm : Cmd) (w : CollWork) : Calm s₀ (s.doWork cm w) := by
  refine .ite (h.endCmd _ _) (.ite (h.sumWork cm w) ?_)
  split
  · exact .ite (h.endCmd _ _) (h.startCopy_ cm w)
  · exact h.landChunk cm w _

theorem checkColl (h : Calm s₀ s) (id : Nat) : Calm s₀ (s.checkColl id) := by
  unfold State.checkColl
  split
  · exact .ite (h.finishCmd id) h
  · exact h

theorem pumpColl (h : Calm s₀ s) (id : Nat) : Calm s₀ (s.pumpColl id) := by
  unfold State.pumpColl
  split
  · exact h
  next cm _ =>
    refine .ite h ?_
    extract_lets r t
    have hr : Calm s₀ r.1 := .foldl_fst (fun a w ha => by
      split
      · exact ha
      · split
        · exact ha
        · split
          · exact ha.doWork _ w
          · exact ha) (h.modColl id _)
    have ht : Calm s₀ t := hr.modColl id _
    split
    · refine checkColl ?_ id
      split
      · exact .ite ((ht.unpin id).cmdWaits id _) (ht.unpin id)
      · exact ht.unpin id
    · exact ht.waitSlabs id _ _

theorem ctlArrived (h : Calm s₀ s) (cm : Cmd) (q : Nat) (bs : List Byte) : Calm s₀ (s.ctlArrived cm q bs) := by
  unfold State.ctlArrived
  extract_lets c next t pos val on u
  have hu : Calm s₀ u := .ite (h.modColl _ _) h
  refine .ite h (.ite (.ite h (h.failColl _ _)) (.ite (h.modColl _ _) (.ite (.ite (hu.sendMsg _ _ _ _ _ _) hu)
    (.ite (h.sendMsg _ _ _ _ _ _) (.ite (.ite h (h.failColl _ _)) (.ite (((h.modColl _ _).collStep _).checkColl _)
      (.ite ((h.modColl _ _).pumpColl _) h)))))))

theorem chunkArrived (h : Calm s₀ s) (cm : Cmd) (q : Nat) (t : ChunkTag) (bs : List Byte) :
    Calm s₀ (s.chunkArrived cm q t bs) :=
  .ite (h.sendMsg _ _ _ _ _ _) ((modColl (.ite (h.sendMsg _ _ _ _ _ _) h) _ _).pumpColl _)

theorem collFlit (h : Calm s₀ s) (q : Nat) (o : FlitOut) : Calm s₀ (s.collFlit q o) := by
  unfold State.collFlit
  extract_lets c hold
  have hhold : Calm s₀ hold := h.modCourse c _
  split
  · exact .ite hhold h
  next cm _ =>
    refine .ite (.ite (h.ctlArrived cm q _) hhold) (.ite (h.ctlArrived cm q _) ?_)
    split
    · exact h
    · exact .ite ((h.modColl _ _).chunkArrived _ _ _ _) (h.modColl _ _)

theorem numberOn (h : Calm s₀ s) (id c : Nat) : Calm s₀ (s.numberOn id c) := by
  unfold State.numberOn
  extract_lets n t
  have ht : Calm s₀ t := (h.modCourse c _).modColl id _
  refine .ite (ht.endCmd id _) ?_
  split
  · exact ht
  · exact .foldl (fun _ e hu => hu.ctlArrived _ e.1 _) ht

theorem numberColl (h : Calm s₀ s) (cm : Cmd) : Calm s₀ (s.numberColl cm) :=
  .foldl (fun t c ht => by
    split
    · exact ht
    · exact .ite ht (.ite (ht.numberOn _ c) (ht.endCmd _ _))) h

theorem noteStart (h : Calm s₀ s) (cm : Cmd) : Calm s₀ (s.noteStart cm) :=
  .foldl (fun _ _ ht => ht.ledgerColl cm _) (.foldl (fun _ _ ht => (ht.bumpWrap _ _ _ _).setRegFld _ _ _ _) h)

theorem sendGreetings (h : Calm s₀ s) (cm : Cmd) : Calm s₀ (s.sendGreetings cm) :=
  have ht := foldl (l := cm.coll.seqs) (fun _ _ ht => (ht.sendMsg _ _ true _ _ none).sendMsg _ _ false _ _ none) h
  .ite (.foldl (fun _ _ ht => .foldl (fun _ _ hu => .ite hu (hu.sendTo _ _ _ _ _ _)) ht) ht) ht

theorem markOut (h : Calm s₀ s) (cm : Cmd) : Calm s₀ (s.markOut cm) :=
  .ite (.foldl (fun _ _ ht => .ite (ht.setShard _ _ _) ht) h) h

theorem startColl (h : Calm s₀ s) (id : Nat) : Calm s₀ (s.startColl id) := by
  unfold State.startColl
  split
  · exact h
  next cm _ =>
    split
    · exact h.endCmd id _
    · extract_lets t u
      have hu : Calm s₀ u := ((((h.modColl id _).noteStart cm).sendGreetings cm).markOut cm).pumpColl id
      exact .foldl (fun _ e hv => .foldl (fun _ f hw => hw.collFlit f.1 f.2) (hv.modCourse _ _)) hu

theorem tryColls (h : Calm s₀ s) (p : Nat) : Calm s₀ (s.tryColls p) :=
  .foldl (fun u id hu => by
    split
    · exact .ite (hu.startColl id) hu
    · exact hu) (.foldl (fun _ cm ht => ht.numberColl cm) h)

/-! ### Completion -/

theorem complete (h : Calm s₀ s) (c : Cmd) (st : Nat) : Calm s₀ (s.complete c st) := by
  unfold State.complete
  extract_lets st' x gone w r t u v m
  have hr : Calm s₀ r.1 := .ite_fst (h.makePost c) h
  have ht : Calm s₀ t := .ite (hr.narrowAt _ _ _) hr
  have hu : Calm s₀ u := (((ht.endEvents c).ledgerTrace c _).countRing _ _).countColl c _
  have hv : Calm s₀ v := ((hu.cmdProgress c).atBoundary c).leave c
  have hm : Calm s₀ m := .ite (hv.sendMsix _) hv
  exact .ite (.ite_fst (h.wantClusters _) h) (.ite (.foldl (fun _ n ht => ht.queueFetch _ n 1 none) h)
    ((hm.lintelArrivals _).tryColls _))

theorem completeAll (h : Calm s₀ s) (p : Nat) : Calm s₀ (s.completeAll p) :=
  .foldl (fun t c ht => by
    split
    · split
      · exact ht.complete _ _
      · exact ht
    · exact ht) h

/-! ### A partition stops, and its tenant switch -/

theorem abortPart (h : Calm s₀ s) (p : Nat) : Calm s₀ (s.abortPart p) := h.endCmds _ _

theorem departPorts (h : Calm s₀ s) (l : List Nat) : Calm s₀ (s.departPorts l) := .foldl (fun _ _ ht => ht.emit _) h

theorem dropPersists (h : Calm s₀ s) (p : Persist → Bool) : Calm s₀ (s.dropPersists p) := by
  unfold State.dropPersists
  extract_lets gone ids t
  have ht : Calm s₀ t := endCmds (foldl (fun _ c ht => ht.stirCluster c) h) _ _
  have hp : Calm s₀ { t with persists := t.persists.filter (fun x => !p x) } :=
    ht.setPersists _ fun x hx => ⟨x, (List.mem_filter.1 hx).1, rfl⟩
  exact hp

theorem fenceWin (h : Calm s₀ s) (w : Nat) (read : Option Nat) : Calm s₀ (s.fenceWin w read) := by
  unfold State.fenceWin
  extract_lets t
  have ht : Calm s₀ t := ((h.bump _ _ _ _).setRegFld _ _ _ _).raise_ 0 1 _
  split <;> exact ht

theorem fenceWins (h : Calm s₀ s) (p : Nat) : Calm s₀ (s.fenceWins p) :=
  .foldl (fun _ a hu => hu.fenceWin a.win _) (h.filterAccs (fun a => addrPart a.addr != p))

theorem wakeAll (h : Calm s₀ s) (p : Nat) : Calm s₀ (s.wakeAll p) :=
  .foldl (fun _ n ht => ht.modDie n _) (.foldl (fun _ n ht => ht.modStack n _)
    (.foldl (fun _ c ht => .ite ht (.foldl (fun _ _ hu => .ite hu (hu.modCoreDom _ _)) (ht.modCluster c _))) h))

/-! ### Channels and window accesses -/

theorem countFault (h : Calm s₀ s) (g : Nat) : Calm s₀ (s.countFault g) := h.bump g _ _ _
theorem denyUnit (h : Calm s₀ s) (ch id : Nat) : Calm s₀ (s.denyUnit ch id) := by
  unfold State.denyUnit
  extract_lets t u d3 det v
  have hv : Calm s₀ v := ((((h.modChan ch _).stirGroup ch).noteLate id _).modCmd id _).raise_ _ 0 _
  split
  · exact .ite (hv.finishCmd id) hv
  · exact hv

theorem readKey_nil (h : Calm s₀ s) (k len : Nat) : Calm s₀ (s.readKey k len []).1 := by
  refine .ite_fst (h.countFresh k) ?_
  rw [checkReads_nil, ite_self]
  exact h

theorem winReadKey_nil (h : Calm s₀ s) (a : WinAcc) (k : Nat) : Calm s₀ (s.winReadKey a k []) :=
  emit (.ite ((h.readKey_nil k a.len).raise_ _ 0 _) (h.readKey_nil k a.len)) _

theorem winWriteKey (h : Calm s₀ s) (a : WinAcc) (k : Nat) (bs : List Byte) : Calm s₀ (s.winWriteKey a k bs) :=
  .ite ((h.wideAt _ _ bs).raise_ _ 0 _) (h.wideAt _ _ bs)

theorem pace (h : Calm s₀ s) (k n : Nat) : Calm s₀ (s.pace k n) := .ite h (h.modChan _ _)

theorem serveWin_nil (h : Calm s₀ s) (a : WinAcc) : Calm s₀ (s.serveWin a []).1 := by
  refine .ite_fst h (.ite_fst (.ite_fst h (.ite_fst h h)) ?_)
  split
  · exact .foldl (fun _ n ht => ht.queueFetch _ n 1 none) h
  · refine .ite_fst ?_ h
    split
    · exact ((h.pace _ _).useAt _ _).winReadKey_nil a _
    · exact ((h.pace _ _).useAt _ _).winWriteKey a _ _

theorem flushWins (h : Calm s₀ s) : Calm s₀ s.flushWins :=
  .foldl (fun _ a ht => .ite ((ht.serveWin_nil a).filterAccs _) (ht.serveWin_nil a)) h

/-! ### Faults of links and of partitions -/

theorem setStartup (h : Calm s₀ s) (x : Startup) : Calm s₀ { s with startup := x } := h

theorem faultPart (h : Calm s₀ s) (p : Nat) : Calm s₀ (s.faultPart p) :=
  .ite h (((((h.abortPart p).departPorts _).setStartup _).raise_ _ 1 _).resetEntry p 6 _ _)

theorem freeFrameOf (h : Calm s₀ s) (p n : Nat) : Calm s₀ (s.freeFrameOf p n) := by
  unfold State.freeFrameOf
  split
  · exact (h.freshen _).modTier p _
  · exact h

theorem bridgeDown (h : Calm s₀ s) (n : Nat) : Calm s₀ (s.bridgeDown n) := by
  refine .foldl (fun t p ht => ?_) h
  extract_lets ids u part_ v
  have hv : Calm s₀ v := .foldl (fun _ n hw => hw.freeFrameOf p n) (ht.endCmds ids _)
  split
  · exact .ite (hv.ledgerAbandon p _) hv
  · exact hv

theorem failPersist (h : Calm s₀ s) (k st : Nat) : Calm s₀ (s.failPersist k st) := h.endCmds _ st

theorem raiseFence (h : Calm s₀ s) (l : List Nat) (d : Det) : Calm s₀ (s.raiseFence l d) :=
  .foldl (fun _ p ht => ht.raiseOpen p d) h

theorem endOpenReqs (h : Calm s₀ s) (hit : OpenReq → Bool) : Calm s₀ (s.endOpenReqs hit) := by
  unfold State.endOpenReqs
  refine .foldl (fun u r hu => ?_) h
  split
  · exact .ite (hu.failPersist _ _) (hu.endCmd _ _)
  · split
    · exact (hu.fenceWin _ _).filterAccs _
    · exact hu

end Calm

end Sys2Proof.Machine

/-! ## Heat, coolant and faults of dies (O38) -/

namespace Sys2Proof.Machine

/-- Health that has not moved raises nothing. -/
theorem noteHealth_self (s : State) (pages : List Nat) : s.noteHealth s pages = s := by
  induction pages with
  | nil => rfl
  | cons g pages ih =>
    rw [State.noteHealth, List.foldl_cons, if_pos rfl]
    exact ih

theorem OnlyEvents.stks {s t : State} (h : OnlyEvents s t) : t.stks = s.stks := by
  have e := congrArg State.stks h; exact e
theorem OnlyEvents.dies {s t : State} (h : OnlyEvents s t) : t.dies = s.dies := by
  have e := congrArg State.dies h; exact e

theorem die_modDie_same (s : State) (n : Nat) (f : Die → Die) : die (s.modDie n f) n = f (die s n) := SMap.get_modify_same ..

theorem partOfDie_congr {s t : State} (h : t.settings = s.settings) (n : Nat) : partOfDie t n = partOfDie s n := by
  simp only [partOfDie, diesPer, h]

theorem partOfStack_congr {s t : State} (h : t.settings = s.settings) (n : Nat) : partOfStack t n = partOfStack s n :=
  partOfDie_congr h _

theorem partOfDie_le (s : State) (n : Nat) : partOfDie s n ≤ n := Nat.div_le_self _ _

/-! ### A partition fault -/

theorem State.faultEntry_onlyEvents (s : State) (p i x : Nat) (d : Det) : OnlyEvents s (s.faultEntry p i x d) :=
  State.log_onlyEvents _ _

theorem State.resetEntry_onlyEvents (s : State) (p i x n : Nat) : OnlyEvents s (s.resetEntry p i x n) := State.log_onlyEvents _ _

/-- The partition with its commands ended and marked as faulted, before its events. -/
def State.fallen (s : State) (p : Nat) : State :=
  let t := (s.abortPart p).departPorts (portsOf s p)
  { t with startup := { t.startup with part := t.startup.part.set p 2 } }

theorem faultPart_fallen {s : State} {p : Nat} (h : s.startup.part.getD p 1 ≠ 2) : OnlyEvents (s.fallen p) (s.faultPart p) := by
  rw [State.faultPart, if_neg h]
  exact (State.raise_onlyEvents _ _ _ _).trans (State.resetEntry_onlyEvents _ _ _ _ _)

theorem fallen_startup (s : State) (p : Nat) : (s.fallen p).startup = { s.startup with part := s.startup.part.set p 2 } := by
  have hst : ((s.abortPart p).departPorts (portsOf s p)).startup = s.startup :=
    (((Steady.refl true s).abortPart p).departPorts _).startup rfl
  rw [State.fallen, hst]

/-- A faulted partition shows it. -/
theorem faultPart_part {s : State} {p : Nat} (hp : p < s.startup.part.length) : (s.faultPart p).startup.part.getD p 1 = 2 := by
  by_cases h : s.startup.part.getD p 1 = 2
  · rw [State.faultPart, if_pos h]
    exact h
  · rw [(faultPart_fallen h).startup, fallen_startup]
    simp [List.getD, hp]

theorem fallen_byte (s : State) (p a : Nat) : (s.fallen p).byte a = s.byte a := by
  have habort : CmdFrame s (s.abortPart p) := CmdFrame.foldl _ (fun t i => t.endCmd_frame i _) _ _
  rw [← habort.bytes a, State.fallen, State.departPorts_eq]
  rfl

theorem faultPart_byte (s : State) (p a : Nat) : (s.faultPart p).byte a = s.byte a := by
  by_cases h : s.startup.part.getD p 1 = 2
  · rw [State.faultPart, if_pos h]
  · rw [(faultPart_fallen h).byte, fallen_byte]

/-! ### Stacks (R188–R190) -/

/-- A sample is taken of a stack: its level and what the sensors show. -/
def State.stackSampled (v : State) (st hot lvl : Nat) (below : Option Nat) : State :=
  v.modStack st (fun y =>
    { y.spend v.now with
      sampled := true, level := lvl, belowSince := below, temp := Nat.min 255 hot, peak := Nat.max y.peak (Nat.min 255 hot) })

/-- The level that stood before a sample. -/
def Stack.was (x : Stack) : Nat := if x.sampled then x.level else 0

/-- A change of the level raises THERM_LEVEL. -/
def State.stackNoted (v : State) (st hot lvl : Nat) (below : Option Nat) : State :=
  if lvl = (stack v st).was then v.stackSampled st hot lvl below
  else (v.stackSampled st hot lvl below).raise_ (hbmPage st) 4 { d2 := vals32 [lvl] }

theorem stackNoted_onlyEvents (v : State) (st hot lvl : Nat) (below : Option Nat) :
    OnlyEvents (v.stackSampled st hot lvl below) (v.stackNoted st hot lvl below) := by
  unfold State.stackNoted
  split
  · rfl
  · exact State.raise_onlyEvents _ _ _ _

theorem stack_stackSampled (v : State) (st hot lvl : Nat) (below : Option Nat) :
    stack (v.stackSampled st hot lvl below) st = { (stack v st).spend v.now with
      sampled := true, level := lvl, belowSince := below, temp := Nat.min 255 hot
      peak := Nat.max (stack v st).peak (Nat.min 255 hot) } := by
  rw [State.stackSampled, stack_modStack, if_pos rfl]

/-- What a noted sample leaves. -/
structure StackRead (v : State) (st hot lvl : Nat) (below : Option Nat) (t : State) : Prop where
  level : (stack t st).level = lvl
  below : (stack t st).belowSince = below
  temp : (stack t st).temp = Nat.min 255 hot
  sampled : (stack t st).sampled = true
  event : lvl ≠ (stack v st).was → (t.reg (hbmPage st) Reg.irqStat).testBit 4 = true
  same : lvl = (stack v st).was → { t with stks := v.stks } = v
  bytes : ∀ a, t.byte a = v.byte a

theorem stackNoted_reads {v : State} (hv : v.settings.partitions ≤ 4) (st hot lvl : Nat) (below : Option Nat) :
    StackRead v st hot lvl below (v.stackNoted st hot lvl below) := by
  have hn := stackNoted_onlyEvents v st hot lvl below
  have hs : stack (v.stackNoted st hot lvl below) st = stack (v.stackSampled st hot lvl below) st := by rw [stack, hn.stks, stack]
  rw [stack_stackSampled] at hs
  refine ⟨congrArg Stack.level hs, congrArg Stack.belowSince hs, congrArg Stack.temp hs, congrArg Stack.sampled hs, fun h => ?_,
    fun h => ?_, fun a => hn.byte a⟩
  · rw [State.stackNoted, if_neg h]
    exact State.raise_bit _ _ _ _ (by decide) hv
  · rw [State.stackNoted, if_pos h]
    rfl

/-- What a sample finds: the hottest sensor, the step of R188 from it, and the level under the rule of R406. -/
structure StackHeat (v : State) (st : Nat) (readings : List Nat) (hot lvl : Nat) (r : Nat × Option Nat) : Prop where
  bad : newBad (stack v st).excluded 4 readings = []
  online : (stack v st).offline = false
  hottest : hot = ((sensorsIn (stack v st).excluded readings).map Prod.snd).foldl Nat.max 0
  step : r = if (stack v st).sampled then heatStep (stack v st).level (stack v st).belowSince hot v.now else (heatReach hot, none)
  level : lvl = if stackHeld (stack v st).excluded then Nat.max 2 r.1 else r.1

theorem exec_hbmThermalSample {s : State} {st now : Nat} {readings : List Nat} {hot lvl : Nat} {r : Nat × Option Nat}
    (h : StackHeat (s.at_ now) st readings hot lvl r) : exec (.hbmThermalSample st readings now) s =
      .next (if lvl = 4 then ((s.at_ now).stackNoted st hot lvl r.2).tripStack st
        else ((s.at_ now).stackNoted st hot lvl r.2).cooled) := by
  obtain ⟨hbad, hon, hhot, hstep, hlvl⟩ := h
  show execHbmThermalSample st readings now s = _
  unfold execHbmThermalSample
  generalize s.at_ now = v at hbad hon hhot hstep hlvl
  have hu : v.excludeStack st (newBad (stack v st).excluded 4 readings) = v := by rw [hbad]; rfl
  dsimp only
  rw [hu, hon]
  simp only [Bool.false_eq_true, if_false, Bool.not_false, Bool.and_true, decide_eq_true_eq]
  rw [← hhot, ← hstep, ← hlvl]
  by_cases h4 : lvl = 4
  · rw [if_pos h4, if_pos h4]
    rfl
  · rw [if_neg h4, if_neg h4]
    rfl

/-- Some channels of a stack end their slots and copies. -/
def State.clearChans (w : State) (st : Nat) (l : List Nat) : State :=
  l.foldl (fun u i => u.modChan (32 * st + i) (fun c => { c with mode := 0, copying := none, queue := [], commits := [] })) w

theorem clearChans_copying {st i : Nat} (l : List Nat) (w : State) (h : (chan w (32 * st + i)).copying = none ∨ i ∈ l) :
    (chan (w.clearChans st l) (32 * st + i)).copying = none := by
  induction l generalizing w with
  | nil => exact h.resolve_right List.not_mem_nil
  | cons j l ih =>
    refine ih _ ?_
    rw [chan_modChan]
    split
    next => exact .inl rfl
    next hne =>
      refine h.imp id fun hmem => (List.mem_cons.1 hmem).resolve_left ?_
      rintro rfl
      exact hne rfl

theorem clearChans_rest (st : Nat) (l : List Nat) (w : State) :
    (w.clearChans st l).stks = w.stks ∧ (w.clearChans st l).startup = w.startup ∧ (w.clearChans st l).flash = w.flash ∧
      (w.clearChans st l).regs = w.regs := by
  induction l generalizing w with
  | nil => exact ⟨rfl, rfl, rfl, rfl⟩
  | cons i l ih => exact ih _

theorem tripStack_eq (w : State) (st : Nat) : w.tripStack st =
    w.noteHealth (((w.modStack st (fun x => { x with offline := true })).clearChans st (List.range 32)).faultPart (partOfStack w st))
      [hbmPage st, nmuPage st, Blk.die.page (4 + st)] := by
  unfold State.tripStack State.clearChans
  rfl

/-- A stack that trips loses power, and no channel of it copies a row. -/
theorem tripStack_leaves {w : State} {st : Nat} (hp : partOfStack w st < w.startup.part.length) :
    (stack (w.tripStack st) st).offline = true ∧ (w.tripStack st).startup.part.getD (partOfStack w st) 1 = 2 ∧
      ∀ i < 32, (chan (w.tripStack st) (32 * st + i)).copying = none := by
  rw [tripStack_eq]
  have hcopy (i : Nat) (hi : i < 32) := clearChans_copying (st := st) (List.range 32)
    (w.modStack st (fun x => { x with offline := true })) (.inr (List.mem_range.2 hi))
  obtain ⟨hstks, hstartup, -⟩ := clearChans_rest st (List.range 32) (w.modStack st (fun x => { x with offline := true }))
  generalize (w.modStack st (fun x => { x with offline := true })).clearChans st (List.range 32) = u at hcopy hstks hstartup
  have hcalm : Calm u (w.noteHealth (u.faultPart (partOfStack w st)) [hbmPage st, nmuPage st, Blk.die.page (4 + st)]) :=
    ((Calm.refl u).faultPart _).noteHealth w _
  have hoff : (stack u st).offline = true := by
    rw [stack, hstks]
    refine congrArg Stack.offline ((stack_modStack w st st _).trans (if_pos rfl))
  refine ⟨(hcalm.offline st).trans hoff, ?_, fun i hi => (congrArg Prod.snd (hcalm.chans (32 * st + i))).trans (hcopy i hi)⟩
  rw [(State.noteHealth_onlyEvents _ _ _).startup]
  exact faultPart_part (by rw [hstartup]; exact hp)

/-- PACING_WINDOW (R189). -/
theorem exec_pacingWindow (s : State) (ch now : Nat) : exec (.pacingWindow ch now) s =
    .next (((s.at_ now).modChan ch (fun c =>
      { c with window := 0, windowStart := (s.at_ now).now, share := paceShare (stack s (ch / 32)).level })).flushWins) := rfl

/-! ### Dies (R395, R396, R406) -/

/-- A sample is taken of a die. -/
def State.dieSampled (v : State) (n hot lvl : Nat) (below : Option Nat) (held : Bool) : State :=
  v.modDie n (fun y =>
    { y with
      sampled := true, level := lvl, belowSince := below, temp := Nat.min 255 hot, peak := Nat.max y.peak (Nat.min 255 hot)
      hotHold := held })

/-- The level that stood before a sample. -/
def Die.was (x : Die) : Nat := if x.sampled then x.level else 0

/-- A change of the level raises the level event. -/
def State.dieNoted (v : State) (n hot lvl : Nat) (below : Option Nat) (held : Bool) : State :=
  if lvl = (die v n).was then v.dieSampled n hot lvl below held
  else (v.dieSampled n hot lvl below held).raise_ (Blk.pwr.page n) 2 { d2 := vals32 [lvl] }

theorem die_dieSampled (v : State) (n hot lvl : Nat) (below : Option Nat) (held : Bool) :
    die (v.dieSampled n hot lvl below held) n = { die v n with
      sampled := true, level := lvl, belowSince := below, temp := Nat.min 255 hot
      peak := Nat.max (die v n).peak (Nat.min 255 hot), hotHold := held } := by
  rw [State.dieSampled, die_modDie_same]

/-- What a sample leaves of its die. -/
structure DieRead (v : State) (n hot lvl : Nat) (below : Option Nat) (t : State) : Prop where
  sampled : (die t n).sampled = true
  level : (die t n).level = lvl
  below : (die t n).belowSince = below
  temp : (die t n).temp = Nat.min 255 hot
  peak : (die t n).peak = Nat.max (die v n).peak (Nat.min 255 hot)

theorem dieSampled_reads (v : State) (n hot lvl : Nat) (below : Option Nat) (held : Bool) :
    DieRead v n hot lvl below (v.dieSampled n hot lvl below held) := by
  have h := die_dieSampled v n hot lvl below held
  exact ⟨congrArg Die.sampled h, congrArg Die.level h, congrArg Die.belowSince h, congrArg Die.temp h, congrArg Die.peak h⟩

/-- Wakes and power do not show in what was read. -/
theorem DieRead.of_unwoken {v t u : State} {n hot lvl : Nat} {below : Option Nat} {b : Bool} (h : DieRead v n hot lvl below t)
    (hu : (die u n).unwoken = { (die t n).unwoken with offline := b }) : DieRead v n hot lvl below u :=
  ⟨(congrArg Die.sampled hu).trans h.sampled, (congrArg Die.level hu).trans h.level, (congrArg Die.belowSince hu).trans h.below,
    (congrArg Die.temp hu).trans h.temp, (congrArg Die.peak hu).trans h.peak⟩

theorem dieNoted_onlyEvents (v : State) (n hot lvl : Nat) (below : Option Nat) (held : Bool) :
    OnlyEvents (v.dieSampled n hot lvl below held) (v.dieNoted n hot lvl below held) := by
  unfold State.dieNoted
  split
  · rfl
  · exact State.raise_onlyEvents _ _ _ _

/-- What a noted sample leaves. -/
structure DieNoted (v : State) (n hot lvl : Nat) (below : Option Nat) (t : State) : Prop where
  read : DieRead v n hot lvl below t
  event : lvl ≠ (die v n).was → (t.reg (Blk.pwr.page n) Reg.irqStat).testBit 2 = true
  aside : AsideFromEvents { v with dies := t.dies } t

theorem dieNoted_leaves {v : State} (hv : v.settings.partitions ≤ 4) (n hot lvl : Nat) (below : Option Nat) (held : Bool) :
    DieNoted v n hot lvl below (v.dieNoted n hot lvl below held) := by
  have hd := (dieNoted_onlyEvents v n hot lvl below held).dies
  have hn : die (v.dieNoted n hot lvl below held) n = die (v.dieSampled n hot lvl below held) n := by rw [die, hd, die]
  refine ⟨(dieSampled_reads v n hot lvl below held).of_unwoken (b := (die (v.dieSampled n hot lvl below held) n).offline)
    (by rw [hn]; rfl), fun h => ?_, ?_⟩
  · rw [State.dieNoted, if_neg h]
    exact State.raise_bit _ _ _ _ (by decide) hv
  · rw [hd]
    unfold State.dieNoted
    split
    · exact .refl _
    · exact State.raise_aside (v.dieSampled n hot lvl below held) _ _ _ hv

/-- What a sample finds: the hottest sensor, the step of R188 from it, and the level under the rule of R406. -/
structure DieHeat (v : State) (n : Nat) (readings : List Nat) (hot lvl : Nat) (r : Nat × Option Nat) (held : Bool) : Prop where
  bad : newBad (die v n).excluded (dieSensors n) (readings.take (dieSensors n)) = []
  online : (die v n).offline = false
  hottest : hot = ((sensorsIn (die v n).excluded (readings.take (dieSensors n))).map Prod.snd).foldl Nat.max 0
  step : r = if (die v n).sampled then heatStep (die v n).level (die v n).belowSince hot v.now else (heatReach hot, none)
  held : held = decide (dieSensors n < 2 * popCount (dieSensors n) (die v n).excluded)
  level : lvl = if dieSensors n < 2 * popCount (dieSensors n) (die v n).excluded then Nat.max 2 r.1 else r.1

section
variable {s : State} {n now : Nat} {readings : List Nat} {hot lvl : Nat} {r : Nat × Option Nat} {held : Bool}

theorem exec_dieThermalSample (hn : n < 4 ∨ n = 12) (h : DieHeat (s.at_ now) n readings hot lvl r held) :
    exec (.dieThermalSample n readings now) s = .next (
      if n = 12 then
        if 110 ≤ hot then ((s.at_ now).dieSampled n hot lvl r.2 held).tripModule false
        else ((s.at_ now).dieSampled n hot lvl r.2 held).cooled
      else if lvl = 4 then ((s.at_ now).dieNoted n hot lvl r.2 held).tripDie n
      else ((s.at_ now).dieNoted n hot lvl r.2 held).cooled) := by
  obtain ⟨hbad, hon, hhot, hstep, hheld, hlvl⟩ := h
  show execDieThermalSample n readings now s = _
  unfold execDieThermalSample
  generalize s.at_ now = v at hbad hon hhot hstep hheld hlvl
  have hu : v.noteHealth (v.excludeDie n (newBad (die v n).excluded (dieSensors n) (readings.take (dieSensors n))))
      (dieHealthPages n) = v := by
    rw [hbad]
    exact noteHealth_self v _
  dsimp only
  rw [hu, hon, if_pos (by simpa using hn)]
  simp only [Bool.false_eq_true, if_false, Bool.not_false, Bool.and_true, decide_eq_true_eq]
  rw [← hhot, ← hstep, ← hheld, ← hlvl]
  by_cases h12 : n = 12
  · rw [if_pos h12, if_pos h12]
    by_cases h110 : 110 ≤ hot
    · rw [if_pos h110, if_pos h110]
      rfl
    · rw [if_neg h110, if_neg h110]
      rfl
  · rw [if_neg h12, if_neg h12]
    by_cases h4 : lvl = 4
    · rw [if_pos h4, if_pos h4]
      rfl
    · rw [if_neg h4, if_neg h4]
      rfl

theorem exec_dieThermalSample_none (hn : ¬(n < 4 ∨ n = 12)) : exec (.dieThermalSample n readings now) s = .next (s.at_ now) := by
  show execDieThermalSample n readings now s = _
  unfold execDieThermalSample
  rw [if_neg (by simpa using hn)]

end

/-- A compute die that trips loses power and faults its partition, and keeps what was read of it. -/
theorem tripDie_leaves {w : State} {n : Nat} (hp : partOfDie w n < w.startup.part.length) :
    (die (w.tripDie n) n).unwoken = { (die w n).unwoken with offline := true } ∧
      (w.tripDie n).startup.part.getD (partOfDie w n) 1 = 2 := by
  have hcalm : Calm (w.modDie n (fun x => { x with offline := true })) (w.tripDie n) := ((Calm.refl _).faultPart _).noteHealth w _
  refine ⟨(hcalm.dies n).trans ?_, ?_⟩
  · rw [die_modDie_same]
    rfl
  · unfold State.tripDie
    dsimp only
    rw [(State.noteHealth_onlyEvents _ _ _).startup]
    exact faultPart_part hp

/-! ### Coolant (R459–R462) -/

/-- The coolant after a sample. -/
def Coolant.sampled (c : Coolant) (tc fl : Int) (now : Nat) : Coolant :=
  { c with
    temp := tc, flow := fl, cond := coolantCond tc fl
    limitPend := if coolantCond tc fl = 0 then some (none, now) else if coolantCond tc fl = 1 then some (some (coolantLimit tc fl), now)
      else if coolantCond tc fl = 2 then c.limitPend else some (some 1200000, now)
    tripSince := if coolantCond tc fl = 2 then some (c.tripSince.getD now) else none
    normalSince := if coolantCond tc fl = 0 then some (c.normalSince.getD now) else none }

section
variable {s : State} {tc fl : Int} {now : Nat}

theorem exec_coolantSample_off (h : s.startup.powered = false) : exec (.coolantSample tc fl now) s = .next (s.at_ now) := by
  show execCoolantSample tc fl now s = _
  unfold execCoolantSample
  dsimp only
  rw [if_neg (by rw [show (s.at_ now).startup.powered = false from h]; exact Bool.false_ne_true)]

theorem exec_coolantSample (h : s.startup.powered = true) : exec (.coolantSample tc fl now) s =
    .next ({ s.at_ now with coolant := s.coolant.sampled tc fl (s.at_ now).now } : State).endTrip := by
  show execCoolantSample tc fl now s = _
  unfold execCoolantSample
  dsimp only
  rw [if_pos (show (s.at_ now).startup.powered = true from h), Coolant.sampled]
  generalize coolantCond tc fl = k
  match k with
  | 0 | 1 | 2 | k + 3 => rfl

theorem exec_coolantTrip_none (h : s.coolant.tripSince = none) : exec (.coolantTrip now) s = .next (s.at_ now) := by
  show execCoolantTrip now s = _
  unfold execCoolantTrip
  dsimp only
  rw [show (s.at_ now).coolant.tripSince = none from h]

theorem exec_coolantTrip {u : Nat} (h : s.coolant.tripSince = some u) : exec (.coolantTrip now) s =
    .next (if u + 1000000000 ≤ (s.at_ now).now ∧ s.startup.powered = true then (s.at_ now).tripModule true else s.at_ now) := by
  show execCoolantTrip now s = _
  unfold execCoolantTrip
  dsimp only
  rw [show (s.at_ now).coolant.tripSince = some u from h]
  dsimp only
  by_cases hc : u + 1000000000 ≤ (s.at_ now).now ∧ s.startup.powered = true
  · rw [if_pos hc, if_pos (by simpa using hc)]
  · rw [if_neg hc, if_neg (by simpa using hc)]

end

/-! ### Faults of what feeds a die (R406) -/

/-- A die is marked as faulted, with its entry and events, before its partition falls. -/
theorem faultDie_of_clear {s : State} {n : Nat} (h : (die s n).faulted = false) :
    ∃ v, OnlyEvents (s.modDie n (fun d => { d with faulted := true })) v ∧ s.faultDie n =
      if n < 4 then v.faultPart (partOfDie s n) else if n < 12 then v.faultPart (partOfStack s (n - 4))
      else { v with startup := { v.startup with dead := true } } := by
  rw [State.faultDie, if_neg (by rw [h]; exact Bool.false_ne_true)]
  exact ⟨_, (State.faultEntry_onlyEvents _ _ _ _ _).noteHealth s _, rfl⟩

/-- What the fault of a die leaves behind. -/
structure DieFaulted (s : State) (n : Nat) (t : State) : Prop where
  die : (die t n).faulted = true
  compute : n < 4 → t.startup.part.getD (partOfDie s n) 1 = 2
  stack : 4 ≤ n → n < 12 → t.startup.part.getD (partOfStack s (n - 4)) 1 = 2
  hub : n = 12 → t.startup.dead = true
  bytes : ∀ a, t.byte a = s.byte a

theorem faultDie_faulted {s : State} {n : Nat} (hlen : s.startup.part.length = 4) (hn : n < 13) (h : (die s n).faulted = false) :
    DieFaulted s n (s.faultDie n) := by
  obtain ⟨v, hv, he⟩ := faultDie_of_clear h
  have hd : (die v n).faulted = true := by
    rw [die, hv.dies]
    exact congrArg Die.faulted (die_modDie_same s n _)
  have hb (a : Nat) : v.byte a = s.byte a := hv.byte a
  have hl : v.startup.part.length = 4 := (congrArg (fun x : Startup => x.part.length) hv.startup).trans hlen
  have hpart (p : Nat) : (die (v.faultPart p) n).faulted = true :=
    (congrArg Die.faulted (((Calm.refl v).faultPart p).dies n)).trans hd
  have hbyte (p a : Nat) : (v.faultPart p).byte a = s.byte a := (faultPart_byte v p a).trans (hb a)
  rw [he]
  by_cases h4 : n < 4
  · rw [if_pos h4]
    exact ⟨hpart _, fun _ => faultPart_part (by have := partOfDie_le s n; omega), fun h => by omega, fun h => by omega, hbyte _⟩
  · rw [if_neg h4]
    by_cases h12 : n < 12
    · rw [if_pos h12]
      refine ⟨hpart _, fun h => by omega, fun _ _ => faultPart_part ?_, fun h => by omega, hbyte _⟩
      have : partOfStack s (n - 4) ≤ (n - 4) / 2 := partOfDie_le s _
      omega
    · rw [if_neg h12]
      exact ⟨hd, fun h => by omega, fun _ h => absurd h h12, fun _ => rfl, hb⟩

/-- A die that feeds nothing, or is faulted already, is not faulted. -/
theorem partFault_of_unfed {s : State} {n : Nat}
    (h : ¬(n < 13 ∧ 3 ≤ s.startup.phase ∧ s.startup.powered = true ∧ (die s n).faulted = false)) : s.partFault n = s := by
  unfold State.partFault
  split
  next hc =>
    simp only [Bool.and_eq_true, decide_eq_true_eq] at hc
    obtain ⟨⟨hn, hph⟩, hpow⟩ := hc
    rw [State.faultDie, if_pos]
    exact Bool.not_eq_false _ ▸ fun hf => h ⟨hn, hph, hpow, hf⟩
  next => rfl

theorem partFault_of_fed {s : State} {n : Nat} (hn : n < 13) (hph : 3 ≤ s.startup.phase) (hpow : s.startup.powered = true) :
    s.partFault n = s.faultDie n := by
  rw [State.partFault, if_pos (by simp [hn, hph, hpow])]

/-- Settles O38: samples by `exec_hbmThermalSample` and `exec_dieThermalSample`, coolant by the condition of a sample, and faults of
a die's supply by `faultDie_faulted`. -/
theorem heatCoolantAndDieFaults : Obligations.HeatCoolantAndDieFaults := by
  constructor
  · intro s st now readings hs v x hot r lvl
    have hle := sound_partitions hs
    refine ⟨fun hbad hon h4 => ?_, fun hbad hon h4 hp => ?_, fun ch => ?_⟩
    · have hheat : StackHeat v st readings hot lvl r := ⟨hbad, hon, rfl, rfl, rfl⟩
      have he := exec_hbmThermalSample hheat
      rw [if_neg h4] at he
      have hn := stackNoted_reads (v := v) hle st hot lvl r.2
      exact ⟨_, he, hn.level, hn.below, hn.temp, hn.sampled, hn.event, hn.same, hn.bytes⟩
    · have hheat : StackHeat v st readings hot lvl r := ⟨hbad, hon, rfl, rfl, rfl⟩
      have he := exec_hbmThermalSample hheat
      rw [if_pos h4] at he
      have hn := stackNoted_onlyEvents v st hot lvl r.2
      have hpart : partOfStack (v.stackNoted st hot lvl r.2) st = partOfStack s st := partOfStack_congr hn.settings st
      have hlen : (v.stackNoted st hot lvl r.2).startup.part.length = s.startup.part.length :=
        congrArg (fun x : Startup => x.part.length) hn.startup
      obtain ⟨hoff, hdown, hcopy⟩ := tripStack_leaves (w := v.stackNoted st hot lvl r.2) (st := st) (by rw [hpart, hlen]; exact hp)
      rw [hpart] at hdown
      exact ⟨_, he, hoff, hdown, hcopy⟩
    · refine ⟨_, exec_pacingWindow s ch now, ?_, fun c hc => ?_, rfl⟩
      · rw [chan_modChan, if_pos rfl]
        rfl
      · rw [chan_modChan, if_neg hc]
        rfl
  · intro s now hs hlen v faulted
    have hle := sound_partitions hs
    refine ⟨fun n readings hn hon => ?_, fun n readings hn => exec_dieThermalSample_none hn,
      fun tc fl => ⟨exec_coolantSample_off, ?_⟩, exec_coolantTrip_none, fun u => exec_coolantTrip, fun n => ?_⟩
    · intro x rs hot r lvl was read hbad
      have hheat : DieHeat v n readings hot lvl r (decide (dieSensors n < 2 * popCount (dieSensors n) x.excluded)) :=
        ⟨hbad, hon, rfl, rfl, rfl, rfl⟩
      generalize decide (dieSensors n < 2 * popCount (dieSensors n) x.excluded) = held at hheat
      have he := exec_dieThermalSample hn hheat
      have hr := dieNoted_leaves (v := v) hle n hot lvl r.2 held
      refine ⟨fun h h4 => ?_, fun h h4 => ?_, fun h => ?_⟩
      · rw [if_neg (by omega), if_neg h4] at he
        obtain ⟨hsampled, hlevel, hbelow, htemp, hpeak⟩ := hr.read
        exact ⟨_, he, ⟨hsampled, hlevel, hbelow, htemp, hpeak⟩, hr.event, hr.aside⟩
      · rw [if_neg (by omega), if_pos h4] at he
        have hn := dieNoted_onlyEvents v n hot lvl r.2 held
        have hpart : partOfDie (v.dieNoted n hot lvl r.2 held) n = partOfDie s n := partOfDie_congr hn.settings n
        have hl : (v.dieNoted n hot lvl r.2 held).startup.part.length = 4 :=
          (congrArg (fun x : Startup => x.part.length) hn.startup).trans hlen
        have hd := partOfDie_le s n
        obtain ⟨hdie, hdown⟩ := tripDie_leaves (w := v.dieNoted n hot lvl r.2 held) (n := n) (by omega)
        rw [hpart] at hdown
        obtain ⟨hsampled, hlevel, hbelow, htemp, hpeak⟩ := hr.read.of_unwoken hdie
        exact ⟨_, he, ⟨hsampled, hlevel, hbelow, htemp, hpeak⟩, congrArg Die.offline hdie, hdown⟩
      · rw [if_pos h] at he
        obtain ⟨hsampled, hlevel, hbelow, htemp, hpeak⟩ := dieSampled_reads v n hot lvl r.2 held
        refine ⟨v.dieSampled n hot lvl r.2 held, ⟨hsampled, hlevel, hbelow, htemp, hpeak⟩, rfl, he.trans ?_⟩
        split <;> rfl
    · intro hpow bad trip warm
      refine ⟨_, exec_coolantSample hpow, rfl, rfl, rfl, rfl, fun h => ?_, fun h ht => ?_, fun h ht hw => ?_, fun h ht hw => ?_⟩
      · have hk : coolantCond tc fl = 3 := if_pos h
        dsimp only [Coolant.sampled]
        rw [hk]
        exact ⟨rfl, rfl, rfl, rfl⟩
      · have hk : coolantCond tc fl = 2 := (if_neg h).trans (if_pos ht)
        dsimp only [Coolant.sampled]
        rw [hk]
        exact ⟨rfl, rfl, rfl, rfl⟩
      · have hk : coolantCond tc fl = 1 := (if_neg h).trans ((if_neg ht).trans (if_pos hw))
        dsimp only [Coolant.sampled]
        rw [hk]
        exact ⟨rfl, rfl, rfl, rfl⟩
      · have hk : coolantCond tc fl = 0 := (if_neg h).trans ((if_neg ht).trans (if_neg hw))
        dsimp only [Coolant.sampled]
        rw [hk]
        exact ⟨rfl, rfl, rfl, rfl⟩
    · intro fed
      refine ⟨rfl, fun hfed => ?_, fun ⟨hn, hph, hpow, hclear⟩ => ?_⟩
      · exact congrArg Host.Outcome.next (partFault_of_unfed hfed)
      · obtain ⟨hdie, hcompute, hstack, hhub, hbytes⟩ := faultDie_faulted hlen hn hclear
        exact ⟨_, congrArg Host.Outcome.next (partFault_of_fed hn hph hpow), hdie, hcompute, hstack, hhub, hbytes⟩

end Sys2Proof.Machine

/-! ## Xanna: tenants and units (O54) -/

namespace Sys2Proof.Machine

/-! ### A partition that has stopped -/

theorem sec_modSec (s : State) (p q : Nat) (f : Sec → Sec) : sec (s.modSec p f) q = if q = p then f (sec s p) else sec s q :=
  SMap.get_modify ({} : Sec) s.secs p q f

/-- The partition runs nothing: its program and its sessions have stopped, its streams and window accesses are gone, and each of its
commands has ended. -/
structure Halted (p : Nat) (t : State) : Prop where
  steer : (sec t p).steer = 0
  sessions : (sec t p).spdm.sessions = []
  persists : ∀ y ∈ t.persists, y.part ≠ p
  cmds : ∀ c ∈ t.cmds, c.part = p → c.status.isSome = true
  accs : ∀ a ∈ t.pcie.accs, addrPart a.addr ≠ p

/-- Background work starts nothing there. -/
theorem Halted.calm {p : Nat} {s t : State} (h : Halted p s) (k : Calm s t) : Halted p t where
  steer := by rw [sec, k.secs]; exact h.steer
  sessions := by rw [sec, k.secs]; exact h.sessions
  persists y hy := by
    obtain ⟨x, hx, hp⟩ := k.persists y hy
    exact hp ▸ h.persists x hx
  cmds c hc hp := by
    obtain ⟨d, hd, -, hdp, hst⟩ := k.cmds.origin c hc
    exact hst (h.cmds d hd (hdp.trans hp))
  accs a ha := h.accs a (k.accs ha)

/-- Commands stand in the order of their numbers. -/
def InOrder (s : State) : Prop := s.cmds.Pairwise (fun a b => a.id < b.id)

theorem FewerCmds.inOrder {s t : State} (h : FewerCmds s.cmds t.cmds) (hs : InOrder s) : InOrder t :=
  List.pairwise_map.1 ((List.pairwise_map.2 hs : (s.cmds.map Cmd.id).Pairwise (· < ·)).sublist h.ids)

/-- After a command is ended, no command of its number is unfinished. -/
theorem endCmd_isSome {s : State} (hs : InOrder s) (id st : Nat) {c : Cmd} (hc : c ∈ (s.endCmd id st).cmds) (hid : c.id = id) :
    c.status.isSome = true := by
  have hend := State.cmd?_of_mem (((Calm.refl s).endCmd id st).cmds.inOrder hs) hc
  rw [hid] at hend
  cases hd : s.cmd? id with
  | none =>
    have he : s.endCmd id st = s := by simp only [State.endCmd, hd]
    rw [he, hd] at hend
    cases hend
  | some d =>
    by_cases hst : d.status = none
    · rw [State.endCmd_cmd? s id st d hd hst] at hend
      rw [← Option.some.inj hend]
      rfl
    · have hsome : d.status.isSome = true := Option.isSome_iff_ne_none.2 hst
      have he : s.endCmd id st = s := by simp only [State.endCmd, hd, hsome, if_true]
      rw [he, hd] at hend
      exact Option.some.inj hend ▸ hsome

theorem endCmds_isSome (st : Nat) (ids : List Nat) {s : State} (hs : InOrder s) :
    ∀ c ∈ (ids.foldl (fun t i => t.endCmd i st) s).cmds, c.id ∈ ids → c.status.isSome = true := by
  induction ids generalizing s with
  | nil => exact fun c _ h => absurd h List.not_mem_nil
  | cons i ids ih =>
    have hcalm := (Calm.refl s).endCmd i st
    have hin : InOrder (s.endCmd i st) := hcalm.cmds.inOrder hs
    intro c hc hid
    by_cases hi : c.id = i
    · obtain ⟨d, hd, hdid, -, hst⟩ := ((Calm.refl (s.endCmd i st)).endCmds ids st).cmds.origin c hc
      exact hst (endCmd_isSome hs i st hd (hdid.trans hi))
    · exact ih hin c hc ((List.mem_cons.1 hid).resolve_left hi)

theorem abortPart_ended {s : State} (hs : InOrder s) {p : Nat} : ∀ c ∈ (s.abortPart p).cmds, c.part = p → c.status.isSome = true := by
  intro c hc hp
  obtain ⟨d, hd, hid, hdp, -⟩ := ((Calm.refl s).abortPart p).cmds.origin c hc
  refine endCmds_isSome St.aborted _ hs c hc ?_
  exact List.mem_map.2 ⟨d, List.mem_filter.2 ⟨hd, by simpa using hdp.trans hp⟩, hid⟩

theorem dropPersists_persists (s : State) (f : Persist → Bool) : ∀ y ∈ (s.dropPersists f).persists, f y = false := by
  intro y hy
  unfold State.dropPersists at hy
  simpa using (List.mem_filter.1 hy).2

/-- No window access of the partition waits once they are fenced. -/
theorem fenceWins_accs (s : State) (p : Nat) : ∀ a ∈ (s.fenceWins p).pcie.accs, addrPart a.addr ≠ p := by
  intro a ha
  unfold State.fenceWins at ha
  extract_lets hit pcie site t at ha
  have h : Calm t (hit.foldl (fun t a => t.fenceWin a.win (if a.data.isNone then some a.len else none)) t) :=
    .foldl (fun _ a hu => hu.fenceWin a.win _) (.refl t)
  simpa using (List.mem_filter.1 (h.accs ha)).2

/-- The partition's program and its sessions stop. -/
def State.silenced (s : State) (p : Nat) : State :=
  (s.stopSteer p 0).modSec p (fun x => { x with spdm := { x.spdm with sessions := [] } })

theorem silenced_cmds (s : State) (p : Nat) : (s.silenced p).cmds = s.cmds := by
  simp only [State.silenced, State.stopSteer, State.modSec]

theorem silenced_persists (s : State) (p : Nat) : (s.silenced p).persists = s.persists := by
  simp only [State.silenced, State.stopSteer, State.modSec]

theorem silenced_sec (s : State) (p : Nat) : sec (s.silenced p) p =
    { sec s p with steer := 0, imageKib := 0, meas4 := 0, spdm := { (sec s p).spdm with sessions := [] } } := by
  have h := sec_modSec s p p (fun x => { x with steer := 0, imageKib := 0, meas4 := 0 })
  rw [if_pos rfl] at h
  rw [State.silenced, sec_modSec, if_pos rfl]
  exact congrArg (fun x : Sec => { x with spdm := { x.spdm with sessions := [] } }) h

theorem haltPart_halted {s : State} (hs : InOrder s) (p : Nat) : Halted p (s.haltPart p) := by
  have hdrop := (Calm.refl (s.abortPart p)).dropPersists (fun x => x.part == p)
  have hgone := dropPersists_persists (s.abortPart p) (fun x => x.part == p)
  have hcmds : ∀ c ∈ ((s.abortPart p).dropPersists (fun x => x.part == p)).cmds, c.part = p → c.status.isSome = true := by
    intro c hc hp
    obtain ⟨d, hd, -, hdp, hst⟩ := hdrop.cmds.origin c hc
    exact hst (abortPart_ended hs d hd (hdp.trans hp))
  unfold State.haltPart
  generalize (s.abortPart p).dropPersists (fun x => x.part == p) = u at hgone hcmds
  have hcalm : Calm (u.silenced p) ((u.silenced p).fenceWins p) := (Calm.refl _).fenceWins p
  have hsec : sec ((u.silenced p).fenceWins p) p = sec (u.silenced p) p := by rw [sec, hcalm.secs, sec]
  rw [silenced_sec] at hsec
  refine ⟨congrArg Sec.steer hsec, congrArg (fun x : Sec => x.spdm.sessions) hsec, fun y hy hp => ?_,
    fun c hc hp => ?_, fenceWins_accs _ p⟩
  · obtain ⟨x, hx, hxp⟩ := hcalm.persists y hy
    rw [silenced_persists] at hx
    exact ne_of_beq_false (hgone x hx) (hxp.trans hp)
  · obtain ⟨d, hd, -, hdp, hst⟩ := hcalm.cmds.origin c hc
    rw [silenced_cmds] at hd
    exact hst (hcmds d hd (hdp.trans hp))

/-- A skim that starts has halted the partition, and stands there as the one under way. -/
theorem startSkim_halted {s : State} (hs : InOrder s) (p : Nat) (b : Binding) : Halted p (s.startSkim p b) ∧
    (sec (s.startSkim p b) p).skim = some { b with since := s.now } ∧ (sec (s.startSkim p b) p).queued = none := by
  have hin : InOrder (s.departPorts (portsOf s p)) := ((Calm.refl s).departPorts _).cmds.inOrder hs
  have ht : Halted p ((((s.departPorts (portsOf s p)).haltPart p).completeAll p).wakeAll p) :=
    (haltPart_halted hin p).calm (((Calm.refl _).completeAll p).wakeAll p)
  have hskim : s.startSkim p b = ((((s.departPorts (portsOf s p)).haltPart p).completeAll p).wakeAll p).modSec p
    (fun x => { x with skim := some { b with since := s.now }, queued := none }) := rfl
  rw [hskim]
  generalize (((s.departPorts (portsOf s p)).haltPart p).completeAll p).wakeAll p = u at ht
  have hsec := sec_modSec u p p (fun x => { x with skim := some { b with since := s.now }, queued := none })
  rw [if_pos rfl] at hsec
  exact ⟨⟨(congrArg Sec.steer hsec).trans ht.steer, (congrArg (fun x : Sec => x.spdm.sessions) hsec).trans ht.sessions,
    ht.persists, ht.cmds, ht.accs⟩, congrArg Sec.skim hsec, congrArg Sec.queued hsec⟩

/-! ### TENANT_BIND and TENANT_RELEASE -/

/-- A row of a binding or release, with what it asks for. -/
theorem exec_bindRow {s : State} {n seq p typ : Nat} {tenant : BitVec 32} {root : BitVec 384} {ovr : Bool} {row : Instr} {b : Binding}
    (h : (row, typ, b) ∈ [(Instr.tenantBind n seq p tenant root ovr, 0x0020,
        ({ tenant := tenant, root := root, overwrite := ovr, release := false } : Binding)),
      (Instr.tenantRelease n seq p ovr, 0x0021, { overwrite := ovr, release := true })]) :
    exec row s = .next (s.xanna n typ seq (fun t =>
      asked (decide (p < t.settings.partitions)) (t.bindRequest p b) xPending t)) := by
  simp only [List.mem_cons, List.not_mem_nil, or_false, Prod.mk.injEq] at h
  obtain ⟨rfl, rfl, rfl⟩ | ⟨rfl, rfl, rfl⟩ := h <;> rfl

theorem bindRequest_of_busy {s : State} {p : Nat} (h : (sec s p).skim.isSome = true ∨ (sec s p).overwriting.isSome = true ∨
    s.startup.phase ≠ 7 ∨ s.startup.part.getD p 1 ≠ 0) (b : Binding) :
    s.bindRequest p b = s.modSec p (fun x => { x with queued := some b }) := by
  rw [State.bindRequest, if_pos]
  simpa [or_assoc] using h

theorem bindRequest_of_free {s : State} {p : Nat} (h : ¬((sec s p).skim.isSome = true ∨ (sec s p).overwriting.isSome = true ∨
    s.startup.phase ≠ 7 ∨ s.startup.part.getD p 1 ≠ 0)) (b : Binding) : s.bindRequest p b = s.startSkim p b := by
  rw [State.bindRequest, if_neg]
  simpa [or_assoc] using h

/-! ### CHANNEL_RETIRE_REQUEST (R183, R184) -/

theorem retireChan_of_gone {s : State} {ch : Nat} (h : 2 ≤ (chan s ch).st ∨ ch ∈ s.flash.retiredChans) : s.retireChan ch = s := by
  rw [State.retireChan, if_pos (by simpa using h)]

theorem retireChan_of_new {s : State} {ch : Nat} (h1 : (chan s ch).st ≤ 1) (h2 : ch ∉ s.flash.retiredChans) : s.retireChan ch =
    if retiring s (partOfChan s ch) then { s with flash := { s.flash with retiredChans := s.flash.retiredChans ++ [ch] } }
    else { s with flash := { s.flash with retiredChans := s.flash.retiredChans ++ [ch] } : State }.startMove ch := by
  rw [State.retireChan, if_neg (by simp [h2]; omega)]

/-- A channel whose move starts is RETIRING; flash is as it was. -/
theorem startMove_moves (s : State) (ch : Nat) : (s.startMove ch).flash = s.flash ∧ (chan (s.startMove ch) ch).st = 2 := by
  unfold State.startMove
  extract_lets p work t u
  have hu : Calm t u := .foldl (fun _ i ht => ht.denyUnit ch i) (.refl t)
  have hc : Calm t (s.noteHealth ((u.raise_ (hbmPage (ch / 32)) 3 (chanDet ch [])).countFault (chanPage ch)) (chanHealthPages ch)) :=
    ((hu.raise_ _ 3 _).countFault _).noteHealth s _
  refine ⟨hc.flash, (congrArg Prod.fst (hc.chans ch)).trans ?_⟩
  have ht : (chan t ch).st = 2 := by
    have hm : chan t ch = chan (s.modChan ch (fun c =>
      { c with st := 2, moved := 0, mode := if c.mode = 0 then 0 else 3, outStart := s.now })) ch := rfl
    rw [hm, chan_modChan, if_pos rfl]
  exact ht

/-! ### RETURN_TO_SERVICE (R183, R278, R313, R404, R405) -/

theorem not_mem_filter_ne {α : Type} [BEq α] [LawfulBEq α] (l : List α) (a : α) : a ∉ l.filter (· != a) := by
  intro h
  simpa using (List.mem_filter.1 h).2

theorem channelBack_back {s : State} {ch : Nat} (h : (chan s ch).st = 3) :
    (chan (s.channelBack ch) ch).st = 0 ∧ (chan (s.channelBack ch) ch).moved = 0 ∧ ch ∉ (s.channelBack ch).flash.retiredChans := by
  rw [State.channelBack, if_neg (by simp [h])]
  dsimp only
  have hn := fun t => State.noteHealth_onlyEvents s t (chanHealthPages ch)
  have hm : chan (s.modChan ch (fun c => { c with st := 0, moved := 0 })) ch = { chan s ch with st := 0, moved := 0 } := by
    rw [chan_modChan, if_pos rfl]
  refine ⟨?_, ?_, ?_⟩
  · exact (congrArg Chan.st (chan_congr (hn _).chans ch)).trans (congrArg Chan.st hm)
  · exact (congrArg Chan.moved (chan_congr (hn _).chans ch)).trans (congrArg Chan.moved hm)
  · rw [(hn _).flash]
    exact not_mem_filter_ne _ ch

theorem channelBack_stays {s : State} {ch : Nat} (h : (chan s ch).st ≠ 3) : s.channelBack ch = s := by
  rw [State.channelBack, if_pos (by simpa using h)]

theorem laneBack_degraded {s : State} {ch : Nat} (h : (chan s ch).st = 1) :
    (chan (s.laneBack ch) ch).st = 0 ∧ (chan (s.laneBack ch) ch).badSymbol = none := by
  have hm : chan (s.modChan ch (fun c => { c with st := 0, badSymbol := none, symErr := [] })) ch =
      { chan s ch with st := 0, badSymbol := none, symErr := [] } := by
    rw [chan_modChan, if_pos rfl]
  rw [State.laneBack, if_pos h, chan_congr (State.noteHealth_onlyEvents _ _ _).chans, hm]
  exact ⟨rfl, rfl⟩

theorem laneBack_spare {s : State} {ch : Nat} (h : (chan s ch).st ≠ 1) :
    (chan (s.laneBack ch) ch).lanesUsed = (chan s ch).lanesUsed - 1 := by
  rw [State.laneBack, if_neg h]
  have hm := chan_modChan s ch ch (fun c => { c with lanesUsed := (chan s ch).lanesUsed - 1 })
  rw [if_pos rfl] at hm
  exact congrArg Chan.lanesUsed hm

theorem port_modPort_same (s : State) (q : Nat) (f : Port → Port) : port (s.modPort q f) q = f (port s q) := SMap.get_modify_same ..

theorem coreDom_modCoreDom_same (s : State) (n : Nat) (f : CoreDom → CoreDom) :
    SMap.get ({} : CoreDom) (s.modCoreDom n f).coreDoms n = f (SMap.get {} s.coreDoms n) := SMap.get_modify_same ..

theorem OnlyEvents.ports {s t : State} (h : OnlyEvents s t) : t.ports = s.ports := by
  have e := congrArg State.ports h; exact e
theorem OnlyEvents.pkgRej {s t : State} (h : OnlyEvents s t) : t.pkgRej = s.pkgRej := by
  have e := congrArg State.pkgRej h; exact e
theorem OnlyEvents.coreDoms {s t : State} (h : OnlyEvents s t) : t.coreDoms = s.coreDoms := by
  have e := congrArg State.coreDoms h; exact e

theorem unitBack_wavelength (s : State) (q w : Nat) :
    (port (s.unitBack (.wavelength q w)) q).retiredWl = (port s q).retiredWl &&& ~~~((1 : BitVec 16) <<< w) ∧
      (q, w) ∉ (s.unitBack (.wavelength q w)).flash.retiredWls :=
  ⟨congrArg Port.retiredWl (port_modPort_same s q (fun x => { x with retiredWl := x.retiredWl &&& ~~~((1 : BitVec 16) <<< w) })),
    not_mem_filter_ne _ _⟩

theorem unitBack_port (s : State) (q : Nat) : (port (s.unitBack (.port q)) q).st = (if (port s q).st = 2 then 0 else (port s q).st) ∧
    q ∉ (s.unitBack (.port q)).flash.retiredPorts := by
  have hn := fun t => State.noteHealth_onlyEvents s t (portHealthPages q)
  have hm := port_modPort_same s q (fun x => { x with st := if x.st = 2 then 0 else x.st })
  unfold State.unitBack
  dsimp only
  constructor
  · rw [port, (hn _).ports]
    exact congrArg Port.st hm
  · rw [(hn _).flash]
    exact not_mem_filter_ne _ q

theorem unitBack_package (s : State) (k : Nat) : k ∉ (s.unitBack (.package k)).flash.retiredPkgs ∧
    SMap.get [] (s.unitBack (.package k)).pkgRej k = [] := by
  have hn := fun t => State.noteHealth_onlyEvents s t [Blk.lpd.page k, Blk.tb.page (k / 8)]
  unfold State.unitBack
  dsimp only
  constructor
  · rw [(hn _).flash]
    exact not_mem_filter_ne _ k
  · rw [(hn _).pkgRej, SMap.get_erase, if_pos rfl]

theorem unitBack_core (s : State) (c : Nat) : coreRetired (s.unitBack (.core c)) c = false ∧
    (coreRetired s c = true → c ∉ (s.unitBack (.core c)).flash.retiredCores) := by
  have hn := fun t => State.noteHealth_onlyEvents s t (clusterPages (c / 8))
  unfold State.unitBack
  dsimp only
  split
  next h =>
    constructor
    · rw [coreRetired, (hn _).coreDoms]
      exact congrArg CoreDom.retired (coreDom_modCoreDom_same s c (fun d => { d with retired := false, asleep := true, dbe := [] }))
    · intro _
      rw [(hn _).flash]
      exact not_mem_filter_ne _ c
  next h => exact ⟨Bool.eq_false_iff.2 h, fun hc => absurd hc h⟩

theorem unitBack_cluster (s : State) (c : Nat) : clusterRetired (s.unitBack (.cluster c)) c = false ∧
    (clusterRetired s c = true → c ∉ (s.unitBack (.cluster c)).flash.retiredClusters) := by
  have hn := fun t => State.noteHealth_onlyEvents s t (clusterPages c ++ dieHealthPages (c / 12))
  unfold State.unitBack
  dsimp only
  split
  next h =>
    constructor
    · rw [clusterRetired, (hn _).clusters]
      exact congrArg Cluster.retired (cluster_modCluster_same s c (fun d => { d with retired := false, asleep := true, dbe := [] }))
    · intro _
      rw [(hn _).flash]
      exact not_mem_filter_ne _ c
  next h => exact ⟨Bool.eq_false_iff.2 h, fun hc => absurd hc h⟩

/-- Settles O54: a message is its handler's effect and one answer. -/
theorem xannaTenantsAndUnits : Obligations.XannaTenantsAndUnits := by
  intro s n seq hs hup hconn hroot answers
  have hg : Governs s n := ⟨hup, hconn, hroot⟩
  have hord : InOrder s := hs.cmds.1
  refine ⟨fun p tenant root ovr row typ b hrow => ?_, fun ch => ⟨fun h => ?_, fun h hgone => ?_, fun h h1 h2 => ?_⟩,
    fun u f h => ?_, fun u h => ?_⟩
  · intro x busy
    have he := exec_bindRow (s := s) hrow
    refine ⟨fun hp => ?_, fun hp hb => ?_, fun hp hb => ?_⟩
    · exact he.trans (congrArg _ (State.xanna_malformed hg _ _ _ _ (by simpa using hp)))
    · rw [State.xanna_allowed hg _ _ _ (fun t => t.bindRequest p b) (by simpa using hp), bindRequest_of_busy hb] at he
      refine ⟨_, he, ?_, rfl, fun q hq => ?_⟩
      · rw [sec_modSec, if_pos rfl]
      · rw [sec_modSec, if_neg hq]
    · rw [State.xanna_allowed hg _ _ _ (fun t => t.bindRequest p b) (by simpa using hp), bindRequest_of_free hb] at he
      obtain ⟨hhalt, hskim, hqueued⟩ := startSkim_halted hord p b
      exact ⟨_, he, hskim, hqueued, hhalt.steer, hhalt.sessions, hhalt.persists, hhalt.cmds, hhalt.accs⟩
  · exact congrArg Host.Outcome.next (State.xanna_malformed hg _ _ _ _ (by simpa using h))
  · have he := State.xanna_allowed hg 0x0040 seq xDone (ok := fun _ => decide (ch < 256)) (fun t => t.retireChan ch) (by simpa using h)
    rw [retireChan_of_gone hgone] at he
    exact congrArg Host.Outcome.next he
  · have he := State.xanna_allowed hg 0x0040 seq xDone (ok := fun _ => decide (ch < 256)) (fun t => t.retireChan ch) (by simpa using h)
    rw [retireChan_of_new h1 h2] at he
    refine ⟨_, congrArg Host.Outcome.next he, ?_⟩
    split
    next hr => exact ⟨rfl, fun _ => rfl, fun hf => by rw [hr] at hf; cases hf⟩
    next hr =>
      obtain ⟨hflash, hst⟩ := startMove_moves
        { s with flash := { s.flash with retiredChans := s.flash.retiredChans ++ [ch] } } ch
      exact ⟨congrArg Flash.retiredChans hflash, fun ht => absurd ht hr, fun _ => hst⟩
  · exact congrArg Host.Outcome.next (State.xanna_malformed hg _ _ _ _ (by simp [h]))
  · refine ⟨s.unitBack u, congrArg Host.Outcome.next (State.xanna_allowed hg _ _ _ _ h),
      congrArg Host.Outcome.next (State.xanna_allowed hg _ _ _ _ h), ?_⟩
    cases u with
    | channel c => exact ⟨channelBack_back, channelBack_stays⟩
    | lane c => exact ⟨laneBack_degraded, laneBack_spare⟩
    | wavelength q w => exact unitBack_wavelength s q w
    | port q => exact unitBack_port s q
    | link l => exact ⟨rfl, not_mem_filter_ne _ _⟩
    | package k => exact unitBack_package s k
    | core c => exact unitBack_core s c
    | cluster c => exact unitBack_cluster s c

end Sys2Proof.Machine

/-! ## Links and the open site (O45) -/

namespace Sys2Proof.Machine

/-! ### LINK_FRAME_RECEIVE (R313) -/

theorem link_modLink (s : State) (l j : Nat) (f : Link → Link) : link (s.modLink l f) j = if j = l then f (link s l) else link s j :=
  SMap.get_modify ({} : Link) s.links l j f

/-- A bad frame counts at its link, and a replay is requested. -/
def State.replayAsked (v : State) (l : Nat) (times : List Nat) : State :=
  (v.modLink l (fun x =>
    { x with fails := x.fails + 1, times := times, checkErr := satAdd 32 x.checkErr 1,
             replays := satAdd 32 x.replays 1 })).emit (.linkReplay l)

/-- It is an upset too. -/
def State.replayed (v : State) (l : Nat) (times : List Nat) : State := (v.replayAsked l times).countUpset (Blk.link.page l)

/-- The times of the replays within 1 ms. -/
def replayTimes (v : State) (l : Nat) : List Nat := (link v l).times.filter (fun u => decide (v.now < u + 1000000)) ++ [v.now]

section
variable {s : State} {l now : Nat}

theorem exec_linkFrame_down (h : (link s l).st ≠ 1) (good : Bool) : exec (.linkFrameReceive l good now) s = .next (s.at_ now) := by
  show execLinkFrameReceive l good now s = _
  unfold execLinkFrameReceive
  dsimp only
  rw [if_pos (by simpa using show (link (s.at_ now) l).st ≠ 1 from h)]

theorem exec_linkFrame_good (h : (link s l).st = 1) : exec (.linkFrameReceive l true now) s =
    .next ((s.at_ now).modLink l (fun x => { x with fails := 0, rxSeq := (x.rxSeq + 1) % 65536 })) := by
  show execLinkFrameReceive l true now s = _
  unfold execLinkFrameReceive
  dsimp only
  rw [if_neg (by simpa using show (link (s.at_ now) l).st = 1 from h), if_pos rfl]

theorem exec_linkFrame_bad (h : (link s l).st = 1) : exec (.linkFrameReceive l false now) s =
    .next (if 5 ≤ (link s l).fails + 1 ∨ 256 < (replayTimes (s.at_ now) l).length
      then ((s.at_ now).replayed l (replayTimes (s.at_ now) l)).faultLink l else (s.at_ now).replayed l (replayTimes (s.at_ now) l)) := by
  show execLinkFrameReceive l false now s = _
  unfold execLinkFrameReceive
  have hl : link (s.at_ now) l = link s l := rfl
  dsimp only
  rw [if_neg (by simpa using show (link (s.at_ now) l).st = 1 from h), if_neg Bool.false_ne_true, ← replayTimes, hl]
  by_cases hc : 5 ≤ (link s l).fails + 1 ∨ 256 < (replayTimes (s.at_ now) l).length
  · rw [if_pos hc, if_pos (by simpa using hc)]
    rfl
  · rw [if_neg hc, if_neg (by simpa using hc)]
    rfl

end

/-- What a bad frame leaves. -/
structure Replayed (v : State) (l : Nat) (times : List Nat) (u : State) : Prop where
  link : link u l = { link v l with
    fails := (link v l).fails + 1, times := times, checkErr := satAdd 32 (link v l).checkErr 1
    replays := satAdd 32 (link v l).replays 1 }
  upset : u.regFld (Blk.link.page l) Reg.fault 63 32 = Nat.min (2 ^ 32 - 1) (v.regFld (Blk.link.page l) Reg.fault 63 32 + 1)
  out : u.out = v.out ++ [.linkReplay l]
  rest : { u with links := v.links, out := v.out, regs := v.regs } = v

theorem setReg_out (s : State) (g r v : Nat) : (s.setReg g r v).out = s.out := rfl

theorem countUpset_out (s : State) (g : Nat) : (s.countUpset g).out = s.out := setReg_out _ _ _ _

theorem setReg_rest_links (s : State) (g r v : Nat) (x : SMap Word) (m : SMap Link) (o : List Out) :
    { s.setReg g r v with links := m, out := o, regs := x } = { s with links := m, out := o, regs := x } := rfl

theorem countUpset_rest (s : State) (g : Nat) (x : SMap Word) (m : SMap Link) (o : List Out) :
    { s.countUpset g with links := m, out := o, regs := x } = { s with links := m, out := o, regs := x } := by
  unfold State.countUpset State.bump State.setRegFld
  exact setReg_rest_links s _ _ _ x m o

theorem countUpset_onlyEvents (s : State) (g : Nat) : OnlyEvents s (s.countUpset g) := s.bump_onlyEvents _ _ _ _ _

theorem replayed_leaves (v : State) (l : Nat) (times : List Nat) : Replayed v l times (v.replayed l times) := by
  have hlink : link (v.replayAsked l times) l = _ := (link_modLink v l l (fun x =>
    { x with fails := x.fails + 1, times := times, checkErr := satAdd 32 x.checkErr 1, replays := satAdd 32 x.replays 1 })).trans
      (if_pos rfl)
  have hrest : { v.replayAsked l times with links := v.links, out := v.out } = v := rfl
  have hout : (v.replayAsked l times).out = v.out ++ [.linkReplay l] := rfl
  unfold State.replayed
  generalize v.replayAsked l times = w at hlink hrest hout
  refine ⟨?_, ?_, (countUpset_out w _).trans hout, ?_⟩
  · rw [link, (countUpset_onlyEvents w _).links]
    exact hlink
  · have e := congrArg (fun t : State => t.regFld (Blk.link.page l) Reg.fault 63 32) hrest
    refine (regFld_bump w (Blk.link.page l) 1 (by decide) (by decide)).trans ?_
    exact congrArg (fun n => Nat.min (2 ^ 32 - 1) (n + 1)) e
  · refine (countUpset_rest w (Blk.link.page l) v.regs v.links v.out).trans ?_
    exact congrArg (fun t : State => { t with regs := v.regs }) hrest

/-! ### A faulted link (Table PKG-4) -/

/-- What stays of a link's fault whatever it takes with it. -/
structure LinkLost (s : State) (l : Nat) (t : State) : Prop where
  st : (link t l).st = 2
  flash : t.flash.faultedLinks = s.flash.faultedLinks ++ [l]
  event : linkUp t.regs = true

theorem LinkLost.mono {s t u : State} {l : Nat} (h : LinkLost s l t) (hl : u.links = t.links) (hf : u.flash = t.flash)
    (he : linkUp t.regs = true → linkUp u.regs = true) : LinkLost s l u :=
  ⟨by rw [link, hl]; exact h.st, by rw [hf]; exact h.flash, he h.event⟩

/-- The link marked as faulted, recorded in flash, before its event. -/
def State.linkMarked (s : State) (l : Nat) : State :=
  let t := s.modLink l (fun x => { x with st := 2, fails := 0, times := [] })
  { t with flash := { t.flash with faultedLinks := t.flash.faultedLinks ++ [l] } }

theorem faultLink_of_lost {s : State} {l : Nat} (h : (link s l).st = 2 ∨ (link s l).st = 3) : s.faultLink l = s := by
  rw [State.faultLink, if_pos (by simpa using h)]

/-- A faulted link: what is marked, and what goes with it. -/
theorem faultLink_of_up {s : State} {l : Nat} (hs : s.settings.partitions ≤ 4) (h2 : (link s l).st ≠ 2) (h3 : (link s l).st ≠ 3) :
    ∃ v, OnlyEvents (s.linkMarked l) v ∧ LinkLost s l v ∧ s.faultLink l =
      if l < 6 then
        if partOfDie s (cdEnds l).1 = partOfDie s (cdEnds l).2 then v.faultPart (partOfDie s (cdEnds l).1) else v
      else if l < 14 then v.tripStack (l - 6)
      else if l < 18 then v.loseEngine (l - 14)
      else if l < 22 then v.faultPart (partOfDie s (l - 18))
      else if l < 26 then v.bridgeDown ((l - 22) / 2)
      else v.fenceModule (l - 26) := by
  have hraise : OnlyEvents (s.linkMarked l) ((s.linkMarked l).raise_ 1 0 { d1 := ids16 [l] }) := State.raise_onlyEvents _ _ _ _
  have hbit : linkUp ((s.linkMarked l).raise_ 1 0 { d1 := ids16 [l] }).regs = true := State.raise_bit _ 1 0 _ (by decide) hs
  have hv := hraise.noteHealth s (linkHealthPages l)
  have hlink : (link (s.linkMarked l) l).st = 2 :=
    congrArg Link.st ((link_modLink s l l (fun x => { x with st := 2, fails := 0, times := [] })).trans (if_pos rfl))
  refine ⟨_, hv, ⟨?_, ?_, ((Calm.refl _).noteHealth s _).linkUp hbit⟩, ?_⟩
  · rw [link, hv.links]
    exact hlink
  · rw [hv.flash]
    rfl
  · rw [State.faultLink, if_neg (by simp [h2, h3])]
    rfl

theorem LinkLost.faultPart {s v : State} {l : Nat} (h : LinkLost s l v) (p : Nat) : LinkLost s l (v.faultPart p) :=
  h.mono ((Steady.refl false v).faultPart p).links ((Calm.refl v).faultPart p).flash ((Calm.refl v).faultPart p).linkUp

theorem LinkLost.tripStack {s v : State} {l : Nat} (h : LinkLost s l v) (st : Nat) : LinkLost s l (v.tripStack st) := by
  have hlinks : (v.tripStack st).links = v.links := ((Steady.refl false v).tripStack st).links
  obtain ⟨-, -, hflash, hregs⟩ := clearChans_rest st (List.range 32) (v.modStack st (fun x => { x with offline := true }))
  rw [tripStack_eq] at hlinks ⊢
  generalize (v.modStack st (fun x => { x with offline := true })).clearChans st (List.range 32) = u at hlinks hflash hregs
  have hcalm : Calm u (v.noteHealth (u.faultPart (partOfStack v st)) [hbmPage st, nmuPage st, Blk.die.page (4 + st)]) :=
    ((Calm.refl u).faultPart _).noteHealth v _
  exact h.mono hlinks (hcalm.flash.trans hflash) (fun e => hcalm.linkUp (by rw [hregs]; exact e))

theorem LinkLost.bridgeDown {s v : State} {l : Nat} (h : LinkLost s l v) (b : Nat) : LinkLost s l (v.bridgeDown b) :=
  h.mono ((Steady.refl false v).bridgeDown b).links ((Calm.refl v).bridgeDown b).flash ((Calm.refl v).bridgeDown b).linkUp

theorem bridgeFaulted_of_lost {s t : State} {l : Nat} (h : LinkLost s l t) (h1 : 22 ≤ l) :
    bridgeFaulted t ((l - 22) / 2) = true := by
  have hl : 22 + 2 * ((l - 22) / 2) + (l - 22) % 2 = l := by omega
  have hany : (List.range 2).any (fun k => (link t (22 + 2 * ((l - 22) / 2) + k)).st == 2) = true :=
    List.any_eq_true.2 ⟨(l - 22) % 2, List.mem_range.2 (by omega), by rw [hl, h.st]; rfl⟩
  rw [bridgeFaulted, hany, Bool.or_true]

/-! ### The ports of an engine (R298) -/

theorem dropCourse_calm (s : State) (c st : Nat) : Calm (s.modCourse c (fun x =>
    { x with st := st, fallback := false, lead := false, held := [], abandoned := [], cseq := 0 })) (s.dropCourse c st) :=
  .tryColls (.raise_ (.foldl (fun _ k ht => ht.endCmd k.id _) (.refl _)) _ 2 _) _

/-- A course in service: being formed, up, or with its verdict on the way. -/
def CourseLive (s : State) (c : Nat) : Prop := (course s c).st = 1 ∨ (course s c).st = 2 ∨ (course s c).st = 3

/-- A course in service breaks. -/
def State.breakOn (s : State) (c : Nat) : State :=
  if (course s c).st = 1 || (course s c).st = 2 || (course s c).st = 3 then s.breakCourse c else s

theorem course_modCourse (s : State) (c j : Nat) (f : Course → Course) :
    course (s.modCourse c f) j = if j = c then f (course s c) else course s j := SMap.get_modify ({} : Course) s.courses c j f

/-- What the break of a course leaves. -/
structure Broken (s : State) (c : Nat) (t : State) : Prop where
  flash : t.flash = s.flash
  event : linkUp s.regs = true → linkUp t.regs = true
  broken : CourseLive s c → (course t c).st = 4
  others : ∀ j, j ≠ c → (course t j).st = (course s j).st

theorem breakOn_broken (s : State) (c : Nat) : Broken s c (s.breakOn c) := by
  unfold State.breakOn
  split
  next h =>
    have hcalm := dropCourse_calm s c 4
    refine ⟨hcalm.flash, hcalm.linkUp, fun _ => (hcalm.courses c).trans ?_, fun j hj => (hcalm.courses j).trans ?_⟩
    · exact congrArg Course.st ((course_modCourse s c c _).trans (if_pos rfl))
    · exact congrArg Course.st ((course_modCourse s c j _).trans (if_neg hj))
  next h => exact ⟨rfl, id, fun hc => absurd (by simpa [CourseLive, or_assoc] using hc) h, fun _ _ => rfl⟩

/-- The ports of an engine are gone, before its courses break. -/
def State.portsLost (s : State) (n : Nat) : State :=
  (s.departPorts ((List.range 4).map (4 * n + ·))).noteHealth
    (((List.range 4).map (4 * n + ·)).foldl (fun t q => t.modPort q (fun x =>
      { x with st := if x.st = 2 then 2 else 0, wl := 0, waiting := [], retry := [] })) (s.departPorts ((List.range 4).map (4 * n + ·))))
    (((List.range 4).map (4 * n + ·)).map Blk.port.page)

theorem portsLost_calm (s : State) (n : Nat) : Calm s (s.portsLost n) :=
  .noteHealth (.foldl (fun _ q ht => ht.modPort q _) ((Calm.refl s).departPorts _)) _ _

theorem loseEngine_eq (s : State) (n : Nat) : s.loseEngine n = ((s.portsLost n).breakOn (2 * n)).breakOn (2 * n + 1) := by
  unfold State.loseEngine
  dsimp only
  rw [← State.portsLost, List.foldl_cons, List.foldl_cons, List.foldl_nil, ← State.breakOn, ← State.breakOn]

theorem courseLive_congr {s t : State} {c : Nat} (h : (course t c).st = (course s c).st) (hc : CourseLive s c) : CourseLive t c := by
  rw [CourseLive, h]
  exact hc

theorem LinkLost.loseEngine {s v : State} {l : Nat} (h : LinkLost s l v) (n : Nat) : LinkLost s l (v.loseEngine n) := by
  have hlinks := ((Steady.refl false v).loseEngine n).links
  rw [loseEngine_eq] at hlinks ⊢
  have h1 := breakOn_broken (v.portsLost n) (2 * n)
  have h2 := breakOn_broken ((v.portsLost n).breakOn (2 * n)) (2 * n + 1)
  exact h.mono hlinks (h2.flash.trans (h1.flash.trans (portsLost_calm v n).flash))
    (fun e => h2.event (h1.event ((portsLost_calm v n).linkUp e)))

/-- Both courses of an engine that are in service break. -/
theorem loseEngine_breaks (v : State) (n : Nat) {c : Nat} (hc : c ∈ [2 * n, 2 * n + 1]) (hon : CourseLive v c) :
    (course (v.loseEngine n) c).st = 4 := by
  have h1 := breakOn_broken (v.portsLost n) (2 * n)
  have h2 := breakOn_broken ((v.portsLost n).breakOn (2 * n)) (2 * n + 1)
  have hp := courseLive_congr ((portsLost_calm v n).courses c) hon
  rw [loseEngine_eq]
  simp only [List.mem_cons, List.not_mem_nil, or_false] at hc
  rcases hc with rfl | rfl
  · exact (h2.others _ (by omega)).trans (h1.broken hp)
  · exact h2.broken (courseLive_congr (h1.others _ (by omega)) hp)

/-! ### Accesses that a fence cuts (R320) -/

theorem CmdFrame.site {s t : State} (h : CmdFrame s t) : t.site = s.site := by
  have e := congrArg State.site h.rest; exact e

/-- One access of a fenced part completes. -/
def State.endOpenReq (u : State) (r : OpenReq) : State :=
  match u.reqs.find? (fun q => q.id == r.req) with
  | some q => if (persist? u q.cmd).isSome then u.failPersist q.cmd St.openFenced else u.endCmd q.cmd St.openFenced
  | none =>
    match u.pcie.accs.find? (fun a => winReq a.id == r.req) with
    | some a =>
      let v := u.fenceWin a.win (if a.data.isNone then some a.len else none)
      { v with pcie := { v.pcie with accs := v.pcie.accs.filter (fun x => x.id != a.id) } }
    | none => u

/-- The site without the accesses that a fence cuts. -/
def State.cutSite (s : State) (hit : OpenReq → Bool) : State :=
  { s with site := { s.site with reqs := s.site.reqs.filter (fun r => !hit r) } }

theorem endOpenReqs_eq (s : State) (hit : OpenReq → Bool) :
    s.endOpenReqs hit = (s.site.reqs.filter hit).foldl State.endOpenReq (s.cutSite hit) := by
  unfold State.endOpenReqs State.cutSite
  rfl

theorem fenceWin_onlyEvents (s : State) (w : Nat) (read : Option Nat) : OnlyEvents s (s.fenceWin w read) := by
  have hc : OnlyEvents s (s.winCounted w) := (s.bump_onlyEvents 0 Reg.hstErr 63 40 1).trans (State.setReg_onlyEvents _ _ _ _)
  have h := hc.raise_ 0 1 { d1 := ids16 [w] }
  unfold State.fenceWin
  dsimp only
  rw [← State.winCounted]
  split <;> exact h

/-- An access that a fence cuts ends commands in their frame, or fences a window access. -/
theorem endOpenReq_cases (u : State) (r : OpenReq) :
    (∃ q ids, u.reqs.find? (fun q => q.id == r.req) = some q ∧ (persist? u q.cmd = none → ids = [q.cmd]) ∧
      u.endOpenReq r = ids.foldl (fun t i => t.endCmd i St.openFenced) u) ∨
    (u.reqs.find? (fun q => q.id == r.req) = none ∧ ∃ v p, OnlyEvents u v ∧ u.endOpenReq r =
      { v with pcie := { v.pcie with accs := v.pcie.accs.filter p } }) := by
  unfold State.endOpenReq
  split
  next q hq =>
    left
    split
    next hp =>
      refine ⟨q, _, hq, fun h => ?_, rfl⟩
      rw [h] at hp
      cases hp
    next hp => exact ⟨q, [q.cmd], hq, fun _ => rfl, rfl⟩
  next hq =>
    right
    refine ⟨hq, ?_⟩
    split
    next a _ => exact ⟨_, _, fenceWin_onlyEvents u a.win _, rfl⟩
    next => exact ⟨u, fun _ => true, rfl, by simp⟩

theorem endOpenReq_site (u : State) (r : OpenReq) : (u.endOpenReq r).site = u.site := by
  obtain ⟨q, ids, -, -, he⟩ | ⟨-, v, p, hv, he⟩ := endOpenReq_cases u r
  · rw [he]
    exact (CmdFrame.foldl _ (fun t i => t.endCmd_frame i _) ids u).site
  · rw [he]
    exact hv.site

theorem endOpenReq_byte (u : State) (r : OpenReq) (a : Nat) : (u.endOpenReq r).byte a = u.byte a := by
  obtain ⟨q, ids, -, -, he⟩ | ⟨-, v, p, hv, he⟩ := endOpenReq_cases u r
  · rw [he]
    exact (CmdFrame.foldl _ (fun t i => t.endCmd_frame i _) ids u).bytes a
  · rw [he]
    exact hv.byte a

theorem endOpenReqs_site (s : State) (hit : OpenReq → Bool) : (s.endOpenReqs hit).site = (s.cutSite hit).site := by
  rw [endOpenReqs_eq]
  exact foldl_keep State.site _ endOpenReq_site _ _

theorem endOpenReqs_byte (s : State) (hit : OpenReq → Bool) (a : Nat) : (s.endOpenReqs hit).byte a = s.byte a := by
  rw [endOpenReqs_eq]
  exact foldl_keep (fun t => t.byte a) _ (fun t r => endOpenReq_byte t r a) _ _

/-! ### The command of an access that a fence cuts -/

/-- A request of a command that is unfinished, and of no persistent stream. -/
structure OpenWork (q : Req) (u : State) : Prop where
  req : u.reqs.find? (fun y => y.id == q.id) = some q
  plain : persist? u q.cmd = none
  cmd : ∃ c, u.cmd? q.cmd = some c ∧ c.status = none

/-- The command of a request has ended with OPEN_FENCED, or is unfinished still. -/
def FencedOrWork (q : Req) (u : State) : Prop := EndedWith u q.cmd St.openFenced ∨ OpenWork q u

theorem find?_filter_of_keep {α : Type} {l : List α} {p k : α → Bool} {a : α} (h : l.find? p = some a) (hk : k a = true) :
    (l.filter k).find? p = some a := by
  rw [List.find?_filter]
  induction l with
  | nil => cases h
  | cons b l ih =>
    rw [List.find?_cons] at h ⊢
    cases hp : p b with
    | true =>
      rw [hp] at h
      cases h
      simp [hk]
    | false =>
      rw [hp] at h
      simpa [hp] using ih h

theorem OpenWork.endCmd_other {q : Req} {u : State} (h : OpenWork q u) {id : Nat} (hne : q.cmd ≠ id) (st : Nat) :
    OpenWork q (u.endCmd id st) := by
  obtain ⟨c, hc, hst⟩ := h.cmd
  refine ⟨?_, ?_, c, (State.cmd?_endCmd_other u hne st).trans hc, hst⟩
  · rcases State.endCmd_field State.reqs (fun _ _ _ => rfl) (fun _ _ _ => rfl) (fun _ _ _ => rfl) (fun _ _ _ => rfl)
      (fun _ _ _ => rfl) (fun _ _ _ => rfl) (fun _ _ _ => rfl) (fun _ _ _ => rfl) (fun _ _ => rfl) u id st
      with he | ⟨-, t, ht, -, -, -, he⟩
    · rw [he]
      exact h.req
    · have hdrop : (t.dropWork id).reqs = t.reqs.filter (fun r => r.cmd != id) := rfl
      rw [he, hdrop, ht]
      exact find?_filter_of_keep h.req (by simpa using hne)
  · rcases persist?_endCmd u id st q.cmd with he | he
    · rw [he]
      exact h.plain
    · rw [he, h.plain]
      rfl

theorem FencedOrWork.endCmd {q : Req} {u : State} (h : FencedOrWork q u) (id : Nat) : FencedOrWork q (u.endCmd id St.openFenced) := by
  rcases h with h | h
  · exact .inl (h.endCmd id _)
  · by_cases hid : q.cmd = id
    · obtain ⟨c, hc, hst⟩ := h.cmd
      exact .inl (hid ▸ State.endCmd_ended u q.cmd St.openFenced c hc hst)
    · exact .inr (h.endCmd_other hid _)

theorem FencedOrWork.endCmds {q : Req} {u : State} (h : FencedOrWork q u) (ids : List Nat) :
    FencedOrWork q (ids.foldl (fun t i => t.endCmd i St.openFenced) u) := by
  induction ids generalizing u with
  | nil => exact h
  | cons i ids ih => exact ih (h.endCmd i)

/-- Work that events alone, and window accesses that go, do not touch. -/
theorem FencedOrWork.congr {q : Req} {u v : State} (h : FencedOrWork q u) (hr : v.reqs = u.reqs) (hp : v.persists = u.persists)
    (hc : v.cmds = u.cmds) : FencedOrWork q v := by
  rcases h with ⟨c, hcmd, hst⟩ | ⟨hreq, hplain, c, hcmd, hst⟩
  · exact .inl ⟨c, (State.cmd?_congr hc _).trans hcmd, hst⟩
  · exact .inr ⟨by rw [hr]; exact hreq, (persist?_congr hp _).trans hplain, c, (State.cmd?_congr hc _).trans hcmd, hst⟩

theorem OnlyEvents.persists {s t : State} (h : OnlyEvents s t) : t.persists = s.persists := by
  have e := congrArg State.persists h; exact e

theorem FencedOrWork.endOpenReq {q : Req} {u : State} (h : FencedOrWork q u) (r : OpenReq) : FencedOrWork q (u.endOpenReq r) := by
  obtain ⟨q', ids, -, -, he⟩ | ⟨-, v, p, hv, he⟩ := endOpenReq_cases u r
  · rw [he]
    exact h.endCmds ids
  · rw [he]
    exact h.congr hv.reqs hv.persists hv.cmds

theorem EndedWith.endCmds {u : State} {j st : Nat} (h : EndedWith u j st) (ids : List Nat) (st' : Nat) :
    EndedWith (ids.foldl (fun t i => t.endCmd i st') u) j st := by
  induction ids generalizing u with
  | nil => exact h
  | cons i ids ih => exact ih (h.endCmd i st')

theorem EndedWith.endOpenReq {u : State} {j st : Nat} (h : EndedWith u j st) (r : OpenReq) : EndedWith (u.endOpenReq r) j st := by
  obtain ⟨q', ids, -, -, he⟩ | ⟨-, v, p, hv, he⟩ := endOpenReq_cases u r
  · rw [he]
    exact h.endCmds ids _
  · obtain ⟨c, hc, hst⟩ := h
    rw [he]
    exact ⟨c, (State.cmd?_congr hv.cmds _).trans hc, hst⟩

/-- The access's own turn ends its command. -/
theorem FencedOrWork.ended {q : Req} {u : State} (h : FencedOrWork q u) {r : OpenReq} (hr : r.req = q.id) :
    EndedWith (u.endOpenReq r) q.cmd St.openFenced := by
  rcases h with h | ⟨hreq, hplain, c, hcmd, hst⟩
  · exact h.endOpenReq r
  · obtain ⟨q', ids, hq', hids, he⟩ | ⟨hnone, -⟩ := endOpenReq_cases u r
    · rw [hr, hreq] at hq'
      cases hq'
      rw [he, hids hplain]
      exact State.endCmd_ended u q.cmd St.openFenced c hcmd hst
    · rw [hr, hreq] at hnone
      cases hnone

/-- A fence ends the command of each access that it cuts with OPEN_FENCED. -/
theorem endOpenReqs_ends {s : State} {hit : OpenReq → Bool} {r : OpenReq} (hr : r ∈ s.site.reqs) (hh : hit r = true) {q : Req}
    (hq : s.reqs.find? (fun y => y.id == r.req) = some q) (hp : persist? s q.cmd = none) {c : Cmd} (hc : s.cmd? q.cmd = some c)
    (hst : c.status = none) : EndedWith (s.endOpenReqs hit) q.cmd St.openFenced := by
  have hid : r.req = q.id := (by simpa using List.find?_some hq : q.id = r.req).symm
  have hfold (l : List OpenReq) (u : State) (h : EndedWith u q.cmd St.openFenced ∨ (FencedOrWork q u ∧ r ∈ l)) :
      EndedWith (l.foldl State.endOpenReq u) q.cmd St.openFenced := by
    induction l generalizing u with
    | nil => exact h.resolve_right fun h => absurd h.2 List.not_mem_nil
    | cons x l ih =>
      refine ih _ ?_
      rcases h with h | ⟨hw, hmem⟩
      · exact .inl (h.endOpenReq x)
      · rcases List.mem_cons.1 hmem with rfl | hmem
        · exact .inl (hw.ended hid)
        · exact .inr ⟨hw.endOpenReq x, hmem⟩
  rw [endOpenReqs_eq]
  exact hfold _ _ (.inr ⟨.inr ⟨hid ▸ hq, hp, c, hc, hst⟩, List.mem_filter.2 ⟨hr, hh⟩⟩)

/-! ### The fences (R319, R320) -/

/-- A module's share is fenced. -/
def State.moduleCut (s : State) (m : Nat) : State := { s with site := { s.site with fenced := s.site.fenced.set m true } }

/-- The whole site is fenced; `power` marks the cause. -/
def State.siteCut (s : State) (power : Bool) : State :=
  { s with site := { s.site with siteFenced := true, powerFence := s.site.powerFence || power } }

theorem fenceModule_cut {s : State} {m : Nat} (hv : s.flash.variantC = false)
    (h : ¬(s.site.siteFenced = true ∨ s.site.fenced.getD m false = true)) : s.fenceModule m =
      (((s.moduleCut m).endOpenReqs (fun r => r.module == m)).raiseFence [partOfDie s m] { d1 := ids16 [m] }).flushWins := by
  rw [State.fenceModule, if_neg (by rw [hv]; exact Bool.false_ne_true), if_neg (by simpa using h)]
  rfl

theorem fenceModule_of_fenced {s : State} {m : Nat} (hv : s.flash.variantC = false)
    (h : s.site.siteFenced = true ∨ s.site.fenced.getD m false = true) : s.fenceModule m = s := by
  rw [State.fenceModule, if_neg (by rw [hv]; exact Bool.false_ne_true), if_pos (by simpa using h)]

theorem fenceModule_variantC {s : State} (hv : s.flash.variantC = true) (m : Nat) : s.fenceModule m = s.fenceSite false := by
  rw [State.fenceModule, if_pos hv]

theorem fenceSite_cut {s : State} {power : Bool} (h : ¬(s.site.siteFenced && (s.site.powerFence || !power)) = true) :
    s.fenceSite power =
      (((s.siteCut power).endOpenReqs (fun _ => true)).raiseFence (sitePartitions s) {}).flushWins := by
  rw [State.fenceSite, if_neg h]
  rfl

theorem fenceSite_of_fenced {s : State} {power : Bool} (h : (s.site.siteFenced && (s.site.powerFence || !power)) = true) :
    s.fenceSite power = s := by
  rw [State.fenceSite, if_pos h]

/-- What a fence of the accesses `hit` leaves of the state with the fence set, before window accesses are looked at again. -/
structure Cut (u : State) (hit : OpenReq → Bool) (t : State) : Prop where
  fenced : t.site.fenced = u.site.fenced
  siteFenced : t.site.siteFenced = u.site.siteFenced
  powerFence : t.site.powerFence = u.site.powerFence
  reqs : t.site.reqs = u.site.reqs.filter (fun r => !hit r)
  ended : ∀ r ∈ u.site.reqs, hit r = true → ∀ q c, u.reqs.find? (fun y => y.id == r.req) = some q → persist? u q.cmd = none →
    u.cmd? q.cmd = some c → c.status = none → EndedWith t q.cmd St.openFenced
  bytes : ∀ a, t.byte a = u.byte a

theorem cut_raiseFence (u : State) (hit : OpenReq → Bool) (l : List Nat) (d : Det) :
    Cut u hit ((u.endOpenReqs hit).raiseFence l d) := by
  obtain ⟨q, hq⟩ := (u.endOpenReqs hit).raiseFence_onlyEvents l d
  have hsite := hq.site.trans (congrArg (fun y : OpenSite => { y with irqStat := q }) (endOpenReqs_site u hit))
  refine ⟨(congrArg OpenSite.fenced hsite).trans rfl, (congrArg OpenSite.siteFenced hsite).trans rfl,
    (congrArg OpenSite.powerFence hsite).trans rfl, congrArg OpenSite.reqs hsite, ?_,
    fun a => (hq.byte a).trans (endOpenReqs_byte u hit a)⟩
  intro r hr hh q c hq' hp hc hst
  obtain ⟨c', hc', hst'⟩ := endOpenReqs_ends hr hh hq' hp hc hst
  exact ⟨c', (State.cmd?_congr hq.cmds _).trans hc', hst'⟩

/-- OPEN_FENCE in the view of one partition. -/
theorem raiseFence_one_irqStat (u : State) (p : Nat) (d : Det) : (u.raiseFence [p] d).site.irqStat = u.site.irqStat.set p true := by
  have h : OnlyEvents { u with site := { u.site with irqStat := u.site.irqStat.set p true } } (u.raiseOpen p d) :=
    .trans (u.setIrqOpen_rest p).rest (State.log_onlyEvents _ _)
  exact congrArg OpenSite.irqStat h.site

/-- A fence of a module calms the state but for the site, whose part it fences. -/
theorem fenceModule_calm (s : State) (m : Nat) : ∃ x, Calm { s with site := x } (s.fenceModule m) ∧
    (s.site.fenced.length = 4 → m < 4 → x.siteFenced = true ∨ x.fenced.getD m false = true) := by
  cases hv : s.flash.variantC with
  | true =>
    rw [fenceModule_variantC hv]
    by_cases h : (s.site.siteFenced && (s.site.powerFence || !false)) = true
    · rw [fenceSite_of_fenced h]
      exact ⟨s.site, .refl s, fun _ _ => .inl (by simpa using h)⟩
    · rw [fenceSite_cut h]
      exact ⟨_, (((Calm.refl (s.siteCut false)).endOpenReqs _).raiseFence _ _).flushWins, fun _ _ => .inl rfl⟩
  | false =>
    by_cases h : s.site.siteFenced = true ∨ s.site.fenced.getD m false = true
    · rw [fenceModule_of_fenced hv h]
      exact ⟨s.site, .refl s, fun _ _ => h⟩
    · rw [fenceModule_cut hv h]
      refine ⟨_, (((Calm.refl (s.moduleCut m)).endOpenReqs _).raiseFence _ _).flushWins, fun hl hm => .inr ?_⟩
      rw [List.getD_eq_getElem?_getD, List.getElem?_set_self (by omega)]
      rfl

theorem LinkLost.fenceModule {s v : State} {l : Nat} (h : LinkLost s l v) (m : Nat) : LinkLost s l (v.fenceModule m) := by
  have hlinks : (v.fenceModule m).links = v.links := ((Steady.refl false v).fenceModule m).links
  obtain ⟨x, hx, -⟩ := fenceModule_calm v m
  generalize v.fenceModule m = t at hlinks hx
  exact h.mono hlinks hx.flash hx.linkUp

/-- A module whose link is lost is fenced, or its site is (R319). -/
theorem fenceModule_fences {s : State} {m : Nat} (hl : s.site.fenced.length = 4) (hm : m < 4) :
    (s.fenceModule m).site.siteFenced = true ∨ (s.fenceModule m).site.fenced.getD m false = true := by
  obtain ⟨x, hx, hf⟩ := fenceModule_calm s m
  rw [hx.siteFenced, hx.fenced]
  exact hf hl hm

/-! ### LINK_LOCK_LOSS (R313, Table PKG-4) -/

theorem OnlyEvents.courses {s t : State} (h : OnlyEvents s t) : t.courses = s.courses := by
  have e := congrArg State.courses h; exact e

/-- What the loss of a link takes with it (Table PKG-4). -/
structure LinkTakes (s : State) (l : Nat) (t : State) : Prop where
  joined : l < 6 → partOfDie s (cdEnds l).1 = partOfDie s (cdEnds l).2 → t.startup.part.getD (partOfDie s (cdEnds l).1) 1 = 2
  apart : l < 6 → partOfDie s (cdEnds l).1 ≠ partOfDie s (cdEnds l).2 → t.startup = s.startup ∧ t.cmds = s.cmds
  stack : 6 ≤ l → l < 14 → (stack t (l - 6)).offline = true ∧ t.startup.part.getD (partOfStack s (l - 6)) 1 = 2
  courses : 14 ≤ l → l < 18 → ∀ c ∈ [2 * (l - 14), 2 * (l - 14) + 1], CourseLive s c → (course t c).st = 4
  memory : 18 ≤ l → l < 22 → t.startup.part.getD (partOfDie s (l - 18)) 1 = 2
  bridge : 22 ≤ l → l < 26 → bridgeFaulted t ((l - 22) / 2) = true
  site : 26 ≤ l → s.site.fenced.length = 4 → t.site.siteFenced = true ∨ t.site.fenced.getD (l - 26) false = true

/-- The ends of links 0 to 5 are compute dies 0 to 3. -/
theorem cdEnds_lt (l : Nat) : (cdEnds l).1 < 4 := by
  unfold cdEnds
  split <;> decide

/-- A link that was in use is lost, and Table PKG-4 applies. -/
theorem faultLink_takes {s : State} {l : Nat} (hs : s.settings.partitions ≤ 4) (hlen : s.startup.part.length = 4) (hl : l < 30)
    (h2 : (link s l).st ≠ 2) (h3 : (link s l).st ≠ 3) : LinkLost s l (s.faultLink l) ∧ LinkTakes s l (s.faultLink l) := by
  obtain ⟨v, hv, hlost, he⟩ := faultLink_of_up hs h2 h3
  rw [he]
  have hsettings : v.settings = s.settings := hv.settings
  have hstartup : v.startup = s.startup := hv.startup
  have hdown {n : Nat} (hn : n < 4) : (v.faultPart (partOfDie s n)).startup.part.getD (partOfDie s n) 1 = 2 :=
    faultPart_part (by rw [hstartup, hlen]; exact Nat.lt_of_le_of_lt (partOfDie_le s n) hn)
  by_cases h6 : l < 6
  · rw [if_pos h6]
    by_cases hsame : partOfDie s (cdEnds l).1 = partOfDie s (cdEnds l).2
    · rw [if_pos hsame]
      exact ⟨hlost.faultPart _, fun _ _ => hdown (cdEnds_lt l), fun _ h => absurd hsame h, by omega, by omega, by omega,
        by omega, by omega⟩
    · rw [if_neg hsame]
      exact ⟨hlost, fun _ h => absurd h hsame, fun _ _ => ⟨hstartup, hv.cmds⟩, by omega, by omega, by omega, by omega, by omega⟩
  rw [if_neg h6]
  by_cases h14 : l < 14
  · rw [if_pos h14]
    refine ⟨hlost.tripStack _, by omega, by omega, fun _ _ => ?_, by omega, by omega, by omega, by omega⟩
    have hpart := partOfStack_congr hsettings (l - 6)
    have hlt : partOfStack v (l - 6) < v.startup.part.length := by
      have := partOfDie_le s ((l - 6) / 2)
      rw [hpart, hstartup, hlen, partOfStack]
      omega
    obtain ⟨hoff, hfault, -⟩ := tripStack_leaves hlt
    exact ⟨hoff, hpart ▸ hfault⟩
  rw [if_neg h14]
  by_cases h18 : l < 18
  · rw [if_pos h18]
    refine ⟨hlost.loseEngine _, by omega, by omega, by omega, fun _ _ c hc hlive => ?_, by omega, by omega, by omega⟩
    have hcourse : course v c = course s c := by
      rw [course, hv.courses]
      rfl
    exact loseEngine_breaks v _ hc (courseLive_congr (congrArg Course.st hcourse) hlive)
  rw [if_neg h18]
  by_cases h22 : l < 22
  · rw [if_pos h22]
    exact ⟨hlost.faultPart _, by omega, by omega, by omega, by omega, fun _ _ => hdown (by omega), by omega, by omega⟩
  rw [if_neg h22]
  by_cases h26 : l < 26
  · rw [if_pos h26]
    exact ⟨hlost.bridgeDown _, by omega, by omega, by omega, by omega, by omega,
      fun h _ => bridgeFaulted_of_lost (hlost.bridgeDown _) h, by omega⟩
  rw [if_neg h26]
  exact ⟨hlost.fenceModule _, by omega, by omega, by omega, by omega, by omega, by omega,
    fun _ hf => fenceModule_fences (by rw [hv.site]; exact hf) (by omega)⟩

/-! ### OPEN_DIE_MESSAGE (R320) -/

/-- The site without the access that a response answers. -/
def State.siteGone (s : State) (req : Nat) : OpenSite := { s.site with reqs := s.site.reqs.filter (fun y => y.id != req) }

section
variable {s : State} {m req : Nat} {data : List Byte} {bad : Bool}

theorem exec_response_shut (h : s.site.admitted = false) : exec (.openDieMessage (.response m req data bad)) s = .next s := by
  show execOpenDieMessage (.response m req data bad) s = _
  unfold execOpenDieMessage
  dsimp only
  rw [if_pos (by rw [h]; rfl)]

theorem exec_response_unasked (h : s.site.admitted = true) (hr : s.site.reqs.find? (fun r => r.id == req && r.module == m) = none) :
    exec (.openDieMessage (.response m req data bad)) s = .next (s.fenceModule m) := by
  show execOpenDieMessage (.response m req data bad) s = _
  unfold execOpenDieMessage
  dsimp only
  rw [if_neg (by rw [h]; decide), hr]

theorem exec_response_req (h : s.site.admitted = true) {r : OpenReq}
    (hr : s.site.reqs.find? (fun r => r.id == req && r.module == m) = some r) {q : Req}
    (hq : s.reqs.find? (fun q => q.id == r.req) = some q) : exec (.openDieMessage (.response m req data bad)) s =
      if q.kind = .read && data.length != q.len && !bad then .next (s.fenceModule m)
      else .next ({ s with site := s.siteGone req }.openAnswers q data bad) := by
  show execOpenDieMessage (.response m req data bad) s = _
  unfold execOpenDieMessage
  dsimp only
  rw [if_neg (by rw [h]; decide), hr]
  dsimp only
  rw [hq]
  rfl

theorem exec_response_win (h : s.site.admitted = true) {r : OpenReq}
    (hr : s.site.reqs.find? (fun r => r.id == req && r.module == m) = some r)
    (hq : s.reqs.find? (fun q => q.id == r.req) = none) {a : WinAcc} (ha : s.pcie.accs.find? (fun a => winReq a.id == r.req) = some a) :
    exec (.openDieMessage (.response m req data bad)) s =
      if a.data.isNone && data.length != a.len && !bad then .next (s.fenceModule m)
      else .next ({ s with site := s.siteGone req }.openWinAnswers a data bad) := by
  show execOpenDieMessage (.response m req data bad) s = _
  unfold execOpenDieMessage
  dsimp only
  rw [if_neg (by rw [h]; decide), hr]
  dsimp only
  rw [hq, ha]
  rfl

end

/-- The site plays no part in where bytes are written. -/
theorem pokeRange_setSite (s : State) (x : OpenSite) (p o : Nat) (bs : List Byte) :
    { s with site := x }.pokeRange p o bs = { s.pokeRange p o bs with site := x } := by
  unfold State.pokeRange
  generalize cutsOf 4096 o bs.length = l
  induction l generalizing s with
  | nil => rfl
  | cons c l ih => exact ih (s.poke (keyAt s p c.1) ((bs.drop (c.1 - o)).take c.2))

theorem pokeRange_reqs (s : State) (p o : Nat) (bs : List Byte) : (s.pokeRange p o bs).reqs = s.reqs := by
  unfold State.pokeRange
  refine foldl_keep State.reqs _ ?_ _ _
  exact fun _ _ => rfl

theorem noteWrite_keeps (s : State) (id p o n : Nat) : (s.noteWrite id p o n).reqs = s.reqs ∧
    (s.noteWrite id p o n).site = s.site ∧ (s.noteWrite id p o n).mem = s.mem := by
  have h := noteWrite_rest s id p o n
  have hr := congrArg State.reqs h
  have hs := congrArg State.site h
  have hm := congrArg State.mem h
  exact ⟨hr, hs, hm⟩

/-- A write at the open site that the die acknowledges. -/
theorem openAnswers_write (s : State) (x : OpenSite) {q : Req} (hk : q.kind ≠ .read) (data : List Byte) (bad : Bool) :
    ({ s with site := x }.openAnswers q data bad).site = x ∧
      ({ s with site := x }.openAnswers q data bad).reqs = s.reqs.map (fun y => if y.id = q.id then
        { y with served := true, bad := bad, badStatus := St.dataPoisoned } else y) ∧
      ∀ a, ({ s with site := x }.openAnswers q data bad).byte a =
        (if bad = true then s else s.pokeRange (addrPart q.addr) (addrOff q.addr) q.data).byte a := by
  unfold State.openAnswers
  dsimp only
  rw [if_neg hk]
  cases bad with
  | true => exact ⟨rfl, rfl, fun _ => rfl⟩
  | false =>
    simp only [Bool.false_eq_true, if_false]
    rw [pokeRange_setSite]
    have hreqs := pokeRange_reqs s (addrPart q.addr) (addrOff q.addr) q.data
    generalize s.pokeRange (addrPart q.addr) (addrOff q.addr) q.data = t at hreqs
    obtain ⟨hr, hs, hm⟩ := noteWrite_keeps { t with site := x } q.cmd (addrPart q.addr) (addrOff q.addr) q.data.length
    generalize { t with site := x }.noteWrite q.cmd (addrPart q.addr) (addrOff q.addr) q.data.length = u at hr hs hm
    refine ⟨hs, ?_, fun a => byte_congr (t := u.modReq q.id _) hm a⟩
    exact congrArg (List.map _) (hr.trans hreqs)

/-! ### Timeouts, power and the fences that they bring (R320, R321) -/

theorem exec_openTimeout_none {s : State} {req now : Nat} (h : s.site.reqs.find? (fun r => r.id == req) = none) :
    exec (.openResponseTimeout req now) s = .next (s.at_ now) := by
  show execOpenResponseTimeout req now s = _
  unfold execOpenResponseTimeout
  dsimp only
  rw [show (s.at_ now).site.reqs.find? (fun r => r.id == req) = none from h]

theorem exec_openTimeout {s : State} {req now : Nat} {r : OpenReq} (h : s.site.reqs.find? (fun r => r.id == req) = some r) :
    exec (.openResponseTimeout req now) s = .next (if r.sent + s.regFld 2 Reg.openCfg 15 0 * 1000 < (s.at_ now).now then
      (s.at_ now).fenceModule r.module else s.at_ now) := by
  show execOpenResponseTimeout req now s = _
  unfold execOpenResponseTimeout
  dsimp only
  rw [show (s.at_ now).site.reqs.find? (fun r => r.id == req) = some r from h]
  dsimp only
  split <;> rename_i hc
  · exact congrArg Host.Outcome.next (if_pos hc).symm
  · exact congrArg Host.Outcome.next (if_neg hc).symm

theorem exec_openPower_within {s : State} {mw : Nat} (h : s.site.admitted = false ∨ mw ≤ 60000) :
    exec (.openPowerWindow mw) s = .next s := by
  show execOpenPowerWindow mw s = _
  rw [execOpenPowerWindow, if_neg]
  rcases h with h | h
  · simp [h]
  · simp [Nat.not_lt.2 h]

theorem exec_openPower_above {s : State} {mw : Nat} (h : s.site.admitted = true) (hmw : 60000 < mw) :
    exec (.openPowerWindow mw) s = .next (s.fenceSite true) := by
  show execOpenPowerWindow mw s = _
  rw [execOpenPowerWindow, if_pos (by simp [h, hmw])]

/-! ### The two halves of the statement -/

/-- LINK_FRAME_RECEIVE and LINK_LOCK_LOSS, link by link. -/
theorem links_lost {s : State} {l : Nat} (hs : Sound s) (hlen : s.startup.part.length = 4) (hl : l < 30) :
    ((link s l).st = 2 ∨ (link s l).st = 3 → exec (.linkLockLoss l) s = .next s ∧ s.faultLink l = s) ∧
    ((link s l).st ≠ 2 → (link s l).st ≠ 3 → ∃ t, exec (.linkLockLoss l) s = .next t ∧ t = s.faultLink l ∧
      LinkLost s l t ∧ LinkTakes s l t) := by
  have hexec : exec (.linkLockLoss l) s = .next (s.faultLink l) := rfl
  refine ⟨fun h => ?_, fun h2 h3 => ⟨_, hexec, rfl, faultLink_takes (sound_partitions hs) hlen hl h2 h3⟩⟩
  have hsame := faultLink_of_lost h
  exact ⟨hexec.trans (congrArg _ hsame), hsame⟩

/-- A fence of a module's share on the SVT-24 (R319, R320). -/
theorem fenceModule_share {s : State} {m : Nat} (hv : s.flash.variantC = false) (hsf : s.site.siteFenced = false)
    (hirq : s.site.irqStat.length = 4) (hm : m < 4) (hf : s.site.fenced.getD m false = false) :
    ∃ t, s.fenceModule m = State.flushWins t ∧ Cut (s.moduleCut m) (fun r => r.module == m) t ∧
      t.site.irqStat.getD (partOfDie s m) false = true := by
  refine ⟨_, fenceModule_cut hv (by rw [hsf, hf]; decide), cut_raiseFence _ _ _ _, ?_⟩
  have hsite : ((s.moduleCut m).endOpenReqs (fun r => r.module == m)).site.irqStat = s.site.irqStat :=
    (congrArg OpenSite.irqStat (endOpenReqs_site _ _)).trans rfl
  have := partOfDie_le s m
  rw [raiseFence_one_irqStat, hsite, List.getD_eq_getElem?_getD, List.getElem?_set_self (by omega)]
  rfl

/-- Settles O45: frames by `exec_linkFrame_good` and `exec_linkFrame_bad`, lost links by `faultLink_takes`, fences by `Cut`, and
each message of the die by its own rule. -/
theorem linksAndOpenSite : Obligations.LinksAndOpenSite := by
  refine ⟨?_, ?_⟩
  · intro s l hs hlen hl x down
    obtain ⟨hlost, htakes⟩ := links_lost hs hlen hl
    refine ⟨fun now good => ⟨fun h => exec_linkFrame_down h good, ?_, ?_⟩, hlost, fun h2 h3 => ?_⟩
    · rintro h rfl
      refine ⟨_, exec_linkFrame_good h, (link_modLink _ l l _).trans (if_pos rfl), rfl, fun j hj => ?_⟩
      exact (link_modLink _ l j _).trans (if_neg hj)
    · rintro h rfl
      have hr := replayed_leaves (s.at_ now) l (replayTimes (s.at_ now) l)
      exact ⟨_, exec_linkFrame_bad h, hr.link, hr.upset, hr.out, hr.rest⟩
    · obtain ⟨t, he, ht, hl, hk⟩ := htakes h2 h3
      exact ⟨t, he, ht, hl.st, hl.flash, hl.event, hk.joined, hk.apart, hk.stack, hk.courses, hk.memory, hk.bridge, hk.site⟩
  · intro s hs ended
    refine ⟨fun m hv hsf _ hirq hm hf => ?_, fun m hv h => fenceModule_of_fenced hv h, fun m hv => fenceModule_variantC hv m,
      fun m => rfl, fun m req data bad h => exec_response_shut h, fun m req data bad ha => ⟨exec_response_unasked ha, fun r hr =>
        ⟨fun q hq => ⟨fun hk hd hb => ?_, fun hk hd => ?_, fun hk => ?_⟩, fun a hq hacc hread hd => ?_⟩⟩,
      fun req now => ⟨exec_openTimeout_none, fun r hr => exec_openTimeout hr⟩, fun mw h => exec_openPower_within h,
      fun mw ha hmw hp => ?_⟩
    · obtain ⟨t, ht, hcut, hirqt⟩ := fenceModule_share hv hsf hirq hm hf
      refine ⟨t, ht, hcut.fenced, fun r => ?_, ?_, hirqt, hcut.bytes⟩
      · rw [hcut.reqs, List.mem_filter]
        simp [State.moduleCut]
      · intro r hr hh q c _ hq hplain hc hst
        exact hcut.ended r hr (by simpa using hh) q c hq hplain hc hst
    · rw [exec_response_req ha hr hq, if_pos (by simp [hk, hd, hb])]
    · rw [exec_response_req ha hr hq, if_neg (by rcases hd with hd | hd <;> simp [hd]), State.openAnswers, if_pos hk]
      exact ⟨_, rfl, rfl, rfl⟩
    · rw [exec_response_req ha hr hq, if_neg (by simp [hk])]
      exact ⟨_, rfl, openAnswers_write s (s.siteGone req) hk data bad⟩
    · rw [exec_response_win ha hr hq hacc, if_neg (by rcases hd with hd | hd <;> simp [hd]), State.openWinAnswers, hread]
      exact ⟨_, rfl, rfl, rfl, rfl⟩
    · have hcut := cut_raiseFence (s.siteCut true) (fun _ => true) (sitePartitions s) {}
      refine ⟨_, (exec_openPower_above ha hmw).trans (congrArg _ (fenceSite_cut (by simp [hp]))), hcut.siteFenced,
        hcut.powerFence.trans (Bool.or_true _), ?_, ?_, hcut.bytes⟩
      · rw [hcut.reqs]
        simp
      · intro r hr _ q c _ hq hplain hc hst
        exact hcut.ended r hr rfl q c hq hplain hc hst

end Sys2Proof.Machine

/-! ## Slots and steps of the near-memory units (O40)

A slot's commands change one channel and note one stack. A unit's step writes through `cmdWrite`, whose bytes depend on where keys lie, on
what memory holds and on what is poisoned alone: states that agree on those (`SameAccesses`) get the same bytes, whatever their
channels' modes and their commands are. -/

namespace Sys2Proof.Machine

/-! ### Reads by states that agree on accesses -/

namespace SameAccesses

variable {s t : State}

theorem refl (s : State) : SameAccesses s s := ⟨rfl, rfl, rfl, rfl, rfl, fun _ => rfl⟩

theorem trans {u : State} (h : SameAccesses s t) (k : SameAccesses t u) : SameAccesses s u :=
  ⟨k.settings.trans h.settings, k.tiers.trans h.tiers, k.mem.trans h.mem, k.written.trans h.written, k.poison.trans h.poison,
    fun n => (k.lost n).trans (h.lost n)⟩

theorem modChan (h : SameAccesses s t) (n : Nat) {f : Chan → Chan} (hf : ∀ c, (f c).lost = c.lost) : SameAccesses s (t.modChan n f) :=
  { h with lost := fun k => (SMap.get_modify_keep Chan.lost hf t.chans n k).trans (h.lost k) }

theorem modStack (h : SameAccesses s t) (n : Nat) (f : Stack → Stack) : SameAccesses s (t.modStack n f) :=
  ⟨h.settings, h.tiers, h.mem, h.written, h.poison, h.lost⟩

/-- Commands have no part in where bytes lie. -/
theorem setCmds (h : SameAccesses s t) {u : State} (hu : { u with cmds := t.cmds } = t) : SameAccesses s u := by
  have hk : SameAccesses { u with cmds := t.cmds } u := ⟨rfl, rfl, rfl, rfl, rfl, fun _ => rfl⟩
  rw [hu] at hk
  exact h.trans hk

theorem modCmd (h : SameAccesses s t) (id : Nat) (f : Cmd → Cmd) : SameAccesses s (t.modCmd id f) := h.setCmds rfl

variable (h : SameAccesses s t)
include h

theorem keyAt (p x : Nat) : keyAt t p x = keyAt s p x := keyAt_congr h.settings h.tiers p x

theorem byte (a : Nat) : t.byte a = s.byte a := byte_congr h.mem a

theorem range (p x len : Nat) : t.range p x len = s.range p x len := by
  simp only [State.range, h.byte, h.keyAt]

theorem num (p x len : Nat) : t.num p x len = s.num p x len := by rw [State.num, h.range, State.num]

theorem src (p : Nat) (n : Nd) (base e : Nat) : n.src t p base e = n.src s p base e := by
  simp only [Nd.src, Nd.elem, State.codeAt, h.num]

theorem runs (p : Nat) (n : Nd) (base fmt : Nat) (l : List (Nat × Nat)) : n.runs t p base fmt l = n.runs s p base fmt l := by
  have hr : runBytes t p (addrOff base) (bitsPer fmt) = runBytes s p (addrOff base) (bitsPer fmt) := by
    funext r
    simp only [runBytes, h.num]
  rw [Nd.runs, hr, Nd.runs]

theorem srcPoisoned (p : Nat) (xs : List (Nat × Nat)) : srcPoisoned t p xs = srcPoisoned s p xs := by
  simp only [Machine.srcPoisoned, h.poisonedRange]

theorem place (x : Nat) : place t x = place s x := by simp only [Machine.place, chanBits, diesPer, h.settings]

theorem homeAt (p x : Nat) : homeAt t p x = homeAt s p x := by
  simp only [Machine.homeAt, moduleChan, firstDie, diesPer, h.place, h.settings]

theorem nmuHome (p : Nat) (n : Nd) (e : Nat) : nmuHome t p n e = nmuHome s p n e := h.homeAt p _

theorem nextElem (p : Nat) (n : Nd) (ch k e : Nat) : nextElem t p n ch k e = nextElem s p n ch k e := by
  induction k generalizing e with
  | zero => rfl
  | succ k ih => simp only [Machine.nextElem, h.nmuHome, ih]

theorem srcBytes (n : Nd) (es : List Nat) : n.srcBytes t es = n.srcBytes s es := by
  simp only [Nd.srcBytes, stackAt, diesPer, h.place, h.settings]

theorem chainHeld (hq : ∀ j, (chan t j).queue = (chan s j).queue) (p id ch : Nat) (grs : List Nat) :
    chainHeld t p id ch grs = chainHeld s p id ch grs := by
  simp only [Machine.chainHeld, h.homeAt, hq]

/-! ### Writes by states that agree on accesses -/

theorem poke (k : Nat) (bs : List Byte) : SameAccesses (s.poke k bs) (t.poke k bs) := by
  refine ⟨h.settings, h.tiers, ?_, ?_, h.poison, h.lost⟩
  · exact congrArg (fun m : Memory => m.puts k bs) h.mem
  · exact congrArg (fun m : SMap Bool => SMap.set false m (k / 4096) true) h.written

theorem setPoison (k : Nat) (b : Bool) : SameAccesses (s.setPoison k b) (t.setPoison k b) := by
  refine ⟨h.settings, h.tiers, h.mem, h.written, ?_, h.lost⟩
  simp only [State.setPoison, h.poison, h.isLost]

theorem dirtyAt (p x : Nat) : SameAccesses (s.dirtyAt p x) (t.dirtyAt p x) := by
  have hf : frameOf t p (x / 65536) = frameOf s p (x / 65536) := by simp only [frameOf, tier, h.tiers]
  simp only [State.dirtyAt, isTier1_congr h.settings, hf]
  split
  · split
    · refine ⟨h.settings, ?_, h.mem, h.written, h.poison, h.lost⟩
      simp only [State.modTier, h.tiers]
    · exact h
  · exact h

theorem wide64 (k : Nat) (bs : List Byte) :
    SameAccesses (s.wide64 k bs).1 (t.wide64 k bs).1 ∧ (t.wide64 k bs).2 = (s.wide64 k bs).2 := by
  simp only [State.wide64, h.isPoisoned]
  split
  · split
    · exact ⟨(h.poke k bs).setPoison k false, rfl⟩
    · exact ⟨h, rfl⟩
  · exact ⟨h.poke k bs, rfl⟩

theorem narrowAt (p x : Nat) (bs : List Byte) : SameAccesses (s.narrowAt p x bs).1 (t.narrowAt p x bs).1 := by
  simp only [State.narrowAt, h.keyAt, h.isPoisoned]
  split
  · exact h
  · exact (h.poke _ bs).dirtyAt p x

end SameAccesses

/-! ### Writes of a command -/

theorem SameAccesses.widePiece {p x : Nat} {bs : List Byte} {a b : State × Bool} (h : SameAccesses a.1 b.1) (c : Nat × Nat) :
    SameAccesses (widePiece p x bs a c).1 (widePiece p x bs b c).1 := by
  obtain ⟨hw, hd⟩ := h.wide64 (Machine.keyAt a.1 p c.1) ((bs.drop (c.1 - x)).take c.2)
  simp only [Machine.widePiece, h.keyAt, hd]
  split
  · exact hw
  · exact hw.dirtyAt p c.1

theorem SameAccesses.wideAt {s t : State} (h : SameAccesses s t) (p x : Nat) (bs : List Byte) :
    SameAccesses (s.wideAt p x bs).1 (t.wideAt p x bs).1 := by
  rw [wideAt_eq, wideAt_eq]
  suffices hl : ∀ (l : List (Nat × Nat)) (a b : State × Bool), SameAccesses a.1 b.1 →
      SameAccesses (l.foldl (Machine.widePiece p x bs) a).1 (l.foldl (Machine.widePiece p x bs) b).1 from hl _ _ _ h
  intro l
  induction l with
  | nil => exact fun _ _ hab => hab
  | cons c l ih => exact fun a b hab => ih _ _ (hab.widePiece c)

/-- The digest and the late status of a write stand with its command. -/
theorem cmdWrite_sameAccesses (s : State) (id p x : Nat) (bs : List Byte) : SameAccesses (s.wideAt p x bs).1 (s.cmdWrite id p x bs) := by
  have hn : SameAccesses (s.wideAt p x bs).1 ((s.wideAt p x bs).1.noteWrite id p x bs.length) :=
    (SameAccesses.refl _).setCmds (noteWrite_rest _ id p x bs.length)
  unfold State.cmdWrite
  dsimp only
  split
  · exact hn.modCmd id _
  · exact hn

theorem SameAccesses.symm {s t : State} (h : SameAccesses s t) : SameAccesses t s :=
  ⟨h.settings.symm, h.tiers.symm, h.mem.symm, h.written.symm, h.poison.symm, fun n => (h.lost n).symm⟩

theorem SameAccesses.cmdWrite {s t : State} (h : SameAccesses s t) (id p x : Nat) (bs : List Byte) :
    SameAccesses (s.cmdWrite id p x bs) (t.cmdWrite id p x bs) :=
  ((cmdWrite_sameAccesses s id p x bs).symm.trans (h.wideAt p x bs)).trans (cmdWrite_sameAccesses t id p x bs)

/-- The bytes of some runs, written for a command. -/
def State.cmdWrites (s : State) (id p : Nat) (l : List (Nat × List Byte)) : State := l.foldl (fun t r => t.cmdWrite id p r.1 r.2) s

theorem SameAccesses.cmdWrites {s t : State} (h : SameAccesses s t) (id p : Nat) (l : List (Nat × List Byte)) :
    SameAccesses (s.cmdWrites id p l) (t.cmdWrites id p l) := by
  induction l generalizing s t with
  | nil => exact h
  | cons r l ih => exact ih (h.cmdWrite id p r.1 r.2)

theorem SameAccesses.writeCodes {s t : State} (h : SameAccesses s t) (c : Cmd) (n : Nd) (l : List (Nat × Nat)) :
    SameAccesses (s.writeCodes c n l) (t.writeCodes c n l) := by
  have hw := h.cmdWrites c.id c.part (n.runs s c.part n.dst n.outF l)
  rw [State.writeCodes, State.writeCodes, h.runs]
  exact hw

/-! ### What the writes of a command leave -/

theorem wideAt_cmds (s : State) (p x : Nat) (bs : List Byte) : (s.wideAt p x bs).1.cmds = s.cmds := by
  have h := congrArg State.cmds (wideAt_bare s p x bs)
  exact h

theorem wideAt_chans (s : State) (p x : Nat) (bs : List Byte) : (s.wideAt p x bs).1.chans = s.chans := by
  have h := congrArg State.chans (wideAt_bare s p x bs)
  exact h

theorem noteWrite_chans (s : State) (id p x len : Nat) : (s.noteWrite id p x len).chans = s.chans := by
  have h := congrArg State.chans (noteWrite_rest s id p x len)
  exact h

theorem cmdWrite_chans (s : State) (id p x : Nat) (bs : List Byte) : (s.cmdWrite id p x bs).chans = s.chans := by
  have h := (noteWrite_chans (s.wideAt p x bs).1 id p x bs.length).trans (wideAt_chans s p x bs)
  unfold State.cmdWrite
  dsimp only
  split <;> exact h

/-- What a command has been credited with: elements passed over, and flags. -/
def State.credit (s : State) (id : Nat) : Option (Nat × Flags) := (s.cmd? id).map (fun c => (c.nonfinite, c.flags))

theorem credit_congr {s t : State} (h : t.cmds = s.cmds) (id : Nat) : t.credit id = s.credit id := by
  rw [State.credit, State.cmd?_congr h, State.credit]

theorem credit_modCmd (s : State) (i j : Nat) {f : Cmd → Cmd} (hf : ∀ c, ((f c).nonfinite, (f c).flags) = (c.nonfinite, c.flags)) :
    (s.modCmd i f).credit j = s.credit j := by
  rw [State.credit, State.cmd?_modCmd, Option.map_map, State.credit]
  congr 1
  funext c
  simp only [Function.comp_apply]
  split
  · exact hf c
  · rfl

theorem credit_noteWrite (s : State) (id p x len j : Nat) : (s.noteWrite id p x len).credit j = s.credit j := by
  unfold State.noteWrite
  split
  · split
    · exact credit_modCmd _ _ _ fun _ => rfl
    · rfl
  · rfl

theorem credit_noteLate (s : State) (id st j : Nat) : (s.noteLate id st).credit j = s.credit j := credit_modCmd s id j fun _ => rfl

theorem credit_cmdWrite (s : State) (id p x : Nat) (bs : List Byte) (j : Nat) : (s.cmdWrite id p x bs).credit j = s.credit j := by
  have h := (credit_noteWrite (s.wideAt p x bs).1 id p x bs.length j).trans (credit_congr (wideAt_cmds s p x bs) j)
  unfold State.cmdWrite
  dsimp only
  split
  · exact (credit_noteLate _ _ _ _).trans h
  · exact h

/-! ### A step of an element-wise command (R195, R204) -/

theorem chan_modChan_same (s : State) (ch : Nat) (f : Chan → Chan) : chan (s.modChan ch f) ch = f (chan s ch) :=
  (chan_modChan s ch ch f).trans (if_pos rfl)

theorem isEw_op {n : Nd} (h : n.isEw = true) : 1 ≤ n.op ∧ n.op ≤ 0x0B := by simpa [Nd.isEw] using h

theorem isOpt_of_isEw {n : Nd} (h : n.isEw = true) : n.isOpt = false := by
  have := isEw_op h
  simp only [Nd.isOpt, Bool.or_eq_false_iff, beq_eq_false_iff_ne]
  omega

theorem isNorm_of_isEw {n : Nd} (h : n.isEw = true) : n.isNorm = false := by
  have := isEw_op h
  simp only [Nd.isNorm, Bool.or_eq_false_iff, beq_eq_false_iff_ne]
  omega

/-- The result of an element-wise operation on the sources of one element, converted to OUT_FMT. -/
def Nd.ewResult (s : State) (n : Nd) (c : Cmd) (e : Nat) : Res Nat :=
  n.put c n.tensor e (ewOp n (n.src s c.part n.src0 e) (if n.useRow1 then n.src s c.part n.src1 e else 0)
    (if n.useRow2 then n.src s c.part n.src2 e else 0))

theorem SameAccesses.ewResult {s t : State} (h : SameAccesses s t) (n : Nd) (c : Cmd) (e : Nat) : n.ewResult t c e = n.ewResult s c e := by
  simp only [Nd.ewResult, h.src]

/-- With no error held for its slot, a unit's reads meet none. -/
theorem meet_of_errs_nil {s : State} {ch : Nat} (h : (chan s ch).errs = []) (p : Nat) (xs : List (Nat × Nat)) : s.meet ch p xs = s := by
  rw [State.meet, h]
  rfl

theorem stepSeg_of_isEw {s : State} {ch e : Nat} {g : Seg} {c : Cmd} (hc : s.cmd? g.cmd = some c) (hew : (ndOf c.bits).isEw = true)
    (hp : g.pass = 2) (he : nextElem s c.part (ndOf c.bits) ch ((ndOf c.bits).total + 1) g.next = some e)
    (hheld : chainHeld s c.part c.id ch (granulesOf ((ndOf c.bits).srcBytes s (accessGroup (ndOf c.bits) e))) = false)
    (herrs : (chan s ch).errs = []) :
    ∃ rows, s.stepSeg ch g = some (s.stepGroup ch c (ndOf c.bits) g (accessGroup (ndOf c.bits) e)
      ((ndOf c.bits).srcBytes s (accessGroup (ndOf c.bits) e)) rows) := by
  have hop := isEw_op hew
  have h28 : (ndOf c.bits).op ≠ 0x28 := by omega
  have h12 : (ndOf c.bits).op ≠ 0x12 := by omega
  refine ⟨((accessGroup (ndOf c.bits) e).map (· / (ndOf c.bits).rowLen)).dedup, ?_⟩
  simp [State.stepSeg, hc, h28, h12, isOpt_of_isEw hew, isNorm_of_isEw hew, hp, he, hheld, meet_of_errs_nil herrs]

/-- The first step of a run is the first segment's, where that can go on. -/
theorem runUnit_one {s t : State} {ch : Nat} {g : Seg} {gs : List Seg} (hq : (chan s ch).queue = g :: gs) (ht : s.stepSeg ch g = some t) :
    s.runUnit ch 1 = t := by
  have hf : firstStep s ch [] (g :: gs) = some t := by simp [firstStep, ht]
  rw [State.runUnit, hq, hf]
  rfl

theorem finishSeg_byte (s : State) (ch id a : Nat) : (s.finishSeg ch id).byte a = s.byte a := by
  unfold State.finishSeg
  extract_lets t u
  have hu : u.byte a = s.byte a := byte_congr rfl a
  split
  · split
    · exact ((State.finishCmd_frame u id).bytes a).trans hu
    · exact hu
  · exact hu

theorem doGroup_byte (s : State) (ch : Nat) (c : Cmd) (n : Nd) (es : List Nat) (f : Nat → Res Nat) (a : Nat) :
    (s.doGroup ch c n es f).byte a = (s.writeCodes c n (es.map (fun e => (e, (f e).val)))).byte a := by
  have hm : (es.map (fun e => (e, f e))).map (fun r => (r.1, r.2.val)) = es.map (fun e => (e, (f e).val)) := List.map_map
  rw [← hm]
  rfl

/-- Counting what a group reads has no part in where bytes lie. -/
theorem noteSources_sameAccesses (s : State) (p ch : Nat) (n : Nd) (es : List Nat) (xs : List (Nat × Nat)) :
    SameAccesses s (s.noteSources p ch n es xs) := by
  have hfresh (t : State) (k : Nat) (h : SameAccesses s t) : SameAccesses s (t.countFresh k) := by
    unfold State.countFresh
    split
    · exact h.modStack _ _
    · exact h
  have hall (l : List Nat) : ∀ t, SameAccesses s t → SameAccesses s (l.foldl (fun t g => t.countFresh (keyAt t p (4096 * g))) t) := by
    induction l with
    | nil => exact fun _ h => h
    | cons g l ih => exact fun t h => ih _ (hfresh t _ h)
  unfold State.noteSources
  extract_lets _ _ moved u
  have hu : SameAccesses s u := hall _ s (.refl s)
  split
  · exact hu
  · exact hu.modChan ch fun _ => rfl

/-- A group of an element-wise command writes its elements' results. -/
theorem stepGroup_byte_of_isEw {s : State} {ch : Nat} {c : Cmd} {n : Nd} {g : Seg} {es : List Nat} {xs : List (Nat × Nat)}
    (hew : n.isEw = true) (hp : g.pass = 2) (hx : srcPoisoned s c.part xs = false) (rows : List Nat) (a : Nat) :
    (s.stepGroup ch c n g es xs rows).byte a = (s.writeCodes c n (es.map (fun e => (e, (n.ewResult s c e).val)))).byte a := by
  have hop := isEw_op hew
  have h12 : n.op ≠ 0x12 := by omega
  have h18 : n.op ≠ 0x18 := by omega
  have h19 : n.op ≠ 0x19 := by omega
  have hnote := (noteSources_sameAccesses s c.part ch n es xs).writeCodes c n (es.map (fun e => (e, (n.ewResult s c e).val)))
  have hdone : ((s.noteSources c.part ch n es xs).doGroup ch c n es (n.ewResult s c)).byte a =
      (s.writeCodes c n (es.map (fun e => (e, (n.ewResult s c e).val)))).byte a := (doGroup_byte ..).trans (hnote.byte a)
  have hs : s.stepGroup ch c n g es xs rows =
      let u := (s.noteSources c.part ch n es xs).doGroup ch c n es (n.ewResult s c)
      if (nextElem s c.part n ch (n.total + 1) (es.getLastD 0 + 1)).isSome then u else u.finishSeg ch c.id := by
    simp [State.stepGroup, hx, hp, isNorm_of_isEw hew, h12, h18, h19]
    rfl
  rw [hs]
  dsimp only
  split
  · exact hdone
  · exact (finishSeg_byte ..).trans hdone

/-! ### GRANULE_COMMIT (R228, R229) -/

/-- What every write of a command leaves, its writes leave. -/
theorem cmdWrites_keep {β : Type} (g : State → β) {id p : Nat} (hg : ∀ t x bs, g (State.cmdWrite t id p x bs) = g t) (s : State)
    (l : List (Nat × List Byte)) : g (s.cmdWrites id p l) = g s := by
  induction l generalizing s with
  | nil => rfl
  | cons r l ih => exact (ih (s.cmdWrite id p r.1 r.2)).trans (hg s r.1 r.2)

/-- A granule's commit: memory is as in `w`, and the elements passed over and the flags are credited to the granule's command. -/
structure Committed (s : State) (c : Cmd) (k : Commit) (w t : State) : Prop where
  accesses : SameAccesses w t
  chans : t.chans = s.chans
  credit : t.credit c.id = some (c.nonfinite + k.nonfinite, c.flags ||| k.flags)

namespace Committed

variable {s w t : State} {c : Cmd} {k : Commit}

theorem events {u : State} (h : Committed s c k w t) (hu : OnlyEvents t u) : Committed s c k w u :=
  ⟨h.accesses.trans hu.sameAccesses, hu.chans.trans h.chans, (credit_congr hu.cmds c.id).trans h.credit⟩

theorem modStack (h : Committed s c k w t) (n : Nat) (f : Stack → Stack) : Committed s c k w (t.modStack n f) :=
  ⟨h.accesses.modStack n f, h.chans, (credit_congr (State.modStack_cmds _ _ _) c.id).trans h.credit⟩

theorem narrowAt (h : Committed s c k w t) (p x : Nat) (bs : List Byte) :
    Committed s c k (w.narrowAt p x bs).1 (t.narrowAt p x bs).1 := by
  have hb : (t.narrowAt p x bs).1.bare = t.bare := by
    unfold State.narrowAt
    dsimp only
    split
    · rfl
    · exact dirtyAt_bare _ _ _
  have hchans : (t.narrowAt p x bs).1.chans = t.chans := by have e := congrArg State.chans hb; exact e
  have hcmds : (t.narrowAt p x bs).1.cmds = t.cmds := by have e := congrArg State.cmds hb; exact e
  exact ⟨h.accesses.narrowAt p x bs, hchans.trans h.chans, (credit_congr hcmds c.id).trans h.credit⟩

end Committed

theorem commitData_committed {s : State} {c : Cmd} (hc : s.cmd? c.id = some c) (k : Commit) :
    Committed s c k (s.cmdWrites c.id c.part k.writes) (s.commitData c k) := by
  obtain ⟨d, hd, hn, hf⟩ : ∃ d, (s.cmdWrites c.id c.part k.writes).cmd? c.id = some d ∧ d.nonfinite = c.nonfinite ∧
      d.flags = c.flags := by
    have h : (s.cmdWrites c.id c.part k.writes).credit c.id = s.credit c.id :=
      cmdWrites_keep (fun t => t.credit c.id) (fun t x bs => credit_cmdWrite t c.id c.part x bs c.id) s k.writes
    simpa [State.credit, hc] using h
  have hflags := State.cmd?_modCmd_same hd (fun d => { d with flags := d.flags ||| k.flags })
  have hcredit := State.cmd?_modCmd_same hflags (fun d => { d with nonfinite := d.nonfinite + k.nonfinite })
  have hdone : Committed s c k (s.cmdWrites c.id c.part k.writes)
      (((s.cmdWrites c.id c.part k.writes).addFlags c.id k.flags).modCmd c.id
        (fun d => { d with nonfinite := d.nonfinite + k.nonfinite })) := by
    refine ⟨((SameAccesses.refl _).modCmd _ _).modCmd _ _,
      cmdWrites_keep State.chans (fun t x bs => cmdWrite_chans t c.id c.part x bs) s k.writes, ?_⟩
    refine (congrArg (Option.map fun c : Cmd => (c.nonfinite, c.flags)) hcredit).trans ?_
    simp [hn, hf]
  unfold State.commitData
  dsimp only
  split
  · exact hdone
  · exact hdone.events (State.bump_onlyEvents _ _ _ _ _ _)

/-- The stamp record of a slab, as memory holds it. -/
def stampRecord (s : State) (p slab : Nat) : Nat := s.num p (stampAt s p slab) 8

/-- A granule without stamps is written as it stands in the buffer. -/
theorem commitOne_unstamped {s : State} {c : Cmd} (h : c.stamps = false) (k : Commit) : s.commitOne c k = s.commitData c k := by
  simp [State.commitOne, h]

section
variable {s : State} {c : Cmd} {k : Commit} (hst : c.stamps = true) (hp : poisonedRange s c.part (stampAt s c.part k.slab) 8 = false)
include hst hp

/-- The granule's bit of the record is still to be set: the granule is written, and then the record's new value. -/
theorem commitOne_update (hc : s.cmd? c.id = some c)
    (h : stampOf (stampRecord s c.part k.slab) c.step.toNat k.gran = .update) :
    Committed s c k ((s.cmdWrites c.id c.part k.writes).narrowAt c.part (stampAt s c.part k.slab)
      (leBytes 8 (stampNext (stampRecord s c.part k.slab) c.step.toNat k.gran))).1 (s.commitOne c k) := by
  have hdone := (commitData_committed hc k).narrowAt c.part (stampAt s c.part k.slab)
    (leBytes 8 (stampNext (stampRecord s c.part k.slab) c.step.toNat k.gran))
  unfold stampRecord at h hdone ⊢
  simp only [State.commitOne, hst, hp, h, Bool.not_true, Bool.false_eq_true, if_false]
  split
  · exact (hdone.modStack _ _).events (State.bump_onlyEvents _ _ _ _ _ _)
  · exact hdone.modStack _ _

/-- The record says that the granule stands as it should, or does not fit the step: nothing is written. -/
theorem commitOne_skip (h : stampOf (stampRecord s c.part k.slab) c.step.toNat k.gran ≠ .update) :
    s.commitOne c k = s.noteSkip c k.slab (stampRecord s c.part k.slab) := by
  unfold stampRecord at h ⊢
  simp only [State.commitOne, hst, hp, Bool.not_true, Bool.false_eq_true, if_false]

end

theorem exec_granuleCommit_idle {s : State} {ch : Nat} (h : (chan s ch).commits = []) : exec (.granuleCommit ch) s = .next s := by
  show execGranuleCommit ch s = _
  simp only [execGranuleCommit, h]

/-- The buffer of a channel without its first granule. -/
def State.popped (s : State) (ch : Nat) (ks : List Commit) : State := s.modChan ch (fun x => { x with commits := ks })

theorem popped_sameAccesses (s : State) (ch : Nat) (ks : List Commit) : SameAccesses s (s.popped ch ks) :=
  (SameAccesses.refl s).modChan ch fun _ => rfl

theorem popped_stampRecord (s : State) (ch : Nat) (ks : List Commit) (p slab : Nat) :
    stampRecord (s.popped ch ks) p slab = stampRecord s p slab := (popped_sameAccesses s ch ks).num _ _ _

theorem popped_commits (s : State) (ch : Nat) (ks : List Commit) : (chan (s.popped ch ks) ch).commits = ks :=
  congrArg Chan.commits (chan_modChan_same s ch _)

/-- A granule that is passed over changes no byte and no channel. -/
theorem noteSkip_leaves (s : State) (c : Cmd) (slab rec : Nat) :
    (s.noteSkip c slab rec).mem = s.mem ∧ (s.noteSkip c slab rec).chans = s.chans := by
  unfold State.noteSkip
  split
  · have h := State.bump_onlyEvents (s.modCmd c.id (fun d => { d with skipped := d.skipped ++ [slab] }))
      (Blk.trn.page (firstDie s c.part)) Reg.trnStampCnt 63 32 1
    exact ⟨h.mem.trans (State.modCmd_mem _ _ _), h.chans.trans (State.modCmd_chans _ _ _)⟩
  · exact ⟨rfl, rfl⟩

section
variable {s : State} {ch : Nat} {k : Commit} {ks : List Commit} {c : Cmd}
  (hk : (chan s ch).commits = k :: ks) (hc : s.cmd? k.cmd = some c)
include hk hc

/-- A granule stays in the buffer outside processor mode, and while the record that it needs cannot be reached. -/
theorem exec_granuleCommit_held (h : (chan s ch).mode ≠ 2 ∨ (c.stamps = true ∧ stampReachable s ch c.part k.slab = false)) :
    exec (.granuleCommit ch) s = .next s := by
  show execGranuleCommit ch s = _
  simp only [execGranuleCommit, hk, hc]
  exact if_pos (by simpa using h)

/-- Else it is committed, and the unit takes up its next step. -/
theorem exec_granuleCommit (h2 : (chan s ch).mode = 2) (h : c.stamps = true → stampReachable s ch c.part k.slab = true) :
    exec (.granuleCommit ch) s = .next (((s.popped ch ks).commitOne c k).runUnit ch 1) := by
  show execGranuleCommit ch s = _
  simp only [execGranuleCommit, hk, hc]
  exact if_neg (by simpa [h2] using h)

end

/-- The granule has left the buffer, and what it credits stands with its command. -/
def Counted (ch : Nat) (c : Cmd) (k : Commit) (ks : List Commit) (w : State) : Prop :=
  (chan w ch).commits = ks ∧
    ∃ d, w.cmd? k.cmd = some d ∧ d.nonfinite = c.nonfinite + k.nonfinite ∧ d.flags = c.flags ||| k.flags

theorem Committed.counted {s v w t : State} {ch : Nat} {c : Cmd} {k : Commit} {ks : List Commit}
    (h : Committed (s.popped ch ks) c k w t) (hid : c.id = k.cmd) (hw : SameAccesses v w) :
    Counted ch c k ks t ∧ ∀ a, t.byte a = v.byte a := by
  have hcredit := h.credit
  rw [hid] at hcredit
  obtain ⟨d, hd, he⟩ := Option.map_eq_some_iff.1 hcredit
  have hcommits : (chan t ch).commits = ks := (congrArg Chan.commits (chan_congr h.chans ch)).trans (popped_commits s ch ks)
  exact ⟨⟨hcommits, d, hd, congrArg Prod.fst he, congrArg Prod.snd he⟩, (hw.trans h.accesses).byte⟩

section
variable {s : State} {ch : Nat} {k : Commit} {ks : List Commit} {c : Cmd}
  (hk : (chan s ch).commits = k :: ks) (hc : s.cmd? k.cmd = some c) (h2 : (chan s ch).mode = 2)
include hk hc h2

/-- A commit without stamps. -/
theorem granuleCommit_writes (hst : c.stamps = false) : ∃ w : State, exec (.granuleCommit ch) s = .next (w.runUnit ch 1) ∧
    Counted ch c k ks w ∧ ∀ a, w.byte a = (s.cmdWrites c.id c.part k.writes).byte a := by
  have hid : c.id = k.cmd := (State.cmd?_mem hc).2
  have hcp : (s.popped ch ks).cmd? c.id = some c := (congrArg s.cmd? hid).trans hc
  have hdone := commitData_committed hcp k
  rw [← commitOne_unstamped hst] at hdone
  exact ⟨_, exec_granuleCommit hk hc h2 (fun h => absurd (hst.symm.trans h) Bool.false_ne_true),
    hdone.counted hid ((popped_sameAccesses s ch ks).cmdWrites _ _ _)⟩

variable (hst : c.stamps = true) (hr : stampReachable s ch c.part k.slab = true)
  (hp : poisonedRange s c.part (stampAt s c.part k.slab) 8 = false)
include hst hr hp

/-- A commit whose record asks for the update: the record is written after the granule. -/
theorem granuleCommit_updates (h : stampOf (stampRecord s c.part k.slab) c.step.toNat k.gran = .update) :
    ∃ w : State, exec (.granuleCommit ch) s = .next (w.runUnit ch 1) ∧
      Counted ch c k ks w ∧ ∀ a, w.byte a = ((s.cmdWrites c.id c.part k.writes).narrowAt c.part (stampAt s c.part k.slab)
        (leBytes 8 (stampNext (stampRecord s c.part k.slab) c.step.toNat k.gran))).1.byte a := by
  have hpop := popped_sameAccesses s ch ks
  have hid : c.id = k.cmd := (State.cmd?_mem hc).2
  have hcp : (s.popped ch ks).cmd? c.id = some c := (congrArg s.cmd? hid).trans hc
  have hrec := popped_stampRecord s ch ks c.part k.slab
  have hdone := commitOne_update (s := s.popped ch ks) hst ((hpop.poisonedRange _ _ _).trans hp) hcp (hrec ▸ h)
  rw [hrec] at hdone
  exact ⟨_, exec_granuleCommit hk hc h2 (fun _ => hr), hdone.counted hid ((hpop.cmdWrites _ _ _).narrowAt _ _ _)⟩

/-- A commit whose record asks for none. -/
theorem granuleCommit_skips (h : stampOf (stampRecord s c.part k.slab) c.step.toNat k.gran ≠ .update) :
    ∃ w : State, exec (.granuleCommit ch) s = .next (w.runUnit ch 1) ∧ (chan w ch).commits = ks ∧ ∀ a, w.byte a = s.byte a := by
  have hpop := popped_sameAccesses s ch ks
  have hrec := popped_stampRecord s ch ks c.part k.slab
  obtain ⟨hmem, hchans⟩ := noteSkip_leaves (s.popped ch ks) c k.slab
    (stampRecord (s.popped ch ks) c.part k.slab)
  rw [← commitOne_skip hst ((hpop.poisonedRange _ _ _).trans hp) (hrec ▸ h)] at hmem hchans
  exact ⟨_, exec_granuleCommit hk hc h2 (fun _ => hr), (congrArg Chan.commits (chan_congr hchans ch)).trans (popped_commits s ch ks),
    byte_congr (hmem.trans hpop.mem)⟩

end

/-! ### The slots (R196-R200) -/

/-- A channel that begins to switch in. -/
def Chan.switchingIn (c : Chan) (now : Nat) : Chan :=
  { c with mode := 1, slots := Nat.min (2 ^ 32 - 1) (c.slots + 1), slotStart := now }

/-- A channel in processor mode, with the errors that its slot holds. -/
def Chan.working (c : Chan) (eccs : List (Nat × Ecc)) : Chan := { c with mode := 2, errs := eccs }

/-- A channel that begins to switch out, with the accesses that wait. -/
def Chan.switchingOut (c : Chan) (now : Nat) (waiting : List Nat) : Chan :=
  { c with mode := 3, errs := [], outStart := now, backlog := waiting }

/-- A channel back in memory mode, with the longest time that an access waited behind its slot. -/
def Chan.backInMemoryMode (c : Chan) (now held : Nat) : Chan :=
  { c with mode := 0, lastOut := now, procNs := c.procNs + (now - c.slotStart), heldNs := c.heldNs + held, workSince := now }

/-- A change of one channel, beside which a stack may note something. -/
theorem chan_only {v t : State} {ch : Nat} {f : Chan → Chan} (hc : t.chans = SMap.modify {} v.chans ch f)
    (hr : { t with chans := v.chans, stks := v.stks } = v) : chan t ch = f (chan v ch) ∧ (∀ j, j ≠ ch → chan t j = chan v j) ∧
      { t with chans := v.chans, stks := v.stks } = v := by
  have h (j : Nat) : chan t j = if j = ch then f (chan v ch) else chan v j :=
    (chan_congr (s := v.modChan ch f) hc j).trans (chan_modChan v ch j f)
  exact ⟨(h ch).trans (if_pos rfl), fun j hj => (h j).trans (if_neg hj), hr⟩

section
variable {s : State} {ch now : Nat}

theorem exec_nmuSlotGrant_free (h : slotFree (s.at_ now) ch = true) : exec (.nmuSlotGrant ch now) s =
    .next (((s.at_ now).modChan ch (fun c => c.switchingIn (s.at_ now).now)).modStack (ch / 32)
      (fun x => { x with lastGrant := some (s.at_ now).now })) := by
  show execNmuSlotGrant ch now s = _
  rw [execNmuSlotGrant]
  exact if_pos h

theorem exec_nmuSlotGrant_held (h : slotFree (s.at_ now) ch = false) : exec (.nmuSlotGrant ch now) s = .next (s.at_ now) := by
  show execNmuSlotGrant ch now s = _
  rw [execNmuSlotGrant]
  exact if_neg (Bool.eq_false_iff.1 h)

/-- The slot ends when its time is over or the queue stalls. -/
theorem exec_nmuSlotEnd (h2 : (chan (s.at_ now) ch).mode = 2)
    (h : (chan (s.at_ now) ch).slotStart + 180 + slotNs (s.at_ now) ch ≤ (s.at_ now).now ∨ unitStalled (s.at_ now) ch = true) :
    exec (.nmuSlotEnd ch now) s = .next ((s.at_ now).modChan ch (fun c =>
      c.switchingOut (s.at_ now).now ((waitingAt (s.at_ now) ch).map (·.id)))) := by
  show execNmuSlotEnd ch now s = _
  rw [execNmuSlotEnd]
  refine if_pos ?_
  simp only [Bool.and_eq_true, Bool.or_eq_true, decide_eq_true_eq]
  exact ⟨h2, h⟩

theorem exec_nmuSlotEnd_early (h : (chan (s.at_ now) ch).mode ≠ 2 ∨ ((s.at_ now).now < (chan (s.at_ now) ch).slotStart + 180 +
    slotNs (s.at_ now) ch ∧ unitStalled (s.at_ now) ch = false)) : exec (.nmuSlotEnd ch now) s = .next (s.at_ now) := by
  show execNmuSlotEnd ch now s = _
  rw [execNmuSlotEnd]
  refine if_neg ?_
  simp only [Bool.and_eq_true, Bool.or_eq_true, decide_eq_true_eq]
  rintro ⟨h2, hend⟩
  obtain ⟨ht, hu⟩ := h.resolve_left (not_not.2 h2)
  exact hend.elim (Nat.not_le.2 ht) (by simp [hu])

/-- The longest of some times that began at `waits` and last until now; 0 for none. -/
def longestSince (now : Nat) : List Nat → Nat
  | [] => 0
  | w :: ws => now - ws.foldl Nat.min w

theorem le_longestSince {now x : Nat} {l : List Nat} (h : x ∈ l) : now - x ≤ longestSince now l := by
  cases l with
  | nil => cases h
  | cons w ws =>
    have hm := (List.min?_eq_some_iff.1 (List.min?_cons' (x := w) (xs := ws))).2 x h
    exact Nat.sub_le_sub_left hm now

theorem exists_longestSince (now : Nat) {l : List Nat} (h : l ≠ []) : ∃ x ∈ l, longestSince now l = now - x := by
  cases l with
  | nil => exact absurd rfl h
  | cons w ws => exact ⟨_, (List.min?_eq_some_iff.1 (List.min?_cons' (x := w) (xs := ws))).1, rfl⟩

/-- When each access that waits at a channel began to wait behind its slot. -/
def waitStarts (v : State) (ch : Nat) : List Nat := (waitingAt v ch).map (fun r => Nat.max (chan v ch).slotStart r.born)

/-- 180 ns after the slot's end memory mode returns. -/
theorem exec_nmuSwitchOutEnd (h3 : (chan (s.at_ now) ch).mode = 3) (hn : (chan (s.at_ now) ch).outStart + 180 ≤ (s.at_ now).now) :
    exec (.nmuSwitchOutEnd ch now) s = .next (((s.at_ now).modChan ch (fun c =>
      c.backInMemoryMode (s.at_ now).now (longestSince (s.at_ now).now (waitStarts (s.at_ now) ch)))).flushWins) := by
  show execNmuSwitchOutEnd ch now s = _
  simp only [execNmuSwitchOutEnd, h3, hn, decide_true, Bool.and_self, if_true]
  rfl

theorem exec_nmuSwitchOutEnd_early (h : (chan (s.at_ now) ch).mode ≠ 3 ∨ (s.at_ now).now < (chan (s.at_ now) ch).outStart + 180) :
    exec (.nmuSwitchOutEnd ch now) s = .next (s.at_ now) := by
  show execNmuSwitchOutEnd ch now s = _
  rw [execNmuSwitchOutEnd]
  exact if_neg (by simpa [imp_iff_not_or] using h)

section
variable {budget : Nat} {eccs : List (Nat × Ecc)}

/-- 180 ns after its grant the channel is in processor mode, and its unit works. -/
theorem exec_nmuSwitchInEnd (h1 : (chan (s.at_ now) ch).mode = 1) (h : (chan (s.at_ now) ch).slotStart + 180 ≤ (s.at_ now).now) :
    exec (.nmuSwitchInEnd ch now budget eccs) s = .next (((s.at_ now).modChan ch (fun c => c.working eccs)).runUnit ch budget) := by
  show execNmuSwitchInEnd ch now budget eccs s = _
  rw [execNmuSwitchInEnd]
  refine if_pos ?_
  simp only [Bool.and_eq_true, decide_eq_true_eq]
  exact ⟨h1, h⟩

theorem exec_nmuSwitchInEnd_early (h : (chan (s.at_ now) ch).mode ≠ 1 ∨ (s.at_ now).now < (chan (s.at_ now) ch).slotStart + 180) :
    exec (.nmuSwitchInEnd ch now budget eccs) s = .next (s.at_ now) := by
  show execNmuSwitchInEnd ch now budget eccs s = _
  rw [execNmuSwitchInEnd]
  exact if_neg (by simpa [imp_iff_not_or] using h)

end

/-! ### NMU_GRANT_TIMEOUT (R200, R217) -/

/-- LIMIT_MS of a partition's first stack, in nanoseconds. -/
def grantLimit (s : State) (p : Nat) : Nat := 1000000 * s.regFld (nmuPage (2 * firstDie s p)) Reg.nmuGrantLim 13 0

/-- A unit in memory mode has waited longer than the limit for its slot, since the command's start, its last slot's end and the time when
it last took up work. -/
def waitsLate (s : State) (since lim now x : Nat) : Prop :=
  (chan s x).mode = 0 ∧ Nat.max since (Nat.max (chan s x).lastOut (chan s x).workSince) + lim < now

theorem waitsLate_iff {since lim x : Nat} :
    (grantWait s since x).any (fun w => decide (w + lim < now)) = true ↔ waitsLate s since lim now x := by
  unfold grantWait waitsLate
  by_cases h : (chan s x).mode = 0 <;> simp [h]

/-- The command ends with SLOT_DENIED, and its unit counts the denial. -/
def State.slotDenied (s : State) (id x : Nat) : State :=
  (s.endCmd id St.slotDenied).modChan x (fun k => { k with denied := satAdd 16 k.denied 1 })

/-- The end of a command takes no denial off a unit. -/
theorem endCmd_denied (s : State) (id st n : Nat) : (chan (s.endCmd id st) n).denied = (chan s n).denied := by
  rcases State.endCmd_field State.chans (fun _ _ _ => rfl) (fun _ _ _ => rfl) (fun _ _ _ => rfl) (fun _ _ _ => rfl)
    (fun _ _ _ => rfl) (fun _ _ _ => rfl) (fun _ _ _ => rfl) (fun _ _ _ => rfl) (fun _ _ => rfl) s id st with h | ⟨-, t, ht, -, -, -, e⟩
  · rw [chan_congr h]
  · rw [chan_congr e]
    refine (congrArg Chan.denied (SMap.get_mapVals _ _ rfl t.chans n)).trans ?_
    show (chan t n).denied = _
    rw [chan_congr ht]

theorem slotDenied_denied (s : State) (id x : Nat) : (chan (s.slotDenied id x) x).denied = Nat.min 65535 ((chan s x).denied + 1) := by
  rw [State.slotDenied, chan_modChan_same, ← endCmd_denied s id St.slotDenied x]
  rfl

section
variable {id since : Nat} {c : Cmd} (hc : s.cmd? id = some c) (hst : c.status = none) (hw : c.wait = .slotGrant since)
include hc hst hw

theorem exec_nmuGrantTimeout_none (h : ∀ x ∈ c.units, ¬waitsLate s since (grantLimit s c.part) (s.at_ now).now x) :
    exec (.nmuGrantTimeout id now) s = .next (s.at_ now) := by
  show execNmuGrantTimeout id now s = _
  simp only [execNmuGrantTimeout, State.cmd?_congr (s.atTime_cmds now), hc, hw, hst]
  split
  next x hx =>
    have ht := List.find?_some hx
    exact absurd (waitsLate_iff.1 ht) (h x (List.mem_of_find?_eq_some hx))
  next => rfl

theorem exec_nmuGrantTimeout_late (h : ∃ x ∈ c.units, waitsLate s since (grantLimit s c.part) (s.at_ now).now x) :
    ∃ x ∈ c.units, waitsLate s since (grantLimit s c.part) (s.at_ now).now x ∧ ∃ d,
      exec (.nmuGrantTimeout id now) s = .next (((s.at_ now).slotDenied id x).raise_ (nmuPage (x / 32)) 0 d) := by
  show ∃ x ∈ c.units, _ ∧ ∃ d, execNmuGrantTimeout id now s = _
  simp only [execNmuGrantTimeout, State.cmd?_congr (s.atTime_cmds now), hc, hw, hst]
  split
  next x hx =>
    have ht := List.find?_some hx
    exact ⟨x, List.mem_of_find?_eq_some hx, waitsLate_iff.1 ht, _, rfl⟩
  next hn =>
    obtain ⟨x, hx, hl⟩ := h
    exact absurd (waitsLate_iff.2 hl) (List.find?_eq_none.1 hn x hx)

end
end

/-- The end of the command with SLOT_DENIED, the unit's count and the event. -/
theorem slotDenied_raised {v : State} {id x : Nat} {c : Cmd} (hs : v.settings.partitions ≤ 4) (hc : v.cmd? id = some c)
    (hst : c.status = none) (d : Det) :
    let t := (v.slotDenied id x).raise_ (nmuPage (x / 32)) 0 d
    CmdFrame v (v.slotDenied id x) ∧ AsideFromEvents (v.slotDenied id x) t ∧ EndedWith t id St.slotDenied ∧
      (chan t x).denied = Nat.min 65535 ((chan v x).denied + 1) ∧ (t.reg (nmuPage (x / 32)) Reg.irqStat).testBit 0 = true := by
  have hframe : CmdFrame v (v.slotDenied id x) := (State.endCmd_frame v id _).trans (State.modChan_frame _ _ _)
  have hpart : (v.slotDenied id x).settings.partitions ≤ 4 := hframe.settings ▸ hs
  have hevents := State.raise_onlyEvents (v.slotDenied id x) (nmuPage (x / 32)) 0 d
  obtain ⟨e, he, hend⟩ := State.endCmd_ended v id St.slotDenied c hc hst
  refine ⟨hframe, State.raise_aside _ _ _ _ hpart, ⟨e, ?_, hend⟩, ?_, State.raise_bit _ _ _ _ (by decide) hpart⟩
  · exact (State.cmd?_congr hevents.cmds id).trans he
  · exact (congrArg Chan.denied (chan_congr hevents.chans x)).trans (slotDenied_denied v id x)

/-! ### The first step of a slot (R196, R199) -/

/-- One step of a unit that has just taken up its slot, at an element-wise command whose sources are at hand. -/
theorem firstStep_byte_of_isEw {v : State} {ch e : Nat} {g : Seg} {gs : List Seg} {c : Cmd} (hq : (chan v ch).queue = g :: gs)
    (hc : v.cmd? g.cmd = some c) (hew : (ndOf c.bits).isEw = true) (hp : g.pass = 2)
    (he : nextElem v c.part (ndOf c.bits) ch ((ndOf c.bits).total + 1) g.next = some e)
    (hheld : chainHeld v c.part c.id ch (granulesOf ((ndOf c.bits).srcBytes v (accessGroup (ndOf c.bits) e))) = false)
    (hx : srcPoisoned v c.part ((ndOf c.bits).srcBytes v (accessGroup (ndOf c.bits) e)) = false) (a : Nat) :
    ((v.modChan ch (fun k => k.working [])).runUnit ch 1).byte a = (v.writeCodes c (ndOf c.bits)
      ((accessGroup (ndOf c.bits) e).map (fun e => (e, ((ndOf c.bits).ewResult v c e).val)))).byte a := by
  have hw : SameAccesses v (v.modChan ch (fun k => k.working [])) := (SameAccesses.refl v).modChan ch fun _ => rfl
  have hchan : chan (v.modChan ch (fun k => k.working [])) ch = (chan v ch).working [] := chan_modChan_same v ch _
  have hqueue (j : Nat) : (chan (v.modChan ch (fun k => k.working [])) j).queue = (chan v j).queue :=
    SMap.get_modify_keep Chan.queue (f := fun k => k.working []) (fun _ => rfl) v.chans ch j
  have hcmd : (v.modChan ch (fun k => k.working [])).cmd? g.cmd = some c := hc
  generalize v.modChan ch (fun k => k.working []) = w at hw hchan hqueue hcmd ⊢
  have herrs : (chan w ch).errs = [] := congrArg Chan.errs hchan
  rw [← hw.nextElem] at he
  rw [← hw.chainHeld hqueue, ← hw.srcBytes] at hheld
  rw [← hw.srcPoisoned, ← hw.srcBytes] at hx
  obtain ⟨rows, hstep⟩ := stepSeg_of_isEw hcmd hew hp he hheld herrs
  rw [runUnit_one ((hqueue ch).trans hq) hstep, stepGroup_byte_of_isEw hew hp hx]
  simp only [hw.ewResult]
  exact (hw.writeCodes c _ _).byte a

/-! ### The obligation -/

/-- Settles O40: the slots by the rule of each command, a step by `firstStep_byte_of_isEw`, and a commit by `Committed`. -/
theorem nearMemorySlotsAndUnits : Obligations.NearMemorySlotsAndUnits := by
  refine ⟨?_, ?_⟩
  · intro s ch now hs v k only
    refine ⟨fun h => ?_, exec_nmuSlotGrant_held, fun h2 h => ?_, exec_nmuSlotEnd_early, fun h3 h => ?_, exec_nmuSwitchOutEnd_early, ?_⟩
    · refine ⟨_, exec_nmuSlotGrant_free h, chan_only (f := fun c => c.switchingIn v.now) rfl rfl, ?_⟩
      rw [stack_modStack, if_pos rfl]
    · exact ⟨_, exec_nmuSlotEnd h2 h, chan_only (f := fun c => c.switchingOut v.now ((waitingAt v ch).map (·.id))) rfl rfl⟩
    · refine ⟨_, longestSince v.now (waitStarts v ch), exec_nmuSwitchOutEnd h3 h,
        chan_only (f := fun c => c.backInMemoryMode v.now (longestSince v.now (waitStarts v ch))) rfl rfl, fun hw => ?_,
        fun r hr => le_longestSince (List.mem_map_of_mem hr), fun hw => ?_⟩
      · rw [waitStarts, hw]
        rfl
      · obtain ⟨x, hx, hl⟩ := exists_longestSince v.now (l := waitStarts v ch) (by simpa [waitStarts] using hw)
        obtain ⟨r, hr, rfl⟩ := List.mem_map.1 hx
        exact ⟨r, hr, hl⟩
    · intro id c since hc hst hw lim late
      have hpart : s.settings.partitions ≤ 4 := sound_partitions hs
      refine ⟨exec_nmuGrantTimeout_none hc hst hw, fun h => ?_⟩
      obtain ⟨x, hx, hl, d, he⟩ := exec_nmuGrantTimeout_late hc hst hw h
      exact ⟨x, hx, hl, _, _, he, slotDenied_raised (v := v) hpart hc hst d⟩
  · intro s ch now hs v k
    refine ⟨fun budget eccs h1 h => ?_, fun budget eccs => exec_nmuSwitchInEnd_early, exec_granuleCommit_idle, fun g gs c hk hc => ?_⟩
    · obtain ⟨hsame, hother, hrest⟩ := chan_only (t := v.modChan ch (fun c => c.working eccs)) (f := fun c => c.working eccs) rfl rfl
      refine ⟨_, exec_nmuSwitchInEnd h1 h, hsame, hother, hrest, ?_⟩
      rintro - rfl g gs c e hq hc hew hp he n es xs hheld hx a
      exact firstStep_byte_of_isEw hq hc hew hp he hheld hx a
    · intro rec_ put counted
      exact ⟨exec_granuleCommit_held hk hc, granuleCommit_writes hk hc, fun h2 hst hr hp =>
        ⟨granuleCommit_updates hk hc h2 hst hr hp, granuleCommit_skips hk hc h2 hst hr hp⟩⟩

end Sys2Proof.Machine

/-! ## MODE, INPUT and TRN_LEDGER_CTL (O26)

MODE and INPUT end in `finishCmd`, which leaves the ledger; the entry of an INPUT is one ledger write to HBM, behind the event of a
ring that wraps. A write of TRN_LEDGER_CTL is one stored word and one change of the ledgers, and events beside them. -/

namespace Sys2Proof.Machine

/-! ### One partition's ledger -/

theorem ledger_modLedger_other (s : State) {p q : Nat} (h : q ≠ p) (f : Ledger → Ledger) :
    ledger (s.modLedger p f) q = ledger s q := SMap.get_modify_other _ _ f h

theorem ledger_finishCmd (s : State) (id p : Nat) : ledger (s.finishCmd id) p = ledger s p := by
  rw [ledger, (s.finishCmd_frame id).ledgers, ledger]

/-- What a change of one partition's ledger and then the end of a command may touch. -/
theorem CmdFrame.of_modLedger {u t : State} {p : Nat} {f : Ledger → Ledger} (h : CmdFrame (u.modLedger p f) t) :
    CmdFrame { u with ledgers := t.ledgers } t := by
  rw [h.ledgers]
  exact h

/-! ### The command that starts -/

/-- The command that starts is one of the row's ring. -/
theorem Starts.ring_eq {a : Bool} {cls sub k : Nat} {need : State → Cmd → List Nat} {check : State → Cmd → Option Nat}
    {s u : State} {x : Cmd} (h : Starts a cls sub k need check s u x) : x.ring = k := by
  obtain ⟨v, c, ha, -, -, -, rfl, -⟩ := h
  rcases ha with ⟨hc, -⟩ | ⟨-, b, -, -, -, -, -, -, rfl⟩
  · have hp := List.find?_some hc
    simp only [Bool.and_eq_true, beq_iff_eq] at hp
    obtain ⟨⟨⟨⟨hring, -⟩, -⟩, -⟩, -⟩ := hp
    exact hring
  · rfl

theorem Starts.poisonedRange {a : Bool} {cls sub k : Nat} {need : State → Cmd → List Nat} {check : State → Cmd → Option Nat}
    {s u : State} {x : Cmd} (h : Starts a cls sub k need check s u x) (p y len : Nat) :
    poisonedRange u p y len = poisonedRange s p y len := by
  refine Starts.field (Machine.poisonedRange · p y len) h ?_ ?_ ?_ ?_ ?_ ?_ ?_ <;> exact fun _ _ _ => rfl

/-- It ends with DONE once its row finishes it in a state with the same commands. -/
theorem Starts.finishes {a : Bool} {cls sub k : Nat} {need : State → Cmd → List Nat} {check : State → Cmd → Option Nat}
    {s u t : State} {x : Cmd} (h : Starts a cls sub k need check s u x) (hs : Sound s) (ht : t.cmds = u.cmds) :
    EndedWith (t.finishCmd x.id) x.id St.done := by
  obtain ⟨hx, hst, hlate, -, -⟩ := h.cmd? hs
  have hend := State.finishCmd_ended ((State.cmd?_congr ht x.id).trans hx) hst
  rwa [hlate] at hend

/-! ### An entry of the open record (R240, Table TRN-9) -/

theorem ledgerBase_move {s t : State} (h : LedgerMove s t) (p : Nat) : ledgerBase t p = ledgerBase s p := by
  rw [ledgerBase, ledgerBase, State.regFld, State.regFld, trnPage_congr h.settings,
    h.regs _ _ (by decide) (by decide) (by decide)]

/-- One more unit of 32 bytes in the open record. -/
def Ledger.addUnit (l : Ledger) : Ledger := { l with units := l.units + 1 }

theorem ledgerAppend_none {s : State} {p : Nat} (h : (ledger s p).openAt = none) (ws : List Nat) : s.ledgerAppend p ws = s := by
  simp only [State.ledgerAppend, h]

theorem ledgerAppend_some {s : State} {p a : Nat} (h : (ledger s p).openAt = some a) (ws : List Nat) :
    s.ledgerAppend p ws = ((s.modLedger p Ledger.addUnit).ledgerWrap p (a + 32 * (ledger s p).units) 32).ledgerWrite p
      (a + 32 * (ledger s p).units) (ws.flatMap (leBytes 8)) := by
  simp only [State.ledgerAppend, h]
  rfl

/-- The ring may wrap at the entry, which moves no more than an event does. -/
theorem ledgerUnit_move {s : State} (hs : s.settings.partitions ≤ 4) (p off : Nat) :
    LedgerMove s ((s.modLedger p Ledger.addUnit).ledgerWrap p off 32) :=
  .trans (t := s.modLedger p Ledger.addUnit) (.of_bare rfl) (ledgerWrap_move (s := s.modLedger p Ledger.addUnit) hs p off 32)

theorem ledgerAppend_move {s : State} (hs : s.settings.partitions ≤ 4) (p : Nat) (ws : List Nat) :
    LedgerMove s (s.ledgerAppend p ws) := by
  cases h : (ledger s p).openAt with
  | none => rw [ledgerAppend_none h]; exact .refl s
  | some a =>
    have hu := ledgerUnit_move hs p (a + 32 * (ledger s p).units)
    rw [ledgerAppend_some h]
    exact hu.trans (ledgerWrite_move (by rw [hu.settings]; exact hs) p _ _)

/-- An entry that lies in HBM puts its bytes there and counts; the event of a wrap may come with it. -/
theorem ledgerAppend_hbm {s : State} (hs : s.settings.partitions ≤ 4) {p a : Nat} {ws : List Nat}
    (h : (ledger s p).openAt = some a) (hl : (ledger s p).late = [])
    (hb : addrOff (ledgerBase s p + (a + 32 * (ledger s p).units) % 2 ^ 32) + (ws.flatMap (leBytes 8)).length ≤ hbmHomed s p)
    (hp : poisonedRange s p (addrOff (ledgerBase s p + (a + 32 * (ledger s p).units) % 2 ^ 32))
      (ws.flatMap (leBytes 8)).length = false) :
    ∃ v w, OnlyEvents (s.modLedger p Ledger.addUnit) v ∧ s.ledgerAppend p ws = v.putBytes
      (key 0 p (addrOff (ledgerBase s p + (a + 32 * (ledger s p).units) % 2 ^ 32))) (ws.flatMap (leBytes 8)) w := by
  rw [ledgerAppend_some h]
  have hmove := ledgerUnit_move hs p (a + 32 * (ledger s p).units)
  have hev := ledgerWrap_onlyEvents (s.modLedger p Ledger.addUnit) p (a + 32 * (ledger s p).units) 32
  generalize (s.modLedger p Ledger.addUnit).ledgerWrap p (a + 32 * (ledger s p).units) 32 = v at hmove hev
  have hlate : (ledger v p).late = [] := by
    rw [ledger, hev.ledgers]
    exact (congrArg Ledger.late (ledger_modLedger s p _)).trans hl
  have hsame : SameAccesses s v := { hev.sameAccesses with }
  rw [← ledgerBase_move hmove p] at hb hp ⊢
  rw [← hbmHomed_congr hsame.settings] at hb
  rw [← hsame.poisonedRange] at hp
  obtain ⟨w, hw⟩ := ledgerWrite_hbm hlate hb hp
  exact ⟨v, w, hev, hw⟩

/-! ### INPUT (R240) -/

/-- The four words of an INPUT's entry (Table TRN-9). -/
def inputWords (c : Cmd) : List Nat :=
  [1 ||| (c.ring <<< 8), fld (ledgerOp c.bits) 79 32, fld (ledgerOp c.bits) 191 128, fld (ledgerOp c.bits) 255 192]

theorem length_inputWords (c : Cmd) : ((inputWords c).flatMap (leBytes 8)).length = 32 := by
  simp [inputWords, length_leBytes]

/-- An open record counts one more INPUT. -/
def Ledger.addInput (l : Ledger) : Ledger := if l.openAt.isSome then { l with inputs := l.inputs + 1 } else l

theorem Ledger.addInput_none {l : Ledger} (h : l.openAt = none) : l.addInput = l := by
  simp [Ledger.addInput, h]

theorem Ledger.addInput_some {l : Ledger} {a : Nat} (h : l.openAt = some a) :
    l.addUnit.addInput = { l with units := l.units + 1, inputs := l.inputs + 1 } := by
  simp [Ledger.addInput, Ledger.addUnit, h]

theorem inputStart_eq (s : State) (c : Cmd) : inputStart s c =
    ((s.ledgerAppend c.part (inputWords c)).modLedger c.part Ledger.addInput).finishCmd c.id := rfl

theorem inputStart_ledger (s : State) (c : Cmd) :
    ledger (inputStart s c) c.part = (ledger (s.ledgerAppend c.part (inputWords c)) c.part).addInput := by
  rw [inputStart_eq, ledger_finishCmd, ledger_modLedger]

theorem inputStart_byte (s : State) (c : Cmd) (b : Nat) :
    (inputStart s c).byte b = (s.ledgerAppend c.part (inputWords c)).byte b := by
  rw [inputStart_eq]
  exact (State.finishCmd_frame _ _).bytes b

/-- With no record open an INPUT only ends. -/
theorem inputStart_closed {u : State} {x : Cmd} (h : (ledger u x.part).openAt = none) :
    CmdFrame { u with ledgers := (inputStart u x).ledgers } (inputStart u x) ∧ ledger (inputStart u x) x.part = ledger u x.part := by
  refine ⟨.of_modLedger (p := x.part) (f := Ledger.addInput) ?_, ?_⟩
  · rw [inputStart_eq, ledgerAppend_none h]
    exact State.finishCmd_frame _ _
  · rw [inputStart_ledger, ledgerAppend_none h, Ledger.addInput_none h]

/-- With one open whose entry lies in HBM, the entry is all that is written. -/
theorem inputStart_hbm {u : State} (hs : u.settings.partitions ≤ 4) {x : Cmd} {a y : Nat}
    (hy : y = addrOff (ledgerBase u x.part + (a + 32 * (ledger u x.part).units) % 2 ^ 32))
    (h : (ledger u x.part).openAt = some a) (hl : (ledger u x.part).late = []) (hb : y + 32 ≤ hbmHomed u x.part)
    (hp : poisonedRange u x.part y 32 = false) :
    (inputStart u x).bytes (key 0 x.part y) 32 = (inputWords x).flatMap (leBytes 8) ∧
    (∀ b, (b < key 0 x.part y ∨ key 0 x.part y + 32 ≤ b) → (inputStart u x).byte b = u.byte b) ∧
    ledger (inputStart u x) x.part =
      { ledger u x.part with units := (ledger u x.part).units + 1, inputs := (ledger u x.part).inputs + 1 } := by
  have hlen := length_inputWords x
  subst hy
  obtain ⟨v, w, hev, hput⟩ := ledgerAppend_hbm (ws := inputWords x) hs h hl (by rw [hlen]; exact hb) (by rw [hlen]; exact hp)
  refine ⟨?_, fun b hout => ?_, ?_⟩
  · have hbytes := bytes_putBytes v (key 0 x.part (addrOff (ledgerBase u x.part + (a + 32 * (ledger u x.part).units) % 2 ^ 32)))
      ((inputWords x).flatMap (leBytes 8)) w
    rw [hlen] at hbytes
    refine Eq.trans ?_ hbytes
    simp only [State.bytes, inputStart_byte, hput]
  · rw [inputStart_byte, hput, byte_putBytes v (by rw [hlen]; exact hout)]
    exact hev.byte b
  · have hv : ledger v x.part = (ledger u x.part).addUnit := by
      rw [ledger, hev.ledgers]
      exact ledger_modLedger u x.part _
    rw [inputStart_ledger, hput, ← Ledger.addInput_some h, ← hv]
    rfl

/-! ### TRN_LEDGER_CTL (R239) -/

/-- The fields of TRN_LEDGER_CTL after a write are those written. -/
theorem writeFields_trnLedgerCtl (old val : Nat) :
    writeFields (fieldsOf .trn Reg.trnLedgerCtl) old val = setFld (setFld old 47 16 (fld val 47 16)) 0 0 (fld val 0 0) := by
  have hf : fieldsOf .trn Reg.trnLedgerCtl = [⟨47, 16, .rw, 0x0, 0, 0xFFFFFFFF⟩, ⟨0, 0, .rw, 0x0, 0, 0x1⟩] := by decide
  have hbase : fld val 47 16 ≤ 0xFFFFFFFF := Nat.le_of_lt_succ (Nat.mod_lt _ (by decide))
  have henable : fld val 0 0 ≤ 1 := Nat.le_of_lt_succ (Nat.mod_lt _ (by decide))
  simp only [hf, writeFields, List.foldl_cons, List.foldl_nil, Field.write, Field.clamp, Nat.not_lt_zero, if_false,
    Nat.not_lt.2 hbase, Nat.not_lt.2 henable]

theorem testBit_zero_eq_fld (w : Nat) : w.testBit 0 = decide (fld w 0 0 = 1) := by
  simp [fld, Nat.testBit_zero]

/-- The ring that a write of TRN_LEDGER_CTL names fits in the range of the page's partition. -/
def ctlFits (s : State) (page : Nat) (val : Word) : Bool := ledgerFits s (ownerOf s page).num (65536 * fld val.toNat 47 16)

/-- ENABLE stays 1. -/
def ctlKeeps (s : State) (page : Nat) (val : Word) : Bool := val.getLsbD 0 && ctlFits s page val

/-- The word that a write of TRN_LEDGER_CTL stores. -/
def ctlWord (s : State) (page : Nat) (val : Word) : Nat :=
  let v := writeFields (fieldsOf .trn Reg.trnLedgerCtl) (s.reg page Reg.trnLedgerCtl) val.toNat
  if val.getLsbD 0 && !ctlFits s page val then setFld v 0 0 0 else v

/-- The ledgers after it: no record stays open where the ledger is off. -/
def ctlLedgers (s : State) (page : Nat) (val : Word) : SMap Ledger :=
  if ctlKeeps s page val then s.ledgers
  else SMap.modify {} s.ledgers (ownerOf s page).num (fun l => { l with openAt := none, late := [] })

theorem writtenCtl_base (old : Nat) (val : Word) :
    fld (writeFields (fieldsOf .trn Reg.trnLedgerCtl) old val.toNat) 47 16 = fld val.toNat 47 16 := by
  rw [writeFields_trnLedgerCtl, fld_setFld_above _ _ _ (by decide) (by decide), fld_setFld, fld, Nat.mod_mod]

theorem writtenCtl_enable (old : Nat) (val : Word) :
    fld (writeFields (fieldsOf .trn Reg.trnLedgerCtl) old val.toNat) 0 0 = if val.getLsbD 0 then 1 else 0 := by
  rw [writeFields_trnLedgerCtl, fld_setFld, BitVec.getLsbD, testBit_zero_eq_fld]
  have h : fld val.toNat 0 0 < 2 := Nat.mod_lt _ (by decide)
  by_cases h1 : fld val.toNat 0 0 = 1
  · simp [h1]
  · simp [show fld val.toNat 0 0 = 0 by omega]

theorem writtenCtl_testBit (old : Nat) (val : Word) :
    (writeFields (fieldsOf .trn Reg.trnLedgerCtl) old val.toNat).testBit 0 = val.getLsbD 0 := by
  rw [testBit_zero_eq_fld, writtenCtl_enable]
  cases val.getLsbD 0 <;> decide

theorem ctlWord_base (s : State) (page : Nat) (val : Word) : fld (ctlWord s page val) 47 16 = fld val.toNat 47 16 := by
  unfold ctlWord
  dsimp only
  split
  · rw [fld_setFld_above _ _ _ (by decide) (by decide), writtenCtl_base]
  · rw [writtenCtl_base]

theorem ctlWord_enable (s : State) (page : Nat) (val : Word) :
    fld (ctlWord s page val) 0 0 = if ctlKeeps s page val then 1 else 0 := by
  unfold ctlWord ctlKeeps
  cases hv : val.getLsbD 0
  · exact (writtenCtl_enable _ val).trans (by rw [hv]; rfl)
  · cases ctlFits s page val
    · exact fld_setFld _ 0
    · exact (writtenCtl_enable _ val).trans (by rw [hv]; rfl)

theorem exec_trnLedgerCtlWrite_other {page : Nat} (h : blkOf page ≠ .trn) (who : Requester) (val : Word) (s : State) :
    exec (.trnLedgerCtlWrite who page val) s = .next s := by
  show execTrnLedgerCtlWrite who page val s = _
  exact if_neg h

/-- What the write stores, what it makes of the ledgers, and the event that it raises where the ring does not fit. -/
theorem exec_trnLedgerCtlWrite {who : Requester} {page : Nat} {s : State} (hs : s.settings.partitions ≤ 4)
    (h : blkOf page = .trn) (ha : accessOf s who page true = .ok) (val : Word) :
    ∃ t, exec (.trnLedgerCtlWrite who page val) s = .next t ∧
      AsideFromEvents { s.setReg page Reg.trnLedgerCtl (ctlWord s page val) with ledgers := ctlLedgers s page val } t ∧
      (val.getLsbD 0 = true → ctlFits s page val = false →
        (t.reg (trnPage s (ownerOf s page).num) Reg.irqStat).testBit 3 = true) := by
  have he : exec (.trnLedgerCtlWrite who page val) s = execTrnLedgerCtlWrite who page val s := rfl
  rw [he, execTrnLedgerCtlWrite, if_pos h]
  simp only [State.onWrite, ha, writtenCtl_testBit, writtenCtl_base]
  change ∃ t, Host.Outcome.next (if (val.getLsbD 0 && !ctlFits s page val) = true then _ else _) = _ ∧ _
  unfold ctlWord ctlLedgers ctlKeeps
  cases hv : val.getLsbD 0
  · exact ⟨_, rfl, .refl _, fun e => absurd e Bool.false_ne_true⟩
  · cases hf : ctlFits s page val
    · exact ⟨_, rfl, State.raise_aside _ _ _ _ hs, fun _ _ => State.raise_bit _ _ 3 _ (by decide) hs⟩
    · exact ⟨_, rfl, .refl _, fun _ e => absurd e (by decide)⟩

/-- A write of what the register then reads is the same write. -/
theorem setReg_mod (s : State) (page reg w : Nat) : s.setReg page reg (w % 2 ^ 64) = s.setReg page reg w := by
  have h : BitVec.ofNat 64 (w % 2 ^ 64) = BitVec.ofNat 64 w := BitVec.eq_of_toNat_eq (by simp)
  rw [State.setReg, State.setReg, h]

theorem AsideFromEvents.ledgers {s t : State} (h : AsideFromEvents s t) : t.ledgers = s.ledgers := OnlyEvents.ledgers h.rest

/-- Beside events, a register and the ledgers read as they were left. -/
theorem AsideFromEvents.ledgerCtl {s t : State} {page w : Nat} {m : SMap Ledger}
    (h : AsideFromEvents { s.setReg page Reg.trnLedgerCtl w with ledgers := m } t) :
    t.reg page Reg.trnLedgerCtl = w % 2 ^ 64 ∧
      AsideFromEvents { s.setReg page Reg.trnLedgerCtl (t.reg page Reg.trnLedgerCtl) with ledgers := t.ledgers } t := by
  have hreg : t.reg page Reg.trnLedgerCtl = w % 2 ^ 64 :=
    (h.regs _ _ (by decide) (by decide) (fun e => absurd e.2 (by decide))).trans (reg_setReg_same s _ _ _ (by decide))
  refine ⟨hreg, ?_⟩
  rw [hreg, setReg_mod, h.ledgers]
  exact h

/-! ### The obligation -/

/-- Settles O26: MODE and INPUT by what their starts make of the ledger, TRN_LEDGER_CTL by the word that it stores. -/
theorem ledgerModeInputAndControl : Obligations.LedgerModeInputAndControl := by
  refine ⟨fun s u k x hs => ⟨fun h => ?_, fun h => ?_⟩, fun s who page val hs _ => ⟨fun hb ha => ?_, fun hb => ?_⟩⟩
  · refine ⟨modeStart u x, congrArg _ (dispatchRow_starts h _), h.finishes hs rfl, ?_, fun q hq => ?_, ?_⟩
    · rw [modeStart, ledger_finishCmd, ledger_modLedger]
    · rw [modeStart, ledger_finishCmd, ledger_modLedger_other u hq]
    · exact .of_modLedger (State.finishCmd_frame _ _)
  · obtain ⟨-, -, -, hset, -, -, hmem⟩ := h.rest
    have hpart : u.settings.partitions ≤ 4 := by rw [hset]; exact sound_partitions hs
    refine ⟨inputStart u x, congrArg _ (dispatchRow_starts h _), ?_, inputStart_closed, fun a ha hl hin hp => ?_⟩
    · exact h.finishes (t := (u.ledgerAppend x.part (inputWords x)).modLedger x.part Ledger.addInput) hs
        (ledgerAppend_move hpart x.part (inputWords x)).cmds
    · obtain ⟨hbase, -, hhbm, -⟩ := h.ledgerPlace x.part 0
      rw [← hhbm] at hin
      rw [← h.poisonedRange] at hp
      obtain ⟨hbytes, hout, hledger⟩ := inputStart_hbm hpart (by rw [hbase]) ha hl hin hp
      have hring := h.ring_eq
      subst hring
      exact ⟨hbytes, fun b hb => (hout b hb).trans (byte_congr hmem b), hledger⟩
  · intro p fits
    obtain ⟨t, ht, hafter, hbit⟩ := exec_trnLedgerCtlWrite (sound_partitions hs) hb ha val
    obtain ⟨hreg, hframe⟩ := hafter.ledgerCtl
    have hledgers : t.ledgers = ctlLedgers s page val := hafter.ledgers
    have hfld (hi lo : Nat) (h : hi < 64) : t.regFld page Reg.trnLedgerCtl hi lo = fld (ctlWord s page val) hi lo := by
      rw [State.regFld, hreg, fld_mod_word _ _ h]
    refine ⟨t, ht, ?_, ?_, hbit, fun (hoff : ctlKeeps s page val = false) => ?_,
      fun (hon : ctlKeeps s page val = true) => ?_, fun q hq => ?_, hframe⟩
    · rw [hfld 47 16 (by decide), ctlWord_base]
    · rw [hfld 0 0 (by decide), ctlWord_enable]
      rfl
    · rw [ledger, hledgers, ctlLedgers, if_neg (Bool.eq_false_iff.1 hoff), SMap.get_modify_same]
      rfl
    · rw [hledgers, ctlLedgers, if_pos hon]
    · rw [ledger, hledgers, ctlLedgers]
      split
      · rfl
      · exact SMap.get_modify_other _ _ _ hq
  · exact exec_trnLedgerCtlWrite_other hb who val s

end Sys2Proof.Machine

/-! ## FETCH, FLUSH, EVICT, DROP, ALLOC and BIND (O22)

FETCH, FLUSH and ALLOC queue work at the tier manager and wait, and BIND changes the bindings. EVICT and DROP mark the frames that
they hold and sweep the tier cache. The sweep also frees the frames that other commands have marked, and ends those commands. Two facts
see the command that starts through it: no step brings a frame, a pin or a request (`Loosened`), and a command goes on waiting until
its own slab is done (`awaits_uncover`). -/

namespace Sys2Proof.Machine

/-! ### Sparse maps -/

/-- The entries after a set are the one set and those of the other keys. -/
theorem SMap.mem_set {α : Type} [DecidableEq α] {d : α} {m : SMap α} {a : Nat} {v : α} {e : Nat × α} (h : e ∈ SMap.set d m a v) :
    e = (a, v) ∨ (e ∈ m ∧ e.1 ≠ a) := by
  have hold (he : e ∈ SMap.erase a m) : e ∈ m ∧ e.1 ≠ a := ⟨(SMap.erase_sublist m a).subset he, SMap.erase_absent m a e he⟩
  unfold SMap.set at h
  split at h
  · exact .inr (hold h)
  · exact ((SMap.mem_insert _ a v e).1 h).imp id hold

theorem SMap.mem_mapVals {α : Type} [DecidableEq α] {d : α} {f : α → α} {m : SMap α} {k : Nat} {w : α}
    (h : (k, w) ∈ SMap.mapVals d f m) : ∃ v, (k, v) ∈ m ∧ w = f v := by
  induction m with
  | nil => cases h
  | cons e m ih =>
    obtain ⟨k', v'⟩ := e
    rcases SMap.mem_set h with he | ⟨he, -⟩
    · cases he
      exact ⟨v', List.mem_cons_self, rfl⟩
    · obtain ⟨v, hv, hw⟩ := ih he
      exact ⟨v, List.mem_cons_of_mem _ hv, hw⟩

theorem SMap.mem_of_get {α : Type} {d v : α} {m : SMap α} {k : Nat} (h : SMap.get d m k = v) (hv : v ≠ d) : (k, v) ∈ m := by
  induction m with
  | nil => exact absurd h.symm hv
  | cons e m ih =>
    obtain ⟨k', v'⟩ := e
    by_cases hk : k = k'
    · rw [SMap.get, if_pos hk] at h
      rw [hk, h]
      exact List.mem_cons_self
    · rw [SMap.get, if_neg hk] at h
      exact List.mem_cons_of_mem _ (ih h)

/-- One value set at every key of a list. -/
theorem SMap.get_setAll {α : Type} [DecidableEq α] (d v : α) (l : List Nat) (m : SMap α) (a : Nat) :
    SMap.get d (l.foldl (fun m n => SMap.set d m n v) m) a = if a ∈ l then v else SMap.get d m a := by
  induction l generalizing m with
  | nil => simp
  | cons n l ih =>
    rw [List.foldl_cons, ih, SMap.get_set]
    by_cases h : a ∈ l
    · simp [h]
    · simp [h]

/-! ### The frame of a slab -/

theorem frameOf_mem {s : State} {p n f : Nat} {g : Frame} (h : frameOf s p n = some (f, g)) :
    (f, some g) ∈ (tier s p).frames ∧ g.slab = n := by
  obtain ⟨⟨k, o⟩, hmem, he⟩ := List.exists_of_findSome?_eq_some h
  cases o with
  | none => cases he
  | some g' =>
    simp only [Option.ite_none_right_eq_some, Option.some.injEq, Prod.mk.injEq] at he
    obtain ⟨hs, rfl, rfl⟩ := he
    exact ⟨hmem, hs⟩

theorem frameOf_eq_none {s : State} {p n : Nat} :
    frameOf s p n = none ↔ ∀ k g, (k, some g) ∈ (tier s p).frames → g.slab ≠ n := by
  constructor
  · intro h k g hmem hn
    have := List.findSome?_eq_none_iff.1 h (k, some g) hmem
    simp [hn] at this
  · intro h
    cases hf : frameOf s p n with
    | none => rfl
    | some e =>
      obtain ⟨hmem, hn⟩ := frameOf_mem hf
      exact absurd hn (h _ _ hmem)

/-! ### The tier manager when a command waits or ends -/

/-- A frame without the pins of a command. -/
def Frame.unpin (id : Nat) (r : Frame) : Frame := { r with pins := r.pins.filter (· != id) }

theorem tier_modTier_other (s : State) {p q : Nat} (h : p ≠ q) (f : Tier → Tier) : tier (s.modTier q f) p = tier s p :=
  SMap.get_modify_other _ _ f h

theorem tier_congr {s t : State} (h : t.tiers = s.tiers) (p : Nat) : tier t p = tier s p := by
  rw [tier, h, tier]

theorem tier_settleWait (s : State) (q p : Nat) : ∃ w, tier (s.settleWait q) p = { tier s p with waitFrom := w } := by
  unfold State.settleWait
  split
  · split
    · exact ⟨_, rfl⟩
    · by_cases h : p = q
      · rw [h, tier_modTier_same]
        exact ⟨_, rfl⟩
      · rw [tier_modTier_other _ h]
        exact ⟨_, rfl⟩
  · exact ⟨_, rfl⟩

theorem State.ctxWakes_tiers (s : State) (n : Nat) : (s.ctxWakes n).tiers = s.tiers := by
  unfold State.ctxWakes
  split
  · exact State.wantCore_field State.tiers (fun _ _ _ => rfl) (fun _ _ _ => rfl) _ _
  · rfl

theorem tier_cmdWakes (s : State) (id p : Nat) : ∃ w, tier (s.cmdWakes id) p = { tier s p with waitFrom := w } := by
  unfold State.cmdWakes
  split
  next c _ =>
    have hctx : ((cmdCtxs s c).foldl State.ctxWakes (s.modCmd id (fun c => { c with wait := .none }))).tiers = s.tiers :=
      foldl_keep State.tiers _ State.ctxWakes_tiers _ _
    obtain ⟨w, hw⟩ := tier_settleWait ((cmdCtxs s c).foldl State.ctxWakes (s.modCmd id (fun c => { c with wait := .none }))) c.part p
    rw [tier_congr hctx] at hw
    refine ⟨w, ?_⟩
    dsimp only
    split
    · exact (tier_congr (foldl_keep State.tiers _ (fun _ _ => by rfl) _ _) p).trans hw
    · exact hw
  next => exact ⟨_, rfl⟩

/-- A tier manager without the pins of a command. -/
def Tier.unpin (id : Nat) (m : Tier) : Tier := { m with frames := SMap.mapVals none (Option.map (Frame.unpin id)) m.frames }

theorem tier_unpin (s : State) (id p : Nat) : tier (s.unpin id) p = (tier s p).unpin id := SMap.get_mapVals _ _ rfl _ _

theorem tier_dropWork (s : State) (id p : Nat) : tier (s.dropWork id) p =
    { (tier s p).unpin id with jobs := (tier s p).jobs.filter (fun j => j.cmd != some id) } := SMap.get_mapVals _ _ rfl _ _

/-- The end of a command takes its pins off the frames; what was queued for it goes unless it is done. -/
theorem tier_endCmd (s : State) (id st p : Nat) : ∃ w, tier (s.endCmd id st) p = { tier s p with waitFrom := w } ∨
    tier (s.endCmd id st) p = { (tier s p).unpin id with
      waitFrom := w, jobs := if st = St.done then (tier s p).jobs else (tier s p).jobs.filter (fun j => j.cmd != some id) } := by
  unfold State.endCmd
  split
  next c _ =>
    split
    · exact ⟨_, .inl rfl⟩
    · obtain ⟨w, hw⟩ := tier_cmdWakes s id p
      have hstir : ((cmdClusters s c.part c.bits).foldl State.stirCluster
          (c.units.foldl State.stirGroup (s.cmdWakes id))).tiers = (s.cmdWakes id).tiers :=
        (foldl_keep State.tiers State.stirCluster (fun _ _ => by rfl) _ _).trans
          (foldl_keep State.tiers State.stirGroup (fun _ _ => by rfl) _ _)
      refine ⟨w, .inr ?_⟩
      rw [← tier_congr hstir] at hw
      dsimp only
      split
      · exact (tier_unpin _ id p).trans (by rw [hw]; rfl)
      · exact (tier_dropWork _ id p).trans (by rw [hw]; rfl)
  next => exact ⟨_, .inl rfl⟩

/-- What taking pins off keeps of a partition's frames, the end of a command keeps. -/
theorem endCmd_keeps_frames {P : SMap (Option Frame) → Prop}
    (hP : ∀ m id, P m → P (SMap.mapVals none (Option.map (Frame.unpin id)) m))
    {s : State} {p : Nat} (h : P (tier s p).frames) (id st : Nat) : P (tier (s.endCmd id st) p).frames := by
  obtain ⟨w, he | he⟩ := tier_endCmd s id st p <;> rw [he]
  · exact h
  · exact hP _ id h

/-! ### A TIER command that waits for slabs -/

/-- The TIER command waits for the slabs of a list. -/
def Cmd.covering (x : Cmd) (l : List Nat) : Cmd := { x with covers := l, wait := .tier }

/-- A TIER command at its start. -/
structure TierCmd (x : Cmd) : Prop where
  status : x.status = none
  late : x.late = none
  cls : envClass x.bits = 6

theorem Starts.tierCmd {a : Bool} {sub k : Nat} {need : State → Cmd → List Nat} {check : State → Cmd → Option Nat} {s u : State}
    {x : Cmd} (h : Starts a 6 sub k need check s u x) (hs : Sound s) : TierCmd x ∧ u.cmd? x.id = some x ∧ cmdSub x.bits = sub := by
  obtain ⟨hx, hst, hlate, hcls, hsub⟩ := h.cmd? hs
  exact ⟨⟨hst, hlate, hcls⟩, hx, hsub⟩

theorem State.checkTier_frame (s : State) (id : Nat) : CmdFrame s (s.checkTier id) := by
  unfold State.checkTier
  split
  · exact .ite (s.finishCmd_frame id) (.refl s)
  · exact .refl s

/-- A check for the end of a TIER command may end it, and does no more. -/
theorem State.checkTier_cases (s : State) (id : Nat) : s.checkTier id = s ∨ ∃ st, s.checkTier id = s.endCmd id st := by
  unfold State.checkTier
  split
  · split
    · exact s.finishCmd_cases id
    · exact .inl rfl
  · exact .inl rfl

theorem State.cmd?_checkTier_other (s : State) {id j : Nat} (h : j ≠ id) : (s.checkTier id).cmd? j = s.cmd? j := by
  rcases s.checkTier_cases id with he | ⟨st, he⟩ <;> rw [he]
  exact s.cmd?_endCmd_other h st

theorem EndedWith.checkTier {s : State} {j st : Nat} (h : EndedWith s j st) (id : Nat) : EndedWith (s.checkTier id) j st := by
  rcases s.checkTier_cases id with he | ⟨st', he⟩ <;> rw [he]
  · exact h
  · exact h.endCmd id st'

section
variable {x : Cmd} (hx : TierCmd x) {t : State}
include hx

/-- With no slab left to wait for it ends with DONE. -/
theorem checkTier_ends (h : t.cmd? x.id = some (x.covering [])) : EndedWith (t.checkTier x.id) x.id St.done := by
  have hend := State.finishCmd_ended h hx.status
  have hlate : (x.covering []).late.getD St.done = St.done := by rw [Cmd.covering, hx.late]; rfl
  rw [hlate] at hend
  simpa [State.checkTier, h, Cmd.covering, hx.cls, hx.status] using hend

end

theorem checkTier_stays {x : Cmd} {t : State} {l : List Nat} (h : t.cmd? x.id = some (x.covering l)) (hl : l ≠ []) :
    t.checkTier x.id = t := by
  simp [State.checkTier, h, Cmd.covering, hl]

/-- The command waits for the slabs of a list, or there were none and it has ended with DONE. -/
def Cmd.AwaitsOrDone (x : Cmd) (l : List Nat) (t : State) : Prop :=
  t.cmd? x.id = some (x.covering l) ∨ (l = [] ∧ EndedWith t x.id St.done)

/-! ### A slab is done -/

/-- A slab is done for one command. -/
def State.uncoverOne (n : Nat) (t : State) (i : Nat) : State :=
  (t.modCmd i (fun c => { c with covers := c.covers.filter (· != n) })).checkTier i

/-- The commands that wait for a slab, of some operations. -/
def State.waitingFor (s : State) (p n : Nat) (ops : List Nat) : List Nat :=
  (s.cmds.filter (fun c => c.part == p && envClass c.bits == 6 && ops.contains (cmdSub c.bits) && c.covers.contains n)).map (·.id)

theorem uncover_eq (s : State) (p n : Nat) (ops : List Nat) :
    s.uncover p n ops = (s.waitingFor p n ops).foldl (State.uncoverOne n) s := rfl

theorem uncover_keeps_frames {P : SMap (Option Frame) → Prop}
    (hP : ∀ m id, P m → P (SMap.mapVals none (Option.map (Frame.unpin id)) m))
    {s : State} {p : Nat} (h : P (tier s p).frames) (q n : Nat) (ops : List Nat) : P (tier (s.uncover q n ops) p).frames := by
  rw [uncover_eq]
  generalize s.waitingFor q n ops = ids
  induction ids generalizing s with
  | nil => exact h
  | cons i ids ih =>
    refine ih ?_
    unfold State.uncoverOne
    rcases State.checkTier_cases (s.modCmd i (fun c => { c with covers := c.covers.filter (· != n) })) i with he | ⟨st, he⟩ <;> rw [he]
    · exact h
    · exact endCmd_keeps_frames hP (s := s.modCmd i _) h i st

theorem EndedWith.uncoverOne {s : State} {j st : Nat} (h : EndedWith s j st) (n i : Nat) : EndedWith (s.uncoverOne n i) j st := by
  refine EndedWith.checkTier ?_ i
  obtain ⟨c, hc, hst⟩ := h
  rw [EndedWith, State.cmd?_modCmd, hc]
  refine ⟨_, rfl, ?_⟩
  dsimp only
  split <;> exact hst

theorem EndedWith.uncoverAll {s : State} {j st : Nat} (h : EndedWith s j st) (n : Nat) (ids : List Nat) :
    EndedWith (ids.foldl (State.uncoverOne n) s) j st := by
  induction ids generalizing s with
  | nil => exact h
  | cons i ids ih => exact ih (h.uncoverOne n i)

theorem uncovered_cmd? {x : Cmd} {t : State} {l : List Nat} (h : t.cmd? x.id = some (x.covering l)) (n : Nat) :
    (t.modCmd x.id (fun c => { c with covers := c.covers.filter (· != n) })).cmd? x.id = some (x.covering (l.filter (· != n))) :=
  State.cmd?_modCmd_same h _

theorem uncoverOne_cmd?_other (t : State) (n : Nat) {i j : Nat} (h : j ≠ i) : (t.uncoverOne n i).cmd? j = t.cmd? j :=
  (State.cmd?_checkTier_other _ h).trans (t.cmd?_modCmd_other h _)

section
variable {x : Cmd} (hx : TierCmd x)
include hx

/-- The last slab that it waits for is done for it. -/
theorem uncoverOne_ends {t : State} {l : List Nat} (h : t.cmd? x.id = some (x.covering l)) {n : Nat} (hl : l.filter (· != n) = []) :
    EndedWith (t.uncoverOne n x.id) x.id St.done := by
  have hc := uncovered_cmd? h n
  rw [hl] at hc
  exact checkTier_ends hx hc

/-- Another slab that is done changes nothing for it. -/
theorem awaits_uncoverOne {t : State} {l : List Nat} {n : Nat} (hn : n ∉ l) (h : x.AwaitsOrDone l t) (i : Nat) :
    x.AwaitsOrDone l (t.uncoverOne n i) := by
  have hkeep : l.filter (· != n) = l := List.filter_eq_self.2 fun m hm => by simpa using ne_of_mem_of_not_mem hm hn
  rcases h with h | ⟨hl, h⟩
  · by_cases hi : x.id = i
    · subst hi
      by_cases hl : l = []
      · exact .inr ⟨hl, uncoverOne_ends hx h (by rw [hkeep, hl])⟩
      · have hc := uncovered_cmd? h n
        rw [hkeep] at hc
        rw [State.uncoverOne, checkTier_stays hc hl]
        exact .inl hc
    · exact .inl ((uncoverOne_cmd?_other t n hi).trans h)
  · exact .inr ⟨hl, h.uncoverOne n i⟩

theorem awaits_uncover {t : State} {l : List Nat} {n : Nat} (hn : n ∉ l) (h : x.AwaitsOrDone l t) (p : Nat) (ops : List Nat) :
    x.AwaitsOrDone l (t.uncover p n ops) := by
  rw [uncover_eq]
  generalize t.waitingFor p n ops = ids
  induction ids generalizing t with
  | nil => exact h
  | cons i ids ih => exact ih (awaits_uncoverOne hx hn h i)

/-- The slab that it waits for is done: it ends with DONE. -/
theorem uncover_ends {t : State} {n : Nat} (h : t.cmd? x.id = some (x.covering [n])) {ops : List Nat} (ho : cmdSub x.bits ∈ ops) :
    EndedWith (t.uncover x.part n ops) x.id St.done := by
  have hin : x.id ∈ t.waitingFor x.part n ops := by
    refine List.mem_map.2 ⟨x.covering [n], List.mem_filter.2 ⟨(State.cmd?_mem h).1, ?_⟩, rfl⟩
    simp [Cmd.covering, hx.cls, ho]
  rw [uncover_eq]
  revert hin
  generalize t.waitingFor x.part n ops = ids
  intro hin
  induction ids generalizing t with
  | nil => cases hin
  | cons i ids ih =>
    by_cases hi : x.id = i
    · subst hi
      exact (uncoverOne_ends hx h (by simp)).uncoverAll n ids
    · exact ih ((uncoverOne_cmd?_other t n hi).trans h) ((List.mem_cons.1 hin).resolve_left hi)

end

/-! ### What a sweep makes of the frames -/

/-- From `s` to `t` no frame of the partition has come, and frames, pins and requests may have gone; bytes outside the frames stay. -/
structure Loosened (p : Nat) (s t : State) : Prop where
  settings : t.settings = s.settings
  reqs : t.reqs.Sublist s.reqs
  frames : ∀ k g, (k, some g) ∈ (tier t p).frames → ∃ l, (k, some { g with pins := l }) ∈ (tier s p).frames ∧ g.pins ⊆ l
  bytes : ∀ a, (∀ k g, (k, some g) ∈ (tier s p).frames → a / 65536 ≠ frameKey s p k / 65536) → t.byte a = s.byte a

theorem frameKey_congr {s t : State} (h : t.settings = s.settings) (p f : Nat) : frameKey t p f = frameKey s p f := by
  rw [frameKey, hbmHomed_congr h, frameKey]

/-- What a command's wait or end may touch, with the frames as they were. -/
theorem Loosened.of_frame {p : Nat} {s t : State} (h : CmdFrame s t) (ht : (tier t p).frames = (tier s p).frames) : Loosened p s t where
  settings := h.settings
  reqs := h.reqs
  frames _ g hg := ⟨g.pins, ht ▸ hg, List.Subset.refl _⟩
  bytes a _ := h.bytes a

theorem Loosened.refl (p : Nat) (s : State) : Loosened p s s := .of_frame (.refl s) rfl

theorem Loosened.trans {p : Nat} {s t u : State} (h : Loosened p s t) (k : Loosened p t u) : Loosened p s u where
  settings := k.settings.trans h.settings
  reqs := k.reqs.trans h.reqs
  frames n g hg := by
    obtain ⟨l, hl, hsub⟩ := k.frames n g hg
    obtain ⟨l', hl', hsub'⟩ := h.frames n _ hl
    exact ⟨l', hl', List.Subset.trans hsub hsub'⟩
  bytes a ha := by
    refine (k.bytes a fun n g hg => ?_).trans (h.bytes a ha)
    obtain ⟨l, hl, -⟩ := h.frames n g hg
    rw [frameKey_congr h.settings]
    exact ha n _ hl

/-- A slab without a frame gets none. -/
theorem Loosened.frameOf_none {p n : Nat} {s t : State} (h : Loosened p s t) (hs : frameOf s p n = none) : frameOf t p n = none := by
  refine frameOf_eq_none.2 fun k g hg => ?_
  obtain ⟨l, hl, -⟩ := h.frames k g hg
  exact frameOf_eq_none.1 hs k { g with pins := l } hl

theorem Loosened.foldl {α : Type} {p : Nat} {f : State → α → State} (hf : ∀ t a, Loosened p t (f t a)) (l : List α) (s : State) :
    Loosened p s (l.foldl f s) := by
  induction l generalizing s with
  | nil => exact .refl p s
  | cons a l ih => exact (hf s a).trans (ih _)

theorem endCmd_loosened (s : State) (p id st : Nat) : Loosened p s (s.endCmd id st) where
  settings := (s.endCmd_frame id st).settings
  reqs := (s.endCmd_frame id st).reqs
  bytes a _ := (s.endCmd_frame id st).bytes a
  frames := by
    refine endCmd_keeps_frames (P := fun m => ∀ k g, (k, some g) ∈ m →
      ∃ l, (k, some { g with pins := l }) ∈ (tier s p).frames ∧ g.pins ⊆ l) (fun m id hm k g hg => ?_)
      (fun k g hg => ⟨g.pins, hg, List.Subset.refl _⟩) id st
    obtain ⟨v, hv, he⟩ := SMap.mem_mapVals hg
    obtain ⟨g₀, rfl, rfl⟩ := Option.map_eq_some_iff.1 he.symm
    obtain ⟨l, hl, hsub⟩ := hm k g₀ hv
    exact ⟨l, hl, List.Subset.trans (List.filter_subset_self _) hsub⟩

theorem checkTier_loosened (s : State) (p id : Nat) : Loosened p s (s.checkTier id) := by
  rcases s.checkTier_cases id with he | ⟨st, he⟩ <;> rw [he]
  · exact .refl p s
  · exact endCmd_loosened s p id st

theorem uncover_loosened (s : State) (p q n : Nat) (ops : List Nat) : Loosened p s (s.uncover q n ops) :=
  .foldl (fun t i => .trans (.of_frame (t.modCmd_frame i _) rfl) (checkTier_loosened _ p i)) _ s

theorem frames_setFrame (s : State) (p f : Nat) (o : Option Frame) :
    (tier (s.setFrame p f o) p).frames = SMap.set none (tier s p).frames f o := by
  rw [State.setFrame, tier_modTier_same]

theorem freeFrameOf_none {s : State} {p n : Nat} (h : frameOf s p n = none) : s.freeFrameOf p n = s := by
  simp only [State.freeFrameOf, h]

theorem freeFrameOf_some {s : State} {p n f : Nat} {g : Frame} (h : frameOf s p n = some (f, g)) :
    s.freeFrameOf p n = (s.freshen (fun k => k / 65536 == frameKey s p f / 65536)).setFrame p f none := by
  simp only [State.freeFrameOf, h]

theorem freeFrameOf_frames {s : State} {p n f : Nat} {g : Frame} (h : frameOf s p n = some (f, g)) :
    (tier (s.freeFrameOf p n) p).frames = SMap.set none (tier s p).frames f none := by
  rw [freeFrameOf_some h, frames_setFrame]
  rfl

theorem freeFrameOf_cmds (s : State) (p n : Nat) : (s.freeFrameOf p n).cmds = s.cmds := by
  unfold State.freeFrameOf
  split <;> rfl

theorem freeFrameOf_loosened (s : State) (p n : Nat) : Loosened p s (s.freeFrameOf p n) := by
  cases h : frameOf s p n with
  | none => rw [freeFrameOf_none h]; exact .refl p s
  | some e =>
    obtain ⟨f, g⟩ := e
    refine ⟨?_, ?_, fun k g' hg => ?_, fun a ha => ?_⟩
    · rw [freeFrameOf_some h]; rfl
    · rw [freeFrameOf_some h]; exact List.Sublist.refl _
    · rw [freeFrameOf_frames h] at hg
      rcases SMap.mem_set hg with he | ⟨hg, -⟩
      · cases he
      · exact ⟨_, hg, List.Subset.refl _⟩
    · have hne := ha f g (frameOf_mem h).1
      rw [freeFrameOf_some h]
      change (s.freshen (fun k => k / 65536 == frameKey s p f / 65536)).byte a = s.byte a
      rw [State.byte_freshen, if_neg (by simpa using hne)]

/-! ### The sweep (R257, R259, R260) -/

/-- What the sweep does at one of the frames that it found. -/
def sweepEntry (p : Nat) (t : State) (e : Nat × Option Frame) : State :=
  match e.2 with
  | none => t
  | some f0 =>
    match frameOf t p f0.slab with
    | none => t
    | some (_, f) =>
      if !f.ready || f.wb || framePinned t p f then t
      else if f.dropAfter || (f.freeAfter && !f.dirty) then (t.freeFrameOf p f.slab).uncover p f.slab [3, 4]
      else if f.freeAfter && !((tier t p).jobs.any (fun j => j.wb && j.slab == f.slab)) then
        t.addJob p { slab := f.slab, cls := 3, wb := true }
      else t

theorem sweepFrames_eq (s : State) (p : Nat) : s.sweepFrames p = (tier s p).frames.foldl (sweepEntry p) s := rfl

/-- A slab's frame is freed, and EVICT and DROP no longer wait for the slab. -/
def State.giveUp (t : State) (p n : Nat) : State := (t.freeFrameOf p n).uncover p n [3, 4]

/-- The sweep passes a frame by, queues its write-back, or frees it. -/
theorem sweepEntry_cases (p : Nat) (t : State) (e : Nat × Option Frame) :
    sweepEntry p t e = t ∨ (∃ j, sweepEntry p t e = t.addJob p j) ∨ ∃ n, sweepEntry p t e = t.giveUp p n := by
  unfold sweepEntry
  split
  · exact .inl rfl
  · split
    · exact .inl rfl
    · split
      · exact .inl rfl
      · split
        · exact .inr (.inr ⟨_, rfl⟩)
        · split
          · exact .inr (.inl ⟨_, rfl⟩)
          · exact .inl rfl

/-- The sweep may free the frame. -/
structure Sweepable (s : State) (p : Nat) (g : Frame) : Prop where
  ready : g.ready = true
  wb : g.wb = false
  unpinned : framePinned s p g = false
  marked : g.dropAfter = true ∨ (g.freeAfter = true ∧ g.dirty = false)

/-- It does, where the slab still has it. -/
theorem sweepEntry_frees {p k f : Nat} {t : State} {g r : Frame} (h : frameOf t p g.slab = some (k, r)) (hr : Sweepable t p r) :
    sweepEntry p t (f, some g) = t.giveUp p g.slab := by
  have hslab := (frameOf_mem h).2
  have hmark : (r.dropAfter || (r.freeAfter && !r.dirty)) = true := by
    rcases hr.marked with h | ⟨h, h'⟩
    · simp [h]
    · simp [h, h']
  simp only [sweepEntry, h, hr.ready, hr.wb, hr.unpinned, hmark, hslab]
  rfl

/-- With fewer pins and requests a frame that may be freed still may. -/
theorem Sweepable.loosened {p : Nat} {s t : State} {g : Frame} {l : List Nat} (h : Sweepable s p { g with pins := l })
    (hl : g.pins ⊆ l) (hr : t.reqs.Sublist s.reqs) : Sweepable t p g where
  ready := h.ready
  wb := h.wb
  marked := h.marked
  unpinned := by
    have hp := h.unpinned
    simp only [framePinned, Bool.or_eq_false_iff, Bool.not_eq_false', List.isEmpty_iff, List.any_eq_false] at hp ⊢
    obtain ⟨rfl, hreq⟩ := hp
    exact ⟨List.subset_nil.1 hl, fun r hr' => hreq r (hr.subset hr')⟩

/-- Frame `f` and no other holds slab `n`, and the sweep may free it. -/
structure HeldFree (p n f : Nat) (t : State) : Prop where
  only : ∀ k g, (k, some g) ∈ (tier t p).frames → (k = f ↔ g.slab = n)
  free : ∀ k g, (k, some g) ∈ (tier t p).frames → g.slab = n → Sweepable t p g
  held : (SMap.get none (tier t p).frames f).isSome = true

namespace HeldFree

variable {p n f : Nat} {s t : State}

theorem loosened (h : HeldFree p n f s) (k : Loosened p s t) (ht : (SMap.get none (tier t p).frames f).isSome = true) :
    HeldFree p n f t where
  held := ht
  only k' g hg := by
    obtain ⟨l, hl, -⟩ := k.frames k' g hg
    exact h.only k' { g with pins := l } hl
  free k' g hg hn := by
    obtain ⟨l, hl, hsub⟩ := k.frames k' g hg
    exact (h.free k' _ hl hn).loosened hsub k.reqs

/-- The frame is among those that a sweep finds. -/
theorem mem (h : HeldFree p n f t) : ∃ g, (f, some g) ∈ (tier t p).frames ∧ g.slab = n := by
  obtain ⟨g, hg⟩ := Option.isSome_iff_exists.1 h.held
  have hm := SMap.mem_of_get hg (Option.some_ne_none g)
  exact ⟨g, hm, (h.only f g hm).1 rfl⟩

theorem frameOf (h : HeldFree p n f t) : ∃ g, frameOf t p n = some (f, g) ∧ Sweepable t p g := by
  obtain ⟨g, hm, hn⟩ := h.mem
  cases hf : Machine.frameOf t p n with
  | none => exact absurd hn (frameOf_eq_none.1 hf f g hm)
  | some e =>
    obtain ⟨k, r⟩ := e
    obtain ⟨hr, hrn⟩ := frameOf_mem hf
    rw [(h.only k r hr).2 hrn]
    exact ⟨r, rfl, h.free k r hr hrn⟩

/-- Freeing the frame leaves the slab without one. -/
theorem freed (h : HeldFree p n f t) : Machine.frameOf (t.freeFrameOf p n) p n = none := by
  obtain ⟨g, hf, -⟩ := h.frameOf
  refine frameOf_eq_none.2 fun k r hr hn => ?_
  rw [freeFrameOf_frames hf] at hr
  rcases SMap.mem_set hr with he | ⟨hr, hk⟩
  · cases he
  · exact hk ((h.only k r hr).2 hn)

/-- Giving up another slab leaves the frame as it was. -/
theorem giveUp_other (h : HeldFree p n f t) {m : Nat} (hm : m ≠ n) : HeldFree p n f (t.giveUp p m) := by
  refine h.loosened ((freeFrameOf_loosened t p m).trans (uncover_loosened _ p p m _)) ?_
  refine uncover_keeps_frames (P := fun c => (SMap.get none c f).isSome = true)
    (fun c id hc => by rw [SMap.get_mapVals _ _ rfl, Option.isSome_map]; exact hc) ?_ p m _
  cases hf : Machine.frameOf t p m with
  | none => rw [freeFrameOf_none hf]; exact h.held
  | some e =>
    obtain ⟨k, g⟩ := e
    obtain ⟨hmem, hg⟩ := frameOf_mem hf
    have hk : f ≠ k := fun e => hm (hg.symm.trans ((h.only k g hmem).1 e.symm))
    rw [freeFrameOf_frames hf, SMap.get_set_other _ _ _ hk]
    exact h.held

end HeldFree

theorem State.addJob_frame (s : State) (p : Nat) (j : TierJob) : CmdFrame s (s.addJob p j) := s.modTier_frame p _

theorem tier_addJob (s : State) (p : Nat) (j : TierJob) : tier (s.addJob p j) p = { tier s p with jobs := (tier s p).jobs ++ [j] } :=
  tier_modTier_same s p _

theorem addJob_loosened (s : State) (p : Nat) (j : TierJob) : Loosened p s (s.addJob p j) :=
  .of_frame (s.addJob_frame p j) (by rw [tier_addJob])

theorem sweepEntry_loosened (p : Nat) (t : State) (e : Nat × Option Frame) : Loosened p t (sweepEntry p t e) := by
  rcases sweepEntry_cases p t e with he | ⟨j, he⟩ | ⟨n, he⟩ <;> rw [he]
  · exact .refl p t
  · exact addJob_loosened t p j
  · exact (freeFrameOf_loosened t p n).trans (uncover_loosened _ p p n _)

theorem sweepFrames_loosened (s : State) (p : Nat) : Loosened p s (s.sweepFrames p) := .foldl (sweepEntry_loosened p) _ s

theorem EndedWith.congr {s t : State} {j st : Nat} (h : EndedWith s j st) (ht : t.cmds = s.cmds) : EndedWith t j st := by
  rwa [EndedWith, State.cmd?_congr ht]

theorem Cmd.AwaitsOrDone.congr {x : Cmd} {l : List Nat} {s t : State} (h : x.AwaitsOrDone l s) (ht : t.cmds = s.cmds) :
    x.AwaitsOrDone l t :=
  h.imp (fun h => (State.cmd?_congr ht _).trans h) (fun ⟨hl, h⟩ => ⟨hl, h.congr ht⟩)

/-- The slab has no frame, and the command has ended with DONE. -/
def GaveUp (x : Cmd) (n : Nat) (t : State) : Prop := frameOf t x.part n = none ∧ EndedWith t x.id St.done

/-- The slab's frame may be freed, and the command waits for that. -/
def AwaitsSweep (x : Cmd) (n f : Nat) (t : State) : Prop := HeldFree x.part n f t ∧ t.cmd? x.id = some (x.covering [n])

theorem EndedWith.sweepEntry {t : State} {j st : Nat} (h : EndedWith t j st) (p : Nat) (e : Nat × Option Frame) :
    EndedWith (sweepEntry p t e) j st := by
  rcases sweepEntry_cases p t e with he | ⟨k, he⟩ | ⟨m, he⟩ <;> rw [he]
  · exact h
  · exact h.congr rfl
  · exact (h.congr (freeFrameOf_cmds t p m)).uncoverAll m _

theorem GaveUp.sweepEntry {x : Cmd} {n : Nat} {t : State} (h : GaveUp x n t) (e : Nat × Option Frame) :
    GaveUp x n (sweepEntry x.part t e) :=
  ⟨(sweepEntry_loosened x.part t e).frameOf_none h.1, h.2.sweepEntry x.part e⟩

theorem GaveUp.sweepEntries {x : Cmd} {n : Nat} {t : State} (h : GaveUp x n t) (l : List (Nat × Option Frame)) :
    GaveUp x n (l.foldl (Machine.sweepEntry x.part) t) := by
  induction l generalizing t with
  | nil => exact h
  | cons e l ih => exact ih (h.sweepEntry e)

section
variable {x : Cmd} (hx : TierCmd x)
include hx

/-- A command that waits for no slab goes through the sweep unhurt, but that it may end with DONE. -/
theorem awaits_sweepFrames {t : State} (h : x.AwaitsOrDone [] t) (p : Nat) : x.AwaitsOrDone [] (t.sweepFrames p) := by
  rw [sweepFrames_eq]
  generalize (tier t p).frames = l
  induction l generalizing t with
  | nil => exact h
  | cons e l ih =>
    refine ih ?_
    rcases sweepEntry_cases p t e with he | ⟨j, he⟩ | ⟨m, he⟩ <;> rw [he]
    · exact h
    · exact h.congr rfl
    · exact awaits_uncover hx List.not_mem_nil (h.congr (freeFrameOf_cmds t p m)) p _

variable (hop : cmdSub x.bits ∈ [3, 4])
include hop

theorem AwaitsSweep.giveUp {n f : Nat} {t : State} (h : AwaitsSweep x n f t) : GaveUp x n (t.giveUp x.part n) :=
  ⟨(uncover_loosened _ x.part x.part n _).frameOf_none h.1.freed,
    uncover_ends hx ((State.cmd?_congr (freeFrameOf_cmds t x.part n) _).trans h.2) hop⟩

/-- At any frame the command goes on waiting, or has what it waited for. -/
theorem AwaitsSweep.sweepEntry {n f : Nat} {t : State} (h : AwaitsSweep x n f t) (e : Nat × Option Frame) :
    AwaitsSweep x n f (sweepEntry x.part t e) ∨ GaveUp x n (sweepEntry x.part t e) := by
  rcases sweepEntry_cases x.part t e with he | ⟨j, he⟩ | ⟨m, he⟩ <;> rw [he]
  · exact .inl h
  · have hframes := congrArg Tier.frames (tier_addJob t x.part j)
    exact .inl ⟨h.1.loosened (addJob_loosened t x.part j) (by rw [hframes]; exact h.1.held), h.2⟩
  · by_cases hm : m = n
    · rw [hm]
      exact .inr (h.giveUp hx hop)
    · have hcmd : (t.freeFrameOf x.part m).cmd? x.id = some (x.covering [n]) :=
        (State.cmd?_congr (freeFrameOf_cmds t x.part m) _).trans h.2
      rcases awaits_uncover hx (by simpa using hm) (.inl hcmd) x.part [3, 4] with hc | ⟨hl, -⟩
      · exact .inl ⟨h.1.giveUp_other hm, hc⟩
      · cases hl

/-- At the slab's frame it has. -/
theorem AwaitsSweep.sweepEntry_own {n f k : Nat} {t : State} {g : Frame} (h : AwaitsSweep x n f t) (hg : g.slab = n) :
    GaveUp x n (Machine.sweepEntry x.part t (k, some g)) := by
  obtain ⟨r, hf, hr⟩ := h.1.frameOf
  subst hg
  rw [sweepEntry_frees hf hr]
  exact h.giveUp hx hop

theorem AwaitsSweep.sweepFrames {n f : Nat} {t : State} (h : AwaitsSweep x n f t) : GaveUp x n (t.sweepFrames x.part) := by
  obtain ⟨g, hmem, hg⟩ := h.1.mem
  rw [sweepFrames_eq]
  revert hmem
  generalize (tier t x.part).frames = l
  intro hmem
  induction l generalizing t with
  | nil => cases hmem
  | cons e l ih =>
    rcases List.mem_cons.1 hmem with rfl | hmem
    · exact (h.sweepEntry_own hx hop hg).sweepEntries l
    · rcases h.sweepEntry hx hop e with hw | hd
      · exact ih hw hmem
      · exact hd.sweepEntries l

end

/-! ### Waiting -/

/-- The command begins to wait for the slabs of a list. -/
def State.awaitSlabs (s : State) (id : Nat) (l : List Nat) : State :=
  (s.modCmd id (fun d => { d with covers := l })).cmdWaits id .tier

theorem awaitSlabs_cmd? {u t : State} {x : Cmd} (hx : u.cmd? x.id = some x) (ht : t.cmds = u.cmds) (l : List Nat) :
    (t.awaitSlabs x.id l).cmd? x.id = some (x.covering l) :=
  State.cmd?_cmdWaits (State.cmd?_modCmd_same ((State.cmd?_congr ht _).trans hx) _) _

theorem awaitSlabs_tiers (s : State) (id : Nat) (l : List Nat) : (s.awaitSlabs id l).tiers = s.tiers := State.cmdWaits_tiers _ _ _

theorem awaitSlabs_frame (s : State) (id : Nat) (l : List Nat) : CmdFrame s (s.awaitSlabs id l) :=
  (s.modCmd_frame id _).trans (State.cmdWaits_frame _ _ _)

/-! ### EVICT and DROP (R257, R259, R260) -/

/-- The held frames are marked, and the command waits until they are free. -/
def giveUpStart (mark : Frame → Frame) (s : State) (c : Cmd) : State :=
  let held := (tierRange c.bits).filter (fun n => (frameOf s c.part n).isSome)
  let t := held.foldl (fun t n => t.modFrame c.part n mark) s
  ((t.awaitSlabs c.id held).sweepFrames c.part).checkTier c.id

theorem dropStart_eq (s : State) (c : Cmd) : dropStart s c = giveUpStart (fun f => { f with dropAfter := true }) s c := rfl

theorem evictStart_clean {s : State} {c : Cmd} (h : dirtyIn s c = []) :
    evictStart s c = giveUpStart (fun f => { f with freeAfter := true }) s c := by
  simp only [evictStart, h]
  rfl

theorem evictStart_faulted {s : State} {c : Cmd} (h : ∃ n ∈ dirtyIn s c, bridgeFaulted s (bridgeOf s c.part n) = true) :
    evictStart s c = s.endCmd c.id St.tierUnreachable := if_pos (List.any_eq_true.2 h)

theorem modFrame_some {s : State} {p n f : Nat} {g : Frame} (h : frameOf s p n = some (f, g)) (mark : Frame → Frame) :
    s.modFrame p n mark = s.setFrame p f (some (mark g)) := by
  simp only [State.modFrame, h]

theorem dirtyIn_nil {s : State} {c : Cmd} (h : ∀ n ∈ tierRange c.bits, ∀ f g, frameOf s c.part n = some (f, g) → g.dirty = false) :
    dirtyIn s c = [] := by
  refine List.filter_eq_nil_iff.2 fun n hn => ?_
  cases hf : frameOf s c.part n with
  | none => exact Bool.false_ne_true
  | some e => simp [h n hn e.1 e.2 hf]

/-- The frames after one of them is marked. -/
theorem marked_mem {u v : State} {p f k : Nat} {r g : Frame} (hv : (tier v p).frames = SMap.set none (tier u p).frames f (some r))
    (h : (k, some g) ∈ (tier v p).frames) : (k = f ∧ g = r) ∨ (k ≠ f ∧ (k, some g) ∈ (tier u p).frames) := by
  rw [hv] at h
  rcases SMap.mem_set h with he | ⟨hm, hk⟩
  · cases he
    exact .inl ⟨rfl, rfl⟩
  · exact .inr ⟨hk, hm⟩

/-- The one frame of a slab, once its mark lets the sweep free it. -/
theorem HeldFree.of_marked {u v : State} {p n f : Nat} {r : Frame} (hv : (tier v p).frames = SMap.set none (tier u p).frames f (some r))
    (hr : r.slab = n) (hone : ∀ k g, (k, some g) ∈ (tier u p).frames → g.slab = n → k = f) (hfree : Sweepable v p r) :
    HeldFree p n f v where
  held := by rw [hv, SMap.get_set_same]; rfl
  only k g h := by
    rcases marked_mem hv h with ⟨rfl, rfl⟩ | ⟨hk, hm⟩
    · exact iff_of_true rfl hr
    · exact iff_of_false hk fun hn => hk (hone k g hm hn)
  free k g h hn := by
    rcases marked_mem hv h with ⟨-, rfl⟩ | ⟨hk, hm⟩
    · exact hfree
    · exact absurd (hone k g hm hn) hk

section
variable {x : Cmd} (hx : TierCmd x) {u : State} (hu : u.cmd? x.id = some x)
include hx hu

/-- With no frame in the range there is nothing to wait for. -/
theorem giveUpStart_ends (h : ∀ n ∈ tierRange x.bits, frameOf u x.part n = none) (mark : Frame → Frame) :
    EndedWith (giveUpStart mark u x) x.id St.done := by
  have hheld : (tierRange x.bits).filter (fun n => (frameOf u x.part n).isSome) = [] :=
    List.filter_eq_nil_iff.2 fun n hn => by simp [h n hn]
  simp only [giveUpStart, hheld]
  rcases awaits_sweepFrames hx (.inl (awaitSlabs_cmd? (t := u) hu rfl [])) x.part with hc | ⟨-, hend⟩
  · exact checkTier_ends hx hc
  · exact hend.checkTier x.id

variable (hop : cmdSub x.bits ∈ [3, 4])
include hop

/-- The one frame of a slab, once it is marked and may be freed, is freed, and the command ends. -/
theorem giveUpStart_frees {n f : Nat} {g : Frame} {mark : Frame → Frame} (hr : tierRange x.bits = [n])
    (hf : frameOf u x.part n = some (f, g)) (hone : ∀ k r, (k, some r) ∈ (tier u x.part).frames → r.slab = n → k = f)
    (hslab : (mark g).slab = n) (hmark : Sweepable u x.part (mark g)) :
    GaveUp x n (giveUpStart mark u x) ∧
      ∀ a, (∀ e ∈ (tier u x.part).frames, a / 65536 ≠ frameKey u x.part e.1 / 65536) →
        (giveUpStart mark u x).byte a = u.byte a := by
  have hheld : (tierRange x.bits).filter (fun n => (frameOf u x.part n).isSome) = [n] := by simp [hr, hf]
  simp only [giveUpStart, hheld, List.foldl_cons, List.foldl_nil, modFrame_some hf]
  have hframe : CmdFrame u ((u.setFrame x.part f (some (mark g))).awaitSlabs x.id [n]) :=
    (u.modTier_frame x.part _).trans (awaitSlabs_frame _ _ _)
  have htier : (tier ((u.setFrame x.part f (some (mark g))).awaitSlabs x.id [n]) x.part).frames =
      SMap.set none (tier u x.part).frames f (some (mark g)) := by
    rw [tier_congr (awaitSlabs_tiers _ _ _), frames_setFrame]
  have hcmd : ((u.setFrame x.part f (some (mark g))).awaitSlabs x.id [n]).cmd? x.id = some (x.covering [n]) :=
    awaitSlabs_cmd? (t := u.setFrame x.part f (some (mark g))) hu rfl [n]
  generalize (u.setFrame x.part f (some (mark g))).awaitSlabs x.id [n] = v at hframe htier hcmd
  have hfree : Sweepable v x.part (mark g) := hmark.loosened (l := (mark g).pins) (List.Subset.refl _) hframe.reqs
  have hwait : AwaitsSweep x n f v := ⟨.of_marked htier hslab hone hfree, hcmd⟩
  obtain ⟨hnone, hend⟩ := hwait.sweepFrames hx hop
  have hcheck := checkTier_loosened (v.sweepFrames x.part) x.part x.id
  refine ⟨⟨hcheck.frameOf_none hnone, hend.checkTier x.id⟩, fun a ha => ?_⟩
  have hsweep := ((sweepFrames_loosened v x.part).trans hcheck).bytes a fun k r h => ?_
  · exact hsweep.trans (hframe.bytes a)
  · rw [frameKey_congr hframe.settings]
    rcases marked_mem htier h with ⟨rfl, -⟩ | ⟨-, hm⟩
    · exact ha _ (frameOf_mem hf).1
    · exact ha _ hm

end

/-! ### FETCH, FLUSH and ALLOC (R253, R254, R257, R259) -/

theorem fetchStart_frame (s : State) (c : Cmd) : CmdFrame s (fetchStart s c) := by
  have hq : CmdFrame s (((tierRange c.bits).filter (fun n => !resident s c.part n)).foldl
      (fun t n => t.queueFetch c.part n 3 (some c.id)) s) := .foldl _ (fun t n => t.queueFetch_frame _ n _ _) _ s
  unfold fetchStart
  refine .ite (s.endCmd_frame _ _) (.ite (hq.trans (State.finishCmd_frame _ _)) ?_)
  exact ((hq.trans (State.modTier_frame _ _ _)).trans (State.modCmd_frame _ _ _)).trans (State.cmdWaits_frame _ _ _)

theorem fetchStart_resident {s : State} {c : Cmd} (h : (tierRange c.bits).filter (fun n => !resident s c.part n) = []) :
    fetchStart s c = s.finishCmd c.id := by
  simp only [fetchStart, h]
  rfl

theorem fetchStart_unreachable {s : State} {c : Cmd}
    (h : ∃ n ∈ (tierRange c.bits).filter (fun n => !resident s c.part n), unreachable s c.part n = true) :
    fetchStart s c = s.endCmd c.id St.tierUnreachable := if_pos (List.any_eq_true.2 h)

/-- The missing slabs are fetched, and the command waits on slab-ready. -/
theorem fetchStart_waits {u : State} {x : Cmd} (hu : u.cmd? x.id = some x) {gone : List Nat}
    (hgone : (tierRange x.bits).filter (fun n => !resident u x.part n) = gone) (hne : gone ≠ [])
    (h : ∀ n ∈ gone, unreachable u x.part n = false) :
    (fetchStart u x).cmd? x.id = some { x with covers := gone, wait := .slabReady u.now } ∧
      ∀ n ∈ gone, (frameOf u x.part n).isSome = true ∨ Fetching (fetchStart u x) x.part n := by
  have hno : ¬gone.any (unreachable u x.part) = true := by simpa using h
  have hsome : ¬gone.isEmpty = true := by simpa using hne
  unfold fetchStart
  dsimp only
  rw [hgone, if_neg hno, if_neg hsome]
  obtain ⟨-, -, hnew⟩ := queueFetches_fetches x.part 3 (some x.id) gone u
  have hcmds := State.queueFetches_cmds x.part 3 (some x.id) gone u
  generalize gone.foldl (fun t n => t.queueFetch x.part n 3 (some x.id)) u = t at hnew hcmds
  have hcmd (f : Tier → Tier) : (t.modTier x.part f).cmd? x.id = some x := (State.cmd?_congr hcmds x.id).trans hu
  refine ⟨State.cmd?_cmdWaits (State.cmd?_modCmd_same (hcmd _) _) _, fun n hn => ?_⟩
  cases hf : frameOf u x.part n with
  | some e => exact .inl rfl
  | none =>
    refine .inr ((hnew n hn hf).congr ?_)
    rw [tier_congr (State.cmdWaits_tiers _ _ _)]
    have hjobs := congrArg Tier.jobs (tier_modTier_same t x.part (fun m => { m with waitFrom := some (m.waitFrom.getD u.now) }))
    exact hjobs

/-- A write-back of the slab is queued. -/
def WritingBack (s : State) (p n : Nat) : Prop := ∃ j ∈ (tier s p).jobs, j.slab = n ∧ j.wb = true

/-- Queueing a write-back keeps the others. -/
theorem queueWb_queues (s : State) (p n id : Nat) :
    (∀ m, WritingBack s p m → WritingBack (s.queueWb p n id) p m) ∧ WritingBack (s.queueWb p n id) p n := by
  unfold State.queueWb
  split
  next h =>
    obtain ⟨j, hj, hn⟩ := List.any_eq_true.1 h
    simp only [Bool.and_eq_true, beq_iff_eq] at hn
    exact ⟨fun _ h => h, j, hj, hn.2, hn.1⟩
  next =>
    unfold WritingBack
    rw [tier_addJob]
    exact ⟨fun m ⟨j, hj, hm⟩ => ⟨j, List.mem_append_left _ hj, hm⟩,
      _, List.mem_append_right _ (List.mem_singleton_self _), rfl, rfl⟩

theorem queueWbs_queue (p id : Nat) (l : List Nat) (s : State) :
    (∀ m, WritingBack s p m → WritingBack (l.foldl (fun t n => t.queueWb p n id) s) p m) ∧
      ∀ n ∈ l, WritingBack (l.foldl (fun t n => t.queueWb p n id) s) p n := by
  induction l generalizing s with
  | nil => exact ⟨fun _ h => h, fun _ h => absurd h List.not_mem_nil⟩
  | cons n l ih =>
    obtain ⟨hkeep, hnew⟩ := queueWb_queues s p n id
    obtain ⟨hkeeps, hnews⟩ := ih (s.queueWb p n id)
    refine ⟨fun m h => hkeeps m (hkeep m h), fun m hm => ?_⟩
    rcases List.mem_cons.1 hm with rfl | hm
    · exact hkeeps m hnew
    · exact hnews m hm

theorem State.queueWb_frame (s : State) (p n id : Nat) : CmdFrame s (s.queueWb p n id) := .ite (.refl s) (s.addJob_frame p _)

theorem State.queueWb_cmds (s : State) (p n id : Nat) : (s.queueWb p n id).cmds = s.cmds := by
  unfold State.queueWb
  split <;> rfl

theorem flushStart_faulted {s : State} {c : Cmd} (h : ∃ n ∈ dirtyIn s c, bridgeFaulted s (bridgeOf s c.part n) = true) :
    flushStart s c = s.endCmd c.id St.tierUnreachable := if_pos (List.any_eq_true.2 h)

theorem flushStart_queues {s : State} {c : Cmd} (h : ∀ n ∈ dirtyIn s c, bridgeFaulted s (bridgeOf s c.part n) = false) :
    flushStart s c = (((dirtyIn s c).foldl (fun t n => t.queueWb c.part n c.id) s).awaitSlabs c.id (dirtyIn s c)).checkTier c.id :=
  if_neg (by simpa using h)

theorem flushStart_frame (s : State) (c : Cmd) : CmdFrame s (flushStart s c) := by
  have hq : CmdFrame s ((dirtyIn s c).foldl (fun t n => t.queueWb c.part n c.id) s) := .foldl _ (fun t n => t.queueWb_frame _ n _) _ s
  exact .ite (s.endCmd_frame _ _) ((hq.trans (awaitSlabs_frame _ c.id (dirtyIn s c))).trans (State.checkTier_frame _ _))

theorem flushStart_ends {x : Cmd} (hx : TierCmd x) {u : State} (hu : u.cmd? x.id = some x) (h : dirtyIn u x = []) :
    EndedWith (flushStart u x) x.id St.done := by
  rw [flushStart_queues (by simp [h]), h]
  exact checkTier_ends hx (awaitSlabs_cmd? hu rfl [])

theorem flushStart_waits {x : Cmd} {u : State} (hu : u.cmd? x.id = some x) (hne : dirtyIn u x ≠ [])
    (h : ∀ n ∈ dirtyIn u x, bridgeFaulted u (bridgeOf u x.part n) = false) :
    (flushStart u x).cmd? x.id = some (x.covering (dirtyIn u x)) ∧ ∀ n ∈ dirtyIn u x, WritingBack (flushStart u x) x.part n := by
  have hcmd := awaitSlabs_cmd? hu (foldl_keep State.cmds _ (fun t n => t.queueWb_cmds x.part n x.id) (dirtyIn u x) u) (dirtyIn u x)
  rw [flushStart_queues h, checkTier_stays hcmd hne]
  refine ⟨hcmd, fun n hn => ?_⟩
  rw [WritingBack, tier_congr (awaitSlabs_tiers _ _ _)]
  exact (queueWbs_queue x.part x.id (dirtyIn u x) u).2 n hn

theorem tier_addJobs (p : Nat) (job : Nat → TierJob) (l : List Nat) (s : State) :
    tier (l.foldl (fun t n => t.addJob p (job n)) s) p = { tier s p with jobs := (tier s p).jobs ++ l.map job } := by
  induction l generalizing s with
  | nil => simp
  | cons n l ih => rw [List.foldl_cons, ih, tier_addJob, List.map_cons, List.append_assoc, List.singleton_append]

/-- The work of an ALLOC for one slab. -/
def allocJob (id n : Nat) : TierJob := { slab := n, cls := 3, alloc := true, cmd := some id }

theorem allocStart_eq (s : State) (c : Cmd) : allocStart s c =
    ((tierRange c.bits).foldl (fun t n => t.addJob c.part (allocJob c.id n)) s).awaitSlabs c.id (tierRange c.bits) := rfl

/-! ### BIND (R259, R265) -/

/-- The codec table that a BIND gives its slabs. -/
def boundTable (b : CmdBits) : Option Nat := if tierTable b = 255 then none else some (tierTable b)

/-- A tier manager after each slab of a list is bound. -/
def Tier.bindSlabs (l : List Nat) (v : Option Nat) (m : Tier) : Tier := { m with bound := l.foldl (fun m n => SMap.set none m n v) m.bound }

theorem tierBindStart_eq (s : State) (c : Cmd) : tierBindStart s c =
    (s.modTier c.part (Tier.bindSlabs (tierRange c.bits) (boundTable c.bits))).finishCmd c.id := rfl

/-- The bindings of the slabs in the range change; storage and the queue stay. -/
theorem tierBindStart_tier {x : Cmd} (hx : TierCmd x) {u : State} (hu : u.cmd? x.id = some x) :
    (∀ n, SMap.get none (tier (tierBindStart u x) x.part).bound n =
      if n ∈ tierRange x.bits then boundTable x.bits else SMap.get none (tier u x.part).bound n) ∧
    (tier (tierBindStart u x) x.part).slabs = (tier u x.part).slabs ∧
    (tier (tierBindStart u x) x.part).jobs = (tier u x.part).jobs := by
  have hend := State.finishCmd_eq (u.modTier x.part (Tier.bindSlabs (tierRange x.bits) (boundTable x.bits))) x.id x hu hx.late
  have htier := tier_endCmd (u.modTier x.part (Tier.bindSlabs (tierRange x.bits) (boundTable x.bits))) x.id St.done x.part
  rw [tierBindStart_eq, hend]
  obtain ⟨w, he | he⟩ := htier <;> rw [he, tier_modTier_same]
  · exact ⟨fun n => SMap.get_setAll none _ _ _ n, rfl, rfl⟩
  · exact ⟨fun n => SMap.get_setAll none _ _ _ n, rfl, rfl⟩

/-! ### The obligation -/

/-- Settles O22: each start by the work that it queues, and EVICT and DROP by the sweep. -/
theorem tierCommands : Obligations.TierCommands := by
  intro s u k x hs
  refine ⟨fun h => ?_, fun h => ?_, fun h => ?_, fun h => ?_, fun h => ?_, fun h => ?_⟩ <;> obtain ⟨hx, hu, hsub⟩ := h.tierCmd hs
  · refine ⟨fetchStart u x, congrArg _ (dispatchRow_starts h _), fetchStart_frame u x, fun hg => ?_, fun hg => ?_, fun hne hg => ?_⟩
    · rw [fetchStart_resident hg]
      exact h.finishes hs rfl
    · rw [fetchStart_unreachable hg]
      exact State.endCmd_ended u x.id _ x hu hx.status
    · obtain ⟨hcmd, hfetch⟩ := fetchStart_waits hu rfl hne hg
      exact ⟨⟨_, hcmd, hx.status, rfl, rfl⟩, hfetch⟩
  · refine ⟨flushStart u x, congrArg _ (dispatchRow_starts h _), flushStart_frame u x, flushStart_ends hx hu, fun hd => ?_,
      fun hne hd => ?_⟩
    · rw [flushStart_faulted hd]
      exact State.endCmd_ended u x.id _ x hu hx.status
    · obtain ⟨hcmd, hwb⟩ := flushStart_waits hu hne hd
      exact ⟨⟨_, hcmd, hx.status, rfl, rfl⟩, hwb⟩
  · refine ⟨evictStart u x, congrArg _ (dispatchRow_starts h _), fun hd => ?_, fun hn => ?_, ?_⟩
    · rw [evictStart_faulted hd]
      exact ⟨State.endCmd_ended u x.id _ x hu hx.status, u.endCmd_frame _ _⟩
    · rw [evictStart_clean (dirtyIn_nil fun n hn' f g hf => absurd hf (by simp [hn n hn']))]
      exact giveUpStart_ends hx hu hn _
    · rintro n f fr ⟨hr, hf, hready, hwb, hpin, hone⟩ hclean
      rw [evictStart_clean (dirtyIn_nil fun m hm f' g hf' => ?_)]
      · obtain ⟨⟨hnone, hend⟩, hbytes⟩ := giveUpStart_frees hx hu (by simp [hsub])
          (mark := fun f => { f with freeAfter := true }) hr hf (fun k r hm hn => hone (k, some r) hm r rfl hn)
          (frameOf_mem hf).2 ⟨hready, hwb, hpin, .inr ⟨rfl, hclean⟩⟩
        exact ⟨hnone, hend, hbytes⟩
      · rw [hr] at hm
        rw [List.mem_singleton.1 hm, hf] at hf'
        cases hf'
        exact hclean
  · refine ⟨dropStart u x, congrArg _ (dispatchRow_starts h _), fun hn => ?_, ?_⟩
    · rw [dropStart_eq]
      exact giveUpStart_ends hx hu hn _
    · rintro n f fr ⟨hr, hf, hready, hwb, hpin, hone⟩
      obtain ⟨⟨hnone, hend⟩, hbytes⟩ := giveUpStart_frees hx hu (by simp [hsub])
          (mark := fun f => { f with dropAfter := true }) hr hf (fun k r hm hn => hone (k, some r) hm r rfl hn)
          (frameOf_mem hf).2 ⟨hready, hwb, hpin, .inl rfl⟩
      exact ⟨hnone, hend, hbytes⟩
  · refine ⟨allocStart u x, congrArg _ (dispatchRow_starts h _), ?_, ⟨x.covering (tierRange x.bits), ?_, hx.status, rfl, rfl⟩, ?_⟩
    · exact (CmdFrame.foldl _ (fun t n => t.addJob_frame _ _) _ u).trans (awaitSlabs_frame _ _ _)
    · exact awaitSlabs_cmd? hu (foldl_keep State.cmds _ (fun _ _ => by rfl) _ _) _
    · rw [allocStart_eq, tier_congr (awaitSlabs_tiers _ _ _), tier_addJobs]
      rfl
  · obtain ⟨hbound, hslabs, hjobs⟩ := tierBindStart_tier hx hu
    refine ⟨tierBindStart u x, congrArg _ (dispatchRow_starts h _), (u.modTier_frame _ _).trans (State.finishCmd_frame _ _),
      h.finishes hs rfl, fun n hn => ?_, fun n hn => ?_, hslabs, hjobs⟩
    · exact (hbound n).trans (if_pos hn)
    · exact (hbound n).trans (if_neg hn)

end Sys2Proof.Machine
